-- ==== Sys2Proof/Word.lean ====
section
/-! DEFINITION. The word types of the Olnas (00 R5, R8; 02 R9, R16). -/

namespace Sys2Proof

/-- A 64-bit word: a scalar register, an address as computed, a descriptor's doubleword (R9). -/
abbrev Word := BitVec 64

/-- One 32-bit lane of a vector register (R91). -/
abbrev Lane := BitVec 32

/-- One byte of memory. -/
abbrev Byte := BitVec 8

/-- A label: bit n stands for owner slot n of the context (R16). -/
abbrev Label := BitVec 16

/-- An index into the label table L0 to L15 (R17). -/
abbrev LIdx := BitVec 4

/-- A scalar register's number, S0 to S63 (R35). -/
abbrev SNum := BitVec 6

/-- A vector register's number, V0 to V127 (R35). -/
abbrev VNum := BitVec 7

/-- A 16-bit immediate field (R36). -/
abbrev Imm16 := BitVec 16

/-- The public label (R16). -/
abbrev Label.none : Label := 0#16

/-- Join of labels: bitwise OR (R16). -/
abbrev Label.join (a b : Label) : Label := a ||| b

/-- `Label.dom a b`: `a` dominates `b`, every bit of `b` is set in `a` (R16). -/
abbrev Label.dom (a b : Label) : Bool := (b &&& ~~~a) == 0#16

end Sys2Proof
end

