-- ==== Sys2Proof/Syntax.lean ====
section
/-! DEFINITION. The instruction set and the steps of the Olnas: one constructor of `Instr` for each row of
spec/opcode_table.json. The first 159 rows are instruction words (03); the other 111 are steps that no word encodes
(95): engine work, timers, host commands, resets, attestation and migration. A step's constructor carries the data
that the outside party or the engine brings to it. -/

namespace Sys2Proof

/-- Element types of MODE.TYPE, in the order of their codes 0x0 to 0xC (02 R12). -/
inductive ETy where
  | i8 | i16 | i32 | i64 | n8 | n16 | n32 | n64 | f16 | bf16 | f32 | f64 | q64
  deriving DecidableEq, Repr

/-- Conditions of `scmp` (04 R69). -/
inductive Cond where
  | eq | ne | lt | le | gt | ge
  deriving DecidableEq, Repr

/-- Conditions of `vcmp` (07 R141): codes 0 to 7. -/
inductive VCond where
  | eq | ne | lt | le | gt | ge | un | ord
  deriving DecidableEq, Repr

/-- Load widths, the codes 0 to 5 of x (03 R48). -/
inductive LdW where
  | n8 | n16 | b32 | b64 | i8 | i16
  deriving DecidableEq, Repr

/-- Store widths, the codes 0 to 3 of x (03 R48). -/
inductive StW where
  | b8 | b16 | b32 | b64
  deriving DecidableEq, Repr

/-- Scopes, codes 0 to 5 (03 R53, 10 R178). -/
inductive Scope where
  | warp | block | gang | die | dev | sys
  deriving DecidableEq, Repr

/-- Fence kinds, codes 0 to 3 (11 R196). -/
inductive FenceK where
  | both | acq | rel | sc
  deriving DecidableEq, Repr

/-- Shuffle modes, codes 0 to 3 (07 R145). -/
inductive ShflM where
  | idx | xor | up | down
  deriving DecidableEq, Repr

/-- Reduction and scan operations, codes 0 to 5 (07 R148). -/
inductive RedOp where
  | add | min | max | and | or | xor
  deriving DecidableEq, Repr

/-- Atomic operations, codes 0 to 7 (03 R54). -/
inductive AtomOp where
  | add | min | max | and | or | xor | exch | cas
  deriving DecidableEq, Repr

/-- Conditions of `mwait`, codes 0 to 2 (11 R197). -/
inductive WaitC where
  | ge | ne | eq
  deriving DecidableEq, Repr

/-- Cache levels of `sprf` and `cinv`, codes 0 to 2 (03 R53, R58). -/
inductive Level where
  | l1 | l2 | llc
  deriving DecidableEq, Repr

/-- Actions of `rhint`, codes 0 to 2 (11 R198). -/
inductive HintA where
  | keep | evict | stream
  deriving DecidableEq, Repr

/-- Element sizes of `vcpy`, codes 0 to 2 (13 R211). -/
inductive CpyW where
  | b32 | b64 | b128
  deriving DecidableEq, Repr

/-- Reaches of `tlbinv`, codes 0 to 2 (20 R346). -/
inductive TlbS where
  | core | die | dev
  deriving DecidableEq, Repr

/-- Combining operations, codes 0 to 3 (19 R327). -/
inductive CombOp where
  | sum | max | min | rescale
  deriving DecidableEq, Repr

/-- Session roles (19 R313). -/
inductive Role where
  | tenant | runtime | operator
  deriving DecidableEq, Repr

/-- Where an uncorrectable array error strikes (16 R271, 13 R224). -/
inductive EccSite where
  | cacheLine (pa : Nat)
  | memorySector (pa : Nat)
  | scratch (block gran : Nat)
  | vreg (warp reg lane : Nat)
  | sreg (warp reg : Nat)
  | bslot (core slot : Nat)
  | opEntry (id : Nat)
  | privGran (warp gran : Nat)
  deriving DecidableEq, Repr

/-- An `rput` as it arrives at the peer (13 R222, 21 R358): addressed to context `ctx`, from the device and context
of the issuer over the channel whose handle there is `handle`. `bad` names the payload bytes of poisoned flits, `gone`
those that the issuer was refused and so did not send (16 R269). -/
structure PutMsg where
  ctx : Nat
  srcAddr : BitVec 128
  srcCtx : Nat
  handle : Nat
  raddr : Nat
  staddr : Nat
  sval : Word
  payload : List Byte
  bad : List Nat
  gone : List Nat
  deriving DecidableEq, Repr

/-- An `rget` as it arrives at the peer (21 R358). `tag` names the operation in the reply. -/
structure GetMsg where
  ctx : Nat
  srcAddr : BitVec 128
  srcCtx : Nat
  handle : Nat
  raddr : Nat
  len : Nat
  tag : Nat
  deriving DecidableEq, Repr

/-- A send as it reaches the receiver's device (19 R323, R324). `failed` are the sequence numbers of the channel's messages
that have failed at the sender. -/
structure SendMsg where
  ctx : Nat
  srcAddr : BitVec 128
  srcCtx : Nat
  handle : Nat
  pch : Nat
  seq : Nat
  len : Nat
  tag : BitVec 32
  payload : List Byte
  bad : List Nat
  gone : List Nat
  defer : Bool
  opTag : Nat
  failed : List Nat
  deriving DecidableEq, Repr

/-- What came back for an `rget` (13 R222, R223): the bytes, all ones where the peer refused for lack of channel
dominance (`refused`), the elements that failed at the peer (`gone`), or the failure of all of it (`failed`). -/
structure GetReply where
  data : List Byte
  bad : List Nat
  gone : List Nat
  refused : Bool
  failed : Bool
  deriving DecidableEq, Repr

/-- The errors a faulty engine makes in one chunk of a pass (14 R244, R245): amounts added to elements U[i, j] of the
update, to row checksums and to column checksums. -/
structure PassErr where
  chunk : Nat
  u : List (Nat × Nat × Int)
  rho : List (Nat × Int)
  gamma : List (Nat × Int)
  deriving DecidableEq, Repr

/-- A firmware image as the operator delivers it (20 R337): its bytes, security version and signature. -/
structure FwImage where
  bytes : List Byte
  version : Nat
  sig : List Byte
  deriving DecidableEq, Repr

/-- Who opens a session with the Tack Room (20 R338): an owner by its slot, a tenant, or a device that a context migrates
from. -/
inductive SpdmWho where
  | owner (slot : Nat)
  | tenant
  | device
  deriving DecidableEq, Repr

/-- The algorithms an SPDM requester offers (20 R338). -/
structure SpdmAlgs where
  xmssExtAsym : Bool
  sha3_384 : Bool
  secp384r1 : Bool
  aes256gcm : Bool
  deriving DecidableEq, Repr

/-- The instructions and steps. A word's `p` is its safe-point bit (03 R33). -/
inductive Instr where
  -- control and system, 0x01 to 0x0F (03 R46)
  | braZ (p : Bool) (c : SNum) (o : BitVec 17)
  | braNz (p : Bool) (c : SNum) (o : BitVec 17)
  | brd (p : Bool) (c : SNum) (o : BitVec 17)
  | call (p : Bool) (c : SNum) (o : BitVec 17)
  | jmpi (p : Bool) (a : SNum)
  | ret (p : Bool) (a : SNum)
  | sread (p : Bool) (d : SNum) (n : BitVec 12)
  | sreadClr (p : Bool) (d : SNum) (n : BitVec 12)
  | swid (p : Bool) (d : SNum) (n : Imm16)
  | vwid (p : Bool) (d : VNum) (n : Imm16)
  | spawn (p : Bool) (a : VNum) (b : SNum)
  | trap (p : Bool) (n : Imm16)
  | bar (p : Bool) (d : SNum) (n : BitVec 4)
  | barg (p : Bool) (d : SNum) (n : BitVec 4)
  | nop (p : Bool)
  | join (p : Bool)
  | exit
  | yield (p : Bool)
  -- scalar integer and scalar memory, 0x10 to 0x2C (03 R47)
  | sadd (p : Bool) (d a b : SNum)
  | ssub (p : Bool) (d a b : SNum)
  | smul (p : Bool) (d a b : SNum)
  | smulh (p : Bool) (d a b : SNum)
  | sdiv (p : Bool) (d a b : SNum)
  | srem (p : Bool) (d a b : SNum)
  | sand (p : Bool) (d a b : SNum)
  | sor (p : Bool) (d a b : SNum)
  | sxor (p : Bool) (d a b : SNum)
  | sshl (p : Bool) (d a b : SNum)
  | sshr (p : Bool) (d a b : SNum)
  | ssra (p : Bool) (d a b : SNum)
  | srot (p : Bool) (d a b : SNum)
  | smin (p : Bool) (d a b : SNum)
  | smax (p : Bool) (d a b : SNum)
  | scmp (p : Bool) (d a b : SNum) (c : Cond)
  | ssel (p : Bool) (d a b : SNum)
  | smovi (p : Bool) (d : SNum) (i : Imm16)
  | smovh (p : Bool) (d : SNum) (i : Imm16)
  | saddi (p : Bool) (d : SNum) (i : Imm16)
  | spopc (p : Bool) (d a : SNum)
  | sclz (p : Bool) (d a : SNum)
  | sctz (p : Bool) (d a : SNum)
  | sbrev (p : Bool) (d a : SNum)
  | sbfx (p : Bool) (d a b : SNum)
  | sbfi (p : Bool) (d a b : SNum)
  | sld (p : Bool) (d a b : SNum) (w : LdW)
  | sst (p : Bool) (d a b : SNum) (w : StW)
  | sldc (p : Bool) (d : SNum) (n : Imm16)
  -- label and mode, 0x30 to 0x39 (03 R49)
  | mode (p : Bool) (a : SNum)
  | modei (p : Bool) (i : Imm16)
  | lget (p : Bool) (d a : SNum)
  | lgetV (p : Bool) (d a : VNum)
  | ljoin (p : Bool) (d a b : SNum)
  | ljoinV (p : Bool) (d a : VNum) (b : SNum)
  | lchk (p : Bool) (d a b : SNum)
  | ltcompact (p : Bool)
  | dcls (p : Bool) (d a : VNum) (g : SNum)
  | dclsS (p : Bool) (d a g : SNum)
  -- vector arithmetic, 0x40 to 0x63 (03 R50)
  | vadd (p : Bool) (d a b : VNum)
  | vsub (p : Bool) (d a b : VNum)
  | vmul (p : Bool) (d a b : VNum)
  | vmulh (p : Bool) (d a b : VNum)
  | vmad (p : Bool) (d a b : VNum)
  | vfma (p : Bool) (d a b : VNum)
  | vmin (p : Bool) (d a b : VNum)
  | vmax (p : Bool) (d a b : VNum)
  | vabs (p : Bool) (d a : VNum)
  | vneg (p : Bool) (d a : VNum)
  | vdiv (p : Bool) (d a b : VNum)
  | vsqrt (p : Bool) (d a : VNum)
  | vrcp (p : Bool) (d a : VNum)
  | vrsq (p : Bool) (d a : VNum)
  | vexp2 (p : Bool) (d a : VNum)
  | vlog2 (p : Bool) (d a : VNum)
  | vsin (p : Bool) (d a : VNum)
  | vcos (p : Bool) (d a : VNum)
  | vcvt (p : Bool) (d a : VNum) (t : ETy)
  | vand (p : Bool) (d a b : VNum)
  | vor (p : Bool) (d a b : VNum)
  | vxor (p : Bool) (d a b : VNum)
  | vnot (p : Bool) (d a : VNum)
  | vshl (p : Bool) (d a b : VNum)
  | vshr (p : Bool) (d a b : VNum)
  | vsra (p : Bool) (d a b : VNum)
  | vbfx (p : Bool) (d a b : VNum)
  | vbfi (p : Bool) (d a b : VNum)
  | vpopc (p : Bool) (d a : VNum)
  | vclz (p : Bool) (d a : VNum)
  | vbrev (p : Bool) (d a : VNum)
  | vcmp (p : Bool) (d : SNum) (a b : VNum) (c : VCond)
  | vsel (p : Bool) (d a : VNum) (b : SNum)
  | vmov (p : Bool) (d a : VNum)
  | vmovs (p : Bool) (d : VNum) (b : SNum)
  | vmovi (p : Bool) (d : VNum) (i : Imm16)
  -- modular, 0x68 to 0x6C (03 R51)
  | vqadd (p : Bool) (d a : VNum) (b : SNum)
  | vqsub (p : Bool) (d a : VNum) (b : SNum)
  | vqmul (p : Bool) (d a : VNum) (b : SNum)
  | vqbfly (p : Bool) (d a : VNum) (b : SNum)
  | vqbflyi (p : Bool) (d a : VNum) (b : SNum)
  -- cross-lane, 0x70 to 0x77 (03 R52)
  | vshfl (p : Bool) (d a b : VNum) (m : ShflM)
  | vshflS (p : Bool) (d a : VNum) (b : SNum) (m : ShflM)
  | vballot (p : Bool) (d : SNum) (a : VNum)
  | vred (p : Bool) (d : SNum) (a : VNum) (o : RedOp)
  | vscan (p : Bool) (d a : VNum) (o : RedOp) (e : Bool)
  | vbcast (p : Bool) (d a : VNum) (b : SNum)
  | vbxch (p : Bool) (d a : VNum) (b : SNum)
  | vmatch (p : Bool) (d a : VNum)
  -- memory, 0x80 to 0x91 (03 R53); `b` is Sbase, `o` is Voff
  | vld (p : Bool) (d : VNum) (b : SNum) (o : VNum) (w : LdW)
  | vst (p : Bool) (d : VNum) (b : SNum) (o : VNum) (w : StW)
  | vldAcqB32 (p : Bool) (d : VNum) (b : SNum) (o : VNum) (s : Scope)
  | vldAcqB64 (p : Bool) (d : VNum) (b : SNum) (o : VNum) (s : Scope)
  | vstRelB32 (p : Bool) (d : VNum) (b : SNum) (o : VNum) (s : Scope)
  | vstRelB64 (p : Bool) (d : VNum) (b : SNum) (o : VNum) (s : Scope)
  | vldScB32 (p : Bool) (d : VNum) (b : SNum) (o : VNum) (s : Scope)
  | vldScB64 (p : Bool) (d : VNum) (b : SNum) (o : VNum) (s : Scope)
  | vstScB32 (p : Bool) (d : VNum) (b : SNum) (o : VNum) (s : Scope)
  | vstScB64 (p : Bool) (d : VNum) (b : SNum) (o : VNum) (s : Scope)
  | vlds (p : Bool) (d : VNum) (b : SNum) (o : VNum) (w : LdW)
  | vsts (p : Bool) (d : VNum) (b : SNum) (o : VNum) (w : StW)
  | vldp (p : Bool) (d : VNum) (b : SNum) (o : VNum) (w : LdW)
  | vstp (p : Bool) (d : VNum) (b : SNum) (o : VNum) (w : StW)
  | sprf (p : Bool) (a b : SNum) (l : Level)
  | fence (p : Bool) (k : FenceK) (s : Scope)
  | mwait (p : Bool) (d a b : SNum) (c : WaitC)
  | rhint (p : Bool) (a b : SNum) (h : HintA)
  -- atomics and barrier objects, 0xA0 to 0xA8 (03 R54)
  | vatomB32 (p : Bool) (d : VNum) (b : SNum) (o : VNum) (x : AtomOp)
  | vatomB64 (p : Bool) (d : VNum) (b : SNum) (o : VNum) (x : AtomOp)
  | vratomB32 (p : Bool) (d : VNum) (b : SNum) (o : VNum) (x : AtomOp)
  | vratomB64 (p : Bool) (d : VNum) (b : SNum) (o : VNum) (x : AtomOp)
  | satom (p : Bool) (d a b : SNum) (w : Bool) (o : AtomOp)
  | boinit (p : Bool) (a b : SNum)
  | boarr (p : Bool) (d a b : SNum)
  | bowait (p : Bool) (d a b : SNum)
  | boexp (p : Bool) (a b : SNum)
  -- copy, 0xB0 to 0xB5 (03 R55)
  | vcpy (p : Bool) (d a : VNum) (w : CpyW)
  | cbatch (p : Bool) (d : SNum)
  | cwait (p : Bool) (a : SNum)
  | kick (p : Bool) (a : SNum)
  | rput (p : Bool) (a b : SNum)
  | rget (p : Bool) (a b : SNum)
  -- matrix, 0xC0 to 0xC6 (03 R56)
  | mldb (p : Bool) (a b : SNum) (n : BitVec 2)
  | mfree (p : Bool) (n : BitVec 2)
  | munf (p : Bool) (a : SNum)
  | mmq (p : Bool) (a : VNum)
  | mscaleA (p : Bool) (a b : SNum)
  | mscaleB (p : Bool) (a b : SNum)
  | mstat (p : Bool) (d : SNum) (c : Bool)
  | mchk (p : Bool) (d : SNum) (c : Bool)
  -- fabric, 0xE0 to 0xE3 (03 R57)
  | fopen (p : Bool) (d a b : SNum)
  | fclose (p : Bool) (a : SNum)
  | fsend (p : Bool) (a b : SNum)
  | fsendDefer (p : Bool) (a b : SNum)
  | fcomb (p : Bool) (a b : SNum) (o : CombOp)
  -- privileged, 0xF0 to 0xF6 (03 R58)
  | eret
  | tlbinv (p : Bool) (a b : SNum) (s : TlbS)
  | cinv (p : Bool) (a b : SNum) (l : Level)
  | kzero (p : Bool) (a b : SNum)
  | kstat (p : Bool) (d a : SNum)
  | scrub (p : Bool) (d a : SNum)
  | cassign (p : Bool) (d a b : SNum)
  -- steps of warps, slots and engines; `w` is a warp slot's key, 32 x core + slot
  | splitMergeEarly (w a b : Nat)
  | loadReturn (w id : Nat)
  | mwaitWake (w sp : Nat)
  | spawnBinTimer (core bin : Nat)
  | spawnBinLaunch (core bin : Nat)
  | slotDrainDone (w : Nat)
  | localityDecay (core : Nat)
  | starvationIssue (w sp : Nat)
  | laneCopy (op : Nat)
  | requestElement (op i : Nat)
  | requestComplete (op : Nat)
  | remoteSourceRead (op : Nat)
  | remotePutArrival (m : PutMsg)
  | remoteGetArrival (m : GetMsg)
  | rgetDataReturn (op : Nat) (r : GetReply)
  | remoteHoldTimeout (held : Nat)
  | sendArrival (m : SendMsg)
  | sendDeferAdmit (held : Nat)
  | sendStatus (op : Nat) (status : Nat)
  | sendUnreachable (op : Nat)
  | combinerContribution (src : BitVec 128) (hdr : BitVec 256) (payload : List Byte) (bad : Bool)
  | combinerTimeout (group seq : Nat)
  | combineResult (op : Nat) (hdr : BitVec 256) (payload : List Byte)
  | passGroupLaunch (core group : Nat)
  | passExecute (core group : Nat) (err : List PassErr)
  | passDrain (core group : Nat)
  | slotLoad (core slot : Nat)
  | eccUncorrectable (site : EccSite)
  -- steps of the Pavilions
  | hangDetect (ctx : Nat)
  | refusalLogFlush (pav : Nat)
  | faultTimeout (tag : Nat)
  | gangDispatch (lseq gang cluster : Nat)
  | launchReady (ctx queue : Nat)
  | launchStart (lseq : Nat)
  | launchComplete (lseq : Nat)
  | auditRun (lseq block core : Nat)
  | auditCompare (lseq block : Nat)
  | quantumExpiry (pav : Nat)
  | preemptDeadline (cluster : Nat)
  | splitRelease (w sp : Nat)
  | gangSave (gang : Nat)
  | saveTimeout (gang : Nat)
  | gangRestore (gang cluster : Nat)
  | clusterLend (cluster pav : Nat)
  | clusterReclaim (cluster : Nat)
  | budgetWindow
  -- host RMA, sessions and commands (19); `ses` is a session, `hdr` and `body` the bytes of R314 and R316
  | hostRmaRead (ses va len : Nat)
  | hostRmaWrite (ses va : Nat) (data : List Byte)
  | sessionOpen (role : Role) (pav ctx : Nat)
  | launch (ses : Nat) (hdr : BitVec 256) (body : List Byte)
  | copy (ses : Nat) (hdr : BitVec 256) (body : List Byte)
  | signal (ses : Nat) (hdr : BitVec 256) (body : List Byte)
  | wait (ses : Nat) (hdr : BitVec 256) (body : List Byte)
  | fenceCmd (ses : Nat) (hdr : BitVec 256) (body : List Byte)
  | ctxcreate (ses : Nat) (hdr : BitVec 256) (body : List Byte)
  | ctxdestroy (ses : Nat) (hdr : BitVec 256) (body : List Byte)
  | migrate (ses : Nat) (hdr : BitVec 256) (body : List Byte)
  | map (ses : Nat) (hdr : BitVec 256) (body : List Byte)
  | unmap (ses : Nat) (hdr : BitVec 256) (body : List Byte)
  | faultreply (ses : Nat) (hdr : BitVec 256) (body : List Byte)
  | dcdadd (ses : Nat) (hdr : BitVec 256) (body : List Byte)
  | dcdrel (ses : Nat) (hdr : BitVec 256) (body : List Byte)
  | writePvcfg (ses : Nat) (hdr : BitVec 256) (body : List Byte)
  | writePvcol (ses : Nat) (hdr : BitVec 256) (body : List Byte)
  | setBudgets (ses : Nat) (hdr : BitVec 256) (body : List Byte)
  | readInService (ses : Nat) (hdr : BitVec 256) (body : List Byte)
  | pavilionImageUpdate (ses : Nat) (hdr : BitVec 256) (body : List Byte)
  | clusterQuarantine (ses : Nat) (hdr : BitVec 256) (body : List Byte)
  | sectorRetirement (ses : Nat) (hdr : BitVec 256) (body : List Byte)
  | ethernetReset (ses : Nat) (hdr : BitVec 256) (body : List Byte)
  | ethernetRemoval (ses : Nat) (hdr : BitVec 256) (body : List Byte)
  | cxlReset (ses : Nat) (hdr : BitVec 256) (body : List Byte)
  | cxlRemoval (ses : Nat) (hdr : BitVec 256) (body : List Byte)
  | cxlResetTimeout (port : Nat)
  | returnCore (ses : Nat) (hdr : BitVec 256) (body : List Byte)
  | returnCluster (ses : Nat) (hdr : BitVec 256) (body : List Byte)
  | returnPage (ses : Nat) (hdr : BitVec 256) (body : List Byte)
  | raiseFuseTackRoom (ses : Nat) (hdr : BitVec 256) (body : List Byte)
  | raiseFusePavilion (ses : Nat) (hdr : BitVec 256) (body : List Byte)
  | warmReset (ses : Nat) (hdr : BitVec 256) (body : List Byte)
  | watchdogReset
  | resumeScrub (ses : Nat) (hdr : BitVec 256) (body : List Byte)
  | loadEvictionSchedule (ses : Nat) (hdr : BitVec 256) (body : List Byte)
  | quarantineThreshold (ses : Nat) (hdr : BitVec 256) (body : List Byte)
  | coldReset
  -- the Tack Room (20): derived keys, SPDM messages from endpoint `ep`, migration `mig`, scrub jobs
  | deriveKey (requester : Nat) (purpose : BitVec 32) (context : BitVec 256) (version : BitVec 32)
  | getVersion (ep : Nat)
  | getCapabilities (ep : Nat)
  | negotiateAlgorithms (ep : Nat) (algs : SpdmAlgs)
  | getDigests (ep : Nat)
  | getCertificate (ep slot off len : Nat)
  | challenge (ep : Nat) (nonce : BitVec 256)
  | getMeasurements (ep index : Nat) (signed : Bool)
  | keyExchange (ep pav ctx : Nat) (who : SpdmWho) (mutualAuth : Bool) (certDigest : BitVec 384)
  | finish (ep : Nat) (verified : Bool)
  | endSession (ep : Nat)
  | keyload (ep : Nat) (secured : Bool) (ctx kind : Nat) (key : BitVec 256)
  | grant (ep : Nat) (secured : Bool) (ctx slot : Nat) (meas : BitVec 384) (budget : BitVec 32) (life : Nat)
  | migrationStateReceive (mig : Nat) (data : List Byte)
  | prepared (mig : Nat)
  | commit (mig : Nat)
  | refused (mig : Nat) (asNone : Bool)
  | outcome (mig : Nat)
  | migrationSilence (mig : Nat)
  | migrationOutcomePoll (mig : Nat)
  | migrationSourceLoss (mig : Nat)
  | scrubChunk (job : Nat)
  | grantExpiry (ctx slot : Nat)
  | firmwareLoad (image : FwImage)
  | ideReestablished (port : Nat)
  | imageSignatureVerified (pav : Nat)
  deriving DecidableEq, Repr

end Sys2Proof
end

