-- ==== Sys2Proof/WellFormed.lean ====
section
/-! DEFINITION. Operand codes, and which terms of `Instr` are instructions: the decode-time limits of R35, R46, R54,
R59 and R82 that do not depend on the state. -/

namespace Sys2Proof

/-- The code of each value: MODE.TYPE codes (02 R12). -/
def ETy.code : ETy → Nat
  | .i8 => 0
  | .i16 => 1
  | .i32 => 2
  | .i64 => 3
  | .n8 => 4
  | .n16 => 5
  | .n32 => 6
  | .n64 => 7
  | .f16 => 8
  | .bf16 => 9
  | .f32 => 10
  | .f64 => 11
  | .q64 => 12

/-- The value of a code; none where the code is reserved. -/
def ETy.ofCode : Nat → Option ETy
  | 0 => some .i8
  | 1 => some .i16
  | 2 => some .i32
  | 3 => some .i64
  | 4 => some .n8
  | 5 => some .n16
  | 6 => some .n32
  | 7 => some .n64
  | 8 => some .f16
  | 9 => some .bf16
  | 10 => some .f32
  | 11 => some .f64
  | 12 => some .q64
  | _ => none

/-- The code of each value: 04 R69. -/
def Cond.code : Cond → Nat
  | .eq => 0
  | .ne => 1
  | .lt => 2
  | .le => 3
  | .gt => 4
  | .ge => 5

/-- The value of a code; none where the code is reserved. -/
def Cond.ofCode : Nat → Option Cond
  | 0 => some .eq
  | 1 => some .ne
  | 2 => some .lt
  | 3 => some .le
  | 4 => some .gt
  | 5 => some .ge
  | _ => none

/-- The code of each value: 03 R50. -/
def VCond.code : VCond → Nat
  | .eq => 0
  | .ne => 1
  | .lt => 2
  | .le => 3
  | .gt => 4
  | .ge => 5
  | .un => 6
  | .ord => 7

/-- The value of a code; none where the code is reserved. -/
def VCond.ofCode : Nat → Option VCond
  | 0 => some .eq
  | 1 => some .ne
  | 2 => some .lt
  | 3 => some .le
  | 4 => some .gt
  | 5 => some .ge
  | 6 => some .un
  | 7 => some .ord
  | _ => none

/-- The code of each value: 03 R48. -/
def LdW.code : LdW → Nat
  | .n8 => 0
  | .n16 => 1
  | .b32 => 2
  | .b64 => 3
  | .i8 => 4
  | .i16 => 5

/-- The value of a code; none where the code is reserved. -/
def LdW.ofCode : Nat → Option LdW
  | 0 => some .n8
  | 1 => some .n16
  | 2 => some .b32
  | 3 => some .b64
  | 4 => some .i8
  | 5 => some .i16
  | _ => none

/-- The code of each value: 03 R48. -/
def StW.code : StW → Nat
  | .b8 => 0
  | .b16 => 1
  | .b32 => 2
  | .b64 => 3

/-- The value of a code; none where the code is reserved. -/
def StW.ofCode : Nat → Option StW
  | 0 => some .b8
  | 1 => some .b16
  | 2 => some .b32
  | 3 => some .b64
  | _ => none

/-- The code of each value: 03 R53. -/
def Scope.code : Scope → Nat
  | .warp => 0
  | .block => 1
  | .gang => 2
  | .die => 3
  | .dev => 4
  | .sys => 5

/-- The value of a code; none where the code is reserved. -/
def Scope.ofCode : Nat → Option Scope
  | 0 => some .warp
  | 1 => some .block
  | 2 => some .gang
  | 3 => some .die
  | 4 => some .dev
  | 5 => some .sys
  | _ => none

/-- The code of each value: 03 R53. -/
def FenceK.code : FenceK → Nat
  | .both => 0
  | .acq => 1
  | .rel => 2
  | .sc => 3

/-- The value of a code; none where the code is reserved. -/
def FenceK.ofCode : Nat → Option FenceK
  | 0 => some .both
  | 1 => some .acq
  | 2 => some .rel
  | 3 => some .sc
  | _ => none

/-- The code of each value: 03 R52. -/
def ShflM.code : ShflM → Nat
  | .idx => 0
  | .xor => 1
  | .up => 2
  | .down => 3

/-- The value of a code; none where the code is reserved. -/
def ShflM.ofCode : Nat → Option ShflM
  | 0 => some .idx
  | 1 => some .xor
  | 2 => some .up
  | 3 => some .down
  | _ => none

/-- The code of each value: 03 R52. -/
def RedOp.code : RedOp → Nat
  | .add => 0
  | .min => 1
  | .max => 2
  | .and => 3
  | .or => 4
  | .xor => 5

/-- The value of a code; none where the code is reserved. -/
def RedOp.ofCode : Nat → Option RedOp
  | 0 => some .add
  | 1 => some .min
  | 2 => some .max
  | 3 => some .and
  | 4 => some .or
  | 5 => some .xor
  | _ => none

/-- The code of each value: 03 R54. -/
def AtomOp.code : AtomOp → Nat
  | .add => 0
  | .min => 1
  | .max => 2
  | .and => 3
  | .or => 4
  | .xor => 5
  | .exch => 6
  | .cas => 7

/-- The value of a code; none where the code is reserved. -/
def AtomOp.ofCode : Nat → Option AtomOp
  | 0 => some .add
  | 1 => some .min
  | 2 => some .max
  | 3 => some .and
  | 4 => some .or
  | 5 => some .xor
  | 6 => some .exch
  | 7 => some .cas
  | _ => none

/-- The code of each value: 03 R53. -/
def WaitC.code : WaitC → Nat
  | .ge => 0
  | .ne => 1
  | .eq => 2

/-- The value of a code; none where the code is reserved. -/
def WaitC.ofCode : Nat → Option WaitC
  | 0 => some .ge
  | 1 => some .ne
  | 2 => some .eq
  | _ => none

/-- The code of each value: 03 R53. -/
def Level.code : Level → Nat
  | .l1 => 0
  | .l2 => 1
  | .llc => 2

/-- The value of a code; none where the code is reserved. -/
def Level.ofCode : Nat → Option Level
  | 0 => some .l1
  | 1 => some .l2
  | 2 => some .llc
  | _ => none

/-- The code of each value: 03 R53. -/
def HintA.code : HintA → Nat
  | .keep => 0
  | .evict => 1
  | .stream => 2

/-- The value of a code; none where the code is reserved. -/
def HintA.ofCode : Nat → Option HintA
  | 0 => some .keep
  | 1 => some .evict
  | 2 => some .stream
  | _ => none

/-- The code of each value: 03 R55. -/
def CpyW.code : CpyW → Nat
  | .b32 => 0
  | .b64 => 1
  | .b128 => 2

/-- The value of a code; none where the code is reserved. -/
def CpyW.ofCode : Nat → Option CpyW
  | 0 => some .b32
  | 1 => some .b64
  | 2 => some .b128
  | _ => none

/-- The code of each value: 03 R58. -/
def TlbS.code : TlbS → Nat
  | .core => 0
  | .die => 1
  | .dev => 2

/-- The value of a code; none where the code is reserved. -/
def TlbS.ofCode : Nat → Option TlbS
  | 0 => some .core
  | 1 => some .die
  | 2 => some .dev
  | _ => none

/-- The code of each value: 03 R57. -/
def CombOp.code : CombOp → Nat
  | .sum => 0
  | .max => 1
  | .min => 2
  | .rescale => 3

/-- The value of a code; none where the code is reserved. -/
def CombOp.ofCode : Nat → Option CombOp
  | 0 => some .sum
  | 1 => some .max
  | 2 => some .min
  | 3 => some .rescale
  | _ => none

/-- The check that an ill-formed term fails. -/
inductive IllFormed where
  /-- `sread` of a number that R82's table does not list. -/
  | sreadNumber
  /-- `sread.clr` of a register whose `.clr` effect is ILL in R82's table. -/
  | sreadClear
  /-- `swid` outside 1 to 5, `vwid` outside 0 to 5 (R46). -/
  | widField
  /-- a quad operand that is no multiple of 4 (R59). -/
  | quadAlign
  /-- a pair operand that is odd (R59). -/
  | pairAlign
  /-- a modular instruction with Sb = 0 or Sb = 63 (R51). -/
  | modulusReg
  /-- `vcvt` to Q64 (R50). -/
  | cvtType
  /-- `vratom.cas` (R54). -/
  | reducingCas
  /-- `satom.cas` with sd = 63 (R54). -/
  | casScalar
  deriving DecidableEq, Repr

/-- The special register numbers of R82. -/
def specialRegs : List Nat :=
  [0x000, 0x001, 0x002, 0x003, 0x004, 0x005, 0x006, 0x007, 0x008, 0x009, 0x00A,
   0x010, 0x011, 0x012, 0x013, 0x014, 0x015]

/-- The special registers with a `.clr` effect (R82). -/
def clearableRegs : List Nat := [0x001, 0x002, 0x010]

namespace Wf

/-- The first check that fails. -/
def first : Option IllFormed → Option IllFormed → Option IllFormed
  | some e, _ => some e
  | none, e => e

/-- A pair names an even register (R59). -/
def pair (r : VNum) : Option IllFormed := if r.toNat % 2 = 0 then none else some .pairAlign

/-- A quad names a multiple of 4 (R59). -/
def quad (r : VNum) : Option IllFormed := if r.toNat % 4 = 0 then none else some .quadAlign

/-- sb and sb + 1 hold q and its Barrett constant (R51). -/
def modulus (b : SNum) : Option IllFormed := if b = 0#6 ∨ b = 63#6 then some .modulusReg else none

/-- Operands of `vqadd`, `vqsub` and `vqmul` (R51, R59). -/
def modPair (d a : VNum) (b : SNum) : Option IllFormed := first (pair d) (first (pair a) (modulus b))

/-- Operands of the butterflies (R51, R59). -/
def modQuad (d a : VNum) (b : SNum) : Option IllFormed := first (quad d) (first (pair a) (modulus b))

end Wf

open Wf in
/-- The check that `i` fails, if any. -/
def Instr.illFormed : Instr → Option IllFormed
  | .sread _ _ n => if specialRegs.contains n.toNat then none else some .sreadNumber
  | .sreadClr _ _ n => if clearableRegs.contains n.toNat then none else some .sreadClear
  | .swid _ _ n => if 1 ≤ n.toNat ∧ n.toNat ≤ 5 then none else some .widField
  | .vwid _ _ n => if n.toNat ≤ 5 then none else some .widField
  | .spawn _ a _ => quad a
  | .vcvt _ _ _ t => if t = .q64 then some .cvtType else none
  | .vqadd _ d a b => modPair d a b
  | .vqsub _ d a b => modPair d a b
  | .vqmul _ d a b => modPair d a b
  | .vqbfly _ d a b => modQuad d a b
  | .vqbflyi _ d a b => modQuad d a b
  | .vld _ d _ _ w => if w = .b64 then pair d else none
  | .vst _ d _ _ w => if w = .b64 then pair d else none
  | .vldAcqB64 _ d _ _ _ => pair d
  | .vstRelB64 _ d _ _ _ => pair d
  | .vldScB64 _ d _ _ _ => pair d
  | .vstScB64 _ d _ _ _ => pair d
  | .vlds _ d _ _ w => if w = .b64 then pair d else none
  | .vsts _ d _ _ w => if w = .b64 then pair d else none
  | .vldp _ d _ _ w => if w = .b64 then pair d else none
  | .vstp _ d _ _ w => if w = .b64 then pair d else none
  | .vatomB64 _ d _ _ x => if x = .cas then quad d else pair d
  | .vratomB32 _ _ _ _ x => if x = .cas then some .reducingCas else none
  | .vratomB64 _ d _ _ x => if x = .cas then some .reducingCas else pair d
  | .satom _ d _ _ _ o => if o = .cas ∧ d = 63#6 then some .casScalar else none
  | .vcpy _ d a _ => first (pair d) (pair a)
  | .braZ .. | .braNz .. | .brd .. | .call .. | .jmpi .. | .ret .. | .trap .. | .bar .. | .barg .. | .nop ..
  | .join .. | .exit .. | .yield .. | .sadd .. | .ssub .. | .smul .. | .smulh .. | .sdiv .. | .srem ..
  | .sand .. | .sor .. | .sxor .. | .sshl .. | .sshr .. | .ssra .. | .srot .. | .smin .. | .smax ..
  | .scmp .. | .ssel .. | .smovi .. | .smovh .. | .saddi .. | .spopc .. | .sclz .. | .sctz .. | .sbrev ..
  | .sbfx .. | .sbfi .. | .sld .. | .sst .. | .sldc .. | .mode .. | .modei .. | .lget .. | .lgetV ..
  | .ljoin .. | .ljoinV .. | .lchk .. | .ltcompact .. | .dcls .. | .dclsS .. | .vadd .. | .vsub .. | .vmul ..
  | .vmulh .. | .vmad .. | .vfma .. | .vmin .. | .vmax .. | .vabs .. | .vneg .. | .vdiv .. | .vsqrt ..
  | .vrcp .. | .vrsq .. | .vexp2 .. | .vlog2 .. | .vsin .. | .vcos .. | .vand .. | .vor .. | .vxor ..
  | .vnot .. | .vshl .. | .vshr .. | .vsra .. | .vbfx .. | .vbfi .. | .vpopc .. | .vclz .. | .vbrev ..
  | .vcmp .. | .vsel .. | .vmov .. | .vmovs .. | .vmovi .. | .vshfl .. | .vshflS .. | .vballot .. | .vred ..
  | .vscan .. | .vbcast .. | .vbxch .. | .vmatch .. | .vldAcqB32 .. | .vstRelB32 .. | .vldScB32 ..
  | .vstScB32 .. | .sprf .. | .fence .. | .mwait .. | .rhint .. | .vatomB32 .. | .boinit .. | .boarr ..
  | .bowait .. | .boexp .. | .cbatch .. | .cwait .. | .kick .. | .rput .. | .rget .. | .mldb .. | .mfree ..
  | .munf .. | .mmq .. | .mscaleA .. | .mscaleB .. | .mstat .. | .mchk .. | .fopen .. | .fclose ..
  | .fsend .. | .fsendDefer .. | .fcomb .. | .eret .. | .tlbinv .. | .cinv .. | .kzero .. | .kstat ..
  | .scrub .. | .cassign .. | .splitMergeEarly .. | .loadReturn .. | .mwaitWake .. | .spawnBinTimer ..
  | .spawnBinLaunch .. | .slotDrainDone .. | .localityDecay .. | .starvationIssue .. | .laneCopy ..
  | .requestElement .. | .requestComplete .. | .remoteSourceRead .. | .remotePutArrival ..
  | .remoteGetArrival .. | .rgetDataReturn .. | .remoteHoldTimeout .. | .sendArrival .. | .sendDeferAdmit ..
  | .sendStatus .. | .sendUnreachable .. | .combinerContribution .. | .combinerTimeout .. | .combineResult ..
  | .passGroupLaunch .. | .passExecute .. | .passDrain .. | .slotLoad .. | .eccUncorrectable ..
  | .hangDetect .. | .refusalLogFlush .. | .faultTimeout .. | .gangDispatch .. | .launchReady ..
  | .launchStart .. | .launchComplete .. | .auditRun .. | .auditCompare .. | .quantumExpiry ..
  | .preemptDeadline .. | .splitRelease .. | .gangSave .. | .saveTimeout .. | .gangRestore ..
  | .clusterLend .. | .clusterReclaim .. | .budgetWindow .. | .hostRmaRead .. | .hostRmaWrite ..
  | .sessionOpen .. | .launch .. | .copy .. | .signal .. | .wait .. | .fenceCmd .. | .ctxcreate ..
  | .ctxdestroy .. | .migrate .. | .map .. | .unmap .. | .faultreply .. | .dcdadd .. | .dcdrel ..
  | .writePvcfg .. | .writePvcol .. | .setBudgets .. | .readInService .. | .pavilionImageUpdate ..
  | .clusterQuarantine .. | .sectorRetirement .. | .ethernetReset .. | .ethernetRemoval .. | .cxlReset ..
  | .cxlRemoval .. | .cxlResetTimeout .. | .returnCore .. | .returnCluster .. | .returnPage ..
  | .raiseFuseTackRoom .. | .raiseFusePavilion .. | .warmReset .. | .watchdogReset .. | .resumeScrub ..
  | .loadEvictionSchedule .. | .quarantineThreshold .. | .coldReset .. | .deriveKey .. | .getVersion ..
  | .getCapabilities .. | .negotiateAlgorithms .. | .getDigests .. | .getCertificate .. | .challenge ..
  | .getMeasurements .. | .keyExchange .. | .finish .. | .endSession .. | .keyload .. | .grant ..
  | .migrationStateReceive .. | .prepared .. | .commit .. | .refused .. | .outcome .. | .migrationSilence ..
  | .migrationOutcomePoll .. | .migrationSourceLoss .. | .scrubChunk .. | .grantExpiry .. | .firmwareLoad ..
  | .ideReestablished .. | .imageSignatureVerified .. => none

/-- `i` is well formed. -/
def Instr.wf (i : Instr) : Bool := i.illFormed.isNone

end Sys2Proof
end

