-- ==== Sys2Proof/Decode.lean ====
section
/-! DEFINITION. The decoder of instruction words (03 R33 to R63), total on every 32-bit word, and after it the
encoder. A word that is no instruction is refused by name; the machine then traps ILL (R62 step 3). The steps that
no word encodes have no word. -/

namespace Sys2Proof

/-- Why a word is no instruction (03 R35, R42, R45, R59). -/
inductive DecodeErr where
  /-- the major opcode is not assigned (R45). -/
  | major
  /-- the minor or operand code is not assigned, or a field that tells two rows apart is neither's (R45). -/
  | minor
  /-- a reserved or unused field is not zero (R35). -/
  | reserved
  /-- SP = 1 on `exit` or `eret` (R42). -/
  | safePoint
  /-- an operand limit that the word alone decides (R35, R54, R59, R82). -/
  | operand (e : IllFormed)
  /-- fewer than four bytes are left. -/
  | short
  deriving DecidableEq, Repr

namespace Dec

/-- Field of `w` bits from bit `lo` of a word. -/
def fld (n lo w : Nat) : Nat := n / 2 ^ lo % 2 ^ w

/-- The same field as a bit vector. -/
def bv (n lo w : Nat) : BitVec w := BitVec.ofNat w (fld n lo w)

/-- One bit of a word. -/
def bit (n lo : Nat) : Bool := fld n lo 1 == 1

/-- Unused fields must be zero (R35). -/
def zero (c : Prop) [Decidable c] (r : Except DecodeErr Instr) : Except DecodeErr Instr :=
  if c then r else .error .reserved

/-- A code must be an assigned one (R45). -/
def code {α : Type} (o : Option α) (k : α → Except DecodeErr Instr) : Except DecodeErr Instr :=
  match o with
  | some x => k x
  | none => .error .minor

/-- `exit` and `eret` carry no safe point (R42). -/
def noSafePoint (n : Nat) (i : Instr) : Except DecodeErr Instr :=
  if bit n 31 then .error .safePoint else .ok i

/-- The control and system majors (R46). -/
def fieldsControl (n m : Nat) : Except DecodeErr Instr :=
  if m = 0x01 then .ok (.braZ (bit n 31) (bv n 17 6) (bv n 0 17)) else
  if m = 0x02 then .ok (.braNz (bit n 31) (bv n 17 6) (bv n 0 17)) else
  if m = 0x03 then .ok (.brd (bit n 31) (bv n 17 6) (bv n 0 17)) else
  if m = 0x04 then .ok (.call (bit n 31) (bv n 17 6) (bv n 0 17)) else
  if m = 0x05 then (if fld n 0 11 = 0 ∧ fld n 17 6 = 0 then .ok (.jmpi (bit n 31) (bv n 11 6)) else
      if fld n 0 11 = 0x1 ∧ fld n 17 6 = 0 then .ok (.ret (bit n 31) (bv n 11 6)) else .error .minor) else
  if m = 0x06 then (if fld n 12 4 = 0 ∧ fld n 22 1 = 0 then .ok (.sread (bit n 31) (bv n 16 6) (bv n 0 12)) else
      if fld n 12 4 = 0x8 ∧ fld n 22 1 = 0 then .ok (.sreadClr (bit n 31) (bv n 16 6) (bv n 0 12)) else .error .minor) else
  if m = 0x07 then zero (fld n 22 1 = 0) (.ok (.swid (bit n 31) (bv n 16 6) (bv n 0 16))) else
  if m = 0x08 then .ok (.vwid (bit n 31) (bv n 16 7) (bv n 0 16)) else
  if m = 0x09 then zero (fld n 0 3 = 0 ∧ fld n 16 7 = 0) (.ok (.spawn (bit n 31) (bv n 9 7) (bv n 3 6))) else
  if m = 0x0A then zero (fld n 16 7 = 0) (.ok (.trap (bit n 31) (bv n 0 16))) else
  if m = 0x0B then zero (fld n 4 12 = 0 ∧ fld n 22 1 = 0) (.ok (.bar (bit n 31) (bv n 16 6) (bv n 0 4))) else
  if m = 0x0C then zero (fld n 4 12 = 0 ∧ fld n 22 1 = 0) (.ok (.barg (bit n 31) (bv n 16 6) (bv n 0 4))) else
  if m = 0x0F then (if fld n 0 23 = 0 then .ok (.nop (bit n 31)) else
      if fld n 0 23 = 0x10000 then .ok (.join (bit n 31)) else
      if fld n 0 23 = 0x20000 then noSafePoint n .exit else
      if fld n 0 23 = 0x30000 then .ok (.yield (bit n 31)) else .error .minor) else
  .error .major

/-- The scalar integer and scalar memory majors (R47). -/
def fieldsScalar (n m : Nat) : Except DecodeErr Instr :=
  if m = 0x10 then zero (fld n 0 5 = 0) (.ok (.sadd (bit n 31) (bv n 17 6) (bv n 11 6) (bv n 5 6))) else
  if m = 0x11 then zero (fld n 0 5 = 0) (.ok (.ssub (bit n 31) (bv n 17 6) (bv n 11 6) (bv n 5 6))) else
  if m = 0x12 then zero (fld n 0 5 = 0) (.ok (.smul (bit n 31) (bv n 17 6) (bv n 11 6) (bv n 5 6))) else
  if m = 0x13 then zero (fld n 0 5 = 0) (.ok (.smulh (bit n 31) (bv n 17 6) (bv n 11 6) (bv n 5 6))) else
  if m = 0x14 then zero (fld n 0 5 = 0) (.ok (.sdiv (bit n 31) (bv n 17 6) (bv n 11 6) (bv n 5 6))) else
  if m = 0x15 then zero (fld n 0 5 = 0) (.ok (.srem (bit n 31) (bv n 17 6) (bv n 11 6) (bv n 5 6))) else
  if m = 0x16 then zero (fld n 0 5 = 0) (.ok (.sand (bit n 31) (bv n 17 6) (bv n 11 6) (bv n 5 6))) else
  if m = 0x17 then zero (fld n 0 5 = 0) (.ok (.sor (bit n 31) (bv n 17 6) (bv n 11 6) (bv n 5 6))) else
  if m = 0x18 then zero (fld n 0 5 = 0) (.ok (.sxor (bit n 31) (bv n 17 6) (bv n 11 6) (bv n 5 6))) else
  if m = 0x19 then zero (fld n 0 5 = 0) (.ok (.sshl (bit n 31) (bv n 17 6) (bv n 11 6) (bv n 5 6))) else
  if m = 0x1A then zero (fld n 0 5 = 0) (.ok (.sshr (bit n 31) (bv n 17 6) (bv n 11 6) (bv n 5 6))) else
  if m = 0x1B then zero (fld n 0 5 = 0) (.ok (.ssra (bit n 31) (bv n 17 6) (bv n 11 6) (bv n 5 6))) else
  if m = 0x1C then zero (fld n 0 5 = 0) (.ok (.srot (bit n 31) (bv n 17 6) (bv n 11 6) (bv n 5 6))) else
  if m = 0x1D then zero (fld n 0 5 = 0) (.ok (.smin (bit n 31) (bv n 17 6) (bv n 11 6) (bv n 5 6))) else
  if m = 0x1E then zero (fld n 0 5 = 0) (.ok (.smax (bit n 31) (bv n 17 6) (bv n 11 6) (bv n 5 6))) else
  if m = 0x1F then code (Cond.ofCode (fld n 0 5)) fun c => .ok (.scmp (bit n 31) (bv n 17 6) (bv n 11 6) (bv n 5 6) c) else
  if m = 0x20 then zero (fld n 0 5 = 0) (.ok (.ssel (bit n 31) (bv n 17 6) (bv n 11 6) (bv n 5 6))) else
  if m = 0x21 then zero (fld n 22 1 = 0) (.ok (.smovi (bit n 31) (bv n 16 6) (bv n 0 16))) else
  if m = 0x22 then zero (fld n 22 1 = 0) (.ok (.smovh (bit n 31) (bv n 16 6) (bv n 0 16))) else
  if m = 0x23 then zero (fld n 22 1 = 0) (.ok (.saddi (bit n 31) (bv n 16 6) (bv n 0 16))) else
  if m = 0x24 then zero (fld n 0 11 = 0) (.ok (.spopc (bit n 31) (bv n 17 6) (bv n 11 6))) else
  if m = 0x25 then zero (fld n 0 11 = 0) (.ok (.sclz (bit n 31) (bv n 17 6) (bv n 11 6))) else
  if m = 0x26 then zero (fld n 0 11 = 0) (.ok (.sctz (bit n 31) (bv n 17 6) (bv n 11 6))) else
  if m = 0x27 then zero (fld n 0 11 = 0) (.ok (.sbrev (bit n 31) (bv n 17 6) (bv n 11 6))) else
  if m = 0x28 then zero (fld n 0 5 = 0) (.ok (.sbfx (bit n 31) (bv n 17 6) (bv n 11 6) (bv n 5 6))) else
  if m = 0x29 then zero (fld n 0 5 = 0) (.ok (.sbfi (bit n 31) (bv n 17 6) (bv n 11 6) (bv n 5 6))) else
  if m = 0x2A then zero (fld n 3 2 = 0) (code (LdW.ofCode (fld n 0 3)) fun w => .ok (.sld (bit n 31) (bv n 17 6) (bv n 11 6) (bv n 5 6) w)) else
  if m = 0x2B then zero (fld n 2 3 = 0) (code (StW.ofCode (fld n 0 2)) fun w => .ok (.sst (bit n 31) (bv n 17 6) (bv n 11 6) (bv n 5 6) w)) else
  if m = 0x2C then zero (fld n 22 1 = 0) (.ok (.sldc (bit n 31) (bv n 16 6) (bv n 0 16))) else
  .error .major

/-- The label and mode majors (R49). -/
def fieldsLabel (n m : Nat) : Except DecodeErr Instr :=
  if m = 0x30 then zero (fld n 0 11 = 0 ∧ fld n 17 6 = 0) (.ok (.mode (bit n 31) (bv n 11 6))) else
  if m = 0x31 then zero (fld n 16 7 = 0) (.ok (.modei (bit n 31) (bv n 0 16))) else
  if m = 0x32 then zero (fld n 0 11 = 0) (.ok (.lget (bit n 31) (bv n 17 6) (bv n 11 6))) else
  if m = 0x33 then zero (fld n 0 9 = 0) (.ok (.lgetV (bit n 31) (bv n 16 7) (bv n 9 7))) else
  if m = 0x34 then zero (fld n 0 5 = 0) (.ok (.ljoin (bit n 31) (bv n 17 6) (bv n 11 6) (bv n 5 6))) else
  if m = 0x35 then zero (fld n 0 3 = 0) (.ok (.ljoinV (bit n 31) (bv n 16 7) (bv n 9 7) (bv n 3 6))) else
  if m = 0x36 then zero (fld n 0 5 = 0) (.ok (.lchk (bit n 31) (bv n 17 6) (bv n 11 6) (bv n 5 6))) else
  if m = 0x37 then zero (fld n 0 23 = 0) (.ok (.ltcompact (bit n 31))) else
  if m = 0x38 then zero (fld n 0 3 = 0) (.ok (.dcls (bit n 31) (bv n 16 7) (bv n 9 7) (bv n 3 6))) else
  if m = 0x39 then zero (fld n 0 5 = 0) (.ok (.dclsS (bit n 31) (bv n 17 6) (bv n 11 6) (bv n 5 6))) else
  .error .major

/-- The vector arithmetic majors (R50). -/
def fieldsVector (n m : Nat) : Except DecodeErr Instr :=
  if m = 0x40 then zero (fld n 0 2 = 0) (.ok (.vadd (bit n 31) (bv n 16 7) (bv n 9 7) (bv n 2 7))) else
  if m = 0x41 then zero (fld n 0 2 = 0) (.ok (.vsub (bit n 31) (bv n 16 7) (bv n 9 7) (bv n 2 7))) else
  if m = 0x42 then zero (fld n 0 2 = 0) (.ok (.vmul (bit n 31) (bv n 16 7) (bv n 9 7) (bv n 2 7))) else
  if m = 0x43 then zero (fld n 0 2 = 0) (.ok (.vmulh (bit n 31) (bv n 16 7) (bv n 9 7) (bv n 2 7))) else
  if m = 0x44 then zero (fld n 0 2 = 0) (.ok (.vmad (bit n 31) (bv n 16 7) (bv n 9 7) (bv n 2 7))) else
  if m = 0x45 then zero (fld n 0 2 = 0) (.ok (.vfma (bit n 31) (bv n 16 7) (bv n 9 7) (bv n 2 7))) else
  if m = 0x46 then zero (fld n 0 2 = 0) (.ok (.vmin (bit n 31) (bv n 16 7) (bv n 9 7) (bv n 2 7))) else
  if m = 0x47 then zero (fld n 0 2 = 0) (.ok (.vmax (bit n 31) (bv n 16 7) (bv n 9 7) (bv n 2 7))) else
  if m = 0x48 then zero (fld n 0 9 = 0) (.ok (.vabs (bit n 31) (bv n 16 7) (bv n 9 7))) else
  if m = 0x49 then zero (fld n 0 9 = 0) (.ok (.vneg (bit n 31) (bv n 16 7) (bv n 9 7))) else
  if m = 0x4A then zero (fld n 0 2 = 0) (.ok (.vdiv (bit n 31) (bv n 16 7) (bv n 9 7) (bv n 2 7))) else
  if m = 0x4B then zero (fld n 0 9 = 0) (.ok (.vsqrt (bit n 31) (bv n 16 7) (bv n 9 7))) else
  if m = 0x4C then zero (fld n 0 9 = 0) (.ok (.vrcp (bit n 31) (bv n 16 7) (bv n 9 7))) else
  if m = 0x4D then zero (fld n 0 9 = 0) (.ok (.vrsq (bit n 31) (bv n 16 7) (bv n 9 7))) else
  if m = 0x4E then zero (fld n 0 9 = 0) (.ok (.vexp2 (bit n 31) (bv n 16 7) (bv n 9 7))) else
  if m = 0x4F then zero (fld n 0 9 = 0) (.ok (.vlog2 (bit n 31) (bv n 16 7) (bv n 9 7))) else
  if m = 0x50 then zero (fld n 0 9 = 0) (.ok (.vsin (bit n 31) (bv n 16 7) (bv n 9 7))) else
  if m = 0x51 then zero (fld n 0 9 = 0) (.ok (.vcos (bit n 31) (bv n 16 7) (bv n 9 7))) else
  if m = 0x52 then zero (fld n 0 2 = 0 ∧ fld n 6 3 = 0) (code (ETy.ofCode (fld n 2 4)) fun t => .ok (.vcvt (bit n 31) (bv n 16 7) (bv n 9 7) t)) else
  if m = 0x53 then zero (fld n 0 2 = 0) (.ok (.vand (bit n 31) (bv n 16 7) (bv n 9 7) (bv n 2 7))) else
  if m = 0x54 then zero (fld n 0 2 = 0) (.ok (.vor (bit n 31) (bv n 16 7) (bv n 9 7) (bv n 2 7))) else
  if m = 0x55 then zero (fld n 0 2 = 0) (.ok (.vxor (bit n 31) (bv n 16 7) (bv n 9 7) (bv n 2 7))) else
  if m = 0x56 then zero (fld n 0 9 = 0) (.ok (.vnot (bit n 31) (bv n 16 7) (bv n 9 7))) else
  if m = 0x57 then zero (fld n 0 2 = 0) (.ok (.vshl (bit n 31) (bv n 16 7) (bv n 9 7) (bv n 2 7))) else
  if m = 0x58 then zero (fld n 0 2 = 0) (.ok (.vshr (bit n 31) (bv n 16 7) (bv n 9 7) (bv n 2 7))) else
  if m = 0x59 then zero (fld n 0 2 = 0) (.ok (.vsra (bit n 31) (bv n 16 7) (bv n 9 7) (bv n 2 7))) else
  if m = 0x5A then zero (fld n 0 2 = 0) (.ok (.vbfx (bit n 31) (bv n 16 7) (bv n 9 7) (bv n 2 7))) else
  if m = 0x5B then zero (fld n 0 2 = 0) (.ok (.vbfi (bit n 31) (bv n 16 7) (bv n 9 7) (bv n 2 7))) else
  if m = 0x5C then zero (fld n 0 9 = 0) (.ok (.vpopc (bit n 31) (bv n 16 7) (bv n 9 7))) else
  if m = 0x5D then zero (fld n 0 9 = 0) (.ok (.vclz (bit n 31) (bv n 16 7) (bv n 9 7))) else
  if m = 0x5E then zero (fld n 0 9 = 0) (.ok (.vbrev (bit n 31) (bv n 16 7) (bv n 9 7))) else
  if m = 0x5F then code (VCond.ofCode (fld n 22 1 * 4 + fld n 0 2)) fun c => .ok (.vcmp (bit n 31) (bv n 16 6) (bv n 9 7) (bv n 2 7) c) else
  if m = 0x60 then zero (fld n 0 3 = 0) (.ok (.vsel (bit n 31) (bv n 16 7) (bv n 9 7) (bv n 3 6))) else
  if m = 0x61 then zero (fld n 0 9 = 0) (.ok (.vmov (bit n 31) (bv n 16 7) (bv n 9 7))) else
  if m = 0x62 then zero (fld n 0 3 = 0 ∧ fld n 9 7 = 0) (.ok (.vmovs (bit n 31) (bv n 16 7) (bv n 3 6))) else
  if m = 0x63 then .ok (.vmovi (bit n 31) (bv n 16 7) (bv n 0 16)) else
  .error .major

/-- The modular majors (R51). -/
def fieldsModular (n m : Nat) : Except DecodeErr Instr :=
  if m = 0x68 then zero (fld n 0 3 = 0) (.ok (.vqadd (bit n 31) (bv n 16 7) (bv n 9 7) (bv n 3 6))) else
  if m = 0x69 then zero (fld n 0 3 = 0) (.ok (.vqsub (bit n 31) (bv n 16 7) (bv n 9 7) (bv n 3 6))) else
  if m = 0x6A then zero (fld n 0 3 = 0) (.ok (.vqmul (bit n 31) (bv n 16 7) (bv n 9 7) (bv n 3 6))) else
  if m = 0x6B then zero (fld n 0 3 = 0) (.ok (.vqbfly (bit n 31) (bv n 16 7) (bv n 9 7) (bv n 3 6))) else
  if m = 0x6C then zero (fld n 0 3 = 0) (.ok (.vqbflyi (bit n 31) (bv n 16 7) (bv n 9 7) (bv n 3 6))) else
  .error .major

/-- The cross-lane majors (R52). -/
def fieldsCross (n m : Nat) : Except DecodeErr Instr :=
  if m = 0x70 then code (ShflM.ofCode (fld n 0 2)) fun m => .ok (.vshfl (bit n 31) (bv n 16 7) (bv n 9 7) (bv n 2 7) m) else
  if m = 0x71 then zero (fld n 2 1 = 0) (code (ShflM.ofCode (fld n 0 2)) fun m => .ok (.vshflS (bit n 31) (bv n 16 7) (bv n 9 7) (bv n 3 6) m)) else
  if m = 0x72 then zero (fld n 0 9 = 0 ∧ fld n 22 1 = 0) (.ok (.vballot (bit n 31) (bv n 16 6) (bv n 9 7))) else
  if m = 0x73 then zero (fld n 0 2 = 0 ∧ fld n 5 4 = 0 ∧ fld n 22 1 = 0) (code (RedOp.ofCode (fld n 2 3)) fun o => .ok (.vred (bit n 31) (bv n 16 6) (bv n 9 7) o)) else
  if m = 0x74 then zero (fld n 1 1 = 0 ∧ fld n 5 4 = 0) (code (RedOp.ofCode (fld n 2 3)) fun o => .ok (.vscan (bit n 31) (bv n 16 7) (bv n 9 7) o (bit n 0))) else
  if m = 0x75 then zero (fld n 0 3 = 0) (.ok (.vbcast (bit n 31) (bv n 16 7) (bv n 9 7) (bv n 3 6))) else
  if m = 0x76 then zero (fld n 0 3 = 0) (.ok (.vbxch (bit n 31) (bv n 16 7) (bv n 9 7) (bv n 3 6))) else
  if m = 0x77 then zero (fld n 0 9 = 0) (.ok (.vmatch (bit n 31) (bv n 16 7) (bv n 9 7))) else
  .error .major

/-- The memory majors (R53). -/
def fieldsMemory (n m : Nat) : Except DecodeErr Instr :=
  if m = 0x80 then code (LdW.ofCode (fld n 0 3)) fun w => .ok (.vld (bit n 31) (bv n 16 7) (bv n 10 6) (bv n 3 7) w) else
  if m = 0x81 then zero (fld n 2 1 = 0) (code (StW.ofCode (fld n 0 2)) fun w => .ok (.vst (bit n 31) (bv n 16 7) (bv n 10 6) (bv n 3 7) w)) else
  if m = 0x82 then code (Scope.ofCode (fld n 0 3)) fun s => .ok (.vldAcqB32 (bit n 31) (bv n 16 7) (bv n 10 6) (bv n 3 7) s) else
  if m = 0x83 then code (Scope.ofCode (fld n 0 3)) fun s => .ok (.vldAcqB64 (bit n 31) (bv n 16 7) (bv n 10 6) (bv n 3 7) s) else
  if m = 0x84 then code (Scope.ofCode (fld n 0 3)) fun s => .ok (.vstRelB32 (bit n 31) (bv n 16 7) (bv n 10 6) (bv n 3 7) s) else
  if m = 0x85 then code (Scope.ofCode (fld n 0 3)) fun s => .ok (.vstRelB64 (bit n 31) (bv n 16 7) (bv n 10 6) (bv n 3 7) s) else
  if m = 0x86 then code (Scope.ofCode (fld n 0 3)) fun s => .ok (.vldScB32 (bit n 31) (bv n 16 7) (bv n 10 6) (bv n 3 7) s) else
  if m = 0x87 then code (Scope.ofCode (fld n 0 3)) fun s => .ok (.vldScB64 (bit n 31) (bv n 16 7) (bv n 10 6) (bv n 3 7) s) else
  if m = 0x88 then code (Scope.ofCode (fld n 0 3)) fun s => .ok (.vstScB32 (bit n 31) (bv n 16 7) (bv n 10 6) (bv n 3 7) s) else
  if m = 0x89 then code (Scope.ofCode (fld n 0 3)) fun s => .ok (.vstScB64 (bit n 31) (bv n 16 7) (bv n 10 6) (bv n 3 7) s) else
  if m = 0x8A then code (LdW.ofCode (fld n 0 3)) fun w => .ok (.vlds (bit n 31) (bv n 16 7) (bv n 10 6) (bv n 3 7) w) else
  if m = 0x8B then zero (fld n 2 1 = 0) (code (StW.ofCode (fld n 0 2)) fun w => .ok (.vsts (bit n 31) (bv n 16 7) (bv n 10 6) (bv n 3 7) w)) else
  if m = 0x8C then code (LdW.ofCode (fld n 0 3)) fun w => .ok (.vldp (bit n 31) (bv n 16 7) (bv n 10 6) (bv n 3 7) w) else
  if m = 0x8D then zero (fld n 2 1 = 0) (code (StW.ofCode (fld n 0 2)) fun w => .ok (.vstp (bit n 31) (bv n 16 7) (bv n 10 6) (bv n 3 7) w)) else
  if m = 0x8E then zero (fld n 17 6 = 0) (code (Level.ofCode (fld n 0 5)) fun l => .ok (.sprf (bit n 31) (bv n 11 6) (bv n 5 6) l)) else
  if m = 0x8F then zero (fld n 3 13 = 0 ∧ fld n 18 5 = 0) (code (FenceK.ofCode (fld n 16 2)) fun k => code (Scope.ofCode (fld n 0 3)) fun s => .ok (.fence (bit n 31) k s)) else
  if m = 0x90 then code (WaitC.ofCode (fld n 0 5)) fun c => .ok (.mwait (bit n 31) (bv n 17 6) (bv n 11 6) (bv n 5 6) c) else
  if m = 0x91 then zero (fld n 17 6 = 0) (code (HintA.ofCode (fld n 0 5)) fun h => .ok (.rhint (bit n 31) (bv n 11 6) (bv n 5 6) h)) else
  .error .major

/-- The atomic and barrier object majors (R54). -/
def fieldsAtomic (n m : Nat) : Except DecodeErr Instr :=
  if m = 0xA0 then code (AtomOp.ofCode (fld n 0 3)) fun x => .ok (.vatomB32 (bit n 31) (bv n 16 7) (bv n 10 6) (bv n 3 7) x) else
  if m = 0xA1 then code (AtomOp.ofCode (fld n 0 3)) fun x => .ok (.vatomB64 (bit n 31) (bv n 16 7) (bv n 10 6) (bv n 3 7) x) else
  if m = 0xA2 then code (AtomOp.ofCode (fld n 0 3)) fun x => .ok (.vratomB32 (bit n 31) (bv n 16 7) (bv n 10 6) (bv n 3 7) x) else
  if m = 0xA3 then code (AtomOp.ofCode (fld n 0 3)) fun x => .ok (.vratomB64 (bit n 31) (bv n 16 7) (bv n 10 6) (bv n 3 7) x) else
  if m = 0xA4 then zero (fld n 4 1 = 0) (code (AtomOp.ofCode (fld n 0 3)) fun o => .ok (.satom (bit n 31) (bv n 17 6) (bv n 11 6) (bv n 5 6) (bit n 3) o)) else
  if m = 0xA5 then zero (fld n 0 5 = 0 ∧ fld n 17 6 = 0) (.ok (.boinit (bit n 31) (bv n 11 6) (bv n 5 6))) else
  if m = 0xA6 then zero (fld n 0 5 = 0) (.ok (.boarr (bit n 31) (bv n 17 6) (bv n 11 6) (bv n 5 6))) else
  if m = 0xA7 then zero (fld n 0 5 = 0) (.ok (.bowait (bit n 31) (bv n 17 6) (bv n 11 6) (bv n 5 6))) else
  if m = 0xA8 then zero (fld n 0 5 = 0 ∧ fld n 17 6 = 0) (.ok (.boexp (bit n 31) (bv n 11 6) (bv n 5 6))) else
  .error .major

/-- The copy majors (R55). -/
def fieldsCopy (n m : Nat) : Except DecodeErr Instr :=
  if m = 0xB0 then zero (fld n 2 7 = 0) (code (CpyW.ofCode (fld n 0 2)) fun w => .ok (.vcpy (bit n 31) (bv n 16 7) (bv n 9 7) w)) else
  if m = 0xB1 then zero (fld n 0 17 = 0) (.ok (.cbatch (bit n 31) (bv n 17 6))) else
  if m = 0xB2 then zero (fld n 0 11 = 0 ∧ fld n 17 6 = 0) (.ok (.cwait (bit n 31) (bv n 11 6))) else
  if m = 0xB3 then zero (fld n 0 11 = 0 ∧ fld n 17 6 = 0) (.ok (.kick (bit n 31) (bv n 11 6))) else
  if m = 0xB4 then zero (fld n 0 5 = 0 ∧ fld n 17 6 = 0) (.ok (.rput (bit n 31) (bv n 11 6) (bv n 5 6))) else
  if m = 0xB5 then zero (fld n 0 5 = 0 ∧ fld n 17 6 = 0) (.ok (.rget (bit n 31) (bv n 11 6) (bv n 5 6))) else
  .error .major

/-- The matrix majors (R56). -/
def fieldsMatrix (n m : Nat) : Except DecodeErr Instr :=
  if m = 0xC0 then zero (fld n 2 3 = 0 ∧ fld n 17 6 = 0) (.ok (.mldb (bit n 31) (bv n 11 6) (bv n 5 6) (bv n 0 2))) else
  if m = 0xC1 then zero (fld n 0 16 = 0 ∧ fld n 18 5 = 0) (.ok (.mfree (bit n 31) (bv n 16 2))) else
  if m = 0xC2 then zero (fld n 0 11 = 0 ∧ fld n 17 6 = 0) (.ok (.munf (bit n 31) (bv n 11 6))) else
  if m = 0xC3 then zero (fld n 0 9 = 0 ∧ fld n 16 7 = 0) (.ok (.mmq (bit n 31) (bv n 9 7))) else
  if m = 0xC4 then (if fld n 0 5 = 0 ∧ fld n 17 6 = 0 then .ok (.mscaleA (bit n 31) (bv n 11 6) (bv n 5 6)) else
      if fld n 0 5 = 0x1 ∧ fld n 17 6 = 0 then .ok (.mscaleB (bit n 31) (bv n 11 6) (bv n 5 6)) else .error .minor) else
  if m = 0xC5 then zero (fld n 1 16 = 0) (.ok (.mstat (bit n 31) (bv n 17 6) (bit n 0))) else
  if m = 0xC6 then zero (fld n 1 16 = 0) (.ok (.mchk (bit n 31) (bv n 17 6) (bit n 0))) else
  .error .major

/-- The fabric majors (R57). -/
def fieldsFabric (n m : Nat) : Except DecodeErr Instr :=
  if m = 0xE0 then zero (fld n 0 5 = 0) (.ok (.fopen (bit n 31) (bv n 17 6) (bv n 11 6) (bv n 5 6))) else
  if m = 0xE1 then zero (fld n 0 11 = 0 ∧ fld n 17 6 = 0) (.ok (.fclose (bit n 31) (bv n 11 6))) else
  if m = 0xE2 then (if fld n 0 5 = 0 ∧ fld n 17 6 = 0 then .ok (.fsend (bit n 31) (bv n 11 6) (bv n 5 6)) else
      if fld n 0 5 = 0x1 ∧ fld n 17 6 = 0 then .ok (.fsendDefer (bit n 31) (bv n 11 6) (bv n 5 6)) else .error .minor) else
  if m = 0xE3 then zero (fld n 2 3 = 0 ∧ fld n 17 6 = 0) (code (CombOp.ofCode (fld n 0 2)) fun o => .ok (.fcomb (bit n 31) (bv n 11 6) (bv n 5 6) o)) else
  .error .major

/-- The privileged majors (R58). -/
def fieldsPriv (n m : Nat) : Except DecodeErr Instr :=
  if m = 0xF0 then zero (fld n 0 23 = 0) (noSafePoint n .eret) else
  if m = 0xF1 then zero (fld n 17 6 = 0) (code (TlbS.ofCode (fld n 0 5)) fun s => .ok (.tlbinv (bit n 31) (bv n 11 6) (bv n 5 6) s)) else
  if m = 0xF2 then zero (fld n 17 6 = 0) (code (Level.ofCode (fld n 0 5)) fun l => .ok (.cinv (bit n 31) (bv n 11 6) (bv n 5 6) l)) else
  if m = 0xF3 then zero (fld n 0 5 = 0 ∧ fld n 17 6 = 0) (.ok (.kzero (bit n 31) (bv n 11 6) (bv n 5 6))) else
  if m = 0xF4 then zero (fld n 0 11 = 0) (.ok (.kstat (bit n 31) (bv n 17 6) (bv n 11 6))) else
  if m = 0xF5 then zero (fld n 0 11 = 0) (.ok (.scrub (bit n 31) (bv n 17 6) (bv n 11 6))) else
  if m = 0xF6 then zero (fld n 0 5 = 0) (.ok (.cassign (bit n 31) (bv n 17 6) (bv n 11 6) (bv n 5 6))) else
  .error .major

end Dec

open Dec in
/-- The fields of a word under the format that its major opcode selects, by the groups of R45. -/
def decodeFields (n : Nat) : Except DecodeErr Instr :=
  let m := fld n 23 8
  if m < 0x10 then fieldsControl n m else
  if m < 0x30 then fieldsScalar n m else
  if m < 0x40 then fieldsLabel n m else
  if m < 0x68 then fieldsVector n m else
  if m < 0x70 then fieldsModular n m else
  if m < 0x80 then fieldsCross n m else
  if m < 0xA0 then fieldsMemory n m else
  if m < 0xB0 then fieldsAtomic n m else
  if m < 0xC0 then fieldsCopy n m else
  if m < 0xD0 then fieldsMatrix n m else
  if m < 0xF0 then fieldsFabric n m else
  fieldsPriv n m

/-- Decodes one instruction word: the fields, then the operand limits of the term (03 R62 step 3). -/
def decode (w : BitVec 32) : Except DecodeErr Instr :=
  match decodeFields w.toNat with
  | .error e => .error e
  | .ok i =>
    match i.illFormed with
    | some e => .error (.operand e)
    | none => .ok i

/-- Four bytes at the lowest addresses, little-endian (R5), and the rest of the list. -/
def decodeBytes : List Byte → Except DecodeErr (Instr × List Byte)
  | b0 :: b1 :: b2 :: b3 :: rest =>
    match decode (b3 ++ b2 ++ b1 ++ b0) with
    | .ok i => .ok (i, rest)
    | .error e => .error e
  | _ => .error .short

/-- `i` is an instruction word of 03; the other constructors are steps that no word encodes. -/
def Instr.isWord : Instr → Bool
  | .splitMergeEarly .. | .loadReturn .. | .mwaitWake .. | .spawnBinTimer .. | .spawnBinLaunch ..
  | .slotDrainDone .. | .localityDecay .. | .starvationIssue .. | .laneCopy .. | .requestElement ..
  | .requestComplete .. | .remoteSourceRead .. | .remotePutArrival .. | .remoteGetArrival ..
  | .rgetDataReturn .. | .remoteHoldTimeout .. | .sendArrival .. | .sendDeferAdmit .. | .sendStatus ..
  | .sendUnreachable .. | .combinerContribution .. | .combinerTimeout .. | .combineResult ..
  | .passGroupLaunch .. | .passExecute .. | .passDrain .. | .slotLoad .. | .eccUncorrectable ..
  | .hangDetect .. | .refusalLogFlush .. | .faultTimeout .. | .gangDispatch .. | .launchReady ..
  | .launchStart .. | .launchComplete .. | .auditRun .. | .auditCompare .. | .quantumExpiry ..
  | .preemptDeadline .. | .splitRelease .. | .gangSave .. | .saveTimeout .. | .gangRestore ..
  | .clusterLend .. | .clusterReclaim .. | .budgetWindow .. | .hostRmaRead .. | .hostRmaWrite ..
  | .sessionOpen .. | .launch .. | .copy .. | .signal .. | .wait .. | .fenceCmd .. | .ctxcreate ..
  | .ctxdestroy .. | .migrate .. | .map .. | .unmap .. | .faultreply .. | .dcdadd .. | .dcdrel ..
  | .writePvcfg .. | .writePvcol .. | .setBudgets .. | .readInService .. | .pavilionImageUpdate ..
  | .clusterQuarantine .. | .sectorRetirement .. | .ethernetReset .. | .ethernetRemoval .. | .cxlReset ..
  | .cxlRemoval .. | .cxlResetTimeout .. | .returnCore .. | .returnCluster .. | .returnPage ..
  | .raiseFuseTackRoom .. | .raiseFusePavilion .. | .warmReset .. | .watchdogReset .. | .resumeScrub ..
  | .loadEvictionSchedule .. | .quarantineThreshold .. | .coldReset .. | .deriveKey .. | .getVersion ..
  | .getCapabilities .. | .negotiateAlgorithms .. | .getDigests .. | .getCertificate .. | .challenge ..
  | .getMeasurements .. | .keyExchange .. | .finish .. | .endSession .. | .keyload .. | .grant ..
  | .migrationStateReceive .. | .prepared .. | .commit .. | .refused .. | .outcome .. | .migrationSilence ..
  | .migrationOutcomePoll .. | .migrationSourceLoss .. | .scrubChunk .. | .grantExpiry .. | .firmwareLoad ..
  | .ideReestablished .. | .imageSignatureVerified .. => false
  | .braZ .. | .braNz .. | .brd .. | .call .. | .jmpi .. | .ret .. | .sread .. | .sreadClr .. | .swid ..
  | .vwid .. | .spawn .. | .trap .. | .bar .. | .barg .. | .nop .. | .join .. | .exit .. | .yield ..
  | .sadd .. | .ssub .. | .smul .. | .smulh .. | .sdiv .. | .srem .. | .sand .. | .sor .. | .sxor ..
  | .sshl .. | .sshr .. | .ssra .. | .srot .. | .smin .. | .smax .. | .scmp .. | .ssel .. | .smovi ..
  | .smovh .. | .saddi .. | .spopc .. | .sclz .. | .sctz .. | .sbrev .. | .sbfx .. | .sbfi .. | .sld ..
  | .sst .. | .sldc .. | .mode .. | .modei .. | .lget .. | .lgetV .. | .ljoin .. | .ljoinV .. | .lchk ..
  | .ltcompact .. | .dcls .. | .dclsS .. | .vadd .. | .vsub .. | .vmul .. | .vmulh .. | .vmad .. | .vfma ..
  | .vmin .. | .vmax .. | .vabs .. | .vneg .. | .vdiv .. | .vsqrt .. | .vrcp .. | .vrsq .. | .vexp2 ..
  | .vlog2 .. | .vsin .. | .vcos .. | .vcvt .. | .vand .. | .vor .. | .vxor .. | .vnot .. | .vshl ..
  | .vshr .. | .vsra .. | .vbfx .. | .vbfi .. | .vpopc .. | .vclz .. | .vbrev .. | .vcmp .. | .vsel ..
  | .vmov .. | .vmovs .. | .vmovi .. | .vqadd .. | .vqsub .. | .vqmul .. | .vqbfly .. | .vqbflyi ..
  | .vshfl .. | .vshflS .. | .vballot .. | .vred .. | .vscan .. | .vbcast .. | .vbxch .. | .vmatch ..
  | .vld .. | .vst .. | .vldAcqB32 .. | .vldAcqB64 .. | .vstRelB32 .. | .vstRelB64 .. | .vldScB32 ..
  | .vldScB64 .. | .vstScB32 .. | .vstScB64 .. | .vlds .. | .vsts .. | .vldp .. | .vstp .. | .sprf ..
  | .fence .. | .mwait .. | .rhint .. | .vatomB32 .. | .vatomB64 .. | .vratomB32 .. | .vratomB64 ..
  | .satom .. | .boinit .. | .boarr .. | .bowait .. | .boexp .. | .vcpy .. | .cbatch .. | .cwait ..
  | .kick .. | .rput .. | .rget .. | .mldb .. | .mfree .. | .munf .. | .mmq .. | .mscaleA .. | .mscaleB ..
  | .mstat .. | .mchk .. | .fopen .. | .fclose .. | .fsend .. | .fsendDefer .. | .fcomb .. | .eret ..
  | .tlbinv .. | .cinv .. | .kzero .. | .kstat .. | .scrub .. | .cassign .. => true

/-- The value of an instruction's word. A step has none and takes 0, the word that is never assigned (R45). -/
def encodeNat : Instr → Nat
  | .braZ p c o => 0x00800000 + p.toNat * 0x80000000 + c.toNat * 0x20000 + o.toNat
  | .braNz p c o => 0x01000000 + p.toNat * 0x80000000 + c.toNat * 0x20000 + o.toNat
  | .brd p c o => 0x01800000 + p.toNat * 0x80000000 + c.toNat * 0x20000 + o.toNat
  | .call p c o => 0x02000000 + p.toNat * 0x80000000 + c.toNat * 0x20000 + o.toNat
  | .jmpi p a => 0x02800000 + p.toNat * 0x80000000 + a.toNat * 0x800
  | .ret p a => 0x02800001 + p.toNat * 0x80000000 + a.toNat * 0x800
  | .sread p d n => 0x03000000 + p.toNat * 0x80000000 + d.toNat * 0x10000 + n.toNat
  | .sreadClr p d n => 0x03008000 + p.toNat * 0x80000000 + d.toNat * 0x10000 + n.toNat
  | .swid p d n => 0x03800000 + p.toNat * 0x80000000 + d.toNat * 0x10000 + n.toNat
  | .vwid p d n => 0x04000000 + p.toNat * 0x80000000 + d.toNat * 0x10000 + n.toNat
  | .spawn p a b => 0x04800000 + p.toNat * 0x80000000 + a.toNat * 0x200 + b.toNat * 0x8
  | .trap p n => 0x05000000 + p.toNat * 0x80000000 + n.toNat
  | .bar p d n => 0x05800000 + p.toNat * 0x80000000 + d.toNat * 0x10000 + n.toNat
  | .barg p d n => 0x06000000 + p.toNat * 0x80000000 + d.toNat * 0x10000 + n.toNat
  | .nop p => 0x07800000 + p.toNat * 0x80000000
  | .join p => 0x07810000 + p.toNat * 0x80000000
  | .exit => 0x07820000
  | .yield p => 0x07830000 + p.toNat * 0x80000000
  | .sadd p d a b => 0x08000000 + p.toNat * 0x80000000 + d.toNat * 0x20000 + a.toNat * 0x800 + b.toNat * 0x20
  | .ssub p d a b => 0x08800000 + p.toNat * 0x80000000 + d.toNat * 0x20000 + a.toNat * 0x800 + b.toNat * 0x20
  | .smul p d a b => 0x09000000 + p.toNat * 0x80000000 + d.toNat * 0x20000 + a.toNat * 0x800 + b.toNat * 0x20
  | .smulh p d a b => 0x09800000 + p.toNat * 0x80000000 + d.toNat * 0x20000 + a.toNat * 0x800 + b.toNat * 0x20
  | .sdiv p d a b => 0x0A000000 + p.toNat * 0x80000000 + d.toNat * 0x20000 + a.toNat * 0x800 + b.toNat * 0x20
  | .srem p d a b => 0x0A800000 + p.toNat * 0x80000000 + d.toNat * 0x20000 + a.toNat * 0x800 + b.toNat * 0x20
  | .sand p d a b => 0x0B000000 + p.toNat * 0x80000000 + d.toNat * 0x20000 + a.toNat * 0x800 + b.toNat * 0x20
  | .sor p d a b => 0x0B800000 + p.toNat * 0x80000000 + d.toNat * 0x20000 + a.toNat * 0x800 + b.toNat * 0x20
  | .sxor p d a b => 0x0C000000 + p.toNat * 0x80000000 + d.toNat * 0x20000 + a.toNat * 0x800 + b.toNat * 0x20
  | .sshl p d a b => 0x0C800000 + p.toNat * 0x80000000 + d.toNat * 0x20000 + a.toNat * 0x800 + b.toNat * 0x20
  | .sshr p d a b => 0x0D000000 + p.toNat * 0x80000000 + d.toNat * 0x20000 + a.toNat * 0x800 + b.toNat * 0x20
  | .ssra p d a b => 0x0D800000 + p.toNat * 0x80000000 + d.toNat * 0x20000 + a.toNat * 0x800 + b.toNat * 0x20
  | .srot p d a b => 0x0E000000 + p.toNat * 0x80000000 + d.toNat * 0x20000 + a.toNat * 0x800 + b.toNat * 0x20
  | .smin p d a b => 0x0E800000 + p.toNat * 0x80000000 + d.toNat * 0x20000 + a.toNat * 0x800 + b.toNat * 0x20
  | .smax p d a b => 0x0F000000 + p.toNat * 0x80000000 + d.toNat * 0x20000 + a.toNat * 0x800 + b.toNat * 0x20
  | .scmp p d a b c => 0x0F800000 + p.toNat * 0x80000000 + d.toNat * 0x20000 + a.toNat * 0x800 + b.toNat * 0x20 + c.code
  | .ssel p d a b => 0x10000000 + p.toNat * 0x80000000 + d.toNat * 0x20000 + a.toNat * 0x800 + b.toNat * 0x20
  | .smovi p d i => 0x10800000 + p.toNat * 0x80000000 + d.toNat * 0x10000 + i.toNat
  | .smovh p d i => 0x11000000 + p.toNat * 0x80000000 + d.toNat * 0x10000 + i.toNat
  | .saddi p d i => 0x11800000 + p.toNat * 0x80000000 + d.toNat * 0x10000 + i.toNat
  | .spopc p d a => 0x12000000 + p.toNat * 0x80000000 + d.toNat * 0x20000 + a.toNat * 0x800
  | .sclz p d a => 0x12800000 + p.toNat * 0x80000000 + d.toNat * 0x20000 + a.toNat * 0x800
  | .sctz p d a => 0x13000000 + p.toNat * 0x80000000 + d.toNat * 0x20000 + a.toNat * 0x800
  | .sbrev p d a => 0x13800000 + p.toNat * 0x80000000 + d.toNat * 0x20000 + a.toNat * 0x800
  | .sbfx p d a b => 0x14000000 + p.toNat * 0x80000000 + d.toNat * 0x20000 + a.toNat * 0x800 + b.toNat * 0x20
  | .sbfi p d a b => 0x14800000 + p.toNat * 0x80000000 + d.toNat * 0x20000 + a.toNat * 0x800 + b.toNat * 0x20
  | .sld p d a b w => 0x15000000 + p.toNat * 0x80000000 + d.toNat * 0x20000 + a.toNat * 0x800 + b.toNat * 0x20 + w.code
  | .sst p d a b w => 0x15800000 + p.toNat * 0x80000000 + d.toNat * 0x20000 + a.toNat * 0x800 + b.toNat * 0x20 + w.code
  | .sldc p d n => 0x16000000 + p.toNat * 0x80000000 + d.toNat * 0x10000 + n.toNat
  | .mode p a => 0x18000000 + p.toNat * 0x80000000 + a.toNat * 0x800
  | .modei p i => 0x18800000 + p.toNat * 0x80000000 + i.toNat
  | .lget p d a => 0x19000000 + p.toNat * 0x80000000 + d.toNat * 0x20000 + a.toNat * 0x800
  | .lgetV p d a => 0x19800000 + p.toNat * 0x80000000 + d.toNat * 0x10000 + a.toNat * 0x200
  | .ljoin p d a b => 0x1A000000 + p.toNat * 0x80000000 + d.toNat * 0x20000 + a.toNat * 0x800 + b.toNat * 0x20
  | .ljoinV p d a b => 0x1A800000 + p.toNat * 0x80000000 + d.toNat * 0x10000 + a.toNat * 0x200 + b.toNat * 0x8
  | .lchk p d a b => 0x1B000000 + p.toNat * 0x80000000 + d.toNat * 0x20000 + a.toNat * 0x800 + b.toNat * 0x20
  | .ltcompact p => 0x1B800000 + p.toNat * 0x80000000
  | .dcls p d a g => 0x1C000000 + p.toNat * 0x80000000 + d.toNat * 0x10000 + a.toNat * 0x200 + g.toNat * 0x8
  | .dclsS p d a g => 0x1C800000 + p.toNat * 0x80000000 + d.toNat * 0x20000 + a.toNat * 0x800 + g.toNat * 0x20
  | .vadd p d a b => 0x20000000 + p.toNat * 0x80000000 + d.toNat * 0x10000 + a.toNat * 0x200 + b.toNat * 0x4
  | .vsub p d a b => 0x20800000 + p.toNat * 0x80000000 + d.toNat * 0x10000 + a.toNat * 0x200 + b.toNat * 0x4
  | .vmul p d a b => 0x21000000 + p.toNat * 0x80000000 + d.toNat * 0x10000 + a.toNat * 0x200 + b.toNat * 0x4
  | .vmulh p d a b => 0x21800000 + p.toNat * 0x80000000 + d.toNat * 0x10000 + a.toNat * 0x200 + b.toNat * 0x4
  | .vmad p d a b => 0x22000000 + p.toNat * 0x80000000 + d.toNat * 0x10000 + a.toNat * 0x200 + b.toNat * 0x4
  | .vfma p d a b => 0x22800000 + p.toNat * 0x80000000 + d.toNat * 0x10000 + a.toNat * 0x200 + b.toNat * 0x4
  | .vmin p d a b => 0x23000000 + p.toNat * 0x80000000 + d.toNat * 0x10000 + a.toNat * 0x200 + b.toNat * 0x4
  | .vmax p d a b => 0x23800000 + p.toNat * 0x80000000 + d.toNat * 0x10000 + a.toNat * 0x200 + b.toNat * 0x4
  | .vabs p d a => 0x24000000 + p.toNat * 0x80000000 + d.toNat * 0x10000 + a.toNat * 0x200
  | .vneg p d a => 0x24800000 + p.toNat * 0x80000000 + d.toNat * 0x10000 + a.toNat * 0x200
  | .vdiv p d a b => 0x25000000 + p.toNat * 0x80000000 + d.toNat * 0x10000 + a.toNat * 0x200 + b.toNat * 0x4
  | .vsqrt p d a => 0x25800000 + p.toNat * 0x80000000 + d.toNat * 0x10000 + a.toNat * 0x200
  | .vrcp p d a => 0x26000000 + p.toNat * 0x80000000 + d.toNat * 0x10000 + a.toNat * 0x200
  | .vrsq p d a => 0x26800000 + p.toNat * 0x80000000 + d.toNat * 0x10000 + a.toNat * 0x200
  | .vexp2 p d a => 0x27000000 + p.toNat * 0x80000000 + d.toNat * 0x10000 + a.toNat * 0x200
  | .vlog2 p d a => 0x27800000 + p.toNat * 0x80000000 + d.toNat * 0x10000 + a.toNat * 0x200
  | .vsin p d a => 0x28000000 + p.toNat * 0x80000000 + d.toNat * 0x10000 + a.toNat * 0x200
  | .vcos p d a => 0x28800000 + p.toNat * 0x80000000 + d.toNat * 0x10000 + a.toNat * 0x200
  | .vcvt p d a t => 0x29000000 + p.toNat * 0x80000000 + d.toNat * 0x10000 + a.toNat * 0x200 + t.code * 0x4
  | .vand p d a b => 0x29800000 + p.toNat * 0x80000000 + d.toNat * 0x10000 + a.toNat * 0x200 + b.toNat * 0x4
  | .vor p d a b => 0x2A000000 + p.toNat * 0x80000000 + d.toNat * 0x10000 + a.toNat * 0x200 + b.toNat * 0x4
  | .vxor p d a b => 0x2A800000 + p.toNat * 0x80000000 + d.toNat * 0x10000 + a.toNat * 0x200 + b.toNat * 0x4
  | .vnot p d a => 0x2B000000 + p.toNat * 0x80000000 + d.toNat * 0x10000 + a.toNat * 0x200
  | .vshl p d a b => 0x2B800000 + p.toNat * 0x80000000 + d.toNat * 0x10000 + a.toNat * 0x200 + b.toNat * 0x4
  | .vshr p d a b => 0x2C000000 + p.toNat * 0x80000000 + d.toNat * 0x10000 + a.toNat * 0x200 + b.toNat * 0x4
  | .vsra p d a b => 0x2C800000 + p.toNat * 0x80000000 + d.toNat * 0x10000 + a.toNat * 0x200 + b.toNat * 0x4
  | .vbfx p d a b => 0x2D000000 + p.toNat * 0x80000000 + d.toNat * 0x10000 + a.toNat * 0x200 + b.toNat * 0x4
  | .vbfi p d a b => 0x2D800000 + p.toNat * 0x80000000 + d.toNat * 0x10000 + a.toNat * 0x200 + b.toNat * 0x4
  | .vpopc p d a => 0x2E000000 + p.toNat * 0x80000000 + d.toNat * 0x10000 + a.toNat * 0x200
  | .vclz p d a => 0x2E800000 + p.toNat * 0x80000000 + d.toNat * 0x10000 + a.toNat * 0x200
  | .vbrev p d a => 0x2F000000 + p.toNat * 0x80000000 + d.toNat * 0x10000 + a.toNat * 0x200
  | .vcmp p d a b c => 0x2F800000 + p.toNat * 0x80000000 + d.toNat * 0x10000 + a.toNat * 0x200 + b.toNat * 0x4 + c.code / 4 * 0x400000 + c.code % 4
  | .vsel p d a b => 0x30000000 + p.toNat * 0x80000000 + d.toNat * 0x10000 + a.toNat * 0x200 + b.toNat * 0x8
  | .vmov p d a => 0x30800000 + p.toNat * 0x80000000 + d.toNat * 0x10000 + a.toNat * 0x200
  | .vmovs p d b => 0x31000000 + p.toNat * 0x80000000 + d.toNat * 0x10000 + b.toNat * 0x8
  | .vmovi p d i => 0x31800000 + p.toNat * 0x80000000 + d.toNat * 0x10000 + i.toNat
  | .vqadd p d a b => 0x34000000 + p.toNat * 0x80000000 + d.toNat * 0x10000 + a.toNat * 0x200 + b.toNat * 0x8
  | .vqsub p d a b => 0x34800000 + p.toNat * 0x80000000 + d.toNat * 0x10000 + a.toNat * 0x200 + b.toNat * 0x8
  | .vqmul p d a b => 0x35000000 + p.toNat * 0x80000000 + d.toNat * 0x10000 + a.toNat * 0x200 + b.toNat * 0x8
  | .vqbfly p d a b => 0x35800000 + p.toNat * 0x80000000 + d.toNat * 0x10000 + a.toNat * 0x200 + b.toNat * 0x8
  | .vqbflyi p d a b => 0x36000000 + p.toNat * 0x80000000 + d.toNat * 0x10000 + a.toNat * 0x200 + b.toNat * 0x8
  | .vshfl p d a b m => 0x38000000 + p.toNat * 0x80000000 + d.toNat * 0x10000 + a.toNat * 0x200 + b.toNat * 0x4 + m.code
  | .vshflS p d a b m => 0x38800000 + p.toNat * 0x80000000 + d.toNat * 0x10000 + a.toNat * 0x200 + b.toNat * 0x8 + m.code
  | .vballot p d a => 0x39000000 + p.toNat * 0x80000000 + d.toNat * 0x10000 + a.toNat * 0x200
  | .vred p d a o => 0x39800000 + p.toNat * 0x80000000 + d.toNat * 0x10000 + a.toNat * 0x200 + o.code * 0x4
  | .vscan p d a o e => 0x3A000000 + p.toNat * 0x80000000 + d.toNat * 0x10000 + a.toNat * 0x200 + o.code * 0x4 + e.toNat
  | .vbcast p d a b => 0x3A800000 + p.toNat * 0x80000000 + d.toNat * 0x10000 + a.toNat * 0x200 + b.toNat * 0x8
  | .vbxch p d a b => 0x3B000000 + p.toNat * 0x80000000 + d.toNat * 0x10000 + a.toNat * 0x200 + b.toNat * 0x8
  | .vmatch p d a => 0x3B800000 + p.toNat * 0x80000000 + d.toNat * 0x10000 + a.toNat * 0x200
  | .vld p d b o w => 0x40000000 + p.toNat * 0x80000000 + d.toNat * 0x10000 + b.toNat * 0x400 + o.toNat * 0x8 + w.code
  | .vst p d b o w => 0x40800000 + p.toNat * 0x80000000 + d.toNat * 0x10000 + b.toNat * 0x400 + o.toNat * 0x8 + w.code
  | .vldAcqB32 p d b o s => 0x41000000 + p.toNat * 0x80000000 + d.toNat * 0x10000 + b.toNat * 0x400 + o.toNat * 0x8 + s.code
  | .vldAcqB64 p d b o s => 0x41800000 + p.toNat * 0x80000000 + d.toNat * 0x10000 + b.toNat * 0x400 + o.toNat * 0x8 + s.code
  | .vstRelB32 p d b o s => 0x42000000 + p.toNat * 0x80000000 + d.toNat * 0x10000 + b.toNat * 0x400 + o.toNat * 0x8 + s.code
  | .vstRelB64 p d b o s => 0x42800000 + p.toNat * 0x80000000 + d.toNat * 0x10000 + b.toNat * 0x400 + o.toNat * 0x8 + s.code
  | .vldScB32 p d b o s => 0x43000000 + p.toNat * 0x80000000 + d.toNat * 0x10000 + b.toNat * 0x400 + o.toNat * 0x8 + s.code
  | .vldScB64 p d b o s => 0x43800000 + p.toNat * 0x80000000 + d.toNat * 0x10000 + b.toNat * 0x400 + o.toNat * 0x8 + s.code
  | .vstScB32 p d b o s => 0x44000000 + p.toNat * 0x80000000 + d.toNat * 0x10000 + b.toNat * 0x400 + o.toNat * 0x8 + s.code
  | .vstScB64 p d b o s => 0x44800000 + p.toNat * 0x80000000 + d.toNat * 0x10000 + b.toNat * 0x400 + o.toNat * 0x8 + s.code
  | .vlds p d b o w => 0x45000000 + p.toNat * 0x80000000 + d.toNat * 0x10000 + b.toNat * 0x400 + o.toNat * 0x8 + w.code
  | .vsts p d b o w => 0x45800000 + p.toNat * 0x80000000 + d.toNat * 0x10000 + b.toNat * 0x400 + o.toNat * 0x8 + w.code
  | .vldp p d b o w => 0x46000000 + p.toNat * 0x80000000 + d.toNat * 0x10000 + b.toNat * 0x400 + o.toNat * 0x8 + w.code
  | .vstp p d b o w => 0x46800000 + p.toNat * 0x80000000 + d.toNat * 0x10000 + b.toNat * 0x400 + o.toNat * 0x8 + w.code
  | .sprf p a b l => 0x47000000 + p.toNat * 0x80000000 + a.toNat * 0x800 + b.toNat * 0x20 + l.code
  | .fence p k s => 0x47800000 + p.toNat * 0x80000000 + k.code * 0x10000 + s.code
  | .mwait p d a b c => 0x48000000 + p.toNat * 0x80000000 + d.toNat * 0x20000 + a.toNat * 0x800 + b.toNat * 0x20 + c.code
  | .rhint p a b h => 0x48800000 + p.toNat * 0x80000000 + a.toNat * 0x800 + b.toNat * 0x20 + h.code
  | .vatomB32 p d b o x => 0x50000000 + p.toNat * 0x80000000 + d.toNat * 0x10000 + b.toNat * 0x400 + o.toNat * 0x8 + x.code
  | .vatomB64 p d b o x => 0x50800000 + p.toNat * 0x80000000 + d.toNat * 0x10000 + b.toNat * 0x400 + o.toNat * 0x8 + x.code
  | .vratomB32 p d b o x => 0x51000000 + p.toNat * 0x80000000 + d.toNat * 0x10000 + b.toNat * 0x400 + o.toNat * 0x8 + x.code
  | .vratomB64 p d b o x => 0x51800000 + p.toNat * 0x80000000 + d.toNat * 0x10000 + b.toNat * 0x400 + o.toNat * 0x8 + x.code
  | .satom p d a b w o => 0x52000000 + p.toNat * 0x80000000 + d.toNat * 0x20000 + a.toNat * 0x800 + b.toNat * 0x20 + w.toNat * 0x8 + o.code
  | .boinit p a b => 0x52800000 + p.toNat * 0x80000000 + a.toNat * 0x800 + b.toNat * 0x20
  | .boarr p d a b => 0x53000000 + p.toNat * 0x80000000 + d.toNat * 0x20000 + a.toNat * 0x800 + b.toNat * 0x20
  | .bowait p d a b => 0x53800000 + p.toNat * 0x80000000 + d.toNat * 0x20000 + a.toNat * 0x800 + b.toNat * 0x20
  | .boexp p a b => 0x54000000 + p.toNat * 0x80000000 + a.toNat * 0x800 + b.toNat * 0x20
  | .vcpy p d a w => 0x58000000 + p.toNat * 0x80000000 + d.toNat * 0x10000 + a.toNat * 0x200 + w.code
  | .cbatch p d => 0x58800000 + p.toNat * 0x80000000 + d.toNat * 0x20000
  | .cwait p a => 0x59000000 + p.toNat * 0x80000000 + a.toNat * 0x800
  | .kick p a => 0x59800000 + p.toNat * 0x80000000 + a.toNat * 0x800
  | .rput p a b => 0x5A000000 + p.toNat * 0x80000000 + a.toNat * 0x800 + b.toNat * 0x20
  | .rget p a b => 0x5A800000 + p.toNat * 0x80000000 + a.toNat * 0x800 + b.toNat * 0x20
  | .mldb p a b n => 0x60000000 + p.toNat * 0x80000000 + a.toNat * 0x800 + b.toNat * 0x20 + n.toNat
  | .mfree p n => 0x60800000 + p.toNat * 0x80000000 + n.toNat * 0x10000
  | .munf p a => 0x61000000 + p.toNat * 0x80000000 + a.toNat * 0x800
  | .mmq p a => 0x61800000 + p.toNat * 0x80000000 + a.toNat * 0x200
  | .mscaleA p a b => 0x62000000 + p.toNat * 0x80000000 + a.toNat * 0x800 + b.toNat * 0x20
  | .mscaleB p a b => 0x62000001 + p.toNat * 0x80000000 + a.toNat * 0x800 + b.toNat * 0x20
  | .mstat p d c => 0x62800000 + p.toNat * 0x80000000 + d.toNat * 0x20000 + c.toNat
  | .mchk p d c => 0x63000000 + p.toNat * 0x80000000 + d.toNat * 0x20000 + c.toNat
  | .fopen p d a b => 0x70000000 + p.toNat * 0x80000000 + d.toNat * 0x20000 + a.toNat * 0x800 + b.toNat * 0x20
  | .fclose p a => 0x70800000 + p.toNat * 0x80000000 + a.toNat * 0x800
  | .fsend p a b => 0x71000000 + p.toNat * 0x80000000 + a.toNat * 0x800 + b.toNat * 0x20
  | .fsendDefer p a b => 0x71000001 + p.toNat * 0x80000000 + a.toNat * 0x800 + b.toNat * 0x20
  | .fcomb p a b o => 0x71800000 + p.toNat * 0x80000000 + a.toNat * 0x800 + b.toNat * 0x20 + o.code
  | .eret => 0x78000000
  | .tlbinv p a b s => 0x78800000 + p.toNat * 0x80000000 + a.toNat * 0x800 + b.toNat * 0x20 + s.code
  | .cinv p a b l => 0x79000000 + p.toNat * 0x80000000 + a.toNat * 0x800 + b.toNat * 0x20 + l.code
  | .kzero p a b => 0x79800000 + p.toNat * 0x80000000 + a.toNat * 0x800 + b.toNat * 0x20
  | .kstat p d a => 0x7A000000 + p.toNat * 0x80000000 + d.toNat * 0x20000 + a.toNat * 0x800
  | .scrub p d a => 0x7A800000 + p.toNat * 0x80000000 + d.toNat * 0x20000 + a.toNat * 0x800
  | .cassign p d a b => 0x7B000000 + p.toNat * 0x80000000 + d.toNat * 0x20000 + a.toNat * 0x800 + b.toNat * 0x20
  | .splitMergeEarly .. | .loadReturn .. | .mwaitWake .. | .spawnBinTimer .. | .spawnBinLaunch ..
  | .slotDrainDone .. | .localityDecay .. | .starvationIssue .. | .laneCopy .. | .requestElement ..
  | .requestComplete .. | .remoteSourceRead .. | .remotePutArrival .. | .remoteGetArrival ..
  | .rgetDataReturn .. | .remoteHoldTimeout .. | .sendArrival .. | .sendDeferAdmit .. | .sendStatus ..
  | .sendUnreachable .. | .combinerContribution .. | .combinerTimeout .. | .combineResult ..
  | .passGroupLaunch .. | .passExecute .. | .passDrain .. | .slotLoad .. | .eccUncorrectable ..
  | .hangDetect .. | .refusalLogFlush .. | .faultTimeout .. | .gangDispatch .. | .launchReady ..
  | .launchStart .. | .launchComplete .. | .auditRun .. | .auditCompare .. | .quantumExpiry ..
  | .preemptDeadline .. | .splitRelease .. | .gangSave .. | .saveTimeout .. | .gangRestore ..
  | .clusterLend .. | .clusterReclaim .. | .budgetWindow .. | .hostRmaRead .. | .hostRmaWrite ..
  | .sessionOpen .. | .launch .. | .copy .. | .signal .. | .wait .. | .fenceCmd .. | .ctxcreate ..
  | .ctxdestroy .. | .migrate .. | .map .. | .unmap .. | .faultreply .. | .dcdadd .. | .dcdrel ..
  | .writePvcfg .. | .writePvcol .. | .setBudgets .. | .readInService .. | .pavilionImageUpdate ..
  | .clusterQuarantine .. | .sectorRetirement .. | .ethernetReset .. | .ethernetRemoval .. | .cxlReset ..
  | .cxlRemoval .. | .cxlResetTimeout .. | .returnCore .. | .returnCluster .. | .returnPage ..
  | .raiseFuseTackRoom .. | .raiseFusePavilion .. | .warmReset .. | .watchdogReset .. | .resumeScrub ..
  | .loadEvictionSchedule .. | .quarantineThreshold .. | .coldReset .. | .deriveKey .. | .getVersion ..
  | .getCapabilities .. | .negotiateAlgorithms .. | .getDigests .. | .getCertificate .. | .challenge ..
  | .getMeasurements .. | .keyExchange .. | .finish .. | .endSession .. | .keyload .. | .grant ..
  | .migrationStateReceive .. | .prepared .. | .commit .. | .refused .. | .outcome .. | .migrationSilence ..
  | .migrationOutcomePoll .. | .migrationSourceLoss .. | .scrubChunk .. | .grantExpiry .. | .firmwareLoad ..
  | .ideReestablished .. | .imageSignatureVerified .. => 0

/-- The word of an instruction (03 R33, R34). -/
def encode (i : Instr) : BitVec 32 := BitVec.ofNat 32 (encodeNat i)

/-- The instruction the decoder reads from `nbits` bits `w`, every bit above them zero, laid out as the hardware
stores a word. -/
def decodeTableWord (nbits w : Nat) : Option Instr :=
  let n := w % 2 ^ nbits
  match decodeBytes [BitVec.ofNat 8 n, BitVec.ofNat 8 (n / 2 ^ 8), BitVec.ofNat 8 (n / 2 ^ 16),
    BitVec.ofNat 8 (n / 2 ^ 24)] with
  | .ok (i, _) => some i
  | .error _ => none

/-- The safe-point bit of a word (03 R33). -/
def Instr.sp (i : Instr) : Bool := Dec.bit (encodeNat i) 31

end Sys2Proof
end

