-- ==== Sys2Proof/Config.lean ====
section
/-! DEFINITION. What the part fixes (00 R1, R2, R4) and the values the spec leaves open. An open value is an opaque
constant or function: nothing in Lean can evaluate it, so a claim holds whatever it is. -/

namespace Sys2Proof

/-- The two parts (R1). -/
inductive Part where
  | olX8 | olL4
  deriving DecidableEq, Repr

namespace Part

/-- Compute dies (R1). -/
def dies : Part → Nat
  | olX8 => 8
  | olL4 => 4

/-- Cache dies (R1). -/
def cacheDies : Part → Nat
  | olX8 => 16
  | olL4 => 8

/-- Clusters: 24 a compute die (R1, R310). -/
def clusters (p : Part) : Nat := 24 * p.dies

/-- Cores: four a cluster (R1). -/
def cores (p : Part) : Nat := 4 * p.clusters

/-- The modular vector group, Q64 matrix mode and the Belvedere are present (R2). -/
def full : Part → Bool
  | olX8 => true
  | olL4 => false

end Part

/-- An HDM decoder (R164): its range of device physical addresses, the root ports that it interleaves, and the
granularity. -/
structure Hdm where
  base : Nat
  len : Nat
  ports : List Nat
  gran : Nat
  deriving DecidableEq, Repr

/-- The ways and granularities of R164. -/
def Hdm.ok (d : Hdm) : Bool :=
  [1, 2, 4, 8, 16].contains d.ports.length && d.ports.all (· < 16) && decide d.ports.Nodup &&
    [256, 512, 1024, 2048, 4096, 8192, 16384].contains d.gran

/-- The root port behind which an address of the range lies. -/
def Hdm.port (d : Hdm) (pa : Nat) : Nat := d.ports.getD ((pa - d.base) / d.gran % d.ports.length) 0

/-- The decoders of a list that are well formed, at most 32 for a root port, and of ranges that do not meet (R164). -/
def Hdm.fit (ds : List Hdm) : List Hdm :=
  ds.foldl (fun xs d =>
    if d.ok && (d.ports.all fun p => (xs.filter fun x => x.ports.contains p).length < 32) &&
        xs.all fun x => x.base + x.len ≤ d.base || d.base + d.len ≤ x.base
    then xs ++ [d] else xs) []

namespace Config

/-- How far a part's silicon stepping lies above the first: CAPS.STEP counts from 0x01 (R4). Log 2. -/
opaque stepping : Part → Fin 255

/-- The in-service word's CXL field after reset, per link (R311). Log 2. -/
opaque cxlInService : BitVec 16

/-- AUDSEED as the n-th cold boot draws it (R281, R344). Log 2. -/
opaque audSeed : Nat → List Byte

/-- The root secret RS (R334). Log 2. -/
opaque rootSecret : List Byte

/-- The n-th key that the Tack Room draws from its random source (R331). Log 2. -/
opaque drawnKey : Nat → BitVec 256

/-- An image's or message's XMSS^MT signature verifies under Svetxirun's key (R337). Log 9. -/
opaque sigVerifies : List Byte → List Byte → Bool

/-- The images that run before any is loaded: 0 the Tack Room's, p + 1 that of Pavilion p. Log 4. -/
opaque firstImage : Nat → List Byte

/-- Their signatures (R337). Log 9. -/
opaque firstSig : Nat → List Byte

/-- The security version that an image's bytes carry. Log 9. -/
opaque imageVersion : List Byte → Nat

/-- The signature by the key of some seeds, with a counter value as index, over a message (R336). Log 9. -/
opaque sign : List Byte → Nat → List Byte → List Byte

/-- The SPDM certificate chain of slot 0 (R336). Log 9. -/
opaque certChain : List Byte

/-- The nonces and key shares that the Responder draws (R338). Log 9. -/
opaque spdmNonce : Nat → BitVec 256

/-- The key of the n-th session that the Responder makes (R338, R342). Log 9. -/
opaque sessionKey : Nat → BitVec 256

/-- The second key of XTS, for the tweak, that goes with the key of a slot (R165). Log 29. -/
opaque tweakKey : BitVec 256 → BitVec 256

/-- The HDM decoders that the firmware sets up when the CXL links train for the n-th time (R164). Log 72. -/
opaque decoders : Nat → List Hdm

/-- CTMO of a combining group at this device (R320, R326), which no frame carries. Log 51. -/
opaque groupTimeout : Nat → Nat

/-- The memory controller that holds a sector (R271). Log 2. -/
opaque controllerOf : Nat → Nat

/-- Where the device lays the page tables that MAP needs: the first frame, in 64 KiB units. Log 10. -/
opaque tableBase : Nat

/-- The first 64 KiB virtual page of the private area of a warp, by its name: no rule gives its place. Log 30. -/
opaque areaPage : Nat → Nat

/-- The fabric address of this device's endpoint (R312, R320). Log 2. -/
opaque fabricAddr : BitVec 128

/-- The free value of the n-th reading of an open number. Log 6. -/
opaque freeWord : Nat → Word

/-- Which of the values within the bound of R130 a function gives: the function, its type and its operand. Log 6. -/
opaque funcPick : Nat → Nat → Nat → Nat

end Config

end Sys2Proof
end

