-- ==== Sys2Proof/Machine/Sparse.lean ====
section
/-! DEFINITION. A sparse map with natural keys: the entries that differ from a default, keys strictly rising. Every
table of the machine (registers, warps, blocks, contexts, granule labels) is held so, and equal tables are equal
data. -/

namespace Sys2Proof

/-- A table of entries; a key with no entry reads as the default that the reader names. -/
structure Sparse (V : Type) where
  entries : List (Nat × V)
  deriving DecidableEq, Repr

namespace Sparse

/-- The table in which every key reads as its default. -/
def empty {V : Type} : Sparse V := ⟨[]⟩

/-- The entry of a key in a list of entries. -/
def look {V : Type} (k : Nat) : List (Nat × V) → Option V
  | [] => none
  | (j, v) :: t => if j = k then some v else look k t

/-- The list without a key. -/
def erase {V : Type} (k : Nat) : List (Nat × V) → List (Nat × V)
  | [] => []
  | (j, v) :: t => if j = k then erase k t else (j, v) :: erase k t

/-- Insertion before the first larger key. -/
def insert {V : Type} (k : Nat) (v : V) : List (Nat × V) → List (Nat × V)
  | [] => [(k, v)]
  | (j, w) :: t => if k < j then (k, v) :: (j, w) :: t else (j, w) :: insert k v t

/-- What a key reads as. -/
def get {V : Type} (m : Sparse V) (d : V) (k : Nat) : V := (look k m.entries).getD d

/-- Writes a key; writing the default removes the entry. -/
def set {V : Type} [DecidableEq V] (m : Sparse V) (d : V) (k : Nat) (v : V) : Sparse V :=
  if v = d then ⟨erase k m.entries⟩ else ⟨insert k v (erase k m.entries)⟩

/-- Keys with an entry, in rising order. -/
def keys {V : Type} (m : Sparse V) : List Nat := m.entries.map Prod.fst

/-- The canonical form: keys strictly rising and no entry equal to the default. -/
def wf {V : Type} [DecidableEq V] (m : Sparse V) (d : V) : Bool :=
  decide ((m.entries.map Prod.fst).Pairwise (· < ·)) && m.entries.all fun e => e.2 ≠ d

end Sparse

end Sys2Proof
end

