-- ==== Sys2Proof/Machine/State.lean ====
section
/-! DEFINITION. The state of the Olnas: everything the spec names (INVENTORY.md lists it item by item), as plain data,
with the state after a cold reset. -/

namespace Sys2Proof.Machine

/-! ## Memory -/

/-- Memory by device physical address: addresses strictly rising, no entry equal to what an unlisted address
reads as. -/
abbrev Memory := List Host.Cell

namespace Memory

/-- What a byte that nothing has written reads as: 0 (log 3). -/
def initial : Byte := 0#8

/-- The byte at a physical address. -/
def read (m : Memory) (a : Nat) : Byte := (Sparse.look a m).getD initial

/-- Writes one byte; writing `initial` removes the entry. -/
def write (m : Memory) (a : Nat) (b : Byte) : Memory :=
  if b = initial then Sparse.erase a m else Sparse.insert a b (Sparse.erase a m)

/-- The canonical form. -/
def wf (m : Memory) : Bool :=
  decide ((m.map Prod.fst).Pairwise (· < ·)) && m.all fun c => c.2 ≠ initial

end Memory

/-- A 64-byte granule's label and mode bit (02 R21). -/
structure Gran where
  lbl : Label
  floating : Bool
  deriving DecidableEq, Repr

/-- A granule that nothing has set: fixed, label ∅ (log 3). -/
def Gran.initial : Gran := ⟨0#16, false⟩

/-- Who holds a 64 KiB physical page or a core: no one, a live context, a context no longer live of a Pavilion, or a
partition's free pool (20 R346, R356). -/
inductive Owner where
  | unowned
  | ctx (n : Nat)
  | gone (p : Nat)
  | pool (p : Nat)
  deriving DecidableEq, Repr

/-! ## Ordering (10) -/

/-- The party of an event (10 R178): a lane's place, or a remote agent (`dev` false). `warp` is the warp's own
identity, which no later warp shares. -/
structure Party where
  dev : Bool
  die : Nat
  gang : Nat
  block : Nat
  warp : Nat
  lane : Nat
  deriving DecidableEq, Repr

/-- A release source (10 R179): its scope's code, its party, and the writes that happen before it. -/
structure Src where
  scope : Nat
  party : Party
  hb : List Nat
  deriving DecidableEq, Repr

/-- A performed write: its party, the events that happen before it, its width in bytes where aligned (else 1),
whether an atomic made it, the release sources that a read of it meets, its release sequence included, the writes
whose completion it reports to an `mwait` (R180), and the cycle at which it was performed (R187). -/
structure WRec where
  party : Party
  before : List Nat
  width : Nat
  atomic : Bool
  srcs : List Src
  stamp : List Nat
  time : Nat
  deriving DecidableEq, Repr

/-- The writes to one byte, newest first, and the value before the first. `solo` is the die whose cores alone have
touched the byte over the interval of R185 that lasts, and the name of the interval's first event; `top` is then the
last write in that die's memory order, none for `init`. -/
structure ByteHist where
  init : Byte
  ws : List (Nat × Byte)
  solo : Option (Nat × Nat)
  top : Option Nat
  deriving DecidableEq, Repr

/-- A thread's write that has not entered its die's memory order: its name, core and die, its place and length, and the
cycle of its issue (R185). -/
structure PendW where
  id : Nat
  core : Nat
  die : Nat
  key : Nat
  len : Nat
  time : Nat
  deriving DecidableEq, Repr

/-- A place in the SC order: scope, party and the writes that happen before the event, itself included (R181). -/
structure ScEv where
  scope : Nat
  party : Party
  hb : List Nat
  deriving DecidableEq, Repr

/-- The write history (10 R174 to R185). Locations are byte keys: a device physical address, or
2^48 x (block + 1) + offset for a byte of a block's windows. `ao` holds each byte's last atomic write, and
`pend` the writes that have yet to enter a memory order, oldest first. -/
structure Hist where
  bytes : Sparse ByteHist
  writes : Sparse WRec
  sc : List ScEv
  ao : Sparse (Option Nat)
  pend : List PendW
  deriving DecidableEq, Repr

/-! ## Splits and warps (02 R9, 05) -/

/-- A deposited thread of a spawn bin: its two words with the labels of their registers, and its contribution
(05 R108). -/
structure Deposit where
  w0 : Word
  l0 : Label × Label
  w1 : Word
  l1 : Label × Label
  c : Label
  deriving DecidableEq, Repr

/-- What a split in SWAIT waits for, with the operands as read at issue (05 R102). A
declassification holds the owners to remove, its destination, whether that is a vector register, the values with their
lanes and labels, and its word. -/
inductive Wait where
  | bar (d : SNum) (n : Nat)
  | barg (d : SNum) (n : Nat)
  | bowait (d : SNum) (block off : Nat) (phase : BitVec 16) (lbl : Label)
  | cwait (upto : Nat)
  | mwait (d : SNum) (va : Word) (rhs : Word) (c : WaitC) (lbl : Label)
  | spawn (e : BitVec 57) (rest : List Deposit)
  | cbatch (d : SNum)
  | ltcompact
  | mstat (d : SNum) (clr : Bool)
  | mchk (d : SNum) (clr : Bool)
  | kzero (f n upto : Nat)
  | dcls (owners : Label) (d : Nat) (vec : Bool) (vals : List (Nat × Word × Label)) (w : Word)
  | refill
  deriving DecidableEq, Repr

/-- Split states (05 R102); `gone` also where no split is. -/
inductive SplitSt where
  | ready
  | jwait
  | swait (w : Wait)
  | gone
  deriving DecidableEq, Repr

/-- A split (02 R9, 05 R97). `elen8` says the trapping instruction was 8 bytes long (04 R82). `safe` is the live mask
of the safe point at which the split stands, if it stands at one (03 R41, R43). `last` is the cycle of its last
issue (05 R116). Of the instruction at which a split waits, `wmask` is the live-mask word, none where SP = 0, and
`wlbl` the join of the labels of what it read. `declined` are the pages that the host has declined for the instruction at
PC (16 R268), and `heldOn` the engine operations that it waits for at issue (10 R180, R188). `imask` is the live-mask
word fetched with the instruction that issues (03 R38), and `yielded` the splits of its scheduler that have yet to have
an issue opportunity since its `yield` (05 R107). -/
structure Split where
  st : SplitSt
  pc : BitVec 57
  exec : BitVec 32
  mode : BitVec 32
  pcl : LIdx
  priv : Bool
  eh : Bool
  epc : BitVec 57
  ecause : BitVec 8
  einfo : Word
  emode : BitVec 32
  elbl : LIdx
  epriv : Bool
  elen8 : Bool
  safe : Option (BitVec 32)
  last : Nat
  wmask : Option (BitVec 32)
  wlbl : Label
  declined : List Nat
  heldOn : List Nat
  imask : Option (BitVec 32)
  yielded : List (Nat × Nat)
  deriving DecidableEq, Repr

/-- No split. -/
def Split.blank : Split :=
  ⟨.gone, 0, 0, 0x30#32, 0, false, false, 0, 0, 0, 0, 0, false, false, .none, 0, .none, 0, [], [], .none, []⟩

/-- A reconvergence-stack entry (05 R99). `rpc` is unset until a `join` sets it; `rmask` is the live-mask word of the
`join` at RPC, none where its SP is 0. -/
inductive Entry where
  | raise (mask : BitVec 32) (mode : BitVec 32) (pcl : LIdx)
  | diverge (mask : BitVec 32) (mode : BitVec 32) (pcl : LIdx) (rpc : Option (BitVec 57)) (rmask : Option (BitVec 32))
  | serial (mask pend : BitVec 32) (pendPc : BitVec 57) (mode : BitVec 32) (pcl : LIdx)
      (rpc : Option (BitVec 57)) (rmask : Option (BitVec 32)) (phase2 : Bool)
  deriving DecidableEq, Repr

/-- A scalar register (02 R10). -/
structure SReg where
  val : Word
  lbl : LIdx
  deriving DecidableEq, Repr

/-- Launch value of a scalar register. -/
def SReg.zero : SReg := ⟨0, 0⟩

/-- One lane of a vector register (05 R91). -/
structure VLane where
  val : Lane
  lbl : LIdx
  deriving DecidableEq, Repr

/-- Launch value of a lane. -/
def VLane.zero : VLane := ⟨0, 0⟩

/-- A plain read that may yet be performed (10 R177, R183): its place, bytes, sign and name. -/
structure LateRead where
  key : Nat
  len : Nat
  signed : Bool
  id : Nat
  deriving DecidableEq, Repr

/-- A lane of a load: the value that it read at issue, its label, and the read itself while a later write may be what it
returns. -/
structure PLane where
  lane : Nat
  val : Word
  lbl : LIdx
  late : Option LateRead
  deriving DecidableEq, Repr

/-- A load that has issued and not returned (11 R192): the register, whether it is a pair, its lanes, and where it met
poison its address, by which its warp will halt (16 R267, R273). -/
structure PLoad where
  id : Nat
  reg : Nat
  pair : Bool
  lanes : List PLane
  poison : Option (BitVec 57)
  deriving DecidableEq, Repr

/-- A closed batch of lane copies: its number and the copies not yet complete (13 R213). -/
structure Batch where
  num : Nat
  copies : List Nat
  deriving DecidableEq, Repr

/-- Slot states (05 R110). -/
inductive SlotSt where
  | free | init | run | park | halt | saved | drain
  deriving DecidableEq, Repr

/-- A warp in its slot, or in a saved gang. `batchHb` holds the writes of its completed copies, each with the number of
the batch that closes them (10 R180, 13 R214), and `tileHb` those of engine operations that its scoreboard recorded,
each with its tile (05 R113). `lost` is its lost-locality score (R115), and `lastSplit` the split that issued last
(R117). -/
structure Warp where
  st : SlotSt
  uid : Nat
  ctx : Nat
  lseq : Nat
  block : Nat
  vr : Nat
  spawned : Bool
  lanes0 : BitVec 32
  wid : List Word
  sregs : Sparse SReg
  vregs : Sparse VLane
  ltab : Sparse (Option Label)
  flags : BitVec 32
  flbl : LIdx
  coarsen : BitVec 32
  splits : Sparse Split
  stack : List Entry
  spill : List Entry
  loads : List PLoad
  openCopies : List Nat
  batches : List Batch
  lastBatch : Word
  batchHb : List (Nat × Nat)
  unfold : BitVec 128
  unfoldLbl : LIdx
  abase : BitVec 32
  astr : BitVec 16
  aLbl : LIdx
  mstat : BitVec 32
  mslbl : LIdx
  chkcnt : BitVec 32
  priv : Sparse Byte
  privLbl : Sparse Label
  privPoison : Sparse Bool
  poisonS : Sparse Bool
  poisonV : Sparse Bool
  lost : BitVec 16
  lastSplit : Nat
  hb : Sparse (List Nat)
  acq : Sparse (List Src)
  rel : Sparse (List Src)
  hbBase : List Nat
  tileHb : List (Nat × Nat)
  deriving DecidableEq, Repr

/-- The launch value of the unfold descriptor (14 R231): every field of reset 1, the rest 0. -/
def unfoldReset : BitVec 128 := 0x00000011_11110001_00010001_00000000#128

/-- No warp. -/
def Warp.blank : Warp :=
  { st := .free, uid := 0, ctx := 0, lseq := 0, block := 0, vr := 0, spawned := false, lanes0 := 0, wid := [],
    sregs := .empty, vregs := .empty, ltab := .empty, flags := 0, flbl := 0, coarsen := 0, splits := .empty,
    stack := [], spill := [], loads := [], openCopies := [], batches := [], lastBatch := 0, batchHb := [],
    unfold := unfoldReset, unfoldLbl := 0, abase := 0, astr := 0, aLbl := 0, mstat := 0, mslbl := 0, chkcnt := 0,
    priv := .empty, privLbl := .empty, privPoison := .empty, poisonS := .empty, poisonV := .empty, lost := 0, lastSplit := 3,
    hb := .empty, acq := .empty, rel := .empty, hbBase := [], tileHb := [] }

/-! ## Blocks, gangs, launches -/

/-- A block on a core or in a saved gang: `poolSp` and `poolAcc` are where its windows lie in the core's pool (22 R361),
`fixed` the granules of its windows that a scrub has fixed (20 R353), `halts` counts its warps that have halted, and `objHb`
holds what is ordered before each phase of an object, under the key 2^16 x offset + phase (05 R93, 09 R155 to R157, 16 R275
to R285). -/
structure Block where
  live : Bool
  lseq : Nat
  ctx : Nat
  gang : Nat
  rank : Nat
  num : Nat
  core : Nat
  vcore : Nat
  spBytes : Nat
  accBytes : Nat
  poolSp : Nat
  poolAcc : Nat
  ranks : Nat
  mem : Sparse Byte
  lbl : Sparse Label
  fixed : Sparse Bool
  poison : Sparse Bool
  objs : List Nat
  objHb : Sparse (List Nat)
  abandoned : Bool
  d0 : Word
  d1 : Word
  noDiscard : Bool
  noAudit : Bool
  didAtomic : Bool
  halts : Nat
  start : Nat
  audit : Bool
  deriving DecidableEq, Repr

/-- No block. -/
def Block.blank : Block :=
  { live := false, lseq := 0, ctx := 0, gang := 0, rank := 0, num := 0, core := 0, vcore := 0, spBytes := 0,
    accBytes := 0, poolSp := 0, poolAcc := 0, ranks := 0, mem := .empty, lbl := .empty, fixed := .empty, poison := .empty, objs := [], objHb := .empty,
    abandoned := false, d0 := 0, d1 := 0, noDiscard := false, noAudit := false, didAtomic := false, halts := 0,
    start := 0, audit := false }

/-- A bin of a core: its block and entry address, its threads, and the age of the oldest (05 R108). -/
structure Bin where
  block : Nat
  entry : BitVec 57
  threads : List Deposit
  since : Nat
  due : Bool
  deriving DecidableEq, Repr

/-- A free bin. -/
def Bin.blank : Bin := ⟨0, 0, [], 0, false⟩

/-- A request still queued when its block was saved, or a B slot to load again (17 R304). -/
structure SavedReq where
  block : Nat
  priv : Bool
  snapshot : BitVec 1024
  addr : Nat
  lreq : Label
  warp : Nat
  lane : Nat
  hb : List Nat
  deriving DecidableEq, Repr

/-- B-slot states (14 R233). -/
inductive SlotB where
  | empty | loading | ready | poisoned
  deriving DecidableEq, Repr

/-- A B slot (14 R233, R237, 15 R252 to R258): the snapshot of its last `mldb`, with that `mldb`'s privilege and history,
its label, column scales by 64 x group + column, and plaintext. `freeing` says that an `mfree`, or the end of its
block, waits for the passes that name it. -/
structure BSlot where
  st : SlotB
  owner : Nat
  desc : BitVec 512
  priv : Bool
  hb : List Nat
  lbl : Label
  scales : Sparse (BitVec 32)
  plain : List Byte
  freeing : Bool
  deriving DecidableEq, Repr

/-- An empty slot. -/
def BSlot.blank : BSlot := ⟨.empty, 0, 0, false, [], 0, .empty, [], false⟩

/-- A gang on a cluster or saved (17 R300 to R305). `preempt` holds the cycle at which its save began and its deadline;
`atomic` says that a block of it has executed a global atomic; `loading` holds the B slots, by core and number, for whose
loads its restore waits (14 R247). -/
structure Gang where
  live : Bool
  lseq : Nat
  ctx : Nat
  num : Nat
  cluster : Nat
  blocks : List Nat
  preempt : Option (Nat × Nat)
  saved : Bool
  stamp : Nat
  warps : List (Nat × Warp)
  bins : List Bin
  reqs : List SavedReq
  slots : List (Nat × Nat × BSlot)
  loading : List (Nat × Nat)
  atomic : Bool
  deriving DecidableEq, Repr

/-- No gang. -/
def Gang.blank : Gang :=
  { live := false, lseq := 0, ctx := 0, num := 0, cluster := 0, blocks := [], preempt := .none, saved := false,
    stamp := 0, warps := [], bins := [], reqs := [], slots := [], loading := [], atomic := false }

/-- One run of a selected block for the audit: block number, core, virtual core, digest, and whether the digest is whole
(R286). -/
structure AuditRun where
  num : Nat
  core : Nat
  vcore : Nat
  d0 : Word
  d1 : Word
  whole : Bool
  deriving DecidableEq, Repr

/-- A launch (05 R95, 16 R280 to R287, 19 R315, R316). `times` holds the run times of its completed blocks, each with its
block number (17 R301), `skipped` the blocks that no audit run takes (R284), and `signalling` says that it has ended and its
completion signal is yet to be added (19 R317). -/
structure Launch where
  known : Bool
  ctx : Nat
  queue : Nat
  ses : Nat
  tag : BitVec 32
  hdr : BitVec 1024
  waits : List (Word × Word)
  cmpl : Option (Word × Word)
  inputs : List (Word × Word)
  meas : BitVec 384
  ready : Bool
  started : Bool
  nextGang : Nat
  discarded : List Nat
  liveGangs : Nat
  halted : Nat
  ended : Bool
  closed : Bool
  status : Nat
  times : List (Nat × Nat)
  runs : List AuditRun
  selected : List Nat
  pending : List Nat
  passed : Nat
  failed : List Nat
  skipped : List Nat
  frozen : List Nat
  signalling : Bool
  hb : List Nat
  firstId : Nat
  deriving DecidableEq, Repr

/-- No launch. -/
def Launch.blank : Launch :=
  { known := false, ctx := 0, queue := 0, ses := 0, tag := 0, hdr := 0, waits := [], cmpl := .none, inputs := [],
    meas := 0, ready := false, started := false, nextGang := 0, discarded := [], liveGangs := 0, halted := 0,
    ended := false, closed := false, status := 0, times := [], runs := [], selected := [], pending := [],
    passed := 0, failed := [], skipped := [], frozen := [], signalling := false, hb := [], firstId := 0 }

/-! ## Contexts and Pavilions -/

/-- A queued command (19 R315). -/
inductive QCmd where
  | launch (lseq : Nat)
  | copy (ses : Nat) (hdr : BitVec 256) (src dst len : Word)
  | signal (ses : Nat) (hdr : BitVec 256) (addr : Word) (add : Bool) (val : Word)
  | wait (ses : Nat) (hdr : BitVec 256) (addr val : Word)
  | fence (ses : Nat) (hdr : BitVec 256)
  deriving DecidableEq, Repr

/-- A queue (17 R299): its commands, head first, its priority, and the writes that happen before what starts next. -/
structure Queue where
  cmds : List QCmd
  prio : Nat
  hb : List Nat
  deriving DecidableEq, Repr

/-- An idle queue. -/
def Queue.blank : Queue := ⟨[], 0, []⟩

/-- A mapping (19 R378): its first address, its 64 KiB pages by index, and which are still mapped. -/
structure Mapping where
  va : Nat
  pages : List Nat
  deriving DecidableEq, Repr

/-- A channel (19 R321): the descriptor's snapshot, CL, the send sequence, whether it is open, the operations not
ended, at a receiver which sequence numbers are done, whether a put has left on it, and which of its messages have failed
here (R324). -/
structure Chan where
  used : Bool
  opened : Bool
  desc : BitVec 512
  cl : Label
  seq : Nat
  ops : List Nat
  doneSeqs : List Nat
  tail : Nat
  far : Bool
  failed : List Nat
  deriving DecidableEq, Repr

/-- No channel. -/
def Chan.blank : Chan := ⟨false, false, 0, 0, 0, [], [], 0, false, []⟩

/-- A message that arrived for a channel that was not open: the handle here, the issuing device, context and handle, and its
sequence number (19 R324). -/
structure MissedSend where
  pch : Nat
  addr : BitVec 128
  ctx : Nat
  handle : Nat
  seq : Nat
  deriving DecidableEq, Repr

/-- A context (17 R294 to R298, 19 R315, R316, R319, R320). `hang` is the cycle at which its hang counter was last 0 (16
R276), `lastQueue` the queue whose launch last dispatched a gang (17 R299), and `missed` the messages
that have failed here for want of an open channel. -/
structure Ctx where
  live : Bool
  pav : Nat
  pidx : Nat
  mslot : Nat
  sched : Word
  owners : Label
  handler : Word
  root : Nat
  faultTmo : Nat
  hangThr : Nat
  extTmo : Nat
  privBytes : Nat
  isProt : Bool
  llcLimit : Nat
  certs : List (BitVec 384)
  peers : List (BitVec 256)
  queues : Sparse Queue
  lastQueue : Nat
  chans : Sparse Chan
  missed : List MissedSend
  maps : Sparse (Option Mapping)
  vt : Nat
  lastGrant : Nat
  overrun : Nat
  wasIdle : Bool
  hang : Nat
  nfault : BitVec 16
  nrefuse : BitVec 16
  nreplay : BitVec 16
  records : List (BitVec 256)
  budget : List Nat
  spent : List Nat
  held : Bool
  deriving DecidableEq, Repr

/-- No context. -/
def Ctx.blank : Ctx :=
  { live := false, pav := 0, pidx := 0, mslot := 0, sched := 0, owners := 0, handler := 0, root := 0, faultTmo := 0,
    hangThr := 0, extTmo := 0, privBytes := 0, isProt := false, llcLimit := 0, certs := [], peers := [],
    queues := .empty, lastQueue := 15, chans := .empty, missed := [], maps := .empty, vt := 0, lastGrant := 0, overrun := 0, wasIdle := true,
    hang := 0, nfault := 0, nrefuse := 0, nreplay := 0, records := [], budget := [0, 0, 0], spent := [0, 0, 0],
    held := false }

/-- A Pavilion (17 R290). `log` is the refusal log, oldest first, with the cycle of its oldest entry (16 R270). `code` is
the image that runs where it is not the first, and `image` one whose signature is being checked (19 R329). -/
structure Pav where
  cfg : Word
  col : Word
  log : List Word
  logSince : Nat
  lost : BitVec 32
  sched : List (BitVec 256)
  holder : Option Nat
  qstart : Nat
  qlen : Option Nat
  version : Nat
  code : Option FwImage
  enabled : Bool
  image : Option FwImage
  deriving DecidableEq, Repr

/-- PVCFG after reset (17 R290): RDL 0x10, PDL 0x10, IDLE 0x04. -/
def pvcfgReset : Word := 0x0010_1004_0000_0000#64

/-- A Pavilion after reset; PVCOL 0 and version 0 are the model's (log 4). -/
def Pav.reset : Pav :=
  { cfg := pvcfgReset, col := 0, log := [], logSince := 0, lost := 0, sched := [], holder := none, qstart := 0,
    qlen := none, version := 0, code := none, enabled := true, image := none }

/-- A session (19 R313). -/
structure Session where
  isOpen : Bool
  role : Role
  pav : Nat
  ctx : Nat
  deriving DecidableEq, Repr

/-- No session. -/
def Session.blank : Session := ⟨false, .tenant, 0, 0⟩

/-! ## Cores and engines -/

/-- One quarter operation (15 R261). `id` is its name, `uid` and `wkey` name the warp, `pc` the `mmq`; `c` is c(q),
`tiles` the accumulator tiles that it records, and `rows` the tiles that the Trellis will read for it (14 R240). `hb` is
what happens before it, and `seen` what its reads of A see, every earlier write of the warp included (R261). -/
structure Quarter where
  id : Nat
  wkey : Nat
  uid : Nat
  block : Nat
  q : Nat
  acc : Nat
  row0 : Nat
  zero : Bool
  c : Label
  pc : BitVec 57
  unfold : BitVec 128
  unfoldLbl : Label
  abase : BitVec 32
  astr : BitVec 16
  aLbl : Label
  hb : List Nat
  seen : List Nat
  tiles : List Nat
  rows : List Nat
  deriving DecidableEq, Repr

/-- What a pass computed for one quarter: each element's values (one sum, or the patterns of two chunks), the
contribution and the flags. -/
structure QResult where
  vals : List (List Int)
  lbl : Label
  flags : BitVec 8
  deriving DecidableEq, Repr

/-- A group of quarters, a pass once launched (14 R229): its slot and K offset, the load that it uses (no plaintext
while that load is under way), and the scales. A core lists launched groups first, in launch order. -/
structure Group where
  id : Nat
  block : Nat
  slot : Nat
  g : Nat
  opened : Nat
  closed : Bool
  launched : Bool
  quarters : List Quarter
  desc : BitVec 512
  plain : Option (List Byte)
  slotLbl : Label
  scales : Sparse (BitVec 32)
  results : Option (List QResult)
  deriving DecidableEq, Repr

/-- A core (16 R288, 14, 13, 09 R173, 20 R356). `resetAt` is the cycle of its last reset (04 R82, CLOCK), `l1` the lines that
its L1 holds, oldest first, `victims` the tags of lines evicted from it, each with the warp that evicted it (05 R115),
and `next` the cycle at which each of its schedulers may issue again (R112). -/
structure Core where
  susp : BitVec 8
  agree : Nat
  quar : Bool
  assigned : Owner
  lastCtx : Option Nat
  tlb : List (Nat × Nat × BitVec 128 × Nat)
  bslots : Sparse BSlot
  groups : List Group
  bins : Sparse Bin
  resetAt : Nat
  l1 : List Nat
  victims : List (Nat × Nat)
  next : Sparse Nat
  deriving DecidableEq, Repr

/-- A core after reset. The agreement counter's 0 is the model's (log 4). -/
def Core.reset : Core := ⟨0, 0, false, .unowned, none, [], .empty, [], .empty, 0, [], [], .empty⟩

/-- A pre-emption of gangs of a context on a cluster (17 R301): its deadline, whether it drains, and the cycle at which
the last of them had left. -/
structure Pre where
  ctx : Nat
  gangs : List Nat
  deadline : Nat
  drain : Bool
  left : Option Nat
  deriving DecidableEq, Repr

/-- A cluster: quarantine, the Pavilion that borrows it, whether its lender has reclaimed it, its pre-emptions, and the
cycles at which its last gang left, of any partition and of its own (17 R292, R293, R301). -/
structure Cluster where
  quar : Bool
  lent : Option Nat
  reclaim : Bool
  pre : List Pre
  leftAt : Nat
  idleSince : Nat
  deriving DecidableEq, Repr

/-- A cluster after reset. -/
def Cluster.reset : Cluster := ⟨false, none, false, [], 0, 0⟩

/-- One lane of a lane copy (13 R210, R211): the destination's location (none where it is refused), its virtual address
where it has one, the bytes once the source is read, whether their sector is poisoned, and the contribution. -/
structure LaneElt where
  lane : Nat
  dst : Option Nat
  va : Option Nat
  data : List Byte
  bad : Bool
  c : Label
  deriving DecidableEq, Repr

/-- Progress of a bulk request (13 R218, R219); `landed` says that the last element moved was written (R220). -/
structure ReqProg where
  moved : List Nat
  landed : Bool
  oob : Bool
  fdrop : Bool
  rfsd : Bool
  fail : Option (Nat × Nat)
  logged : Bool
  deriving DecidableEq, Repr

/-- Engine operations (13, 19). `snap` is the descriptor's snapshot, `addr` its scratchpad address, `lreq` and `lrem` the
labels of R217 and R222. Of a remote operation, `data` are the source bytes, `bad` those of poisoned
sectors, `gone` those whose read was refused; `dst` are the locations of the elements to write and `stamp` that of the
stamp or status, none where refused. `data` is none once they have been sent. -/
inductive OpKind where
  | copy (elts : List LaneElt)
  | request (snap : BitVec 1024) (addr : Nat) (lreq : Label) (prog : ReqProg)
  | put (snap : BitVec 512) (chan : Nat) (lrem : Label) (data : Option (List Byte)) (bad gone : List Nat)
  | get (snap : BitVec 512) (chan : Nat) (lrem : Label) (dst : List (Option Nat)) (stamp : Option Nat)
  | send (snap : BitVec 512) (chan seq : Nat) (lrem : Label) (defer : Bool) (data : Option (List Byte))
      (bad gone : List Nat) (stamp : Option Nat)
  | comb (snap : BitVec 512) (chan : Nat) (o : CombOp) (lrem : Label) (data : Option (List Byte)) (bad : Bool)
      (unread : Bool) (dst : List (Option Nat)) (stamp : Option Nat)
  | hostCopy (ses : Nat) (hdr : BitVec 256) (queue : Nat) (src dst len : Nat) (prog : ReqProg)
  deriving DecidableEq, Repr

/-- An engine operation in flight: its issuer, its happens-before history, the writes it has performed, the lines it
owns until it has written them (13 R210), the source elements that it has yet to read, each with its lane or offset, its
location and its length, because an earlier operation owned their lines (R210), the scratchpad tiles that its warp's
scoreboard records (R215), the elements that wait for a page and those whose page the host has declined (16 R268), the
locations that hold the unpoisoned bytes that it has written (16 R274), and whether its queue entry is poisoned (16
R271). -/
structure Op where
  id : Nat
  ctx : Nat
  priv : Bool
  core : Nat
  block : Nat
  lseq : Nat
  wkey : Nat
  uid : Nat
  lane : Nat
  kind : OpKind
  hb : List Nat
  done : List Nat
  since : Nat
  owns : List Nat
  reads : List (Nat × Nat × Nat)
  tiles : List Nat
  waits : List (Nat × Nat)
  declined : List (Nat × Nat)
  wrote : List Nat
  bad : Bool
  deriving DecidableEq, Repr

/-- A remote operation held by the fault handling of its destination (21 R358). -/
inductive HeldKind where
  | put (m : PutMsg)
  | get (m : GetMsg)
  | send (m : SendMsg)
  deriving DecidableEq, Repr

/-- A held remote operation: the pages that the host has declined for it, since when it is held, whether it waits for
room in a ring, and whether it has failed for want of a channel (21 R358). -/
structure Held where
  id : Nat
  kind : HeldKind
  declined : List Nat
  since : Nat
  ring : Bool
  failed : Bool
  deriving DecidableEq, Repr

/-- A round of a combining Olnas (19 R326): the first contribution's cycle and header, each rank's address and payload,
and the outcome's header and payload. -/
structure Round where
  group : Nat
  seq : Nat
  since : Nat
  hdr : BitVec 256
  parts : List (Nat × BitVec 128 × List Byte)
  outcome : Option (BitVec 256 × List Byte)
  deriving DecidableEq, Repr

/-- A fault message that waits for the host (16 R268): who waits, the page, and since when. -/
inductive FaultFor where
  | warp (key uid sp : Nat)
  | op (id : Nat)
  | slot (core slot : Nat)
  | queue (ctx q : Nat)
  | launchEnd (lseq : Nat)
  | held (id : Nat)
  deriving DecidableEq, Repr

/-- A pending fault; `ok` once RESOLVED, `no` once DECLINED or silent too long. -/
structure PFault where
  tag : Nat
  ctx : Nat
  page : Nat
  kind : Nat
  who : FaultFor
  since : Nat
  ok : Bool
  no : Bool
  deriving DecidableEq, Repr

/-! ## The Tack Room (20) -/

/-- A key slot (R331, R350): `pav` is the Pavilion of its context, and `dead` says that the context is no longer
live. -/
structure KeySlot where
  used : Bool
  kind : Nat
  ctx : Nat
  pav : Nat
  dead : Bool
  key : BitVec 256
  svn : Nat
  deriving DecidableEq, Repr

/-- An empty key slot. -/
def KeySlot.blank : KeySlot := ⟨false, 0, 0, 0, false, 0, 0⟩

/-- The slot holds a key of a kind for a live context (R331). -/
def KeySlot.holds (x : KeySlot) (kind c : Nat) : Bool := x.used && !x.dead && x.kind = kind && x.ctx = c

/-- A grant (R341). -/
structure Grant where
  ctx : Nat
  slot : Nat
  meas : BitVec 384
  budget : BitVec 32
  expiry : Nat
  deriving DecidableEq, Repr

/-- States of a scrub job (R355), with the codes of R354. -/
inductive JobSt where
  | free | run | held | done
  deriving DecidableEq, Repr

/-- A scrub job (R352 to R355). `issuer` is the context whose address space PADDR is translated in; none for a job
resumed through MGMT. -/
structure Job where
  st : JobSt
  ckpt : Nat
  desc : List Byte
  digest : BitVec 384
  issuer : Option Nat
  assigned : List Nat
  deriving DecidableEq, Repr

/-- A free job. -/
def Job.blank : Job := ⟨.free, 0, [], 0, .none, []⟩

/-- An SPDM endpoint (R338): what its connection has reached, and its session with its key; `device` says that a device opened
it, from which a context migrates (R342). -/
structure Endpoint where
  version : Bool
  caps : Bool
  algs : Bool
  digests : Bool
  cert : Bool
  challenged : Bool
  pav : Nat
  ctx : Nat
  owner : Option Nat
  device : Bool
  key : BitVec 256
  keyed : Bool
  secured : Bool
  deriving DecidableEq, Repr

/-- No connection. -/
def Endpoint.blank : Endpoint := ⟨false, false, false, false, false, false, 0, 0, .none, false, 0, false, false⟩

/-- What the session that a migration's source opens with the destination gives (20 R342 step 1): the security versions of
measurements 1 and 2, and the session's key. -/
structure MigPeer where
  tackVersion : Nat
  pavVersion : Nat
  key : BitVec 256
  deriving DecidableEq, Repr

/-- How the message of a migration that the machine takes now has come, the model's own (log 76): the endpoint of the session
with the source, whether the message came in its session (R338), whether the state that it carries is opened later, and what
the session with the destination gives, once there is one. -/
structure Arrival where
  ep : Nat
  secured : Bool
  later : Bool
  peer : Option MigPeer
  deriving DecidableEq, Repr

/-- No session. -/
def Arrival.blank : Arrival := ⟨0, false, false, .none⟩

/-- Source side of a migration (R342, R343): gangs are being saved, or the state has been sent. -/
inductive MigSrc where
  | saving
  | sent
  deriving DecidableEq, Repr

/-- A migration this device is the source of: the command, its destination, the session with it once there is one, the
migration slot, the cycles of step 2 and of the last OUTCOME asked (0 for none), and the commands held. -/
structure MigOut where
  ctx : Nat
  ses : Nat
  hdr : BitVec 256
  dest : BitVec 128
  destPav : Nat
  st : MigSrc
  peer : Option MigPeer
  slot : Nat
  since : Nat
  asked : Nat
  queued : List (Nat × BitVec 256)
  deriving DecidableEq, Repr

/-- Destination side of a migration: the state is held unusable, PREPARED is sent, the context is active, or the answer was NONE
or REFUSED. -/
inductive MigDst where
  | holding (data : List Byte) (key : BitVec 256)
  | prepared
  | active
  | ended
  deriving DecidableEq, Repr

/-- A migration this device is the destination of: the context made from it, the endpoint of the session with the source,
whether that has ended by END_SESSION, and since when the source is lost. -/
structure MigIn where
  st : MigDst
  ctx : Nat
  ep : Nat
  closed : Bool
  lostSince : Option Nat
  deriving DecidableEq, Repr

/-- The Tack Room's state. -/
structure Tack where
  slots : Sparse KeySlot
  drawn : Nat
  grants : List Grant
  jobs : Sparse Job
  boots : Nat
  sigCounter : Nat
  fuseTack : Nat
  fusePav : Nat
  version : Nat
  code : Option FwImage
  eps : Sparse Endpoint
  migOut : Sparse (Option MigOut)
  migIn : Sparse (Option MigIn)
  nonces : Nat
  deriving DecidableEq, Repr

/-! ## Messages the device sends -/

/-- What the Responder answers (R338). -/
inductive SpdmResp where
  | version | capabilities | algorithms (ok : Bool)
  | digests (d : BitVec 384)
  | certificate (slot : Nat) (portion : List Byte) (remainder : Nat)
  | challengeAuth (nonce : BitVec 256) (sig : List Byte)
  | measurements (blocks : List (Nat × BitVec 384)) (sig : List Byte)
  | keyExchangeRsp (nonce : BitVec 256) (sig : List Byte)
  | finishRsp | endSessionAck
  | vendor (status : Nat) (slot : Nat)
  | error
  deriving DecidableEq, Repr

/-- Messages between the two ends of a migration (R342, R343). -/
inductive MigMsg where
  | openSession
  | state (data : List Byte)
  | prepared | commit | refused | askOutcome | answerPrepared | answerNone | badcmd
  deriving DecidableEq, Repr

/-- A message that has left the device. -/
inductive Msg where
  | reply (ses : Nat) (hdr : BitVec 256) (body : List Byte)
  | note (ctx : Option Nat) (pav : Nat) (role : Role) (cmd : Nat) (tag : Nat) (body : List Byte)
  | status (ses : Nat) (tag : BitVec 32) (lseq status halted : Nat)
  | grant (ctx : Nat) (overrun : Bool)
  | put (dest : BitVec 128) (m : PutMsg)
  | get (dest : BitVec 128) (m : GetMsg)
  | getReply (dest : BitVec 128) (tag : Nat) (r : GetReply)
  | send (dest : BitVec 128) (m : SendMsg)
  | sendStatus (dest : BitVec 128) (tag : Nat) (status : Nat)
  | frame (dest : BitVec 128) (hdr : BitVec 256) (payload : List Byte) (poison : Bool)
  | rmaData (ses va : Nat) (data : List Byte) (bad : Bool)
  | spdm (ep : Nat) (r : SpdmResp)
  | mig (id : Nat) (m : MigMsg)
  | derived (requester : Nat) (key : Option (List Byte))
  deriving DecidableEq, Repr

/-! ## The machine -/

/-- The turns to come, the model's own (log 6): which agent takes the next step. `reply` is the Tack Room's to a `dcls`,
or the end of the wait of an `ltcompact` or a `kzero` (04 R88, R90, 20 R349); `arrive` is an event that comes in a session
with another device. -/
inductive Turn where
  | issue (w sp : Nat)
  | event (i : Instr)
  | arrive (a : Arrival) (i : Instr)
  | reply (w sp : Nat)
  | advance (cycles : Nat)
  deriving DecidableEq, Repr

/-- Under which key a 64 KiB page lies in the pool (09 R165): nothing has been mapped there yet, weight ciphertext, which passes
unchanged, or a memory key. -/
inductive View where
  | fresh
  | plain
  | key (k : BitVec 256)
  deriving DecidableEq, Repr

/-- Physical pages, poison, repair and CXL (09 R164, R165; 16 R271, R272; 19 R311, R329; 20 R348, R356; 22 R364). `clean` holds
for a page the name from which on a write may have left a line dirty in the LLC. -/
structure Phys where
  grans : Sparse Gran
  poison : Sparse Bool
  scrubbed : Sparse Bool
  owners : Sparse Owner
  retired : Sparse Bool
  records : Sparse (List Nat)
  threshold : Nat
  eth : BitVec 12
  cxl : BitVec 16
  lsect : BitVec 16
  extents : List (Nat × Nat × Nat)
  cxlWait : Sparse (Option Nat)
  decoders : List Hdm
  views : Sparse View
  clean : Sparse Nat
  deriving DecidableEq, Repr

/-- Boot state (20 R344). -/
inductive Boot where
  | running
  | needFirmware
  deriving DecidableEq, Repr

/-- The whole state. `waiting` are the commands and accesses of sessions, each with its context, that a budget, an image update
or a port holds (19 R319, R329), and `late` the messages of launches that an image update delays, each with its Pavilion. `cur` is the warp (32 x core + slot) and `curSplit` the split whose word the machine executes. -/
structure State where
  part : Part
  boot : Boot
  cycle : Nat
  cur : Nat
  curSplit : Nat
  mem : Memory
  phys : Phys
  hist : Hist
  warps : Sparse Warp
  blocks : Sparse Block
  gangs : Sparse Gang
  launches : Sparse Launch
  ctxs : Sparse Ctx
  pavs : Sparse Pav
  cores : Sparse Core
  clusters : Sparse Cluster
  dieTlb : Sparse (List (Nat × Nat × BitVec 128 × Nat))
  ops : List Op
  held : List Held
  rounds : List Round
  faults : List PFault
  waiting : List (Nat × Nat × Instr)
  sessions : Sparse Session
  tack : Tack
  outbox : List Msg
  late : List (Nat × Msg)
  lseq : Nat
  nextId : Nat
  windowStart : Nat
  free : Nat
  choices : List Nat
  arrival : Arrival
  agenda : List Turn
  deriving DecidableEq, Repr

/-- Physical state after a cold reset. -/
def Phys.reset : Phys :=
  { grans := .empty, poison := .empty, scrubbed := .empty, owners := .empty, retired := .empty, records := .empty,
    threshold := 64, eth := 0xFFF#12, cxl := Config.cxlInService, lsect := 0, extents := [], cxlWait := .empty,
    decoders := [], views := .empty, clean := .empty }

/-- The Tack Room after a cold reset: fuses, signature counter and versions 0 are the model's (log 4). -/
def Tack.reset : Tack :=
  { slots := .empty, drawn := 0, grants := [], jobs := .empty, boots := 0, sigCounter := 0, fuseTack := 0,
    fusePav := 0, version := 0, code := none, eps := .empty, migOut := .empty, migIn := .empty, nonces := 0 }

/-- The machine after a cold reset (20 R344): no context, no launch, no warp. The part is OL-X8 (log 1). -/
def State.reset : State :=
  { part := .olX8, boot := .running, cycle := 0, cur := 0, curSplit := 0, mem := [], phys := Phys.reset,
    hist := ⟨.empty, .empty, [], .empty, []⟩, warps := .empty, blocks := .empty, gangs := .empty, launches := .empty,
    ctxs := .empty, pavs := .empty, cores := .empty, clusters := .empty, dieTlb := .empty, ops := [], held := [],
    rounds := [], faults := [], waiting := [], sessions := .empty, tack := Tack.reset, outbox := [], late := [], lseq := 0,
    nextId := 1, windowStart := 0, free := 0, choices := [], arrival := Arrival.blank, agenda := [] }

/-- Why the machine stops with a fault. -/
inductive Fault where
  /-- Raised by no meaning: every stop the spec describes (a trap, a halt, a rejected command) is a next state.
  Safe: nothing can be proved of a run from it. -/
  | none
  deriving DecidableEq, Repr

/-- Why the machine has no meaning for a step. -/
inductive Refusal where
  /-- Raised only by an arm of `exec` whose instruction has no meaning yet. Safe: nothing is claimed of it. -/
  | notModelled (mnemonic : String)
  deriving DecidableEq, Repr

end Sys2Proof.Machine
end

