-- ==== Sys2Proof/Machine/Ordering.lean ====
section
/-! DEFINITION. The consistency model (10): common levels, value sets, the write history, the edges that order it, and
the memory order of a die (R185). -/

namespace Sys2Proof.Machine

/-- Union of two sets of writes. -/
def joinIds (a b : List Nat) : List Nat := a ++ b.filter fun x => !a.contains x

/-- Union of a list of sets. -/
def joinAll : List (List Nat) → List Nat
  | [] => []
  | a :: t => joinIds a (joinAll t)

/-- The common level of two parties, as a scope code (R178). -/
def Party.common (p q : Party) : Nat :=
  if !p.dev || !q.dev then 5
  else if p.warp = q.warp then 0
  else if p.block = q.block then 1
  else if p.gang = q.gang then 2
  else if p.die = q.die then 3
  else 4

/-- A remote agent, of scope `.sys` (R178). -/
def Party.remote : Party := ⟨false, 0, 0, 0, 0, 0⟩

/-- The code of a scope. -/
def scopeCode (s : Scope) : Nat :=
  match s with
  | .warp => 0 | .block => 1 | .gang => 2 | .die => 3 | .dev => 4 | .sys => 5

namespace Hist

/-- The record of a write. -/
def wrec (h : Hist) (w : Nat) : WRec := h.writes.get ⟨Party.remote, [], 1, false, [], [], 0⟩ w

/-- The history of a byte, where it has one. -/
def byte (h : Hist) (x : Nat) : Option ByteHist := Sparse.look x h.bytes.entries

/-- Replaces the history of a byte. -/
def setByte (h : Hist) (x : Nat) (b : ByteHist) : Hist :=
  { h with bytes := { entries := Sparse.insert x b (Sparse.erase x h.bytes.entries) } }

/-- `w` is overwritten for a reader that has seen `seen`: some write to the byte that happens before the read comes
after it (R183). -/
def hidden (h : Hist) (ws : List (Nat × Byte)) (seen : List Nat) (w : Nat) : Bool :=
  ws.any fun v => v.1 ≠ w && seen.contains v.1 && (h.wrec v.1).before.contains w

/-- VS of one byte (R183), newest first: each member's write, none for the initial value, and its byte. `cur` is what
memory holds, the value of a byte with no history. -/
def values (h : Hist) (x : Nat) (cur : Byte) (seen : List Nat) : List (Option Nat × Byte) :=
  match h.byte x with
  | none => [(none, cur)]
  | some b =>
    (b.ws.filter fun w => !h.hidden b.ws seen w.1).map (fun w => (some w.1, w.2)) ++
      if b.ws.any fun w => seen.contains w.1 then [] else [(none, b.init)]

/-- A write has reached its home by a cycle (R187). -/
def reached (h : Hist) (now w : Nat) : Bool := (h.wrec w).time + 65536 ≤ now

/-- The members of a value set that a read at the home may return (R187): none that another write has replaced there,
because that write has reached the home and was performed after this one had. -/
def atHome (h : Hist) (now x : Nat) (vs : List (Option Nat × Byte)) : List (Option Nat × Byte) :=
  match h.byte x with
  | none => vs
  | some b => vs.filter fun v => !(b.ws.any fun u => h.reached now u.1 &&
      match v.1 with
      | none => true
      | some w => (h.wrec w).time + 65536 < (h.wrec u.1).time)

/-- Every write of the byte is aligned and at least `n` bytes wide (R175). -/
def wide (h : Hist) (x n : Nat) : Bool :=
  match h.byte x with
  | none => true
  | some b => b.ws.all fun w => n ≤ (h.wrec w.1).width

/-- The byte that write `w` (none: the initial value) left at `x`. -/
def byteOf (h : Hist) (x : Nat) (cur : Byte) (w : Option Nat) : Byte :=
  match h.byte x, w with
  | none, _ => cur
  | some b, none => b.init
  | some b, some i => (Sparse.look i b.ws).getD b.init

/-- Enters a write: its record and, for each byte, the location, the byte there before and the byte written. `solo` is
the interval of a byte that nothing has written before. -/
def enter (h : Hist) (id : Nat) (r : WRec) (solo : Option (Nat × Nat)) (bs : List (Nat × Byte × Byte)) : Hist :=
  { h with
    writes := { entries := Sparse.insert id r (Sparse.erase id h.writes.entries) }
    bytes := { entries := bs.foldl (fun es b =>
      let old : ByteHist := (Sparse.look b.1 es).getD ⟨b.2.1, [], solo, none⟩
      Sparse.insert b.1 { old with ws := (id, b.2.2) :: old.ws } (Sparse.erase b.1 es)) h.bytes.entries } }

/-- Forgets the history of a range of locations, whose bytes start anew (R183: the initial value). -/
def forget (h : Hist) (lo n : Nat) : Hist :=
  { h with
    bytes := { entries := h.bytes.entries.filter fun e => !(lo ≤ e.1 && e.1 < lo + n) }
    ao := { entries := h.ao.entries.filter fun e => !(lo ≤ e.1 && e.1 < lo + n) } }

/-- Every write that has been performed. -/
def all (h : Hist) : List Nat := h.writes.keys

/-- The atomic write `w` of `n` bytes at `k` is the last in each byte's ao (R184). -/
def setAo (h : Hist) (w k n : Nat) : Hist :=
  { h with ao := (List.range n).foldl (fun a i => a.set none (k + i) (some w)) h.ao }

/-! ## The memory order of a die (R185)

Over an interval in which only thread accesses of one die's cores touch a byte, the byte's reads follow that die's
memory order. A write waits in `pend` from its issue until it enters that order. -/

/-- A byte is touched from outside a die's threads: its interval ends. -/
def leave (h : Hist) (k n : Nat) : Hist :=
  { h with bytes := ⟨h.bytes.entries.map fun e =>
      if k ≤ e.1 && e.1 < k + n then (e.1, { e.2 with solo := none }) else e⟩ }

/-- A byte is touched by a thread of a die that has seen `seen`. Its interval lasts, or one starts where every earlier
write happens before the access and the newest is what it leaves to read. `id` names the access. -/
def visitByte (h : Hist) (die id : Nat) (seen : List Nat) (x : Nat) : Hist :=
  match h.byte x with
  | none => h
  | some b =>
    if b.solo.any fun p => p.1 = die && p.2 ≤ id then h
    else
      let newest := b.ws.head?.map Prod.fst
      let alone := (b.ws.all fun w => seen.contains w.1) && ((h.values x b.init seen).map Prod.fst == [newest])
      h.setByte x (if alone then { b with solo := some (die, id), top := newest } else { b with solo := none })

/-- The same for `n` bytes at `k`. -/
def visit (h : Hist) (die id : Nat) (seen : List Nat) (k n : Nat) : Hist :=
  (List.range n).foldl (fun h i => h.visitByte die id seen (k + i)) h

/-- The interval of a byte is one of a die that had begun by event `id`. -/
def soloAt (h : Hist) (die id x : Nat) : Bool :=
  match h.byte x with
  | none => true
  | some b => b.solo.any fun p => p.1 = die && p.2 ≤ id

/-- Each of `n` bytes at `k` is in such an interval. -/
def oneDie (h : Hist) (die id k n : Nat) : Bool := (List.range n).all fun i => h.soloAt die id (k + i)

end Hist

/-- A pending write shares a byte with `n` bytes at `k`. -/
def PendW.meets (p : PendW) (k n : Nat) : Bool := p.key < k + n && k < p.key + p.len

namespace Hist

/-- A pending write takes its place in its die's memory order, last. -/
def place (h : Hist) (p : PendW) : Hist :=
  if h.pend.contains p then
    (List.range p.len).foldl (fun h i =>
      match h.byte (p.key + i) with
      | some b =>
        if b.solo.any (fun y => y.1 = p.die && y.2 ≤ p.id) && (Sparse.look p.id b.ws).isSome then
          h.setByte (p.key + i) { b with top := some p.id }
        else h
      | none => h) { h with pend := h.pend.filter fun q => q ≠ p }
  else h

/-- A pending write enters, after any atomic's write to its bytes, which nothing may part from its read (R174). -/
def enterOne (h : Hist) (p : PendW) : Hist :=
  ((h.pend.filter fun q => (h.wrec q.id).atomic && q.meets p.key p.len).foldl place h).place p

/-- One pending write must enter before another: it was issued earlier by the same core, or writes a byte of the other
and happens before it. -/
def precedes (h : Hist) (p q : PendW) : Bool :=
  p.id < q.id && (p.core = q.core || (p.meets q.key q.len && (h.wrec q.id).before.contains p.id))

/-- The pending writes that must enter if those of `goal` do, oldest first. The list is given newest first. -/
def needed (h : Hist) (goal : PendW → Bool) : List PendW → List PendW → List PendW
  | [], acc => acc
  | p :: t, acc => if goal p || acc.any (h.precedes p) then h.needed goal t (p :: acc) else h.needed goal t acc

/-- Makes the pending writes of `goal` enter. -/
def force (h : Hist) (goal : PendW → Bool) : Hist := (h.needed goal h.pend.reverse []).foldl enterOne h

/-- The pending writes of a die that may enter next. -/
def heads (h : Hist) (ofDie : PendW → Bool) : List PendW :=
  h.pend.filter fun p => ofDie p && !(h.pend.any fun q => h.precedes q p)

/-- What a read of one byte returns under R185: the latest of the reader's own pending writes `own`, else the last write
in the die's memory order. -/
def dieByte (h : Hist) (own : List Nat) (x : Nat) (cur : Byte) : Option Nat × Byte :=
  match h.byte x with
  | none => (none, cur)
  | some b =>
    let st := (b.solo.map Prod.snd).getD 0
    match b.ws.find? fun w => own.contains w.1 && st ≤ w.1 with
    | some w => (some w.1, w.2)
    | none => (b.top, h.byteOf x cur b.top)

end Hist

/-- The sources that synchronise with an acquire of scope `s` by party `q` (R179). -/
def acquired (q : Party) (s : Nat) (srcs : List Src) : List Nat :=
  joinAll ((srcs.filter fun x => decide (x.party.common q ≤ x.scope) && decide (x.party.common q ≤ s)).map Src.hb)

/-- What the SC events that stand earlier in S bring to one of scope `s` by party `q` (R181). -/
def scSeen (q : Party) (s : Nat) (evs : List ScEv) : List Nat :=
  joinAll ((evs.filter fun e => decide (e.party.common q ≤ e.scope) && decide (e.party.common q ≤ s)).map ScEv.hb)

end Sys2Proof.Machine
end

