-- ==== Sys2Proof/Machine/Ops.lean ====
section
/-! DEFINITION. The named operations on the state: registers and labels (02, 05), memory, translation and refusals (09,
16), the events of the consistency model (10), taking a trap and returning from one (02 R27 to R30), halts, records,
barriers and the ends of warps and blocks (05, 16). -/

namespace Sys2Proof

/-- Width of an element type. -/
def ETy.width : ETy → Nat
  | .i8 | .n8 => 8
  | .i16 | .n16 | .f16 | .bf16 => 16
  | .i32 | .n32 | .f32 => 32
  | .i64 | .n64 | .f64 | .q64 => 64

/-- A 64-bit element type: I64, N64, F64 or Q64. -/
def ETy.wide (t : ETy) : Bool := t.width == 64

/-- An N type. -/
def ETy.unsigned : ETy → Bool
  | .n8 | .n16 | .n32 | .n64 => true
  | _ => false

/-- A floating type. -/
def ETy.float : ETy → Bool
  | .f16 | .bf16 | .f32 | .f64 => true
  | _ => false

/-- An integer type. -/
def ETy.int : ETy → Bool
  | .i8 | .i16 | .i32 | .i64 | .n8 | .n16 | .n32 | .n64 => true
  | _ => false

end Sys2Proof

namespace Sys2Proof.Machine

/-! ## Small helpers -/

/-- Field of `w` bits from bit `lo` of a descriptor, register or header. -/
def fieldOf {n : Nat} (x : BitVec n) (lo w : Nat) : Nat := x.toNat / 2 ^ lo % 2 ^ w

/-- One bit. -/
def bitOf {n : Nat} (x : BitVec n) (i : Nat) : Bool := fieldOf x i 1 == 1

/-- Number of 1 bits among the low `k` bits of `n`. -/
def popc : Nat → Nat → Nat
  | 0, _ => 0
  | k + 1, n => n % 2 + popc k (n / 2)

/-- Little-endian value of a list of bytes (00 R5). -/
def leNat : List Byte → Nat
  | [] => 0
  | b :: t => b.toNat + 256 * leNat t

/-- The `k` low bytes of `n`, little-endian. -/
def leBytes : Nat → Nat → List Byte
  | 0, _ => []
  | k + 1, n => BitVec.ofNat 8 n :: leBytes k (n / 256)

/-- All ones, as a refused load returns (16 R269). -/
def allOnes (k : Nat) : List Byte := List.replicate k 0xFF#8

/-- Cause codes (16 R266). -/
inductive Cause where
  | ill | priv | align | page | prot | lblStore | lblPc | lblSend | lblDcls | poison | mxchk
  | copyAddr | copyMcast | hang | trapi
  deriving DecidableEq, Repr

/-- The code in ECAUSE (R266). -/
def Cause.code : Cause → Nat
  | .ill => 1 | .priv => 2 | .align => 3 | .page => 4 | .prot => 5 | .lblStore => 6 | .lblPc => 7 | .lblSend => 8
  | .lblDcls => 9 | .poison => 10 | .mxchk => 11 | .copyAddr => 12 | .copyMcast => 13 | .hang => 14 | .trapi => 15

/-- Why an instruction does not complete: a trap, a halt on consumed poison, a replayable fault on pages (64 KiB page
and access kind: 0 read, 1 write, 2 execute), held at issue, for the engine operations named (10 R188), a spill or refill that
faults on a page or is refused (05 R103, 16 R269), or one of these with what is then left of `choices` (log 30). -/
inductive Stop where
  | trap (c : Cause) (einfo : Word) (page : Bool := false)
  | halt (c : Cause)
  | park (pages : List (Nat × Nat))
  | hold (ops : List Nat)
  | refill (page kind : Nat)
  | refusedStack (why : Nat)
  | after (left : List Nat) (e : Stop)
  deriving DecidableEq, Repr

/-- A computation of an instruction's effect: the state it leaves, or why it does not complete. -/
abbrev Eff (α : Type) := Except Stop α

/-! ## Access to the parts of the state -/

/-- The warp in a slot. -/
def State.warpAt (s : State) (k : Nat) : Warp := s.warps.get Warp.blank k

/-- Replaces the warp in a slot. -/
def State.setWarpAt (s : State) (k : Nat) (w : Warp) : State := { s with warps := s.warps.set Warp.blank k w }

/-- The warp that issues. -/
def State.warp (s : State) : Warp := s.warpAt s.cur

/-- Replaces the warp that issues. -/
def State.setWarp (s : State) (w : Warp) : State := s.setWarpAt s.cur w

/-- A split of a warp. -/
def Warp.split (w : Warp) (i : Nat) : Split := w.splits.get Split.blank i

/-- Replaces a split of a warp. -/
def Warp.setSplit (w : Warp) (i : Nat) (x : Split) : Warp := { w with splits := w.splits.set Split.blank i x }

/-- The split that issues. -/
def State.split (s : State) : Split := s.warp.split s.curSplit

/-- Replaces the split that issues. -/
def State.setSplit (s : State) (x : Split) : State := s.setWarp (s.warp.setSplit s.curSplit x)

/-- A block by its identity. -/
def State.blockAt (s : State) (b : Nat) : Block := s.blocks.get Block.blank b

/-- Replaces a block. -/
def State.setBlockAt (s : State) (b : Nat) (x : Block) : State := { s with blocks := s.blocks.set Block.blank b x }

/-- The block of the warp that issues. -/
def State.block (s : State) : Block := s.blockAt s.warp.block

/-- A gang. -/
def State.gangAt (s : State) (g : Nat) : Gang := s.gangs.get Gang.blank g

/-- Replaces a gang. -/
def State.setGangAt (s : State) (g : Nat) (x : Gang) : State := { s with gangs := s.gangs.set Gang.blank g x }

/-- A launch by its sequence number. -/
def State.launchAt (s : State) (l : Nat) : Launch := s.launches.get Launch.blank l

/-- Replaces a launch. -/
def State.setLaunchAt (s : State) (l : Nat) (x : Launch) : State :=
  { s with launches := s.launches.set Launch.blank l x }

/-- The launch of the warp that issues. -/
def State.launch (s : State) : Launch := s.launchAt s.warp.lseq

/-- A context by its device number. -/
def State.ctxAt (s : State) (c : Nat) : Ctx := s.ctxs.get Ctx.blank c

/-- Replaces a context. -/
def State.setCtxAt (s : State) (c : Nat) (x : Ctx) : State := { s with ctxs := s.ctxs.set Ctx.blank c x }

/-- The context's hang counter is 0 at this cycle (16 R276): a split has issued, or an engine has worked. -/
def State.touch (s : State) (c : Nat) : State := s.setCtxAt c { s.ctxAt c with hang := s.cycle }

/-- The context of the warp that issues. -/
def State.ctx (s : State) : Ctx := s.ctxAt s.warp.ctx

/-- A Pavilion. -/
def State.pavAt (s : State) (p : Nat) : Pav := s.pavs.get Pav.reset p

/-- Replaces a Pavilion. -/
def State.setPavAt (s : State) (p : Nat) (x : Pav) : State := { s with pavs := s.pavs.set Pav.reset p x }

/-- A core. -/
def State.coreAt (s : State) (c : Nat) : Core := s.cores.get Core.reset c

/-- Replaces a core. -/
def State.setCoreAt (s : State) (c : Nat) (x : Core) : State := { s with cores := s.cores.set Core.reset c x }

/-- A cluster. -/
def State.clusterAt (s : State) (c : Nat) : Cluster := s.clusters.get Cluster.reset c

/-- Replaces a cluster. -/
def State.setClusterAt (s : State) (c : Nat) (x : Cluster) : State :=
  { s with clusters := s.clusters.set Cluster.reset c x }

/-- The core of the warp that issues: a slot's key is 32 x core + slot. -/
def State.coreNo (s : State) : Nat := s.cur / 32

/-- The compute die of a core (19 R310): four cores a cluster, 24 clusters a die. -/
def dieOf (core : Nat) : Nat := core / 96

/-- Field of a launch header (05 R95). -/
def Launch.field (l : Launch) (lo w : Nat) : Nat := fieldOf l.hdr lo w

/-- VR of R95. -/
def Launch.vr (l : Launch) : Nat := l.field 264 4
/-- W0, W1, W2 of R95. -/
def Launch.w0 (l : Launch) : Nat := l.field 128 3
/-- W1 of R95. -/
def Launch.w1 (l : Launch) : Nat := l.field 131 7
/-- W2 of R95. -/
def Launch.w2 (l : Launch) : Nat := l.field 138 7
/-- SIZE of R95. -/
def Launch.size (l : Launch) : Nat := l.field 64 64
/-- ENTRY of R95. -/
def Launch.entry (l : Launch) : Nat := l.field 0 57
/-- PURE of R95. -/
def Launch.pure (l : Launch) : Bool := l.field 278 1 == 1
/-- PRIVL of R95. -/
def Launch.privl (l : Launch) : Bool := l.field 280 1 == 1
/-- RSTRT of R95. -/
def Launch.rstrt (l : Launch) : Bool := l.field 279 1 == 1
/-- AUDIT of R95. -/
def Launch.audit (l : Launch) : Nat := l.field 272 6
/-- NARG of R95. -/
def Launch.narg (l : Launch) : Nat := l.field 268 4
/-- SPTMR of R95. -/
def Launch.sptmr (l : Launch) : Nat := l.field 288 16
/-- SPWIN of R95, in bytes. -/
def Launch.spBytes (l : Launch) : Nat := l.field 224 16 * 1024
/-- PART of R95. -/
def Launch.partWord (l : Launch) : Nat := l.field 192 32
/-- Argument word n (R95, R74). -/
def Launch.arg (l : Launch) (n : Nat) : Word := BitVec.ofNat 64 (l.field (512 + 64 * n) 64)

/-- Blocks of a launch that a core holds at once (09 R153). -/
def Launch.blocksPerCore (l : Launch) : Nat :=
  let part := l.partWord
  let sp := part / 2 ^ 8 % 256
  let rf := part % 256
  let warps := 2 ^ l.w1
  let byReg := rf * 16384 / (warps * (1152 * (l.vr + 1) + 1024))
  let bySlot := 32 / warps
  let m := min byReg bySlot
  if l.spBytes = 0 then m else min (sp * 16384 / l.spBytes) m

/-- A fresh name for an operation, a block, a fault or a write. -/
def State.fresh (s : State) : Nat × State := (s.nextId, { s with nextId := s.nextId + 1 })

/-- Takes the next pick among `n` alternatives: the head of `choices` (0 where it is empty), newest first. -/
def State.pick (s : State) (n : Nat) : Nat × State :=
  if n ≤ 1 then (0, s)
  else
    match s.choices with
    | [] => (0, s)
    | c :: t => (c % n, { s with choices := t })

/-- A free value (log 6): an uninterpreted constant at a fresh argument. -/
def State.freeWord (s : State) : Word × State := (Config.freeWord s.free, { s with free := s.free + 1 })

/-- Sends a message. -/
def State.send (s : State) (m : Msg) : State := { s with outbox := s.outbox ++ [m] }

/-- Sends a message about a launch of a Pavilion; it is delayed while the Pavilion's image is updated (19 R329). -/
def State.report (s : State) (p : Nat) (m : Msg) : State :=
  if (s.pavAt p).image.isSome then { s with late := s.late ++ [(p, m)] } else s.send m

/-! ## Labels and the label table (02 R16 to R19) -/

/-- Context owner set of the warp that issues: L15. -/
def State.owners (s : State) : Label := s.ctx.owners

/-- The entry of an index: L0 is ∅, L15 the owner set (R17). -/
def Warp.entry (w : Warp) (own : Label) (i : Nat) : Option Label :=
  if i = 0 then some 0#16 else if i = 15 then some own else w.ltab.get none i

/-- The label an index stands for. An index of a freed entry stands for the owner set. -/
def Warp.label (w : Warp) (own : Label) (i : LIdx) : Label := (w.entry own i.toNat).getD own

/-- Owners in a label. -/
def labelSize (l : Label) : Nat := popc 16 l.toNat

/-- The smallest entry among indices that dominates `l`; ties to the lower index (R19 step 3). -/
def Warp.smallestDom (w : Warp) (own l : Label) : List Nat → Option Nat → Nat
  | [], best => best.getD 15
  | i :: t, best =>
    match w.entry own i with
    | some e =>
      if Label.dom e l then
        match best with
        | some j => if labelSize e < labelSize ((w.entry own j).getD own) then w.smallestDom own l t (some i)
                    else w.smallestDom own l t best
        | none => w.smallestDom own l t (some i)
      else w.smallestDom own l t best
    | none => w.smallestDom own l t best

/-- `lookup_or_insert(L)` (R19). -/
def Warp.intern (w : Warp) (own l : Label) : LIdx × Warp :=
  match (List.range 16).find? fun i => w.entry own i = some l with
  | some i => (BitVec.ofNat 4 i, w)
  | none =>
    match (List.range' 1 14).find? fun i => w.ltab.get none i = none with
    | some i => (BitVec.ofNat 4 i, { w with ltab := w.ltab.set none i (some l) })
    | none =>
      (BitVec.ofNat 4 (w.smallestDom own l (List.range 16) none),
        { w with coarsen := if w.coarsen = 0xFFFFFFFF#32 then w.coarsen else w.coarsen + 1 })

/-- `lookup_or_insert(L)` in the warp that issues. -/
def State.intern (s : State) (l : Label) : LIdx × State :=
  let r := s.warp.intern s.owners l
  (r.1, s.setWarp r.2)

/-- The label of an index in the warp that issues. -/
def State.label (s : State) (i : LIdx) : Label := s.warp.label s.owners i

/-- The pc label of the split that issues. -/
def State.pcl (s : State) : Label := s.label s.split.pcl

/-! ## Registers (02 R10, 05 R91) -/

/-- Value of a scalar register; S0 reads 0. -/
def State.sreg (s : State) (r : SNum) : Word := if r = 0 then 0 else (s.warp.sregs.get SReg.zero r.toNat).val

/-- Label of a scalar register; S0 is public. -/
def State.slbl (s : State) (r : SNum) : Label :=
  if r = 0 then 0 else s.label (s.warp.sregs.get SReg.zero r.toNat).lbl

/-- Writes a scalar register's value and label. S0 discards both, and no entry is inserted for it. -/
def State.setS (s : State) (d : SNum) (v : Word) (l : Label) : State :=
  if d = 0 then s
  else
    let r := s.intern l
    let w := r.2.warp
    r.2.setWarp { w with sregs := w.sregs.set SReg.zero d.toNat ⟨v, r.1⟩,
                         poisonS := w.poisonS.set false d.toNat false }

/-- Key of a lane of a vector register. -/
def vkey (r l : Nat) : Nat := 32 * r + l

/-- A lane of a vector register. -/
def State.vlane (s : State) (r l : Nat) : VLane := s.warp.vregs.get VLane.zero (vkey r l)

/-- An element of a lane: one register, or an even and odd pair (R119). -/
def State.velt (s : State) (wide : Bool) (r l : Nat) : Nat :=
  if wide then (s.vlane r l).val.toNat + 2 ^ 32 * (s.vlane (r + 1) l).val.toNat else (s.vlane r l).val.toNat

/-- The label of an element: the join of its halves' labels (R119). -/
def State.vlbl (s : State) (wide : Bool) (r l : Nat) : Label :=
  if wide then s.label (s.vlane r l).lbl ||| s.label (s.vlane (r + 1) l).lbl else s.label (s.vlane r l).lbl

/-- Writes one lane of one register with an index already found. -/
def State.putLane (s : State) (r l : Nat) (v : Lane) (i : LIdx) : State :=
  let w := s.warp
  s.setWarp { w with vregs := w.vregs.set VLane.zero (vkey r l) ⟨v, i⟩,
                     poisonV := w.poisonV.set false (vkey r l) false }

/-- Writes an element and its label; both halves of a pair take one index (R119). -/
def State.setV (s : State) (wide : Bool) (r l : Nat) (v : Nat) (lb : Label) : State :=
  let i := s.intern lb
  let s := i.2.putLane r l (BitVec.ofNat 32 v) i.1
  if wide then s.putLane (r + 1) l (BitVec.ofNat 32 (v / 2 ^ 32)) i.1 else s

/-! ## Participation and MODE (02 R12, R14, 05 R92) -/

/-- MODE.TYPE's value. -/
def typeOf (mode : BitVec 32) : ETy := (ETy.ofCode (fieldOf mode 4 4)).getD .i64

/-- MODE.TYPE of the split that issues. -/
def State.ty (s : State) : ETy := typeOf s.split.mode

/-- MODE.SAT. -/
def State.sat (s : State) : Bool := bitOf s.split.mode 0

/-- MODE.RND. -/
def State.rnd (s : State) : Nat := fieldOf s.split.mode 1 3

/-- MODE.GEN. -/
def State.gen (s : State) : Bool := bitOf s.split.mode 8

/-- The guard register. -/
def State.greg (s : State) : SNum := BitVec.ofNat 6 (fieldOf s.split.mode 10 6)

/-- The guard admits lane `l` (R14). -/
def State.admits (s : State) (l : Nat) : Bool :=
  if s.gen then bitOf (s.sreg s.greg) l != bitOf s.split.mode 9 else true

/-- The guard's label: lbl(S[GREG]) when the guard is in force (R18). -/
def State.guardLbl (s : State) : Label := if s.gen then s.slbl s.greg else 0#16

/-- Lanes of an execute mask, in increasing order. -/
def lanesOf (m : BitVec 32) : List Nat := (List.range 32).filter fun l => bitOf m l

/-- The participating lanes P of a lane-wise instruction (R92). -/
def State.lanes (s : State) : List Nat := (lanesOf s.split.exec).filter s.admits

/-- Join of labels. -/
def joinLabels (ls : List Label) : Label := ls.foldl (· ||| ·) 0#16

/-! ## Addresses of memory

A location's key is its device physical address, or for a byte of a block's windows 2^48 x (block + 1) + offset. -/

/-- Bytes of the pool's address space (00 R1); what lies above is no pool memory (log 88). -/
def poolBytes : Nat := 2 ^ 46

/-- Key of a byte of a block's windows. -/
def scratchKey (block off : Nat) : Nat := 2 ^ 48 * (block + 1) + off

/-- The byte a location holds: the newest write. -/
def State.byteAt (s : State) (k : Nat) : Byte :=
  if k < 2 ^ 48 then s.mem.read k else (s.blockAt (k / 2 ^ 48 - 1)).mem.get 0 (k % 2 ^ 48)

/-- Writes a byte at a location. A store to a scrubbed granule clears its mark (22 R364). -/
def State.setByte (s : State) (k : Nat) (b : Byte) : State :=
  if k < 2 ^ 48 then
    { s with mem := s.mem.write k b
             phys := { s.phys with scrubbed := s.phys.scrubbed.set false (k / 64) false } }
  else
    let x := s.blockAt (k / 2 ^ 48 - 1)
    s.setBlockAt (k / 2 ^ 48 - 1) { x with mem := x.mem.set 0 (k % 2 ^ 48) b }

/-- Writes consecutive bytes. -/
def State.setBytes (s : State) (k : Nat) : List Byte → State
  | [] => s
  | b :: t => (s.setByte k b).setBytes (k + 1) t

/-- Consecutive bytes as memory holds them. -/
def State.bytesAt (s : State) (k n : Nat) : List Byte := (List.range n).map fun i => s.byteAt (k + i)

/-- The label of the granule of a location. -/
def State.granLbl (s : State) (k : Nat) : Label :=
  if k < 2 ^ 48 then (s.phys.grans.get Gran.initial (k / 64)).lbl
  else (s.blockAt (k / 2 ^ 48 - 1)).lbl.get 0 (k % 2 ^ 48 / 64)

/-- The granule of a location is floating; those of windows are, until a scrub fixes them (R157, 20 R353). -/
def State.granFloat (s : State) (k : Nat) : Bool :=
  if k < 2 ^ 48 then (s.phys.grans.get Gran.initial (k / 64)).floating
  else !(s.blockAt (k / 2 ^ 48 - 1)).fixed.get false (k % 2 ^ 48 / 64)

/-- A floating granule joins a contribution; a fixed one keeps its label (R21, R169). -/
def State.joinGran (s : State) (k : Nat) (c : Label) : State :=
  if k < 2 ^ 48 then
    let g := s.phys.grans.get Gran.initial (k / 64)
    if g.floating then
      { s with phys := { s.phys with grans := s.phys.grans.set Gran.initial (k / 64) { g with lbl := g.lbl ||| c } } }
    else s
  else
    let x := s.blockAt (k / 2 ^ 48 - 1)
    if x.fixed.get false (k % 2 ^ 48 / 64) then s
    else s.setBlockAt (k / 2 ^ 48 - 1)
      { x with lbl := x.lbl.set 0 (k % 2 ^ 48 / 64) (x.lbl.get 0 (k % 2 ^ 48 / 64) ||| c) }

/-- The CXL ports behind which an address lies: that of the HDM decoder that holds it, else those whose dynamic-capacity
extents do (R164). -/
def State.portsAt (s : State) (pa : Nat) : List Nat :=
  match s.phys.decoders.find? fun d => d.base ≤ pa && pa < d.base + d.len with
  | some d => [d.port pa]
  | none => (s.phys.extents.filter fun e => e.2.1 ≤ pa && pa < e.2.1 + e.2.2).map Prod.fst

/-- The memory behind a CXL port that is out of service, and not being reset, is lost (19 R329). -/
def State.lost (s : State) (pa : Nat) : Bool :=
  (s.portsAt pa).any fun p => !bitOf s.phys.cxl p && (s.phys.cxlWait.get none p).isNone

/-- The 64-byte sector or granule of a location is poisoned (16 R271, R224), as all lost memory is. -/
def State.poisoned (s : State) (k : Nat) : Bool :=
  if k < 2 ^ 48 then s.phys.poison.get false (k / 64) || s.lost k
  else (s.blockAt (k / 2 ^ 48 - 1)).poison.get false (k % 2 ^ 48 / 64)

/-- Sets or clears the poison of a location's sector. Clearing frees its record entry (R274). -/
def State.setPoison (s : State) (k : Nat) (b : Bool) : State :=
  if k < 2 ^ 48 then
    let mc := Config.controllerOf (k / 64)
    { s with phys := { s.phys with
        poison := s.phys.poison.set false (k / 64) b
        records := if b then s.phys.records
                   else if s.phys.poison.get false (k / 64) then
                     s.phys.records.set [] mc ((s.phys.records.get [] mc).filter (· ≠ k / 64))
                   else s.phys.records } }
  else
    let x := s.blockAt (k / 2 ^ 48 - 1)
    s.setBlockAt (k / 2 ^ 48 - 1) { x with poison := x.poison.set false (k % 2 ^ 48 / 64) b }

/-- A place that accepts a contribution: a fixed granule must dominate it (R23), a floating one must stay within the
ceiling (R169). -/
def State.accepts (s : State) (k : Nat) (ceil c : Label) : Bool :=
  if s.granFloat k then Label.dom ceil (s.granLbl k ||| c) else Label.dom (s.granLbl k) c

/-! ## Poison that whole writes clear (16 R274) -/

/-- Clears the poison of every sector that the written locations of one instruction or operation cover whole. -/
def State.clearCovered (s : State) (written : List Nat) : State :=
  ((written.filter fun k => k % 64 = 0).filter fun k =>
    (List.range 64).all fun i => written.contains (k + i)).foldl (fun s k =>
      if s.poisoned k then s.setPoison k false else s) s

/-! ## Translation (09 R171 to R173) -/

/-- What a walk finds. -/
inductive Walk where
  | leaf (e : BitVec 128)
  | absent
  | malformed
  deriving DecidableEq, Repr

/-- Bytes of a page of a SIZE code. -/
def pageBytes (size : Nat) : Nat := if size = 0 then 2 ^ 16 else if size = 1 then 2 ^ 21 else 2 ^ 30

/-- A leaf's SIZE. -/
def leafSize (e : BitVec 128) : Nat := fieldOf e 7 2

/-- A leaf is well formed at a level that permits `size` (R171, R172). -/
def leafOk (e : BitVec 128) (size : Option Nat) : Bool :=
  size == some (leafSize e) && leafSize e != 3 && fieldOf e 48 40 == 0 && fieldOf e 11 5 == 0 &&
    fieldOf e 16 32 * 2 ^ 16 % pageBytes (leafSize e) == 0

/-- The levels of R171: shift, index bits, size code of the leaf permitted. -/
def walkLevels : List (Nat × Nat × Option Nat) :=
  [(48, 9, none), (39, 9, none), (30, 9, some 2), (21, 9, some 1), (16, 5, some 0)]

/-- The walk over the levels left, from a table at a physical address. An entry of the last level that is no leaf is
malformed (log 87). -/
def walkFrom (m : Memory) (va : Nat) : List (Nat × Nat × Option Nat) → Nat → Walk
  | [], _ => .malformed
  | (sh, b, size) :: rest, table =>
    let e : BitVec 128 := BitVec.ofNat 128 (leNat ((List.range 16).map fun i =>
      m.read (table + 16 * (va / 2 ^ sh % 2 ^ b) + i)))
    if !bitOf e 0 then .absent
    else if bitOf e 1 then (if leafOk e size then .leaf e else .malformed)
    else walkFrom m va rest (fieldOf e 16 32 * 2 ^ 16)

/-- The well-formed leaf entries of the tables under a table that translates addresses from `va` on, in the order of their
addresses. -/
def leavesFrom (m : Memory) : List (Nat × Nat × Option Nat) → Nat → Nat → List (Nat × BitVec 128)
  | [], _, _ => []
  | (sh, b, size) :: rest, va, table =>
    let used := ((m.filter fun c => table ≤ c.1 && c.1 < table + 16 * 2 ^ b).map fun c => (c.1 - table) / 16).eraseDups
    (used.map fun i =>
      let e : BitVec 128 := BitVec.ofNat 128 (leNat ((List.range 16).map fun j => m.read (table + 16 * i + j)))
      if !bitOf e 0 then []
      else if bitOf e 1 then (if leafOk e size then [(va + i * 2 ^ sh, e)] else [])
      else leavesFrom m rest (va + i * 2 ^ sh) (fieldOf e 16 32 * 2 ^ 16)).flatten

/-- The leaf entries of a context's tables, each with its first address. -/
def State.leaves (s : State) (c : Nat) : List (Nat × BitVec 128) := leavesFrom s.mem walkLevels 0 (s.ctxAt c).root

/-- A cached translation of a page that holds `va`, in a list of (context, first address, leaf, bytes). -/
def tlbFind (t : List (Nat × Nat × BitVec 128 × Nat)) (c va : Nat) : Option (BitVec 128) :=
  (t.find? fun e => e.1 = c && e.2.1 ≤ va && va < e.2.1 + e.2.2.2).map fun e => e.2.2.1

/-- The translation of a context's address from a core: its TLB, its die's, else the tables (R173). -/
def State.translate (s : State) (core c va : Nat) : Walk :=
  match tlbFind (s.coreAt core).tlb c va with
  | some e => .leaf e
  | none =>
    match tlbFind (s.dieTlb.get [] (dieOf core)) c va with
    | some e => .leaf e
    | none => walkFrom s.mem va walkLevels (s.ctxAt c).root

/-- A TLB of `cap` entries with one more. Where it is full the new entry replaces one that `choices` picks, the oldest
first (log 34). -/
def State.fillTlb (s : State) (cap : Nat) (t : List (Nat × Nat × BitVec 128 × Nat)) (x : Nat × Nat × BitVec 128 × Nat) :
    List (Nat × Nat × BitVec 128 × Nat) × State :=
  if (tlbFind t x.1 x.2.1).isSome then (t, s)
  else if t.length < cap then (t ++ [x], s)
  else
    let c := s.pick t.length
    (t.eraseIdx c.1 ++ [x], c.2)

/-- Caches the translation of a context's address in the core's TLB of 256 entries and its die's of 32 Ki (R173). -/
def State.cache (s : State) (core c va : Nat) : State :=
  match s.translate core c va with
  | .leaf e =>
    let n := pageBytes (leafSize e)
    let x := (c, va / n * n, e, n)
    let a := s.fillTlb 256 (s.coreAt core).tlb x
    let s := a.2.setCoreAt core { a.2.coreAt core with tlb := a.1 }
    let b := s.fillTlb 32768 (s.dieTlb.get [] (dieOf core)) x
    { b.2 with dieTlb := b.2.dieTlb.set [] (dieOf core) b.1 }
  | _ => s

/-- Caches the translations of several addresses of the context that issues. An address beyond 57 bits has none. -/
def State.cacheAll (s : State) (vas : List Word) : State :=
  (vas.filter fun a => a.toNat < 2 ^ 57).foldl (fun s a => s.cache s.coreNo s.warp.ctx a.toNat) s

/-- A leaf's physical address for a virtual one. -/
def leafPa (e : BitVec 128) (va : Nat) : Nat := fieldOf e 16 32 * 2 ^ 16 + va % pageBytes (leafSize e)

/-- A leaf's ceiling. -/
def leafCeil (e : BitVec 128) : Label := BitVec.ofNat 16 (fieldOf e 96 16)

/-- A leaf's clearance. -/
def leafClr (e : BitVec 128) : Label := BitVec.ofNat 16 (fieldOf e 112 16)

/-- Access kinds: the permissions of R172. -/
inductive Acc where
  | load | store | atomic | fetch
  deriving DecidableEq, Repr

/-- The permission an access needs (R172). -/
def leafPermits (e : BitVec 128) (k : Acc) (priv : Bool) : Bool :=
  (priv || !bitOf e 3) &&
    match k with
    | .load => bitOf e 4
    | .store => bitOf e 5 && !bitOf e 10
    | .atomic => bitOf e 4 && bitOf e 5 && !bitOf e 10
    | .fetch => bitOf e 6

/-- Why a physical access through a leaf is refused (16 R269, R270's WHY), if it is. -/
def State.refusal (s : State) (c : Nat) (e : BitVec 128) (pa : Nat) : Option Nat :=
  if s.phys.owners.get .unowned (pa / 2 ^ 16) ≠ .ctx c then some 0
  else if s.phys.retired.get false (pa / 2 ^ 16) then some 1
  else
    let k := fieldOf e 88 8
    if k = 0 then (if bitOf e 2 then none else some 4)
    else if !(s.tack.slots.get KeySlot.blank k).holds 2 c || k ≠ (s.ctxAt c).mslot then some 4 else none

/-- The outcome of the checks of one access: a trap, a replayable fault on a page, a refusal (WHY), or the place with
its ceiling. -/
inductive Chk where
  | trap (c : Cause) (einfo : Word) (page : Bool := false)
  | fault (page kind : Nat)
  | refused (why : Nat)
  | ok (key : Nat) (ceil : Label)
  deriving DecidableEq, Repr

/-- The page of no address: an access that waits for a CXL port and is offered to no host (19 R329). -/
def waitPage : Nat := 2 ^ 41

/-- The memory of a physical address lies behind a CXL port that is being reset (R329). -/
def State.portWaits (s : State) (pa : Nat) : Bool := (s.portsAt pa).any fun p => (s.phys.cxlWait.get none p).isSome

/-- Fault kind of an access (R268): 0 read, 1 write, 2 execute. -/
def Acc.kind : Acc → Nat
  | .load => 0
  | .store => 1
  | .atomic => 1
  | .fetch => 2

/-- The checks of a virtual access from a core for a context (09 R171, R172, 11 R191 steps 2 and 3, 16 R268, R269,
R283). `declined` lists the 64 KiB pages that the host has declined for it; `pure` says the launch is pure. -/
def State.checkVa (s : State) (core c : Nat) (priv pure : Bool) (declined : List Nat) (k : Acc) (va : Word) : Chk :=
  if va.toNat ≥ 2 ^ 57 then .trap .prot va true
  else if declined.contains (va.toNat / 2 ^ 16) then .trap .page va true
  else
    match s.translate core c va.toNat with
    | .malformed => .trap .page va true
    | .absent => .fault (va.toNat / 2 ^ 16) k.kind
    | .leaf e =>
      if !leafPermits e k priv then .trap .prot va true
      else if pure && (k == .load || k == .atomic) && !bitOf e 10 then .trap .prot va true
      else
        match s.refusal c e (leafPa e va.toNat) with
        | some w => .refused w
        | none =>
          if s.portWaits (leafPa e va.toNat) then .fault waitPage k.kind else .ok (leafPa e va.toNat) (leafCeil e)

/-- The block that a scratchpad address names in the window of block `b` (R155, R156). -/
def State.windowBlock (s : State) (b : Block) (self : Nat) (a : BitVec 32) : Option Nat :=
  if !bitOf a 26 then some self
  else ((s.gangAt b.gang).blocks.find? fun i => (s.blockAt i).rank = fieldOf a 22 4 && (s.blockAt i).live)

/-- The checks of `n` bytes at a scratchpad address from block `self` (R155, R156): PROT, a refusal of an absent
rank (WHY 2), or the place. `acc` admits the accumulator window. -/
def State.checkSp (s : State) (self : Nat) (a : BitVec 32) (n : Nat) (acc : Bool) : Chk :=
  let b := s.blockAt self
  let off := fieldOf a 0 22
  let bad := fieldOf a 27 5 ≠ 0 || (!bitOf a 26 && fieldOf a 22 4 ≠ 0) || fieldOf a 22 4 ≥ b.ranks ||
    !(off + n ≤ b.spBytes || (acc && 0x200000 ≤ off && off + n ≤ 0x200000 + b.accBytes))
  if bad then .trap .prot (a.setWidth 64)
  else
    match s.windowBlock b self a with
    | some i => .ok (scratchKey i off) (s.ctxAt b.ctx).owners
    | none => .refused 2

/-! ## Events of the issuing warp (10) -/

/-- What happens before lane `l`'s next event. -/
def Warp.seen (w : Warp) (l : Nat) : List Nat := joinIds w.hbBase (w.hb.get [] l)

/-- The party of a lane of the warp that issues. -/
def State.party (s : State) (l : Nat) : Party :=
  { dev := true, die := dieOf s.coreNo, gang := s.block.gang, block := s.warp.block, warp := s.warp.uid, lane := l }

/-- What happens before an event of the lanes `ls`: one lane of a vector instruction, or the split's lanes for a
scalar access (R176). -/
def Warp.seenAll (w : Warp) (ls : List Nat) : List Nat := joinAll (ls.map w.seen)

/-- Adds writes to what happens before the lanes' next events. -/
def Warp.learn (w : Warp) (ls : List Nat) (ids : List Nat) : Warp :=
  { w with hb := ls.foldl (fun h l => h.set [] l (joinIds (h.get [] l) ids)) w.hb }

/-- The same for the warp that issues. -/
def State.learn (s : State) (ls : List Nat) (ids : List Nat) : State := s.setWarp (s.warp.learn ls ids)

/-- Adds release sources that the lanes' reads have met (R179). -/
def Warp.meet (w : Warp) (ls : List Nat) (x : List Src) : Warp :=
  { w with acq := ls.foldl (fun h l => h.set [] l ((h.get [] l) ++ x.filter fun e => !(h.get [] l).contains e)) w.acq }

/-- The head lane of a set of lanes. -/
def headLane (ls : List Nat) : Nat := ls.headD 0

/-- The place in S of an SC event is entered: what stands before it is seen (R181). -/
def State.scEnter (s : State) (ls : List Nat) (sc : Option Nat) : State :=
  match sc with
  | none => s
  | some c => s.learn ls (scSeen (s.party (headLane ls)) c s.hist.sc)

/-- The SC event takes its place in S, which is the order of these events here (log 90). -/
def State.scLeave (s : State) (ls : List Nat) (sc : Option Nat) : State :=
  match sc with
  | none => s
  | some c =>
    { s with hist := { s.hist with sc := s.hist.sc ++ [⟨c, s.party (headLane ls), s.warp.seenAll ls⟩] } }

/-- One byte's pick from its value set: the write read, and the state that has picked. `home` leaves out what a read at
the home cannot return (R187). -/
def State.pickByte (s : State) (seen : List Nat) (home : Bool) (x : Nat) : Option Nat × State :=
  let vs := s.hist.values x (s.byteAt x) seen
  let near := s.hist.atHome s.cycle x vs
  let vs := if home && near ≠ [] then near else vs
  let p := s.pick vs.length
  ((vs.getD p.1 (none, 0#8)).1, p.2)

/-- Every write of `n` bytes at `k` is aligned and at least `n` wide (R175). -/
def State.wideAt (s : State) (k n : Nat) : Bool := (List.range n).all fun i => s.hist.wide (k + i) n

/-- The byte that write `w` left at `x`. -/
def State.byteBy (s : State) (x : Nat) (w : Option Nat) : Byte := s.hist.byteOf x (s.byteAt x) w

/-- The pick of `n` bytes at `k`, by a rule for one byte (R175): all from one write where every write of them is aligned
and at least `n` wide, else byte by byte. Gives the bytes and the writes read. -/
def State.pickBytes (s : State) (k n : Nat) (rule : State → Nat → Option Nat × State) :
    List Byte × List Nat × State :=
  if s.wideAt k n then
    let r := rule s k
    ((List.range n).map fun i => s.byteBy (k + i) r.1, r.1.toList, r.2)
  else
    (List.range n).foldl (fun r i =>
      let p := rule r.2.2 (k + i)
      (r.1 ++ [s.byteBy (k + i) p.1], joinIds r.2.1 p.1.toList, p.2)) ([], [], s)

/-- Chooses a value for each of the bytes at `k` from their value sets (R183). -/
def State.choose (s : State) (seen : List Nat) (home : Bool) (k n : Nat) : List Byte × List Nat × State :=
  s.pickBytes k n fun s x => s.pickByte seen home x

/-! ## The memory order of the die (R185) -/

/-- The die of the warp that issues. -/
def State.dieNo (s : State) : Nat := dieOf s.coreNo

/-- `n` bytes at `k` are touched by the warp that issues, as the event of the next name. -/
def State.visit (s : State) (seen : List Nat) (k n : Nat) : State :=
  { s with hist := s.hist.visit s.dieNo s.nextId seen k n }

/-- `n` bytes at `k` are touched from outside the threads of one die. -/
def State.leave (s : State) (k n : Nat) : State := { s with hist := s.hist.leave k n }

/-- The pending writes of some lanes of the warp that issues. -/
def State.ownPend (s : State) (ls : List Nat) : List Nat :=
  (s.hist.pend.map PendW.id).filter fun i =>
    (s.hist.wrec i).party.warp = s.warp.uid && ls.contains (s.hist.wrec i).party.lane

/-- Further pending writes of the die enter its memory order, as `choices` picks, the oldest first where it is empty. -/
def State.drainDie : Nat → State → State
  | 0, s => s
  | n + 1, s =>
    let hs := s.hist.heads fun p => p.die = s.dieNo
    let c := s.pick (if hs = [] then 1 else hs.length + 1)
    match hs[c.1]? with
    | none => c.2
    | some p => drainDie n { c.2 with hist := c.2.hist.enterOne p }

/-- A read of the die's memory order takes its place: what happens before it has entered, and what R187 has brought to
its home; then as much more as `choices` picks. `all` says that the core's own writes have entered too. -/
def State.enterDie (s : State) (seen own : List Nat) (all : Bool) (k n : Nat) : State :=
  let goal (p : PendW) : Bool := p.time + 65536 ≤ s.cycle || (all && p.core = s.coreNo) ||
    (p.meets k n && !own.contains p.id && (seen.contains p.id || (s.hist.wrec p.id).atomic && all))
  let s := { s with hist := s.hist.force goal }
  s.drainDie s.hist.pend.length

/-- The bytes that lanes of the warp that issues read at `k`: as R185 has it over its interval, else from the value sets
of R183. -/
def State.threadRead (s : State) (ls : List Nat) (home : Bool) (k n : Nat) : List Byte × List Nat × State :=
  let seen := s.warp.seenAll ls
  let s := s.visit seen k n
  if s.hist.oneDie s.dieNo s.nextId k n then
    let own := s.ownPend ls
    let s := s.enterDie seen own false k n
    s.pickBytes k n fun s x => ((s.hist.dieByte own x (s.byteAt x)).1, s)
  else s.choose seen home k n

/-- A write of the warp that issues waits to enter the memory order of its die, where that orders a byte of it. -/
def State.pendWrite (s : State) (id k n : Nat) : State :=
  if (List.range n).any fun i => s.hist.soloAt s.dieNo id (k + i) then
    { s with hist := { s.hist with pend := s.hist.pend ++ [⟨id, s.coreNo, s.dieNo, k, n, s.cycle⟩] } }
  else s

/-! ## Events -/

/-- A scalar event comes after every earlier event of its split's lanes, in each of them (R176). -/
def State.gather (s : State) (ls : List Nat) : State :=
  if ls.length ≤ 1 then s else s.learn ls (s.warp.seenAll ls)

/-- What engine operations have written to the tile of a location is before the warp's accesses to it (05 R113). -/
def State.learnTile (s : State) (ls : List Nat) (k : Nat) : State :=
  match (s.warp.tileHb.filter fun x => x.1 = k / 256).map Prod.snd with
  | [] => s
  | ids => s.learn ls ids

/-- The sources of the writes read. -/
def State.srcsOf (s : State) (ws : List Nat) : List Src := (ws.map fun w => (s.hist.wrec w).srcs).flatten

/-- What the reading lanes gain from the writes `ws` that they read: their release sources, and for an acquire of scope
`acq` the edges from those (R179). -/
def State.readFrom (s : State) (ls : List Nat) (acq : Option Nat) (ws : List Nat) : State :=
  let srcs := s.srcsOf ws
  let s := s.setWarp (s.warp.meet ls srcs)
  match acq with
  | none => s
  | some c => s.learn ls (acquired (s.party (headLane ls)) c srcs)

/-- One read event of the lanes `ls` at `k` (R174, R179, R183). `acq` is the scope of an acquire or SC read; `sc` says
it is SC. -/
def State.readEvent (s : State) (ls : List Nat) (k n : Nat) (acq : Option Nat) (sc : Bool) : List Byte × State :=
  let s := ((s.gather ls).learnTile ls k).scEnter ls (if sc then acq else none)
  let r := s.threadRead ls acq.isSome k n
  (r.1, (r.2.2.readFrom ls acq r.2.1).scLeave ls (if sc then acq else none))

/-- The completing read of `mwait` (R174): an acquire read of scope `.sys` that also learns of the work whose completion
the stamp that it reads reports (R180). -/
def State.stampRead (s : State) (ls : List Nat) (k : Nat) : List Byte × State :=
  let s := (s.gather ls).learnTile ls k
  let r := s.threadRead ls true k 8
  let s := r.2.2
  (r.1, (s.readFrom ls (some 5) r.2.1).learn ls (joinAll (r.2.1.map fun w => (s.hist.wrec w).stamp)))

/-- The release sources of a write of the lanes: their release fences, and the write itself where it is a release
(R179). -/
def State.sources (s : State) (ls : List Nat) (rel : Option Nat) (id : Nat) : List Src :=
  ((ls.map fun l => s.warp.rel.get [] l).flatten) ++
    match rel with
    | none => []
    | some c => [⟨c, s.party (headLane ls), joinIds (s.warp.seenAll ls) [id]⟩]

/-- A location with the byte it holds and the byte written, for each byte of a write. -/
def State.cells (s : State) (k : Nat) (bs : List Byte) : List (Nat × Byte × Byte) :=
  (List.range bs.length).map fun i => (k + i, s.byteAt (k + i), bs.getD i 0#8)

/-- One write event of the lanes `ls` at `k` (R174, R179). `more` are the sources that a release sequence hands on to
an atomic write. -/
def State.writeEvent (s : State) (ls : List Nat) (k : Nat) (bs : List Byte) (rel : Option Nat) (sc atomic : Bool)
    (more : List Src) : State :=
  let s := ((s.gather ls).learnTile ls k).scEnter ls (if sc then rel else none)
  let s := s.visit (s.warp.seenAll ls) k bs.length
  let f := s.fresh
  let s := f.2
  let r : WRec := { party := s.party (headLane ls), before := s.warp.seenAll ls,
                    width := if k % bs.length = 0 then bs.length else 1, atomic := atomic,
                    srcs := s.sources ls rel f.1 ++ more, stamp := [], time := s.cycle }
  let h := s.hist.enter f.1 r (some (s.dieNo, 0)) (s.cells k bs)
  let s := { s with hist := if atomic then h.setAo f.1 k bs.length else h }
  let s := ((s.setBytes k bs).learn ls [f.1]).pendWrite f.1 k bs.length
  s.scLeave ls (if sc then rel else none)

/-- One byte's pick for the read of an atomic (R184): the write of its predecessor in ao, unless a plain write races;
then any member of VS that is not before the predecessor. The initial value is none (log 91). -/
def State.pickAtomic (s : State) (seen : List Nat) (x : Nat) : Option Nat × State :=
  match s.hist.ao.get none x with
  | none => s.pickByte seen true x
  | some p =>
    let vs := (s.hist.atHome s.cycle x (s.hist.values x (s.byteAt x) seen)).filterMap Prod.fst
    let later := vs.filter fun w => !(s.hist.wrec p).before.contains w && w ≠ p
    let keep := p :: (if later.any fun w => !(s.hist.wrec w).atomic then later else [])
    let c := s.pick keep.length
    (some (keep.getD c.1 p), c.2)

/-- The read of an atomic from outside the threads of one die (R184). Gives the bytes and the sources of the writes
read. -/
def State.atomicValue (s : State) (seen : List Nat) (k n : Nat) : List Byte × List Src × State :=
  let r := s.pickBytes k n fun s x => s.pickAtomic seen x
  (r.1, r.2.2.srcsOf r.2.1, r.2.2)

/-- The read of an atomic by lanes of the warp that issues (R184, R185). -/
def State.atomicRead (s : State) (ls : List Nat) (k n : Nat) : List Byte × List Src × State :=
  let s := (s.gather ls).learnTile ls k
  let seen := s.warp.seenAll ls
  let s := s.visit seen k n
  let r :=
    if s.hist.oneDie s.dieNo s.nextId k n then
      let s := s.enterDie seen [] true k n
      let r := s.pickBytes k n fun s x => ((s.hist.dieByte [] x (s.byteAt x)).1, s)
      (r.1, r.2.2.srcsOf r.2.1, r.2.2)
    else s.atomicValue seen k n
  (r.1, r.2.1, r.2.2.setWarp (r.2.2.warp.meet ls r.2.1))

/-! ## Engine writes and writes of remote agents -/

/-- A write by an engine operation or a remote agent: plain, single-copy atomic per aligned 8 bytes (R175), ordered
after `hb` (R180). `stamp` are the writes whose completion it reports. Gives the write's name. -/
def State.engineWrite (s : State) (p : Party) (hb : List Nat) (k : Nat) (bs : List Byte) (stamp : List Nat) :
    Nat × State :=
  let f := s.fresh
  let s := f.2.leave k bs.length
  let r : WRec := { party := p, before := hb, width := if k % 8 = 0 then min 8 bs.length else
                      if k % bs.length = 0 then bs.length else 1, atomic := false, srcs := [], stamp := stamp,
                    time := s.cycle }
  (f.1, ({ s with hist := s.hist.enter f.1 r none (s.cells k bs) }).setBytes k bs)

/-- An atomic write of 8 bytes by a remote agent: a release of scope `.sys` ordered after `hb`, which hands on the
sources of the write that it read (R179, 19 R317). -/
def State.remoteAtomic (s : State) (hb : List Nat) (k : Nat) (bs : List Byte) (more : List Src) : State :=
  let f := s.fresh
  let s := f.2.leave k bs.length
  let r : WRec := { party := Party.remote, before := hb, width := bs.length, atomic := true,
                    srcs := ⟨5, Party.remote, joinIds hb [f.1]⟩ :: more, stamp := [], time := s.cycle }
  ({ s with hist := (s.hist.enter f.1 r none (s.cells k bs)).setAo f.1 k bs.length }).setBytes k bs

/-! ## Records, refusals and notes (16) -/

/-- Adds 1, saturating at 0xFFFF. -/
def sat16 (x : BitVec 16) : BitVec 16 := if x = 0xFFFF#16 then x else x + 1

/-- The mapping of a context that holds a virtual page, and the page's index in it (19 R378). -/
def Ctx.mapOf (c : Ctx) (va : Nat) : Nat × Nat :=
  match c.maps.entries.find? fun e =>
      match e.2 with
      | some m => m.va ≤ va && m.pages.contains ((va - m.va) / 2 ^ 16)
      | none => false with
  | some (i, some m) => (i, (va - m.va) / 2 ^ 16)
  | _ => (0, 0)

/-- One refusal-log entry (R270). -/
def logEntry (ctx vcore wslot kind why lseq : Nat) : Word :=
  BitVec.ofNat 64 (ctx * 2 ^ 56 + vcore * 2 ^ 46 + wslot * 2 ^ 41 + kind * 2 ^ 37 + why * 2 ^ 33 + lseq % 2 ^ 32)

/-- Logs a refusal of context `c` in its Pavilion's ring of 1,024, and counts it in NREFUSE (R270). -/
def State.logRefusal (s : State) (c vcore wslot kind why lseq : Nat) : State :=
  let x := s.ctxAt c
  let p := s.pavAt x.pav
  let e := logEntry c vcore wslot kind why lseq
  let p := if p.log.length ≥ 1024 then { p with log := p.log.tail ++ [e], lost := p.lost + 1 }
           else { p with log := p.log ++ [e], logSince := if p.log = [] then s.cycle else p.logSince }
  (s.setPavAt x.pav p).setCtxAt c { x with nrefuse := sat16 x.nrefuse }

/-- A refusal of the warp that issues. -/
def State.refuse (s : State) (kind why : Nat) : State :=
  s.logRefusal s.warp.ctx s.block.vcore (s.cur % 32) kind why s.warp.lseq

/-- The error record of a warp (R279); `page` says that EINFO is the virtual address of a page concerned. -/
def State.record (s : State) (wkey : Nat) (pc : BitVec 57) (c : Cause) (einfo : Word) (page : Bool) (pcause : Nat) :
    BitVec 256 :=
  let w := s.warpAt wkey
  let x := s.ctxAt w.ctx
  let m := if page then x.mapOf einfo.toNat else (0, 0)
  BitVec.ofNat 256
    ((if x.isProt then 0 else einfo.toNat) * 2 ^ 192 + (sat16 x.nfault).toNat * 2 ^ 176 + x.nrefuse.toNat * 2 ^ 160 +
      x.nreplay.toNat * 2 ^ 144 + m.1 * 2 ^ 128 + m.2 % 2 ^ 24 * 2 ^ 104 +
      (2 ^ 57 + pc.toNat - (s.launchAt w.lseq).entry) % 2 ^ 32 * 2 ^ 72 + w.lseq % 2 ^ 32 * 2 ^ 40 +
      (s.blockAt w.block).vcore * 2 ^ 30 + wkey % 32 * 2 ^ 25 + w.ctx * 2 ^ 17 + pcause * 2 ^ 9 + c.code * 2 +
      (if x.isProt then 1 else 0))

/-- Writes an error record: kept among the context's last 256 and sent to its session (R279). -/
def State.writeRecord (s : State) (c : Nat) (r : BitVec 256) : State :=
  let x := s.ctxAt c
  let keep := (x.records ++ [r]).drop ((x.records.length + 1) - 256)
  (s.setCtxAt c { x with records := keep, nfault := sat16 x.nfault }).report x.pav
    (.note (some c) x.pav .tenant 0x81 0 (leBytes 32 r.toNat))

/-! ## The ends of splits, warps and blocks; barriers (05 R104 to R111, 16 R275) -/

/-- The splits of a warp that are live. -/
def Warp.liveSplits (w : Warp) : List (Nat × Split) := w.splits.entries.filter fun e => e.2.st ≠ .gone

/-- A warp that runs or is parked: it counts at barriers. -/
def Warp.live (w : Warp) : Bool := w.st == .run || w.st == .park || w.st == .init

/-- The live warps of a block, by slot. -/
def State.warpsOf (s : State) (b : Nat) : List (Nat × Warp) :=
  s.warps.entries.filter fun e => e.2.block = b && e.2.live

/-- A split waits at `bar n`, or at `barg n`. -/
def Split.atBar (x : Split) (gang : Bool) (n : Nat) : Bool :=
  match x.st with
  | .swait (.bar _ m) => !gang && m == n
  | .swait (.barg _ m) => gang && m == n
  | _ => false

/-- The warp has arrived at barrier `n`: each of its live splits waits there (R105). -/
def Warp.arrived (w : Warp) (gang : Bool) (n : Nat) : Bool := w.liveSplits.all fun e => e.2.atBar gang n

/-- Runs an operation as another warp and split, then returns to the one that issues. -/
def State.asWarp (s : State) (k i : Nat) (f : State → State) : State :=
  let r := f { s with cur := k, curSplit := i }
  { r with cur := s.cur, curSplit := s.curSplit }

/-- A barrier object's phase and ABND, as its bytes hold them (11 R204). -/
def State.objAt (s : State) (b off : Nat) : BitVec 128 := BitVec.ofNat 128 (leNat (s.bytesAt (scratchKey b off) 16))

/-- Every split that waits at a barrier object of block `b`. -/
def State.boWaiters (s : State) (b off : Nat) : List (Nat × Nat × BitVec 16) :=
  (s.warps.entries.map fun e => (e.2.liveSplits.filterMap fun p =>
    match p.2.st with
    | .swait (.bowait _ b' o ph _) => if e.2.live && b' = b && o = off then some (e.1, p.1, ph) else none
    | _ => none)).flatten


/-! ## Fetching (02 R11, 09 R159) -/

/-- The checks of a fetch for the warp that issues. -/
def State.checkFetch (s : State) (va : Word) : Chk :=
  s.checkVa s.coreNo s.warp.ctx s.split.priv false s.split.declined .fetch va

/-- A byte of code at a location. Where the launch that runs has stored there, the `j`-th newest form is fetched, down to
the form from before the launch (R159). -/
def State.codeByte (s : State) (j k : Nat) : Byte :=
  if j = 0 then s.byteAt k
  else
    match Sparse.look k s.hist.bytes.entries with
    | none => s.byteAt k
    | some h =>
      let forms := (h.ws.takeWhile fun w => s.launch.firstId ≤ w.1).map Prod.snd
      let before := ((h.ws.find? fun w => w.1 < s.launch.firstId).map Prod.snd).getD h.init
      forms.getD j before

/-- A word of code at a location: the newest form, or an older one as `choices` has it (log 12). -/
def State.codeWord (s : State) (k : Nat) : BitVec 32 :=
  BitVec.ofNat 32 (leNat ((List.range 4).map fun i => s.codeByte (s.choices.headD 0) (k + i)))

/-- The word after the PC of the split that issues, where a fetch finds it. -/
def State.fetchMask (s : State) : Option (BitVec 32) :=
  match s.checkFetch ((s.split.pc + 4).setWidth 64) with
  | .ok k _ => some (s.codeWord k)
  | _ => none

/-- The live-mask word of the instruction that issues: the one fetched together with it (03 R38). -/
def State.maskWord (s : State) : Option (BitVec 32) :=
  match s.split.imask with
  | some m => some m
  | none => s.fetchMask

/-! ## Completion (02 R11, 03 R41) -/

/-- Copies of a warp issued and not complete (13 R225). -/
def Warp.copiesPending (w : Warp) : Bool := w.openCopies ≠ [] || w.batches.any fun b => b.copies ≠ []

/-- A pass of the warp is undrained (14 R247). -/
def State.passPending (s : State) (uid : Nat) : Bool :=
  (s.coreAt s.coreNo).groups.any fun g => g.quarters.any fun q => q.uid = uid

/-- A slot of the block is LOADING or READY (14 R247). -/
def State.slotLive (s : State) : Bool :=
  (s.coreAt s.coreNo).bslots.entries.any fun e => e.2.owner = s.warp.block && (e.2.st == .loading || e.2.st == .ready)

/-- Signed value of a field of `w` bits. -/
def sextNat (w n : Nat) : Int := if n % 2 ^ w < 2 ^ (w - 1) then (n % 2 ^ w : Int) else (n % 2 ^ w : Int) - 2 ^ w

/-- An object of the block has waiters or pending bytes (13 R225). -/
def State.objPending (s : State) : Bool :=
  s.block.objs.any fun off =>
    fieldOf (s.objAt s.warp.block off) 0 48 ≠ 0 || (s.boWaiters s.warp.block off) ≠ []

/-- The mask covers the engine state that is pending (03 R39, R41). -/
def State.covered (s : State) (m : BitVec 32) : Bool :=
  (bitOf m 27 || !s.passPending s.warp.uid) && (bitOf m 26 || !s.slotLive) && (bitOf m 25 || !s.objPending) &&
    (bitOf m 24 || !s.warp.copiesPending)

/-- The safe point at which the split stands after an instruction with SP bit `p` whose mask word is `m`. -/
def State.safePoint (s : State) (p : Bool) (m : Option (BitVec 32)) : Option (BitVec 32) :=
  if p then m.bind fun x => if s.covered x then some x else none else none

/-- The instruction completes and the split goes on at `pc`. -/
def State.complete (s : State) (p : Bool) (m : Option (BitVec 32)) (pc : BitVec 57) : State :=
  s.setSplit { s.split with pc := pc, safe := s.safePoint p m, last := s.cycle, declined := [], heldOn := [] }

/-- The PC after an instruction with SP bit `p` (R11). -/
def State.nextPc (s : State) (p : Bool) : BitVec 57 := s.split.pc + (if p then 8 else 4)

/-- The instruction completes and the split falls through (R11). -/
def State.advance (s : State) (p : Bool) : State := s.complete p s.maskWord (s.nextPc p)

/-- The instruction completes at a target (R37). -/
def State.jump (s : State) (p : Bool) (pc : BitVec 57) : State := s.complete p s.maskWord pc

/-- The waits of R43, at which a warp with SP = 1 may be pre-empted. -/
def Wait.safe (w : Wait) : Bool :=
  match w with
  | .bar .. | .barg .. | .bowait .. | .cwait .. | .mwait .. => true
  | .spawn .. | .cbatch .. | .ltcompact | .mstat .. | .mchk .. | .kzero .. | .dcls .. | .refill => false

/-- The scalar register that a waiting instruction will write. -/
def Wait.dest (w : Wait) : Option SNum :=
  match w with
  | .bar d _ | .barg d _ | .bowait d .. | .mwait d .. | .cbatch d | .mstat d _ | .mchk d _ => some d
  | .dcls _ d false _ _ => some (BitVec.ofNat 6 d)
  | .dcls .. | .cwait .. | .spawn .. | .ltcompact | .kzero .. | .refill => none

/-- The instruction at which a split waits will write a register. -/
def Split.willWrite (x : Split) : Bool :=
  match x.st with
  | .swait (.dcls ..) => true
  | .swait w => w.dest.any (· ≠ 0)
  | _ => false

/-- A register write of the warp is pending: a load's, or that of an instruction at which a split waits (05 R113). -/
def Warp.writePending (w : Warp) : Bool := w.loads ≠ [] || w.liveSplits.any fun e => e.2.willWrite

/-- The split waits at its instruction (05 R102), which read operands of label `ops`. -/
def State.await (s : State) (w : Wait) (p : Bool) (ops : Label) : State :=
  s.setSplit { s.split with st := .swait w, safe := none, last := s.cycle,
                            wmask := if p then some (s.maskWord.getD 0) else none, wlbl := ops, declined := [],
                            heldOn := [] }

/-- The live mask of the safe point at which a split of the warp in slot `k` stands: the one that its last instruction
left, or in a wait of R43 that carries SP = 1 the one of that instruction, where it covers the engine state pending
now. -/
def State.stopMask (s : State) (k : Nat) (x : Split) : Option (BitVec 32) :=
  let covers (m : Option (BitVec 32)) : Option (BitVec 32) := m.filter ({ s with cur := k }).covered
  match x.st with
  | .ready => x.safe
  | .jwait => covers x.wmask
  | .swait w => if w.safe then covers x.wmask else none
  | .gone => none

/-- The instruction at which the split waits completes, and the split goes on past it. -/
def State.finishWait (s : State) : State :=
  let x := s.split
  let s := s.setSplit { x with st := .ready, wmask := none, wlbl := 0 }
  s.complete x.wmask.isSome x.wmask (x.pc + (if x.wmask.isSome then 8 else 4))


/-! ## Completing waits -/

/-- Completes the barrier for one waiting split: status, its label, and the edge of R180. -/
def State.releaseSplit (s : State) (k i : Nat) (status : Word) (lbl : Label) (ids : List Nat) : State :=
  s.asWarp k i fun s =>
    let s := match s.split.st with
      | .swait (.bar d _) => s.setS d status lbl
      | .swait (.barg d _) => s.setS d status lbl
      | _ => s
    (s.learn (List.range 32) ids).finishWait

/-- Completes barrier `n` over the warps named, with a status (R105, R106). -/
def State.completeBar (s : State) (ws : List (Nat × Warp)) (gang : Bool) (n : Nat) (status : Word) : State :=
  let at_ := (ws.map fun e => (e.2.liveSplits.filter fun p => p.2.atBar gang n).map fun p => (e.1, p.1)).flatten
  let lbl := joinLabels (at_.map fun p =>
    let w := s.warpAt p.1
    w.label (s.ctxAt w.ctx).owners (w.split p.2).pcl)
  let ids := joinAll (ws.map fun e => e.2.seenAll (List.range 32))
  at_.foldl (fun s p => s.releaseSplit p.1 p.2 status lbl ids) s

/-- The live warps of a gang's live blocks. -/
def State.gangWarps (s : State) (g : Nat) : List (Nat × Warp) :=
  ((s.gangAt g).blocks.map fun b => s.warpsOf b).flatten

/-- Completes every barrier of a block that all its live warps have reached, and every barrier of its gang. An
abandoned block's barriers complete without waiting (R106). -/
def State.settleBars (s : State) (b : Nat) : State :=
  let step (gang : Bool) (s : State) (n : Nat) : State :=
    let ws := if gang then s.gangWarps (s.blockAt b).gang else s.warpsOf b
    let ab := if gang then (s.gangAt (s.blockAt b).gang).blocks.any fun i => (s.blockAt i).abandoned
              else (s.blockAt b).abandoned
    let any := ws.any fun e => e.2.liveSplits.any fun p => p.2.atBar gang n
    if !any then s
    else if ab then s.completeBar ws gang n 1
    else if ws.all fun e => e.2.arrived gang n then s.completeBar ws gang n 0
    else s
  (List.range 16).foldl (step true) ((List.range 16).foldl (step false) s)

/-- Key of a phase of an object in `objHb`. -/
def objKey (off : Nat) (ph : BitVec 16) : Nat := 2 ^ 16 * off + ph.toNat

/-- Completes a `bowait` of a split (11 R206): a status, or the refusal of an absent peer. -/
def State.releaseBo (s : State) (k i : Nat) (v : Option Word) : State :=
  s.asWarp k i fun s =>
    let x := s.split
    match x.st with
    | .swait (.bowait d b off ph c) =>
      let s := s.gather (lanesOf x.exec)
      let s := match v with
        | some v =>
          let s := s.setS d v (s.granLbl (scratchKey b off) ||| c)
          if v = 0 then s.learn (lanesOf x.exec) ((s.blockAt b).objHb.get [] (objKey off ph)) else s
        | none => (s.setS d (BitVec.allOnes 64) s.owners).refuse 0 2
      s.finishWait
    | _ => s

/-- A barrier object is abandoned: ABND is set, or a warp of its block has halted on consumed poison (11 R207). -/
def State.objDead (s : State) (b off : Nat) : Bool := bitOf (s.objAt b off) 112 || (s.blockAt b).abandoned

/-- Completes the waits that an object's phase or ABND releases (11 R205, R206). -/
def State.settleObj (s : State) (b off : Nat) : State :=
  (s.boWaiters b off).foldl (fun s w =>
    if s.objDead b off then s.releaseBo w.1 w.2.1 (some 1)
    else if BitVec.ofNat 16 (fieldOf (s.objAt b off) 96 16) ≠ w.2.2 then s.releaseBo w.1 w.2.1 (some 0)
    else s) s

/-- Every offset of a block's window at which a split waits on a barrier object. -/
def State.waitedObjs (s : State) (b : Nat) : List Nat :=
  ((s.warps.entries.map fun e => e.2.liveSplits.filterMap fun p =>
    match p.2.st with
    | .swait (.bowait _ b' o _ _) => if e.2.live && b' = b then some o else none
    | _ => none).flatten).eraseDups

/-- Releases the waits on the barrier objects whose bytes the locations stored to replace (11 R205). -/
def State.settleStored (s : State) (keys : List Nat) : State :=
  ((keys.filter fun k => 2 ^ 48 ≤ k).map fun k => k / 2 ^ 48 - 1).eraseDups.foldl (fun s b =>
    ((s.waitedObjs b).filter fun o => keys.any fun k => scratchKey b o ≤ k && k < scratchKey b o + 16).foldl
      (fun s o => s.settleObj b o) s) s

/-- Writes a barrier object, in its turn among all accesses to its bytes (11 R205): every later access reads this. -/
def State.putObj (s : State) (b off : Nat) (o : BitVec 128) : State :=
  { s with hist := s.hist.forget (scratchKey b off) 16 }.setBytes (scratchKey b off) (leBytes 16 o.toNat)

/-- Sets ABND in every barrier object of a block and releases every wait in its window (11 R207, 16 R275). -/
def State.abandonObjs (s : State) (b : Nat) : State :=
  let s := (s.blockAt b).objs.foldl (fun s off => s.putObj b off (s.objAt b off ||| (1#128 <<< 112))) s
  (s.waitedObjs b).foldl (fun s off => s.settleObj b off) s

/-- The bins of a block's core that hold threads of it. -/
def State.binsOf (s : State) (b : Nat) : List (Nat × Bin) :=
  (s.coreAt (s.blockAt b).core).bins.entries.filter fun e => e.2.block = b && e.2.threads ≠ []

/-- Empties the B slots of a block that ends, once no group names them (14 R233, 15 R262). -/
def State.freeSlots (s : State) (b : Nat) : State :=
  let c := (s.blockAt b).core
  let k := s.coreAt c
  s.setCoreAt c { k with bslots := ⟨k.bslots.entries.filterMap fun e =>
    if e.2.owner = b then
      if k.groups.any fun g => g.slot = e.1 && g.block = b
      then some (e.1, { e.2 with freeing := true }) else none
    else some e⟩ }

/-- A gang leaves a cluster. Where the cluster is lent, the gang is its borrower's (17 R292). -/
def State.leftCluster (s : State) (k : Nat) : State :=
  let x := s.clusterAt k
  s.setClusterAt k { x with leftAt := s.cycle, idleSince := if x.lent.isNone then s.cycle else x.idleSince }

/-- What a launch keeps of a block that has ended after `t` cycles: its run time, and where it is selected for audit its
run, or that it is skipped because of what it executed (16 R284, R285). A block that halted is not audited (R281), and
counts as selected only where it is skipped. -/
def Launch.keepRun (l : Launch) (run : AuditRun) (t : Nat) (noAudit : Bool) : Launch :=
  let l := { l with times := l.times ++ [(run.num, t)] }
  if !l.selected.contains run.num then l
  else if noAudit then
    { l with skipped := l.skipped ++ [run.num], pending := l.pending.filter (· ≠ run.num) }
  else if run.whole then { l with runs := l.runs ++ [run] }
  else { l with selected := l.selected.filter (· ≠ run.num), pending := l.pending.filter (· ≠ run.num) }

/-- Ends a block none of whose warps is live and whose bins are empty (16 R280): `bowait`s on its objects complete as
refused, its slots empty, its run time is kept, and its digest too where it is selected for audit (R285). -/
def State.settleBlock (s : State) (b : Nat) : State :=
  let x := s.blockAt b
  if !x.live || (s.warpsOf b) ≠ [] || (s.binsOf b) ≠ [] then s
  else
    let s := (s.waitedObjs b).foldl (fun s off =>
      (s.boWaiters b off).foldl (fun s w => s.releaseBo w.1 w.2.1 none) s) s
    let s := s.freeSlots b
    let s := s.setBlockAt b { s.blockAt b with live := false }
    let l := s.launchAt x.lseq
    let run : AuditRun := ⟨x.num, x.core, x.vcore, x.d0, x.d1, x.halts = 0⟩
    let l := if x.audit then { l with runs := l.runs ++ [run] } else l.keepRun run (s.cycle - x.start) x.noAudit
    let s := s.setLaunchAt x.lseq l
    let g := s.gangAt x.gang
    if g.blocks.any fun i => (s.blockAt i).live then s
    else
      let s := s.setGangAt x.gang { g with live := false }
      let s := s.setLaunchAt x.lseq { s.launchAt x.lseq with
        liveGangs := if x.audit then (s.launchAt x.lseq).liveGangs else (s.launchAt x.lseq).liveGangs - 1 }
      s.leftCluster g.cluster

/-- A warp stops counting: barriers of its block and gang, and the block itself, are settled. -/
def State.settle (s : State) (b : Nat) : State := (s.settleBars b).settleBlock b

/-- Halts a warp (02 R30, 16 R267, R275). `pcause` is the ECAUSE held when the trap was taken with EH = 1. A halt on
POISON or MXCHK abandons the block's barriers and objects. An audit run's halt writes no record (R286). -/
def State.haltWarp (s : State) (k : Nat) (pc : BitVec 57) (c : Cause) (einfo : Word) (pcause : Nat)
    (page : Bool := false) : State :=
  let w := s.warpAt k
  let b := w.block
  let s := if (s.blockAt b).audit then s else s.writeRecord w.ctx (s.record k pc c einfo page pcause)
  let s := s.setWarpAt k { w with st := .halt, splits := ⟨w.splits.entries.map fun e => (e.1, { e.2 with st := .gone })⟩ }
  let s := s.touch w.ctx
  let dead := c == .poison || c == .mxchk
  let x := s.blockAt b
  let s := s.setBlockAt b { x with halts := x.halts + 1, abandoned := x.abandoned || dead }
  let s := if x.audit then s
           else s.setLaunchAt w.lseq { s.launchAt w.lseq with halted := (s.launchAt w.lseq).halted + 1 }
  let s := if dead then s.abandonObjs b else s
  s.settle b

/-! ## Taking a trap and returning from one (02 R28 to R30) -/

/-- Where a handler begins: the context's handler address in the PC's 57 bits, bits 1:0 zero (R9, R11, log 80). -/
def State.handlerPc (s : State) : BitVec 57 := s.ctx.handler.setWidth 57 &&& ~~~3#57

/-- Takes a trap of the split that issues: into the context's handler, or a halt where it is in handler state or the
context has no handler. `ops` is the join of the labels of what the instruction read; `epc` the address saved. -/
def State.takeTrap (s : State) (c : Cause) (einfo : Word) (ops : Label) (epc : BitVec 57) (len8 : Bool)
    (page : Bool := false) : State :=
  let x := s.split
  if x.eh || s.ctx.handler = 0 then
    s.haltWarp s.cur epc c einfo (if x.eh then x.ecause.toNat else 0) page
  else
    let r := s.intern (s.pcl ||| ops)
    r.2.setSplit { x with epc := epc, ecause := BitVec.ofNat 8 c.code, einfo := einfo, emode := x.mode, elbl := x.pcl,
                          epriv := x.priv, elen8 := len8, pcl := r.1, mode := 0x30#32, priv := true, eh := true,
                          pc := s.handlerPc, safe := none, st := .ready, last := s.cycle,
                          wmask := none, wlbl := 0, declined := [], heldOn := [] }

/-- Return from a trap (R29). -/
def State.eretTo (s : State) : State :=
  let x := s.split
  s.setSplit { x with pc := x.epc, mode := x.emode, pcl := x.elbl, priv := x.epriv, eh := false, safe := none,
                      last := s.cycle, declined := [], heldOn := [] }

/-! ## Replayable faults (16 R268) -/

/-- Offers pages to the host for the warp that issues and parks it: one message a page. An access that waits for a CXL
port holds its instruction instead. -/
def State.parkWarp (s : State) (pages : List (Nat × Nat)) : State :=
  if pages.any fun p => p.1 = waitPage then s else
  let w := s.warp
  let s := pages.foldl (fun s p =>
    let f := s.fresh
    let x : PFault := { tag := f.1, ctx := w.ctx, page := p.1, kind := p.2, who := .warp s.cur w.uid s.curSplit, since := s.cycle,
                        ok := false, no := false }
    let s := { f.2 with faults := f.2.faults ++ [x] }
    s.report (s.ctxAt w.ctx).pav (.note (some w.ctx) (s.ctxAt w.ctx).pav (if s.launch.privl then .runtime else .tenant) 0x80 f.1
      (leBytes 1 w.ctx ++ leBytes 1 p.2 ++ leBytes 2 s.block.vcore ++ leBytes 4 0 ++ leBytes 8 (p.1 * 2 ^ 16)))) s
  s.setWarp { s.warp with st := .park }

/-! ## The warp's private area (09 R166, R167) -/

/-- The virtual page that holds page `n` of the area of the warp that issues (log 30). -/
def State.areaPage (s : State) (n : Nat) : Nat := (Config.areaPage s.warp.uid + n) % 2 ^ 41

/-- What an access of a kind to page `n` of the area meets: as `choices` picks, first that the page is mapped (log 30). A
page that the host declined for the instruction fails (R268). -/
def State.areaMeets (s : State) (kind n : Nat) : Chk × State :=
  if s.split.declined.contains (s.areaPage n) then (.trap .page 0, s)
  else
    let r := s.pick 5
    match r.1 with
    | 0 => (.ok n s.owners, r.2)
    | 1 => (.fault (s.areaPage n) kind, r.2)
    | 2 => (.refused 0, r.2)
    | 3 => (.refused 1, r.2)
    | _ => (.refused 4, r.2)

/-- A spill or refill of the `i`-th entry from the outermost: the stack area of 32-byte entries follows the last private
row (05 R103, 09 R167). A declined page halts the warp, and so does a refill that meets poison (16 R273). -/
def State.stackAccess (s : State) (kind i : Nat) : Eff State :=
  let a := 32 * s.ctx.privBytes + 32 * i
  let r := s.areaMeets kind (a / 2 ^ 16)
  match r.1 with
  | .ok _ _ => if kind = 0 && s.warp.privPoison.get false (a / 64) then .error (.halt .poison) else .ok r.2
  | .fault p k => .error (.after r.2.choices (.refill p k))
  | .refused w => .error (.after r.2.choices (.refusedStack w))
  | .trap c _ _ => .error (.halt c)

/-- The split that issues waits for the host to resolve its spill or refill (05 R103). -/
def State.awaitRefill (s : State) : State := s.setSplit { s.split with st := .swait .refill }

/-- A split whose spill or refill the host has answered issues again. -/
def Split.refilled (x : Split) : Split := if x.st = .swait .refill then { x with st := .ready } else x

/-- What becomes of an instruction that does not complete. -/
def State.stopped (s : State) (st : Stop) (ops : Label) (len8 : Bool) : State :=
  match st with
  | .trap c e p => s.takeTrap c e ops s.split.pc len8 p
  | .halt c => s.haltWarp s.cur s.split.pc c 0 (if c = .page && s.split.eh then s.split.ecause.toNat else 0)
  | .park ps => s.parkWarp ps
  | .refill p k => s.awaitRefill.parkWarp [(p, k)]
  | .after left e => { s with choices := left }.stopped e ops len8
  | .refusedStack w => (s.refuse 9 w).haltWarp s.cur s.split.pc .prot 0 0
  | .hold ids => s.setSplit { s.split with safe := none, last := s.cycle, heldOn := joinIds s.split.heldOn ids }

end Sys2Proof.Machine
end

