-- ==== Sys2Proof/Machine/Operands.lean ====
section
/-! DEFINITION. The operand forms: which registers each instruction reads and writes and which element types it
accepts (03 R59, R60, 07 R134), the checks at issue (03 R62), and how an instruction's effect becomes a step. -/

namespace Sys2Proof.Machine

/-- What an instruction names. `vr` and `vw` are vector registers read and written in the participating lanes, as first
register and count; `xr` those read in other lanes too (07 R145); `even` those that must be even under a 64-bit TYPE. -/
structure Uses where
  sr : List SNum := []
  sw : List SNum := []
  vr : List (Nat × Nat) := []
  xr : List (Nat × Nat) := []
  vw : List (Nat × Nat) := []
  even : List Nat := []
  lanewise : Bool := false
  tyOk : Bool := true
  modular : Bool := false
  privileged : Bool := false
  deriving DecidableEq, Repr

/-- One register. -/
def one (r : VNum) : Nat × Nat := (r.toNat, 1)

/-- The operands of an instruction under element type `t`. -/
def usesOf (i : Instr) (t : ETy) : Uses :=
  let elt (r : VNum) : Nat × Nat := (r.toNat, if t.wide then 2 else 1)
  let ev (rs : List VNum) : List Nat := if t.wide then rs.map BitVec.toNat else []
  match i with
  | .braZ _ c _ => { sr := [c] }
  | .braNz _ c _ => { sr := [c] }
  | .brd _ c _ => { sr := [c] }
  | .call _ c _ => { sw := [c] }
  | .jmpi _ a => { sr := [a] }
  | .ret _ a => { sr := [a] }
  | .sread _ d _ => { sw := [d] }
  | .sreadClr _ d _ => { sw := [d] }
  | .swid _ d _ => { sw := [d] }
  | .vwid _ d _ => { lanewise := true, vw := [one d] }
  | .spawn _ a b => { lanewise := true, sr := [b], vr := [(a.toNat, 4)] }
  | .trap _ _ => {}
  | .bar _ d _ => { sw := [d] }
  | .barg _ d _ => { sw := [d] }
  | .nop _ => {}
  | .join _ => {}
  | .exit => {}
  | .yield _ => {}
  | .sadd _ d a b => { sr := [a, b], sw := [d] }
  | .ssub _ d a b => { sr := [a, b], sw := [d] }
  | .smul _ d a b => { sr := [a, b], sw := [d] }
  | .smulh _ d a b => { sr := [a, b], sw := [d] }
  | .sdiv _ d a b => { sr := [a, b], sw := [d] }
  | .srem _ d a b => { sr := [a, b], sw := [d] }
  | .sand _ d a b => { sr := [a, b], sw := [d] }
  | .sor _ d a b => { sr := [a, b], sw := [d] }
  | .sxor _ d a b => { sr := [a, b], sw := [d] }
  | .sshl _ d a b => { sr := [a, b], sw := [d] }
  | .sshr _ d a b => { sr := [a, b], sw := [d] }
  | .ssra _ d a b => { sr := [a, b], sw := [d] }
  | .srot _ d a b => { sr := [a, b], sw := [d] }
  | .smin _ d a b => { sr := [a, b], sw := [d] }
  | .smax _ d a b => { sr := [a, b], sw := [d] }
  | .scmp _ d a b _ => { sr := [a, b], sw := [d] }
  | .ssel _ d a b => { sr := [d, a, b], sw := [d] }
  | .smovi _ d _ => { sw := [d] }
  | .smovh _ d _ => { sr := [d], sw := [d] }
  | .saddi _ d _ => { sr := [d], sw := [d] }
  | .spopc _ d a => { sr := [a], sw := [d] }
  | .sclz _ d a => { sr := [a], sw := [d] }
  | .sctz _ d a => { sr := [a], sw := [d] }
  | .sbrev _ d a => { sr := [a], sw := [d] }
  | .sbfx _ d a b => { sr := [a, b], sw := [d] }
  | .sbfi _ d a b => { sr := [d, a, b], sw := [d] }
  | .sld _ d a b _ => { sr := [a, b], sw := [d] }
  | .sst _ d a b _ => { sr := [a, b, d] }
  | .sldc _ d _ => { sw := [d] }
  | .mode _ a => { sr := [a] }
  | .modei _ _ => {}
  | .lget _ d a => { sr := [a], sw := [d] }
  | .lgetV _ d a => { lanewise := true, vr := [one a], vw := [one d] }
  | .ljoin _ d a b => { sr := [a, b], sw := [d] }
  | .ljoinV _ d a b => { lanewise := true, sr := [b], vr := [one a], vw := [one d] }
  | .lchk _ d a b => { sr := [a, b], sw := [d] }
  | .ltcompact _ => {}
  | .dcls _ d a g => { lanewise := true, sr := [g], vr := [one a], vw := [one d] }
  | .dclsS _ d a g => { sr := [a, g], sw := [d] }
  | .vadd _ d a b => { lanewise := true, vr := [elt a, elt b], vw := [elt d], even := ev [d, a, b], tyOk := t.int || t.float }
  | .vsub _ d a b => { lanewise := true, vr := [elt a, elt b], vw := [elt d], even := ev [d, a, b], tyOk := t.int || t.float }
  | .vmul _ d a b => { lanewise := true, vr := [elt a, elt b], vw := [elt d], even := ev [d, a, b], tyOk := t.int || t.float }
  | .vmulh _ d a b => { lanewise := true, vr := [elt a, elt b], vw := [elt d], even := ev [d, a, b], tyOk := t.int }
  | .vmad _ d a b => { lanewise := true, vr := [elt d, elt a, elt b], vw := [elt d], even := ev [d, a, b], tyOk := t.int }
  | .vfma _ d a b => { lanewise := true, vr := [elt d, elt a, elt b], vw := [elt d], even := ev [d, a, b], tyOk := t.float }
  | .vmin _ d a b => { lanewise := true, vr := [elt a, elt b], vw := [elt d], even := ev [d, a, b], tyOk := t.int || t.float }
  | .vmax _ d a b => { lanewise := true, vr := [elt a, elt b], vw := [elt d], even := ev [d, a, b], tyOk := t.int || t.float }
  | .vabs _ d a => { lanewise := true, vr := [elt a], vw := [elt d], even := ev [d, a], tyOk := t.int || t.float }
  | .vneg _ d a => { lanewise := true, vr := [elt a], vw := [elt d], even := ev [d, a], tyOk := t.int || t.float }
  | .vdiv _ d a b => { lanewise := true, vr := [elt a, elt b], vw := [elt d], even := ev [d, a, b], tyOk := t.int || t.float }
  | .vsqrt _ d a => { lanewise := true, vr := [elt a], vw := [elt d], even := ev [d, a], tyOk := t.float }
  | .vrcp _ d a => { lanewise := true, vr := [elt a], vw := [elt d], even := ev [d, a], tyOk := t.float }
  | .vrsq _ d a => { lanewise := true, vr := [elt a], vw := [elt d], even := ev [d, a], tyOk := t.float }
  | .vexp2 _ d a => { lanewise := true, vr := [elt a], vw := [elt d], even := ev [d, a], tyOk := t.float }
  | .vlog2 _ d a => { lanewise := true, vr := [elt a], vw := [elt d], even := ev [d, a], tyOk := t.float }
  | .vsin _ d a => { lanewise := true, vr := [elt a], vw := [elt d], even := ev [d, a], tyOk := t.float }
  | .vcos _ d a => { lanewise := true, vr := [elt a], vw := [elt d], even := ev [d, a], tyOk := t.float }
  | .vcvt _ d a t' =>
    { lanewise := true, vr := [elt a], vw := [(d.toNat, if t'.wide then 2 else 1)],
      even := ev [a] ++ (if t'.wide then [d.toNat] else []), tyOk := t != .q64 }
  | .vand _ d a b => { lanewise := true, vr := [elt a, elt b], vw := [elt d], even := ev [d, a, b], tyOk := t.int || t.float }
  | .vor _ d a b => { lanewise := true, vr := [elt a, elt b], vw := [elt d], even := ev [d, a, b], tyOk := t.int || t.float }
  | .vxor _ d a b => { lanewise := true, vr := [elt a, elt b], vw := [elt d], even := ev [d, a, b], tyOk := t.int || t.float }
  | .vnot _ d a => { lanewise := true, vr := [elt a], vw := [elt d], even := ev [d, a], tyOk := t.int || t.float }
  | .vshl _ d a b => { lanewise := true, vr := [elt a, elt b], vw := [elt d], even := ev [d, a, b], tyOk := t.int || t.float }
  | .vshr _ d a b => { lanewise := true, vr := [elt a, elt b], vw := [elt d], even := ev [d, a, b], tyOk := t.int || t.float }
  | .vsra _ d a b => { lanewise := true, vr := [elt a, elt b], vw := [elt d], even := ev [d, a, b], tyOk := t.int || t.float }
  | .vbfx _ d a b => { lanewise := true, vr := [elt a, elt b], vw := [elt d], even := ev [d, a, b], tyOk := t.int || t.float }
  | .vbfi _ d a b => { lanewise := true, vr := [elt d, elt a, elt b], vw := [elt d], even := ev [d, a, b], tyOk := t.int || t.float }
  | .vpopc _ d a => { lanewise := true, vr := [elt a], vw := [elt d], even := ev [d, a], tyOk := t.int || t.float }
  | .vclz _ d a => { lanewise := true, vr := [elt a], vw := [elt d], even := ev [d, a], tyOk := t.int || t.float }
  | .vbrev _ d a => { lanewise := true, vr := [elt a], vw := [elt d], even := ev [d, a], tyOk := t.int || t.float }
  | .vcmp _ d a b c =>
    { lanewise := true, vr := [elt a, elt b], sw := [d], even := ev [a, b],
      tyOk := t.float || (t.int && c != .un && c != .ord) }
  | .vsel _ d a b => { lanewise := true, sr := [b], vr := [elt d, elt a], vw := [elt d], even := ev [d, a] }
  | .vmov _ d a => { lanewise := true, vr := [elt a], vw := [elt d], even := ev [d, a], tyOk := true }
  | .vmovs _ d b => { lanewise := true, sr := [b], vw := [elt d], even := ev [d] }
  | .vmovi _ d _ => { lanewise := true, vw := [elt d], even := ev [d] }
  | .vqadd _ d a b =>
    { lanewise := true, sr := [b, b + 1], vr := [(d.toNat, 2), (a.toNat, 2)], vw := [(d.toNat, 2)],
      tyOk := t == .q64, modular := true }
  | .vqsub _ d a b =>
    { lanewise := true, sr := [b, b + 1], vr := [(d.toNat, 2), (a.toNat, 2)], vw := [(d.toNat, 2)],
      tyOk := t == .q64, modular := true }
  | .vqmul _ d a b =>
    { lanewise := true, sr := [b, b + 1], vr := [(d.toNat, 2), (a.toNat, 2)], vw := [(d.toNat, 2)],
      tyOk := t == .q64, modular := true }
  | .vqbfly _ d a b =>
    { lanewise := true, sr := [b, b + 1], vr := [(d.toNat, 4), (a.toNat, 2)], vw := [(d.toNat, 4)],
      tyOk := t == .q64, modular := true }
  | .vqbflyi _ d a b =>
    { lanewise := true, sr := [b, b + 1], vr := [(d.toNat, 4), (a.toNat, 2)], vw := [(d.toNat, 4)],
      tyOk := t == .q64, modular := true }
  | .vshfl _ d a b _ => { lanewise := true, vr := [elt b], xr := [elt a], vw := [elt d], even := ev [d, a, b] }
  | .vshflS _ d a b _ => { lanewise := true, sr := [b], xr := [elt a], vw := [elt d], even := ev [d, a] }
  | .vballot _ d a => { lanewise := true, vr := [elt a], sw := [d], even := ev [a] }
  | .vred _ d a _ => { lanewise := true, vr := [elt a], sw := [d], even := ev [a], tyOk := t.int || t.float }
  | .vscan _ d a _ _ => { lanewise := true, vr := [elt a], vw := [elt d], even := ev [d, a], tyOk := t.int || t.float }
  | .vbcast _ d a b => { lanewise := true, sr := [b], xr := [elt a], vw := [elt d], even := ev [d, a] }
  | .vbxch _ d a b =>
    { lanewise := true, sr := [b], xr := [elt a], vw := [elt d],
      tyOk := t == .i32 || t == .n32 || t == .f32 }
  | .vmatch _ d a =>
    { lanewise := true, vr := [elt a], vw := [elt d], even := ev [d, a],
      tyOk := t == .i32 || t == .n32 || t == .i64 || t == .n64 || t == .f32 || t == .f64 }
  | .vld _ d b o w => { lanewise := true, sr := [b], vr := [one o], vw := [(d.toNat, if w = .b64 then 2 else 1)] }
  | .vst _ d b o w => { lanewise := true, sr := [b], vr := [one o, (d.toNat, if w = .b64 then 2 else 1)] }
  | .vldAcqB32 _ d b o _ => { lanewise := true, sr := [b], vr := [one o], vw := [one d] }
  | .vldAcqB64 _ d b o _ => { lanewise := true, sr := [b], vr := [one o], vw := [(d.toNat, 2)] }
  | .vstRelB32 _ d b o _ => { lanewise := true, sr := [b], vr := [one o, one d] }
  | .vstRelB64 _ d b o _ => { lanewise := true, sr := [b], vr := [one o, (d.toNat, 2)] }
  | .vldScB32 _ d b o _ => { lanewise := true, sr := [b], vr := [one o], vw := [one d] }
  | .vldScB64 _ d b o _ => { lanewise := true, sr := [b], vr := [one o], vw := [(d.toNat, 2)] }
  | .vstScB32 _ d b o _ => { lanewise := true, sr := [b], vr := [one o, one d] }
  | .vstScB64 _ d b o _ => { lanewise := true, sr := [b], vr := [one o, (d.toNat, 2)] }
  | .vlds _ d b o w => { lanewise := true, sr := [b], vr := [one o], vw := [(d.toNat, if w = .b64 then 2 else 1)] }
  | .vsts _ d b o w => { lanewise := true, sr := [b], vr := [one o, (d.toNat, if w = .b64 then 2 else 1)] }
  | .vldp _ d b o w => { lanewise := true, sr := [b], vr := [one o], vw := [(d.toNat, if w = .b64 then 2 else 1)] }
  | .vstp _ d b o w => { lanewise := true, sr := [b], vr := [one o, (d.toNat, if w = .b64 then 2 else 1)] }
  | .sprf _ a b _ => { sr := [a, b] }
  | .fence _ _ _ => {}
  | .mwait _ d a b _ => { sr := [a, b], sw := [d] }
  | .rhint _ a b _ => { sr := [a, b] }
  | .vatomB32 _ d b o x => { lanewise := true, sr := [b], vr := [one o, (d.toNat, if x = .cas then 2 else 1)], vw := [one d] }
  | .vatomB64 _ d b o x => { lanewise := true, sr := [b], vr := [one o, (d.toNat, if x = .cas then 4 else 2)], vw := [(d.toNat, 2)] }
  | .vratomB32 _ d b o _ => { lanewise := true, sr := [b], vr := [one o, one d] }
  | .vratomB64 _ d b o _ => { lanewise := true, sr := [b], vr := [one o, (d.toNat, 2)] }
  | .satom _ d a b _ o => { sr := [a, b] ++ (if o = .cas then [d + 1] else []), sw := [d] }
  | .boinit _ a b => { sr := [a, b] }
  | .boarr _ d a b => { sr := [a, b], sw := [d] }
  | .bowait _ d a b => { sr := [a, b], sw := [d] }
  | .boexp _ a b => { sr := [a, b] }
  | .vcpy _ d a _ => { lanewise := true, vr := [(d.toNat, 2), (a.toNat, 2)] }
  | .cbatch _ d => { sw := [d] }
  | .cwait _ a => { sr := [a] }
  | .kick _ a => { sr := [a] }
  | .rput _ a b => { sr := [a, b] }
  | .rget _ a b => { sr := [a, b] }
  | .mldb _ a b _ => { sr := [a, b] }
  | .mfree _ _ => {}
  | .munf _ a => { sr := [a] }
  | .mmq _ a => { lanewise := true, xr := [one a] }
  | .mscaleA _ a b => { sr := [a, b] }
  | .mscaleB _ a b => { sr := [a, b] }
  | .mstat _ d _ => { sw := [d] }
  | .mchk _ d _ => { sw := [d] }
  | .fopen _ d a b => { sr := [a, b], sw := [d] }
  | .fclose _ a => { sr := [a] }
  | .fsend _ a b => { sr := [a, b] }
  | .fsendDefer _ a b => { sr := [a, b] }
  | .fcomb _ a b _ => { sr := [a, b] }
  | .eret => {}
  | .tlbinv _ a b _ => { sr := [a, b], privileged := true }
  | .cinv _ a b _ => { sr := [a, b], privileged := true }
  | .kzero _ a b => { sr := [a, b], privileged := true }
  | .kstat _ d a => { sr := [a], sw := [d], privileged := true }
  | .scrub _ d a => { sr := [a], sw := [d], privileged := true }
  | .cassign _ d a b => { sr := [a, b], sw := [d], privileged := true }
  | .splitMergeEarly .. | .loadReturn .. | .mwaitWake .. | .spawnBinTimer .. | .spawnBinLaunch ..
  | .slotDrainDone .. | .localityDecay .. | .starvationIssue .. | .laneCopy .. | .requestElement ..
  | .requestComplete .. | .remoteSourceRead .. | .remotePutArrival .. | .remoteGetArrival ..
  | .rgetDataReturn .. | .remoteHoldTimeout .. | .sendArrival .. | .sendDeferAdmit .. | .sendStatus ..
  | .sendUnreachable .. | .combinerContribution .. | .combinerTimeout .. | .combineResult ..
  | .passGroupLaunch .. | .passExecute .. | .passDrain .. | .slotLoad .. | .eccUncorrectable ..
  | .hangDetect .. | .refusalLogFlush .. | .faultTimeout .. | .gangDispatch .. | .launchReady ..
  | .launchStart .. | .launchComplete .. | .auditRun .. | .auditCompare .. | .quantumExpiry ..
  | .preemptDeadline .. | .splitRelease .. | .gangSave .. | .saveTimeout .. | .gangRestore ..
  | .clusterLend .. | .clusterReclaim .. | .budgetWindow .. | .hostRmaRead .. | .hostRmaWrite ..
  | .sessionOpen .. | .launch .. | .copy .. | .signal .. | .wait .. | .fenceCmd .. | .ctxcreate ..
  | .ctxdestroy .. | .migrate .. | .map .. | .unmap .. | .faultreply .. | .dcdadd .. | .dcdrel ..
  | .writePvcfg .. | .writePvcol .. | .setBudgets .. | .readInService .. | .pavilionImageUpdate ..
  | .clusterQuarantine .. | .sectorRetirement .. | .ethernetReset .. | .ethernetRemoval .. | .cxlReset ..
  | .cxlRemoval .. | .cxlResetTimeout .. | .returnCore .. | .returnCluster .. | .returnPage ..
  | .raiseFuseTackRoom .. | .raiseFusePavilion .. | .warmReset .. | .watchdogReset .. | .resumeScrub ..
  | .loadEvictionSchedule .. | .quarantineThreshold .. | .coldReset .. | .deriveKey .. | .getVersion ..
  | .getCapabilities .. | .negotiateAlgorithms .. | .getDigests .. | .getCertificate .. | .challenge ..
  | .getMeasurements .. | .keyExchange .. | .finish .. | .endSession .. | .keyload .. | .grant ..
  | .migrationStateReceive .. | .prepared .. | .commit .. | .refused .. | .outcome .. | .migrationSilence ..
  | .migrationOutcomePoll .. | .migrationSourceLoss .. | .scrubChunk .. | .grantExpiry .. | .firmwareLoad ..
  | .ideReestablished .. | .imageSignatureVerified .. => {}

/-- The operands of an instruction as MODE stands. -/
def State.uses (s : State) (i : Instr) : Uses := usesOf i s.ty

/-- The lanes of its `xr` registers that an instruction reads: shuffles and exchanges their source lanes, `mmq` the
four parameter lanes of each quarter that issues (07 R145 to R150, 15 R259). -/
def State.crossLanes (s : State) (i : Instr) : List Nat :=
  let keep (xs : List Int) : List Nat := (xs.filter fun x => decide (0 ≤ x ∧ x ≤ 31)).map Int.toNat
  match i with
  | .vshfl _ _ _ b m => keep (s.lanes.map fun l =>
      let x := s.velt s.ty.wide b.toNat l
      let x := x % 2 ^ s.ty.width
      match m with
      | .idx => (x : Int)
      | .xor => ((l ^^^ x : Nat) : Int)
      | .up => (l : Int) - x
      | .down => (l : Int) + x)
  | .vshflS _ _ _ b m => keep (s.lanes.map fun l =>
      let x := (s.sreg b).toNat
      match m with
      | .idx => (x : Int)
      | .xor => ((l ^^^ x : Nat) : Int)
      | .up => (l : Int) - x
      | .down => (l : Int) + x)
  | .vbcast _ _ _ b =>
    if s.lanes = [] then []
    else if s.sreg b = BitVec.allOnes 64 then [headLane s.lanes] else keep [((s.sreg b).toNat : Int)]
  | .vbxch _ _ _ b => s.lanes ++ s.lanes.map fun l => l ^^^ ((s.sreg b).toNat % 32)
  | .mmq _ _ => (List.range 32).filter fun l => l % 8 < 4 && s.lanes.any fun j => j / 8 = l / 8
  | _ => []

/-- Registers of a first register and count. -/
def regsOf (rs : List (Nat × Nat)) : List Nat := (rs.map fun r => (List.range r.2).map fun k => r.1 + k).flatten

/-- The join of the labels of every register operand the instruction read, in the lanes it read (02 R28). -/
def State.readLabel (s : State) (i : Instr) : Label :=
  let u := s.uses i
  joinLabels (u.sr.map s.slbl) |||
    joinLabels ((regsOf u.vr).map fun r => joinLabels (s.lanes.map fun l => s.label (s.vlane r l).lbl)) |||
    joinLabels ((regsOf u.xr).map fun r => joinLabels ((s.crossLanes i).map fun l => s.label (s.vlane r l).lbl)) |||
    (if u.lanewise then s.guardLbl else 0#16)

/-- The vector registers that the instruction at which a split waits will write. -/
def Split.recordedV (x : Split) : List Nat :=
  match x.st with
  | .swait (.dcls _ d true _ _) => [d]
  | _ => []

/-- The scalar registers that it will write. Several splits may wait at one barrier with one register (05 R105), so the
register of a barrier is not recorded (log 81). -/
def Split.recordedS (x : Split) : List SNum :=
  match x.st with
  | .swait (.bar ..) => []
  | .swait (.barg ..) => []
  | .swait w => w.dest.toList.filter (· ≠ 0)
  | _ => []

/-- A register of the instruction is one that an outstanding load, or an instruction at which another split of the warp
waits, will write (05 R113). -/
def State.scoreboarded (s : State) (i : Instr) : Bool :=
  let u := s.uses i
  let waits := (s.warp.liveSplits.filter fun e => e.1 ≠ s.curSplit).map Prod.snd
  let held := regsOf (s.warp.loads.map fun x => (x.reg, if x.pair then 2 else 1)) ++ (waits.map Split.recordedV).flatten
  let heldS := (waits.map Split.recordedS).flatten
  held ≠ [] && (regsOf (u.vr ++ u.xr ++ u.vw)).any held.contains || 
    heldS ≠ [] && (u.sr ++ u.sw ++ if u.lanewise && s.gen then [s.greg] else []).any heldS.contains

/-- A register that the instruction reads holds poison (16 R273). -/
def State.readsPoison (s : State) (i : Instr) : Bool :=
  let u := s.uses i
  let sr := u.sr ++ if u.lanewise && s.gen then [s.greg] else []
  (sr.any fun r => s.warp.poisonS.get false r.toNat) ||
    ((regsOf u.vr).any fun r => s.lanes.any fun l => s.warp.poisonV.get false (vkey r l)) ||
    ((regsOf u.xr).any fun r => (s.crossLanes i).any fun l => s.warp.poisonV.get false (vkey r l))

/-- Vector registers of the warp's allocation (05 R91). -/
def State.vregs (s : State) : Nat := 8 * (s.warp.vr + 1)

/-- The part of the decode checks that depends on the state: R59, R60, R63 (03 R62 step 3). -/
def State.operandsOk (s : State) (i : Instr) : Bool :=
  let u := s.uses i
  ((regsOf (u.vr ++ u.xr ++ u.vw)).all fun r => r < s.vregs) && (u.even.all fun r => r % 2 = 0) && u.tyOk &&
    (!u.modular || s.part.full)

/-- The mask word names only state that exists (03 R40). -/
def State.maskOk (s : State) (m : BitVec 32) : Bool :=
  fieldOf m 28 4 = 0 && (List.range 16).all fun g => !bitOf m g || g ≤ s.warp.vr

/-- The privilege of 20 R346: PRIV = 1, and for majors 0xF1 to 0xF6 a privileged launch. -/
def State.privOk (s : State) (i : Instr) : Bool :=
  match i with
  | .eret => s.split.priv
  | _ => !(s.uses i).privileged || (s.split.priv && s.launch.privl)

/-- The instruction word as EINFO holds it. -/
def wordOf (i : Instr) : Word := (encode i).setWidth 64

/-- A trap at steps 1 to 5 of R62: no operand label is joined (02 R28). -/
def State.earlyTrap (s : State) (i : Instr) (c : Cause) (einfo : Word) (page : Bool := false) : State :=
  s.takeTrap c einfo 0#16 s.split.pc i.sp page

/-- Step 4 of R62: the live-mask word of an instruction with SP = 1. None where it passes. -/
def State.maskCheck (s : State) (i : Instr) : Option State :=
  if !i.sp then none
  else
    let a : Word := (s.split.pc + 4).setWidth 64
    match s.checkFetch a with
    | .trap c e p => some (s.earlyTrap i c e p)
    | .fault p k => some (s.parkWarp [(p, k)])
    | .refused w => some ((s.refuse 8 w).earlyTrap i .prot a true)
    | .ok k _ =>
      if s.poisoned k then some (s.haltWarp s.cur s.split.pc .poison 0 0)
      else if s.maskOk (s.codeWord k) then none else some (s.earlyTrap i .ill (wordOf i))

/-- The checks of R62 from step 3 on that stand before the instruction's own, then the scoreboard (05 R113) and the
registers it reads (16 R273). None where the instruction may act; else what becomes of it. -/
def State.issueCheck (s : State) (i : Instr) : Option State :=
  if !s.operandsOk i then some (s.earlyTrap i .ill (wordOf i))
  else
    match s.maskCheck i with
    | some t => some t
    | none =>
      if !s.privOk i then some (s.earlyTrap i .priv (wordOf i))
      else if s.scoreboarded i then some s
      else if s.readsPoison i then some (s.haltWarp s.cur s.split.pc .poison 0 0)
      else none

/-- An instruction word as a step: the checks at issue, then its effect, or what stops it. -/
def word (i : Instr) (s : State) (f : State → Eff State) : Host.Outcome State Fault Refusal :=
  match s.issueCheck i with
  | some t => .next t
  | none =>
    match f s with
    | .ok t => .next t
    | .error e => .next (s.stopped e (s.readLabel i) i.sp)

/-- A global atomic (17 R305). -/
def globalAtomic (i : Instr) : Bool :=
  match i with
  | .vatomB32 .. => true
  | .vatomB64 .. => true
  | .vratomB32 .. => true
  | .vratomB64 .. => true
  | .satom .. => true
  | _ => false

/-- Marks the block of the warp that issues as not to be discarded (17 R302) or audited (16 R284), or as having executed
a global atomic (17 R305). -/
def State.mark (s : State) (discard audit atomic : Bool) : State :=
  if discard || audit then
    s.setBlockAt s.warp.block { s.block with noDiscard := s.block.noDiscard || discard,
                                             noAudit := s.block.noAudit || audit,
                                             didAtomic := s.block.didAtomic || atomic }
  else s

/-- A word whose execution counts against discard or audit, whether or not its access is performed, refused or
trapped. -/
def wordMarked (i : Instr) (s : State) (discard audit : Bool) (f : State → Eff State) :
    Host.Outcome State Fault Refusal :=
  match s.issueCheck i with
  | some t => .next t
  | none =>
    match f (s.mark discard audit (globalAtomic i)) with
    | .ok t => .next t
    | .error (.hold ids) => .next (s.stopped (.hold ids) 0#16 i.sp)
    | .error e => .next ((s.mark discard audit (globalAtomic i)).stopped e (s.readLabel i) i.sp)

end Sys2Proof.Machine
end

