-- ==== Sys2Proof/Machine/Flags.lean ====
section
/-! DEFINITION. The sticky flags and their label (04 R64, R65, 07 R133). -/

namespace Sys2Proof.Machine

/-- Which bits an instruction sets in FLAGS. -/
abbrev FlagBits := BitVec 32

/-- FLAGS.ISAT. -/
def fISAT : FlagBits := 0x001#32
/-- FLAGS.IDIVZ. -/
def fIDIVZ : FlagBits := 0x002#32
/-- FLAGS.INV. -/
def fINV : FlagBits := 0x004#32
/-- FLAGS.DZ. -/
def fDZ : FlagBits := 0x008#32
/-- FLAGS.OVF. -/
def fOVF : FlagBits := 0x010#32
/-- FLAGS.UNF. -/
def fUNF : FlagBits := 0x020#32
/-- FLAGS.INX. -/
def fINX : FlagBits := 0x040#32
/-- FLAGS.CVTN. -/
def fCVTN : FlagBits := 0x080#32
/-- FLAGS.QRNG. -/
def fQRNG : FlagBits := 0x100#32

/-- The bits of a condition. -/
def flagIf (c : Bool) (f : FlagBits) : FlagBits := if c then f else 0#32

/-- An instruction that names a flag sets its bits, and FLBL joins the result's label, set or not (R65). -/
def State.setFlags (s : State) (bits : FlagBits) (l : Label) : State :=
  let s := s.setWarp { s.warp with flags := s.warp.flags ||| bits }
  let r := s.intern (s.label s.warp.flbl ||| l)
  r.2.setWarp { r.2.warp with flbl := r.1 }

end Sys2Proof.Machine
end

