-- ==== Sys2Proof/Machine/Control.lean ====
section
/-! DEFINITION. Branches, calls, jumps, special registers, the reconvergence stack, barriers and spawned threads (04 R75
to R83, 05 R97 to R111). -/

namespace Sys2Proof.Machine

/-! ## The reconvergence stack (05 R99, R103) -/

/-- Lanes an entry covers. -/
def Entry.mask (e : Entry) : BitVec 32 :=
  match e with
  | .raise m _ _ => m
  | .diverge m _ _ _ _ => m
  | .serial m _ _ _ _ _ _ _ => m

/-- The live entries, the most recently pushed first. -/
def Warp.entries (w : Warp) : List Entry := w.stack ++ w.spill

/-- Pushes an entry. A push that finds 16 live entries in the core first spills the outermost of them (R103); one beyond the
128 entries of the stack area halts the warp with cause PAGE (09 R167). -/
def State.push (s : State) (e : Entry) : Eff State :=
  let w := s.warp
  if w.stack.length < 16 then .ok (s.setWarp { w with stack := e :: w.stack })
  else if 128 ≤ w.spill.length then .error (.halt .page)
  else do
    let r ← s.stackAccess 1 w.spill.length
    let es := e :: w.stack
    pure (r.setWarp { w with stack := es.take 16, spill := es.drop 16 ++ w.spill })

/-- The innermost entry of lanes: the newest that covers them (R99). -/
def Warp.top (w : Warp) (lanes : BitVec 32) : Option Entry := w.entries.find? fun e => (lanes &&& ~~~e.mask) == 0

/-- Brings an entry within reach: one that is among the spilled is refilled (R103). -/
def State.reach (s : State) (e : Entry) : Eff State :=
  let w := s.warp
  if w.stack.contains e then .ok s
  else
    match w.spill.findIdx? (· == e) with
    | some i => s.stackAccess 0 (w.spill.length - 1 - i)
    | none => .ok s

/-- Removes the newest entry equal to `e`. -/
def Warp.popEntry (w : Warp) (e : Entry) : Warp :=
  if w.stack.contains e then { w with stack := w.stack.erase e } else { w with spill := w.spill.erase e }

/-- Replaces the newest entry equal to `e`. -/
def Warp.swapEntry (w : Warp) (e f : Entry) : Warp :=
  if w.stack.contains e then { w with stack := w.stack.replace e f } else { w with spill := w.spill.replace e f }

/-- Raises the pc label by the label of a condition (02 R24). -/
def State.raise (s : State) (l : Label) : Eff State :=
  if Label.dom s.pcl l then .ok s
  else do
    let s' ← s.push (.raise s.split.exec s.split.mode s.split.pcl)
    let r := s'.intern (s.pcl ||| l)
    pure (r.2.setSplit { r.2.split with pcl := r.1 })

/-! ## Branches, calls and jumps (04 R75 to R78) -/

/-- The target of a branch word (03 R37). -/
def State.target (s : State) (o : BitVec 17) : BitVec 57 := s.split.pc + 4 * o.signExtend 57

/-- A uniform branch: the raise of R24, then the target or the next word. -/
def uniform (p : Bool) (l : Label) (taken : Bool) (o : BitVec 17) (s : State) : Eff State := do
  let r ← s.raise l
  pure (if taken then r.jump p (s.target o) else r.advance p)

/-- `bra.z` (R75). -/
def execBraZ (p : Bool) (c : SNum) (o : BitVec 17) (s : State) : Host.Outcome State Fault Refusal :=
  word (.braZ p c o) s fun s => uniform p (s.slbl c) (s.sreg c = 0) o s

/-- `bra.nz` (R75). -/
def execBraNz (p : Bool) (c : SNum) (o : BitVec 17) (s : State) : Host.Outcome State Fault Refusal :=
  word (.braNz p c o) s fun s => uniform p (s.slbl c) (s.sreg c ≠ 0) o s

/-- A slot for a new split, where fewer than four are live. -/
def Warp.freeSplit (w : Warp) : Option Nat := (List.range 4).find? fun i => (w.split i).st == .gone

/-- Divides the split: `t` goes to the target and `f` falls through (R98). -/
def divide (p : Bool) (t f : BitVec 32) (o : BitVec 17) (s : State) : Eff State := do
  let x := s.split
  let next := s.nextPc p
  match s.warp.freeSplit with
  | some i =>
    let s' ← s.push (.diverge x.exec x.mode x.pcl none none)
    let r := s'.complete p s'.maskWord (s.target o)
    let r := r.setSplit { r.split with exec := t }
    pure (r.setWarp (r.warp.setSplit i { r.split with exec := f, pc := next }))
  | none =>
    let s' ← s.push (.serial x.exec f next x.mode x.pcl none none false)
    let r := s'.complete p s'.maskWord (s.target o)
    pure (r.setSplit { r.split with exec := t })

/-- `brd` (R76, R98). -/
def execBrd (p : Bool) (c : SNum) (o : BitVec 17) (s : State) : Host.Outcome State Fault Refusal :=
  word (.brd p c o) s fun s =>
    let t := s.split.exec &&& (s.sreg c).setWidth 32
    let f := s.split.exec &&& ~~~((s.sreg c).setWidth 32)
    if t = 0 || f = 0 then uniform p (s.slbl c) (f = 0) o s
    else do
      let r ← s.raise (s.slbl c)
      divide p t f o r

/-- The return address of a `call`: the exact sum (00 R7). -/
def State.returnTo (s : State) (p : Bool) : Word := s.split.pc.setWidth 64 + (if p then 8 else 4)

/-- `call` (R77). -/
def execCall (p : Bool) (c : SNum) (o : BitVec 17) (s : State) : Host.Outcome State Fault Refusal :=
  word (.call p c o) s fun s => .ok ((s.setS c (s.returnTo p) s.pcl).jump p (s.target o))

/-- The checks and effects of `jmpi` and `ret` (R78). -/
def jumpTo (p : Bool) (a : SNum) (s : State) : Eff State :=
  let v := s.sreg a
  if fieldOf v 0 2 ≠ 0 then .error (.trap .align v true)
  else if fieldOf v 57 7 ≠ 0 then .error (.trap .prot v true)
  else do
    let r ← s.raise (s.slbl a)
    pure (r.jump p (v.setWidth 57))

/-- `jmpi` (R78). -/
def execJmpi (p : Bool) (a : SNum) (s : State) : Host.Outcome State Fault Refusal :=
  word (.jmpi p a) s fun s => jumpTo p a s

/-- `ret` (R78). -/
def execRet (p : Bool) (a : SNum) (s : State) : Host.Outcome State Fault Refusal :=
  word (.ret p a) s fun s => jumpTo p a s

/-! ## `join` (04 R79, 05 R100) and `exit` (R104) -/

/-- The splits of a warp that wait at a `join` whose innermost entry is `e`. -/
def Warp.joiners (w : Warp) (e : Entry) : List (Nat × Split) :=
  w.splits.entries.filter fun p => p.2.st == .jwait && w.top p.2.exec == some e

/-- The splits that wait for a divergence entry of a warp cover its lanes (R100). -/
def Warp.merges (w : Warp) (e : Entry) : Bool :=
  match e with
  | .diverge mask _ _ (some _) _ => mask &&& ~~~((w.joiners e).foldl (fun c p => c ||| p.2.exec) 0#32) == 0
  | _ => false

/-- Merges the splits that wait for a divergence entry of the current warp, where they cover its lanes (R100). The
split that holds the lowest lane goes on as the merged one, so PRIV, EH and the trap registers are its own. -/
def State.mergeAt (s : State) (e : Entry) : State :=
  match e with
  | .diverge mask mode pcl (some rpc) rmask =>
    let js := s.warp.joiners e
    if !s.warp.merges e then s
    else
      match js.find? fun p => bitOf p.2.exec (headLane (lanesOf mask)) with
      | none => s
      | some (i, x) =>
        let w := s.warp.popEntry e
        let w := js.foldl (fun w p => w.setSplit p.1 Split.blank) w
        let s := s.setWarp w
        let pc := rpc + (if rmask.isSome then 8 else 4)
        s.setWarp (s.warp.setSplit i { x with
          st := .ready, exec := mask, mode := mode, pcl := pcl, pc := pc, safe := s.safePoint rmask.isSome rmask,
          wmask := none, wlbl := 0, last := s.cycle })
  | _ => s

/-- Merges at every divergence entry of the current warp whose lanes all wait. -/
def State.settleJoin (s : State) : State := s.warp.entries.foldl State.mergeAt s

/-- The live-mask word of an instruction with SP bit `p`. -/
def State.ownMask (s : State) (p : Bool) : Option (BitVec 32) := if p then some (s.maskWord.getD 0) else none

/-- What a `join` does with its innermost entry, once that is within reach (R79, R100). -/
def joinEntry (p : Bool) (e : Entry) (s : State) : State :=
  let x := s.split
  match e with
  | .raise _ mode pcl =>
    let r := (s.setWarp (s.warp.popEntry e)).advance p
    r.setSplit { r.split with mode := mode, pcl := pcl }
  | .diverge mask mode pcl rpc rmask =>
    let f := Entry.diverge mask mode pcl (some (rpc.getD x.pc)) (if rpc.isSome then rmask else s.ownMask p)
    let s' := s.setWarp (s.warp.swapEntry e f)
    let s' := s'.setSplit { x with st := .jwait, safe := none, last := s.cycle,
                                   wmask := s.ownMask p, wlbl := 0, declined := [] }
    s'.mergeAt f
  | .serial mask pend pendPc mode pcl rpc rmask phase2 =>
    let left := pend &&& mask
    if !phase2 && left ≠ 0 then
      let f := Entry.serial mask pend pendPc mode pcl (some x.pc) (s.ownMask p) true
      let r := (s.setWarp (s.warp.swapEntry e f)).jump p pendPc
      r.setSplit { r.split with exec := left, mode := mode, pcl := pcl }
    else
      let back := if phase2 then rpc.getD x.pc + (if rmask.isSome then 8 else 4) else s.nextPc p
      let r := (s.setWarp (s.warp.popEntry e)).jump p back
      r.setSplit { r.split with exec := mask, mode := mode, pcl := pcl }

/-- `join` by the innermost entry of the split's lanes; with none it goes on (R79). -/
def joinAt (p : Bool) (s : State) : Eff State :=
  match s.warp.top s.split.exec with
  | none => .ok (s.advance p)
  | some e => do
    let r ← s.reach e
    pure (joinEntry p e r)

/-- `join` (R79, R100). -/
def execJoin (p : Bool) (s : State) : Host.Outcome State Fault Refusal := word (.join p) s (joinAt p)

/-- An entry without the lanes that exit; none where no lane is left. -/
def Entry.less (e : Entry) (lanes : BitVec 32) : Option Entry :=
  let m := e.mask &&& ~~~lanes
  if m = 0 then none
  else some (match e with
    | .raise _ mode pcl => .raise m mode pcl
    | .diverge _ mode pcl rpc rmask => .diverge m mode pcl rpc rmask
    | .serial _ pend pendPc mode pcl rpc rmask ph => .serial m (pend &&& ~~~lanes) pendPc mode pcl rpc rmask ph)

/-- A warp without a split and its lanes: those leave every entry, and an entry that is left none goes (R104). -/
def Warp.lessSplit (w : Warp) (i : Nat) : Warp :=
  let less (es : List Entry) : List Entry := es.filterMap fun e => e.less (w.split i).exec
  { w with stack := less w.stack, spill := less w.spill }.setSplit i Split.blank

/-- The address of a load of the warp that met poison and has not returned. -/
def Warp.poisonedLoad (w : Warp) : Option (BitVec 57) := w.loads.findSome? PLoad.poison

/-- The split of the warp that issues ends (R104): the warp ends with its last split and drains (R110), or halts where a
load of it met poison (16 R273). -/
def endSplit (s : State) : State :=
  let b := s.warp.block
  let s := (s.setWarp (s.warp.lessSplit s.curSplit)).settleJoin
  if s.warp.liveSplits ≠ [] then s.settle b
  else
    match s.warp.poisonedLoad with
    | some pc => s.haltWarp s.cur pc .poison 0 0
    | none => (s.setWarp { s.warp with st := .drain }).settle b

/-- Brings within reach the spilled entries at which the end of the split completes a merge: popping one needs it refilled
(R103, R104). -/
def State.reachMerged (s : State) : Eff State :=
  (s.warp.spill.filter fun e => (e.less s.split.exec).any (s.warp.lessSplit s.curSplit).merges).foldlM State.reach s

/-- `exit` (04 R80, R104). -/
def execExit (s : State) : Host.Outcome State Fault Refusal :=
  word .exit s fun s => do
    let r ← s.reachMerged
    pure (endSplit r)

/-- `nop` (R80). -/
def execNop (p : Bool) (s : State) : Host.Outcome State Fault Refusal :=
  word (.nop p) s fun s => .ok (s.advance p)

/-- The scheduler of a slot: 8 slots of a core each (R112). -/
def scheduler (k : Nat) : Nat := k / 8

/-- The other READY splits of the scheduler of the split that issues, by slot and split. -/
def State.siblings (s : State) : List (Nat × Nat) :=
  (((s.warps.entries.filter fun e => scheduler e.1 = scheduler s.cur && e.2.st == .run).map fun e =>
    (e.2.liveSplits.filter fun p => p.2.st == .ready).map fun p => (e.1, p.1)).flatten).filter (· ≠ (s.cur, s.curSplit))

/-- `yield` (R80, R107): no visible state. The scheduler passes the split over until each other READY split has had an
issue opportunity. -/
def execYield (p : Bool) (s : State) : Host.Outcome State Fault Refusal :=
  word (.yield p) s fun s =>
    let t := s.advance p
    .ok (t.setSplit { t.split with yielded := s.siblings })

/-- `trap` (R81): completes, then takes a trap of cause TRAPI with EPC at the next instruction. -/
def execTrap (p : Bool) (n : Imm16) (s : State) : Host.Outcome State Fault Refusal :=
  word (.trap p n) s fun s =>
    .ok ((s.advance p).takeTrap .trapi (wordOf (.trap p n)) 0#16 (s.nextPc p) p)

/-! ## Special registers (04 R82, R83) -/

/-- CAPS (00 R4). -/
def capsOf (p : Part) : Word :=
  BitVec.ofNat 64 (((Config.stepping p).val + 1) * 2 ^ 48 + p.dies * 2 ^ 40 + p.cacheDies * 2 ^ 32 + 2 * 2 ^ 24 + 24 * 2 ^ 16 +
    16 * 2 ^ 8 + (if p.full then 7 else 0))

/-- The registers that trap PRIV when read with PRIV = 0 (R82). -/
def trapReg (n : BitVec 12) : Bool := 0x010 ≤ n.toNat && n.toNat ≤ 0x015

/-- The value of a special register (R82); 0 for a number that the table does not list, which does not decode. -/
def State.special (s : State) (n : BitVec 12) : Word :=
  let x := s.split
  match n.toNat with
  | 0x000 => capsOf s.part
  | 0x001 => s.warp.flags.setWidth 64
  | 0x002 => s.warp.coarsen.setWidth 64
  | 0x003 => x.mode.setWidth 64
  | 0x004 => s.pcl.setWidth 64
  | 0x005 => x.exec.setWidth 64
  | 0x006 => BitVec.ofNat 64 (s.cycle - (s.coreAt s.coreNo).resetAt)
  | 0x007 => s.owners.setWidth 64
  | 0x008 => BitVec.ofNat 64 s.warp.lseq
  | 0x009 => BitVec.ofNat 64 s.block.vcore
  | 0x00A => BitVec.ofNat 64 (s.cur % 32)
  | 0x010 => x.epc.setWidth 64
  | 0x011 => x.ecause.setWidth 64
  | 0x012 => x.einfo
  | 0x013 => x.emode.setWidth 64
  | 0x014 => (s.label x.elbl).setWidth 64
  | 0x015 => BitVec.ofNat 64 ((if x.epriv then 1 else 0) + (if x.eh then 2 else 0))
  | _ => 0

/-- The label under which a special register is read (R82). -/
def State.specialLbl (s : State) (n : BitVec 12) : Label :=
  match n.toNat with
  | 0x001 => s.label s.warp.flbl ||| s.pcl
  | 0x002 => s.owners
  | 0x012 => s.label s.split.elbl ||| s.pcl
  | _ => s.pcl

/-- `sread` (R82). -/
def execSread (p : Bool) (d : SNum) (n : BitVec 12) (s : State) : Host.Outcome State Fault Refusal :=
  word (.sread p d n) s fun s =>
    if trapReg n && !s.split.priv then .error (.trap .priv (wordOf (.sread p d n)))
    else .ok ((s.setS d (s.special n) (s.specialLbl n)).advance p)

/-- The clear effect of a special register (R82): EPC advances by the length of the trapping instruction. -/
def State.clearSpecial (s : State) (n : BitVec 12) : State :=
  match n.toNat with
  | 0x001 => s.setWarp { s.warp with flags := 0, flbl := 0 }
  | 0x002 => s.setWarp { s.warp with coarsen := 0 }
  | 0x010 => s.setSplit { s.split with epc := s.split.epc + (if s.split.elen8 then 8 else 4) }
  | _ => s

/-- `sread.clr` (R82). -/
def execSreadClr (p : Bool) (d : SNum) (n : BitVec 12) (s : State) : Host.Outcome State Fault Refusal :=
  word (.sreadClr p d n) s fun s =>
    let i := wordOf (.sreadClr p d n)
    if trapReg n && !s.split.priv then .error (.trap .priv i)
    else if n = 0x010 && (!s.split.eh || s.split.ecause.toNat = Cause.trapi.code) then .error (.trap .ill i)
    else .ok (((s.setS d (s.special n) (s.specialLbl n)).clearSpecial n).advance p)

/-- Field `n`, 1 to 5, of the work identifier. -/
def Warp.field (w : Warp) (n : Nat) : Word := w.wid.getD (n - 1) 0

/-- `swid` (R83). -/
def execSwid (p : Bool) (d : SNum) (n : Imm16) (s : State) : Host.Outcome State Fault Refusal :=
  word (.swid p d n) s fun s => .ok ((s.setS d (s.warp.field n.toNat) s.pcl).advance p)

/-- `vwid` (R83): field 0 is the lane's number. -/
def execVwid (p : Bool) (d : VNum) (n : Imm16) (s : State) : Host.Outcome State Fault Refusal :=
  word (.vwid p d n) s fun s =>
    let l := s.pcl ||| s.guardLbl
    let v := (s.warp.field n.toNat).toNat
    .ok ((s.lanes.foldl (fun s j => s.setV false d.toNat j (if n = 0 then j else v) l) s).advance p)

/-! ## Barriers (05 R105, R106) -/

/-- `bar` (R105). -/
def execBar (p : Bool) (d : SNum) (n : BitVec 4) (s : State) : Host.Outcome State Fault Refusal :=
  word (.bar p d n) s fun s => .ok ((s.await (.bar d n.toNat) p 0#16).settleBars s.warp.block)

/-- `barg` (R105): a block that executes it is not audited (16 R284). -/
def execBarg (p : Bool) (d : SNum) (n : BitVec 4) (s : State) : Host.Outcome State Fault Refusal :=
  wordMarked (.barg p d n) s false true fun s => .ok ((s.await (.barg d n.toNat) p 0#16).settleBars s.warp.block)

/-! ## Spawned threads (05 R108, R109) -/

/-- Fields 1 to 5 of the work identifier of the warps of a block: field 1 as given, field 2 the block in its gang, and
fields 3 to 5 cut from the gang number (R93). -/
def widOf (l : Launch) (warpField rank gang : Nat) : List Word :=
  let w3 := l.field 145 7
  let w4 := l.field 152 7
  let w5 := l.field 159 7
  [warpField, rank, gang % 2 ^ w3, gang / 2 ^ w3 % 2 ^ w4, gang / 2 ^ (w3 + w4) % 2 ^ w5].map (BitVec.ofNat 64)

/-- A free warp slot of a core, by its key: the lowest-numbered one (log 85). -/
def State.freeSlot (s : State) (core : Nat) : Option Nat :=
  ((List.range 32).map fun i => 32 * core + i).find? fun k => (s.warpAt k).st == .free

/-- Writes the registers of one spawned lane: V0 and V1 hold W0, V2 and V3 hold W1. -/
def putDeposit (s : State) (l : Nat) (t : Deposit) : State :=
  let s := s.setV false 0 l t.w0.toNat (t.l0.1 ||| t.c)
  let s := s.setV false 1 l (t.w0.toNat / 2 ^ 32) (t.l0.2 ||| t.c)
  let s := s.setV false 2 l t.w1.toNat (t.l1.1 ||| t.c)
  s.setV false 3 l (t.w1.toNat / 2 ^ 32) (t.l1.2 ||| t.c)

/-- Launches the threads of a bin in a free slot (R109). The labels of V0 to V3 are inserted before that of the pc
(log 84). -/
def launchInto (s : State) (k : Nat) (x : Bin) : State :=
  let b := s.blockAt x.block
  let l := s.launchAt b.lseq
  let f := s.fresh
  let m : BitVec 32 := BitVec.ofNat 32 (2 ^ x.threads.length - 1)
  let sp : Split := { Split.blank with st := .ready, pc := x.entry, exec := m, priv := l.privl, last := s.cycle }
  let w : Warp := { Warp.blank with
    st := .run, uid := f.1, ctx := b.ctx, lseq := b.lseq, block := x.block, vr := l.vr, spawned := true, lanes0 := m,
    wid := widOf l (2 ^ l.w1) b.rank (s.gangAt b.gang).num, hbBase := l.hb }
  (f.2.setWarpAt k (w.setSplit 0 sp)).asWarp k 0 fun s =>
    let s := x.threads.zipIdx.foldl (fun s t => putDeposit s t.2 t.1) s
    let r := s.intern (joinLabels (x.threads.map Deposit.c))
    r.2.setSplit { r.2.split with pcl := r.1 }

/-- Launches a bin's threads where a slot of the core is free; else the bin holds them (R108). -/
def tryLaunch (s : State) (core i : Nat) : State :=
  let k := s.coreAt core
  let x := k.bins.get Bin.blank i
  if x.threads = [] then s
  else
    match s.freeSlot core with
    | none => s.setCoreAt core { k with bins := k.bins.set Bin.blank i { x with due := true } }
    | some j => launchInto (s.setCoreAt core { k with bins := k.bins.set Bin.blank i Bin.blank }) j x

/-- The bin of a block and entry address, or a free one of the 8 (R108). -/
def State.binFor (s : State) (core block : Nat) (e : BitVec 57) : Option Nat :=
  let bin (i : Nat) := (s.coreAt core).bins.get Bin.blank i
  match (List.range 8).find? fun i => (bin i).threads ≠ [] && (bin i).block = block && (bin i).entry = e with
  | some i => some i
  | none => (List.range 8).find? fun i => (bin i).threads = []

/-- Deposits threads in order, launching a warp whenever the bin holds 32. Gives the threads that must wait. -/
def depositAll (core block : Nat) (e : BitVec 57) : List Deposit → State → List Deposit × State
  | [], s => ([], s)
  | t :: rest, s =>
    match s.binFor core block e with
    | none => (t :: rest, s)
    | some i =>
      let k := s.coreAt core
      let x := k.bins.get Bin.blank i
      if 32 ≤ x.threads.length then (t :: rest, s)
      else
        let x := { x with block := block, entry := e, threads := x.threads ++ [t],
                          since := if x.threads = [] then s.cycle else x.since }
        let s := s.setCoreAt core { k with bins := k.bins.set Bin.blank i x }
        depositAll core block e rest (if x.threads.length = 32 then tryLaunch s core i else s)

/-- After a `spawn`, a partial bin launches at once where SPTMR is 0 (R95). -/
def afterSpawn (core block : Nat) (e : BitVec 57) (s : State) : State :=
  if (s.launchAt (s.blockAt block).lseq).sptmr ≠ 0 then s
  else
    match s.binFor core block e with
    | some i => tryLaunch s core i
    | none => s

/-- One pass over the splits of a core that wait in `spawn`, by slot, then by split (log 86). -/
def spawnPass (core : Nat) (s : State) : State :=
  (List.range 32).foldl (fun s j =>
    let k := 32 * core + j
    ((s.warpAt k).liveSplits).foldl (fun s p =>
      match p.2.st with
      | .swait (.spawn e rest) =>
        let block := (s.warpAt k).block
        if (s.binFor core block e).isNone then s
        else
          let r := depositAll core block e rest s
          if r.1 = [] then (afterSpawn core block e r.2).asWarp k p.1 State.finishWait
          else r.2.asWarp k p.1 fun s => s.setSplit { s.split with st := .swait (.spawn e r.1) }
      | _ => s) s) s

/-- The splits of a core that wait in `spawn` go on as far as the bins allow. -/
def settleSpawns (core : Nat) (s : State) : State := (List.range 32).foldl (fun s _ => spawnPass core s) s

/-- `spawn` (R108). -/
def execSpawn (p : Bool) (a : VNum) (b : SNum) (s : State) : Host.Outcome State Fault Refusal :=
  word (.spawn p a b) s fun s =>
    let e := s.sreg b
    if fieldOf e 0 2 ≠ 0 then .error (.trap .align e true)
    else if fieldOf e 57 7 ≠ 0 then .error (.trap .prot e true)
    else
      let c := s.pcl ||| s.guardLbl ||| s.slbl b
      let n := a.toNat
      let lb (r l : Nat) := s.label (s.vlane r l).lbl
      let ts : List Deposit := s.lanes.map fun l =>
        { w0 := BitVec.ofNat 64 (s.velt true n l), l0 := (lb n l, lb (n + 1) l),
          w1 := BitVec.ofNat 64 (s.velt true (n + 2) l), l1 := (lb (n + 2) l, lb (n + 3) l), c := c }
      let t : BitVec 57 := e.setWidth 57
      let r := depositAll s.coreNo s.warp.block t ts s
      if r.1 ≠ [] || (s.binFor s.coreNo s.warp.block t).isNone then
        .ok (r.2.await (.spawn t r.1) p (s.readLabel (.spawn p a b)))
      else .ok ((afterSpawn s.coreNo s.warp.block t r.2).advance p)

end Sys2Proof.Machine
end

