-- ==== Sys2Proof/Machine/Lines.lean ====
section
/-! DEFINITION. The elements of bulk requests and host COPYs, and the lines that an operation owns or holds (10 R188, 13
R210, R216, R218, 19 R315). -/

namespace Sys2Proof.Machine

/-! ## Bulk requests (R216, R218) -/

/-- DIMS. -/
def reqDims (x : BitVec 1024) : Nat := fieldOf x 0 3
/-- Element size in bytes. -/
def reqEsz (x : BitVec 1024) : Nat := 2 ^ fieldOf x 3 2
/-- DIR: a store. -/
def reqStore (x : BitVec 1024) : Bool := bitOf x 5
/-- FAN. -/
def reqFan (x : BitVec 1024) : Bool := bitOf x 6
/-- SORDk. -/
def reqSord (x : BitVec 1024) (k : Nat) : Nat := fieldOf x (8 + 3 * k) 3
/-- BOXd. -/
def reqBox (x : BitVec 1024) (d : Nat) : Nat := fieldOf x (64 * d + 304) 16
/-- STRIDEd. -/
def reqStride (x : BitVec 1024) (d : Nat) : Int := sextNat 48 (fieldOf x (64 * d + 256) 48)
/-- STARTd. -/
def reqStart (x : BitVec 1024) (d : Nat) : Int := sextNat 32 (fieldOf x (32 * d + 576) 32)
/-- BOUNDd. -/
def reqBound (x : BitVec 1024) (d : Nat) : Nat := fieldOf x (32 * d + 768) 32
/-- SADDR. -/
def reqSaddr (x : BitVec 1024) : BitVec 32 := BitVec.ofNat 32 (fieldOf x 128 32)
/-- BOBJ. -/
def reqBobj (x : BitVec 1024) : BitVec 32 := BitVec.ofNat 32 (fieldOf x 160 32)
/-- GADDR. -/
def reqGaddr (x : BitVec 1024) : Nat := fieldOf x 64 57
/-- Ranks of FANOUT. -/
def reqRanks (x : BitVec 1024) : List Nat := (List.range 16).filter fun r => bitOf x (192 + r)
/-- The dimensions in storage order, the fastest first. -/
def reqOrder (x : BitVec 1024) : List Nat :=
  if fieldOf x 8 15 = 0 then List.range (reqDims x) else (List.range (reqDims x)).map (reqSord x)
/-- Elements of the box. -/
def reqCount (x : BitVec 1024) : Nat := ((List.range (reqDims x)).map (reqBox x)).foldl (· * ·) 1

/-- Box coordinates of element `i`, per dimension, in the storage order. -/
def boxCoords (x : BitVec 1024) : List Nat → Nat → List (Nat × Nat)
  | [], _ => []
  | d :: t, i => (d, i % reqBox x d) :: boxCoords x t (i / reqBox x d)

/-- c of R218, by dimension. -/
def reqCoords (x : BitVec 1024) (i : Nat) : List Int :=
  let k := boxCoords x (reqOrder x) i
  (List.range (reqDims x)).map fun d => reqStart x d + ((Sparse.look d k).getD 0 : Int)

/-- Some coordinate lies outside its extent. -/
def reqOob (x : BitVec 1024) (i : Nat) : Bool :=
  (List.range (reqDims x)).any fun d =>
    let c := (reqCoords x i).getD d 0
    decide (c < 0 ∨ (reqBound x d : Int) ≤ c)

/-- The 65-bit accumulator holds it. -/
def in65 (v : Int) : Bool := decide (-(2 ^ 64 : Int) ≤ v ∧ v < 2 ^ 64)

/-- A of R218; none where a product or a partial sum leaves the accumulator, or A its range. -/
def reqAddr (x : BitVec 1024) (i : Nat) : Option Nat :=
  let r := (List.range (reqDims x)).foldl (fun (r : Option Int) d =>
    r.bind fun a =>
      let m := (reqCoords x i).getD d 0 * reqStride x d
      if in65 m && in65 (a + m) then some (a + m) else none) (some (reqGaddr x : Int))
  r.bind fun a => if 0 ≤ a ∧ a < 2 ^ 57 then some a.toNat else none

/-- Bytes of an element of a host COPY. -/
def hostStep (src dst len : Nat) : Nat :=
  if src % 8 = 0 && dst % 8 = 0 && len % 8 = 0 then 8
  else if src % 4 = 0 && dst % 4 = 0 && len % 4 = 0 then 4
  else if src % 2 = 0 && dst % 2 = 0 && len % 2 = 0 then 2 else 1

/-! ## Lines (10 R188, 13 R210) -/

/-- Lines that an operation will write, by location (R188). -/
def linesOf (keys : List Nat) : List Nat := (keys.filter fun k => k < 2 ^ 48).map fun k => k / 128

/-- The place of an access that passed. -/
def Chk.key (c : Chk) : Option Nat :=
  match c with
  | .ok k _ => some k
  | _ => none

/-- The pages that the host has declined for an element of an operation (16 R268). -/
def Op.declinedFor (o : Op) (i : Nat) : List Nat := (o.declined.filter fun x => x.1 = i).map Prod.snd

/-- The locations in memory that element `i` of a request touches. -/
def State.elemKeys (s : State) (o : Op) (x : BitVec 1024) (i : Nat) : List Nat :=
  match reqAddr x i with
  | none => []
  | some a =>
    (s.checkVa o.core o.ctx o.priv false (o.declinedFor i) (if reqStore x then .store else .load) (BitVec.ofNat 64 a)).key.toList

/-- The locations that element `i` of a host COPY writes. -/
def State.hostDst (s : State) (o : Op) (src dst len i : Nat) : List Nat :=
  (s.checkVa o.core o.ctx false false (o.declinedFor i) .store (BitVec.ofNat 64 (dst + hostStep src dst len * i))).key.toList

/-- The lines of memory that an operation owns: those that it has yet to write. Of a request or a host COPY, those of the
elements that have not moved and whose pages are there. -/
def State.opLines (s : State) (o : Op) : List Nat :=
  o.owns ++ linesOf (match o.kind with
    | .request x _ _ g =>
      if reqStore x then
        (((List.range (reqCount x)).filter fun i => !g.moved.contains i && !reqOob x i).map (s.elemKeys o x)).flatten
      else []
    | .hostCopy _ _ _ src dst len g =>
      let n := (len + hostStep src dst len - 1) / hostStep src dst len
      (((List.range n).filter fun i => !g.moved.contains i).map (s.hostDst o src dst len)).flatten
    | _ => [])

/-- An operation owns the line of a location. -/
def State.lineOwned (s : State) (k : Nat) : Bool := s.ops.any fun o => (linesOf [k]).any (s.opLines o).contains

/-- The operation has yet to read the line of memory: it holds it (13 R210). -/
def Op.holds (o : Op) (line : Nat) : Bool := (linesOf (o.reads.map fun x => x.2.1)).contains line

end Sys2Proof.Machine
end

