-- ==== Sys2Proof/Machine/Scalar.lean ====
section
/-! DEFINITION. Scalar integer arithmetic, compare, select and constants (04 R66 to R71, R74). -/

namespace Sys2Proof.Machine

/-- The width at which scalar instructions act: 64 under a non-integer TYPE (R66). -/
def intWidth (t : ETy) : Nat := if t.int then t.width else 64

/-- `val(x, w)`: unsigned under N types, two's complement under every other (R66). -/
def valOf (t : ETy) (w n : Nat) : Int := if t.unsigned then ((n % 2 ^ w : Nat) : Int) else sextNat w n

/-- The low `w` bits of an exact integer. -/
def truncInt (w : Nat) (e : Int) : Nat := (e % (2 ^ w : Nat)).toNat

/-- `sat(e, TYPE)` at width `w`; I64 for a non-integer TYPE (R66). -/
def satInt (t : ETy) (w : Nat) (e : Int) : Int :=
  let lo : Int := if t.unsigned then 0 else -(2 ^ (w - 1) : Nat)
  let hi : Int := if t.unsigned then (2 ^ w : Nat) - 1 else (2 ^ (w - 1) : Nat) - 1
  if e < lo then lo else if hi < e then hi else e

/-- The delivered pattern of an exact result, and ISAT (R66). -/
def deliverInt (t : ETy) (w : Nat) (sat saturates : Bool) (e : Int) : Nat × FlagBits :=
  if saturates && sat then (truncInt w (satInt t w e), flagIf (satInt t w e ≠ e) fISAT) else (truncInt w e, 0#32)

/-- `ext(res, w)`: sign-extended under I and non-integer types, zero-extended under N types (R66). -/
def extTo64 (t : ETy) (w n : Nat) : Word := BitVec.ofInt 64 (valOf t w n)

/-- The operands of a scalar operation: width, patterns, and values. -/
structure SArgs where
  w : Nat
  ua : Nat
  ub : Nat
  a : Int
  b : Int

/-- The operands of `x` and `y` under a TYPE. -/
def sargs (t : ETy) (x y : Nat) : SArgs :=
  let w := intWidth t
  ⟨w, x % 2 ^ w, y % 2 ^ w, valOf t w x, valOf t w y⟩

/-- The shared effect of R66: the exact result `e` of two operands with label `l`, delivered to `d`. `named` gives the
flags beside ISAT where the row names a flag. -/
def scalarAlu (p : Bool) (d : SNum) (x y : Nat) (l : Label) (saturates : Bool) (named : Option (SArgs → FlagBits))
    (e : SArgs → Int) (s : State) : State :=
  let t := s.ty
  let r := sargs t x y
  let v := deliverInt t r.w s.sat saturates (e r)
  let s' := s.setS d (extTo64 t r.w v.1) l
  (match named with
    | none => s'
    | some f => s'.setFlags (v.2 ||| f r) l).advance p

/-- R66 with two registers. -/
def scalarAlu2 (p : Bool) (d a b : SNum) (saturates : Bool) (named : Option (SArgs → FlagBits)) (e : SArgs → Int)
    (s : State) : State :=
  scalarAlu p d (s.sreg a).toNat (s.sreg b).toNat (s.pcl ||| s.slbl a ||| s.slbl b) saturates named e s

/-- The row names ISAT alone. -/
def namesIsat : Option (SArgs → FlagBits) := some fun _ => 0#32

/-- IDIVZ when the divisor is 0. -/
def divZero (r : SArgs) : FlagBits := flagIf (r.b = 0) fIDIVZ

/-- The quotient of R66: truncated toward zero, all ones for a divisor of 0. -/
def quotient (unsigned : Bool) (w : Nat) (a b : Int) : Int :=
  if b = 0 then (if unsigned then (2 ^ w : Nat) - 1 else -1) else a.tdiv b

/-- `sadd` (R66). -/
def execSadd (p : Bool) (d a b : SNum) (s : State) : Host.Outcome State Fault Refusal :=
  word (.sadd p d a b) s fun s => .ok (scalarAlu2 p d a b true namesIsat (fun r => r.a + r.b) s)

/-- `ssub` (R66). -/
def execSsub (p : Bool) (d a b : SNum) (s : State) : Host.Outcome State Fault Refusal :=
  word (.ssub p d a b) s fun s => .ok (scalarAlu2 p d a b true namesIsat (fun r => r.a - r.b) s)

/-- `smul` (R66). -/
def execSmul (p : Bool) (d a b : SNum) (s : State) : Host.Outcome State Fault Refusal :=
  word (.smul p d a b) s fun s => .ok (scalarAlu2 p d a b true namesIsat (fun r => r.a * r.b) s)

/-- `smulh` (R66). -/
def execSmulh (p : Bool) (d a b : SNum) (s : State) : Host.Outcome State Fault Refusal :=
  word (.smulh p d a b) s fun s =>
    .ok (scalarAlu2 p d a b false none (fun r => (r.a * r.b) / (2 ^ r.w : Nat)) s)

/-- `sdiv` (R66): never traps. -/
def execSdiv (p : Bool) (d a b : SNum) (s : State) : Host.Outcome State Fault Refusal :=
  word (.sdiv p d a b) s fun s =>
    .ok (scalarAlu2 p d a b true (some divZero) (fun r => quotient s.ty.unsigned r.w r.a r.b) s)

/-- `srem` (R66): the dividend where the divisor is 0. -/
def execSrem (p : Bool) (d a b : SNum) (s : State) : Host.Outcome State Fault Refusal :=
  word (.srem p d a b) s fun s => .ok (scalarAlu2 p d a b false (some divZero) (fun r => r.a.tmod r.b) s)

/-- `sand` (R66). -/
def execSand (p : Bool) (d a b : SNum) (s : State) : Host.Outcome State Fault Refusal :=
  word (.sand p d a b) s fun s =>
    .ok (scalarAlu2 p d a b false none (fun r => ((r.ua &&& r.ub : Nat) : Int)) s)

/-- `sor` (R66). -/
def execSor (p : Bool) (d a b : SNum) (s : State) : Host.Outcome State Fault Refusal :=
  word (.sor p d a b) s fun s =>
    .ok (scalarAlu2 p d a b false none (fun r => ((r.ua ||| r.ub : Nat) : Int)) s)

/-- `sxor` (R66). -/
def execSxor (p : Bool) (d a b : SNum) (s : State) : Host.Outcome State Fault Refusal :=
  word (.sxor p d a b) s fun s =>
    .ok (scalarAlu2 p d a b false none (fun r => ((r.ua ^^^ r.ub : Nat) : Int)) s)

/-- `sshl` (R66); the shift count is the low log2(w) bits of Sb. -/
def execSshl (p : Bool) (d a b : SNum) (s : State) : Host.Outcome State Fault Refusal :=
  word (.sshl p d a b) s fun s =>
    .ok (scalarAlu2 p d a b false none (fun r => ((r.ua * 2 ^ (r.ub % r.w) : Nat) : Int)) s)

/-- `sshr` (R66): zero fill even under an I type. -/
def execSshr (p : Bool) (d a b : SNum) (s : State) : Host.Outcome State Fault Refusal :=
  word (.sshr p d a b) s fun s =>
    .ok (scalarAlu2 p d a b false none (fun r => ((r.ua / 2 ^ (r.ub % r.w) : Nat) : Int)) s)

/-- `ssra` (R66): fills from bit w - 1 even under an N type. -/
def execSsra (p : Bool) (d a b : SNum) (s : State) : Host.Outcome State Fault Refusal :=
  word (.ssra p d a b) s fun s =>
    .ok (scalarAlu2 p d a b false none (fun r => sextNat r.w r.ua / (2 ^ (r.ub % r.w) : Nat)) s)

/-- The w-bit pattern rotated left by `n`. -/
def rotl (w u n : Nat) : Nat := u * 2 ^ n % 2 ^ w + u / 2 ^ (w - n)

/-- `srot` (R66): rotates left. -/
def execSrot (p : Bool) (d a b : SNum) (s : State) : Host.Outcome State Fault Refusal :=
  word (.srot p d a b) s fun s =>
    .ok (scalarAlu2 p d a b false none (fun r => (rotl r.w r.ua (r.ub % r.w) : Int)) s)

/-- `smin` (R66). -/
def execSmin (p : Bool) (d a b : SNum) (s : State) : Host.Outcome State Fault Refusal :=
  word (.smin p d a b) s fun s => .ok (scalarAlu2 p d a b false none (fun r => min r.a r.b) s)

/-- `smax` (R66). -/
def execSmax (p : Bool) (d a b : SNum) (s : State) : Host.Outcome State Fault Refusal :=
  word (.smax p d a b) s fun s => .ok (scalarAlu2 p d a b false none (fun r => max r.a r.b) s)

/-- imm16 sign-extended to 64 bits (03 R36). -/
def sext16 (i : Imm16) : Word := i.signExtend 64

/-- `saddi` (R66): the destination is the only register read. -/
def execSaddi (p : Bool) (d : SNum) (i : Imm16) (s : State) : Host.Outcome State Fault Refusal :=
  word (.saddi p d i) s fun s =>
    .ok (scalarAlu p d (s.sreg d).toNat (sext16 i).toNat (s.pcl ||| s.slbl d) true namesIsat (fun r => r.a + r.b) s)

/-- The conditions of `scmp` (R69). -/
def condHolds (c : Cond) (a b : Int) : Bool :=
  match c with
  | .eq => a = b
  | .ne => a ≠ b
  | .lt => a < b
  | .le => a ≤ b
  | .gt => b < a
  | .ge => b ≤ a

/-- A scalar result with a label, the split falling through. -/
def putScalar (p : Bool) (d : SNum) (v : Word) (l : Label) (s : State) : State := (s.setS d v l).advance p

/-- `scmp.c` (R69). -/
def execScmp (p : Bool) (d a b : SNum) (c : Cond) (s : State) : Host.Outcome State Fault Refusal :=
  word (.scmp p d a b c) s fun s =>
    let r := sargs s.ty (s.sreg a).toNat (s.sreg b).toNat
    .ok (putScalar p d (if condHolds c r.a r.b then 1 else 0) (s.pcl ||| s.slbl a ||| s.slbl b) s)

/-- `ssel` (R70): the label of the register not chosen enters too. -/
def execSsel (p : Bool) (d a b : SNum) (s : State) : Host.Outcome State Fault Refusal :=
  word (.ssel p d a b) s fun s =>
    .ok (putScalar p d (if s.sreg d ≠ 0 then s.sreg a else s.sreg b)
      (s.pcl ||| s.slbl d ||| s.slbl a ||| s.slbl b) s)

/-- `smovi` (R71). -/
def execSmovi (p : Bool) (d : SNum) (i : Imm16) (s : State) : Host.Outcome State Fault Refusal :=
  word (.smovi p d i) s fun s => .ok (putScalar p d (sext16 i) s.pcl s)

/-- `smovh` (R71). -/
def execSmovh (p : Bool) (d : SNum) (i : Imm16) (s : State) : Host.Outcome State Fault Refusal :=
  word (.smovh p d i) s fun s =>
    .ok (putScalar p d (s.sreg d <<< 16 ||| i.setWidth 64) (s.pcl ||| s.slbl d) s)

/-- Zeros above the highest 1 bit of a w-bit pattern (R67). -/
def clzNat (w u : Nat) : Nat := if u = 0 then w else w - 1 - u.log2

/-- Zeros below the lowest 1 bit (R67). -/
def ctzNat : Nat → Nat → Nat
  | 0, _ => 0
  | k + 1, u => if u % 2 = 1 then 0 else 1 + ctzNat k (u / 2)

/-- The `k` bits of a pattern in reverse order (R67). -/
def revNat : Nat → Nat → Nat
  | 0, _ => 0
  | k + 1, u => u % 2 * 2 ^ k + revNat k (u / 2)

/-- A result of the low w bits of Sa (R67). -/
def scalarBits (p : Bool) (d a : SNum) (f : ETy → Nat → Nat → Word) (s : State) : State :=
  let w := intWidth s.ty
  putScalar p d (f s.ty w ((s.sreg a).toNat % 2 ^ w)) (s.pcl ||| s.slbl a) s

/-- `spopc` (R67). -/
def execSpopc (p : Bool) (d a : SNum) (s : State) : Host.Outcome State Fault Refusal :=
  word (.spopc p d a) s fun s => .ok (scalarBits p d a (fun _ w u => BitVec.ofNat 64 (popc w u)) s)

/-- `sclz` (R67). -/
def execSclz (p : Bool) (d a : SNum) (s : State) : Host.Outcome State Fault Refusal :=
  word (.sclz p d a) s fun s => .ok (scalarBits p d a (fun _ w u => BitVec.ofNat 64 (clzNat w u)) s)

/-- `sctz` (R67). -/
def execSctz (p : Bool) (d a : SNum) (s : State) : Host.Outcome State Fault Refusal :=
  word (.sctz p d a) s fun s => .ok (scalarBits p d a (fun _ w u => BitVec.ofNat 64 (ctzNat w u)) s)

/-- `sbrev` (R67). -/
def execSbrev (p : Bool) (d a : SNum) (s : State) : Host.Outcome State Fault Refusal :=
  word (.sbrev p d a) s fun s => .ok (scalarBits p d a (fun t w u => extTo64 t w (revNat w u)) s)

/-- A field of `len` bits from `pos` of a w-bit pattern, positions at or above `w` reading 0, extended from its top
bit: signed or not (R68, R139). -/
def bitField (w : Nat) (signed : Bool) (u pos len : Nat) : Int :=
  let f := u % 2 ^ w / 2 ^ pos % 2 ^ len
  if len = 0 then 0 else if signed then sextNat len f else (f : Int)

/-- The `len` low bits of `a` over bits `pos` upward of `d`; bits at or above `w` are lost (R68, R139). -/
def fieldInsert (w d a pos len : Nat) : Nat :=
  if w ≤ pos then d
  else
    let n := min len (w - pos)
    d % 2 ^ pos + a % 2 ^ n * 2 ^ pos + d / 2 ^ (pos + n) * 2 ^ (pos + n)

/-- `sbfx` (R68), on the full register. -/
def execSbfx (p : Bool) (d a b : SNum) (s : State) : Host.Outcome State Fault Refusal :=
  word (.sbfx p d a b) s fun s =>
    let y := s.sreg b
    let f := bitField 64 (!s.ty.unsigned) (s.sreg a).toNat (fieldOf y 0 6) (min (fieldOf y 8 7) 64)
    .ok (putScalar p d (BitVec.ofInt 64 f) (s.pcl ||| s.slbl a ||| s.slbl b) s)

/-- `sbfi` (R68). -/
def execSbfi (p : Bool) (d a b : SNum) (s : State) : Host.Outcome State Fault Refusal :=
  word (.sbfi p d a b) s fun s =>
    let y := s.sreg b
    let v := fieldInsert 64 (s.sreg d).toNat (s.sreg a).toNat (fieldOf y 0 6) (min (fieldOf y 8 7) 64)
    .ok (putScalar p d (BitVec.ofNat 64 v) (s.pcl ||| s.slbl d ||| s.slbl a ||| s.slbl b) s)

/-- `sldc` (R74): an index at or beyond the argument count reads 0. -/
def execSldc (p : Bool) (d : SNum) (n : Imm16) (s : State) : Host.Outcome State Fault Refusal :=
  word (.sldc p d n) s fun s =>
    .ok (putScalar p d (if n.toNat < s.launch.narg then s.launch.arg n.toNat else 0) s.pcl s)

end Sys2Proof.Machine
end

