-- ==== Sys2Proof/Machine/Access.lean ====
section
/-! DEFINITION. The checks and effects that the memory instructions share (11 R190 to R195, 02 R20 to R23, 09 R156,
R166, R169, 16 R268 to R274, R285). -/

namespace Sys2Proof.Machine

/-! ## Checks (R191) -/

/-- Steps 1 to 4 of R191 for `n` bytes at a virtual address. -/
def State.memChk (s : State) (k : Acc) (va : Word) (n : Nat) : Chk :=
  if va.toNat % n ≠ 0 then .trap .align va true
  else
    match s.checkVa s.coreNo s.warp.ctx s.split.priv s.launch.pure s.split.declined k va with
    | .ok key ceil =>
      if (k == .load || k == .atomic) && !Label.dom s.owners (s.granLbl key) then .trap .prot va true else .ok key ceil
    | r => r

/-- Step 5 of R191: LBL_STORE where the place does not accept the contribution. -/
def State.labelChk (s : State) (c : Label) (va : Word) (r : Chk) : Chk :=
  match r with
  | .ok key ceil => if s.accepts key ceil c then r else .trap .lblStore va true
  | _ => r

/-- Steps 1 and 2 of R191 for `n` bytes at a scratchpad address; `acc` admits the accumulator window. -/
def State.spChk (s : State) (va : Word) (n : Nat) (acc : Bool) : Chk :=
  if va.toNat % n ≠ 0 then .trap .align va
  else
    match s.checkSp s.warp.block (va.setWidth 32) n acc with
    | .trap c _ _ => .trap c va
    | r => r

/-- The page of a replayable fault, with its kind. -/
def Chk.page (c : Chk) : Option (Nat × Nat) :=
  match c with
  | .fault p k => some (p, k)
  | _ => none

/-- Why an access is refused. -/
def Chk.why (c : Chk) : Option Nat :=
  match c with
  | .refused w => some w
  | _ => none

/-- Each element once, in order. -/
def distinct (xs : List (Nat × Nat)) : List (Nat × Nat) :=
  xs.foldl (fun ys x => if ys.contains x then ys else ys ++ [x]) []

/-- What the lowest-numbered failing lane decides: its trap, or a replayable fault, for which every page that any lane
met is offered (16 R268). -/
def firstStop (cs : List Chk) : Option Stop :=
  cs.findSome? fun c =>
    match c with
    | .trap c e p => some (.trap c e p)
    | .fault _ _ => some (.park (distinct (cs.filterMap Chk.page)))
    | _ => none

/-- The refusal of the lowest-numbered refused lane (16 R270). -/
def firstWhy (cs : List Chk) : Option Nat := cs.findSome? Chk.why

/-- Logs at most one refusal for an instruction. -/
def State.refuseFirst (s : State) (kind : Nat) (cs : List Chk) : State :=
  match firstWhy cs with
  | some w => s.refuse kind w
  | none => s

/-- Engine operations for which an access to a location waits: those that own its line (10 R188), and those that the
warp's scoreboard records for its tile (05 R113, 13 R215, 15 R261). -/
def State.heldBy (s : State) (k : Nat) : List Nat :=
  if k < 2 ^ 48 then (s.ops.filter fun o => (s.opLines o).contains (k / 128)).map Op.id
  else
    ((s.ops.filter fun o => o.uid = s.warp.uid && o.tiles.contains (k / 256)).map Op.id) ++
      (((s.coreAt s.coreNo).groups.map fun g =>
        (g.quarters.filter fun q => q.uid = s.warp.uid && q.tiles.contains (k / 256)).map Quarter.id).flatten)

/-- The same for a store or an atomic: it also waits for the operations that have yet to read its line (13 R210), and for
the quarters of the warp whose rows are yet to be read from its tile (14 R240). -/
def State.heldStore (s : State) (k : Nat) : List Nat :=
  s.heldBy k ++
    (if k < 2 ^ 48 then (s.ops.filter fun o => o.holds (k / 128)).map Op.id else []) ++
    (((s.coreAt s.coreNo).groups.map fun g =>
      if g.results.isSome then []
      else (g.quarters.filter fun q => q.uid = s.warp.uid && q.rows.contains (k / 256)).map Quarter.id).flatten)

/-- What keeps an access whose lanes' checks are given from being performed: the first failing lane, or the engines it
must wait for. `writes` says that it is a store or an atomic. -/
def State.waitStop (s : State) (writes : Bool) (cs : List Chk) : Option Stop :=
  match firstStop cs with
  | some e => some e
  | none =>
    match joinAll ((cs.filterMap Chk.key).map (if writes then s.heldStore else s.heldBy)) with
    | [] => none
    | ids => some (.hold ids)

/-- Some lane meets poison (16 R273). -/
def State.meetsPoison (s : State) (cs : List Chk) : Bool := (cs.filterMap Chk.key).any s.poisoned

/-- The same for an access that has its data at once: where it reads, poison halts the warp. -/
def State.accessStop (s : State) (reads writes : Bool) (cs : List Chk) : Option Stop :=
  match s.waitStop writes cs with
  | some e => some e
  | none => if reads && s.meetsPoison cs then some (.halt .poison) else none

/-! ## Loads (R192) -/

/-- What one lane of a load has read: its value, its label, and the read that may yet be performed. -/
structure LaneVal where
  lane : Nat
  val : Word
  lbl : Label
  late : Option LateRead

/-- Enters a load that has passed its checks: the labels in lane order, the data pending until LOAD_RETURN. A load that met
poison, as `bad` says, issues too: its data never arrive, and LOAD_RETURN halts the warp (16 R267). -/
def State.pendLoad (s : State) (d : VNum) (pair bad : Bool) (vals : List LaneVal) : State :=
  if vals.isEmpty then s
  else
    let r := vals.foldl (fun (r : List PLane × State) v =>
      let i := r.2.intern v.lbl
      (r.1 ++ [⟨v.lane, v.val, i.1, v.late⟩], i.2)) ([], s)
    let f := r.2.fresh
    f.2.setWarp { f.2.warp with loads := f.2.warp.loads ++ [⟨f.1, d.toNat, pair, r.1, if bad then some s.split.pc else none⟩] }

/-- Extends `n` loaded bytes: sign-extended to 32 bits where `signed`. -/
def extendLoad (signed : Bool) (bs : List Byte) : Word :=
  let v := leNat bs
  if signed then BitVec.ofNat 64 (truncInt 32 (sextNat (8 * bs.length) v)) else BitVec.ofNat 64 v

/-- A plain read takes a name, which the lane's later events come after: until the load returns, it may return any write
that does not (10 R177, R183). -/
def State.nameRead (s : State) (l k n : Nat) (signed plain : Bool) : Option LateRead × State :=
  if plain then
    let f := s.fresh
    (some ⟨k, n, signed, f.1⟩, f.2.learn [l] [f.1])
  else (none, s)

/-- Reads the lanes of a load in order: all ones with label L15 for a refused lane (16 R269), else a read event and the
granule's label joined with `lb`. -/
def readLanes (n : Nat) (signed : Bool) (acq : Option Nat) (sc : Bool) (lb : Nat → Label) :
    List (Nat × Chk) → State → List LaneVal × State
  | [], s => ([], s)
  | (l, c) :: t, s =>
    match c with
    | .ok k _ =>
      let r := s.readEvent [l] k n acq sc
      let f := r.2.nameRead l k n signed acq.isNone
      let rest := readLanes n signed acq sc lb t f.2
      (⟨l, extendLoad signed r.1, s.granLbl k ||| lb l, f.1⟩ :: rest.1, rest.2)
    | _ =>
      let rest := readLanes n signed acq sc lb t s
      (⟨l, BitVec.allOnes 64, s.owners, none⟩ :: rest.1, rest.2)

/-- A lane-wise load: `chk` and `lb` give each lane's check and address label. -/
def loadEffect (p : Bool) (d : VNum) (n : Nat) (signed : Bool) (acq : Option Nat) (sc : Bool) (chk : Nat → Chk)
    (lb : Nat → Label) (s : State) : Eff State :=
  let cs := s.lanes.map fun l => (l, chk l)
  match s.waitStop false (cs.map Prod.snd) with
  | some e => .error e
  | none =>
    let c := s.pcl ||| s.guardLbl
    let r := readLanes n signed acq sc (fun l => lb l ||| c) cs s
    .ok (((r.2.refuseFirst 0 (cs.map Prod.snd)).pendLoad d (n = 8) (s.meetsPoison (cs.map Prod.snd)) r.1).advance p)

/-! ## Stores (R193) -/

/-- The block keeps a digest: it is selected for audit, or an audit run (16 R285). -/
def State.digests (s : State) (b : Nat) : Bool :=
  let x := s.blockAt b
  x.audit || (s.launchAt x.lseq).selected.contains x.num

/-- Adds one store element of value `v` at `va` to the digest of a block (R285). -/
def State.digest (s : State) (b : Nat) (va v : Nat) : State :=
  if s.digests b then
    let x := s.blockAt b
    let a : Word := BitVec.ofNat 64 va
    let h := a ^^^ BitVec.ofNat 64 v
    s.setBlockAt b { x with d0 := x.d0 + h, d1 := x.d1 + h * (a ||| 1) }
  else s

/-- One lane of a store that passed its checks: its number, check, virtual address where it has one, bytes and
contribution. -/
structure StoreLane where
  lane : Nat
  chk : Chk
  va : Option Nat
  bytes : List Byte
  c : Label

/-- Two lanes of a store write the same bytes: their locations are one, by whatever addresses they name it; refused lanes
have no location, but an address. -/
def StoreLane.same (x y : StoreLane) : Bool :=
  match x.chk.key, y.chk.key with
  | some a, some b => a == b
  | none, none => x.va.isSome && x.va == y.va
  | _, _ => false

/-- Performs the lanes of a store in order. Where a later lane names the same place, the write is left unperformed, but
a floating granule joins every lane's contribution. An audit run's global stores are digested and dropped (16 R286). -/
def writeLanes (rel : Option Nat) (sc : Bool) : List StoreLane → State → State
  | [], s => s
  | x :: t, s =>
    let last := !(t.any x.same)
    let s := match x.va with
      | some a => if last then s.digest s.warp.block a (leNat x.bytes) else s
      | none => s
    match x.chk with
    | .ok k _ =>
      if x.va.isSome && s.block.audit then writeLanes rel sc t s
      else
        let s := if last then s.writeEvent [x.lane] k x.bytes rel sc false [] else s
        writeLanes rel sc t (s.joinGran k x.c)
    | _ => writeLanes rel sc t s

/-- The locations of the bytes that the lanes of a store name. -/
def storedKeys (xs : List StoreLane) : List Nat :=
  (xs.map fun x => match x.chk with
    | .ok k _ => (List.range x.bytes.length).map fun i => k + i
    | _ => []).flatten

/-- A lane-wise store. -/
def storeEffect (p : Bool) (rel : Option Nat) (sc : Bool) (xs : List StoreLane) (s : State) : Eff State :=
  let cs := xs.map StoreLane.chk
  match s.accessStop false true cs with
  | some e => .error e
  | none =>
    let s' := writeLanes rel sc xs s
    let s' := if s.block.audit && xs.any fun x => x.va.isSome then s'
              else (s'.clearCovered (storedKeys xs)).settleStored (storedKeys xs)
    .ok ((s'.refuseFirst 1 cs).advance p)

/-! ## Addresses (R190) -/

/-- EA(l) of a MEM word. -/
def State.ea (s : State) (b : SNum) (o : VNum) (l : Nat) : Word :=
  s.sreg b + (s.vlane o.toNat l).val.signExtend 64

/-- AL(l). -/
def State.al (s : State) (b : SNum) (o : VNum) (l : Nat) : Label := s.slbl b ||| s.vlbl false o.toNat l

/-- Bytes and sign of a load width (03 R48). -/
def ldWidth (w : LdW) : Nat × Bool :=
  match w with
  | .n8 => (1, false)
  | .n16 => (2, false)
  | .b32 => (4, false)
  | .b64 => (8, false)
  | .i8 => (1, true)
  | .i16 => (2, true)

/-- Bytes of a store width (03 R48). -/
def stWidth (w : StW) : Nat :=
  match w with
  | .b8 => 1
  | .b16 => 2
  | .b32 => 4
  | .b64 => 8

/-- An address names the window of another rank through PEER = 1 (16 R284, 17 R302). -/
def State.peerOther (s : State) (a : Word) : Bool := bitOf a 26 && fieldOf a 22 4 ≠ s.block.rank

/-! ## Private memory (09 R166) -/

/-- Where byte `o` of lane `l` lies in the warp's private area. -/
def privAt (l o : Nat) : Nat := o / 4 * 128 + 4 * l + o % 4

/-- The places of `n` bytes. -/
def privBytes (l o n : Nat) : List Nat := (List.range n).map fun i => privAt l (o + i)

/-- The check of `n` private bytes (R191 steps 1 and 2). -/
def State.privChk (s : State) (va : Word) (n : Nat) : Chk :=
  if va.toNat % n ≠ 0 then .trap .align va
  else if s.ctx.privBytes < va.toNat % 2 ^ 32 + n then .trap .prot va
  else .ok (va.toNat % 2 ^ 32) s.owners

/-- What an access to each of several pages of the area meets. -/
def State.areaAll (s : State) (kind : Nat) : List Nat → List (Nat × Chk) × State
  | [] => ([], s)
  | n :: t =>
    let r := s.areaMeets kind n
    let rest := r.2.areaAll kind t
    ((n, r.1) :: rest.1, rest.2)

/-- Each number once, in order. -/
def distinctNats (xs : List Nat) : List Nat := xs.foldl (fun ys x => if ys.contains x then ys else ys ++ [x]) []

/-- The page of the area that holds byte `o` of lane `l`. -/
def privPage (l o : Nat) : Nat := privAt l o / 2 ^ 16

/-- The lanes of a private access with their checks, in the state that has taken what their pages meet. -/
def State.privChks (s : State) (kind : Nat) (b : SNum) (o : VNum) (n : Nat) : List (Nat × Chk) × State :=
  let cs := s.lanes.map fun l => (l, s.privChk (s.ea b o l) n)
  let r := s.areaAll kind (distinctNats (cs.filterMap fun c => c.2.key.map (privPage c.1)))
  (cs.map fun c => (c.1,
    match c.2 with
    | .ok k ceil =>
      match Sparse.look (privPage c.1 k) r.1 with
      | some (.ok _ _) => .ok k ceil
      | some (.trap x _ _) => .trap x (s.ea b o c.1)
      | some y => y
      | none => .ok k ceil
    | y => y), r.2)

/-- What stops a private access (11 R191): its lowest failing lane. -/
def privStop (r : List (Nat × Chk) × State) : Option Stop := (firstStop (r.1.map Prod.snd)).map (.after r.2.choices)

/-- A private load. A refused lane reads all ones with label L15 (16 R269). -/
def privLoad (p : Bool) (d : VNum) (b : SNum) (o : VNum) (n : Nat) (signed : Bool) (s : State) : Eff State :=
  let r := s.privChks 0 b o n
  match privStop r with
  | some e => .error e
  | none =>
    let w := s.warp
    let bad := r.1.any fun c => c.2.key.any fun k => (privBytes c.1 k n).any fun a => w.privPoison.get false (a / 64)
    let value (l : Nat) (c : Chk) : LaneVal :=
      match c with
      | .ok k _ =>
        let bs := privBytes l k n
        ⟨l, extendLoad signed (bs.map fun a => w.priv.get 0 a),
          joinLabels (bs.map fun a => w.privLbl.get 0 (a / 64)) ||| s.al b o l ||| s.pcl ||| s.guardLbl, none⟩
      | _ => ⟨l, BitVec.allOnes 64, s.owners, none⟩
    .ok (((r.2.refuseFirst 0 (r.1.map Prod.snd)).pendLoad d (n = 8) bad (r.1.map fun c => value c.1 c.2)).advance p)

/-- Writes one private byte with its contribution. -/
def Warp.putPriv (w : Warp) (a : Nat) (v : Byte) (c : Label) : Warp :=
  { w with priv := w.priv.set 0 a v, privLbl := w.privLbl.set 0 (a / 64) (w.privLbl.get 0 (a / 64) ||| c) }

/-- Clears the poison of the private granules that an instruction wrote whole (16 R274). -/
def Warp.clearPriv (w : Warp) (written : List Nat) : Warp :=
  { w with privPoison := ⟨w.privPoison.entries.filter fun e =>
      !((List.range 64).all fun i => written.contains (64 * e.1 + i))⟩ }

/-- A private store. A refused lane's write is dropped (16 R269). -/
def privStore (p : Bool) (v : VNum) (b : SNum) (o : VNum) (n : Nat) (s : State) : Eff State :=
  let r := s.privChks 1 b o n
  match privStop r with
  | some e => .error e
  | none =>
    let passed := r.1.filterMap fun c => c.2.key.map fun k => (c.1, privBytes c.1 k n)
    let w := passed.foldl (fun w x =>
      let c := s.vlbl (n = 8) v.toNat x.1 ||| s.al b o x.1 ||| s.pcl ||| s.guardLbl
      (x.2.zip (leBytes n (s.velt (n = 8) v.toNat x.1))).foldl (fun w y => w.putPriv y.1 y.2 c) w) s.warp
    .ok (((r.2.setWarp (w.clearPriv ((passed.map Prod.snd).flatten))).refuseFirst 1 (r.1.map Prod.snd)).advance p)

end Sys2Proof.Machine
end

