-- ==== Sys2Proof/Machine/LabelMode.lean ====
section
/-! DEFINITION. The mode register, the label instructions, and grants spent for declassification (04 R84 to R89). -/

namespace Sys2Proof.Machine

/-! ## MODE (R84) -/

/-- A value of MODE[15:0] holds no reserved TYPE or RND (02 R13). -/
def modeOk (v : BitVec 16) : Bool := fieldOf v 4 4 ≤ 12 && fieldOf v 1 3 ≤ 4

/-- `mode` (R84): a branch for labelling purposes. -/
def execMode (p : Bool) (a : SNum) (s : State) : Host.Outcome State Fault Refusal :=
  word (.mode p a) s fun s =>
    let v : BitVec 16 := (s.sreg a).setWidth 16
    if !modeOk v then .error (.trap .ill (wordOf (.mode p a)))
    else do
      let r ← s.raise (s.slbl a)
      pure ((r.setSplit { r.split with mode := v.setWidth 32 }).advance p)

/-- `modei` (R84). -/
def execModei (p : Bool) (v : Imm16) (s : State) : Host.Outcome State Fault Refusal :=
  word (.modei p v) s fun s =>
    if !modeOk v then .error (.trap .ill (wordOf (.modei p v)))
    else .ok ((s.setSplit { s.split with mode := v.setWidth 32 }).advance p)

/-! ## Labels (R85 to R88) -/

/-- `lget` (R85). -/
def execLget (p : Bool) (d a : SNum) (s : State) : Host.Outcome State Fault Refusal :=
  word (.lget p d a) s fun s =>
    .ok ((s.setS d ((s.slbl a).setWidth 64) (s.pcl ||| s.slbl a)).advance p)

/-- `lget.v` (R85). -/
def execLgetV (p : Bool) (d a : VNum) (s : State) : Host.Outcome State Fault Refusal :=
  word (.lgetV p d a) s fun s =>
    let c := s.pcl ||| s.guardLbl
    .ok ((s.lanes.foldl (fun r l =>
      let x := s.vlbl false a.toNat l
      r.setV false d.toNat l x.toNat (c ||| x)) s).advance p)

/-- What `ljoin` adds to a label: that of Sb and the owners that Sb names (R86). -/
def State.named (s : State) (b : SNum) : Label := s.slbl b ||| ((s.sreg b).setWidth 16 &&& s.owners)

/-- `ljoin` (R86). -/
def execLjoin (p : Bool) (d a b : SNum) (s : State) : Host.Outcome State Fault Refusal :=
  word (.ljoin p d a b) s fun s =>
    .ok ((s.setS d (s.sreg a) (s.pcl ||| s.slbl a ||| s.named b)).advance p)

/-- `ljoin.v` (R86). -/
def execLjoinV (p : Bool) (d a : VNum) (b : SNum) (s : State) : Host.Outcome State Fault Refusal :=
  word (.ljoinV p d a b) s fun s =>
    let c := s.pcl ||| s.guardLbl ||| s.named b
    .ok ((s.lanes.foldl (fun r l =>
      r.setV false d.toNat l (s.velt false a.toNat l) (c ||| s.vlbl false a.toNat l)) s).advance p)

/-- `lchk` (R87). -/
def execLchk (p : Bool) (d a b : SNum) (s : State) : Host.Outcome State Fault Refusal :=
  word (.lchk p d a b) s fun s =>
    let ok := Label.dom ((s.sreg b).setWidth 16) (s.slbl a)
    .ok ((s.setS d (if ok then 1 else 0) (s.pcl ||| s.slbl a ||| s.slbl b)).advance p)

/-- The pc label index that an entry holds. -/
def Entry.pcl (e : Entry) : LIdx :=
  match e with
  | .raise _ _ l => l
  | .diverge _ _ l _ _ => l
  | .serial _ _ _ _ l _ _ _ => l

/-- The indices of the label table that something of the warp references, by R88's list (log 14). -/
def Warp.referenced (w : Warp) : List LIdx :=
  w.sregs.entries.map (fun e => e.2.lbl) ++ w.vregs.entries.map (fun e => e.2.lbl) ++
    (w.liveSplits.map fun e => [e.2.pcl, e.2.elbl]).flatten ++ w.entries.map Entry.pcl ++
    [w.flbl]

/-- Frees every entry of L1 to L14 that nothing references (R88). -/
def Warp.compact (w : Warp) : Warp :=
  { w with ltab := ⟨w.ltab.entries.filter fun e => w.referenced.contains (BitVec.ofNat 4 e.1)⟩ }

/-- `ltcompact` (R88): waits until no register write of the warp is pending. -/
def execLtcompact (p : Bool) (s : State) : Host.Outcome State Fault Refusal :=
  word (.ltcompact p) s fun s =>
    if s.warp.writePending then .ok (s.await .ltcompact p 0#16)
    else .ok ((s.setWarp s.warp.compact).advance p)

/-! ## Declassification (R89, R90) -/

/-- A grant of an owner that is live for a launch of context `c` (20 R341). -/
def Grant.live (g : Grant) (s : State) (c o : Nat) (meas : BitVec 384) : Bool :=
  g.ctx == c && g.slot == o && g.meas == meas && g.budget != 0 && s.cycle < g.expiry

/-- Spends one unit of the grant of owner `o`. -/
def spendGrant (s : State) (c o : Nat) (meas : BitVec 384) : List Grant → List Grant
  | [] => []
  | g :: t => if g.live s c o meas then { g with budget := g.budget - 1 } :: t else g :: spendGrant s c o meas t

/-- The Tack Room's step: one unit from each owner of `g`, or LBL_DCLS and no budget changed (R89). An audit run
consults no grant (16 R286). -/
def State.spend (s : State) (g : Label) (w : Word) : Eff State :=
  let os := (List.range 16).filter fun o => bitOf g o
  let c := s.warp.ctx
  let meas := s.launch.meas
  if !Label.dom s.owners g then .error (.trap .lblDcls w)
  else if s.block.audit then .ok s
  else if os.all fun o => s.tack.grants.any fun x => x.live s c o meas then
    .ok { s with tack := { s.tack with
      grants := os.foldl (fun gs o => spendGrant s c o meas gs) s.tack.grants } }
  else .error (.trap .lblDcls w)

/-- The label of a value declassified by the owners that S[g] names (R89). -/
def State.lowered (s : State) (l : Label) (g : SNum) : Label := (l &&& ~~~((s.sreg g).setWidth 16)) ||| s.slbl g

end Sys2Proof.Machine
end

