-- ==== Sys2Proof/Machine/Memory.lean ====
section
/-! DEFINITION. Loads, stores, their ordered forms, fences, `mwait` and hints (04 R72, R73, 11 R190 to R198), and the
return of a load and the wake of an `mwait`. -/

namespace Sys2Proof.Machine

/-! ## Scalar memory (04 R72, R73) -/

/-- The lanes of a scalar access: the split's EXEC (10 R176). -/
def State.execLanes (s : State) : List Nat := lanesOf s.split.exec

/-- `sld` (R72). -/
def execSld (p : Bool) (d a b : SNum) (w : LdW) (s : State) : Host.Outcome State Fault Refusal :=
  word (.sld p d a b w) s fun s =>
    let va := s.sreg a + s.sreg b
    let n := (ldWidth w).1
    let c := s.memChk .load va n
    match s.accessStop true false [c] with
    | some e => .error e
    | none =>
      match c with
      | .ok k _ =>
        let r := s.readEvent s.execLanes k n none false
        let v : Word := if (ldWidth w).2 then BitVec.ofInt 64 (sextNat (8 * n) (leNat r.1)) else BitVec.ofNat 64 (leNat r.1)
        .ok ((r.2.setS d v (s.granLbl k ||| s.slbl a ||| s.slbl b ||| s.pcl)).advance p)
      | _ => .ok (((s.refuseFirst 0 [c]).setS d (BitVec.allOnes 64) s.owners).advance p)

/-- `sst` (R72): one write event of the split. -/
def execSst (p : Bool) (d a b : SNum) (w : StW) (s : State) : Host.Outcome State Fault Refusal :=
  wordMarked (.sst p d a b w) s true false fun s =>
    let va := s.sreg a + s.sreg b
    let n := stWidth w
    let c := s.slbl d ||| s.slbl a ||| s.slbl b ||| s.pcl
    let r := s.labelChk c va (s.memChk .store va n)
    match s.accessStop false true [r] with
    | some e => .error e
    | none =>
      let bs := leBytes n (s.sreg d).toNat
      let s' := s.digest s.warp.block va.toNat (leNat bs)
      match r with
      | .ok k _ =>
        if s.block.audit then .ok (s'.advance p)
        else .ok (((s'.writeEvent s.execLanes k bs none false false []).joinGran k c).advance p)
      | _ => .ok ((s'.refuseFirst 1 [r]).advance p)

/-! ## Global loads and stores (R192 to R194) -/

/-- A global load of `n` bytes. -/
def globalLoad (p : Bool) (d : VNum) (b : SNum) (o : VNum) (n : Nat) (signed : Bool) (acq : Option Nat) (sc : Bool)
    (s : State) : Eff State :=
  loadEffect p d n signed acq sc (fun l => s.memChk .load (s.ea b o l) n) (s.al b o) s

/-- The contribution of a stored lane (R193). -/
def State.stored (s : State) (v : VNum) (b : SNum) (o : VNum) (n l : Nat) : Label :=
  s.vlbl (n = 8) v.toNat l ||| s.al b o l ||| s.pcl ||| s.guardLbl

/-- A global store of `n` bytes. -/
def globalStore (p : Bool) (v : VNum) (b : SNum) (o : VNum) (n : Nat) (rel : Option Nat) (sc : Bool) (s : State) :
    Eff State :=
  storeEffect p rel sc (s.lanes.map fun l =>
    let va := s.ea b o l
    let c := s.stored v b o n l
    { lane := l, chk := s.labelChk c va (s.memChk .store va n), va := some va.toNat,
      bytes := leBytes n (s.velt (n = 8) v.toNat l), c := c }) s

/-- `vld` (R192). -/
def execVld (p : Bool) (d : VNum) (b : SNum) (o : VNum) (w : LdW) (s : State) : Host.Outcome State Fault Refusal :=
  word (.vld p d b o w) s (globalLoad p d b o (ldWidth w).1 (ldWidth w).2 none false)

/-- `vst` (R193). -/
def execVst (p : Bool) (d : VNum) (b : SNum) (o : VNum) (w : StW) (s : State) : Host.Outcome State Fault Refusal :=
  wordMarked (.vst p d b o w) s true false (globalStore p d b o (stWidth w) none false)

/-- `vld.acq.b32` (R194). -/
def execVldAcqB32 (p : Bool) (d : VNum) (b : SNum) (o : VNum) (c : Scope) (s : State) :
    Host.Outcome State Fault Refusal :=
  word (.vldAcqB32 p d b o c) s (globalLoad p d b o 4 false (some (scopeCode c)) false)

/-- `vld.acq.b64` (R194). -/
def execVldAcqB64 (p : Bool) (d : VNum) (b : SNum) (o : VNum) (c : Scope) (s : State) :
    Host.Outcome State Fault Refusal :=
  word (.vldAcqB64 p d b o c) s (globalLoad p d b o 8 false (some (scopeCode c)) false)

/-- `vst.rel.b32` (R194). -/
def execVstRelB32 (p : Bool) (d : VNum) (b : SNum) (o : VNum) (c : Scope) (s : State) :
    Host.Outcome State Fault Refusal :=
  wordMarked (.vstRelB32 p d b o c) s true false (globalStore p d b o 4 (some (scopeCode c)) false)

/-- `vst.rel.b64` (R194). -/
def execVstRelB64 (p : Bool) (d : VNum) (b : SNum) (o : VNum) (c : Scope) (s : State) :
    Host.Outcome State Fault Refusal :=
  wordMarked (.vstRelB64 p d b o c) s true false (globalStore p d b o 8 (some (scopeCode c)) false)

/-- `vld.sc.b32` (R194). -/
def execVldScB32 (p : Bool) (d : VNum) (b : SNum) (o : VNum) (c : Scope) (s : State) :
    Host.Outcome State Fault Refusal :=
  word (.vldScB32 p d b o c) s (globalLoad p d b o 4 false (some (scopeCode c)) true)

/-- `vld.sc.b64` (R194). -/
def execVldScB64 (p : Bool) (d : VNum) (b : SNum) (o : VNum) (c : Scope) (s : State) :
    Host.Outcome State Fault Refusal :=
  word (.vldScB64 p d b o c) s (globalLoad p d b o 8 false (some (scopeCode c)) true)

/-- `vst.sc.b32` (R194). -/
def execVstScB32 (p : Bool) (d : VNum) (b : SNum) (o : VNum) (c : Scope) (s : State) :
    Host.Outcome State Fault Refusal :=
  wordMarked (.vstScB32 p d b o c) s true false (globalStore p d b o 4 (some (scopeCode c)) true)

/-- `vst.sc.b64` (R194). -/
def execVstScB64 (p : Bool) (d : VNum) (b : SNum) (o : VNum) (c : Scope) (s : State) :
    Host.Outcome State Fault Refusal :=
  wordMarked (.vstScB64 p d b o c) s true false (globalStore p d b o 8 (some (scopeCode c)) true)

/-! ## Scratchpad and private memory (R195) -/

/-- Some participating lane names another rank's window. -/
def State.anyPeer (s : State) (b : SNum) (o : VNum) : Bool := s.lanes.any fun l => s.peerOther (s.ea b o l)

/-- `vlds` (R195). -/
def execVlds (p : Bool) (d : VNum) (b : SNum) (o : VNum) (w : LdW) (s : State) : Host.Outcome State Fault Refusal :=
  wordMarked (.vlds p d b o w) s false (s.anyPeer b o) fun s =>
    let n := (ldWidth w).1
    loadEffect p d n (ldWidth w).2 none false (fun l => s.spChk (s.ea b o l) n true) (s.al b o) s

/-- `vsts` (R195). -/
def execVsts (p : Bool) (d : VNum) (b : SNum) (o : VNum) (w : StW) (s : State) : Host.Outcome State Fault Refusal :=
  wordMarked (.vsts p d b o w) s (s.anyPeer b o) (s.anyPeer b o) fun s =>
    let n := stWidth w
    storeEffect p none false (s.lanes.map fun l =>
      { lane := l, chk := s.spChk (s.ea b o l) n true, va := none, bytes := leBytes n (s.velt (n = 8) d.toNat l),
        c := s.stored d b o n l }) s

/-- `vldp` (R195). -/
def execVldp (p : Bool) (d : VNum) (b : SNum) (o : VNum) (w : LdW) (s : State) : Host.Outcome State Fault Refusal :=
  word (.vldp p d b o w) s (privLoad p d b o (ldWidth w).1 (ldWidth w).2)

/-- `vstp` (R195). -/
def execVstp (p : Bool) (d : VNum) (b : SNum) (o : VNum) (w : StW) (s : State) : Host.Outcome State Fault Refusal :=
  word (.vstp p d b o w) s (privStore p d b o (stWidth w))

/-! ## Fences (R196, 10 R179 to R181) -/

/-- The reads of a lane's outstanding loads are performed: they return what they have read (10 R179). -/
def Warp.fixReads (w : Warp) (l : Nat) : Warp :=
  { w with loads := w.loads.map fun x => { x with lanes := x.lanes.map fun y =>
      if y.lane = l then { y with late := none } else y } }

/-- A fence in one lane: its place in S, its acquire part, then its release part. -/
def fenceLane (k : FenceK) (c : Nat) (s : State) (l : Nat) : State :=
  let sc := if k = .sc then some c else none
  let s := s.scEnter [l] sc
  let s := if k = .rel then s
           else (s.setWarp (s.warp.fixReads l)).learn [l] (acquired (s.party l) c (s.warp.acq.get [] l))
  let src : Src := ⟨c, s.party l, s.warp.seen l⟩
  let s := if k = .acq then s else s.setWarp { s.warp with rel := s.warp.rel.set [] l (s.warp.rel.get [] l ++ [src]) }
  s.scLeave [l] sc

/-- `fence` (R196). Scope `.warp` orders every lane of EXEC after every other (10 R180). -/
def execFence (p : Bool) (k : FenceK) (c : Scope) (s : State) : Host.Outcome State Fault Refusal :=
  word (.fence p k c) s fun s =>
    let ls := s.execLanes
    let s' := if c = .warp then s.learn ls (s.warp.seenAll ls) else s
    .ok ((ls.foldl (fenceLane k (scopeCode c)) s').advance p)

/-! ## `mwait` (R197) -/

/-- The condition of `mwait`. -/
def waitHolds (c : WaitC) (v rhs : Word) : Bool :=
  match c with
  | .ge => rhs.toNat ≤ v.toNat
  | .ne => v ≠ rhs
  | .eq => v = rhs

/-- One polling read: where the condition holds of what it reads at the home, the read that ends the wait. A poll that
does not end it makes no event. -/
def mwaitEnd (d : SNum) (k : Nat) (c : WaitC) (rhs : Word) (lbl : Label) (s : State) : Option State :=
  let r := s.stampRead s.execLanes k
  let v : Word := BitVec.ofNat 64 (leNat r.1)
  if waitHolds c v rhs then some (r.2.setS d v (s.granLbl k ||| lbl)) else none

/-- `mwait` (R197). -/
def execMwait (p : Bool) (d a b : SNum) (c : WaitC) (s : State) : Host.Outcome State Fault Refusal :=
  word (.mwait p d a b c) s fun s =>
    let va := s.sreg a
    let r := s.memChk .load va 8
    let lbl := s.slbl a ||| s.slbl b ||| s.pcl
    match s.accessStop true false [r] with
    | some e => .error e
    | none =>
      match r with
      | .ok k _ =>
        match mwaitEnd d k c (s.sreg b) lbl s with
        | some t => .ok (t.advance p)
        | none => .ok (s.await (.mwait d va (s.sreg b) c lbl) p (s.readLabel (.mwait p d a b c)))
      | _ => .ok (((s.refuseFirst 0 [r]).setS d (BitVec.allOnes 64) s.owners).advance p)

/-- The split that issues leaves its wait, to issue its instruction again. -/
def State.unwait (s : State) : State := s.setSplit { s.split with st := .ready, wmask := none, wlbl := 0 }

/-- What a poll of a waiting `mwait` finds: nothing (none), or what becomes of the split that waits. A poll meets the
checks of R191 as the instruction did (log 35): a page with no leaf is offered to the host (16 R268), and a line that an
engine owns is recalled (10 R188). -/
def pollOf (s : State) : Option State :=
  match s.split.st with
  | .swait (.mwait d va rhs c lbl) =>
    match s.memChk .load va 8 with
    | .ok k _ =>
      if s.heldBy k ≠ [] then
        if (s.heldBy k).all s.split.heldOn.contains then none
        else some (s.setSplit { s.split with heldOn := joinIds s.split.heldOn (s.heldBy k) })
      else if s.poisoned k then some (s.haltWarp s.cur s.split.pc .poison 0 0)
      else (mwaitEnd d k c rhs lbl s).map State.finishWait
    | .refused w => some ((s.refuse 0 w).setS d (BitVec.allOnes 64) s.owners).finishWait
    | .fault p k => if p = waitPage then none else some (s.unwait.parkWarp [(p, k)])
    | .trap x e p => some (s.unwait.takeTrap x e s.split.wlbl s.split.pc s.split.wmask.isSome p)
  | _ => none

/-- MWAIT_WAKE (R197): a polling read of a waiting split. -/
def execMwaitWake (w sp : Nat) (s : State) : Host.Outcome State Fault Refusal :=
  .next (s.asWarp w sp fun s => if s.warp.st == .run then (pollOf s).getD s else s)

/-! ## Hints (R198) -/

/-- `sprf` (R198): timing only. -/
def execSprf (p : Bool) (a b : SNum) (l : Level) (s : State) : Host.Outcome State Fault Refusal :=
  word (.sprf p a b l) s fun s => .ok (s.advance p)

/-- `rhint` (R198): timing only. -/
def execRhint (p : Bool) (a b : SNum) (h : HintA) (s : State) : Host.Outcome State Fault Refusal :=
  word (.rhint p a b h) s fun s => .ok (s.advance p)

/-! ## The return of a load (R192) -/

/-- A warp's `ltcompact` goes on once no register write is pending (04 R88). -/
def settleCompact (w : Nat) (s : State) : State :=
  if (s.warpAt w).writePending then s
  else ((s.warpAt w).liveSplits).foldl (fun s p =>
    if p.2.st == .swait .ltcompact then s.asWarp w p.1 fun s => (s.setWarp s.warp.compact).finishWait else s) s

/-- The writes of a byte since the read `id` that do not come after it: it may return one of them too (10 R183). -/
def State.laterWrites (s : State) (id x : Nat) : List Nat :=
  ((((s.hist.byte x).map ByteHist.ws).getD []).filter fun w =>
    id < w.1 && !(s.hist.wrec w.1).before.contains id).map Prod.fst

/-- A pick among what a byte held when it was read, and what later writes left there; by the rule of 10 R175. -/
def State.pickLater (s : State) (r : LateRead) (old : List Byte) : List Byte × List Nat × State :=
  let one (s : State) (x : Nat) : Option Nat × State :=
    let ws := s.laterWrites r.id x
    let c := s.pick (ws.length + 1)
    (if c.1 = 0 then none else ws[c.1 - 1]?, c.2)
  let byte (i : Nat) (w : Option Nat) : Byte :=
    match w with
    | none => old.getD i 0#8
    | some _ => s.byteBy (r.key + i) w
  if s.wideAt r.key r.len then
    let c := one s r.key
    ((List.range r.len).map fun i => byte i c.1, c.1.toList, c.2)
  else
    (List.range r.len).foldl (fun t i =>
      let c := one t.2.2 (r.key + i)
      (t.1 ++ [byte i c.1], joinIds t.2.1 c.1.toList, c.2)) ([], [], s)

/-- A lane of a load as its data return, to the warp that issues: what it read at issue, or what a later write left, where
the memory order of one die does not rule that out (10 R183, R185). -/
def State.landRead (s : State) (y : PLane) : Word × LIdx × State :=
  match y.late with
  | none => (y.val, y.lbl, s)
  | some r =>
    if s.hist.oneDie s.dieNo r.id r.key r.len || s.poisoned r.key then (y.val, y.lbl, s)
    else
      let c := s.pickLater r (leBytes r.len y.val.toNat)
      if c.2.1 = [] then (y.val, y.lbl, c.2.2)
      else
        let i := (c.2.2.readFrom [y.lane] none c.2.1).intern (s.label y.lbl ||| s.granLbl r.key)
        (extendLoad r.signed c.1, i.1, i.2)

/-- The data of a load reach their registers. -/
def landLoad (x : PLoad) (s : State) : State :=
  x.lanes.foldl (fun (s : State) (y : PLane) =>
    let v := s.landRead y
    let s := v.2.2.putLane x.reg y.lane (v.1.setWidth 32) v.2.1
    if x.pair then s.putLane (x.reg + 1) y.lane (v.1.extractLsb' 32 32) v.2.1 else s) s

/-- LOAD_RETURN (R192): the data of an outstanding load reach their registers. Where the load met poison none arrive, and
its warp halts (16 R267, R273). -/
def execLoadReturn (w id : Nat) (s : State) : Host.Outcome State Fault Refusal :=
  match (s.warpAt w).loads.find? fun x => x.id = id with
  | none => .next s
  | some x =>
    let s := s.setWarpAt w { s.warpAt w with loads := (s.warpAt w).loads.filter fun y => y.id ≠ id }
    match x.poison with
    | some pc => .next (if (s.warpAt w).live then s.haltWarp w pc .poison 0 0 else s)
    | none => .next (settleCompact w (s.asWarp w 0 (landLoad x)))

end Sys2Proof.Machine
end

