-- ==== Sys2Proof/Machine/Issue.lean ====
section
/-! DEFINITION. Fetching an instruction's word (02 R11, R26), which split a scheduler may issue (05 R107, R112 to R117), and
what an issue leaves in the TLBs and the L1 (09 R173, 05 R115). -/

namespace Sys2Proof.Machine

/-- What a fetch gives: the word, or what becomes of the split instead. -/
inductive Fetched where
  | word (w : BitVec 32)
  | stop (s : State)
  deriving DecidableEq, Repr

/-- The clearance of the page that holds the PC (02 R26). -/
def State.clearance (s : State) : Label :=
  match s.translate s.coreNo s.warp.ctx s.split.pc.toNat with
  | .leaf e => leafClr e
  | _ => 0#16

/-- Steps 1 and 2 of R62 for the split that issues. A trap taken before the SP bit is read records length 4 (log 83). -/
def fetch (s : State) : Fetched :=
  let a : Word := s.split.pc.setWidth 64
  match s.checkFetch a with
  | .trap c e p => .stop (s.takeTrap c e 0#16 s.split.pc false p)
  | .fault p k => .stop (s.parkWarp [(p, k)])
  | .refused w => .stop ((s.refuse 8 w).takeTrap .prot a 0#16 s.split.pc false true)
  | .ok k _ =>
    if s.poisoned k then .stop (s.haltWarp s.cur s.split.pc .poison 0 0)
    else if !Label.dom s.clearance s.pcl then
      .stop (s.takeTrap .lblPc a 0#16 s.split.pc (bitOf (s.codeWord k) 31) true)
    else .word (s.codeWord k)

/-- A word that is no instruction traps ILL, with the word as EINFO. -/
def illegal (w : BitVec 32) (s : State) : State := s.takeTrap .ill (w.setWidth 64) 0#16 s.split.pc (bitOf w 31)

/-! ## Which split may issue (05 R112 to R117) -/

/-- The word at which a split stands, where a fetch would give one. -/
def State.peek (s : State) (k sp : Nat) : Option (BitVec 32) :=
  match fetch { s with cur := k, curSplit := sp } with
  | .word w => some w
  | .stop _ => none

/-- A memory instruction of R115, by its major. -/
def memoryMajor (w : BitVec 32) : Bool :=
  let m := fieldOf w 23 8
  m == 0x2A || m == 0x2B || (0x80 ≤ m && m ≤ 0xA8) || (0xB0 ≤ m && m ≤ 0xB5)

/-- The operands of the instruction at which a split stands are free (R113). One that will trap before it reads them waits
for none. -/
def State.operandsFree (s : State) (k sp : Nat) : Bool :=
  match s.peek k sp with
  | none => true
  | some w =>
    match decode w with
    | .error _ => true
    | .ok i =>
      let t := { s with cur := k, curSplit := sp }
      !(t.scoreboarded i && t.operandsOk i && (t.maskCheck i).isNone && t.privOk i)

/-- A split is READY, its warp runs, and a save has not stopped it (R112, 17 R303). -/
def State.readyAt (s : State) (k sp : Nat) : Bool :=
  let x := (s.warpAt k).split sp
  (s.warpAt k).st == .run && x.st == .ready &&
    !((s.gangAt (s.blockAt (s.warpAt k).block).gang).preempt.isSome && x.safe.isSome)

/-- The next issue cycle of the scheduler of a slot: one instruction a cycle (R112). -/
def State.issueCycle (s : State) (k : Nat) : Nat := max s.cycle ((s.coreAt (k / 32)).next.get 0 (k % 32 / 8))

/-- A split that yielded waits until each other split that was READY has had its opportunity, or 16 cycles (R107). -/
def State.yieldBarred (s : State) (k sp : Nat) : Bool :=
  let x := (s.warpAt k).split sp
  s.issueCycle k < x.last + 16 && x.yielded.any fun p => s.readyAt p.1 p.2

/-- A candidate of its scheduler. -/
def State.candidate (s : State) (k sp : Nat) : Bool := s.readyAt k sp && !s.yieldBarred k sp && s.operandsFree k sp

/-- The live splits of a scheduler's warps, by slot and split. -/
def State.splitsOf (s : State) (q : Nat) : List (Nat × Nat) :=
  ((s.warps.entries.filter fun e => scheduler e.1 = q).map fun e => e.2.liveSplits.map fun p => (e.1, p.1)).flatten

/-- A candidate that has not issued for 4,096 cycles (R116). -/
def State.starved (s : State) (k sp : Nat) : Bool :=
  ((s.warpAt k).split sp).last + 4096 ≤ s.issueCycle k && s.candidate k sp

/-- The starved split that a scheduler issues first: the one that has waited longest, then of the lower slot (R116). -/
def State.firstStarved (s : State) (q : Nat) : Option (Nat × Nat) :=
  ((s.splitsOf q).filter fun p => s.starved p.1 p.2).foldl (fun (b : Option (Nat × Nat)) p =>
    match b with
    | none => some p
    | some r => if ((s.warpAt p.1).split p.2).last < ((s.warpAt r.1).split r.2).last then some p else b) none

/-- A warp may not issue memory instructions: the scores of its core's live warps exceed 256, and 8 of them have lower ones,
or equal ones in lower slots (R115). -/
def State.throttled (s : State) (k : Nat) : Bool :=
  let ws := s.warps.entries.filter fun e => e.1 / 32 = k / 32 && e.2.live
  let score (e : Nat × Warp) : Nat := e.2.lost.toNat
  let own := (s.warpAt k).lost.toNat
  256 < ((ws.map score).foldl (· + ·) 0) &&
    8 ≤ (ws.filter fun e => score e < own || (score e = own && e.1 < k)).length

/-- A candidate that R115 does not hold back. -/
def State.unthrottled (s : State) (k sp : Nat) : Bool :=
  s.candidate k sp && !(s.throttled k && (s.peek k sp).any memoryMajor)

/-- The split of a warp whose turn it is: the first after the one that issued last (R117). -/
def State.nextInWarp (s : State) (k : Nat) : Option Nat :=
  (((List.range 4).map fun i => ((s.warpAt k).lastSplit + 1 + i) % 4).find? fun i => s.unthrottled k i)

/-- A split may issue: the one that starves longest, or where none starves one whose turn it is in its warp. -/
def canIssue (s : State) (k sp : Nat) : Bool :=
  s.readyAt k sp &&
    match s.firstStarved (scheduler k) with
    | some p => p == (k, sp)
    | none => s.nextInWarp k == some sp

/-- Every other split of the scheduler that yielded counts this one's issue (R107). -/
def State.opportunity (s : State) (k sp : Nat) : State :=
  { s with warps := ⟨s.warps.entries.map fun e =>
      if scheduler e.1 = scheduler k then
        (e.1, { e.2 with splits := ⟨e.2.splits.entries.map fun p =>
          (p.1, { p.2 with yielded := if (e.1, p.1) = (k, sp) then [] else p.2.yielded.filter (· ≠ (k, sp)) })⟩ })
      else e⟩ }

/-- The split that issues, at its scheduler's next issue cycle, its code page's translation cached. -/
def prepare (s : State) (k sp : Nat) : State :=
  let now := s.issueCycle k
  let s := { s.opportunity k sp with cur := k, curSplit := sp, cycle := now }
  let x := s.coreAt s.coreNo
  let s := s.setCoreAt s.coreNo { x with next := x.next.set 0 (k % 32 / 8) (now + 1) }
  let s := s.setWarp { s.warp with lastSplit := sp }
  (s.touch s.warp.ctx).cache s.coreNo s.warp.ctx s.split.pc.toNat

/-- The live-mask word comes with the word that carries SP = 1 (03 R38). -/
def State.latch (s : State) (w : BitVec 32) : State :=
  s.setSplit { s.split with imask := if bitOf w 31 then s.fetchMask else none }

/-! ## What an access leaves in the TLBs and the L1 -/

/-- The aligned virtual addresses that an instruction of a thread accesses (11 R190, R197, R203, 04 R72). -/
def State.accessed (s : State) (i : Instr) : List Word :=
  let vec (n : Nat) (b : SNum) (o : VNum) : List Word := (s.lanes.map (s.ea b o)).filter fun a => a.toNat % n = 0
  let scal (n : Nat) (a : Word) : List Word := if a.toNat % n = 0 then [a] else []
  match i with
  | .sld _ _ a b w => scal (ldWidth w).1 (s.sreg a + s.sreg b)
  | .sst _ _ a b w => scal (stWidth w) (s.sreg a + s.sreg b)
  | .vld _ _ b o w => vec (ldWidth w).1 b o
  | .vst _ _ b o w => vec (stWidth w) b o
  | .vldAcqB32 _ _ b o _ => vec 4 b o
  | .vldAcqB64 _ _ b o _ => vec 8 b o
  | .vstRelB32 _ _ b o _ => vec 4 b o
  | .vstRelB64 _ _ b o _ => vec 8 b o
  | .vldScB32 _ _ b o _ => vec 4 b o
  | .vldScB64 _ _ b o _ => vec 8 b o
  | .vstScB32 _ _ b o _ => vec 4 b o
  | .vstScB64 _ _ b o _ => vec 8 b o
  | .vatomB32 _ _ b o _ => vec 4 b o
  | .vatomB64 _ _ b o _ => vec 8 b o
  | .vratomB32 _ _ b o _ => vec 4 b o
  | .vratomB64 _ _ b o _ => vec 8 b o
  | .satom _ _ a _ w _ => scal (if w then 8 else 4) (s.sreg a)
  | .mwait _ _ a _ _ => scal 8 (s.sreg a)
  | _ => []

/-- The lines of the L1 that a plain load reads: of global memory, or of the warp's private area, which is 128 bytes a row
(09 R160, R166). -/
def State.linesRead (s : State) (i : Instr) : List Nat :=
  let glob (cs : List Chk) : List Nat := if (s.waitStop false cs).isSome then [] else linesOf (cs.filterMap Chk.key)
  match i with
  | .sld _ _ a b w => glob [s.memChk .load (s.sreg a + s.sreg b) (ldWidth w).1]
  | .vld _ _ b o w => glob (s.lanes.map fun l => s.memChk .load (s.ea b o l) (ldWidth w).1)
  | .vldp _ _ b o w =>
    let cs := s.lanes.map fun l => (l, s.privChk (s.ea b o l) (ldWidth w).1)
    if (firstStop (cs.map Prod.snd)).isSome then []
    else cs.filterMap fun c => c.2.key.map fun k => 2 ^ 42 * (s.warp.uid + 1) + privAt c.1 k / 128
  | _ => []

/-- A line is read through the L1 of 2,048 lines. A miss brings it in; where the L1 is full a line that `choices` picks, the
oldest first, leaves it (log 82). A miss on a tag that the warp left raises its score (R115). -/
def State.throughL1 (s : State) (x : Nat) : State :=
  let k := s.coreAt s.coreNo
  if k.l1.contains x then s
  else
    let w := s.warp
    let hit := k.victims.contains (x, w.uid)
    let s := if hit then s.setWarp { w with lost := if w.lost = 0xFFFF#16 then w.lost else w.lost + 1 } else s
    let tags := k.victims.filter fun v => v.1 ≠ x
    if k.l1.length < 2048 then s.setCoreAt s.coreNo { k with l1 := k.l1 ++ [x], victims := tags }
    else
      let c := s.pick k.l1.length
      c.2.setCoreAt s.coreNo { k with l1 := k.l1.eraseIdx c.1 ++ [x], victims := tags ++ [(k.l1.getD c.1 0, w.uid)] }

/-- What an instruction that acts leaves in the TLBs and the L1. -/
def State.fill (s : State) (i : Instr) : State :=
  if (s.issueCheck i).isSome then s
  else ((s.linesRead i).eraseDups.foldl (fun (s : State) x => s.throughL1 x) s).cacheAll (s.accessed i)

end Sys2Proof.Machine
end

