-- ==== Sys2Proof/Machine/Numeric.lean ====
section
/-! DEFINITION. Floating-point formats, rounding, exact arithmetic, conversions and the functions of bounded accuracy
(06 R120 to R131). A finite number is a sign and a magnitude m x 2^e. -/

namespace Sys2Proof.Machine

/-! ## Formats (R120) -/

/-- A binary format: fraction bits and exponent bits. -/
structure Fmt where
  m : Nat
  eb : Nat
  deriving DecidableEq, Repr

namespace Fmt

/-- The four formats; F64 for a type that is not floating. -/
def of (t : ETy) : Fmt :=
  match t with
  | .f16 => ⟨10, 5⟩
  | .bf16 => ⟨7, 8⟩
  | .f32 => ⟨23, 8⟩
  | _ => ⟨52, 11⟩

/-- Width in bits. -/
def width (f : Fmt) : Nat := 1 + f.eb + f.m

/-- Exponent bias. -/
def bias (f : Fmt) : Nat := 2 ^ (f.eb - 1) - 1

/-- Exponent of the smallest normal number. -/
def emin (f : Fmt) : Int := 1 - (f.bias : Int)

/-- Pattern of +inf. -/
def infBits (f : Fmt) : Nat := (2 ^ f.eb - 1) * 2 ^ f.m

/-- The canonical NaN (R123). -/
def nan (f : Fmt) : Nat := f.infBits + 2 ^ (f.m - 1)

/-- A magnitude's pattern with a sign. -/
def signed (f : Fmt) (neg : Bool) (n : Nat) : Nat := if neg then n + 2 ^ (f.eb + f.m) else n

end Fmt

/-- A floating-point datum. -/
inductive FVal where
  | nan (signalling : Bool)
  | inf (neg : Bool)
  | fin (neg : Bool) (m : Nat) (e : Int)
  deriving DecidableEq, Repr

/-- The sign of a pattern. -/
def signOf (f : Fmt) (n : Nat) : Bool := n / 2 ^ (f.eb + f.m) % 2 == 1

/-- The datum of a pattern (R120). -/
def decodeF (f : Fmt) (n : Nat) : FVal :=
  let e := n / 2 ^ f.m % 2 ^ f.eb
  let r := n % 2 ^ f.m
  if e = 2 ^ f.eb - 1 then
    if r = 0 then .inf (signOf f n) else .nan (r / 2 ^ (f.m - 1) == 0)
  else if e = 0 then .fin (signOf f n) r (f.emin - f.m)
  else .fin (signOf f n) (2 ^ f.m + r) (f.emin - f.m + (e - 1 : Nat))

/-- A result with the flags it sets. -/
abbrev Res := Nat × FlagBits

/-! ## Rounding (R121, R122) -/

/-- `m / 2^sh`, with a further part below it where `sticky`, rounded to an integer: the magnitude and whether it is
inexact. -/
def roundShift (rnd : Nat) (neg : Bool) (m sh : Nat) (sticky : Bool) : Nat × Bool :=
  let k := m / 2 ^ sh
  let r := m % 2 ^ sh
  let inexact := r ≠ 0 || sticky
  let above := 2 ^ sh < 2 * r || (2 * r = 2 ^ sh && sticky)
  let tie := 2 * r = 2 ^ sh && !sticky
  let up := match rnd with
    | 0 => above || (tie && k % 2 = 1)
    | 1 => false
    | 2 => inexact && !neg
    | 3 => inexact && neg
    | _ => above || tie
  (if up then k + 1 else k, inexact)

/-- The same to a multiple of 2^q: the multiplier. -/
def roundAt (rnd : Nat) (neg : Bool) (m : Nat) (e q : Int) (sticky : Bool) : Nat × Bool :=
  if q ≤ e then (m * 2 ^ (e - q).toNat, sticky) else roundShift rnd neg m (q - e).toNat sticky

/-- The delivered pattern and flags of an overflow (R122). -/
def overflow (f : Fmt) (rnd : Nat) (neg : Bool) : Res :=
  let toInf := match rnd with
    | 1 => false
    | 2 => !neg
    | 3 => neg
    | _ => true
  (f.signed neg (if toInf then f.infBits else f.infBits - 1), fOVF ||| fINX)

/-- The exact magnitude m x 2^e, with a further part below its last bit where `sticky`, rounded once to a format.
Where `sticky`, m has more bits than the format keeps. -/
def roundTo (f : Fmt) (rnd : Nat) (neg : Bool) (m : Nat) (e : Int) (sticky : Bool) : Res :=
  if m = 0 then (f.signed neg 0, 0#32)
  else
    let lg : Int := (m.log2 : Int) + e
    let q := max lg f.emin - f.m
    let r := roundAt rnd neg m e q sticky
    let n := (q - (f.emin - f.m)).toNat * 2 ^ f.m + r.1
    if f.infBits ≤ n then overflow f rnd neg
    else
      let u := roundAt rnd neg m e (lg - f.m) sticky
      let tiny := lg < f.emin && !(lg = f.emin - 1 && u.1 = 2 ^ (f.m + 1))
      (f.signed neg n, flagIf r.2 fINX ||| flagIf (tiny && r.2) fUNF)

/-! ## Exact sums and products (R136) -/

/-- A finite addend. -/
structure Addend where
  neg : Bool
  m : Nat
  e : Int
  deriving DecidableEq, Repr

/-- The least exponent of a list of addends. -/
def leastExp : List Addend → Int
  | [] => 0
  | [a] => a.e
  | a :: t => min a.e (leastExp t)

/-- The exact sum of addends in units of 2^e0. -/
def sumUnits (e0 : Int) : List Addend → Int
  | [] => 0
  | a :: t => (if a.neg then -((a.m * 2 ^ (a.e - e0).toNat : Nat) : Int) else (a.m * 2 ^ (a.e - e0).toNat : Nat)) +
      sumUnits e0 t

/-- The exact sum of finite addends rounded once. A zero has the addends' sign where they agree, else it is +0, or -0
under RDN (R122). -/
def sumFin (f : Fmt) (rnd : Nat) (xs : List Addend) : Res :=
  let e0 := leastExp xs
  let t := sumUnits e0 xs
  if t = 0 then
    if xs.all fun a => a.neg then (f.signed true 0, 0#32)
    else if xs.all fun a => !a.neg then (0, 0#32)
    else (f.signed (rnd = 3) 0, 0#32)
  else roundTo f rnd (decide (t < 0)) t.natAbs e0 false

/-- Any datum is a signalling NaN. -/
def anySnan (xs : List FVal) : Bool := xs.any fun x => x == .nan true

/-- Any datum is a NaN. -/
def anyNan (xs : List FVal) : Bool :=
  xs.any fun x => match x with
    | .nan _ => true
    | _ => false

/-- A NaN result: canonical, with INV where an input is a signalling NaN. -/
def nanRes (f : Fmt) (xs : List FVal) : Res := (f.nan, flagIf (anySnan xs) fINV)

/-- The finite data as addends. -/
def addends (xs : List FVal) : List Addend :=
  xs.filterMap fun x => match x with
    | .fin n m e => some ⟨n, m, e⟩
    | _ => none

/-- The sum of data of one format (R136, R148). -/
def sumF (f : Fmt) (rnd : Nat) (xs : List FVal) : Res :=
  let pos := xs.contains (.inf false)
  let neg := xs.contains (.inf true)
  if anyNan xs then nanRes f xs
  else if pos && neg then (f.nan, fINV)
  else if pos then (f.infBits, 0#32)
  else if neg then (f.signed true f.infBits, 0#32)
  else sumFin f rnd (addends xs)

/-- The other sign. -/
def FVal.negate (x : FVal) : FVal :=
  match x with
  | .nan s => .nan s
  | .inf n => .inf !n
  | .fin n m e => .fin (!n) m e

/-- `vadd` (R136). -/
def addF (f : Fmt) (rnd a b : Nat) : Res := sumF f rnd [decodeF f a, decodeF f b]

/-- `vsub` (R136). -/
def subF (f : Fmt) (rnd a b : Nat) : Res := sumF f rnd [decodeF f a, (decodeF f b).negate]

/-- The exact product of two data that are no NaN; none for 0 x inf. -/
def mulV (x y : FVal) : Option FVal :=
  match x, y with
  | .fin n m e, .fin k l g => some (.fin (n != k) (m * l) (e + g))
  | .inf n, .inf k => some (.inf (n != k))
  | .inf n, .fin k l _ => if l = 0 then none else some (.inf (n != k))
  | .fin n m _, .inf k => if m = 0 then none else some (.inf (n != k))
  | _, _ => none

/-- `vmul` (R136). -/
def mulF (f : Fmt) (rnd a b : Nat) : Res :=
  let x := decodeF f a
  let y := decodeF f b
  if anyNan [x, y] then nanRes f [x, y]
  else
    match mulV x y with
    | none => (f.nan, fINV)
    | some (.fin n m e) => roundTo f rnd n m e false
    | some (.inf n) => (f.signed n f.infBits, 0#32)
    | some (.nan _) => (f.nan, 0#32)

/-- `vfma` (R136): 0 x inf sets INV even where the addend is a NaN. -/
def fmaF (f : Fmt) (rnd a b d : Nat) : Res :=
  let x := decodeF f a
  let y := decodeF f b
  let z := decodeF f d
  if anyNan [x, y] then nanRes f [x, y, z]
  else
    match mulV x y with
    | none => (f.nan, fINV)
    | some p => if anyNan [z] then nanRes f [z] else sumF f rnd [p, z]

/-- `vdiv` (R136). -/
def divF (f : Fmt) (rnd a b : Nat) : Res :=
  let x := decodeF f a
  let y := decodeF f b
  if anyNan [x, y] then nanRes f [x, y]
  else
    match x, y with
    | .inf _, .inf _ => (f.nan, fINV)
    | .inf n, .fin k _ _ => (f.signed (n != k) f.infBits, 0#32)
    | .fin n _ _, .inf k => (f.signed (n != k) 0, 0#32)
    | .fin n m e, .fin k l g =>
      if l = 0 then (if m = 0 then (f.nan, fINV) else (f.signed (n != k) f.infBits, fDZ))
      else
        let sh := f.m + 4 + l.log2
        let q := m * 2 ^ sh / l
        roundTo f rnd (n != k) q (e - g - sh) (m * 2 ^ sh % l ≠ 0)
    | _, _ => (f.nan, 0#32)

/-- The integer square root below 2^k, bit by bit. -/
def isqrt : Nat → Nat → Nat → Nat
  | 0, _, r => r
  | k + 1, n, r => isqrt k n (if (r + 2 ^ k) * (r + 2 ^ k) ≤ n then r + 2 ^ k else r)

/-- The floor of the square root. -/
def sqrtNat (n : Nat) : Nat := isqrt (n.log2 / 2 + 1) n 0

/-- m x 2^e as m' x 2^(2h) with m' of at least `bits` bits. -/
def evenScale (m : Nat) (e : Int) (bits : Nat) : Nat × Int :=
  let sh := bits + (if (e - bits) % 2 = 0 then 0 else 1)
  (m * 2 ^ sh, (e - sh) / 2)

/-- `vsqrt` (R130, R131). -/
def sqrtF (f : Fmt) (rnd a : Nat) : Res :=
  match decodeF f a with
  | .nan s => (f.nan, flagIf s fINV)
  | .inf n => if n then (f.nan, fINV) else (f.infBits, 0#32)
  | .fin n m e =>
    if m = 0 then (f.signed n 0, 0#32)
    else if n then (f.nan, fINV)
    else
      let x := evenScale m e (2 * f.m + 8)
      let r := sqrtNat x.1
      roundTo f rnd false r x.2 (r * r ≠ x.1)

/-! ## Minimum, maximum and comparison (R137, R141) -/

/-- A key that orders the patterns of numbers, -0 below +0. -/
def orderKey (f : Fmt) (n : Nat) : Int :=
  let mag : Nat := n % 2 ^ (f.eb + f.m)
  if signOf f n then -(mag : Int) - 1 else mag

/-- The minimum or maximum of data given as patterns: NaNs drop out; the canonical NaN where all are NaNs (R137,
R148). -/
def extremeF (f : Fmt) (isMin : Bool) (xs : List Nat) : Res :=
  let ds := xs.map (decodeF f)
  let nums := xs.filter fun n => !anyNan [decodeF f n]
  let best := match nums with
    | [] => f.nan
    | x :: t => t.foldl (fun b y =>
        if isMin then (if orderKey f y < orderKey f b then y else b)
        else (if orderKey f b < orderKey f y then y else b)) x
  (best, flagIf (anySnan ds) fINV)

/-- The conditions of `vcmp` under a floating type, and INV (R141). -/
def compareF (f : Fmt) (c : VCond) (a b : Nat) : Bool × FlagBits :=
  let x := decodeF f a
  let y := decodeF f b
  let un := anyNan [x, y]
  let zero (n : Nat) : Bool := n % 2 ^ (f.eb + f.m) = 0
  let eq := !un && (a = b || (zero a && zero b))
  let lt := !un && !eq && orderKey f a < orderKey f b
  let v := match c with
    | .eq => eq
    | .ne => !eq
    | .lt => lt
    | .le => lt || eq
    | .gt => !un && !eq && !lt
    | .ge => !un && !lt
    | .un => un
    | .ord => !un
  let inv := match c with
    | .lt | .le | .gt | .ge => un
    | .eq | .ne | .un | .ord => anySnan [x, y]
  (v, flagIf inv fINV)

/-! ## Conversions (R129) -/

/-- An integer rounded to a format. -/
def intToF (f : Fmt) (rnd : Nat) (x : Int) : Res := roundTo f rnd (decide (x < 0)) x.natAbs 0 false

/-- Range of an integer type. -/
def intMin (t : ETy) : Int := if t.unsigned then 0 else -(2 ^ (t.width - 1) : Nat)
/-- Range of an integer type. -/
def intMax (t : ETy) : Int := if t.unsigned then (2 ^ t.width : Nat) - 1 else (2 ^ (t.width - 1) : Nat) - 1

/-- Float to integer: saturates whatever SAT holds. -/
def floatToInt (f : Fmt) (rnd : Nat) (t : ETy) (n : Nat) : Res :=
  match decodeF f n with
  | .nan _ => (0, fCVTN ||| fINV)
  | .inf s => (truncInt t.width (if s then intMin t else intMax t), fISAT)
  | .fin s m e =>
    let r := roundAt rnd s m e 0 false
    let y : Int := if s then -(r.1 : Int) else r.1
    let inx := flagIf r.2 fINX
    if y < intMin t then (truncInt t.width (intMin t), fISAT ||| inx)
    else if intMax t < y then (truncInt t.width (intMax t), fISAT ||| inx)
    else (truncInt t.width y, inx)

/-- Float to float: exact to a wider format, else rounded once; NaNs are canonical. -/
def floatToFloat (f g : Fmt) (rnd n : Nat) : Res :=
  match decodeF f n with
  | .nan s => (g.nan, flagIf s fINV)
  | .inf s => (g.signed s g.infBits, 0#32)
  | .fin s m e => roundTo g rnd s m e false

/-- `cvt(x, from, to)` (R129) on patterns. -/
def convert (src dst : ETy) (sat : Bool) (rnd n : Nat) : Res :=
  if src = dst then (n, 0#32)
  else if src.float then
    if dst.float then floatToFloat (Fmt.of src) (Fmt.of dst) rnd n else floatToInt (Fmt.of src) rnd dst n
  else
    let x := valOf src src.width n
    if dst.float then intToF (Fmt.of dst) rnd x else deliverInt dst dst.width sat true x

/-! ## Functions of bounded accuracy (R130, R131)

An exact result y lies between lo x 2^x and hi x 2^x. The delivered value is one of those within the rule's bound of every
number of that interval, and which one is open: `Config.funcPick` chooses. The intervals are so narrow that this leaves out
no value within the bound of y (log 38). -/

/-- The index, in the order of the magnitudes of a format, of the largest at or below v x 2^x, and whether it is
exact. -/
def indexBelow (f : Fmt) (v : Nat) (x : Int) : Nat × Bool :=
  if v = 0 then (0, true)
  else
    let q := max ((v.log2 : Int) + x) f.emin - f.m
    let r := roundAt 1 false v x q false
    (min ((q - (f.emin - f.m)).toNat * 2 ^ f.m + r.1) f.infBits, !r.2)

/-- The least and greatest index, negative magnitudes having negative ones, of the values between two numbers. -/
def indexRange (f : Fmt) (a b : Int) (x : Int) : Int × Int :=
  let down (v : Int) : Int :=
    if 0 ≤ v then (indexBelow f v.toNat x).1
    else let r := indexBelow f v.natAbs x; if r.2 then -(r.1 : Int) else -(r.1 : Int) - 1
  let up (v : Int) : Int :=
    if 0 ≤ v then (let r := indexBelow f v.toNat x; if r.2 then (r.1 : Int) else (r.1 : Int) + 1)
    else -((indexBelow f v.natAbs x).1 : Int)
  (up a, down b)

/-- A value within `b` ulp of an exact result that no value of the format equals, whose magnitude lies between lo x
2^x and hi x 2^x. `pick` is the open choice. The ulp is that of the smallest such magnitude. UNF says that the delivered
value is subnormal or zero (log 38). -/
def within (f : Fmt) (b : Nat) (neg : Bool) (lo hi : Nat) (x : Int) (pick : Nat) : Res :=
  let u := max ((lo.log2 : Int) + x) f.emin - f.m
  let d : Nat := b * 2 ^ (u - x).toNat
  let r := indexRange f ((hi : Int) - d) ((lo : Int) + d) x
  let top : Int := f.infBits
  let i := min (r.1 + (pick % (r.2 - r.1 + 1).toNat : Nat)) top
  let n := i.natAbs
  (f.signed (if n = 0 then neg else (decide (i < 0)) != neg) n,
    fINX ||| flagIf (i = top) fOVF ||| flagIf (decide (n < 2 ^ f.m)) fUNF)

/-- 2^h divided by the odd part of a magnitude: 1 / (m x 2^e) as an interval. -/
def rcpF (f : Fmt) (b a pick : Nat) : Res :=
  match decodeF f a with
  | .nan s => (f.nan, flagIf s fINV)
  | .inf n => (f.signed n 0, 0#32)
  | .fin n m e =>
    if m = 0 then (f.signed n f.infBits, fDZ)
    else if m = 2 ^ m.log2 then
      let r := roundTo f 0 n 1 (-e - m.log2) false
      r
    else
      let q := 2 ^ (256 + m.log2) / m
      within f b n q (q + 1) (-e - m.log2 - 256) pick

/-- `vrsq`: 1 / sqrt a. -/
def rsqF (f : Fmt) (b a pick : Nat) : Res :=
  match decodeF f a with
  | .nan s => (f.nan, flagIf s fINV)
  | .inf n => if n then (f.nan, fINV) else (0, 0#32)
  | .fin n m e =>
    if m = 0 then (f.signed n f.infBits, fDZ)
    else if n then (f.nan, fINV)
    else
      -- m x 2^e = o x 2^(2h) with o below 4 x 2^(bits of m)
      let h := e / 2
      let o := if e % 2 = 0 then m else 2 * m
      if o = 2 ^ o.log2 && o.log2 % 2 = 0 then roundTo f 0 false 1 (-h - (o.log2 / 2 : Nat)) false
      else
        let k := 256 + o.log2
        let r := sqrtNat (2 ^ (2 * k) / o)
        within f b false r (r + 1) (-h - k) pick

/-- The sum of z^k / k! from k = `n` down, in units of 2^-p: Horner's rule. -/
def expHorner (p z : Nat) : Nat → Nat → Nat
  | 0, acc => acc
  | k + 1, acc => expHorner p z k (2 ^ p + acc * z / 2 ^ p / (k + 1))

/-- The sum of 1 / (k x 2^k) for k up to n, in units of 2^-p: ln 2 from below. -/
def ln2Sum (p : Nat) : Nat → Nat
  | 0 => 0
  | k + 1 => 2 ^ p / ((k + 1) * 2 ^ (k + 1)) + ln2Sum p k

/-- `vexp2`: 2^a. -/
def exp2F (f : Fmt) (b a pick : Nat) : Res :=
  match decodeF f a with
  | .nan s => (f.nan, flagIf s fINV)
  | .inf n => if n then (0, 0#32) else (f.infBits, 0#32)
  | .fin n m e =>
    let p : Nat := 256
    -- a as an integer part and a fraction of p bits from below, held to +-8192
    let big := 13 ≤ (m.log2 : Int) + e
    let whole := roundAt 1 false m e 0 false
    let fx := roundAt 1 false m e (-p) false
    if big && m ≠ 0 then (if n then within f b false 0 1 (-9000) pick else overflow f 0 false)
    else if !whole.2 then
      let k : Int := if n then -(whole.1 : Int) else whole.1
      let r := roundTo f 0 false 1 k false
      if r.2 = 0#32 then r
      else if 0 < k then r
      else within f b false (2 ^ p) (2 ^ p) (k - p) pick
    else
      let v : Int := if n then -(fx.1 : Int) - (if fx.2 then 1 else 0) else fx.1
      let k := v / (2 ^ p : Nat)
      let z := (v % (2 ^ p : Nat)).toNat
      let t := z * ln2Sum p 300 / 2 ^ p
      let lo := expHorner p t 80 (2 ^ p)
      within f b false (max (2 ^ p) (lo - 1)) (min (2 ^ (p + 1) - 1) (lo + 4096)) (k - p) pick

/-- The sum of z^(2i + 1) / (2i + 1) in units of 2^-p, from the i-th term on; `zz` is z^2. -/
def atanhSum (p zz : Nat) : Nat → Nat → Nat → Nat
  | 0, _, _ => 0
  | k + 1, i, t => t / (2 * i + 1) + atanhSum p zz k (i + 1) (t * zz / 2 ^ p)

/-- `vlog2`: log2 a. -/
def log2F (f : Fmt) (b a pick : Nat) : Res :=
  match decodeF f a with
  | .nan s => (f.nan, flagIf s fINV)
  | .inf n => if n then (f.nan, fINV) else (f.infBits, 0#32)
  | .fin n m e =>
    if m = 0 then (f.signed true f.infBits, fDZ)
    else if n then (f.nan, fINV)
    else
      let k : Int := e + m.log2
      if m = 2 ^ m.log2 then intToF f 0 k
      else
        let p : Nat := 256
        let t := m * 2 ^ (p - m.log2)
        let z := (t - 2 ^ p) * 2 ^ p / (t + 2 ^ p)
        let l := 2 * atanhSum p (z * z / 2 ^ p) 90 0 z * 2 ^ p / ln2Sum p 300
        let lo : Int := k * (2 ^ p : Nat) + (l : Int) - 4096
        let hi : Int := k * (2 ^ p : Nat) + (l : Int) + 4096
        if 0 ≤ lo then within f b false lo.toNat hi.toNat (-p) pick
        else within f b true hi.natAbs lo.natAbs (-p) pick

/-- The alternating sum of 1 / ((2i + 1) x^(2i + 1)) in units of 2^-p; `t` is 1 / x^(2i + 1). -/
def atanInv (x : Nat) : Nat → Nat → Nat → Int
  | 0, _, _ => 0
  | k + 1, i, t => (if i % 2 = 0 then ((t / (2 * i + 1) : Nat) : Int) else -((t / (2 * i + 1) : Nat) : Int)) +
      atanInv x k (i + 1) (t / (x * x))

/-- pi / 2 in units of 2^-p, within 2^12 units (Machin's formula). -/
def halfPi (p : Nat) : Nat :=
  (8 * atanInv 5 (p / 4 + 4) 0 (2 ^ p / 5) - 2 * atanInv 239 (p / 15 + 4) 0 (2 ^ p / 239)).toNat

/-- The alternating series of sine (from z) or cosine (from 1) in units of 2^-p: term `t` over the next two factors. -/
def trigSum (p zz : Nat) : Nat → Nat → Int → Int
  | 0, _, _ => 0
  | k + 1, i, t => t + trigSum p zz k (i + 2) (-(t * zz / (2 ^ p : Nat) / ((i + 1) * (i + 2) : Nat)))

/-- `vsin` (`quarter` 0) and `vcos` (`quarter` 1) of a finite non-zero number: the reduction by multiples of pi / 2,
then the series. -/
def trigF (f : Fmt) (b : Nat) (cosine : Bool) (n : Bool) (m : Nat) (e : Int) (pick : Nat) : Res :=
  let p : Nat := 1500
  let hp := halfPi p
  -- |a| in units of 2^-p from below; 2^-p is below every ulp
  let x := (roundAt 1 false m e (-p) false).1
  let k := x / hp
  let r := x - k * hp
  let q := (k + if cosine then 1 else 0) % 4
  let zz := r * r / 2 ^ p
  let s := if q % 2 = 0 then trigSum p zz 150 1 r else trigSum p zz 150 0 (2 ^ p : Nat)
  -- the error of pi, multiplied by k, is below 2^(1024 + 13)
  let slack : Int := if k = 0 then 2 ^ 13 else (2 ^ (k.log2 + 14) : Nat)
  let lo := (max (s - slack) 0).toNat
  let hi := (min (s + slack) ((2 ^ p : Nat) - 1)).toNat
  -- the sine of a number is smaller than the number
  let hi := if k = 0 && !cosine then min hi x else hi
  within f b ((2 ≤ q) != (n && !cosine)) lo hi (-p) pick

/-- `vsin`. -/
def sinF (f : Fmt) (b a pick : Nat) : Res :=
  match decodeF f a with
  | .nan s => (f.nan, flagIf s fINV)
  | .inf _ => (f.nan, fINV)
  | .fin n m e => if m = 0 then (f.signed n 0, 0#32) else trigF f b false n m e pick

/-- `vcos`. -/
def cosF (f : Fmt) (b a pick : Nat) : Res :=
  match decodeF f a with
  | .nan s => (f.nan, flagIf s fINV)
  | .inf _ => (f.nan, fINV)
  | .fin n m e => if m = 0 then (f.bias * 2 ^ f.m, 0#32) else trigF f b true n m e pick

/-- The bound of R130 in ulps, for every function but `vrcp`. -/
def ulpBound (t : ETy) : Nat :=
  match t with
  | .f32 | .f64 => 2
  | _ => 1

/-! ## Lane forms (R119, R120) -/

/-- The lane form of an element's w-bit pattern: bits [31:w] are copies of bit w - 1 under an I type, else zeros. -/
def laneForm (t : ETy) (n : Nat) : Nat :=
  let w := t.width
  let u := n % 2 ^ w
  if t.int && !t.unsigned && w < 32 then u + (if u / 2 ^ (w - 1) % 2 = 1 then 2 ^ 32 - 2 ^ w else 0) else u

end Sys2Proof.Machine
end

