-- ==== Sys2Proof/Machine/VectorArith.lean ====
section
/-! DEFINITION. Vector arithmetic, bits, conversion, comparison and moves (07 R132 to R143). -/

namespace Sys2Proof.Machine

/-! ## The lane-wise effect (R132, R133) -/

/-- Writes a result of type `t` in each participating lane, in increasing order, with its label, and gathers the flags
and the labels. -/
def putLanes (t : ETy) (d : VNum) (v : Nat → Res) (lb : Nat → Label) : List Nat → State → FlagBits → Label →
    State × FlagBits × Label
  | [], s, fl, ls => (s, fl, ls)
  | l :: rest, s, fl, ls =>
    putLanes t d v lb rest (s.setV t.wide d.toNat l (laneForm t (v l).1) (lb l)) (fl ||| (v l).2) (ls ||| lb l)

/-- The effect of R132: each lane's value `v` and operand label `lb`, the destination of type `t`. Where the instruction
names a flag, FLAGS and FLBL follow (R133). -/
def vecEffect (p : Bool) (t : ETy) (d : VNum) (named : Bool) (v : Nat → Res) (lb : Nat → Label) (s : State) : State :=
  let c := s.pcl ||| s.guardLbl
  let r := putLanes t d v (fun l => c ||| lb l) s.lanes s 0#32 0#16
  (if named then r.1.setFlags r.2.1 r.2.2 else r.1).advance p

/-- The element of a register in a lane: its w-bit pattern. -/
def State.elem (s : State) (t : ETy) (r : VNum) (l : Nat) : Nat := s.velt t.wide r.toNat l % 2 ^ t.width

/-- The label of an element. -/
def State.elemLbl (s : State) (t : ETy) (r : VNum) (l : Nat) : Label := s.vlbl t.wide r.toNat l

/-- One source register under TYPE. -/
def vec1 (p : Bool) (d a : VNum) (named : Bool) (f : ETy → Nat → Res) (s : State) : State :=
  let t := s.ty
  vecEffect p t d named (fun l => f t (s.elem t a l)) (fun l => s.elemLbl t a l) s

/-- Two source registers under TYPE. -/
def vec2 (p : Bool) (d a b : VNum) (named : Bool) (f : ETy → Nat → Nat → Res) (s : State) : State :=
  let t := s.ty
  vecEffect p t d named (fun l => f t (s.elem t a l) (s.elem t b l)) (fun l => s.elemLbl t a l ||| s.elemLbl t b l) s

/-- Two source registers and the destination as a third source. -/
def vec3 (p : Bool) (d a b : VNum) (named : Bool) (f : ETy → Nat → Nat → Nat → Res) (s : State) : State :=
  let t := s.ty
  vecEffect p t d named (fun l => f t (s.elem t a l) (s.elem t b l) (s.elem t d l))
    (fun l => s.elemLbl t a l ||| s.elemLbl t b l ||| s.elemLbl t d l) s

/-- An exact integer result of R135 delivered at TYPE. -/
def intRes (s : State) (saturates : Bool) (t : ETy) (e : Int) : Res := deliverInt t t.width s.sat saturates e

/-- `val` of an element at its own width. -/
def ival (t : ETy) (n : Nat) : Int := valOf t t.width n

/-! ## Arithmetic (R135 to R137) -/

/-- `vadd` (R135, R136). -/
def execVadd (p : Bool) (d a b : VNum) (s : State) : Host.Outcome State Fault Refusal :=
  word (.vadd p d a b) s fun s =>
    .ok (vec2 p d a b true (fun t x y => if t.float then addF (Fmt.of t) s.rnd x y else intRes s true t (ival t x + ival t y)) s)

/-- `vsub` (R135, R136). -/
def execVsub (p : Bool) (d a b : VNum) (s : State) : Host.Outcome State Fault Refusal :=
  word (.vsub p d a b) s fun s =>
    .ok (vec2 p d a b true (fun t x y => if t.float then subF (Fmt.of t) s.rnd x y else intRes s true t (ival t x - ival t y)) s)

/-- `vmul` (R135, R136). -/
def execVmul (p : Bool) (d a b : VNum) (s : State) : Host.Outcome State Fault Refusal :=
  word (.vmul p d a b) s fun s =>
    .ok (vec2 p d a b true (fun t x y => if t.float then mulF (Fmt.of t) s.rnd x y else intRes s true t (ival t x * ival t y)) s)

/-- `vmulh` (R135). -/
def execVmulh (p : Bool) (d a b : VNum) (s : State) : Host.Outcome State Fault Refusal :=
  word (.vmulh p d a b) s fun s =>
    .ok (vec2 p d a b false (fun t x y => intRes s false t (ival t x * ival t y / (2 ^ t.width : Nat))) s)

/-- `vmad` (R135). -/
def execVmad (p : Bool) (d a b : VNum) (s : State) : Host.Outcome State Fault Refusal :=
  word (.vmad p d a b) s fun s =>
    .ok (vec3 p d a b true (fun t x y z => intRes s true t (ival t z + ival t x * ival t y)) s)

/-- `vfma` (R136). -/
def execVfma (p : Bool) (d a b : VNum) (s : State) : Host.Outcome State Fault Refusal :=
  word (.vfma p d a b) s fun s =>
    .ok (vec3 p d a b true (fun t x y z => fmaF (Fmt.of t) s.rnd x y z) s)

/-- `vmin` (R135, R137). -/
def execVmin (p : Bool) (d a b : VNum) (s : State) : Host.Outcome State Fault Refusal :=
  word (.vmin p d a b) s fun s =>
    .ok (vec2 p d a b s.ty.float (fun t x y => if t.float then extremeF (Fmt.of t) true [x, y] else intRes s false t (min (ival t x) (ival t y))) s)

/-- `vmax` (R135, R137). -/
def execVmax (p : Bool) (d a b : VNum) (s : State) : Host.Outcome State Fault Refusal :=
  word (.vmax p d a b) s fun s =>
    .ok (vec2 p d a b s.ty.float (fun t x y => if t.float then extremeF (Fmt.of t) false [x, y] else intRes s false t (max (ival t x) (ival t y))) s)

/-- The sign bit of a floating pattern cleared. -/
def clearSign (t : ETy) (n : Nat) : Nat := n % 2 ^ (t.width - 1)

/-- The sign bit of a floating pattern inverted. -/
def flipSign (t : ETy) (n : Nat) : Nat := if n < 2 ^ (t.width - 1) then n + 2 ^ (t.width - 1) else n - 2 ^ (t.width - 1)

/-- `vabs` (R135, R137). -/
def execVabs (p : Bool) (d a : VNum) (s : State) : Host.Outcome State Fault Refusal :=
  word (.vabs p d a) s fun s =>
    .ok (vec1 p d a s.ty.int (fun t x => if t.float then (clearSign t x, 0#32) else intRes s true t ((ival t x).natAbs : Int)) s)

/-- `vneg` (R135, R137). -/
def execVneg (p : Bool) (d a : VNum) (s : State) : Host.Outcome State Fault Refusal :=
  word (.vneg p d a) s fun s =>
    .ok (vec1 p d a s.ty.int (fun t x => if t.float then (flipSign t x, 0#32) else intRes s true t (-ival t x)) s)

/-- The integer quotient of R135 with its flags. -/
def divRes (s : State) (t : ETy) (x y : Nat) : Res :=
  let r := intRes s true t (quotient t.unsigned t.width (ival t x) (ival t y))
  (r.1, r.2 ||| flagIf (ival t y = 0) fIDIVZ)

/-- `vdiv` (R135, R136). -/
def execVdiv (p : Bool) (d a b : VNum) (s : State) : Host.Outcome State Fault Refusal :=
  word (.vdiv p d a b) s fun s =>
    .ok (vec2 p d a b true (fun t x y => if t.float then divF (Fmt.of t) s.rnd x y else divRes s t x y) s)

/-- `vsqrt` (R131, R136). -/
def execVsqrt (p : Bool) (d a : VNum) (s : State) : Host.Outcome State Fault Refusal :=
  word (.vsqrt p d a) s fun s =>
    .ok (vec1 p d a true (fun t x => sqrtF (Fmt.of t) s.rnd x) s)

/-- `vrcp` (R130, R131): the value within its bound is open (log 6). -/
def execVrcp (p : Bool) (d a : VNum) (s : State) : Host.Outcome State Fault Refusal :=
  word (.vrcp p d a) s fun s =>
    .ok (vec1 p d a true (fun t x => rcpF (Fmt.of t) 1 x (Config.funcPick 0 t.code x)) s)

/-- `vrsq` (R130, R131): the value within its bound is open (log 6). -/
def execVrsq (p : Bool) (d a : VNum) (s : State) : Host.Outcome State Fault Refusal :=
  word (.vrsq p d a) s fun s =>
    .ok (vec1 p d a true (fun t x => rsqF (Fmt.of t) (ulpBound t) x (Config.funcPick 1 t.code x)) s)

/-- `vexp2` (R130, R131): the value within its bound is open (log 6). -/
def execVexp2 (p : Bool) (d a : VNum) (s : State) : Host.Outcome State Fault Refusal :=
  word (.vexp2 p d a) s fun s =>
    .ok (vec1 p d a true (fun t x => exp2F (Fmt.of t) (ulpBound t) x (Config.funcPick 2 t.code x)) s)

/-- `vlog2` (R130, R131): the value within its bound is open (log 6). -/
def execVlog2 (p : Bool) (d a : VNum) (s : State) : Host.Outcome State Fault Refusal :=
  word (.vlog2 p d a) s fun s =>
    .ok (vec1 p d a true (fun t x => log2F (Fmt.of t) (ulpBound t) x (Config.funcPick 3 t.code x)) s)

/-- `vsin` (R130, R131): the value within its bound is open (log 6). -/
def execVsin (p : Bool) (d a : VNum) (s : State) : Host.Outcome State Fault Refusal :=
  word (.vsin p d a) s fun s =>
    .ok (vec1 p d a true (fun t x => sinF (Fmt.of t) (ulpBound t) x (Config.funcPick 4 t.code x)) s)

/-- `vcos` (R130, R131): the value within its bound is open (log 6). -/
def execVcos (p : Bool) (d a : VNum) (s : State) : Host.Outcome State Fault Refusal :=
  word (.vcos p d a) s fun s =>
    .ok (vec1 p d a true (fun t x => cosF (Fmt.of t) (ulpBound t) x (Config.funcPick 5 t.code x)) s)

/-- `vcvt` (R140): the source is MODE.TYPE, the destination type `t'`. -/
def execVcvt (p : Bool) (d a : VNum) (t' : ETy) (s : State) : Host.Outcome State Fault Refusal :=
  word (.vcvt p d a t') s fun s =>
    .ok (vecEffect p t' d true (fun l => convert s.ty t' s.sat s.rnd (s.elem s.ty a l)) (fun l => s.elemLbl s.ty a l) s)

/-! ## Bits, shifts and fields (R138, R139) -/

/-- `vand` (R138). -/
def execVand (p : Bool) (d a b : VNum) (s : State) : Host.Outcome State Fault Refusal :=
  word (.vand p d a b) s fun s =>
    .ok (vec2 p d a b false (fun _ x y => (x &&& y, 0#32)) s)

/-- `vor` (R138). -/
def execVor (p : Bool) (d a b : VNum) (s : State) : Host.Outcome State Fault Refusal :=
  word (.vor p d a b) s fun s =>
    .ok (vec2 p d a b false (fun _ x y => (x ||| y, 0#32)) s)

/-- `vxor` (R138). -/
def execVxor (p : Bool) (d a b : VNum) (s : State) : Host.Outcome State Fault Refusal :=
  word (.vxor p d a b) s fun s =>
    .ok (vec2 p d a b false (fun _ x y => (x ^^^ y, 0#32)) s)

/-- `vnot` (R138). -/
def execVnot (p : Bool) (d a : VNum) (s : State) : Host.Outcome State Fault Refusal :=
  word (.vnot p d a) s fun s =>
    .ok (vec1 p d a false (fun t x => (2 ^ t.width - 1 - x, 0#32)) s)

/-- `vshl` (R138). -/
def execVshl (p : Bool) (d a b : VNum) (s : State) : Host.Outcome State Fault Refusal :=
  word (.vshl p d a b) s fun s =>
    .ok (vec2 p d a b false (fun t x y => (x * 2 ^ (y % t.width) % 2 ^ t.width, 0#32)) s)

/-- `vshr` (R138). -/
def execVshr (p : Bool) (d a b : VNum) (s : State) : Host.Outcome State Fault Refusal :=
  word (.vshr p d a b) s fun s =>
    .ok (vec2 p d a b false (fun t x y => (x / 2 ^ (y % t.width), 0#32)) s)

/-- `vsra` (R138). -/
def execVsra (p : Bool) (d a b : VNum) (s : State) : Host.Outcome State Fault Refusal :=
  word (.vsra p d a b) s fun s =>
    .ok (vec2 p d a b false (fun t x y => (truncInt t.width (sextNat t.width x / (2 ^ (y % t.width) : Nat)), 0#32)) s)

/-- Position and length of R139: bits [31:0] of the lane of b, whatever the element's width. -/
def State.fieldPos (s : State) (t : ETy) (b : VNum) (l : Nat) : Nat × Nat :=
  let n := (s.vlane b.toNat l).val
  (fieldOf n 0 6, min (fieldOf n 8 7) t.width)

/-- `vbfx` (R139): a field is signed under I types only. -/
def execVbfx (p : Bool) (d a b : VNum) (s : State) : Host.Outcome State Fault Refusal :=
  word (.vbfx p d a b) s fun s =>
    let t := s.ty
    .ok (vecEffect p t d false (fun l =>
      let f := s.fieldPos t b l
      (truncInt t.width (bitField t.width (t.int && !t.unsigned) (s.elem t a l) f.1 f.2), 0#32))
      (fun l => s.elemLbl t a l ||| s.elemLbl t b l) s)

/-- `vbfi` (R139). -/
def execVbfi (p : Bool) (d a b : VNum) (s : State) : Host.Outcome State Fault Refusal :=
  word (.vbfi p d a b) s fun s =>
    let t := s.ty
    .ok (vecEffect p t d false (fun l =>
      let f := s.fieldPos t b l
      (fieldInsert t.width (s.elem t d l) (s.elem t a l) f.1 f.2, 0#32))
      (fun l => s.elemLbl t a l ||| s.elemLbl t b l ||| s.elemLbl t d l) s)

/-- `vpopc` (R138). -/
def execVpopc (p : Bool) (d a : VNum) (s : State) : Host.Outcome State Fault Refusal :=
  word (.vpopc p d a) s fun s =>
    .ok (vec1 p d a false (fun t x => (popc t.width x, 0#32)) s)

/-- `vclz` (R138). -/
def execVclz (p : Bool) (d a : VNum) (s : State) : Host.Outcome State Fault Refusal :=
  word (.vclz p d a) s fun s =>
    .ok (vec1 p d a false (fun t x => (clzNat t.width x, 0#32)) s)

/-- `vbrev` (R138). -/
def execVbrev (p : Bool) (d a : VNum) (s : State) : Host.Outcome State Fault Refusal :=
  word (.vbrev p d a) s fun s =>
    .ok (vec1 p d a false (fun t x => (revNat t.width x, 0#32)) s)

/-! ## Compare, select and moves (R141 to R143) -/

/-- The conditions of `vcmp` under an integer type; `un` and `ord` do not decode there. -/
def compareInt (c : VCond) (a b : Int) : Bool :=
  match c with
  | .eq => a = b
  | .ne => a ≠ b
  | .lt => a < b
  | .le => a ≤ b
  | .gt => b < a
  | .ge => b ≤ a
  | .un => false
  | .ord => true

/-- The set of the lanes that satisfy a test, as a mask. -/
def maskOf (ls : List Nat) (f : Nat → Bool) : Nat := (ls.filter f).foldl (fun m l => m + 2 ^ l) 0

/-- `vcmp` (R141). -/
def execVcmp (p : Bool) (d : SNum) (a b : VNum) (c : VCond) (s : State) : Host.Outcome State Fault Refusal :=
  word (.vcmp p d a b c) s fun s =>
    let t := s.ty
    let r (l : Nat) : Bool × FlagBits :=
      if t.float then compareF (Fmt.of t) c (s.elem t a l) (s.elem t b l)
      else (compareInt c (ival t (s.elem t a l)) (ival t (s.elem t b l)), 0#32)
    let lb := s.pcl ||| s.guardLbl ||| joinLabels (s.lanes.map fun l => s.elemLbl t a l ||| s.elemLbl t b l)
    let s' := s.setS d (BitVec.ofNat 64 (maskOf s.lanes fun l => (r l).1)) lb
    let fl := s.lanes.foldl (fun f l => f ||| (r l).2) 0#32
    .ok ((if t.float then s'.setFlags fl (if s.lanes = [] then 0#16 else lb) else s').advance p)

/-- `vsel` (R142): both candidates' labels enter. -/
def execVsel (p : Bool) (d a : VNum) (b : SNum) (s : State) : Host.Outcome State Fault Refusal :=
  word (.vsel p d a b) s fun s =>
    let t := s.ty
    .ok (vecEffect p t d false (fun l => (if bitOf (s.sreg b) l then s.elem t a l else s.elem t d l, 0#32))
      (fun l => s.slbl b ||| s.elemLbl t a l ||| s.elemLbl t d l) s)

/-- `vmov` (R143). -/
def execVmov (p : Bool) (d a : VNum) (s : State) : Host.Outcome State Fault Refusal :=
  word (.vmov p d a) s fun s =>
    .ok (vec1 p d a false (fun _ x => (x, 0#32)) s)

/-- `vmovs` (R143). -/
def execVmovs (p : Bool) (d : VNum) (b : SNum) (s : State) : Host.Outcome State Fault Refusal :=
  word (.vmovs p d b) s fun s =>
    .ok (vecEffect p s.ty d false (fun _ => ((s.sreg b).toNat % 2 ^ s.ty.width, 0#32)) (fun _ => s.slbl b) s)

/-- `vmovi` (R143). -/
def execVmovi (p : Bool) (d : VNum) (i : Imm16) (s : State) : Host.Outcome State Fault Refusal :=
  word (.vmovi p d i) s fun s =>
    .ok (vecEffect p s.ty d false (fun _ => ((sext16 i).toNat % 2 ^ s.ty.width, 0#32)) (fun _ => 0#16) s)

end Sys2Proof.Machine
end

