-- ==== Sys2Proof/Machine/Declass.lean ====
section
/-! DEFINITION. Declassification (04 R89, R90), and the Tack Room's reply to it (05 R102). -/

namespace Sys2Proof.Machine

/-- Writes declassified values under their labels: lanes of a vector register, or a scalar register. -/
def State.putLowered (s : State) (d : Nat) (vec : Bool) (vals : List (Nat × Word × Label)) : State :=
  vals.foldl (fun s v =>
    if vec then s.setV false d v.1 v.2.1.toNat v.2.2 else s.setS (BitVec.ofNat 6 d) v.2.1 v.2.2) s

/-- The Tack Room is asked to spend one unit of each owner of `o`: as `choices` picks, first that its reply comes at once,
else the split waits for it (R90). `w` is the word, `ops` the label of what it read. -/
def askTack (p : Bool) (o : Label) (d : Nat) (vec : Bool) (vals : List (Nat × Word × Label)) (w : Word) (ops : Label)
    (s : State) : Eff State :=
  if !Label.dom s.owners o then .error (.trap .lblDcls w)
  else
    let c := s.pick 2
    if c.1 = 0 then do
      let r ← c.2.spend o w
      pure ((r.putLowered d vec vals).advance p)
    else .ok (c.2.await (.dcls o d vec vals w) p ops)

/-- What `dcls` does where its owner set is ∅: a `vmov` (R89, 07 R143), with the operands that one accepts. -/
def dclsMove (p : Bool) (d a : VNum) (w : Word) (s : State) : Eff State :=
  let i := Instr.vmov p d a
  if !s.operandsOk i then .error (.trap .ill w)
  else if s.scoreboarded i then .error (.hold [])
  else if s.readsPoison i then .error (.halt .poison)
  else .ok (vec1 p d a false (fun _ x => (x, 0#32)) s)

/-- `dcls` (R89). -/
def execDcls (p : Bool) (d a : VNum) (g : SNum) (s : State) : Host.Outcome State Fault Refusal :=
  wordMarked (.dcls p d a g) s true false fun s =>
    let o : Label := (s.sreg g).setWidth 16
    let w := wordOf (.dcls p d a g)
    if s.lanes = [] then .ok (s.advance p)
    else if o = 0 then dclsMove p d a w s
    else
      askTack p o d.toNat true (s.lanes.map fun l => (l, BitVec.ofNat 64 (s.velt false a.toNat l),
        s.lowered (s.pcl ||| s.guardLbl ||| s.vlbl false a.toNat l) g)) w (s.readLabel (.dcls p d a g)) s

/-- `dcls.s` (R89). -/
def execDclsS (p : Bool) (d a g : SNum) (s : State) : Host.Outcome State Fault Refusal :=
  wordMarked (.dclsS p d a g) s true false fun s =>
    let o : Label := (s.sreg g).setWidth 16
    if o = 0 then .ok ((s.setS d (s.sreg a) (s.pcl ||| s.slbl a)).advance p)
    else
      askTack p o d.toNat false [(0, s.sreg a, s.lowered (s.pcl ||| s.slbl a) g)] (wordOf (.dclsS p d a g))
        (s.readLabel (.dclsS p d a g)) s

/-- The reply of the Tack Room to a split that waits in `dcls`: its grants are spent and its values written, or it takes the
trap (R90). -/
def tackReply (s : State) : State :=
  match s.split.st with
  | .swait (.dcls o d vec vals w) =>
    match s.spend o w with
    | .ok r => (r.putLowered d vec vals).finishWait
    | .error _ =>
      let x := s.split
      (s.setSplit { x with st := .ready, wmask := none, wlbl := 0 }).takeTrap .lblDcls w x.wlbl x.pc x.wmask.isSome
  | _ => s

end Sys2Proof.Machine
end

