-- ==== Sys2Proof/Machine/Atomic.lean ====
section
/-! DEFINITION. Atomics and barrier objects (11 R199 to R207). -/

namespace Sys2Proof.Machine

/-! ## The combination (R199) -/

/-- The value an atomic writes at width `w`; none for a `cas` that fails. `t` decides the signedness of min and max,
`e` is the expected value of `cas`. -/
def combine (o : AtomOp) (t : ETy) (w m d e : Nat) : Option Nat :=
  match o with
  | .add => some ((m + d) % 2 ^ w)
  | .min => some (if valOf t w m ≤ valOf t w d then m else d)
  | .max => some (if valOf t w m ≤ valOf t w d then d else m)
  | .and => some (m &&& d)
  | .or => some (m ||| d)
  | .xor => some (m ^^^ d)
  | .exch => some d
  | .cas => if m = e then some d else none

/-- One lane of an atomic: number, check, operand, expected value, contribution, and the labels of its address, pc and
guard. -/
structure AtomLane where
  lane : Nat
  chk : Chk
  d : Nat
  e : Nat
  c : Label
  al : Label

/-- Contributions of the lanes before this one at its location. -/
abbrev Earlier := List (Nat × Label)

/-- Performs the lanes in order (R200): each reads under R184 and writes; gives each lane's old value and label. `g` is
the granule's label before the instruction's first update, `evt` the lanes of a lane's event. -/
def atomLanes (o : AtomOp) (t : ETy) (n : Nat) (g : Nat → Label) (drop : Bool) (evt : Nat → List Nat) :
    List AtomLane → Earlier → State → List (Nat × Nat × Label) × State
  | [], _, s => ([], s)
  | x :: rest, before, s =>
    match x.chk with
    | .ok k _ =>
      let ls := evt x.lane
      let r := s.atomicRead ls k n
      let m := leNat r.1
      let s' := match combine o t (8 * n) m x.d x.e with
        | some v => if drop then r.2.2 else r.2.2.writeEvent ls k (leBytes n v) none false true r.2.1
        | none => r.2.2
      let s' := if drop then s' else s'.joinGran k x.c
      let prior := joinLabels ((before.filter fun b => b.1 = k).map Prod.snd)
      let r := atomLanes o t n g drop evt rest (before ++ [(k, x.c)]) s'
      ((x.lane, m, g k ||| prior ||| x.al) :: r.1, r.2)
    | _ =>
      let r := atomLanes o t n g drop evt rest before s
      ((x.lane, 2 ^ (8 * n) - 1, s.owners) :: r.1, r.2)

/-- The lanes of a vector atomic. -/
def vatomLanes (s : State) (v : VNum) (b : SNum) (o : VNum) (n : Nat) (cas : Bool) : List AtomLane :=
  s.lanes.map fun l =>
    let wide : Bool := n = 8
    let er := v.toNat + (if wide then 2 else 1)
    let va := s.ea b o l
    let base := s.al b o l ||| s.pcl ||| s.guardLbl
    let c := s.vlbl wide v.toNat l ||| (if cas then s.vlbl wide er l else 0#16) ||| base
    { lane := l, chk := s.labelChk c va (s.memChk .atomic va n), d := s.velt wide v.toNat l,
      e := if cas then s.velt wide er l else 0, c := c, al := base }

/-- A lane-wise atomic: all lanes are checked before any commits (R201). `write` says that old values are returned. -/
def atomEffect (p : Bool) (write : Bool) (v : VNum) (b : SNum) (o : VNum) (n : Nat) (op : AtomOp) (s : State) :
    Eff State :=
  let xs := vatomLanes s v b o n (op == .cas)
  let cs := xs.map AtomLane.chk
  match s.accessStop true true cs with
  | some e => .error e
  | none =>
    let r := atomLanes op s.ty n s.granLbl s.block.audit (fun l => [l]) xs [] s
    let s' := r.2.refuseFirst 2 cs
    .ok ((if write then r.1.foldl (fun s x => s.setV (n = 8) v.toNat x.1 x.2.1 x.2.2) s' else s').advance p)

/-- `vatom.b32` (R200). -/
def execVatomB32 (p : Bool) (d : VNum) (b : SNum) (o : VNum) (x : AtomOp) (s : State) :
    Host.Outcome State Fault Refusal :=
  wordMarked (.vatomB32 p d b o x) s true true (atomEffect p true d b o 4 x)

/-- `vatom.b64` (R200). -/
def execVatomB64 (p : Bool) (d : VNum) (b : SNum) (o : VNum) (x : AtomOp) (s : State) :
    Host.Outcome State Fault Refusal :=
  wordMarked (.vatomB64 p d b o x) s true true (atomEffect p true d b o 8 x)

/-- `vratom.b32` (R202). -/
def execVratomB32 (p : Bool) (d : VNum) (b : SNum) (o : VNum) (x : AtomOp) (s : State) :
    Host.Outcome State Fault Refusal :=
  wordMarked (.vratomB32 p d b o x) s true true (atomEffect p false d b o 4 x)

/-- `vratom.b64` (R202). -/
def execVratomB64 (p : Bool) (d : VNum) (b : SNum) (o : VNum) (x : AtomOp) (s : State) :
    Host.Outcome State Fault Refusal :=
  wordMarked (.vratomB64 p d b o x) s true true (atomEffect p false d b o 8 x)

/-- `satom` (R203): one atomic of the split. `w` selects 64 bits. -/
def execSatom (p : Bool) (d a b : SNum) (w : Bool) (o : AtomOp) (s : State) : Host.Outcome State Fault Refusal :=
  wordMarked (.satom p d a b w o) s true true fun s =>
    let n := if w then 8 else 4
    let va := s.sreg a
    let base := s.slbl a ||| s.pcl
    let c := s.slbl b ||| (if o = .cas then s.slbl (d + 1) else 0#16) ||| base
    let x : AtomLane :=
      { lane := headLane s.execLanes, chk := s.labelChk c va (s.memChk .atomic va n), d := (s.sreg b).toNat % 2 ^ (8 * n),
        e := (s.sreg (d + 1)).toNat % 2 ^ (8 * n), c := c, al := base }
    match s.accessStop true true [x.chk] with
    | some e => .error e
    | none =>
      let ls := s.execLanes
      let r := atomLanes o s.ty n s.granLbl s.block.audit (fun _ => ls) [x] [] s
      let v := r.1.headD (0, 0, 0#16)
      let word : Word := if w then BitVec.ofNat 64 v.2.1 else extTo64 s.ty 32 v.2.1
      .ok (((r.2.refuseFirst 2 [x.chk]).setS d word v.2.2).advance p)

/-! ## Barrier objects (R204 to R207) -/

/-- A field of a barrier object replaced. -/
def putField (o : BitVec 128) (lo w v : Nat) : BitVec 128 :=
  BitVec.ofNat 128 (o.toNat - fieldOf o lo w * 2 ^ lo + v % 2 ^ w * 2 ^ lo)

/-- PEND as a signed number. -/
def pendOf (o : BitVec 128) : Int := sextNat 48 (fieldOf o 0 48)

/-- The object with its reserved fields zero. -/
def cleanObj (o : BitVec 128) : BitVec 128 := putField (putField o 116 12 0) 48 16 0

/-- The completion check of R205: the object after it. -/
def closeObj (o : BitVec 128) : BitVec 128 :=
  let cnt := fieldOf o 64 16 = 0
  let pend := fieldOf o 0 48 = 0
  let closed : Bool := match fieldOf o 114 2 with
    | 0 => cnt && pend
    | 1 => cnt
    | 2 => pend
    | _ => false
  if closed then putField (putField o 96 16 (fieldOf o 96 16 + 1)) 64 16 (fieldOf o 80 16) else o

/-- An update of the object at `off` in block `b`'s window, with its contribution, as one indivisible step that takes its
turn among all accesses to the object's bytes; `check` runs the completion check (R205). Waiters that it releases go
on. -/
def updateObj (b off : Nat) (o : BitVec 128) (c : Label) (check : Bool) (s : State) : State :=
  let ph := BitVec.ofNat 16 (fieldOf o 96 16)
  let o := cleanObj o
  let o := if check then closeObj o else o
  let s := (s.putObj b off o).joinGran (scratchKey b off) c
  let next := BitVec.ofNat 16 (fieldOf o 96 16)
  let x := s.blockAt b
  -- a phase that starts has no arrivals yet
  let s := if next = ph then s else s.setBlockAt b { x with objHb := x.objHb.set [] (objKey off next) [] }
  s.settleObj b off

/-- An arrival counted toward the current phase of an object: what is ordered before its completion (10 R180). -/
def arriveHb (b off : Nat) (ids : List Nat) (s : State) : State :=
  let ph := BitVec.ofNat 16 (fieldOf (s.objAt b off) 96 16)
  let x := s.blockAt b
  s.setBlockAt b { x with objHb := x.objHb.set [] (objKey off ph) (joinIds (x.objHb.get [] (objKey off ph)) ids) }

/-- A byte arrival of an engine (R207): it subtracts `n` from PEND, or sets ABND where that would overflow. -/
def byteArrival (b off n : Nat) (c : Label) (hb : List Nat) (s : State) : State :=
  let o := s.objAt b off
  let v := pendOf o - n
  let o' := if -(2 ^ 47 : Int) ≤ v ∧ v < 2 ^ 47 then putField o 0 48 (truncInt 48 v) else putField o 112 1 1
  updateObj b off o' c true (arriveHb b off hb s)

/-- The object that an address names: its block and offset, or the check that fails (R206). -/
def State.objChk (s : State) (a : SNum) : Chk := s.spChk ((s.sreg a).setWidth 32 |>.setWidth 64) 16 false

/-- cO of R206. -/
def State.objLbl (s : State) (a b : SNum) : Label := s.slbl a ||| s.slbl b ||| s.pcl

/-- The block and offset of a scratchpad location. -/
def objPlace (k : Nat) : Nat × Nat := (k / 2 ^ 48 - 1, k % 2 ^ 48)

/-- An object access names a gang peer's window. -/
def State.objPeer (s : State) (a : SNum) : Bool := s.peerOther (s.sreg a)

/-- `boinit` (R206). -/
def execBoinit (p : Bool) (a b : SNum) (s : State) : Host.Outcome State Fault Refusal :=
  wordMarked (.boinit p a b) s false (s.objPeer a) fun s =>
    let v := s.sreg b
    let va : Word := ((s.sreg a).setWidth 32).setWidth 64
    let r := s.objChk a
    match firstStop [r] with
    | some e => .error e
    | none =>
      if fieldOf v 17 2 = 3 || fieldOf v 19 45 ≠ 0 then .error (.trap .prot va)
      else
        match r with
        | .ok k _ =>
          let (bl, off) := objPlace k
          let x := s.blockAt bl
          if s.heldStore k ≠ [] then .error (.hold (s.heldStore k))
          else if !x.objs.contains off && 32 ≤ x.objs.length then .error (.trap .prot va)
          else
            let s' := s.setBlockAt bl { x with objs := if x.objs.contains off then x.objs else x.objs ++ [off] }
            let n := fieldOf v 0 16
            let o : BitVec 128 := BitVec.ofNat 128
              (n * 2 ^ 80 + n * 2 ^ 64 + fieldOf v 16 1 * 2 ^ 113 + fieldOf v 17 2 * 2 ^ 114)
            .ok (((updateObj bl off o (s.objLbl a b) false s').gather s.execLanes).advance p)
        | _ => .ok ((s.refuseFirst 1 [r]).advance p)

/-- `boarr` and `boexp` (R206, R207): the sum, and for an arrival the count. Gives the object and whether the arrival
overran; none where PEND would leave its range. -/
def objAdd (o : BitVec 128) (arrive : Bool) (n : Int) : Option (BitVec 128 × Bool) :=
  let v := pendOf o + n
  let cnt := fieldOf o 64 16
  if -(2 ^ 47 : Int) ≤ v ∧ v < 2 ^ 47 then
    let o := putField o 0 48 (truncInt 48 v)
    some (if arrive && cnt ≠ 0 then putField o 64 16 (cnt - 1) else o, arrive && cnt = 0)
  else none

/-- The shared effect of `boarr` and `boexp`; `d` is the destination of an arrival. -/
def objUpdate (p : Bool) (d : Option SNum) (a b : SNum) (s : State) : Eff State :=
  let va : Word := ((s.sreg a).setWidth 32).setWidth 64
  let r := s.objChk a
  let c := s.objLbl a b
  match firstStop [r] with
  | some e => .error e
  | none =>
    match r with
    | .ok k _ =>
      let (bl, off) := objPlace k
      let o := s.objAt bl off
      if s.heldStore k ≠ [] then .error (.hold (s.heldStore k))
      else
        match objAdd o d.isSome (sextNat 48 (s.sreg b).toNat) with
        | none => .error (.trap .prot va)
        | some (o', past) =>
          let s' := s.gather s.execLanes
          let s' := if d.isSome && !past then arriveHb bl off (s.warp.seenAll s.execLanes) s' else s'
          let s' := updateObj bl off o' c true s'
          let v : Word := BitVec.ofNat 64 (fieldOf o 96 16 + (if past then 2 ^ 63 else 0))
          .ok ((match d with
            | some d => s'.setS d v (s.granLbl k ||| c)
            | none => s').advance p)
    | _ =>
      let s' := s.refuseFirst 2 [r]
      .ok ((match d with
        | some d => s'.setS d (BitVec.allOnes 64) s.owners
        | none => s').advance p)

/-- `boarr` (R206). -/
def execBoarr (p : Bool) (d a b : SNum) (s : State) : Host.Outcome State Fault Refusal :=
  wordMarked (.boarr p d a b) s false (s.objPeer a) (objUpdate p (some d) a b)

/-- `boexp` (R206). -/
def execBoexp (p : Bool) (a b : SNum) (s : State) : Host.Outcome State Fault Refusal :=
  wordMarked (.boexp p a b) s false (s.objPeer a) (objUpdate p none a b)

/-- `bowait` (R206): completes at once where the phase has passed or the object is abandoned. -/
def execBowait (p : Bool) (d a b : SNum) (s : State) : Host.Outcome State Fault Refusal :=
  wordMarked (.bowait p d a b) s false (s.objPeer a) fun s =>
    let r := s.objChk a
    let c := s.objLbl a b
    match firstStop [r] with
    | some e => .error e
    | none =>
      match r with
      | .ok k _ =>
        if s.heldBy k ≠ [] then .error (.hold (s.heldBy k))
        else
          let (bl, off) := objPlace k
          let ph : BitVec 16 := (s.sreg b).setWidth 16
          .ok ((s.await (.bowait d bl off ph c) p (s.readLabel (.bowait p d a b))).settleObj bl off)
      | _ => .ok (((s.refuseFirst 0 [r]).setS d (BitVec.allOnes 64) s.owners).advance p)

end Sys2Proof.Machine
end

