-- ==== Sys2Proof/Machine/Engine.lean ====
section
/-! DEFINITION. What the copy and remote engines share: copy addresses, holds and reads at issue, writes, poison on its
way, byte counts, faults of elements, and the end of an operation (13 R209 to R215, R224, 16 R268 to R272). -/

namespace Sys2Proof.Machine

/-! ## Retired pages and poison records (16 R271, R272) -/

/-- The mappings of a physical 64 KiB page: context, MAPID and PIDX. -/
def State.mapsOf (s : State) (page : Nat) : List (Nat × Nat × Nat) :=
  (s.ctxs.entries.map fun c =>
    if !c.2.live then []
    else (c.2.maps.entries.map fun m =>
      match m.2 with
      | some m' => m'.pages.filterMap fun i =>
          match walkFrom s.mem (m'.va + i * 2 ^ 16) walkLevels c.2.root with
          | .leaf e => if leafPa e (m'.va + i * 2 ^ 16) / 2 ^ 16 = page then some (c.1, m.1, i) else none
          | _ => none
      | none => []).flatten).flatten

/-- Retires a page, frees the poison records inside it and the marks of earlier scrubs, after which alone it may return, and
reports it to the operator and to the session of each
context that maps it. -/
def State.retire (s : State) (page : Nat) : State :=
  let s := { s with phys := { s.phys with
    retired := s.phys.retired.set false page true
    scrubbed := ⟨s.phys.scrubbed.entries.filter fun e => e.1 / 1024 ≠ page⟩
    records := ⟨s.phys.records.entries.filterMap fun (e : Nat × List Nat) =>
      let xs := e.2.filter fun x => x / 1024 ≠ page
      if xs = [] then none else some (e.1, xs)⟩ } }
  let s := s.send (.note none 0 .operator 0x84 0 (leBytes 8 (page * 2 ^ 16)))
  (s.mapsOf page).foldl (fun (s : State) (m : Nat × Nat × Nat) =>
    s.send (.note (some m.1) (s.ctxAt m.1).pav .tenant 0x84 0 (leBytes 4 m.2.1 ++ leBytes 4 m.2.2))) s

/-- Poisons the 64 bytes that hold a location. A sector of memory enters its controller's record, and where the record
is full its page is retired (R272). -/
def State.enterPoison (s : State) (k : Nat) : State :=
  let s := s.setPoison k true
  if k < 2 ^ 48 then
    let mc := Config.controllerOf (k / 64)
    let xs := s.phys.records.get [] mc
    if xs.contains (k / 64) then s
    else if xs.length < 512 then
      { s with phys := { s.phys with records := s.phys.records.set [] mc (xs ++ [k / 64]) } }
    else s.retire (k / 2 ^ 16)
  else s

/-- The Tack Room key slot holds a key of a kind for a context (20 R331). -/
def State.slotOk (s : State) (k kind c : Nat) : Bool :=
  k ≠ 0 && (s.tack.slots.get KeySlot.blank k).holds kind c

/-! ## Copy addresses (R209) -/

/-- SPACE of a copy address. -/
def spaceOf (x : Word) : Nat := fieldOf x 62 2

/-- A copy address breaks R209. -/
def badCopy (x : Word) : Bool :=
  match spaceOf x with
  | 0 => fieldOf x 57 5 ≠ 0
  | 1 => fieldOf x 32 30 ≠ 0
  | _ => true

/-- R209 for one side, and R156 where it lies in a scratchpad. -/
def State.sideChk (s : State) (x : Word) (n : Nat) : Chk :=
  if badCopy x then .trap .prot x (spaceOf x = 0)
  else if spaceOf x = 1 then
    match s.checkSp s.warp.block (x.setWidth 32) n true with
    | .trap c _ _ => .trap c x
    | r => r
  else .ok 0 0

/-- The same with the translation of a virtual side (R211 steps 2 and 3). -/
def State.copyTrans (s : State) (k : Acc) (x : Word) (n : Nat) : Chk :=
  match s.sideChk x n with
  | .ok key c =>
    if spaceOf x = 1 then .ok key c
    else s.checkVa s.coreNo s.warp.ctx s.split.priv s.launch.pure s.split.declined k x
  | r => r

/-- Step 4 of R211 for a source: the owner set dominates its label (02 R20). -/
def State.ownChk (s : State) (x : Word) (r : Chk) : Chk :=
  match r with
  | .ok key _ => if Label.dom s.owners (s.granLbl key) then r else .trap .prot x (spaceOf x = 0)
  | _ => r

/-- Steps 2 to 4 of R211 for one side. -/
def State.copyChk (s : State) (k : Acc) (x : Word) (n : Nat) : Chk :=
  if k == .load then s.ownChk x (s.copyTrans k x n) else s.copyTrans k x n

/-- A range of `n` bytes in elements of `e` bytes, the last one shorter: offset and length. -/
def cut (e n : Nat) : List (Nat × Nat) := (List.range ((n + e - 1) / e)).map fun i => (e * i, min e (n - e * i))

/-- A range of bytes in aligned elements of at most 8. -/
def pieces (n : Nat) : List (Nat × Nat) := cut 8 n

/-- The checks of the elements of a local range. -/
def State.rangeChk (s : State) (k : Acc) (x : Word) (e n : Nat) : List Chk :=
  (cut e n).map fun p => s.copyChk k (x + BitVec.ofNat 64 p.1) p.2

/-- Scratchpad tiles of locations (R215). -/
def tilesOf (keys : List Nat) : List Nat := (keys.filter fun k => 2 ^ 48 ≤ k).map fun k => k / 256

/-- An access of the issuing warp names another rank's window (16 R284, 17 R302). -/
def State.copyPeer (s : State) (x : Word) : Bool := spaceOf x = 1 && s.peerOther x

/-! ## Reading and writing -/

/-- An engine's read of `n` bytes: each aligned 8 bytes on their own (R175), as a plain read of a party that has seen
`seen`. -/
def State.engineRead (s : State) (seen : List Nat) (k n : Nat) : List Byte × State :=
  (pieces n).foldl (fun r p =>
    let c := (r.2.leave (k + p.1) p.2).choose seen false (k + p.1) p.2
    (r.1 ++ c.1, c.2.2)) ([], s)

/-- Writes one element: its aligned 8 bytes, the contribution, and the poison it brings (R224). Gives the writes. Waits on
barrier objects whose bytes it replaces are settled (11 R205). -/
def State.engineStore (s : State) (q : Party) (hb : List Nat) (k : Nat) (bs : List Byte) (c : Label) (bad : Bool) :
    List Nat × State :=
  let r := (pieces bs.length).foldl (fun (r : List Nat × State) (p : Nat × Nat) =>
    let w := r.2.engineWrite q hb (k + p.1) ((bs.drop p.1).take p.2) []
    (r.1 ++ [w.1], w.2)) ([], s)
  let s := r.2.joinGran k c
  let s := if bad then s.enterPoison k else s
  (r.1, s.settleStored ((List.range bs.length).map fun i => k + i))

/-- The virtual addresses at which a range of bytes enters each 64 KiB page. -/
def pageStarts (x : Word) (n : Nat) : List Word :=
  (List.range ((x.toNat % 2 ^ 16 + n + 2 ^ 16 - 1) / 2 ^ 16)).map fun i => BitVec.ofNat 64 ((x.toNat / 2 ^ 16 + i) * 2 ^ 16)

/-- Caches the translations of a local range that lies in memory (09 R173). -/
def State.cacheRange (s : State) (x : Word) (n : Nat) : State := if spaceOf x = 0 then s.cacheAll (pageStarts x n) else s

/-- A stamp or status: 8 bytes whose reader by `mwait` has the writes `ids` before it (10 R180). -/
def State.stampStore (s : State) (q : Party) (ids : List Nat) (k : Nat) (v : Nat) (c : Label) : State :=
  let w := s.engineWrite q ids k (leBytes 8 v) ids
  let ks := (List.range 8).map fun i => k + i
  ((w.2.joinGran k c).clearCovered ks).settleStored ks

/-- Adds an 8-byte store element to a block's digest, or the two of a 16-byte one (16 R285). -/
def State.digestCopy (s : State) (b va : Nat) (bs : List Byte) : State :=
  (pieces bs.length).foldl (fun s p => s.digest b (va + p.1) (leNat ((bs.drop p.1).take p.2))) s

/-! ## Refusals, faults -/

/-- A refusal of an engine for the warp that issues: WSLOT is 0 (16 R270). -/
def State.refuseEngine (s : State) (kind why : Nat) : State :=
  s.logRefusal s.warp.ctx s.block.vcore 0 kind why s.warp.lseq

/-- The same for an operation in flight. -/
def State.refuseOp (s : State) (o : Op) (kind why : Nat) : State :=
  s.logRefusal o.ctx (s.blockAt o.block).vcore 0 kind why o.lseq

/-- Offers a page to the host, once for each party that waits (16 R268). VCORE is 0x3FF for a remote agent. -/
def State.offer (s : State) (who : FaultFor) (c vcore page kind : Nat) (runtime : Bool) : State :=
  if page = waitPage || s.faults.any fun f => f.who = who && f.page = page then s
  else
    let f := s.fresh
    let x : PFault := { tag := f.1, ctx := c, page := page, kind := kind, who := who, since := s.cycle, ok := false,
                        no := false }
    { f.2 with faults := f.2.faults ++ [x] }.report (s.ctxAt c).pav
      (.note (some c) (s.ctxAt c).pav (if runtime then .runtime else .tenant) 0x80 f.1
        (leBytes 1 c ++ leBytes 1 kind ++ leBytes 2 vcore ++ leBytes 4 0 ++ leBytes 8 (page * 2 ^ 16)))

/-! ## Operations in flight -/

/-- An element of an operation waits for a page. -/
def Op.waitsFor (o : Op) (i page : Nat) : Op :=
  if page = waitPage || o.waits.contains (i, page) then o else { o with waits := o.waits ++ [(i, page)] }

/-- The host has answered for a page: the elements that waited for it go on, or have failed. -/
def Op.answered (o : Op) (page : Nat) (ok : Bool) : Op :=
  { o with waits := o.waits.filter fun x => x.2 ≠ page
           declined := if ok then o.declined else o.declined ++ o.waits.filter fun x => x.2 = page }

/-- The party of a lane of an operation (10 R178). A host command is a remote agent. -/
def State.opParty (s : State) (o : Op) (lane : Nat) : Party :=
  match o.kind with
  | .hostCopy .. => Party.remote
  | _ => { dev := true, die := dieOf o.core, gang := (s.blockAt o.block).gang, block := o.block, warp := o.uid,
           lane := lane }

/-- The operation of a name. -/
def State.opAt (s : State) (id : Nat) : Option Op := s.ops.find? fun o => o.id = id

/-- Replaces an operation. -/
def State.setOp (s : State) (o : Op) : State := { s with ops := s.ops.map fun x => if x.id = o.id then o else x }

/-- An operation starts: the lines it owns are touched by more than the threads of one die (10 R185, R188). -/
def State.startOp (s : State) (o : Op) : State :=
  (s.opLines o).foldl (fun s n => s.leave (128 * n) 128) { s with ops := s.ops ++ [o] }

/-- A new operation of the warp that issues: lanes `ls`, with the lines it will write, the sources it has yet to read and
the tiles recorded for it. -/
def State.newOp (s : State) (ls : List Nat) (kind : OpKind) (owns : List Nat) (reads : List (Nat × Nat × Nat))
    (tiles : List Nat) : Nat × State :=
  let f := s.fresh
  let o : Op := { id := f.1, ctx := s.warp.ctx, priv := s.split.priv, core := s.coreNo, block := s.warp.block,
                  lseq := s.warp.lseq, wkey := s.cur, uid := s.warp.uid, lane := headLane ls, kind := kind,
                  hb := s.warp.seenAll ls, done := [], since := s.cycle, owns := owns, reads := reads, tiles := tiles,
                  waits := [], declined := [], wrote := [], bad := false }
  (f.1, f.2.startOp o)

/-- Some operation before this one owns a line of the locations: this one's reads of them wait (R210). -/
def State.owned (s : State) (id : Nat) (keys : List Nat) : Bool :=
  s.ops.any fun o => o.id < id && (linesOf keys).any (s.opLines o).contains

/-- Some operation before this one owns a line of the locations or has yet to read one: this one's writes to them wait
(R210). -/
def State.claimed (s : State) (id : Nat) (keys : List Nat) : Bool :=
  s.owned id keys || s.ops.any fun o => o.id < id && (linesOf keys).any o.holds

/-- An operation has read a source element at last: the element, its bytes, and whether their sector is poisoned. -/
def Op.took (o : Op) (x : Nat × Nat × Nat) (bs : List Byte) (bad : Bool) : Op :=
  let put (d : List Byte) : List Byte := d.take x.1 ++ bs ++ d.drop (x.1 + bs.length)
  let note (b : List Nat) : List Nat := if bad then b ++ [x.1] else b
  { o with
    reads := o.reads.filter fun y => y ≠ x
    kind := match o.kind with
      | .copy xs => .copy (xs.map fun e => if e.lane = x.1 then { e with data := bs, bad := bad } else e)
      | .put a h l (some d) b g => .put a h l (some (put d)) (note b) g
      | .send a h q l df (some d) b g st => .send a h q l df (some (put d)) (note b) g st
      | .comb a h c l (some d) b u ds st => .comb a h c l (some (if u then d else put d)) (b || bad) u ds st
      | k => k }

/-- An operation reads those sources that it has yet to read and whose lines no earlier operation owns any more. It comes
after the writes `ids`, which it waited for. -/
def State.readFor (s : State) (id : Nat) (ids : List Nat) : State :=
  match s.opAt id with
  | none => s
  | some o =>
    let r := o.reads.foldl (fun (r : Op × State) x =>
      if r.2.owned id [x.2.1] then r
      else
        let b := r.2.engineRead (joinIds o.hb ids) x.2.1 x.2.2
        (r.1.took x b.1 (r.2.poisoned x.2.1), b.2)) (o, s)
    r.2.setOp r.1

/-- Every operation that waited for the writes `ids` of another reads at once what they free (R210). -/
def State.wakeReads (s : State) (ids : List Nat) : State :=
  s.ops.foldl (fun s o => if o.reads = [] then s else s.readFor o.id ids) s

/-- Splits that an operation held at issue go on, with its writes before their next events (10 R180). -/
def State.letGo (s : State) (id : Nat) (ids : List Nat) : State :=
  s.warps.entries.foldl (fun s e => e.2.liveSplits.foldl (fun s p =>
    if p.2.heldOn.contains id then
      s.asWarp e.1 p.1 fun s =>
        let s := s.learn (lanesOf s.split.exec) ids
        s.setSplit { s.split with heldOn := s.split.heldOn.filter fun x => x ≠ id }
    else s) s) s

/-! ## Batches (R213, R214) -/

/-- A copy of the warp is complete; its writes are kept under the batch that closes it. -/
def Warp.copyDone (w : Warp) (id : Nat) (ws : List Nat) : Warp :=
  let n := match w.batches.find? fun b => b.copies.contains id with
    | some b => b.num
    | none => w.lastBatch.toNat + 1
  { w with openCopies := w.openCopies.filter fun x => x ≠ id
           batches := (w.batches.map fun b => { b with copies := b.copies.filter fun x => x ≠ id }).filter fun b =>
             b.copies ≠ []
           batchHb := w.batchHb ++ ws.map fun x => (n, x) }

/-- A `cbatch` must wait: 16 batches are closed and not complete, and it would close another. -/
def Warp.batchesFull (w : Warp) : Bool := 16 ≤ w.batches.length && w.openCopies ≠ []

/-- Closes the open copies into the next batch, whose number goes to a register. -/
def closeBatch (d : SNum) (s : State) : State :=
  let w := s.warp
  let n := w.lastBatch + 1
  let w := { w with lastBatch := n, openCopies := []
                    batches := if w.openCopies = [] then w.batches else w.batches ++ [⟨n.toNat, w.openCopies⟩] }
  (s.setWarp w).setS d n s.pcl

/-- Every batch up to a number is complete. -/
def Warp.batchesDone (w : Warp) (n : Nat) : Bool := w.batches.all fun b => n < b.num

/-- What a `cwait` up to a number learns (10 R180). -/
def Warp.batchWrites (w : Warp) (n : Nat) : List Nat := (w.batchHb.filter fun x => x.1 ≤ n).map Prod.snd

/-- The `cwait`s and `cbatch`es of a warp go on as far as its batches allow. -/
def settleCopies (k : Nat) (s : State) : State :=
  (s.warpAt k).liveSplits.foldl (fun s p =>
    match p.2.st with
    | .swait (.cwait n) =>
      if (s.warpAt k).batchesDone n then
        s.asWarp k p.1 fun s => (s.learn (lanesOf s.split.exec) (s.warp.batchWrites n)).finishWait
      else s
    | .swait (.cbatch d) =>
      if (s.warpAt k).batchesFull then s else s.asWarp k p.1 fun s => (closeBatch d s).finishWait
    | _ => s) s

/-! ## The end of an operation -/

/-- A closed handle whose operations have ended is free again (19 R322). -/
def State.endChan (s : State) (c h id : Nat) : State :=
  let x := s.ctxAt c
  let ch := x.chans.get Chan.blank h
  let ch := { ch with ops := ch.ops.filter fun y => y ≠ id }
  s.setCtxAt c { x with chans := x.chans.set Chan.blank h (if ch.opened || ch.ops ≠ [] || ch.far then ch else Chan.blank) }

/-- The channel of an operation. -/
def Op.chan (o : Op) : Option Nat :=
  match o.kind with
  | .put _ h .. => some h
  | .get _ h .. => some h
  | .send _ h .. => some h
  | .comb _ h .. => some h
  | _ => none

/-- What an operation writes to its warp's recorded tiles, each write `k` with its location, is before the warp's accesses
to them (05 R113). -/
def State.noteTiles (s : State) (o : Op) (ks : List (Nat × Nat)) : State :=
  let w := s.warpAt o.wkey
  let xs := (ks.filter fun x => 2 ^ 48 ≤ x.1).map fun x => (x.1 / 256, x.2)
  if w.uid ≠ o.uid || o.tiles = [] then s else s.setWarpAt o.wkey { w with tileHb := w.tileHb ++ xs }

/-- An operation has got on: it has performed the writes `ids`, for which threads and operations that waited go on. -/
def State.opMoved (s : State) (o : Op) (ids : List Nat) : State := ((s.setOp o).letGo o.id ids).wakeReads ids

/-- An operation ends: it owns nothing, what waited for it goes on, and its warp's batches are settled. -/
def State.finishOp (s : State) (o : Op) : State :=
  let s := { s with ops := s.ops.filter fun x => x.id ≠ o.id, faults := s.faults.filter fun f => f.who ≠ FaultFor.op o.id }
  let s := ((s.letGo o.id o.done).wakeReads o.done).touch o.ctx
  let s := match o.chan with
    | some h => s.endChan o.ctx h o.id
    | none => s
  let w := s.warpAt o.wkey
  if w.uid ≠ o.uid then s
  else
    match o.kind with
    | .copy _ => settleCopies o.wkey (s.setWarpAt o.wkey (w.copyDone o.id o.done))
    | _ => s

/-- A byte arrival of an operation on a barrier object at a scratchpad address of its block (R207, R219): dropped where
the rank is absent. -/
def State.countBytes (s : State) (o : Op) (a : BitVec 32) (n : Nat) (c : Label) : State :=
  match s.checkSp o.block a 16 false with
  | .ok k _ => byteArrival (objPlace k).1 (objPlace k).2 n c (joinIds o.hb o.done) s
  | _ => s

end Sys2Proof.Machine
end

