-- ==== Sys2Proof/Machine/Copy.lean ====
section
/-! DEFINITION. Lane copies, batches and bulk tensor requests (13 R209 to R220, R379). -/

namespace Sys2Proof.Machine

/-! ## Lane copies (R211, R212) -/

/-- Bytes of a lane copy's element. -/
def cpyBytes (w : CpyW) : Nat :=
  match w with
  | .b32 => 4
  | .b64 => 8
  | .b128 => 16

/-- The first check that fails. -/
def firstFail (cs : List Chk) : Option Chk :=
  cs.find? fun c =>
    match c with
    | .trap _ _ _ => true
    | .fault _ _ => true
    | _ => false

/-- A lane of a `vcpy` at issue: the verdict of its checks, its two sides and its contribution. -/
structure CpyLane where
  lane : Nat
  verdict : Chk
  src : Chk
  dst : Chk
  va : Option Nat
  c : Label
  deriving DecidableEq, Repr

/-- The checks of one lane in the order of R211, for `n` bytes from `x` to `d`; `al` is the label of the addresses, the
pc and the guard. -/
def State.cpyLane (s : State) (n : Nat) (d x : Word) (al : Label) (l : Nat) : CpyLane :=
  let src := s.copyTrans .load x n
  let dst := s.copyTrans .store d n
  let c := (match src with
    | .ok k _ => s.granLbl k
    | _ => 0#16) ||| al
  let early : List Chk :=
    [if d.toNat % n ≠ 0 then .trap .align d (spaceOf d = 0) else .ok 0 0, if x.toNat % n ≠ 0 then .trap .align x (spaceOf x = 0) else .ok 0 0,
      s.sideChk d n, s.sideChk x n, src, dst, s.ownChk x src,
      match src, dst with
      | .ok _ _, .ok _ _ => if spaceOf d = 0 then s.labelChk c d dst else dst
      | _, _ => dst]
  let verdict := match firstFail early with
    | some f => f
    | none =>
      match src with
      | .refused w => .refused w
      | _ => dst
  { lane := l, verdict := verdict, src := src, dst := dst, va := if spaceOf d = 0 then some d.toNat else none, c := c }

/-- The lanes of a `vcpy`. -/
def State.cpyLanes (s : State) (d a : VNum) (n : Nat) : List CpyLane :=
  s.lanes.map fun l =>
    s.cpyLane n (BitVec.ofNat 64 (s.velt true d.toNat l)) (BitVec.ofNat 64 (s.velt true a.toNat l))
      (s.vlbl true d.toNat l ||| s.vlbl true a.toNat l ||| s.pcl ||| s.guardLbl) l

/-- Reads the sources of the lanes at issue, which the holds of R210 fix; one whose line an earlier operation owns is left
to read. A lane whose source is refused moves nothing. Gives the lanes and the elements left to read. -/
def readSources (n : Nat) (seen : List Nat) :
    List CpyLane → State → (List LaneElt × List (Nat × Nat × Nat)) × State
  | [], s => (([], []), s)
  | x :: t, s =>
    let elt (bs : List Byte) (bad : Bool) : LaneElt :=
      { lane := x.lane, dst := x.dst.key, va := x.va, data := bs, bad := bad, c := x.c }
    match x.src with
    | .ok k _ =>
      if s.lineOwned k then
        let rest := readSources n seen t s
        ((elt [] false :: rest.1.1, (x.lane, k, n) :: rest.1.2), rest.2)
      else
        let r := s.engineRead seen k n
        let rest := readSources n seen t r.2
        ((elt r.1 (s.poisoned k) :: rest.1.1, rest.1.2), rest.2)
    | _ => readSources n seen t s

/-- Engine operations for which the reads of a copy's scratchpad sources wait at issue (05 R113). Sources in memory wait
line by line (R210). -/
def State.heldTiles (s : State) (ks : List Nat) : List Nat := joinAll ((ks.filter fun k => 2 ^ 48 ≤ k).map s.heldBy)

/-- `vcpy` (R211): checks every lane, takes holds and ownership, and hands the lanes to the coalescer. -/
def execVcpy (p : Bool) (d a : VNum) (w : CpyW) (s : State) : Host.Outcome State Fault Refusal :=
  let n := cpyBytes w
  let dsts := s.lanes.map fun l => BitVec.ofNat 64 (s.velt true d.toNat l)
  let srcs := s.lanes.map fun l => BitVec.ofNat 64 (s.velt true a.toNat l)
  let peers := dsts.any s.copyPeer
  wordMarked (.vcpy p d a w) s (peers || dsts.any fun x => spaceOf x = 0) (peers || srcs.any s.copyPeer) fun s =>
    let xs := s.cpyLanes d a n
    match firstStop (xs.map CpyLane.verdict) with
    | some e => .error e
    | none =>
      let held := s.heldTiles (xs.filterMap fun x => x.src.key)
      if held ≠ [] then .error (.hold held)
      else if 64 ≤ s.warp.openCopies.length + (s.warp.batches.map fun b => b.copies.length).sum then .error (.hold [])
      else
        let r := readSources n (s.warp.seenAll s.lanes) xs s
        let keys := r.1.1.filterMap LaneElt.dst
        let o := r.2.newOp s.lanes (.copy r.1.1) (linesOf keys) r.1.2 (tilesOf keys)
        let s' := match firstWhy (xs.map CpyLane.verdict) with
          | some y => o.2.refuseEngine 3 y
          | none => o.2
        let s' := s'.cacheAll ((dsts ++ srcs).filter fun x => spaceOf x = 0)
        .ok ((s'.setWarp { s'.warp with openCopies := s'.warp.openCopies ++ [o.1] }).advance p)

/-- Two lanes of a copy write the same bytes: their locations are one, by whatever addresses they name it; refused lanes
have no location, but an address. -/
def LaneElt.same (x y : LaneElt) : Bool :=
  match x.dst, y.dst with
  | some a, some b => a == b
  | none, none => x.va.isSome && x.va == y.va
  | _, _ => false

/-- Writes the lanes of a lane copy, and gives each write with its location. Of lanes that write one place only the last
writes it, but a floating granule joins every contribution (R212). An audit run's are digested and dropped (16 R286). -/
def landLanes (o : Op) (drop : Bool) : List LaneElt → List (Nat × Nat) → State → List (Nat × Nat) × State
  | [], ids, s => (ids, s)
  | x :: t, ids, s =>
    let last := !(t.any x.same)
    let s := match x.va with
      | some a => if last then s.digestCopy o.block a x.data else s
      | none => s
    match x.dst with
    | none => landLanes o drop t ids s
    | some k =>
      if drop && x.va.isSome then landLanes o drop t ids s
      else if last then
        let r := s.engineStore (s.opParty o x.lane) o.hb k x.data x.c (x.bad || o.bad)
        landLanes o drop t (ids ++ r.1.map fun i => (k, i)) r.2
      else landLanes o drop t ids (s.joinGran k x.c)

/-- The locations that the lanes of a copy write with unpoisoned bytes: those of the lane that each place takes. -/
def landed : List LaneElt → List Nat
  | [] => []
  | x :: t =>
    (match x.dst with
      | some k => if x.bad || t.any x.same then [] else (List.range x.data.length).map fun i => k + i
      | none => []) ++ landed t

/-- LANE_COPY (R211): the coalescer writes the lanes of one `vcpy`, once it has read every source (R212). A lane whose
line an earlier operation owns or has yet to read waits (R210); the copy is complete when none is left. -/
def execLaneCopy (id : Nat) (s : State) : Host.Outcome State Fault Refusal :=
  let s := s.readFor id []
  match s.opAt id with
  | none => .next s
  | some o =>
    match o.kind with
    | .copy xs =>
      if o.reads ≠ [] then .next s
      else
        let drop := (s.blockAt o.block).audit
        let go := xs.filter fun x => !s.claimed id x.dst.toList
        let rest := xs.filter fun x => s.claimed id x.dst.toList
        let r := landLanes o drop go [] s
        let ids := r.1.map Prod.snd
        let keys := rest.filterMap LaneElt.dst
        let o' := { o with kind := .copy rest, done := o.done ++ ids, owns := linesOf keys, tiles := tilesOf keys
                           wrote := if drop || o.bad then [] else o.wrote ++ landed go }
        let s := (r.2.noteTiles o r.1).clearCovered o'.wrote
        .next (if rest = [] then s.finishOp o' else s.opMoved o' ids)
    | _ => .next s

/-! ## Batches (R213, R214) -/

/-- `cbatch` (R213). -/
def execCbatch (p : Bool) (d : SNum) (s : State) : Host.Outcome State Fault Refusal :=
  word (.cbatch p d) s fun s =>
    if s.warp.batchesFull then .ok (s.await (.cbatch d) p 0#16)
    else .ok (settleCopies s.cur ((closeBatch d s).advance p))

/-- `cwait` (R214). -/
def execCwait (p : Bool) (a : SNum) (s : State) : Host.Outcome State Fault Refusal :=
  word (.cwait p a) s fun s =>
    let n := min (s.sreg a).toNat s.warp.lastBatch.toNat
    .ok (settleCopies s.cur (s.await (.cwait n) p (s.readLabel (.cwait p a))))

/-! ## Bulk requests (R216, R217) -/

/-- Reserved bits of a request descriptor. -/
def reqReserved (x : BitVec 1024) : Bool :=
  fieldOf x 928 32 ≠ 0 || fieldOf x 736 32 ≠ 0 || fieldOf x 208 48 ≠ 0 || fieldOf x 121 7 ≠ 0 || fieldOf x 23 41 ≠ 0 ||
    bitOf x 7

/-- SORD is all zero, or a permutation with the higher fields zero. -/
def reqSordOk (x : BitVec 1024) : Bool :=
  let n := reqDims x
  fieldOf x 8 15 = 0 ||
    ((List.range n).all fun d => (List.range n).any fun k => reqSord x k = d) &&
      (List.range 5).all fun k => k < n || reqSord x k = 0

/-- A request descriptor is malformed (R217 step 2). -/
def reqMalformed (x : BitVec 1024) : Bool :=
  let n := reqDims x
  let e := reqEsz x
  reqReserved x || n = 0 || 5 < n || (reqFan x && reqStore x) || (fieldOf x 192 16 ≠ 0 && !reqFan x) || !reqSordOk x ||
    ((List.range 5).any fun d =>
      if n ≤ d then reqBox x d ≠ 0 || reqStride x d ≠ 0 || reqStart x d ≠ 0 || reqBound x d ≠ 0 else reqBox x d = 0) ||
    reqGaddr x % e ≠ 0 || (reqSaddr x).toNat % e ≠ 0 || ((List.range 5).any fun d => reqStride x d % (e : Int) ≠ 0) ||
    2 ^ 40 < reqCount x * e || (reqFan x && (bitOf (reqSaddr x) 26 || bitOf (reqBobj x) 26))

/-- The address of a descriptor: 32 bits of a register. -/
def State.descAddr (s : State) (a : SNum) : BitVec 32 := (s.sreg a).setWidth 32

/-- A descriptor of `n` bytes as memory holds it, where its window exists. -/
def State.peekDesc (s : State) (a : SNum) (n : Nat) : Nat :=
  match s.checkSp s.warp.block (s.descAddr a) n true with
  | .ok k _ => leNat (s.bytesAt k n)
  | _ => 0

/-- What reading a descriptor gives: stopped, refused because its rank is absent (R379), or its bytes, the join of its
granules' labels and the state after the read. -/
inductive DescRead where
  | stop (e : Stop)
  | absent
  | ok (x : Nat) (lbl : Label) (s : State)

/-- Steps that every descriptor read shares: ALIGN and PROT, the scoreboard, poison, and the snapshot (R217, R222,
16 R273). -/
def State.readDescAt (s : State) (v : BitVec 32) (n : Nat) : DescRead :=
  if v.toNat % n ≠ 0 then .stop (.trap .align (v.setWidth 64))
  else
    match s.checkSp s.warp.block v n true with
    | .trap c e p => .stop (.trap c e p)
    | .fault p k => .stop (.park [(p, k)])
    | .refused _ => .absent
    | .ok k _ =>
      if s.heldBy k ≠ [] then .stop (.hold (s.heldBy k))
      else if s.poisoned k || s.poisoned (k + n - 1) then .stop (.halt .poison)
      else
        let r := s.engineRead (s.warp.seenAll s.execLanes) k n
        .ok (leNat r.1) (s.granLbl k ||| s.granLbl (k + n - 1)) r.2

/-- The same at the address in a register. -/
def State.readDesc (s : State) (a : SNum) (n : Nat) : DescRead := s.readDescAt (s.descAddr a) n

/-- A refused descriptor read: the instruction completes having started nothing (R379). -/
def absentDesc (p : Bool) (kind : Nat) (s : State) : State := (s.refuseEngine kind 2).advance p

/-- R156 and the placement rules of R204 for a barrier object. -/
def State.bobjChk (s : State) (a : BitVec 32) : Option Stop :=
  if a.toNat % 16 ≠ 0 then some (.trap .prot (a.setWidth 64))
  else
    match s.checkSp s.warp.block a 16 false with
    | .trap _ _ _ => some (.trap .prot (a.setWidth 64))
    | _ => none

/-- Steps 2 to 4 of R217. -/
def State.kickStop (s : State) (v : BitVec 32) (x : BitVec 1024) : Option Stop :=
  let a : Word := v.setWidth 64
  if reqMalformed x then some (.trap .copyAddr a)
  else
    match s.checkSp s.warp.block (reqSaddr x) (reqCount x * reqEsz x) true with
    | .trap _ _ _ => some (.trap .prot ((reqSaddr x).setWidth 64))
    | _ =>
      match s.bobjChk (reqBobj x) with
      | some e => some e
      | none =>
        if reqFan x && (reqRanks x).any fun r => s.block.ranks ≤ r then some (.trap .copyMcast a) else none

/-- Requests that a core's request engine holds. -/
def State.requests (s : State) (core : Nat) : Nat :=
  (s.ops.filter fun o => match o.kind with
    | .request .. => o.core = core
    | _ => false).length

/-- A request that nothing has moved yet. -/
def ReqProg.start : ReqProg := ⟨[], false, false, false, false, none, false⟩

/-- Some access of a request names another rank's window (16 R284). -/
def State.kickPeer (s : State) (a : SNum) (x : BitVec 1024) : Bool :=
  s.peerOther ((s.descAddr a).setWidth 64) || s.peerOther ((reqSaddr x).setWidth 64) ||
    s.peerOther ((reqBobj x).setWidth 64) || (reqFan x && (reqRanks x).any fun r => r ≠ s.block.rank)

/-- `kick` (R217). -/
def execKick (p : Bool) (a : SNum) (s : State) : Host.Outcome State Fault Refusal :=
  let y := BitVec.ofNat 1024 (s.peekDesc a 128)
  let peer := s.peerOther ((reqSaddr y).setWidth 64) || (reqFan y && (reqRanks y).any fun r => r ≠ s.block.rank)
  wordMarked (.kick p a) s (reqStore y || peer) (s.kickPeer a y) fun s =>
    match s.readDesc a 128 with
    | .stop e => .error e
    | .absent => .ok (absentDesc p 4 s)
    | .ok n lbl s' =>
      let x := BitVec.ofNat 1024 n
      match s.kickStop (s.descAddr a) x with
      | some e => .error e
      | none =>
        if 64 ≤ s.requests s.coreNo then .error (.hold [])
        else
          let r := s'.newOp s.execLanes
            (.request x (s.descAddr a).toNat (lbl ||| s.slbl a ||| s.pcl) ReqProg.start) [] [] []
          .ok (r.2.advance p)

/-! ## Moving the elements (R218 to R220) -/

/-- What moving an element comes to: its cause of R219 (0 none), why it was refused, the bytes that land in
scratchpad with their contribution and poison, or those that land in memory. -/
inductive Moved where
  | waits (page : Nat)
  | fails (cause : Nat)
  | refused (why : Nat) (fill : Bool)
  | land (bs : List Byte) (c : Label) (bad : Bool) (s : State)
  | store (k : Nat) (bs : List Byte) (c : Label) (bad : Bool) (s : State)

/-- A cause of R219 for a failed check. -/
def causeCode (c : Cause) : Nat :=
  match c with
  | .page => 2
  | .lblStore => 4
  | _ => 3

/-- One in-bounds element of a request at the global address `a`; `sp` is the scratchpad location of a store's
source, and `declined` the pages that the host has declined for it. -/
def State.moveElem (s : State) (o : Op) (store : Bool) (lreq : Label) (e : Nat) (a : Nat) (sp : Option Nat)
    (declined : List Nat) : Moved :=
  match s.checkVa o.core o.ctx o.priv (s.launchAt o.lseq).pure declined (if store then .store else .load)
    (BitVec.ofNat 64 a) with
  | .trap c _ _ => .fails (causeCode c)
  | .fault p _ => .waits p
  | .refused w => .refused w true
  | .ok k ceil =>
    if store then
      match sp with
      | none => .refused 2 false
      | some j =>
        let c := s.granLbl j ||| lreq
        if s.accepts k ceil c then
          let r := s.engineRead (joinIds o.hb o.done) j e
          .store k r.1 c (o.bad || s.poisoned j) r.2
        else .fails 4
    else if Label.dom (s.ctxAt o.ctx).owners (s.granLbl k) then
      let r := s.engineRead (joinIds o.hb o.done) k e
      .land r.1 (s.granLbl k ||| lreq) (o.bad || s.poisoned k) r.2
    else .fails 3

/-- The scratchpad addresses that receive element `i`: SADDR's, or with FAN the same offset in each live rank's window,
and whether a rank is absent (R220). -/
def State.targets (s : State) (block : Nat) (x : BitVec 1024) (i : Nat) : List Nat × Bool :=
  let at_ (a : BitVec 32) : Option Nat :=
    (s.checkSp block (a + BitVec.ofNat 32 (i * reqEsz x)) (reqEsz x) true).key
  if reqFan x then
    let ks := (reqRanks x).map fun r => at_ (reqSaddr x + BitVec.ofNat 32 (2 ^ 26 + r * 2 ^ 22))
    (ks.filterMap id, ks.any Option.isNone)
  else ((at_ (reqSaddr x)).toList, false)

/-- Byte counts of one element (R219, R220): the issuer's object for every copy, written or dropped, and where the element
was written, as `landed` says, each receiving rank's own. -/
def State.countElem (s : State) (o : Op) (x : BitVec 1024) (lreq : Label) (landed : Bool) : State :=
  let e := reqEsz x
  if reqFan x then
    (reqRanks x).foldl (fun s r =>
      let s := s.countBytes o (reqBobj x) e lreq
      if !landed || r = (s.blockAt o.block).rank then s
      else s.countBytes o (reqBobj x + BitVec.ofNat 32 (2 ^ 26 + r * 2 ^ 22)) e lreq) s
  else s.countBytes o (reqBobj x) e lreq

/-- Keeps the cause of the lowest failing element. -/
def ReqProg.failAt (g : ReqProg) (i cause : Nat) : ReqProg :=
  match g.fail with
  | some (c, j) => if i < j then { g with fail := some (cause, i) } else { g with fail := some (c, j) }
  | none => { g with fail := some (cause, i) }

/-- Lands bytes in windows. -/
def State.landAll (s : State) (o : Op) (ks : List Nat) (bs : List Byte) (c : Label) (bad : Bool) : List Nat × State :=
  ks.foldl (fun (r : List Nat × State) k =>
    let w := r.2.engineStore (r.2.opParty o o.lane) o.hb k bs c bad
    (r.1 ++ w.1, w.2)) ([], s)

/-- Logs the first refused element of an operation. -/
def State.refuseOnce (s : State) (o : Op) (g : ReqProg) (why : Nat) : ReqProg × State :=
  ({ g with rfsd := true, logged := true }, if g.logged then s else s.refuseOp o 4 why)

/-- The locations of `n` bytes at each of some places, where they are unpoisoned. -/
def cleanKeys (bad : Bool) (ks : List Nat) (n : Nat) : List Nat :=
  if bad then [] else (ks.map fun k => (List.range n).map fun i => k + i).flatten

/-- The locations that hold unpoisoned bytes of an operation once an element of `n` bytes has been written at `ks`. -/
def Op.wroteAt (o : Op) (bad : Bool) (ks : List Nat) (n : Nat) : List Nat :=
  (o.wrote.filter fun y => !(ks.any fun k => k ≤ y && y < k + n)) ++ cleanKeys bad ks n

/-- An element of a request has moved: the progress, the writes and the locations that hold its unpoisoned bytes are
kept, covered sectors lose their poison (16 R274), and its bytes are counted but for the last count, which follows STATUS
(R219). BOBJ in the window of an absent rank is a refused access. -/
def elemDone (o : Op) (x : BitVec 1024) (addr : Nat) (lreq : Label) (g : ReqProg) (ids wrote : List Nat) (s : State) :
    State :=
  let gone := match s.checkSp o.block (reqBobj x) 16 false with
    | .refused _ => true
    | _ => false
  let g := { g with landed := !ids.isEmpty }
  let r := if gone then s.refuseOnce o g 2 else (g, s)
  let o := { o with kind := .request x addr lreq r.1, done := o.done ++ ids, wrote := wrote }
  let s := (r.2.clearCovered wrote).opMoved o ids
  if g.moved.length = reqCount x then s else s.countElem o x lreq g.landed

/-- Moves element `i` of a request. It stays where it waits for a page. -/
def moveRequest (o : Op) (x : BitVec 1024) (addr : Nat) (lreq : Label) (g : ReqProg) (i : Nat) (s : State) : State :=
  let e := reqEsz x
  let ts := s.targets o.block x i
  let g := { g with moved := g.moved ++ [i], fdrop := g.fdrop || ts.2 }
  let nowhere : Bool := ts.1 = [] && !reqFan x
  let land (s : State) (g : ReqProg) (bs : List Byte) (c : Label) (bad : Bool) : State :=
    if nowhere then
      let r := s.refuseOnce o g 2
      elemDone o x addr lreq r.1 [] o.wrote r.2
    else
      let r := s.landAll o ts.1 bs c bad
      elemDone o x addr lreq g r.1 (o.wroteAt bad ts.1 e) r.2
  if reqOob x i then
    let g := { g with oob := true }
    if reqStore x then elemDone o x addr lreq g [] o.wrote s else land s g (List.replicate e 0#8) lreq false
  else
    match reqAddr x i with
    | none => elemDone o x addr lreq (g.failAt i 1) [] o.wrote s
    | some a =>
      match (s.cache o.core o.ctx a).moveElem o (reqStore x) lreq e a ts.1.head? (o.declinedFor i) with
      | .waits p => (s.setOp (o.waitsFor i p)).offer (.op o.id) o.ctx (s.blockAt o.block).vcore p (if reqStore x then 1 else 0)
          (s.launchAt o.lseq).privl
      | .fails c => elemDone o x addr lreq (g.failAt i c) [] o.wrote s
      | .refused w fill =>
        let r := s.refuseOnce o g w
        if reqStore x then
          elemDone o x addr lreq r.1 [] o.wrote
            (if fill && !nowhere then r.2.digest o.block a (leNat (s.bytesAt (ts.1.headD 0) e)) else r.2)
        else land r.2 r.1 (allOnes e) (s.ctxAt o.ctx).owners false
      | .land bs c bad s' => land s' g bs c bad
      | .store k bs c bad s' =>
        let s' := s'.digest o.block a (leNat bs)
        if (s.blockAt o.block).audit then elemDone o x addr lreq g [] o.wrote s'
        else
          let y := s'.engineStore (s'.opParty o o.lane) o.hb k bs c bad
          elemDone o x addr lreq g y.1 (o.wroteAt bad [k] e) y.2

/-- STATUS (R219). -/
def reqStatus (g : ReqProg) : Nat :=
  2 ^ 63 + (if g.oob then 2 ^ 62 else 0) + (if g.fdrop then 2 ^ 61 else 0) + (if g.rfsd then 2 ^ 60 else 0) +
    (match g.fail with
      | some (c, i) => c * 2 ^ 56 + i % 2 ^ 40
      | none => 0)

end Sys2Proof.Machine
end

