-- ==== Sys2Proof/Machine/Crypto.lean ====
section
/-! DEFINITION. The published functions that the spec names: SHA3-384 and SHAKE256 (FIPS 202), AES-256 (FIPS 197),
AES-256-GCM (NIST SP 800-38D) and XTS-AES-256, over lists of bytes (09 R165, 14 R235, 16 R281, 20 R334, R339). -/

namespace Sys2Proof.Machine

/-! ## Keccak-f[1600]: 25 lanes of 64 bits, lane (x, y) at x + 5y -/

/-- Rotates a lane left. -/
def rotLane (x n : Nat) : Nat := (x <<< n ||| x >>> (64 - n)) % 2 ^ 64

/-- Rotation offsets of ρ. -/
def keccakRot : List Nat :=
  [0, 1, 62, 28, 27, 36, 44, 6, 55, 20, 3, 10, 43, 25, 39, 41, 45, 15, 21, 8, 18, 2, 61, 56, 14]

/-- Round constants of ι. -/
def keccakRc : List Nat :=
  [0x0000000000000001, 0x0000000000008082, 0x800000000000808A, 0x8000000080008000, 0x000000000000808B,
   0x0000000080000001, 0x8000000080008081, 0x8000000000008009, 0x000000000000008A, 0x0000000000000088,
   0x0000000080008009, 0x000000008000000A, 0x000000008000808B, 0x800000000000008B, 0x8000000000008089,
   0x8000000000008003, 0x8000000000008002, 0x8000000000000080, 0x000000000000800A, 0x800000008000000A,
   0x8000000080008081, 0x8000000000008080, 0x0000000080000001, 0x8000000080008008]

/-- θ. -/
def keccakTheta (a : List Nat) : List Nat :=
  let c := (List.range 5).map fun x => (List.range 5).foldl (fun v y => v ^^^ a.getD (x + 5 * y) 0) 0
  (List.range 25).map fun i =>
    a.getD i 0 ^^^ (c.getD ((i + 4) % 5) 0 ^^^ rotLane (c.getD ((i + 1) % 5) 0) 1)

/-- ρ and π. -/
def keccakRhoPi (a : List Nat) : List Nat :=
  (List.range 25).map fun i =>
    let j := (i % 5 + 3 * (i / 5)) % 5 + 5 * (i % 5)
    rotLane (a.getD j 0) (keccakRot.getD j 0)

/-- χ. -/
def keccakChi (a : List Nat) : List Nat :=
  (List.range 25).map fun i =>
    let at_ (d : Nat) : Nat := a.getD ((i + d) % 5 + 5 * (i / 5)) 0
    a.getD i 0 ^^^ ((2 ^ 64 - 1 - at_ 1) &&& at_ 2)

/-- One round, with its constant. -/
def keccakRound (a : List Nat) (rc : Nat) : List Nat :=
  match keccakChi (keccakRhoPi (keccakTheta a)) with
  | [] => []
  | x :: t => (x ^^^ rc) :: t

/-- The permutation. -/
def keccakF (a : List Nat) : List Nat := keccakRc.foldl keccakRound a

/-- A message padded to a multiple of `rate` bytes, with the first byte `dom` of its padding. -/
def keccakPad (rate dom : Nat) (m : List Byte) : List Byte :=
  let n := rate - m.length % rate
  if n = 1 then m ++ [BitVec.ofNat 8 (dom ||| 0x80)]
  else m ++ BitVec.ofNat 8 dom :: List.replicate (n - 2) 0#8 ++ [0x80#8]

/-- Absorbs `n` blocks of `rate` bytes. -/
def keccakAbsorb (rate : Nat) : Nat → List Byte → List Nat → List Nat
  | 0, _, a => a
  | n + 1, m, a =>
    keccakAbsorb rate n (m.drop rate) (keccakF ((List.range 25).map fun i =>
      a.getD i 0 ^^^ if 8 * i < rate then leNat ((m.drop (8 * i)).take 8) else 0))

/-- Squeezes `n` blocks of `rate` bytes. -/
def keccakSqueeze (rate : Nat) : Nat → List Nat → List Byte
  | 0, _ => []
  | n + 1, a => ((a.map (leBytes 8)).flatten.take rate) ++ keccakSqueeze rate n (keccakF a)

/-- The sponge: `n` bytes of output. -/
def keccak (rate dom n : Nat) (m : List Byte) : List Byte :=
  let p := keccakPad rate dom m
  (keccakSqueeze rate ((n + rate - 1) / rate)
    (keccakAbsorb rate (p.length / rate) p (List.replicate 25 0))).take n

/-- SHAKE256 with `n` bytes of output. -/
def shake256 (m : List Byte) (n : Nat) : List Byte := keccak 136 0x1F n m

/-- SHA3-384; its first byte is the lowest. -/
def sha3_384 (m : List Byte) : BitVec 384 := BitVec.ofNat 384 (leNat (keccak 104 0x06 48 m))

/-! ## AES-256 -/

/-- Doubles in GF(2^8). -/
def gfDouble (a : Nat) : Nat := if a < 128 then 2 * a else 2 * a ^^^ 0x11B

/-- The product in GF(2^8). -/
def gfMul (a b : Nat) : Nat :=
  ((List.range 8).foldl (fun (r : Nat × Nat) i =>
    (if b / 2 ^ i % 2 = 1 then r.1 ^^^ r.2 else r.1, gfDouble r.2)) (0, a)).1

/-- The inverse in GF(2^8), 0 of 0: the 254th power. -/
def gfInv (a : Nat) : Nat :=
  let a2 := gfMul a a
  let a4 := gfMul a2 a2
  let a8 := gfMul a4 a4
  let a16 := gfMul a8 a8
  let a32 := gfMul a16 a16
  let a64 := gfMul a32 a32
  gfMul (gfMul (gfMul a2 a4) (gfMul a8 a16)) (gfMul (gfMul a32 a64) (gfMul a64 a64))

/-- The S-box. -/
def aesSbox (x : Nat) : Nat :=
  let i := gfInv x
  let rot (n : Nat) : Nat := (i <<< n ||| i >>> (8 - n)) % 256
  i ^^^ rot 1 ^^^ rot 2 ^^^ rot 3 ^^^ rot 4 ^^^ 0x63

/-- Bytewise exclusive or. -/
def xorBytes (a b : List Nat) : List Nat := List.zipWith (· ^^^ ·) a b

/-- The next words of a key schedule of four-byte words, given newest first; `i` is the next word's number. -/
def aesExpand : Nat → Nat → List (List Nat) → List (List Nat)
  | 0, _, ws => ws
  | n + 1, i, ws =>
    let t := ws.getD 0 []
    let t :=
      if i % 8 = 0 then
        xorBytes ((t.drop 1 ++ t.take 1).map aesSbox) [(List.range (i / 8 - 1)).foldl (fun r _ => gfDouble r) 1, 0, 0, 0]
      else if i % 8 = 4 then t.map aesSbox else t
    aesExpand n (i + 1) (xorBytes (ws.getD 7 []) t :: ws)

/-- The 15 round keys of a key of 32 bytes, 16 bytes each. -/
def aesKeys (k : List Nat) : List (List Nat) :=
  let w0 := (List.range 8).map fun i => (k.drop (4 * i)).take 4
  let ws := (aesExpand 52 8 w0.reverse).reverse
  (List.range 15).map fun r => ((ws.drop (4 * r)).take 4).flatten

/-- SubBytes and ShiftRows on 16 bytes in column order. -/
def aesSubShift (a : List Nat) : List Nat :=
  (List.range 16).map fun i => aesSbox (a.getD ((i + 4 * (i % 4)) % 16) 0)

/-- MixColumns. -/
def aesMix (a : List Nat) : List Nat :=
  (List.range 16).map fun i =>
    let at_ (d : Nat) : Nat := a.getD (i / 4 * 4 + (i + d) % 4) 0
    gfDouble (at_ 0) ^^^ gfDouble (at_ 1) ^^^ at_ 1 ^^^ at_ 2 ^^^ at_ 3

/-- Encrypts a block of 16 bytes. -/
def aesBlock (keys : List (List Nat)) (x : List Nat) : List Nat :=
  let mid := (keys.drop 1).take 13
  let y := mid.foldl (fun a k => xorBytes (aesMix (aesSubShift a)) k) (xorBytes x (keys.getD 0 []))
  xorBytes (aesSubShift y) (keys.getD 14 [])

/-- The inverse of the S-box. -/
def aesUnsbox (y : Nat) : Nat :=
  let rot (n : Nat) : Nat := (y <<< n ||| y >>> (8 - n)) % 256
  gfInv (rot 1 ^^^ rot 3 ^^^ rot 6 ^^^ 0x05)

/-- The inverse of SubBytes and ShiftRows. -/
def aesUnsubShift (a : List Nat) : List Nat :=
  (List.range 16).map fun i => aesUnsbox (a.getD ((i + 12 * (i % 4)) % 16) 0)

/-- The inverse of MixColumns. -/
def aesUnmix (a : List Nat) : List Nat :=
  (List.range 16).map fun i =>
    let at_ (d : Nat) : Nat := a.getD (i / 4 * 4 + (i + d) % 4) 0
    gfMul (at_ 0) 14 ^^^ gfMul (at_ 1) 11 ^^^ gfMul (at_ 2) 13 ^^^ gfMul (at_ 3) 9

/-- Decrypts a block of 16 bytes. -/
def aesUnblock (keys : List (List Nat)) (x : List Nat) : List Nat :=
  let mid := ((keys.drop 1).take 13).reverse
  let y := aesUnsubShift (xorBytes x (keys.getD 14 []))
  xorBytes (mid.foldl (fun a k => aesUnsubShift (aesUnmix (xorBytes a k))) y) (keys.getD 0 [])

/-! ## XTS, over units of whole blocks -/

/-- Bytes of a number, the first lowest. -/
def natBytes : Nat → Nat → List Nat
  | 0, _ => []
  | k + 1, n => n % 256 :: natBytes k (n / 256)

/-- The tweak of the next block: times α in GF(2^128), the first byte lowest. -/
def xtsNext (t : Nat) : Nat := if t < 2 ^ 127 then 2 * t else (2 * t - 2 ^ 128) ^^^ 0x87

/-- The blocks of a unit under the tweaks from `t` on. -/
def xtsBlocks (f : List Nat → List Nat) : Nat → Nat → List Nat → List Nat
  | 0, _, _ => []
  | n + 1, t, x =>
    xorBytes (f (xorBytes (x.take 16) (natBytes 16 t))) (natBytes 16 t) ++ xtsBlocks f n (xtsNext t) (x.drop 16)

/-- A unit of 64 bytes encrypted, or decrypted, under the data key, the tweak key and a tweak. -/
def xtsUnit (out : Bool) (key tweakKey : List Byte) (tweak : Nat) (x : List Byte) : List Byte :=
  let nums (b : List Byte) : List Nat := b.map BitVec.toNat
  let keys := aesKeys (nums key)
  let t := aesBlock (aesKeys (nums tweakKey)) (natBytes 16 tweak)
  (xtsBlocks (if out then aesBlock keys else aesUnblock keys) 4 (t.foldr (fun b v => b + 256 * v) 0) (nums x)).map
    (BitVec.ofNat 8)

/-! ## GCM -/

/-- A block as a number, its first byte highest. -/
def blockNat (x : List Nat) : Nat := x.foldl (fun v b => 256 * v + b) 0

/-- A number as a block of 16 bytes. -/
def natBlock (n : Nat) : List Nat := (List.range 16).map fun i => n / 256 ^ (15 - i) % 256

/-- The product in GF(2^128). -/
def ghashMul (x y : Nat) : Nat :=
  ((List.range 128).foldl (fun (r : Nat × Nat) i =>
    (if x / 2 ^ (127 - i) % 2 = 1 then r.1 ^^^ r.2 else r.1,
      if r.2 % 2 = 1 then r.2 / 2 ^^^ 0xE1 * 2 ^ 120 else r.2 / 2)) (0, y)).1

/-- Blocks of 16 bytes, `n` of them, the last filled up with zeros. -/
def blocksOf (n : Nat) (x : List Nat) : List (List Nat) :=
  (List.range n).map fun i => (List.range 16).map fun j => x.getD (16 * i + j) 0

/-- GHASH of a text without additional data. -/
def ghash (h : Nat) (x : List Nat) : Nat :=
  let y := (blocksOf ((x.length + 15) / 16) x).foldl (fun v b => ghashMul (v ^^^ blockNat b) h) 0
  ghashMul (y ^^^ 8 * x.length) h

/-- The text under the key stream of counters 2 and on. -/
def gcmStream (keys : List (List Nat)) (iv x : List Nat) : List Nat :=
  (xorBytes x ((List.range ((x.length + 15) / 16)).map fun i =>
    aesBlock keys (iv ++ (natBlock (i + 2)).drop 12)).flatten)

/-- The tag of a ciphertext. -/
def gcmTag (keys : List (List Nat)) (iv ct : List Nat) : List Nat :=
  let h := blockNat (aesBlock keys (List.replicate 16 0))
  xorBytes (natBlock (ghash h ct)) (aesBlock keys (iv ++ [0, 0, 0, 1]))

/-- AES-256-GCM decryption without additional data: key of 32 bytes, IV of 12; none where the tag fails. -/
def gcmOpen (key iv ct tag : List Byte) : Option (List Byte) :=
  let nums (x : List Byte) : List Nat := x.map BitVec.toNat
  let keys := aesKeys (nums key)
  if gcmTag keys (nums iv) (nums ct) = nums tag then
    some ((gcmStream keys (nums iv) (nums ct)).map (BitVec.ofNat 8))
  else none

end Sys2Proof.Machine
end

