-- ==== Sys2Proof/Machine/Modular.lean ====
section
/-! DEFINITION. The modular vector group on Q64 residues (06 R124, R125, 07 R144). -/

namespace Sys2Proof.Machine

/-- Bit length of a number. -/
def bitLen (q : Nat) : Nat := if q = 0 then 0 else q.log2 + 1

/-- The pair (q, mu) is valid (R124). -/
def modulusOk (q mu : Nat) : Bool := q % 2 = 1 && 3 ≤ q && q < 2 ^ 62 && mu = 2 ^ (2 * bitLen q) / q

/-- Reads a pair of registers of a lane as a residue. -/
def State.pair (s : State) (r l : Nat) : Nat := s.velt true r l

/-- Writes the destination pairs of each participating lane: the values of `v`, all with the lane's label. -/
def putPairs (d : Nat) (v : Nat → List Nat) (lb : Nat → Label) : List Nat → State → State
  | [], s => s
  | l :: rest, s =>
    putPairs d v lb rest ((v l).zipIdx.foldl (fun s x => s.setV true (d + 2 * x.2) l x.1 (lb l)) s)

/-- The effect of R144: `pairs` are the operand pairs of a lane in order, `outs` the number of destination pairs, and
`f` the results modulo q. -/
def modEffect (p : Bool) (d : VNum) (b : SNum) (pairs : List Nat) (outs : Nat) (f : Nat → List Nat → List Nat)
    (s : State) : State :=
  let q := (s.sreg b).toNat
  let ok := modulusOk q (s.sreg (b + 1)).toNat
  let ops (l : Nat) := pairs.map fun r => s.pair r l
  let c := s.pcl ||| s.guardLbl ||| s.slbl b ||| s.slbl (b + 1)
  let lb (l : Nat) := c ||| joinLabels (pairs.map fun r => s.vlbl true r l)
  let v (l : Nat) := if ok then f q ((ops l).map (· % q)) else List.replicate outs 0
  let range := s.lanes.any fun l => (ops l).any fun x => q ≤ x
  let s' := putPairs d.toNat v lb s.lanes s
  (s'.setFlags (flagIf (!ok || range) fQRNG) (joinLabels (s.lanes.map lb))).advance p

/-- The operands x and y of a binary row. -/
def mod2 (p : Bool) (d a : VNum) (b : SNum) (f : Nat → Nat → Nat → Nat) (s : State) : State :=
  modEffect p d b [d.toNat, a.toNat] 1 (fun q xs => [f q (xs.getD 0 0) (xs.getD 1 0)]) s

/-- `vqadd` (R144). -/
def execVqadd (p : Bool) (d a : VNum) (b : SNum) (s : State) : Host.Outcome State Fault Refusal :=
  word (.vqadd p d a b) s fun s => .ok (mod2 p d a b (fun q x y => (x + y) % q) s)

/-- `vqsub` (R144). -/
def execVqsub (p : Bool) (d a : VNum) (b : SNum) (s : State) : Host.Outcome State Fault Refusal :=
  word (.vqsub p d a b) s fun s => .ok (mod2 p d a b (fun q x y => (x + (q - y)) % q) s)

/-- `vqmul` (R144). -/
def execVqmul (p : Bool) (d a : VNum) (b : SNum) (s : State) : Host.Outcome State Fault Refusal :=
  word (.vqmul p d a b) s fun s => .ok (mod2 p d a b (fun q x y => x * y % q) s)

/-- The operands a, b and w of a butterfly, and its two results. -/
def butterfly (p : Bool) (d a : VNum) (b : SNum) (f : Nat → Nat → Nat → Nat → Nat × Nat) (s : State) : State :=
  modEffect p d b [d.toNat, d.toNat + 2, a.toNat] 2
    (fun q xs => let r := f q (xs.getD 0 0) (xs.getD 1 0) (xs.getD 2 0); [r.1, r.2]) s

/-- `vqbfly` (R144): t = w x b; a + t and a - t. -/
def execVqbfly (p : Bool) (d a : VNum) (b : SNum) (s : State) : Host.Outcome State Fault Refusal :=
  word (.vqbfly p d a b) s fun s =>
    .ok (butterfly p d a b (fun q x y w => ((x + w * y) % q, (x + (q - w * y % q)) % q)) s)

/-- `vqbflyi` (R144): a + b and (a - b) x w. -/
def execVqbflyi (p : Bool) (d a : VNum) (b : SNum) (s : State) : Host.Outcome State Fault Refusal :=
  word (.vqbflyi p d a b) s fun s =>
    .ok (butterfly p d a b (fun q x y w => ((x + y) % q, (x + (q - y)) % q * w % q)) s)

end Sys2Proof.Machine
end

