-- ==== Sys2Proof/Machine/Privileged.lean ====
section
/-! DEFINITION. The privileged instructions (20 R346 to R356, 22 R362): return from a trap, translation and cache
maintenance, key slots and scrub jobs. -/

namespace Sys2Proof.Machine

/-- `eret` (02 R29, 20 R346). -/
def execEret (s : State) : Host.Outcome State Fault Refusal :=
  word .eret s fun s => if !s.split.eh then .error (.trap .ill (wordOf .eret)) else .ok s.eretTo

/-! ## Translations and caches (R347, R348) -/

/-- The live context of a partition index (17 R295). -/
def State.byIndex (s : State) (pav i : Nat) : Option Nat :=
  (s.ctxs.entries.find? fun e => e.2.live && e.2.pav = pav && e.2.pidx = i).map Prod.fst

/-- The operands of `tlbinv` and `cinv`: a context and a range, or the value that names what is wrong (R347). -/
def State.invTarget (s : State) (a b : SNum) : Except Word (Nat × Nat × Nat) :=
  let v := s.sreg a
  if bitOf v 63 then .error v
  else
    match s.byIndex s.ctx.pav (fieldOf v 57 6) with
    | none => .error v
    | some c =>
      if fieldOf v 0 57 % 2 ^ 16 ≠ 0 then .error v
      else if (s.sreg b).toNat % 2 ^ 16 ≠ 0 then .error (s.sreg b)
      else .ok (c, fieldOf v 0 57, (s.sreg b).toNat)

/-- A list of cached translations without those of a context that meet a range; a length of 0 is every address. -/
def dropTlb (c lo n : Nat) (t : List (Nat × Nat × BitVec 128 × Nat)) : List (Nat × Nat × BitVec 128 × Nat) :=
  t.filter fun e => !(e.1 = c && (n = 0 || (e.2.1 < lo + n && lo < e.2.1 + e.2.2.2)))

/-- Drops translations from the core TLBs that `f` picks. -/
def State.dropCores (s : State) (f : Nat → Bool) (c lo n : Nat) : State :=
  (s.cores.keys.filter f).foldl (fun s k =>
    let x := s.coreAt k
    s.setCoreAt k { x with tlb := dropTlb c lo n x.tlb }) s

/-- Drops translations from the TLBs of the dies that `f` picks. -/
def State.dropDies (s : State) (f : Nat → Bool) (c lo n : Nat) : State :=
  (s.dieTlb.keys.filter f).foldl (fun s d =>
    { s with dieTlb := s.dieTlb.set [] d (dropTlb c lo n (s.dieTlb.get [] d)) }) s

/-- `tlbinv` (R347). -/
def execTlbinv (p : Bool) (a b : SNum) (r : TlbS) (s : State) : Host.Outcome State Fault Refusal :=
  word (.tlbinv p a b r) s fun s =>
    match s.invTarget a b with
    | .error v => .error (.trap .prot v)
    | .ok (c, lo, n) =>
      let die := dieOf s.coreNo
      .ok ((match r with
        | .core => s.dropCores (fun k => k = s.coreNo) c lo n
        | .die => (s.dropCores (fun k => dieOf k = die) c lo n).dropDies (fun d => d = die) c lo n
        | .dev => (s.dropCores (fun _ => true) c lo n).dropDies (fun _ => true) c lo n).advance p)

/-- The physical 64 KiB pages that a context maps in a range of its addresses; a length of 0 is every address. -/
def State.pagesIn (s : State) (c lo n : Nat) : List Nat :=
  ((s.leaves c).map fun x =>
    ((List.range (pageBytes (leafSize x.2) / 2 ^ 16)).filter fun i =>
      n = 0 || (x.1 + i * 2 ^ 16 < lo + n && lo ≤ x.1 + i * 2 ^ 16)).map fun i => fieldOf x.2 16 32 + i).flatten

/-- The lines of some pages leave the L1 of every core of a Pavilion. -/
def State.dropLines (s : State) (pav : Nat) (pages : List Nat) : State :=
  let g := (s.pavAt pav).cfg
  (s.cores.keys.filter fun k => fieldOf g 0 8 ≤ k / 4 && k / 4 ≤ fieldOf g 8 8).foldl (fun s k =>
    let x := s.coreAt k
    s.setCoreAt k { x with l1 := x.l1.filter fun y => !pages.contains (y / 512) }) s

/-- `cinv` (R348): the lines of a range leave the L1s, and those written back from the LLC are dirty there no more. -/
def execCinv (p : Bool) (a b : SNum) (l : Level) (s : State) : Host.Outcome State Fault Refusal :=
  word (.cinv p a b l) s fun s =>
    match s.invTarget a b with
    | .error v => .error (.trap .prot v)
    | .ok (c, lo, n) =>
      let pages := s.pagesIn c lo n
      let t := s.dropLines s.ctx.pav pages
      let t := if l = .llc then
        { t with phys := { t.phys with clean := pages.foldl (fun m g => m.set 0 g t.nextId) t.phys.clean } } else t
      .ok (t.advance p)

/-! ## Key slots (R349, R350) -/

/-- A key slot. -/
def State.keySlot (s : State) (k : Nat) : KeySlot := s.tack.slots.get KeySlot.blank k

/-- Replaces a key slot. -/
def State.setKeySlot (s : State) (k : Nat) (x : KeySlot) : State :=
  { s with tack := { s.tack with slots := s.tack.slots.set KeySlot.blank k x } }

/-- The lowest empty key slot (R331). -/
def State.emptySlot (s : State) : Option Nat := (List.range' 1 255).find? fun k => !(s.keySlot k).used

/-- The Tack Room fills a slot with a key (R331, R332). -/
def State.fillSlot (s : State) (k kind c pav : Nat) (key : BitVec 256) : State :=
  s.setKeySlot k { used := true, kind := kind, ctx := c, pav := pav, dead := false, key := key, svn := s.tack.version }

/-- The Tack Room fills a slot with a key that it draws (R331, R333). -/
def State.drawSlot (s : State) (k kind c pav : Nat) : State :=
  let s := s.fillSlot k kind c pav (Config.drawnKey s.tack.drawn)
  { s with tack := { s.tack with drawn := s.tack.drawn + 1 } }

/-- A stationary load port is loading under one of `n` slots from `f` (R349). -/
def State.portUses (s : State) (f n : Nat) : Bool :=
  s.cores.entries.any fun e => e.2.bslots.entries.any fun b =>
    let k := fieldOf b.2.desc 160 8
    b.2.st == .loading && f ≤ k && k < f + n && s.slotOk k 1 (s.blockAt b.2.owner).ctx

/-- A port's load, or an access to the pool of a name below `upto`, uses one of `n` slots from `f`: that of a context whose
memory key is there (R349). -/
def State.slotsBusy (s : State) (f n upto : Nat) : Bool :=
  let cs := ((List.range' f n).filter fun k => (s.keySlot k).holds 2 (s.keySlot k).ctx).map fun k => (s.keySlot k).ctx
  s.portUses f n || (s.ops.any fun o => o.id < upto && cs.contains o.ctx) ||
    s.warps.entries.any fun e => cs.contains e.2.ctx && e.2.loads.any fun x => x.id < upto

/-- Those of `n` slots from `f` that are no other Pavilion's are empty. -/
def zeroKeys (f n pav : Nat) (s : State) : State :=
  (List.range' f n).foldl (fun s k => if (s.keySlot k).used && (s.keySlot k).pav ≠ pav then s else s.setKeySlot k KeySlot.blank) s

/-- A `kzero` whose slots nothing that it waits for uses any longer completes (R349). -/
def settleKzero (s : State) : State :=
  s.warps.entries.foldl (fun s e => e.2.liveSplits.foldl (fun s p =>
    match p.2.st with
    | .swait (.kzero f n upto) =>
      if s.slotsBusy f n upto then s else s.asWarp e.1 p.1 fun s => (zeroKeys f n s.ctx.pav s).finishWait
    | _ => s) s) s

/-- `kzero` (R349). -/
def execKzero (p : Bool) (a b : SNum) (s : State) : Host.Outcome State Fault Refusal :=
  word (.kzero p a b) s fun s =>
    let f := (s.sreg a).toNat
    let n := (s.sreg b).toNat
    if n = 0 || 256 < f + n then .error (.trap .prot (s.sreg b))
    else if f = 0 || (List.range' f n).any fun k => (s.keySlot k).used && (s.keySlot k).pav ≠ s.ctx.pav then
      .error (.trap .prot (s.sreg a))
    else if s.slotsBusy f n s.nextId then .ok (s.await (.kzero f n s.nextId) p (s.readLabel (.kzero p a b)))
    else .ok ((zeroKeys f n s.ctx.pav s).advance p)

/-- The status word of a key slot (R350). -/
def KeySlot.status (x : KeySlot) : Word :=
  if x.used then BitVec.ofNat 64 (2 ^ 63 + x.kind % 8 * 2 ^ 60 + x.ctx % 256 * 2 ^ 52 + x.svn % 2 ^ 16 * 2 ^ 16) else 0

/-! ## Scrub jobs (R352 to R355) -/

/-- A scrub job. -/
def State.job (s : State) (j : Nat) : Job := s.tack.jobs.get Job.blank j

/-- Replaces a scrub job. -/
def State.setJob (s : State) (j : Nat) (x : Job) : State :=
  { s with tack := { s.tack with jobs := s.tack.jobs.set Job.blank j x } }

/-- The code of a job's state (R354). -/
def JobSt.code (x : JobSt) : Nat :=
  match x with
  | .free => 0
  | .run => 1
  | .held => 2
  | .done => 3

/-- The header of a job descriptor. -/
def jobHeader (bs : List Byte) : BitVec 512 := BitVec.ofNat 512 (leNat (bs.take 64))

/-- The extents of a job descriptor. -/
def jobExtents (bs : List Byte) : List (BitVec 128) :=
  (List.range (fieldOf (jobHeader bs) 256 8)).map fun i =>
    BitVec.ofNat 128 (leNat ((bs.drop (64 + 16 * i)).take 16))

/-- The progress word of job `j` (R354): the reset value of every field where the job is FREE. -/
def jobWord (j : Nat) (x : Job) : Word :=
  if x.st = .free then 0
  else BitVec.ofNat 64 ((if x.st = .done then 2 ^ 63 else 0) + x.st.code * 2 ^ 61 + j * 2 ^ 52 +
    fieldOf (jobHeader x.desc) 192 8 * 2 ^ 44 + x.ckpt % 2 ^ 40)

/-- `kstat` (R350). -/
def execKstat (p : Bool) (d a : SNum) (s : State) : Host.Outcome State Fault Refusal :=
  word (.kstat p d a) s fun s =>
    let n := (s.sreg a).toNat
    if 1 ≤ n && n < 0x100 then
      let x := s.keySlot n
      .ok ((s.setS d (if x.pav = s.ctx.pav then x.status else 0) s.pcl).advance p)
    else if 0x100 ≤ n && n < 0x110 then
      .ok ((s.setS d (jobWord (n - 0x100) (s.job (n - 0x100))) s.pcl).advance p)
    else .error (.trap .prot (s.sreg a))

/-- KIND of an extent. -/
def extKind (e : BitVec 128) : Nat := fieldOf e 124 4
/-- CORE. -/
def extCore (e : BitVec 128) : Nat := fieldOf e 96 16
/-- LEN. -/
def extLen (e : BitVec 128) : Nat := fieldOf e 64 32
/-- BASE. -/
def extBase (e : BitVec 128) : Nat := fieldOf e 0 64

/-- Chunks of 64 KiB of an extent. -/
def extChunks (e : BitVec 128) : Nat := if extKind e = 1 then 32 else extLen e

/-- An extent is malformed (R352). -/
def extBad (e : BitVec 128) : Bool :=
  fieldOf e 112 12 ≠ 0 ||
    match extKind e with
    | 1 => extLen e ≠ 0 || extBase e ≠ 0
    | 2 => extBase e % 2 ^ 16 ≠ 0 || 2 ^ 21 < extBase e + extLen e * 2 ^ 16
    | 3 => extCore e ≠ 0 || extBase e % 2 ^ 16 ≠ 0
    | _ => true

/-- A core lies in the cluster range of a Pavilion (17 R290). -/
def State.inRange (s : State) (pav core : Nat) : Bool :=
  let g := (s.pavAt pav).cfg
  core < s.part.cores && fieldOf g 0 8 ≤ core / 4 && core / 4 ≤ fieldOf g 8 8

/-- A physical page is free for a Pavilion, or assigned to one of its contexts, live or not (R346). -/
def State.pageReach (s : State) (pav page : Nat) : Bool :=
  match s.phys.owners.get .unowned page with
  | .unowned => false
  | .ctx n => (s.ctxAt n).pav = pav
  | .gone p => p = pav
  | .pool p => p = pav

/-- Physical pages of a kind-3 extent. -/
def extPages (e : BitVec 128) : List Nat := List.range' (extBase e / 2 ^ 16) (extLen e)

/-- An extent lies within a Pavilion's reach (R346). -/
def State.extReach (s : State) (pav : Nat) (e : BitVec 128) : Bool :=
  if extKind e = 3 then extBase e + extLen e * 2 ^ 16 ≤ poolBytes && (extPages e).all (s.pageReach pav)
  else s.inRange pav (extCore e)

/-- Ranges share a byte: an empty one shares none. -/
def meets (a n b m : Nat) : Bool := n ≠ 0 && m ≠ 0 && a < b + m && b < a + n

/-- Two extents overlap (R352). -/
def extOverlap (x y : BitVec 128) : Bool :=
  if extKind x = 3 then
    extKind y = 3 && meets (extBase x / 2 ^ 16) (extLen x) (extBase y / 2 ^ 16) (extLen y)
  else
    extKind y ≠ 3 && extCore x = extCore y &&
      (extKind x = 1 || extKind y = 1 ||
        meets (extBase x / 2 ^ 16) (extLen x) (extBase y / 2 ^ 16) (extLen y))

/-- Jobs that are RUN or HELD. -/
def State.busyJobs (s : State) : List Job :=
  ((List.range 16).map s.job).filter fun x => x.st == .run || x.st == .held

/-- Part of a resource lies in a job that is RUN or HELD (R356, R362). -/
def State.scrubbing (s : State) (e : BitVec 128) : Bool :=
  s.busyJobs.any fun x => (jobExtents x.desc).any (extOverlap e)

/-- Reads `n` bytes of a descriptor at a virtual address as 8-byte loads (R191 steps 1 to 4, 16 R273). -/
def State.readVirtual (s : State) (align : Nat) (va : Word) (n : Nat) : Eff (List Byte × State) :=
  let at_ (i : Nat) : Word := va + BitVec.ofNat 64 (8 * i)
  let cs := (List.range (n / 8)).map fun i => s.memChk .load (at_ i) 8
  if va.toNat % align ≠ 0 then .error (.trap .align va true)
  else
    match s.accessStop true false cs with
    | some e => .error e
    | none =>
      .ok (cs.foldl (fun (r : List Byte × State) c =>
        match c with
        | .ok k _ =>
          let x := r.2.readEvent s.execLanes k 8 none false
          (r.1 ++ x.1, x.2)
        | _ => (r.1 ++ allOnes 8, r.2)) ([], s.refuseFirst 0 cs))

/-- The page of an address has PO = 1 (R352). -/
def State.privPage (s : State) (va : Word) : Bool :=
  match s.translate s.coreNo s.warp.ctx va.toNat with
  | .leaf e => bitOf e 3
  | _ => true

/-- Every page of a job descriptor's bytes has PO = 1. -/
def State.privPages (s : State) (va : Word) (n : Nat) : Bool :=
  (List.range (n / 8)).all fun i => s.privPage (va + BitVec.ofNat 64 (8 * i))

/-- A job's header is malformed (R352). -/
def headerBad (h : BitVec 512) : Bool :=
  fieldOf h 264 248 ≠ 0 || fieldOf h 200 56 ≠ 0 || fieldOf h 128 64 ≠ 0 || fieldOf h 0 64 ≠ 0 ||
    fieldOf h 256 8 = 0 || 64 < fieldOf h 256 8 || fieldOf h 64 64 % 8 ≠ 0

/-- Starts, resumes or refuses a scrub job with a descriptor (R352 step 3): the value of S[Sd]. -/
def startScrub (desc : List Byte) (s : State) : Nat × State :=
  let dg := sha3_384 desc
  let jobs := List.range 16
  match jobs.find? fun j => (s.job j).st = .held && (s.job j).digest = dg with
  | some j => (2 ^ 62 + j, s.setJob j { s.job j with st := .run, issuer := some s.warp.ctx })
  | none =>
    if (jobExtents desc).any s.scrubbing then (2 ^ 63 + 1, s)
    else
      let free := (jobs.find? fun j => (s.job j).st = .free).orElse fun _ => jobs.find? fun j => (s.job j).st = .done
      match free with
      | none => (2 ^ 63 + 2, s)
      | some j =>
        (j, s.setJob j { st := .run, ckpt := 0, desc := desc, digest := dg, issuer := some s.warp.ctx, assigned := [] })

/-- `scrub` (R352). -/
def execScrub (p : Bool) (d a : SNum) (s : State) : Host.Outcome State Fault Refusal :=
  word (.scrub p d a) s fun s => do
    let va := s.sreg a
    let h ← s.readVirtual 64 va 64
    let n := fieldOf (jobHeader h.1) 256 8
    let e ← if 1 ≤ n && n ≤ 64 then h.2.readVirtual 16 (va + 64) (16 * n) else .ok ([], h.2)
    let desc := h.1 ++ e.1
    if !s.privPages va desc.length then .error (.trap .prot va true)
    else if headerBad (jobHeader desc) || (jobExtents desc).any fun x => extBad x || !s.extReach s.ctx.pav x then
      .error (.trap .prot va true)
    else
      let x := startScrub desc (e.2.cacheAll (pageStarts va desc.length))
      .ok ((x.2.setS d (BitVec.ofNat 64 x.1) s.pcl).advance p)

/-! ## Owners of cores and physical ranges (R356, R362) -/

/-- An owner is a live context other than one. -/
def State.ownedByOther (s : State) (o : Owner) (but : Option Nat) : Bool :=
  match o with
  | .ctx n => (s.ctxAt n).live && some n ≠ but
  | _ => false

/-- Part of a resource is assigned to a live context other than one. -/
def State.resourceInUse (s : State) (e : BitVec 128) (but : Option Nat) : Bool :=
  if extKind e = 3 then (extPages e).any fun g => s.ownedByOther (s.phys.owners.get .unowned g) but
  else s.ownedByOther (s.coreAt (extCore e)).assigned but

end Sys2Proof.Machine
end

