-- ==== Sys2Proof/Machine/Matrix.lean ====
section
/-! DEFINITION. The matrix engine and its instructions (06 R126 to R128, 14 R227 to R248, 15 R249 to R264). -/

namespace Sys2Proof.Machine

/-! ## B-load descriptors (R227, R234, R252) -/

/-- MXM. -/
def bMode (d : BitVec 512) : Nat := fieldOf d 168 4
/-- PA. -/
def bPa (d : BitVec 512) : Nat := fieldOf d 172 4
/-- PB. -/
def bPb (d : BitVec 512) : Nat := fieldOf d 176 4
/-- KG. -/
def bKg (d : BitVec 512) : Nat := fieldOf d 184 8
/-- G0. -/
def bG0 (d : BitVec 512) : Nat := fieldOf d 384 16
/-- Q. -/
def bQ (d : BitVec 512) : Nat := fieldOf d 256 64
/-- BLK0. -/
def bBlk (d : BitVec 512) : Nat := fieldOf d 128 32

/-- The most K groups that a slot holds: KMAX/64 of R227. -/
def bKmax (d : BitVec 512) : Nat :=
  match bMode d with
  | 3 => 4
  | 4 => 2
  | 5 => 1
  | _ => 64 / bPb d

/-- Blocks that the port reads for one K group (R235). -/
def bBlocks (d : BitVec 512) : Nat :=
  match bMode d with
  | 3 => 16
  | 4 => 32
  | 5 => 64
  | _ => bPb d

/-- Blocks of one K group in the tensor, of which an NP load may read fewer (R235). -/
def bStride (d : BitVec 512) : Nat := if bMode d < 3 then 8 else bBlocks d

/-- Bytes of a B element of the modes that are not NP, and of an A element (R227, R232). -/
def bBytes (d : BitVec 512) : Nat :=
  match bMode d with
  | 3 => 2
  | 4 => 4
  | 5 => 8
  | _ => 1

/-- Bytes of an accumulator element (R238). -/
def accBytesOf (d : BitVec 512) : Nat :=
  match bMode d with
  | 1 => 2
  | 5 => 8
  | _ => 4

/-- A B-load descriptor is malformed (R252 step 4). -/
def bMalformed (d : BitVec 512) : Bool :=
  let np := bMode d < 3
  let planes (n : Nat) : Bool := if np then 2 ≤ n && n ≤ 8 else n = 0
  fieldOf d 400 112 ≠ 0 || fieldOf d 180 4 ≠ 0 || fieldOf d 121 7 ≠ 0 || fieldOf d 57 7 ≠ 0 || 6 ≤ bMode d ||
    !planes (bPa d) || !planes (bPb d) || bKg d = 0 || bKmax d < bKg d ||
    (if bMode d = 5 then !modulusOk (bQ d) (fieldOf d 320 64) else bQ d ≠ 0 || fieldOf d 320 64 ≠ 0) ||
    fieldOf d 0 57 % 512 ≠ 0 || fieldOf d 64 57 % 16 ≠ 0 || 2 ^ 32 < bBlk d + bKg d * bBlocks d

/-- The blocks of a load in the order in which their plaintext lies in the slot. -/
def bLoad (d : BitVec 512) : List Nat :=
  ((List.range (bKg d)).map fun g => (List.range (bBlocks d)).map fun j => bBlk d + bStride d * g + j).flatten

/-! ## Slots and groups -/

/-- A B slot of a core. -/
def State.bslotAt (s : State) (core n : Nat) : BSlot := (s.coreAt core).bslots.get BSlot.blank n

/-- Replaces a B slot. -/
def State.setBslotAt (s : State) (core n : Nat) (x : BSlot) : State :=
  let k := s.coreAt core
  s.setCoreAt core { k with bslots := k.bslots.set BSlot.blank n x }

/-- Changes the groups of a core. -/
def State.mapGroups (s : State) (core : Nat) (f : List Group → List Group) : State :=
  let k := s.coreAt core
  s.setCoreAt core { k with groups := f k.groups }

/-- Closes every open group of a slot (R249). -/
def State.closeGroups (s : State) (core n : Nat) : State :=
  s.mapGroups core fun gs => gs.map fun g => if g.slot = n then { g with closed := true } else g

/-- Slot `n` is the block's: neither EMPTY, nor freed, nor another block's (R260 step 1). -/
def BSlot.mine (x : BSlot) (block : Nat) : Bool := x.st != .empty && !x.freeing && x.owner = block

/-- Slot `n` is owned by another live block of the core (R252 step 5, R254). -/
def State.foreignSlot (s : State) (x : BSlot) : Bool :=
  x.st != .empty && x.owner ≠ s.warp.block && (s.blockAt x.owner).live

/-- Slots whose freeing waited for their load and their last pass become EMPTY (R233, R254, R262). -/
def State.settleSlots (s : State) (core : Nat) : State :=
  (List.range 4).foldl (fun s n =>
    if (s.bslotAt core n).freeing && (s.bslotAt core n).st != .loading && !((s.coreAt core).groups.any fun g => g.slot = n)
    then s.setBslotAt core n BSlot.blank else s) s

/-- A group launches behind those launched before it (R229). -/
def launchGroup (id : Nat) (gs : List Group) : List Group :=
  match gs.find? fun g => g.id = id with
  | none => gs
  | some g =>
    let rest := gs.filter fun x => x.id ≠ id
    (rest.filter Group.launched) ++ { g with closed := true, launched := true } :: rest.filter fun x => !x.launched

/-- Launches a group that is full and has its plaintext. -/
def launchFull (gs : List Group) : List Group :=
  (gs.filter fun g => !g.launched && g.plain.isSome && 4 ≤ g.quarters.length).foldl
    (fun gs g => launchGroup g.id gs) gs

/-! ## Loading and freeing slots (R252 to R254) -/

/-- A descriptor at a scratchpad address of the warp's own window (R249). -/
def State.readOwn (s : State) (v : BitVec 32) (n : Nat) : DescRead :=
  if v.toNat % n ≠ 0 then .stop (.trap .align (v.setWidth 64))
  else if bitOf v 26 then .stop (.trap .prot (v.setWidth 64))
  else s.readDescAt v n

/-- `mldb` (R252, R253). -/
def execMldb (p : Bool) (a b : SNum) (n : BitVec 2) (s : State) : Host.Outcome State Fault Refusal :=
  word (.mldb p a b n) s fun s =>
    let v := (s.sreg a + s.sreg b).setWidth 32
    match s.readOwn v 64 with
    | .stop e => .error e
    | .absent => .error (.trap .prot (v.setWidth 64))
    | .ok x lbl s' =>
      let d := BitVec.ofNat 512 x
      let slot := s.bslotAt s.coreNo n.toNat
      if bMode d = 5 && !s.part.full then .error (.trap .ill (wordOf (.mldb p a b n)))
      else if bMalformed d then .error (.trap .prot (v.setWidth 64))
      else if s.foreignSlot slot then .error (.trap .prot (n.setWidth 64))
      else if slot.st = .loading then .error (.hold [])
      else
        let r := s'.intern (lbl ||| s.slbl a ||| s.slbl b ||| s.pcl ||| s.guardLbl)
        let y : BSlot := { BSlot.blank with
          st := .loading, owner := s.warp.block, desc := d, priv := s.split.priv,
          hb := s.warp.seenAll s.execLanes, lbl := r.2.label r.1 }
        .ok (((r.2.closeGroups s.coreNo n.toNat).setBslotAt s.coreNo n.toNat y).advance p)

/-- `mfree` (R254). -/
def execMfree (p : Bool) (n : BitVec 2) (s : State) : Host.Outcome State Fault Refusal :=
  word (.mfree p n) s fun s =>
    let x := s.bslotAt s.coreNo n.toNat
    if s.foreignSlot x then .error (.trap .prot (n.setWidth 64))
    else if x.st = .empty || x.owner ≠ s.warp.block then .ok (s.advance p)
    else
      let s' := (s.closeGroups s.coreNo n.toNat).setBslotAt s.coreNo n.toNat { x with freeing := true }
      .ok ((s'.settleSlots s.coreNo).advance p)

/-- What the port finds at `n` bytes of the tensor. -/
inductive PortRead where
  | waits (page : Nat)
  | fails (why : Option Nat)
  | ok (bs : List Byte) (lbl : Label) (s : State)

/-- One read of the stationary load port (R236): the page carries WT, and nothing is poisoned. -/
def State.portRead (s : State) (core n va len : Nat) : PortRead :=
  let x := s.bslotAt core n
  let b := s.blockAt x.owner
  let declined := (s.faults.filter fun f => f.who = FaultFor.slot core n && f.no).map PFault.page
  match s.checkVa core b.ctx x.priv (s.launchAt b.lseq).pure declined .load (BitVec.ofNat 64 va) with
  | .trap _ _ _ => .fails none
  | .fault p _ => .waits p
  | .refused w => .fails (some w)
  | .ok k _ =>
    let wt := match s.translate core b.ctx va with
      | .leaf e => bitOf e 2
      | _ => false
    let grans := (List.range ((len + 63) / 64)).map fun i => k + 64 * i
    if !wt || grans.any s.poisoned || !Label.dom (s.ctxAt b.ctx).owners (joinLabels (grans.map s.granLbl)) then
      .fails none
    else
      let r := (s.cache core b.ctx va).engineRead x.hb k len
      .ok r.1 (joinLabels (grans.map s.granLbl)) r.2

/-- The port's work on the blocks of a load, in order: each is read, decrypted and checked. Gives the plaintext; or the
page that it waits for; or the failure. -/
def portLoad (core n : Nat) : List Nat → List Byte → State → (Option (List Byte) × Option Nat × Option Nat) × State
  | [], acc, s => ((some acc, none, none), s)
  | m :: t, acc, s =>
    let x := s.bslotAt core n
    let d := x.desc
    let c := (s.blockAt x.owner).ctx
    match s.portRead core n (fieldOf d 0 57 + 512 * m) 512 with
    | .waits p => ((none, some p, none), s)
    | .fails w => ((none, none, w), s)
    | .ok ct l1 s1 =>
      match s1.portRead core n (fieldOf d 64 57 + 16 * m) 16 with
      | .waits p => ((none, some p, none), s)
      | .fails w => ((none, none, w), s)
      | .ok tag l2 s2 =>
        let s3 := s2.setBslotAt core n { x with lbl := x.lbl ||| l1 ||| l2 }
        let k := fieldOf d 160 8
        if !s.slotOk k 1 c then ((none, none, none), s3)
        else
          match gcmOpen (leBytes 32 (s.tack.slots.get KeySlot.blank k).key.toNat)
            (leBytes 8 (fieldOf d 192 64) ++ leBytes 4 m) ct tag with
          | none => ((none, none, none), s3)
          | some pt => portLoad core n t (acc ++ pt) s3

/-- Removes quarters of a core; their warps' scoreboards, and the slots that waited for them, are settled later. -/
def State.dropQuarters (s : State) (core : Nat) (ids : List Nat) : State :=
  let bs := (((s.coreAt core).groups.map Group.quarters).flatten.filter fun q => ids.contains q.id).map Quarter.block
  let s := bs.foldl (fun s b => s.touch (s.blockAt b).ctx) s
  s.mapGroups core fun gs => (gs.map fun g =>
    { g with quarters := g.quarters.filter fun q => !ids.contains q.id
             results := g.results.map fun rs => ((g.quarters.zip rs).filter fun e => !ids.contains e.1.id).map
               Prod.snd }).filter fun g => g.quarters ≠ []

/-- `mstat`'s result (R263), whose label the guard's joins (R249). -/
def mstatEnd (d : SNum) (clr : Bool) (s : State) : State :=
  let w := s.warp
  let s' := s.setS d (w.mstat.setWidth 64) (s.label w.mslbl ||| s.pcl ||| s.guardLbl)
  if clr then s'.setWarp { s'.warp with mstat := 0, mslbl := 0 } else s'

/-- `mchk`'s result (R263), whose label the guard's joins (R249). -/
def mchkEnd (d : SNum) (clr : Bool) (s : State) : State :=
  let s' := s.setS d (s.warp.chkcnt.setWidth 64) (s.pcl ||| s.guardLbl)
  if clr then s'.setWarp { s'.warp with chkcnt := 0 } else s'

/-- The `mstat`s and `mchk`s of a core whose warps have no pass left go on (R263). -/
def settleStats (core : Nat) (s : State) : State :=
  (List.range 32).foldl (fun s j =>
    let k := 32 * core + j
    (s.warpAt k).liveSplits.foldl (fun s p =>
      s.asWarp k p.1 fun s =>
        if s.passPending s.warp.uid then s
        else
          match s.split.st with
          | .swait (.mstat d clr) => (mstatEnd d clr s).finishWait
          | .swait (.mchk d clr) => (mchkEnd d clr s).finishWait
          | _ => s) s) s

/-- Halts the warp of a quarter (R233, R246, R261), unless it has halted or its slot has passed to another. -/
def State.haltQuarter (s : State) (c : Cause) (q : Quarter) : State :=
  let w := s.warpAt q.wkey
  if w.uid = q.uid && w.st != .free && w.st != .halt then s.haltWarp q.wkey q.pc c 0 0 else s

/-- Quarters end without draining, and some of their warps halt. -/
def State.discard (s : State) (core : Nat) (c : Cause) (qs halts : List Quarter) : State :=
  let s := halts.foldl (fun s q => s.haltQuarter c q) s
  let s := s.dropQuarters core (qs.map Quarter.id)
  let s := qs.foldl (fun s q => s.letGo q.id []) s
  settleStats core (s.settleSlots core)

/-- A slot of a core has been loaded: a gang whose restore waited for it goes on once its last slot has (R247). -/
def settleLoading (core slot : Nat) (s : State) : State :=
  let g := (s.blockAt (s.bslotAt core slot).owner).gang
  let x := s.gangAt g
  if !x.loading.contains (core, slot) then s
  else
    let left := x.loading.filter (· ≠ (core, slot))
    let s := s.setGangAt g { x with loading := left }
    if left ≠ [] then s
    else
      { s with warps := ⟨s.warps.entries.map fun e =>
          if e.2.st == .init && x.blocks.contains e.2.block then (e.1, { e.2 with st := .run }) else e⟩ }

/-- SLOT_LOAD (R233, R235, R236): the port loads a slot once no pass needs its older plaintext. A failure leaves it
POISONED, and the warps of the quarters that wait for it halt (R261). -/
def execSlotLoad (core slot : Nat) (s : State) : Host.Outcome State Fault Refusal :=
  let x := s.bslotAt core slot
  if x.st ≠ .loading || ((s.coreAt core).groups.any fun g => g.slot = slot && g.plain.isSome) then .next s
  else
    let b := s.blockAt x.owner
    let r := portLoad core slot (bLoad x.desc) [] s
    match r.1 with
    | (none, some p, _) =>
      .next (s.offer (.slot core slot) b.ctx b.vcore p 0 (s.launchAt b.lseq).privl)
    | (some pt, _, _) =>
      let s := { r.2 with faults := r.2.faults.filter fun f => f.who ≠ FaultFor.slot core slot }
      let y := s.bslotAt core slot
      let s := (s.setBslotAt core slot { y with st := .ready, plain := pt }).touch b.ctx
      let s := s.mapGroups core fun gs => launchFull (gs.map fun g =>
        if g.slot = slot then { g with plain := some pt, slotLbl := y.lbl } else g)
      .next (settleKzero ((settleLoading core slot s).settleSlots core))
    | (none, none, why) =>
      let s := { r.2 with faults := r.2.faults.filter fun f => f.who ≠ FaultFor.slot core slot }
      let s := (s.setBslotAt core slot { s.bslotAt core slot with st := .poisoned }).touch b.ctx
      let s := match why with
        | some w => s.logRefusal b.ctx b.vcore 0 6 w b.lseq
        | none => s
      let qs := (((s.coreAt core).groups.filter fun g => g.slot = slot).map Group.quarters).flatten
      .next (settleKzero (settleLoading core slot (s.discard core .poison qs qs)))

/-! ## The warp's view of A (R231, R232, R255 to R257) -/

/-- BASE. -/
def ufBase (u : BitVec 128) : Nat := fieldOf u 0 32
/-- H. -/
def ufH (u : BitVec 128) : Nat := fieldOf u 32 16
/-- W. -/
def ufW (u : BitVec 128) : Nat := fieldOf u 48 16
/-- CG. -/
def ufCg (u : BitVec 128) : Nat := fieldOf u 64 16
/-- KH. -/
def ufKh (u : BitVec 128) : Nat := fieldOf u 80 4
/-- KW. -/
def ufKw (u : BitVec 128) : Nat := fieldOf u 84 4
/-- SH. -/
def ufSh (u : BitVec 128) : Nat := fieldOf u 88 4
/-- SW. -/
def ufSw (u : BitVec 128) : Nat := fieldOf u 92 4
/-- DH. -/
def ufDh (u : BitVec 128) : Nat := fieldOf u 96 4
/-- DW. -/
def ufDw (u : BitVec 128) : Nat := fieldOf u 100 4
/-- PADT. -/
def ufPadt (u : BitVec 128) : Nat := fieldOf u 104 4
/-- PADB. -/
def ufPadb (u : BitVec 128) : Nat := fieldOf u 108 4
/-- PADL. -/
def ufPadl (u : BitVec 128) : Nat := fieldOf u 112 4
/-- PADR. -/
def ufPadr (u : BitVec 128) : Nat := fieldOf u 116 4

/-- OW. -/
def ufOw (u : BitVec 128) : Int :=
  ((ufW u : Int) + ufPadl u + ufPadr u - ufDw u * ((ufKw u : Int) - 1) - 1) / (ufSw u : Int) + 1
/-- OH. -/
def ufOh (u : BitVec 128) : Int :=
  ((ufH u : Int) + ufPadt u + ufPadb u - ufDh u * ((ufKh u : Int) - 1) - 1) / (ufSh u : Int) + 1

/-- An unfold descriptor fails step 3 of R255. -/
def ufBad (u : BitVec 128) : Bool :=
  fieldOf u 120 8 ≠ 0 || ufKh u = 0 || ufKw u = 0 || ufSh u = 0 || ufSw u = 0 || ufDh u = 0 || ufDw u = 0 ||
    ufH u = 0 || ufW u = 0 || ufCg u = 0 || bitOf u 26 || ufBase u % 64 ≠ 0 || decide (ufOw u < 1) || decide (ufOh u < 1)

/-- `munf` (R255). -/
def execMunf (p : Bool) (a : SNum) (s : State) : Host.Outcome State Fault Refusal :=
  word (.munf p a) s fun s =>
    let v := s.descAddr a
    match s.readOwn v 16 with
    | .stop e => .error e
    | .absent => .error (.trap .prot (v.setWidth 64))
    | .ok x lbl s' =>
      let u := BitVec.ofNat 128 x
      if ufBad u then .error (.trap .prot (v.setWidth 64))
      else
        let r := s'.intern (lbl ||| s.slbl a ||| s.pcl ||| s.guardLbl)
        .ok ((r.2.setWarp { r.2.warp with unfold := u, unfoldLbl := r.1 }).advance p)

/-- `mscale.a` (R256). -/
def execMscaleA (p : Bool) (a b : SNum) (s : State) : Host.Outcome State Fault Refusal :=
  word (.mscaleA p a b) s fun s =>
    let v := s.descAddr a
    if fieldOf (s.sreg b) 16 48 ≠ 0 then .error (.trap .prot (s.sreg b))
    else if v.toNat % 4 ≠ 0 || bitOf v 26 then .error (.trap .prot (v.setWidth 64))
    else
      let r := s.intern (s.slbl a ||| s.slbl b ||| s.pcl ||| s.guardLbl)
      .ok ((r.2.setWarp { r.2.warp with abase := v, astr := (s.sreg b).setWidth 16, aLbl := r.1 }).advance p)

/-- F32 1.0, the scale of every column and row for which none is set. -/
def scaleOne : BitVec 32 := 0x3F800000#32

/-- `mscale.b` (R258). -/
def execMscaleB (p : Bool) (a b : SNum) (s : State) : Host.Outcome State Fault Refusal :=
  word (.mscaleB p a b) s fun s =>
    let n := fieldOf (s.sreg b) 0 2
    let x := s.bslotAt s.coreNo n
    let v := s.descAddr a
    let len := 256 * bKg x.desc
    if fieldOf (s.sreg b) 2 62 ≠ 0 || x.st = .empty || x.owner ≠ s.warp.block then .error (.trap .prot (BitVec.ofNat 64 n))
    else if v.toNat % 4 ≠ 0 then .error (.trap .align (v.setWidth 64))
    else if bitOf v 26 then .error (.trap .prot (v.setWidth 64))
    else
      match s.checkSp s.warp.block v len true with
      | .ok k _ =>
        let bytes := (List.range len).map fun i => k + i
        let held := joinAll (bytes.map s.heldBy)
        if held ≠ [] then .error (.hold held)
        else if bytes.any s.poisoned then .error (.halt .poison)
        else
          let r := s.engineRead (s.warp.seenAll s.execLanes) k len
          let scales := (List.range (64 * bKg x.desc)).foldl (fun (m : Sparse (BitVec 32)) i =>
            m.set scaleOne i (BitVec.ofNat 32 (leNat ((r.1.drop (4 * i)).take 4)))) x.scales
          let i := r.2.intern (x.lbl ||| joinLabels (bytes.map s.granLbl) ||| s.slbl a ||| s.slbl b ||| s.pcl ||| s.guardLbl)
          let l := i.2.label i.1
          let s' := (i.2.closeGroups s.coreNo n).setBslotAt s.coreNo n { x with scales := scales, lbl := l }
          let s' := s'.mapGroups s.coreNo fun gs => gs.map fun g =>
            if g.slot = n && g.results = none && (x.st != .loading || g.plain = none)
            then { g with slotLbl := g.slotLbl ||| l } else g
          .ok (s'.advance p)
      | _ => .error (.trap .prot (v.setWidth 64))

/-! ## Rows of A (R232, R256) -/

/-- Bytes of a 64-element group of A. -/
def groupBytes (d : BitVec 512) : Nat := 64 * bBytes d

/-- Where the K group `gk` of row `m` lies: none where it reads as zeros. -/
def sliceAddr (u : BitVec 128) (gb m gk : Nat) : Option Nat :=
  let ow := (ufOw u).toNat
  if (ufOh u).toNat * ow ≤ m || ufKh u * ufKw u * ufCg u ≤ gk then none
  else
    let kp := gk / ufCg u
    let ih : Int := (m / ow * ufSh u + kp / ufKw u * ufDh u : Nat) - (ufPadt u : Int)
    let iw : Int := (m % ow * ufSw u + kp % ufKw u * ufDw u : Nat) - (ufPadl u : Int)
    if ih < 0 || iw < 0 || (ufH u : Int) ≤ ih || (ufW u : Int) ≤ iw then none
    else some (ufBase u + ((ih.toNat * ufW u + iw.toNat) * ufCg u + gk % ufCg u) * gb)

/-- Where the A scale of row `m` lies, where one is read. -/
def scaleAddr (u : BitVec 128) (d : BitVec 512) (abase : BitVec 32) (astr : BitVec 16) (m gk : Nat) : Option Nat :=
  if bMode d = 2 && astr ≠ 0 && (sliceAddr u (groupBytes d) m gk).isSome
  then some (abase.toNat + 4 * (m * astr.toNat + gk)) else none

/-- `n` bytes lie wholly inside a block's scratchpad window. -/
def Block.inPad (b : Block) (a n : Nat) : Bool := a + n ≤ b.spBytes

/-! ## Issuing quarters (R259 to R261) -/

/-- The parameter lane `i` of quarter `q`. -/
def State.qlane (s : State) (a : VNum) (q i : Nat) : BitVec 32 := (s.vlane a.toNat (8 * q + i)).val

/-- The rows of quarter `q`: K group and row numbers. -/
def State.qrows (s : State) (a : VNum) (q : Nat) (d : BitVec 512) : Nat × List Nat :=
  (bG0 d + (s.qlane a q 2).toNat, (List.range 8).map fun i => (s.qlane a q 1).toNat + i)

/-- The first check of R260 that quarter `q` fails: the lane whose value is EINFO. -/
def State.quarterFail (s : State) (a : VNum) (q : Nat) : Option Nat :=
  let v := s.qlane a q 3
  let x := s.bslotAt s.coreNo (fieldOf v 0 2)
  let d := x.desc
  let u := s.warp.unfold
  let acc := s.qlane a q 0
  let r := s.qrows a q d
  let tile := 512 * accBytesOf d
  if fieldOf v 3 29 ≠ 0 || !x.mine s.warp.block then some 3
  else if bKg d ≤ (s.qlane a q 2).toNat then some 2
  else if fieldOf acc 22 10 ≠ 0 || acc.toNat % 256 ≠ 0 || acc.toNat < 0x200000 ||
      0x200000 + s.block.accBytes < acc.toNat + tile then some 0
  else if !s.block.inPad (ufBase u) (ufH u * ufW u * ufCg u * groupBytes d) ||
      (r.2.any fun m => match scaleAddr u d s.warp.abase s.warp.astr m r.1 with
        | some y => !s.block.inPad y 4
        | none => false) then some 1
  else none

/-- The tiles of a quarter's accumulators, and those of its rows and scales. -/
def State.quarterTiles (s : State) (a : VNum) (q : Nat) (d : BitVec 512) : List Nat × List Nat :=
  let at_ (o : Nat) : Nat := scratchKey s.warp.block o
  let r := s.qrows a q d
  let u := s.warp.unfold
  let gb := groupBytes d
  let cover (o n : Nat) : List Nat := (List.range ((n + 63) / 64)).map fun i => at_ (o + 64 * i) / 256
  (cover (fieldOf (s.qlane a q 0) 0 22) (512 * accBytesOf d),
    joinAll (r.2.map fun m =>
      (match sliceAddr u gb m r.1 with
        | some o => cover o gb
        | none => []) ++
      match scaleAddr u d s.warp.abase s.warp.astr m r.1 with
        | some o => cover o 4
        | none => []))

/-- A quarter joins the open group of its key that arrived within the last four cycles, or opens one (R229). A full
group whose plaintext is there launches. -/
def joinGroup (s : State) (slot g : Nat) (q : Quarter) : State :=
  let x := s.bslotAt s.coreNo slot
  let fits (y : Group) : Bool :=
    y.block = q.block && y.slot = slot && y.g = g && !y.closed && !y.launched && y.quarters.length < 4 &&
      s.cycle ≤ y.opened + 3
  match (s.coreAt s.coreNo).groups.find? fits with
  | some y =>
    s.mapGroups s.coreNo fun gs => launchFull (gs.map fun z =>
      if z.id = y.id then { z with quarters := z.quarters ++ [q] } else z)
  | none =>
    let f := s.fresh
    let z : Group := { id := f.1, block := q.block, slot := slot, g := g, opened := s.cycle, closed := false,
                       launched := false, quarters := [q], desc := x.desc,
                       plain := if x.st = .ready then some x.plain else none, slotLbl := x.lbl, scales := x.scales,
                       results := none }
    f.2.mapGroups s.coreNo fun gs => gs ++ [z]

/-- Hands quarter `q` to the engine (R261). -/
def issueQuarter (a : VNum) (s : State) (q : Nat) : State :=
  let v := s.qlane a q 3
  let slot := fieldOf v 0 2
  let d := (s.bslotAt s.coreNo slot).desc
  let t := s.quarterTiles a q d
  let w := s.warp
  let f := s.fresh
  joinGroup f.2 slot (s.qlane a q 2).toNat
    { id := f.1, wkey := s.cur, uid := w.uid, block := w.block, q := q, acc := fieldOf (s.qlane a q 0) 0 22,
      row0 := (s.qlane a q 1).toNat, zero := bitOf v 2,
      c := joinLabels ((List.range 4).map fun i => s.label (s.vlane a.toNat (8 * q + i)).lbl) ||| s.pcl ||| s.guardLbl,
      pc := s.split.pc, unfold := w.unfold, unfoldLbl := s.label w.unfoldLbl, abase := w.abase, astr := w.astr,
      aLbl := s.label w.aLbl, hb := w.seenAll s.lanes, seen := w.seenAll (List.range 32), tiles := t.1, rows := t.2 }

/-- Quarters of a core that have not drained. -/
def State.quarters (s : State) (core : Nat) : Nat := ((s.coreAt core).groups.map fun g => g.quarters.length).sum

/-- The operations of the warp that have yet to write the rows or scales of its quarters `qs`: the `mmq` waits for them, so
that the Trellis sees every write issued before it (R261, 05 R113). -/
def State.rowsHeld (s : State) (a : VNum) (qs : List Nat) : List Nat :=
  joinAll (qs.map fun q =>
    joinAll ((s.quarterTiles a q (s.bslotAt s.coreNo (fieldOf (s.qlane a q 3) 0 2)).desc).2.map fun t => s.heldBy (256 * t)))

/-- `mmq` (R259 to R261). -/
def execMmq (p : Bool) (a : VNum) (s : State) : Host.Outcome State Fault Refusal :=
  word (.mmq p a) s fun s =>
    let qs := (List.range 4).filter fun q => s.lanes.any fun l => l / 8 = q
    match qs.findSome? fun q => (s.quarterFail a q).map fun i => (q, i) with
    | some (q, i) => .error (.trap .prot ((s.qlane a q i).setWidth 64))
    | none =>
      if qs.any fun q => (s.bslotAt s.coreNo (fieldOf (s.qlane a q 3) 0 2)).st == .poisoned then .error (.halt .poison)
      else if 64 < s.quarters s.coreNo + qs.length then .error (.hold [])
      else if s.rowsHeld a qs ≠ [] then .error (.hold (s.rowsHeld a qs))
      else .ok ((qs.foldl (issueQuarter a) s).advance p)

/-! ## Passes (R229, R241 to R246) -/

/-- PASS_GROUP_LAUNCH (R229): at cycle t + 4, or when full, once the slot is loaded. -/
def execPassGroupLaunch (core group : Nat) (s : State) : Host.Outcome State Fault Refusal :=
  match (s.coreAt core).groups.find? fun g => g.id = group with
  | none => .next s
  | some g =>
    if g.launched || g.plain.isNone || (s.cycle < g.opened + 4 && g.quarters.length < 4) then .next s
    else .next (s.mapGroups core (launchGroup group))

/-- Value of a bit-plane element of `p` planes whose 64-bit plane words are given (R126, R127). -/
def npVal (p : Nat) (plane : Nat → Nat) (k : Nat) : Int :=
  (List.range (p - 1)).foldl (fun (v : Int) j => v + ((plane (j + 1) / 2 ^ k % 2 * 2 ^ (6 - j) : Nat) : Int))
    (-128 * ((plane 0 / 2 ^ k % 2 : Nat) : Int))

/-- `n` bytes of a list from an offset, as a number. -/
def numAt (bs : List Byte) (o n : Nat) : Nat := leNat ((bs.drop o).take n)

/-- Elements 0 to 63 of a group of A: NP values, or patterns. -/
def aElems (d : BitVec 512) (bs : List Byte) : List Int :=
  (List.range 64).map fun k =>
    if bMode d < 3 then npVal (bPa d) (fun j => numAt bs (8 * j) 8) k
    else ((numAt bs (bBytes d * k) (bBytes d) : Nat) : Int)

/-- Elements 0 to 63 of column `c` of K group `g` of a slot (R235). -/
def bElems (d : BitVec 512) (plain : List Byte) (g c : Nat) : List Int :=
  (List.range 64).map fun k =>
    if bMode d < 3 then npVal (bPb d) (fun j => numAt plain ((g * bPb d + j) * 512 + 8 * c) 8) k
    else ((numAt plain (bBytes d * ((64 * g + k) * 64 + c)) (bBytes d) : Nat) : Int)

/-- One row as the Trellis forms it: its elements and its scale. -/
structure ARow where
  elems : List Int
  scale : BitVec 32

/-- Fetches the rows of a quarter (R232, R256): the rows, whether a sector read is poisoned, and the granules' labels. -/
def fetchRows (g : Group) (q : Quarter) : List Nat → State → (List ARow × Bool × Label) × State
  | [], s => (([], false, 0#16), s)
  | m :: t, s =>
    let gk := bG0 g.desc + g.g
    let gb := groupBytes g.desc
    let grans (k n : Nat) : List Nat := (List.range ((n + 63) / 64)).map fun i => k + 64 * i
    let read (o : Option Nat) (n : Nat) (dflt : List Byte) (s : State) : (List Byte × Bool × Label) × State :=
      match o with
      | none => ((dflt, false, 0#16), s)
      | some o =>
        let k := scratchKey q.block o
        let r := s.engineRead q.seen k n
        ((r.1, (grans k n).any s.poisoned, joinLabels ((grans k n).map s.granLbl)), r.2)
    let e := read (sliceAddr q.unfold gb m gk) gb (List.replicate gb 0#8) s
    let c := read (scaleAddr q.unfold g.desc q.abase q.astr m gk) 4 (leBytes 4 scaleOne.toNat) e.2
    let rest := fetchRows g q t c.2
    ((⟨aElems g.desc e.1.1, BitVec.ofNat 32 (leNat c.1.1)⟩ :: rest.1.1, e.1.2.1 || c.1.2.1 || rest.1.2.1,
      e.1.2.2 ||| c.1.2.2 ||| rest.1.2.2), rest.2)

/-- Bits of matrix status (R243). -/
def mxSat : BitVec 8 := 1#8
/-- MXOVF. -/
def mxOvf : BitVec 8 := 2#8
/-- MXINV. -/
def mxInv : BitVec 8 := 4#8
/-- MXQRNG. -/
def mxQrng : BitVec 8 := 8#8
/-- MXCOR. -/
def mxCor : BitVec 8 := 16#8

/-- A flag where a condition holds. -/
def mxIf (b : Bool) (f : BitVec 8) : BitVec 8 := if b then f else 0#8

/-- An F32 result with its matrix flags (R242). -/
def mxRes (r : Res) : Nat × BitVec 8 :=
  (r.1, mxIf (r.1 = (Fmt.of .f32).nan) mxInv ||| mxIf (r.2 &&& fOVF ≠ 0#32) mxOvf)

/-- The exact sum of products. -/
def dot (xs ys : List Int) : Int := (List.zipWith (· * ·) xs ys).sum

/-- A chunk of MXM 2: the exact sum of products times both scales, rounded once (R241). `prods` are the products: a chunk
that is 0 is -0 only where each of them is, under the scales (R242). -/
def chunkScaled (prods : List Int) (si : Int) (sa sb : BitVec 32) : Nat × BitVec 8 :=
  let f := Fmt.of .f32
  let one : FVal := .fin (decide (si < 0)) si.natAbs 0
  match (mulV one (decodeF f sa.toNat)).bind fun v => mulV v (decodeF f sb.toNat) with
  | some (.fin n m e) =>
    let neg := if si < 0 then !n else n
    mxRes (roundTo f 0 (if m = 0 then prods.all fun x => x ≠ 0 && (decide (x < 0) != neg) else n) m e false)
  | some (.inf n) => (f.signed n f.infBits, 0#8)
  | _ => (f.nan, mxInv)

/-- The unit of the errors injected into the exact sums of MXM 3 and 4: 2^-298. -/
def errExp : Int := -298

/-- A chunk of MXM 3 or 4: the exact sum of the products and of an error, rounded once (R241, R242). -/
def chunkFloat (t : ETy) (xs ys : List Int) (err : Int) : Nat × BitVec 8 :=
  let f := Fmt.of .f32
  let prods := List.zipWith (fun x y => mulV (decodeF (Fmt.of t) x.toNat) (decodeF (Fmt.of t) y.toNat)) xs ys
  if prods.any Option.isNone then (f.nan, mxInv)
  else
    let e : List FVal := if err = 0 then [] else [.fin (decide (err < 0)) err.natAbs errExp]
    mxRes (sumF f 0 (prods.filterMap id ++ e))

/-- The sum of the errors of a chunk at element (i, j) of the update. -/
def errU (es : List PassErr) (c i j : Nat) : Int :=
  ((es.filter fun e => e.chunk = c).map fun e =>
    ((e.u.filter fun x => x.1 = i && x.2.1 = j).map fun x => x.2.2).sum).sum

/-- The sum of the errors of a row or column checksum. -/
def errSum (xs : List (Nat × Int)) (i : Nat) : Int := ((xs.filter fun x => x.1 = i).map Prod.snd).sum

/-- A discrepancy in the domain of R244. -/
def inDomain (d : BitVec 512) (x : Int) : Int :=
  match bMode d with
  | 3 => x
  | 4 => x
  | 5 => x % (bQ d : Int)
  | _ => sextNat 64 (truncInt 64 x)

/-- What the comparison of one chunk's sums comes to (R245). -/
inductive Verdict where
  | clean
  | fix (i j : Nat) (delta : Int)
  | counted
  | bad (rows : List Nat)
  deriving DecidableEq, Repr

/-- The comparison of a chunk of a pass of `rows` rows: the errors are those that the engine made. -/
def verdict (d : BitVec 512) (rows : Nat) (es : List PassErr) (c : Nat) : Verdict :=
  let mine := es.filter fun e => e.chunk = c
  let col (j : Nat) : Int := inDomain d (((List.range rows).map fun i => errU es c i j).sum -
    (mine.map fun e => errSum e.rho j).sum)
  let row (i : Nat) : Int := inDomain d (((List.range 64).map fun j => errU es c i j).sum -
    (mine.map fun e => errSum e.gamma i).sum)
  match (List.range 64).filter fun j => col j ≠ 0, (List.range rows).filter fun i => row i ≠ 0 with
  | [], [] => .clean
  | [j], [i] => if col j = row i then .fix i j (col j) else .bad [i]
  | [_], [] => .counted
  | [], [_] => .counted
  | _, is => .bad is

/-- Chunks whose sums are rounded apart (R241). -/
def chunksOf (d : BitVec 512) : List Nat := if 2 ≤ bMode d && bMode d ≤ 4 then [0, 1] else [0]

/-- What is left of the errors at (i, j) once the checksum has corrected. -/
def residue (es : List PassErr) (v : Nat → Verdict) (c i j : Nat) : Int :=
  errU es c i j - match v c with
    | .fix i' j' x => if i = i' && j = j' then x else 0
    | _ => 0

/-- One element's values and flags: row `i` of the pass, column `j`, K group `g`. -/
def passElem (g : Group) (plain : List Byte) (r : ARow) (i j : Nat) (left : Nat → Nat → Nat → Int) :
    List Int × BitVec 8 :=
  let d := g.desc
  let ys := bElems d plain g.g j
  let part (c : Nat) (xs : List Int) : List Int := (xs.drop (32 * c)).take 32
  match bMode d with
  | 2 =>
    let rs := [0, 1].map fun c => chunkScaled (List.zipWith (· * ·) (part c r.elems) (part c ys)) (inDomain d (dot (part c r.elems) (part c ys) + left c i j)) r.scale
      (g.scales.get scaleOne (64 * g.g + j))
    (rs.map fun x => (x.1 : Int), (rs.map Prod.snd).foldl (· ||| ·) 0#8)
  | 3 =>
    let rs := [0, 1].map fun c => chunkFloat .bf16 (part c r.elems) (part c ys) (left c i j)
    (rs.map fun x => (x.1 : Int), (rs.map Prod.snd).foldl (· ||| ·) 0#8)
  | 4 =>
    let rs := [0, 1].map fun c => chunkFloat .f32 (part c r.elems) (part c ys) (left c i j)
    (rs.map fun x => (x.1 : Int), (rs.map Prod.snd).foldl (· ||| ·) 0#8)
  | 5 =>
    let q : Int := bQ d
    let far : Bool := (r.elems ++ ys).any fun x => decide (q ≤ x)
    ([(dot (r.elems.map (· % q)) (ys.map (· % q)) + left 0 i j) % q], mxIf far mxQrng)
  | _ => ([inDomain d (dot r.elems ys + left 0 i j)], 0#8)

/-- The result of one quarter whose rows are `8 * n` and on of the pass. -/
def quarterResult (g : Group) (q : Quarter) (rows : List ARow) (granLbl : Label) (n : Nat) (cor : Bool)
    (left : Nat → Nat → Nat → Int) : QResult :=
  let plain := g.plain.getD []
  let es := (rows.zipIdx.map fun r => (List.range 64).map fun j => passElem g plain r.1 (8 * n + r.2) j left).flatten
  { vals := es.map Prod.fst
    lbl := granLbl ||| q.unfoldLbl ||| q.aLbl ||| g.slotLbl ||| q.c
    flags := (es.map Prod.snd).foldl (· ||| ·) 0#8 ||| mxIf cor mxCor }

/-- Fetches the rows of the quarters of a pass. -/
def fetchAll (g : Group) : List Quarter → State → List (Quarter × List ARow × Bool × Label) × State
  | [], s => ([], s)
  | q :: t, s =>
    let r := fetchRows g q ((List.range 8).map fun i => q.row0 + i) s
    let rest := fetchAll g t r.2
    ((q, r.1) :: rest.1, rest.2)

/-- Adds 1, stopping at the largest value. -/
def sat32 (x : BitVec 32) : BitVec 32 := if x = 0xFFFFFFFF#32 then x else x + 1

/-- CHKCNT of the warps of quarters counts one corrected pass (R263). -/
def State.countCorrected (s : State) (qs : List Quarter) : State :=
  ((qs.map fun q => (q.wkey, q.uid)).dedup).foldl (fun s k =>
    let w := s.warpAt k.1
    if w.uid = k.2 then s.setWarpAt k.1 { w with chkcnt := sat32 w.chkcnt } else s) s

/-- PASS_EXECUTE (R229, R240 to R246): the first launched pass fetches its rows, computes its update and compares it
with the checksums; `err` are the errors that the engine makes. Quarters whose rows are poisoned, and those of an
uncorrectable pass, end here. -/
def execPassExecute (core group : Nat) (err : List PassErr) (s : State) : Host.Outcome State Fault Refusal :=
  match (s.coreAt core).groups.find? fun g => g.launched && g.results.isNone with
  | none => .next s
  | some g =>
    if g.id ≠ group then .next s
    else
      let r := fetchAll g g.quarters s
      let v := verdict g.desc (8 * g.quarters.length) err
      let vs := (chunksOf g.desc).map v
      let cor := vs.any fun x => match x with
        | .clean => false
        | _ => true
      let left := residue err v
      let rs := r.1.zipIdx.map fun x => quarterResult g x.1.1 x.1.2.1 x.1.2.2.2 x.2 cor left
      let s' := r.2.mapGroups core fun gs => gs.map fun y => if y.id = group then { y with results := some rs } else y
      let bad := vs.any fun x => match x with
        | .bad _ => true
        | _ => false
      let rows := (vs.map fun x => match x with
        | .bad is => is
        | _ => []).flatten
      let poisoned := (r.1.filter fun x => x.2.2.1).map Prod.fst
      let s' := poisoned.foldl (fun s q => s.haltQuarter .poison q) s'
      if bad then
        let hit := (g.quarters.zipIdx.filter fun x => rows = [] || rows.any fun i => i / 8 = x.2).map Prod.fst
        .next (s'.discard core .mxchk g.quarters hit)
      else
        let s' := if cor then s'.countCorrected g.quarters else s'
        .next (s'.discard core .poison poisoned [])

/-! ## Drains (R230, R238 to R241) -/

/-- Adds one element's update to the accumulator: the new pattern and flags. -/
def accumulate (d : BitVec 512) (zero : Bool) (c : Nat) (v : List Int) : Nat × BitVec 8 :=
  let old := if zero then 0 else c
  let u := v.headD 0
  let int (w : Nat) : Nat × BitVec 8 :=
    let e := sextNat w old + u
    let y := satInt .i64 w e
    (truncInt w y, mxIf (y ≠ e) mxSat)
  match bMode d with
  | 0 => int 32
  | 1 => int 16
  | 5 =>
    let q := bQ d
    ((((old % q : Nat) : Int) + u).toNat % q, mxIf (q ≤ old) mxQrng)
  | _ =>
    let f := Fmt.of .f32
    let a := mxRes (addF f 0 old u.toNat)
    let b := mxRes (addF f 0 a.1 (v.getD 1 0).toNat)
    (b.1, a.2 ||| b.2)

/-- The writes that a byte's history lists. -/
def State.writesAt (s : State) (k : Nat) : List Nat :=
  match Sparse.look k s.hist.bytes.entries with
  | some h => h.ws.map Prod.fst
  | none => []

/-- Adds a quarter's update to its tile, one granule at a time: each add is indivisible and comes after every earlier
write of its bytes (R230, R240). Gives the flags and the writes, each with its tile. -/
def drainTile (g : Group) (q : Quarter) (r : QResult) (core : Nat) (s : State) : BitVec 8 × List (Nat × Nat) × State :=
  let e := accBytesOf g.desc
  let n := 64 / e
  let p : Party := { dev := true, die := dieOf core, gang := (s.blockAt q.block).gang, block := q.block, warp := q.uid,
                     lane := 8 * q.q }
  (List.range (8 * e)).foldl (fun (x : BitVec 8 × List (Nat × Nat) × State) i =>
    let s := x.2.2
    let k := scratchKey q.block (q.acc + 64 * i)
    let old := s.bytesAt k 64
    let ys := (List.range n).map fun j => accumulate g.desc q.zero (numAt old (e * j) e) (r.vals.getD (n * i + j) [])
    let hb := joinIds q.hb (joinAll ((List.range 64).map fun j => s.writesAt (k + j)))
    let w := s.engineStore p hb k ((ys.map fun y => leBytes e y.1).flatten) r.lbl false
    ((ys.map Prod.snd).foldl (· ||| ·) x.1, x.2.1 ++ w.1.map fun id => (k / 256, id), w.2)) (r.flags, [], s)

/-- Matrix status and MSLBL of a quarter's warp after its drain (R243, R263); `lbl` is the join over the warp's quarters in
the pass. The writes, each with its tile, are before the warp's later accesses to that tile (05 R113). -/
def State.noteDrain (s : State) (q : Quarter) (lbl : Label) (flags : BitVec 8) (ids : List (Nat × Nat)) : State :=
  if (s.warpAt q.wkey).uid ≠ q.uid then s
  else
    s.asWarp q.wkey 0 fun s =>
      let r := s.intern (s.label s.warp.mslbl ||| lbl)
      let w := r.2.warp
      r.2.setWarp { w with mstat := w.mstat ||| BitVec.ofNat 32 (flags.toNat * 2 ^ (8 * q.q)), mslbl := r.1,
                           tileHb := w.tileHb ++ ids }

/-- A quarter must wait: one of its warp that was issued earlier has yet to drain into one of its tiles (R240). -/
def State.drainWaits (s : State) (core : Nat) (q : Quarter) : Bool :=
  (s.coreAt core).groups.any fun g => g.quarters.any fun x =>
    x.uid = q.uid && x.id < q.id && x.tiles.any q.tiles.contains

/-- PASS_DRAIN (R230, R240): the quarters of a computed pass that need not wait drain. -/
def execPassDrain (core group : Nat) (s : State) : Host.Outcome State Fault Refusal :=
  match (s.coreAt core).groups.find? fun g => g.id = group with
  | none => .next s
  | some g =>
    match g.results with
    | none => .next s
    | some rs =>
      let s' := (g.quarters.zip rs).foldl (fun s x =>
        if s.drainWaits core x.1 then s
        else
          let y := drainTile g x.1 x.2 core s
          let mine := (g.quarters.zip rs).filter fun z => z.1.uid = x.1.uid
          let s := (y.2.2.noteDrain x.1 (joinLabels (mine.map fun z => z.2.lbl)) y.1 y.2.1).dropQuarters core [x.1.id]
          s.letGo x.1.id (y.2.1.map Prod.snd)) s
      .next (settleStats core (s'.settleSlots core))

/-! ## Reading status (R263) -/

/-- `mstat` (R263). -/
def execMstat (p : Bool) (d : SNum) (c : Bool) (s : State) : Host.Outcome State Fault Refusal :=
  word (.mstat p d c) s fun s =>
    if s.passPending s.warp.uid then .ok (s.await (.mstat d c) p 0#16) else .ok ((mstatEnd d c s).advance p)

/-- `mchk` (R263). -/
def execMchk (p : Bool) (d : SNum) (c : Bool) (s : State) : Host.Outcome State Fault Refusal :=
  word (.mchk p d c) s fun s =>
    if s.passPending s.warp.uid then .ok (s.await (.mchk d c) p 0#16) else .ok ((mchkEnd d c s).advance p)

end Sys2Proof.Machine
end

