-- ==== Sys2Proof/Machine/Remote.lean ====
section
/-! DEFINITION. The remote engine: `rput`, `rget`, sends, combining frames and channels at this device, and what
arrives here from peers (13 R221 to R223, 19 R320 to R327, 21 R358). -/

namespace Sys2Proof.Machine

/-! ## Channels and peers (19 R320, R321) -/

/-- The peer entry of an index. -/
def Ctx.peer (c : Ctx) (i : Nat) : BitVec 256 := if i < 64 then c.peers.getD i 0 else 0

/-- KIND of a peer entry: 1 device, 2 combiner. -/
def peerKind (e : BitVec 256) : Nat := fieldOf e 118 2
/-- FADDR. -/
def peerAddr (e : BitVec 256) : BitVec 128 := BitVec.ofNat 128 (fieldOf e 128 128)
/-- PCTX. -/
def peerCtx (e : BitVec 256) : Nat := fieldOf e 120 8

/-- A channel of a context. -/
def State.chanAt (s : State) (c h : Nat) : Chan := (s.ctxAt c).chans.get Chan.blank h

/-- Replaces a channel. -/
def State.setChan (s : State) (c h : Nat) (x : Chan) : State :=
  let y := s.ctxAt c
  s.setCtxAt c { y with chans := y.chans.set Chan.blank h x }

/-- The peer entry of a channel. -/
def State.chanPeer (s : State) (c : Nat) (x : Chan) : BitVec 256 := (s.ctxAt c).peer (fieldOf x.desc 0 16)

/-- PCH of a channel. -/
def Chan.pch (x : Chan) : Nat := fieldOf x.desc 16 8
/-- Bytes of a ring entry. -/
def Chan.entry (x : Chan) : Nat := 2 ^ (6 + fieldOf x.desc 36 4)
/-- Entries of the ring. -/
def Chan.slots (x : Chan) : Nat := 2 ^ fieldOf x.desc 32 4
/-- RING. -/
def Chan.ring (x : Chan) : Nat := fieldOf x.desc 64 64
/-- TAILA. -/
def Chan.tailAt (x : Chan) : Nat := fieldOf x.desc 128 64
/-- HEADA. -/
def Chan.headAt (x : Chan) : Nat := fieldOf x.desc 192 64

/-- The open channel that an instruction's handle names, where its peer is of a kind (R222 step 2). -/
def State.openChan (s : State) (a : SNum) (kind : Nat) : Option (Nat × Chan) :=
  let h := (s.sreg a).toNat
  let x := s.chanAt s.warp.ctx h
  if x.opened && peerKind (s.chanPeer s.warp.ctx x) = kind then some (h, x) else none

/-! ## Issue (R222) -/

/-- Operations that a core's remote engine queues: those not yet locally complete (19 R327). -/
def State.remotes (s : State) (core : Nat) : Nat :=
  (s.ops.filter fun o => o.core = core && match o.kind with
    | .put _ _ _ d _ _ => d.isSome
    | .get .. => true
    | .send _ _ _ _ _ d _ _ _ => d.isSome
    | .comb _ _ _ _ d _ _ _ _ => d.isSome
    | _ => false).length

/-- What reading a local source gives at issue: the bytes (0 where not read), the offsets of poisoned elements and of
refused ones, and the elements whose lines an earlier operation owns, which are left to read (R210). -/
structure SrcRead where
  bytes : List Byte
  bad : List Nat
  gone : List Nat
  reads : List (Nat × Nat × Nat)

/-- Reads the elements of a local source at issue. -/
def readRange (seen : List Nat) : List ((Nat × Nat) × Chk) → State → SrcRead × State
  | [], s => (⟨[], [], [], []⟩, s)
  | (p, c) :: t, s =>
    let zeros := List.replicate p.2 0#8
    match c with
    | .ok k _ =>
      if s.lineOwned k then
        let r := readRange seen t s
        ({ r.1 with bytes := zeros ++ r.1.bytes, reads := (p.1, k, p.2) :: r.1.reads }, r.2)
      else
        let b := s.engineRead seen k p.2
        let r := readRange seen t b.2
        ({ r.1 with bytes := b.1 ++ r.1.bytes, bad := (if s.poisoned k then [p.1] else []) ++ r.1.bad }, r.2)
    | _ =>
      let r := readRange seen t s
      ({ r.1 with bytes := zeros ++ r.1.bytes, gone := p.1 :: r.1.gone }, r.2)

/-- The labels of the source granules. -/
def State.srcLabel (s : State) (cs : List Chk) : Label := joinLabels ((cs.filterMap Chk.key).map s.granLbl)

/-- LBL_STORE at the first local destination that does not accept a contribution. -/
def State.acceptStop (s : State) (c : Label) (xs : List (Word × Chk)) : Option Stop :=
  (xs.find? fun x => match x.2 with
    | .ok k ceil => !s.accepts k ceil c
    | _ => false).map fun x => .trap .lblStore x.1 true

/-- The elements of a local range with their addresses and checks. -/
def State.rangeAt (s : State) (k : Acc) (x : Word) (e n : Nat) : List (Word × Chk) :=
  (cut e n).map fun p => (x + BitVec.ofNat 64 p.1, s.copyChk k (x + BitVec.ofNat 64 p.1) p.2)

/-- The element size of a range that starts at `x`: 8 where it may be. -/
def stepOf (x : Word) (e : Nat) : Nat := if x.toNat % 8 = 0 then 8 else e

/-- The join of labels that every remote instruction's Lrem holds. -/
def State.remLabel (s : State) (a b : SNum) (desc : Label) : Label := desc ||| s.slbl a ||| s.slbl b ||| s.pcl

/-- The stop of the checks of a remote instruction's local side: step 4, then the engines that it waits for. -/
def State.localStop (s : State) (reads writes : List Chk) (bo : Bool) (bobj : BitVec 32) : Option Stop :=
  match firstStop (reads ++ writes) with
  | some e => some e
  | none => if bo then s.bobjChk bobj else none

/-- Queues a remote operation on a channel. -/
def State.issueOp (s : State) (h : Nat) (kind : OpKind) (owns : List Nat) (reads : List (Nat × Nat × Nat)) :
    Nat × State :=
  let r := s.newOp s.execLanes kind owns reads []
  let x := r.2.chanAt s.warp.ctx h
  (r.1, r.2.setChan s.warp.ctx h { x with ops := x.ops ++ [r.1] })

/-- Logs the first refused element of a remote instruction's local side (16 R270). -/
def State.refuseLocal (s : State) (cs : List Chk) : State :=
  match firstWhy cs with
  | some w => s.refuseEngine 7 w
  | none => s

/-- A remote descriptor is malformed (R222 step 3); `put` bounds STADDR. -/
def remMalformed (x : BitVec 512) (put : Bool) : Bool :=
  fieldOf x 384 128 ≠ 0 || fieldOf x 193 63 ≠ 0 || fieldOf x 121 7 ≠ 0 || bitOf x 383 || fieldOf x 128 32 % 8 ≠ 0 ||
    fieldOf x 128 32 < 8 || 2 ^ 30 < fieldOf x 128 32 || fieldOf x 0 64 % 8 ≠ 0 || fieldOf x 64 57 % 8 ≠ 0 ||
    fieldOf x 256 64 % 8 ≠ 0 || (put && fieldOf x 313 7 ≠ 0)

/-- LADDR, LEN, BOBJ, BO, STADDR of a remote descriptor. -/
def remLaddr (x : BitVec 512) : Word := BitVec.ofNat 64 (fieldOf x 0 64)
/-- LEN. -/
def remLen (x : BitVec 512) : Nat := fieldOf x 128 32
/-- BOBJ. -/
def remBobj (x : BitVec 512) : BitVec 32 := BitVec.ofNat 32 (fieldOf x 160 32)
/-- BO. -/
def remBo (x : BitVec 512) : Bool := bitOf x 192
/-- STADDR. -/
def remStaddr (x : BitVec 512) : Word := BitVec.ofNat 64 (fieldOf x 256 64)
/-- SVAL. -/
def remSval (x : BitVec 512) : Nat := fieldOf x 320 64

/-- `rput` (R222). -/
def execRput (p : Bool) (a b : SNum) (s : State) : Host.Outcome State Fault Refusal :=
  wordMarked (.rput p a b) s true true fun s =>
    match s.readDesc b 64 with
    | .stop e => .error e
    | .absent => .ok (absentDesc p 7 s)
    | .ok n lbl s' =>
      let x := BitVec.ofNat 512 n
      match s.openChan a 1 with
      | none => .error (.trap .prot (s.sreg a))
      | some (h, ch) =>
        if remMalformed x true then .error (.trap .copyAddr ((s.descAddr b).setWidth 64))
        else
          let cs := s.rangeChk .load (remLaddr x) 8 (remLen x)
          let lrem := s.srcLabel cs ||| s.remLabel a b lbl
          match s.localStop cs [] (remBo x) (remBobj x) with
          | some e => .error e
          | none =>
            if !Label.dom ch.cl lrem then .error (.trap .lblSend (wordOf (.rput p a b)))
            else
              let held := s.heldTiles (cs.filterMap Chk.key)
              if held ≠ [] then .error (.hold held)
              else if 64 ≤ s.remotes s.coreNo then .error (.hold [])
              else
                let r := readRange (s.warp.seenAll s.execLanes) ((pieces (remLen x)).zip cs) s'
                let o := (r.2.refuseLocal cs).issueOp h (.put x h lrem (some r.1.bytes) r.1.bad r.1.gone) [] r.1.reads
                .ok ((o.2.cacheRange (remLaddr x) (remLen x)).advance p)

/-- The device's own request to a peer for the bytes of an `rget`. -/
def getMsg (s : State) (x : BitVec 512) (h id : Nat) : GetMsg :=
  let e := s.chanPeer s.warp.ctx (s.chanAt s.warp.ctx h)
  { ctx := peerCtx e, srcAddr := Config.fabricAddr, srcCtx := s.warp.ctx, handle := h, raddr := fieldOf x 64 57, len := remLen x,
    tag := id }

/-- `rget` (R222). -/
def execRget (p : Bool) (a b : SNum) (s : State) : Host.Outcome State Fault Refusal :=
  let y := BitVec.ofNat 512 (s.peekDesc b 64)
  let peer := s.copyPeer (remLaddr y) || s.copyPeer (remStaddr y)
  wordMarked (.rget p a b) s (spaceOf (remLaddr y) = 0 || spaceOf (remStaddr y) = 0 || peer) true fun s =>
    match s.readDesc b 64 with
    | .stop e => .error e
    | .absent => .ok (absentDesc p 7 s)
    | .ok n lbl s' =>
      let x := BitVec.ofNat 512 n
      match s.openChan a 1 with
      | none => .error (.trap .prot (s.sreg a))
      | some (h, ch) =>
        if remMalformed x false then .error (.trap .copyAddr ((s.descAddr b).setWidth 64))
        else
          let ds := s.rangeAt .store (remLaddr x) 8 (remLen x)
          let st := s.rangeAt .store (remStaddr x) 8 8
          let cs := (ds ++ st).map Prod.snd
          let lrem := s.remLabel a b lbl
          match s.localStop [] cs (remBo x) (remBobj x) with
          | some e => .error e
          | none =>
            match s.acceptStop (ch.cl ||| lrem) (ds ++ st) with
            | some e => .error e
            | none =>
              if 64 ≤ s.remotes s.coreNo then .error (.hold [])
              else
                let keys := cs.filterMap Chk.key
                let o := (s'.refuseLocal cs).issueOp h
                  (.get x h lrem (ds.map fun d => d.2.key) (st.head?.bind fun d => d.2.key)) (linesOf keys) []
                let t := (o.2.cacheRange (remLaddr x) (remLen x)).cacheRange (remStaddr x) 8
                .ok ((t.send (.get (peerAddr (s.chanPeer s.warp.ctx ch)) (getMsg s x h o.1))).advance p)

/-! ## Sends (19 R323) -/

/-- A send descriptor is malformed: R222 step 3 for its fields. -/
def sendMalformed (x : BitVec 512) (ch : Chan) : Bool :=
  fieldOf x 256 256 ≠ 0 || fieldOf x 161 31 ≠ 0 || ch.entry - 8 < fieldOf x 64 32 || fieldOf x 0 64 % 8 ≠ 0 ||
    fieldOf x 192 64 % 8 ≠ 0 || fieldOf x 249 7 ≠ 0

/-- BOBJ of a send descriptor. -/
def sendBobj (x : BitVec 512) : BitVec 32 := BitVec.ofNat 32 (fieldOf x 128 32)

/-- The effect of `fsend` and `fsend.defer`; `i` is the instruction. -/
def sendEffect (i : Instr) (p : Bool) (a b : SNum) (defer : Bool) (s : State) : Eff State :=
  match s.readDesc b 64 with
  | .stop e => .error e
  | .absent => .ok (absentDesc p 7 s)
  | .ok n lbl s' =>
    let x := BitVec.ofNat 512 n
    match s.openChan a 1 with
    | none => .error (.trap .prot (s.sreg a))
    | some (h, ch) =>
      if sendMalformed x ch then .error (.trap .copyAddr ((s.descAddr b).setWidth 64))
      else
        let len := fieldOf x 64 32
        let cs := s.rangeChk .load (BitVec.ofNat 64 (fieldOf x 0 64)) 8 len
        let st := s.copyChk .store (BitVec.ofNat 64 (fieldOf x 192 64)) 8
        let lrem := s.srcLabel cs ||| s.remLabel a b lbl
        match s.localStop cs [st] (bitOf x 160) (sendBobj x) with
        | some e => .error e
        | none =>
          if !Label.dom ch.cl lrem then .error (.trap .lblSend (wordOf i))
          else
            let held := s.heldTiles (cs.filterMap Chk.key)
            if held ≠ [] then .error (.hold held)
            else if 64 ≤ s.remotes s.coreNo then .error (.hold [])
            else
              let r := readRange (s.warp.seenAll s.execLanes) ((pieces len).zip cs) s'
              let q := ch.seq
              let o := (r.2.refuseLocal (cs ++ [st])).issueOp h
                (.send x h q lrem defer (some r.1.bytes) r.1.bad r.1.gone st.key) (linesOf st.key.toList) r.1.reads
              let c := o.2.chanAt s.warp.ctx h
              let t := (o.2.setChan s.warp.ctx h { c with seq := q + 1 }).cacheRange (BitVec.ofNat 64 (fieldOf x 0 64)) len
              .ok ((t.cacheRange (BitVec.ofNat 64 (fieldOf x 192 64)) 8).advance p)

/-- `fsend` (19 R323). -/
def execFsend (p : Bool) (a b : SNum) (s : State) : Host.Outcome State Fault Refusal :=
  wordMarked (.fsend p a b) s true true (sendEffect (.fsend p a b) p a b false)

/-- `fsend.defer` (19 R323). -/
def execFsendDefer (p : Bool) (a b : SNum) (s : State) : Host.Outcome State Fault Refusal :=
  wordMarked (.fsendDefer p a b) s true true (sendEffect (.fsendDefer p a b) p a b true)

/-! ## Combining (19 R325, R327) -/

/-- Code of a combining operation. -/
def combCode (o : CombOp) : Nat :=
  match o with
  | .sum => 0
  | .max => 1
  | .min => 2
  | .rescale => 3

/-- TY allowed for an operation (R326). -/
def combTyOk (o : CombOp) (ty : Nat) : Bool :=
  match o with
  | .sum => ty < 4
  | .max => ty < 3
  | .min => ty < 3
  | .rescale => ty = 2

/-- Bytes of an element of a TY. -/
def combBytes (ty : Nat) : Nat := if ty = 1 || ty = 3 then 8 else 4

/-- Payload bytes of a contribution or result. -/
def combLen (o : Nat) (ty cnt : Nat) : Nat := if o = 3 then 4 * (cnt + 2) else combBytes ty * cnt

/-- A combining descriptor is malformed (R327). -/
def combMalformed (x : BitVec 512) (o : CombOp) : Bool :=
  let ty := fieldOf x 384 4
  let q := fieldOf x 256 64
  let e := combBytes ty
  fieldOf x 388 124 ≠ 0 || bitOf x 255 || fieldOf x 368 16 = 0 || 1024 < fieldOf x 368 16 || !combTyOk o ty ||
    (if ty = 3 then q % 2 = 0 || q < 3 || 2 ^ 62 ≤ q else q ≠ 0) || fieldOf x 0 64 % e ≠ 0 ||
    fieldOf x 64 64 % e ≠ 0 || fieldOf x 128 64 % 8 ≠ 0 || fieldOf x 121 7 ≠ 0 || fieldOf x 185 7 ≠ 0

/-- A frame header (R325). -/
def frameHdr (kind op ty fcode group nmem rank cnt seq q : Nat) : BitVec 256 :=
  BitVec.ofNat 256 (2 ^ 248 + kind * 2 ^ 244 + op * 2 ^ 240 + ty * 2 ^ 236 + fcode * 2 ^ 232 + group * 2 ^ 208 +
    nmem * 2 ^ 192 + rank * 2 ^ 176 + cnt * 2 ^ 160 + seq * 2 ^ 128 + q * 2 ^ 64)

/-- `fcomb` (R327). -/
def execFcomb (p : Bool) (a b : SNum) (o : CombOp) (s : State) : Host.Outcome State Fault Refusal :=
  wordMarked (.fcomb p a b o) s true true fun s =>
    match s.readDesc b 64 with
    | .stop e => .error e
    | .absent => .ok (absentDesc p 7 s)
    | .ok n lbl s' =>
      let x := BitVec.ofNat 512 n
      match s.openChan a 2 with
      | none => .error (.trap .prot (s.sreg a))
      | some (h, ch) =>
        if combMalformed x o then .error (.trap .copyAddr ((s.descAddr b).setWidth 64))
        else
          let e := combBytes (fieldOf x 384 4)
          let len := combLen (combCode o) (fieldOf x 384 4) (fieldOf x 368 16)
          let la : Word := BitVec.ofNat 64 (fieldOf x 0 64)
          let ra : Word := BitVec.ofNat 64 (fieldOf x 64 64)
          let cs := s.rangeChk .load la (stepOf la e) len
          let ds := s.rangeAt .store ra (stepOf ra e) len
          let st := s.rangeAt .store (BitVec.ofNat 64 (fieldOf x 128 64)) 8 8
          let lrem := s.srcLabel cs ||| s.remLabel a b lbl
          match s.localStop cs ((ds ++ st).map Prod.snd) false 0 with
          | some e => .error e
          | none =>
            if !Label.dom ch.cl lrem then .error (.trap .lblSend (wordOf (.fcomb p a b o)))
            else
              match s.acceptStop (ch.cl ||| lrem) (ds ++ st) with
              | some e => .error e
              | none =>
                let held := s.heldTiles (cs.filterMap Chk.key)
                if held ≠ [] then .error (.hold held)
                else if 64 ≤ s.remotes s.coreNo then .error (.hold [])
                else
                  let r := readRange (s.warp.seenAll s.execLanes) ((cut (stepOf la e) len).zip cs) s'
                  let unread : Bool := r.1.gone ≠ []
                  let keys := ((ds ++ st).map Prod.snd).filterMap Chk.key
                  let y := (r.2.refuseLocal (cs ++ (ds ++ st).map Prod.snd)).issueOp h
                    (.comb x h o lrem (some (if unread then List.replicate len 0#8 else r.1.bytes)) (r.1.bad ≠ []) unread
                      (ds.map fun d => d.2.key) (st.head?.bind fun d => d.2.key)) (linesOf keys) r.1.reads
                  let t := ((y.2.cacheRange la len).cacheRange ra len).cacheRange (BitVec.ofNat 64 (fieldOf x 128 64)) 8
                  .ok (t.advance p)

/-! ## Local completion (R222, R323, R327) -/

/-- The offsets of the 8-byte elements of `n` bytes. -/
def offsetsOf (n : Nat) : List Nat := (pieces n).map Prod.fst

/-- The stamp or status of an operation, where its place was not refused. -/
def State.stampOp (s : State) (o : Op) (stamp : Option Nat) (v : Nat) (c : Label) : State :=
  match stamp with
  | some k => s.stampStore (s.opParty o o.lane) (joinIds o.hb o.done) k v c
  | none => s

/-- A value with bit 63 set: a failure. -/
def failMark (v : Nat) : Nat := v % 2 ^ 63 + 2 ^ 63

/-- The status of a send is written at STADDR, labelled CL, where its place was not refused (log 46). -/
def State.statusOp (s : State) (o : Op) (h : Nat) (stamp : Option Nat) (v : Nat) : State :=
  (s.stampOp o stamp v (s.chanAt o.ctx h).cl).finishOp o

/-- A send of sequence `q` fails here with status 4, for a peer out of reach or a key that is gone (19 R324, 20 R349): the
receiver learns from a later message that its tail counter passes over it. -/
def State.loseSend (s : State) (o : Op) (h q : Nat) (stamp : Option Nat) : State :=
  let ch := s.chanAt o.ctx h
  (s.setChan o.ctx h { ch with failed := ch.failed ++ [q] }).statusOp o h stamp (failMark 4)

/-- REMOTE_SOURCE_READ: every source byte has been read, which is local completion; the message leaves. A send whose
channel's key slot no longer holds a key of the context fails (20 R331, R349). -/
def execRemoteSourceRead (id : Nat) (s : State) : Host.Outcome State Fault Refusal :=
  let s := s.readFor id []
  match s.opAt id with
  | none => .next s
  | some o =>
    if o.reads ≠ [] then .next s
    else
    match o.kind with
    | .put x h lrem (some bs) bad gone =>
      let e := s.chanPeer o.ctx (s.chanAt o.ctx h)
      let s := if remBo x then s.countBytes o (remBobj x) (remLen x) lrem else s
      let s := s.setChan o.ctx h { s.chanAt o.ctx h with far := true }
      let s := s.send (.put (peerAddr e)
        { ctx := peerCtx e, srcAddr := Config.fabricAddr, srcCtx := o.ctx, handle := h, raddr := fieldOf x 64 57,
          staddr := fieldOf x 256 64, sval := BitVec.ofNat 64 (remSval x), payload := bs, bad := if o.bad then offsetsOf bs.length else bad, gone := gone })
      .next (s.finishOp o)
    | .send x h q lrem defer (some bs) bad gone stamp =>
      let ch := s.chanAt o.ctx h
      let e := s.chanPeer o.ctx ch
      let lost := !s.slotOk (fieldOf ch.desc 24 8) 4 o.ctx
      if lost && s.claimed id stamp.toList then .next s
      else
      let s := if bitOf x 160 then s.countBytes o (sendBobj x) (fieldOf x 64 32) lrem else s
      if lost then .next (s.loseSend o h q stamp)
      else
      let s := s.send (.send (peerAddr e)
        { ctx := peerCtx e, srcAddr := Config.fabricAddr, srcCtx := o.ctx, handle := h, pch := ch.pch, seq := q, len := fieldOf x 64 32,
          tag := BitVec.ofNat 32 (fieldOf x 96 32), payload := bs, bad := if o.bad then offsetsOf bs.length else bad, gone := gone, defer := defer,
          opTag := id, failed := ch.failed })
      .next (s.setOp { o with kind := .send x h q lrem defer none bad gone stamp, since := s.cycle })
    | .comb x h c lrem (some bs) bad unread dst stamp =>
      let e := s.chanPeer o.ctx (s.chanAt o.ctx h)
      let hdr := frameHdr 0 (combCode c) (fieldOf x 384 4) (if unread then 4 else 0) (fieldOf x 352 16)
        (fieldOf e 80 16) (fieldOf e 64 16) (fieldOf x 368 16) (fieldOf x 320 32) (fieldOf x 256 64)
      let s := s.send (.frame (peerAddr e) hdr bs (bad || o.bad))
      .next (s.setOp { o with kind := .comb x h c lrem none bad unread dst stamp })
    | _ => .next s

/-! ## What comes back to the issuer -/

/-- Writes the elements of a local destination: pieces, their locations and the offsets that are poisoned or not
delivered. -/
def landRange (o : Op) (c : Label) (bs : List Byte) (bad gone : List Nat) :
    List ((Nat × Nat) × Option Nat) → List Nat × List Nat → State → (List Nat × List Nat) × State
  | [], r, s => (r, s)
  | (p, d) :: t, r, s =>
    match d with
    | none => landRange o c bs bad gone t r s
    | some k =>
      if gone.contains p.1 then landRange o c bs bad gone t r s
      else
        let b := o.bad || bad.contains p.1
        let w := s.engineStore (s.opParty o o.lane) o.hb k ((bs.drop p.1).take p.2) c b
        landRange o c bs bad gone t (r.1 ++ w.1, r.2 ++ cleanKeys b [k] p.2) w.2

/-- RGET_DATA_RETURN (R223): the payload, then the stamp; the operation is complete. -/
def execRgetDataReturn (id : Nat) (r : GetReply) (s : State) : Host.Outcome State Fault Refusal :=
  match s.opAt id with
  | none => .next s
  | some o =>
    match o.kind with
    | .get x h lrem dst stamp =>
      if s.claimed id (dst.filterMap (fun d => d) ++ stamp.toList) then .next s
      else
        let c := (s.chanAt o.ctx h).cl ||| lrem
        let ps := (pieces (remLen x)).zip dst
        let y := if r.failed then (([], []), s) else landRange o c r.data r.bad r.gone ps ([], []) s
        let s := y.2.clearCovered y.1.2
        let o := { o with done := o.done ++ y.1.1 }
        let v := if r.failed || r.gone ≠ [] then failMark (remSval x) else remSval x
        let s := s.stampOp o stamp v c
        let s := if remBo x then s.countBytes o (remBobj x) (remLen x) lrem else s
        .next (s.finishOp o)
    | _ => .next s

/-- SEND_STATUS (19 R324): 1 written, else a failure code with bit 63. -/
def execSendStatus (id status : Nat) (s : State) : Host.Outcome State Fault Refusal :=
  match s.opAt id with
  | none => .next s
  | some o =>
    match o.kind with
    | .send _ h _ _ _ none _ _ stamp =>
      if s.claimed id stamp.toList then .next s
      else .next (s.statusOp o h stamp (if status = 1 then 1 else failMark status))
    | _ => .next s

/-- SEND_UNREACHABLE (R324): no answer for 2^26 cycles. -/
def execSendUnreachable (id : Nat) (s : State) : Host.Outcome State Fault Refusal :=
  match s.opAt id with
  | none => .next s
  | some o =>
    match o.kind with
    | .send _ h q _ _ none _ _ stamp =>
      if s.cycle < o.since + 2 ^ 26 || s.claimed id stamp.toList then .next s else .next (s.loseSend o h q stamp)
    | _ => .next s

/-- COMBINE_RESULT (19 R327): the result at RADDR, then the stamp; a failure writes the stamp alone. -/
def execCombineResult (id : Nat) (hdr : BitVec 256) (payload : List Byte) (s : State) :
    Host.Outcome State Fault Refusal :=
  match s.opAt id with
  | none => .next s
  | some o =>
    match o.kind with
    | .comb x h c lrem none _ _ dst stamp =>
      if s.claimed id (dst.filterMap (fun d => d) ++ stamp.toList) then .next s
      else
        let cl := (s.chanAt o.ctx h).cl ||| lrem
        let ra : Word := BitVec.ofNat 64 (fieldOf x 64 64)
        let len := combLen (combCode c) (fieldOf x 384 4) (fieldOf x 368 16)
        let ps := (cut (stepOf ra (combBytes (fieldOf x 384 4))) len).zip dst
        let ok : Bool := fieldOf hdr 244 4 = 1
        let y := if ok then landRange o cl payload [] [] ps ([], []) s else (([], []), s)
        let s := y.2.clearCovered y.1.2
        let o := { o with done := o.done ++ y.1.1 }
        let v := fieldOf x 192 64
        .next ((s.stampOp o stamp (if ok then v else failMark v) cl).finishOp o)
    | _ => .next s

/-! ## Arrivals from peers (R223, R324, R358) -/

/-- A core number that no core has: the translations of agents that have no TLB. -/
def farCore : Nat := 2 ^ 20

/-- The checks of a remote access to a context's page. -/
def State.farChk (s : State) (c : Nat) (declined : List Nat) (k : Acc) (va : Nat) : Chk :=
  s.checkVa farCore c false false declined k (BitVec.ofNat 64 va)

/-- Logs a refusal of a remote agent (16 R270). -/
def State.refuseFar (s : State) (c why : Nat) : State := s.logRefusal c 0x3FF 0 5 why 0

/-- The answering channel of an arriving operation (R358): the lowest open one of the context whose peer entry names the
issuing device and context and whose PCH is the issuer's handle. -/
def State.answering (s : State) (c : Nat) (addr : BitVec 128) (ctx handle : Nat) : Option (Nat × Chan) :=
  (s.ctxAt c).chans.entries.find? fun x =>
    let e := s.chanPeer c x.2
    x.2.opened && peerKind e = 1 && peerAddr e = addr && peerCtx e = ctx && x.2.pch = handle

/-- The pages of checks that wait for the host. -/
def faultPages (cs : List Chk) : List (Nat × Nat) := distinct (cs.filterMap Chk.page)

/-- Keeps an arrived operation held, offering the pages that it waits for. -/
def State.hold (s : State) (h : Held) (c : Nat) (pages : List (Nat × Nat)) : State :=
  pages.foldl (fun s p => s.offer (.held h.id) c 0x3FF p.1 p.2 false) { s with held := s.held ++ [h] }

/-- The elements of `n` arriving bytes at an address, with their checks. -/
def State.farChks (s : State) (c : Nat) (declined : List Nat) (va n : Nat) : List ((Nat × Nat) × Chk) :=
  (pieces n).map fun p => (p, s.farChk c declined .store (va + p.1))

/-- Writes the elements that arrive from a peer with label `cl`: gives the writes, the unpoisoned locations, whether each
was written, and why the first refused one was. -/
def landFar (cl : Label) (bs : List Byte) (bad gone : List Nat) :
    List ((Nat × Nat) × Chk) → State → (List Nat × List Nat × Bool × Option Nat) × State
  | [], s => (([], [], true, none), s)
  | (p, r) :: t, s =>
    if gone.contains p.1 then
      let r := landFar cl bs bad gone t s
      ((r.1.1, r.1.2.1, false, r.1.2.2.2), r.2)
    else
      match r with
      | .ok k ceil =>
        if s.accepts k ceil cl then
          let w := s.engineStore Party.remote [] k ((bs.drop p.1).take p.2) cl (bad.contains p.1)
          let r := landFar cl bs bad gone t w.2
          ((w.1 ++ r.1.1, cleanKeys (bad.contains p.1) [k] p.2 ++ r.1.2.1, r.1.2.2), r.2)
        else
          let r := landFar cl bs bad gone t s
          ((r.1.1, r.1.2.1, false, r.1.2.2.2), r.2)
      | .refused w =>
        let r := landFar cl bs bad gone t s
        ((r.1.1, r.1.2.1, false, some w), r.2)
      | _ =>
        let r := landFar cl bs bad gone t s
        ((r.1.1, r.1.2.1, false, r.1.2.2.2), r.2)

/-- Logs the refusal of a remote access, where there was one. -/
def State.refuseFarOpt (s : State) (c : Nat) (w : Option Nat) : State :=
  match w with
  | some y => s.refuseFar c y
  | none => s

/-- A stamp written by a remote agent, where its place takes it. -/
def State.stampFar (s : State) (cl : Label) (r : Chk) (v : Nat) (ids : List Nat) : State :=
  match r with
  | .ok k ceil => if s.accepts k ceil cl then s.stampStore Party.remote ids k v cl else s
  | _ => s

/-- Logs at most one refusal of a remote access (16 R270): the first of its payload's and its stamp's. -/
def State.refuseAccess (s : State) (c : Nat) (w : Option Nat) (r : Chk) : State := s.refuseFarOpt c (w.orElse fun _ => r.why)

/-- An arriving `rput` is carried out, or stays held (R223, R358). -/
def attemptPut (h : Held) (m : PutMsg) (s : State) : State :=
  let st := s.farChk m.ctx h.declined .store m.staddr
  if h.failed then
    match st with
    | .fault p k => s.hold h m.ctx [(p, k)]
    | _ => (s.refuseAccess m.ctx none st).stampFar 0#16 st (failMark m.sval.toNat) []
  else
    match s.answering m.ctx m.srcAddr m.srcCtx m.handle with
    | none => s.hold h m.ctx []
    | some (_, ch) =>
      let cs := s.farChks m.ctx h.declined m.raddr m.payload.length
      let pages := faultPages (((cs.filter fun c => !m.gone.contains c.1.1).map Prod.snd) ++ [st])
      if pages ≠ [] then s.hold h m.ctx pages
      else
        let r := landFar ch.cl m.payload m.bad m.gone cs s
        let s := (r.2.refuseAccess m.ctx r.1.2.2.2 st).clearCovered r.1.2.1
        s.stampFar ch.cl st (if r.1.2.2.1 then m.sval.toNat else failMark m.sval.toNat) r.1.1

/-- Reads the elements of an `rget` under a channel's label: bytes, poisoned and failed offsets, and why the first
refused one was. A refused element reads as all ones. -/
def readFar (c : Nat) (cl : Label) (declined : List Nat) (va : Nat) :
    List (Nat × Nat) → State → (List Byte × List Nat × List Nat × Option Nat) × State
  | [], s => (([], [], [], none), s)
  | p :: t, s =>
    match s.farChk c declined .load (va + p.1) with
    | .ok k _ =>
      if Label.dom cl (s.granLbl k) then
        let b := s.engineRead [] k p.2
        let r := readFar c cl declined va t b.2
        ((b.1 ++ r.1.1, (if s.poisoned k then [p.1] else []) ++ r.1.2.1, r.1.2.2), r.2)
      else
        let r := readFar c cl declined va t s
        ((allOnes p.2 ++ r.1.1, r.1.2.1, r.1.2.2.1, some 3), r.2)
    | .refused w =>
      let r := readFar c cl declined va t s
      ((allOnes p.2 ++ r.1.1, r.1.2.1, r.1.2.2.1, some w), r.2)
    | _ =>
      let r := readFar c cl declined va t s
      ((List.replicate p.2 0#8 ++ r.1.1, r.1.2.1, p.1 :: r.1.2.2.1, r.1.2.2.2), r.2)

/-- An arriving `rget` is served, or stays held (R358). -/
def attemptGet (h : Held) (m : GetMsg) (s : State) : State :=
  if h.failed then s.send (.getReply m.srcAddr m.tag ⟨[], [], [], false, true⟩)
  else
    match s.answering m.ctx m.srcAddr m.srcCtx m.handle with
    | none => s.hold h m.ctx []
    | some (_, ch) =>
      let ps := pieces m.len
      let pages := faultPages (ps.map fun p => s.farChk m.ctx h.declined .load (m.raddr + p.1))
      if pages ≠ [] then s.hold h m.ctx pages
      else
        let r := readFar m.ctx ch.cl h.declined m.raddr ps s
        (r.2.refuseFarOpt m.ctx r.1.2.2.2).send
          (.getReply m.srcAddr m.tag ⟨r.1.1, r.1.2.1, r.1.2.2.1, r.1.2.2.2 == some 3, false⟩)

/-- The leading messages of a channel that have ended. -/
def leading (done : List Nat) : Nat → Nat → Nat
  | 0, n => n
  | k + 1, n => if done.contains n then leading done k (n + 1) else n

/-- A message of sequence `q` has ended at the receiver: the tail counter passes over it and is written where its check
`r` lets it, ordered after the writes `ids`. -/
def State.endSend (s : State) (c hn : Nat) (r : Chk) (q : Nat) (ids : List Nat) : State :=
  let ch := s.chanAt c hn
  let done := if ch.doneSeqs.contains q then ch.doneSeqs else ch.doneSeqs ++ [q]
  let n := leading done done.length 0
  let s := s.setChan c hn { ch with doneSeqs := done, tail := n }
  s.stampFar ch.cl r n ids

/-- A message that finds no open channel has failed here: its sequence number, and those of its channel's messages that have
failed at the sender, are kept for the channel that may open later (R324). -/
def State.missSend (s : State) (m : SendMsg) : State :=
  let x := s.ctxAt m.ctx
  if !x.live then s
  else s.setCtxAt m.ctx { x with missed := x.missed ++ (m.seq :: m.failed).map fun q => ⟨m.pch, m.srcAddr, m.srcCtx, m.handle, q⟩ }

/-- A channel passes over the messages that have failed at their sender. -/
def State.passOver (s : State) (c hn : Nat) (qs : List Nat) : State :=
  let ch := s.chanAt c hn
  s.setChan c hn { ch with doneSeqs := ch.doneSeqs ++ qs.filter fun q => !ch.doneSeqs.contains q }

/-- The bytes of a ring entry: LEN, TAG, then the payload (R324). -/
def entryBytes (m : SendMsg) : List Byte := leBytes 4 m.len ++ leBytes 4 m.tag.toNat ++ m.payload

/-- An arriving send is written, fails, or stays held (R324). -/
def attemptSend (h : Held) (m : SendMsg) (s : State) : State :=
  let ch := s.chanAt m.ctx m.pch
  let e := s.chanPeer m.ctx ch
  let answer (n : Nat) (s : State) : State := s.send (.sendStatus m.srcAddr m.opTag n)
  if !(ch.opened && peerKind e = 1 && peerAddr e = m.srcAddr && peerCtx e = m.srcCtx && ch.pch = m.handle) then answer 4 (s.missSend m)
  else
    let s := s.passOver m.ctx m.pch m.failed
    let at_ := ch.ring + m.seq % ch.slots * ch.entry
    let bs := entryBytes m
    let hd := s.farChk m.ctx h.declined .load ch.headAt
    let cs := s.farChks m.ctx h.declined at_ bs.length
    let tl := s.farChk m.ctx h.declined .store ch.tailAt
    let ws := cs.map Prod.snd ++ [tl]
    let pages := faultPages (hd :: ws)
    if pages ≠ [] then s.hold h m.ctx pages
    else
      let fail (n : Nat) (w : Option Nat) : State :=
        answer n ((s.refuseAccess m.ctx w tl).endSend m.ctx m.pch tl m.seq [])
      match hd with
      | .ok k _ =>
        if leNat (s.bytesAt k 8) + ch.slots ≤ m.seq then
          if m.defer then s.hold { h with ring := true } m.ctx [] else fail 2 none
        else if ch.entry < bs.length || ws.any (fun w => match w with
            | .ok k ceil => !s.accepts k ceil ch.cl
            | _ => true) then fail 3 (firstWhy ws)
        else
          let gone := m.gone.map (· + 8)
          let r := landFar ch.cl bs (m.bad.map (· + 8)) gone cs s
          answer 1 ((r.2.clearCovered r.1.2.1).endSend m.ctx m.pch tl m.seq r.1.1)
      | _ => fail 3 hd.why

/-- Carries out an operation that has arrived, or keeps it held. A context that is gone takes nothing: where the operation
fails there, an `rput` has no STADDR to mark, and an `rget` is answered (R358). -/
def attempt (h : Held) (s : State) : State :=
  match h.kind with
  | .put m => if (s.ctxAt m.ctx).live then attemptPut h m s else if h.failed then s else s.hold h m.ctx []
  | .get m => if (s.ctxAt m.ctx).live || h.failed then attemptGet h m s else s.hold h m.ctx []
  | .send m => attemptSend h m s

/-- A newly arrived operation. -/
def arrive (k : HeldKind) (s : State) : State :=
  let f := s.fresh
  attempt { id := f.1, kind := k, declined := [], since := s.cycle, ring := false, failed := false } f.2

/-- Tries a held operation again. -/
def retryHeld (h : Held) (s : State) : State := attempt h { s with held := s.held.filter fun x => x.id ≠ h.id }

/-- Tries every held operation that waits for a channel again. -/
def retryAll (s : State) : State :=
  s.held.foldl (fun s h => if h.ring || s.faults.any (fun f => f.who = .held h.id) then s else retryHeld h s) s

/-- REMOTE_PUT_ARRIVAL (R358). -/
def execRemotePutArrival (m : PutMsg) (s : State) : Host.Outcome State Fault Refusal := .next (arrive (.put m) s)

/-- REMOTE_GET_ARRIVAL (R358). -/
def execRemoteGetArrival (m : GetMsg) (s : State) : Host.Outcome State Fault Refusal := .next (arrive (.get m) s)

/-- SEND_ARRIVAL (R324). -/
def execSendArrival (m : SendMsg) (s : State) : Host.Outcome State Fault Refusal := .next (arrive (.send m) s)

/-- SEND_DEFER_ADMIT (R324): a held deferrable send is written once the head counter lets it in. -/
def execSendDeferAdmit (id : Nat) (s : State) : Host.Outcome State Fault Refusal :=
  match s.held.find? fun h => h.id = id with
  | some h => if h.ring then .next (retryHeld h s) else .next s
  | none => .next s

/-- An operation waits for want of an answering channel. -/
def State.unanswered (s : State) (h : Held) : Bool :=
  match h.kind with
  | .put m => (s.answering m.ctx m.srcAddr m.srcCtx m.handle).isNone
  | .get m => (s.answering m.ctx m.srcAddr m.srcCtx m.handle).isNone
  | .send _ => false

/-- REMOTE_HOLD_TIMEOUT (R358): the channel is still closed after 2^26 cycles, and the operation fails. -/
def execRemoteHoldTimeout (id : Nat) (s : State) : Host.Outcome State Fault Refusal :=
  match s.held.find? fun h => h.id = id with
  | some h =>
    if !h.failed && s.unanswered h && h.since + 2 ^ 26 ≤ s.cycle then .next (retryHeld { h with failed := true } s)
    else .next s
  | none => .next s

/-! ## A combining Olnas (19 R326) -/

/-- Elements of a payload. -/
def elemsOf (e : Nat) (bs : List Byte) : List Nat := (cut e bs.length).map fun p => leNat ((bs.drop p.1).take p.2)

/-- F32. -/
def f32 : Fmt := Fmt.of .f32

/-- 2^a correctly rounded to F32 by RNE (R326). -/
def exp2Exact (a : Nat) : Nat :=
  match decodeF f32 a with
  | .nan _ => f32.nan
  | .inf n => if n then 0 else f32.infBits
  | .fin n m e =>
    let p : Nat := 256
    let big := 13 ≤ (m.log2 : Int) + e
    let whole := roundAt 1 false m e 0 false
    let fx := roundAt 1 false m e (-p) false
    if big && m ≠ 0 then (if n then 0 else f32.infBits)
    else if !whole.2 then (roundTo f32 0 false 1 (if n then -(whole.1 : Int) else whole.1) false).1
    else
      let v : Int := if n then -(fx.1 : Int) - (if fx.2 then 1 else 0) else fx.1
      let k := v / (2 ^ p : Nat)
      let z := (v % (2 ^ p : Nat)).toNat
      (roundTo f32 0 false (expHorner p (z * ln2Sum p 300 / 2 ^ p) 80 (2 ^ p)) (k - p) true).1

/-- The exact sum of the products of pairs of F32 values, rounded once; a NaN or an infinity times 0 gives the
canonical NaN. -/
def sumProducts (xs : List (Nat × Nat)) : Nat :=
  let vs := xs.map fun x => (decodeF f32 x.1, decodeF f32 x.2)
  if anyNan (vs.map Prod.fst) || anyNan (vs.map Prod.snd) then f32.nan
  else
    let ps := vs.map fun v => mulV v.1 v.2
    if ps.any Option.isNone then f32.nan else (sumF f32 0 (ps.filterMap fun p => p)).1

/-- The RESCALE of contributions of n + 2 values each. -/
def rescale (n : Nat) (cs : List (List Nat)) : List Nat :=
  let ms := cs.map fun c => c.getD 0 0
  if anyNan (ms.map (decodeF f32)) then List.replicate (n + 2) f32.nan
  else
    let m := (extremeF f32 false ms).1
    let fs := ms.map fun x => if compareF f32 .eq x m |>.1 then 0x3F800000 else exp2Exact (subF f32 0 x m).1
    m :: (List.range (n + 1)).map fun j => sumProducts ((cs.map fun c => c.getD (j + 1) 0).zip fs)

/-- One result element of terms of a TY (R326). -/
def combineElem (op ty q : Nat) (xs : List Nat) : Nat :=
  let w := 8 * combBytes ty
  let vs := xs.map (sextNat w)
  match ty, op with
  | 2, 0 => (sumF f32 0 (xs.map (decodeF f32))).1
  | 2, o => (extremeF f32 (o = 2) xs).1
  | 3, _ => (xs.map fun x => x % q).foldl (· + ·) 0 % q
  | _, 0 => (vs.foldl (fun (a b : Int) => a + b) 0 % (2 ^ w : Nat)).toNat
  | _, 1 => ((vs.foldl max (vs.headD 0)) % (2 ^ w : Nat)).toNat
  | _, _ => ((vs.foldl min (vs.headD 0)) % (2 ^ w : Nat)).toNat

/-- The payload of a result from every rank's contribution. -/
def combined (hdr : BitVec 256) (cs : List (List Byte)) : List Byte :=
  let op := fieldOf hdr 240 4
  let ty := fieldOf hdr 236 4
  let n := fieldOf hdr 160 16
  let e := if op = 3 then 4 else combBytes ty
  let xs := cs.map (elemsOf e)
  let out := if op = 3 then rescale n xs
             else (List.range n).map fun j => combineElem op ty (fieldOf hdr 64 64) (xs.map fun c => c.getD j 0)
  (out.map (leBytes e)).flatten

/-- The header of a reply to a round. -/
def replyHdr (hdr : BitVec 256) (kind fcode : Nat) : BitVec 256 :=
  frameHdr kind (fieldOf hdr 240 4) (fieldOf hdr 236 4) fcode (fieldOf hdr 208 16) (fieldOf hdr 192 16) 0
    (fieldOf hdr 160 16) (fieldOf hdr 128 32) (fieldOf hdr 64 64)

/-- A round ends: its outcome goes to every rank that has contributed. -/
def Round.finish (r : Round) (kind fcode : Nat) (payload : List Byte) (s : State) : State :=
  let h := replyHdr r.hdr kind fcode
  let r := { r with outcome := some (h, payload) }
  r.parts.foldl (fun s p => s.send (.frame p.2.1 h payload false))
    { s with rounds := (s.rounds.filter fun x => !(x.group = r.group && x.seq = r.seq)) ++ [r] }

/-- COMBINER_CONTRIBUTION (R326). -/
def execCombinerContribution (src : BitVec 128) (hdr : BitVec 256) (payload : List Byte) (bad : Bool) (s : State) :
    Host.Outcome State Fault Refusal :=
  if fieldOf hdr 248 8 ≠ 1 || fieldOf hdr 244 4 ≠ 0 then .next s
  else
    let g := fieldOf hdr 208 16
    let q := fieldOf hdr 128 32
    let rank := fieldOf hdr 176 16
    let old := s.rounds.find? fun r => r.group = g && r.seq = q
    let r := old.getD { group := g, seq := q, since := s.cycle, hdr := hdr, parts := [], outcome := none }
    match r.outcome with
    | some (h, y) => .next (s.send (.frame src h y false))
    | none =>
      if r.parts.any fun p => p.1 = rank then .next s
      else
        let r := { r with parts := r.parts ++ [(rank, src, payload)] }
        let same (lo w : Nat) : Bool := fieldOf hdr lo w = fieldOf r.hdr lo w
        if fieldOf hdr 232 4 = 4 then .next (r.finish 2 4 [] s)
        else if !(same 240 4 && same 236 4 && same 160 16 && same 192 16 && same 64 64) then .next (r.finish 2 1 [] s)
        else if bad then .next (r.finish 2 3 [] s)
        else
          let ranks := List.range (fieldOf r.hdr 192 16)
          if ranks.all fun k => r.parts.any fun p => p.1 = k then
            .next (r.finish 1 0 (combined r.hdr (ranks.map fun k =>
              ((r.parts.find? fun p => p.1 = k).map fun p => p.2.2).getD [])) s)
          else
            .next { s with rounds := (s.rounds.filter fun x => !(x.group = g && x.seq = q)) ++ [r] }

/-- A round has waited for its ranks as long as CTMO of its group lets it; 0 lets it wait for ever (R326). -/
def Round.due (r : Round) (ctmo cycle : Nat) : Bool := ctmo ≠ 0 && r.since + ctmo * 2 ^ 16 ≤ cycle

/-- COMBINER_TIMEOUT (R326): ranks are missing CTMO x 2^16 cycles after the first contribution. -/
def execCombinerTimeout (group seq : Nat) (s : State) : Host.Outcome State Fault Refusal :=
  match s.rounds.find? fun r => r.group = group && r.seq = seq && r.outcome == none with
  | some r => if r.due (Config.groupTimeout group) s.cycle then .next (r.finish 2 2 [] s) else .next s
  | none => .next s

/-! ## `fopen` and `fclose` (19 R321, R322) -/

/-- A closed channel that waits only for puts that have left the device. -/
def Chan.awaitsPuts (x : Chan) : Bool := x.used && !x.opened && x.ops = [] && x.far

/-- The lowest handle that is neither open nor draining (R322). Whether the puts that have left on a closed channel have
ended at the peer is open: bit h of a pick says that those of handle h have not (log 6). -/
def State.freeHandle (s : State) (c : Nat) : Option Nat × State :=
  let r := if (s.ctxAt c).chans.entries.any fun e => e.2.awaitsPuts then s.pick (2 ^ 65) else (0, s)
  ((List.range' 1 64).find? fun h =>
    !(s.chanAt c h).used || ((s.chanAt c h).awaitsPuts && r.1 / 2 ^ h % 2 = 0), r.2)

/-- A channel descriptor fails step 3 of R321. -/
def State.chanBad (s : State) (x : BitVec 512) : Bool :=
  let ch : Chan := { Chan.blank with desc := x }
  let e := s.ctx.peer (fieldOf x 0 16)
  let wild (a : Nat) : Bool := 2 ^ 57 ≤ a
  fieldOf x 256 256 ≠ 0 || fieldOf x 40 24 ≠ 0 || 9 < fieldOf x 36 4 || 12 < fieldOf x 32 4 || wild ch.headAt ||
    wild ch.tailAt || wild ch.ring || ch.headAt % 8 ≠ 0 || ch.tailAt % 8 ≠ 0 || ch.ring % ch.entry ≠ 0 ||
    64 ≤ fieldOf x 0 16 || peerKind e = 0 || peerKind e = 3 || (peerKind e = 2 && fieldOf x 32 224 ≠ 0) ||
    !s.slotOk (fieldOf x 24 8) 4 s.warp.ctx

/-- A channel that opens takes over the messages that have failed for want of it (R324). -/
def State.takeMissed (s : State) (c h : Nat) : State :=
  let ch := s.chanAt c h
  let e := s.chanPeer c ch
  let x := s.ctxAt c
  let mine (m : MissedSend) : Bool := m.pch = h && m.addr = peerAddr e && m.ctx = peerCtx e && m.handle = ch.pch
  (s.setCtxAt c { x with missed := x.missed.filter fun m => !mine m }).passOver c h ((x.missed.filter mine).map MissedSend.seq)

/-- `fopen` (R321). Operations that waited for this channel go on (21 R358). -/
def execFopen (p : Bool) (d a b : SNum) (s : State) : Host.Outcome State Fault Refusal :=
  wordMarked (.fopen p d a b) s false (s.peerOther ((s.descAddr a).setWidth 64)) fun s =>
    match s.readDesc a 64 with
    | .stop e => .error e
    | .absent => .ok (((s.refuseEngine 7 2).setS d 0 s.pcl).advance p)
    | .ok n lbl s' =>
      let x := BitVec.ofNat 512 n
      let r := s'.freeHandle s.warp.ctx
      match r.1 with
      | none => .error (.trap .prot ((s.descAddr a).setWidth 64))
      | some h =>
        if s.chanBad x then .error (.trap .prot ((s.descAddr a).setWidth 64))
        else
          let cl : Label := (s.sreg b).setWidth 16
          let clear : Label := BitVec.ofNat 16 (fieldOf (s.ctx.peer (fieldOf x 0 16)) 96 16)
          if !Label.dom clear cl || !Label.dom s.owners cl || !Label.dom cl (s.remLabel a b lbl) then
            .error (.trap .lblSend (wordOf (.fopen p d a b)))
          else
            let s' := r.2.setChan s.warp.ctx h { Chan.blank with used := true, opened := true, desc := x, cl := cl }
            let s' := s'.takeMissed s.warp.ctx h
            .ok (retryAll ((s'.setS d (BitVec.ofNat 64 h) s.pcl).advance p))

/-- `fclose` (R322). -/
def execFclose (p : Bool) (a : SNum) (s : State) : Host.Outcome State Fault Refusal :=
  word (.fclose p a) s fun s =>
    let h := (s.sreg a).toNat
    let ch := s.chanAt s.warp.ctx h
    if !ch.opened then .error (.trap .prot (s.sreg a))
    else
      .ok ((s.setChan s.warp.ctx h (if ch.ops = [] && !ch.far then Chan.blank else { ch with opened := false })).advance p)

end Sys2Proof.Machine
end

