-- ==== Sys2Proof/Machine/Runnable.lean ====
section
/-! DEFINITION. The work of a launch, and which contexts have gangs to run and in which order (05 R94, 16 R286, R287, 17
R294 to R299). -/

namespace Sys2Proof.Machine

/-! ## The work of a launch (05 R94) -/

/-- Threads of a block: 2^(w0 + w1). -/
def Launch.blockThreads (l : Launch) : Nat := 2 ^ (l.w0 + l.w1)

/-- Gangs of a launch. -/
def Launch.gangs (l : Launch) : Nat :=
  let n := l.blockThreads * 2 ^ l.w2
  (l.size + n - 1) / n

/-- Block numbers of a gang, with their ranks: those that have a thread. -/
def Launch.gangBlocks (l : Launch) (g : Nat) : List (Nat × Nat) :=
  ((List.range (2 ^ l.w2)).map fun r => (r, g * 2 ^ l.w2 + r)).filter fun b => b.2 * l.blockThreads < l.size

/-- Lanes that exist in warp `j` of block `b`. -/
def Launch.lanes (l : Launch) (b j : Nat) : BitVec 32 :=
  let base := b * l.blockThreads + j * 2 ^ l.w0
  BitVec.ofNat 32 (2 ^ min (2 ^ l.w0) (l.size - base) - 1)

/-- A launch is ready and has gangs that have not been dispatched, or that were discarded. -/
def Launch.toDispatch (l : Launch) : Bool :=
  l.known && l.started && !l.ended && (l.discarded ≠ [] || l.nextGang < l.gangs)

/-- A queue of a context. -/
def State.queueAt (s : State) (c q : Nat) : Queue := (s.ctxAt c).queues.get Queue.blank q

/-- Replaces a queue. -/
def State.setQueue (s : State) (c q : Nat) (x : Queue) : State :=
  let y := s.ctxAt c
  s.setCtxAt c { y with queues := y.queues.set Queue.blank q x }

/-- The launch at the head of a queue. -/
def State.headLaunch (s : State) (c q : Nat) : Option Nat :=
  match (s.queueAt c q).cmds with
  | .launch n :: _ => some n
  | _ => none

/-- The launches of a context that are ready: queue and sequence number. -/
def State.readyLaunches (s : State) (c : Nat) : List (Nat × Nat) :=
  (List.range 16).filterMap fun q =>
    match s.headLaunch c q with
    | some n => if (s.launchAt n).ready then some (q, n) else none
    | none => none

/-- Live gangs of a context, saved ones included (17 R300). -/
def State.gangsOf (s : State) (c : Nat) : List (Nat × Gang) := s.gangs.entries.filter fun g => g.2.live && g.2.ctx = c

/-- Saved gangs of a context. -/
def State.savedGangs (s : State) (c : Nat) : List (Nat × Gang) := (s.gangsOf c).filter fun g => g.2.saved

/-- Gangs on a cluster. -/
def State.gangsOn (s : State) (k : Nat) : List (Nat × Gang) :=
  s.gangs.entries.filter fun g => g.2.live && !g.2.saved && g.2.cluster = k

/-- The runs of a block that have ended. -/
def Launch.runsOf (l : Launch) (b : Nat) : List AuditRun := l.runs.filter fun r => r.num = b

/-- Two whole digests that agree. -/
def AuditRun.agrees (x y : AuditRun) : Bool := x.whole && y.whole && x.d0 == y.d0 && x.d1 == y.d1

/-- A run of the block's audit is under way. -/
def State.auditing (s : State) (lseq b : Nat) : Bool :=
  s.blocks.entries.any fun e => e.2.live && e.2.audit && e.2.lseq = lseq && e.2.num = b

/-- The runs that the block has had call for another: its first, or two that differ. -/
def needsRun (rs : List AuditRun) : Bool :=
  match rs with
  | [_] => true
  | [x, y] => !x.agrees y
  | _ => false

/-- Launches of a context with an audit run that waits for a core (16 R286). -/
def State.auditsOf (s : State) (c : Nat) : List Nat :=
  (s.launches.entries.filter fun l => l.2.ctx = c && l.2.ended && !l.2.closed &&
    l.2.pending.any fun b => needsRun (l.2.runsOf b) && !s.auditing l.1 b).map Prod.fst

/-- A ready launch has a gang not yet dispatched, started or not. -/
def Launch.hasGang (l : Launch) : Bool := l.ready && !l.ended && (l.discarded ≠ [] || l.nextGang < l.gangs)

/-- Gangs that a context may have live at once: SAVEG (17 R294). -/
def Ctx.saveg (c : Ctx) : Nat := fieldOf c.sched 48 16
/-- QUANTUM, in cycles. -/
def Ctx.quantum (c : Ctx) : Nat := fieldOf c.sched 8 32 * 1024
/-- WEIGHT. -/
def Ctx.weight (c : Ctx) : Nat := fieldOf c.sched 0 8

/-- A context is runnable (17 R296): a launch ready to dispatch, a saved gang, or an audit run, which is work of the same
context (16 R286). -/
def State.runnable (s : State) (c : Nat) : Bool :=
  (s.ctxAt c).live && !(s.ctxAt c).held &&
    ((s.readyLaunches c).any (fun l => (s.launchAt l.2).hasGang) || s.savedGangs c ≠ [] || s.auditsOf c ≠ [])

/-- A context has a gang that waits for a cluster. -/
def State.gangWaiting (s : State) (c : Nat) : Bool :=
  s.runnable c && (s.savedGangs c ≠ [] || (s.gangsOf c).length < (s.ctxAt c).saveg)

/-- The live contexts of a partition. -/
def State.contextsOf (s : State) (p : Nat) : List Nat :=
  (s.ctxs.entries.filter fun c => c.2.live && c.2.pav = p).map Prod.fst

/-- A partition has a gang that waits for a cluster. -/
def State.partWaiting (s : State) (p : Nat) : Bool := (s.contextsOf p).any s.gangWaiting

/-- How far a background context is from its turn: they go by context number, from the one after the last that was granted
a quantum, and round (R296). -/
def State.turnOf (s : State) (c : Nat) : Nat :=
  let back := (s.contextsOf (s.ctxAt c).pav).filter fun d => (s.ctxAt d).weight = 0 && (s.ctxAt d).lastGrant ≠ 0
  let last := back.foldl (fun (m : Nat × Nat) d =>
    if m.2 < (s.ctxAt d).lastGrant then (d + 1, (s.ctxAt d).lastGrant) else m) (0, 0)
  (c + 256 - last.1) % 256

/-- Context `a` goes before `b` in the order of R296. -/
def State.before (s : State) (a b : Nat) : Bool :=
  let x := s.ctxAt a
  let y := s.ctxAt b
  let late : Bool := x.lastGrant < y.lastGrant || (x.lastGrant = y.lastGrant && a < b)
  if x.weight = 0 then y.weight = 0 && s.turnOf a < s.turnOf b
  else y.weight = 0 || x.vt < y.vt || (x.vt = y.vt && late)

/-- The first of some contexts in the order of R296. -/
def State.firstOf (s : State) (cs : List Nat) : Option Nat :=
  cs.foldl (fun b c => match b with
    | none => some c
    | some d => if s.before c d then some c else some d) none

/-- A context that becomes runnable after being idle has its VT raised to the lowest among the runnable ones; one with
neither work nor a gang is idle (17 R296). -/
def State.refreshIdle (s : State) (p : Nat) : State :=
  let awake := (s.contextsOf p).filter fun c => s.runnable c && !(s.ctxAt c).wasIdle && (s.ctxAt c).weight ≠ 0
  let low := awake.foldl (fun (m : Option Nat) c => some (match m with
    | none => (s.ctxAt c).vt
    | some v => min v (s.ctxAt c).vt)) none
  (s.contextsOf p).foldl (fun (s : State) c =>
    let x := s.ctxAt c
    if s.runnable c && x.wasIdle then s.setCtxAt c { x with wasIdle := false, vt := max x.vt (low.getD x.vt) }
    else if !s.runnable c && !x.wasIdle && s.gangsOf c = [] then s.setCtxAt c { x with wasIdle := true }
    else s) s

end Sys2Proof.Machine
end

