-- ==== Sys2Proof/Machine/Queue.lean ====
section
/-! DEFINITION. Message headers and replies, signal objects, and the queues of a context: what their head commands do
and how they end (16 R280, 17 R299, 19 R314 to R317). -/

namespace Sys2Proof.Machine

/-! ## Headers (R314) -/

/-- CMD. -/
def hCmd (h : BitVec 256) : Nat := fieldOf h 240 8
/-- CTX. -/
def hCtx (h : BitVec 256) : Nat := fieldOf h 216 8
/-- QUEUE. -/
def hQueue (h : BitVec 256) : Nat := fieldOf h 212 4
/-- TAG. -/
def hTag (h : BitVec 256) : BitVec 32 := BitVec.ofNat 32 (fieldOf h 160 32)
/-- BLEN. -/
def hLen (h : BitVec 256) : Nat := fieldOf h 128 32

/-- Reply statuses (R315). -/
inductive Stat where
  | ok | badhdr | noaudit | fault | qzero | badctx | busyScrub | badcmd | noctx | inuse | nores
  deriving DecidableEq, Repr

/-- The code of a status. -/
def Stat.code (x : Stat) : Nat :=
  match x with
  | .ok => 0
  | .badhdr => 1
  | .noaudit => 2
  | .fault => 3
  | .qzero => 4
  | .badctx => 5
  | .busyScrub => 6
  | .badcmd => 7
  | .noctx => 8
  | .inuse => 9
  | .nores => 10

/-- The header of a reply. -/
def replyHead (h : BitVec 256) (x : Stat) (n : Nat) : BitVec 256 :=
  BitVec.ofNat 256 (2 ^ 248 + hCmd h * 2 ^ 240 + x.code * 2 ^ 232 + hCtx h * 2 ^ 216 + hQueue h * 2 ^ 212 +
    (hTag h).toNat * 2 ^ 160 + n * 2 ^ 128)

/-- Replies to a command. -/
def State.answer (s : State) (ses : Nat) (h : BitVec 256) (x : Stat) (body : List Byte) : State :=
  s.send (.reply ses (replyHead h x body.length) body)

/-! ## Signal objects (R317) -/

/-- Pages that the host has declined for a waiting party. -/
def State.declinedFor (s : State) (who : FaultFor) : List Nat :=
  (s.faults.filter fun f => f.who = who && f.no).map PFault.page

/-- Forgets the faults of a party. -/
def State.dropFaults (s : State) (who : FaultFor) : State := { s with faults := s.faults.filter fun f => f.who ≠ who }

/-- What a signal access comes to: it waits for the host, it fails with a cause, or it is performed, giving the value
read and what happens before it. -/
inductive SigOut where
  | waits (s : State)
  | fails (c : Cause) (s : State)
  | ok (v : Nat) (ids : List Nat) (s : State)

/-- The checks of a signal access for a context on behalf of a party. -/
def State.sigChk (s : State) (c : Nat) (who : FaultFor) (k : Acc) (va : Word) : Chk :=
  s.checkVa farCore c true false (s.declinedFor who) k va

/-- An acquire read at `.sys` of a signal object. -/
def readSignal (c : Nat) (who : FaultFor) (runtime : Bool) (seen : List Nat) (va : Word) (s : State) : SigOut :=
  match s.sigChk c who .load va with
  | .trap e _ _ => .fails e s
  | .fault p k => .waits (s.offer who c 0x3FF p k runtime)
  | .refused w => .fails .prot (s.logRefusal c 0x3FF 0 5 w 0)
  | .ok k _ =>
    let r := (s.leave k 8).choose seen true k 8
    .ok (leNat r.1) (acquired Party.remote 5 (s.srcsOf r.2.1)) r.2.2

/-- The release atomic at `.sys` of a SIGNAL command or a completion signal: set, or add. Gives its write. -/
def writeSignal (c : Nat) (who : FaultFor) (runtime : Bool) (hb : List Nat) (va : Word) (add : Bool) (v : Word)
    (s : State) : SigOut :=
  match s.sigChk c who .store va with
  | .trap e _ _ => .fails e s
  | .fault p k => .waits (s.offer who c 0x3FF p k runtime)
  | .refused w => .fails .prot (s.logRefusal c 0x3FF 0 5 w 0)
  | .ok k _ =>
    let r := (s.leave k 8).atomicValue hb k 8
    let new := if add then (leNat r.1 + v.toNat) % 2 ^ 64 else v.toNat
    .ok new [r.2.2.nextId] ((r.2.2.remoteAtomic hb k (leBytes 8 new) r.2.1).joinGran k 0#16)

/-- Whether the signal waits of a launch are met, one after another. -/
def testWaits (c : Nat) (who : FaultFor) (runtime : Bool) : List (Word × Word) → List Nat → State → SigOut
  | [], seen, s => .ok 1 seen s
  | (a, v) :: t, seen, s =>
    match readSignal c who runtime seen a s with
    | .ok x ids s' => if v.toNat ≤ x then testWaits c who runtime t (joinIds seen ids) s' else .ok 0 seen s'
    | r => r

/-- The error record of a completion signal that failed (R317). -/
def State.signalRecord (s : State) (c lseq : Nat) (e : Cause) (va : Word) : State :=
  let x := s.ctxAt c
  let m := x.mapOf va.toNat
  s.writeRecord c (BitVec.ofNat 256
    ((if x.isProt then 0 else va.toNat) * 2 ^ 192 + (sat16 x.nfault).toNat * 2 ^ 176 + x.nrefuse.toNat * 2 ^ 160 +
      x.nreplay.toNat * 2 ^ 144 + m.1 * 2 ^ 128 + m.2 % 2 ^ 24 * 2 ^ 104 + lseq % 2 ^ 32 * 2 ^ 40 + c * 2 ^ 17 +
      e.code * 2 + (if x.isProt then 1 else 0)))

/-- Marks that the completion signal of a launch waits, or that it waits no more. -/
def State.setSignalling (s : State) (lseq : Nat) (b : Bool) : State :=
  s.setLaunchAt lseq { s.launchAt lseq with signalling := b }

/-- Adds the completion signal of a launch that has ended; it holds while a fault of it is pending, or while its memory
lies behind a port in reset (R329). -/
def completeSignal (lseq : Nat) (s : State) : State :=
  let l := s.launchAt lseq
  match l.cmpl with
  | none => s
  | some (a, v) =>
    match writeSignal l.ctx (.launchEnd lseq) l.privl l.hb a true v s with
    | .waits s' => s'.setSignalling lseq true
    | .fails e s' => ((s'.signalRecord l.ctx lseq e a).dropFaults (.launchEnd lseq)).setSignalling lseq false
    | .ok _ _ s' => (s'.dropFaults (.launchEnd lseq)).setSignalling lseq false

/-- Every completion signal that waits for no host tries again. -/
def retrySignals (s : State) : State :=
  s.launches.entries.foldl (fun s l =>
    if l.2.signalling && !(s.faults.any fun f => f.who = .launchEnd l.1) then completeSignal l.1 s else s) s

/-! ## Queues (17 R299, R315) -/

/-- The head of a queue has ended; its writes are before what the queue starts next (10 R180). -/
def State.popQueue (s : State) (c q : Nat) (ids : List Nat) : State :=
  let x := s.queueAt c q
  (s.setQueue c q { x with cmds := x.cmds.tail, hb := joinIds x.hb ids }).dropFaults (.queue c q)

/-- The writes of a launch's warps and engines. -/
def State.launchWrites (s : State) (lseq : Nat) : List Nat :=
  (s.hist.writes.entries.filter fun w => w.2.party.dev && (s.blockAt w.2.party.block).lseq = lseq).map Prod.fst

/-- A launch at the head of its queue ends with a status (16 R280): the status is sent, the queue moves on, and the
completion signal is added. -/
def finishLaunch (lseq status : Nat) (s : State) : State :=
  let l := s.launchAt lseq
  let ids := joinIds l.hb (s.launchWrites lseq)
  let s := s.setLaunchAt lseq { l with ended := true, status := status, hb := ids, closed := !l.started }
  let s := s.report (s.ctxAt l.ctx).pav (.status l.ses l.tag lseq status l.halted)
  completeSignal lseq (s.popQueue l.ctx l.queue ids)

/-- The host COPY that a queue's head has started. -/
def State.hostCopyOf (s : State) (c q : Nat) : Option Op :=
  s.ops.find? fun o => o.ctx = c && match o.kind with
    | .hostCopy _ _ j _ _ _ _ => j = q
    | _ => false

/-- Starts a host COPY as an operation of the request engine. -/
def startCopy (c q ses : Nat) (hdr : BitVec 256) (src dst len : Word) (s : State) : State :=
  let f := s.fresh
  let o : Op := { id := f.1, ctx := c, priv := false, core := farCore, block := 0, lseq := 0, wkey := 0, uid := 0,
                  lane := 0, kind := .hostCopy ses hdr q src.toNat dst.toNat len.toNat ReqProg.start,
                  hb := (s.queueAt c q).hb, done := [], since := s.cycle, owns := [], reads := [], tiles := [],
                  waits := [], declined := [], wrote := [], bad := false }
  f.2.startOp o

/-- The head of a queue acts as far as it can. Gives whether the head has ended. -/
def queueStep (c q : Nat) (s : State) : Bool × State :=
  let x := s.queueAt c q
  let who := FaultFor.queue c q
  match x.cmds with
  | [] => (false, s)
  | .launch lseq :: _ =>
    let l := s.launchAt lseq
    if l.ready then (false, s)
    else
      match testWaits c who l.privl l.waits x.hb s with
      | .waits s' => (false, s')
      | .fails _ s' => (true, finishLaunch lseq Stat.fault.code s')
      | .ok v ids s' =>
        if v = 0 then (false, s')
        else (false, (s'.setLaunchAt lseq { s'.launchAt lseq with ready := true, hb := ids }).dropFaults who)
  | .copy ses hdr src dst len :: _ =>
    if (s.hostCopyOf c q).isSome then (false, s)
    else if len = 0 then (true, (s.answer ses hdr .ok []).popQueue c q [])
    else (false, startCopy c q ses hdr src dst len s)
  | .signal ses hdr a add v :: _ =>
    match writeSignal c who false x.hb a add v s with
    | .waits s' => (false, s')
    | .fails _ s' => (true, (s'.answer ses hdr .fault []).popQueue c q [])
    | .ok _ ids s' => (true, (s'.answer ses hdr .ok []).popQueue c q ids)
  | .wait ses hdr a v :: _ =>
    match readSignal c who false x.hb a s with
    | .waits s' => (false, s')
    | .fails _ s' => (true, (s'.answer ses hdr .fault []).popQueue c q [])
    | .ok y ids s' =>
      if v.toNat ≤ y then (true, (s'.answer ses hdr .ok []).popQueue c q ids) else (false, s')
  | .fence ses hdr :: _ => (true, (s.answer ses hdr .ok []).popQueue c q [])

/-- Runs heads until one does not end. -/
def runQueue (c q : Nat) : Nat → State → State
  | 0, s => s
  | n + 1, s =>
    let r := queueStep c q s
    if r.1 then runQueue c q n r.2 else r.2

/-- A queue goes on as far as it can; its context may have been idle until now (17 R296). That of a context that is held for a migration does not (20 R343). -/
def settleQueue (c q : Nat) (s : State) : State :=
  if (s.ctxAt c).live && !(s.ctxAt c).held then
    let p := (s.ctxAt c).pav
    (runQueue c q ((s.queueAt c q).cmds.length + 1) (s.refreshIdle p)).refreshIdle p
  else s

/-- LAUNCH_READY (17 R299): the head of a queue tries its signals; a launch whose waits are met is ready. -/
def execLaunchReady (c q : Nat) (s : State) : Host.Outcome State Fault Refusal := .next (settleQueue c q s)

/-! ## The request engine's work (13 R218, R219, R315) -/

/-- One element of a host COPY: its progress, the writes, and the locations that hold its unpoisoned bytes. -/
structure HostMove where
  prog : ReqProg
  ids : List Nat
  wrote : List Nat
  st : State

/-- Logs the first refused element of a host COPY. -/
def refuseHost (o : Op) (g : ReqProg) (why : Nat) (s : State) : ReqProg × State :=
  ({ g with rfsd := true, logged := true }, if g.logged then s else s.logRefusal o.ctx 0x3FF 0 4 why 0)

/-- Stores the bytes of an element of a host COPY. -/
def landHost (o : Op) (g : ReqProg) (i : Nat) (dst : Chk) (bs : List Byte) (c : Label) (bad : Bool) (s : State) :
    HostMove :=
  match dst with
  | .ok k ceil =>
    if s.accepts k ceil c then
      let w := s.engineStore Party.remote o.hb k bs c bad
      ⟨g, w.1, o.wroteAt bad [k] bs.length, w.2⟩
    else ⟨g.failAt i 4, [], o.wrote, s⟩
  | .refused w =>
    let r := refuseHost o g w s
    ⟨r.1, [], o.wrote, r.2⟩
  | .trap c _ _ => ⟨g.failAt i (causeCode c), [], o.wrote, s⟩
  | .fault _ _ => ⟨g, [], o.wrote, s⟩

/-- Moves element `i` of a host COPY, or waits for a page. -/
def moveHost (o : Op) (ses : Nat) (hdr : BitVec 256) (q src dst len : Nat) (g : ReqProg) (i : Nat) (s : State) :
    State :=
  let e := hostStep src dst len
  let a := s.checkVa o.core o.ctx false false (o.declinedFor i) .load (BitVec.ofNat 64 (src + e * i))
  let b := s.checkVa o.core o.ctx false false (o.declinedFor i) .store (BitVec.ofNat 64 (dst + e * i))
  match faultPages [a, b] with
  | p :: _ => (s.setOp (o.waitsFor i p.1)).offer (.op o.id) o.ctx 0x3FF p.1 p.2 false
  | [] =>
    let g := { g with moved := g.moved ++ [i] }
    let r : HostMove := match a with
      | .ok k _ =>
        if Label.dom (s.ctxAt o.ctx).owners (s.granLbl k) then
          let x := s.engineRead (joinIds o.hb o.done) k e
          landHost o g i b x.1 (s.granLbl k) (o.bad || s.poisoned k) x.2
        else ⟨g.failAt i 3, [], o.wrote, s⟩
      | .refused w =>
        let y := refuseHost o g w s
        landHost o y.1 i b (allOnes e) (s.ctxAt o.ctx).owners false y.2
      | .trap c _ _ => ⟨g.failAt i (causeCode c), [], o.wrote, s⟩
      | .fault _ _ => ⟨g, [], o.wrote, s⟩
    let o := { o with kind := .hostCopy ses hdr q src dst len r.prog, done := o.done ++ r.ids
                      wrote := r.wrote }
    (r.st.clearCovered r.wrote).opMoved o r.ids

/-- REQUEST_ELEMENT (R218): the engine moves one element that has not moved; an element whose line an earlier operation
owns waits (R210). -/
def execRequestElement (id i : Nat) (s : State) : Host.Outcome State Fault Refusal :=
  match s.opAt id with
  | none => .next s
  | some o =>
    match o.kind with
    | .request x addr lreq g =>
      let keys := s.elemKeys o x i
      if g.moved.contains i || reqCount x ≤ i || (if reqStore x then s.claimed id keys else s.owned id keys) then .next s
      else .next (moveRequest o x addr lreq g i s)
    | .hostCopy ses hdr q src dst len g =>
      let e := hostStep src dst len
      let from_ := (s.checkVa o.core o.ctx false false (o.declinedFor i) .load (BitVec.ofNat 64 (src + e * i))).key.toList
      if g.moved.contains i || len ≤ e * i || s.owned id from_ || s.claimed id (s.hostDst o src dst len i) then .next s
      else .next (moveHost o ses hdr q src dst len g i s)
    | _ => .next s

/-- STATUS of a request at its descriptor's address, where its window is there: the write, as another of the request. -/
def State.requestStatus (s : State) (o : Op) (addr : Nat) (lreq : Label) (g : ReqProg) : List Nat × State :=
  match s.checkSp o.block (BitVec.ofNat 32 (addr + 0x78)) 8 true with
  | .ok k _ => s.engineStore (s.opParty o o.lane) (joinIds o.hb o.done) k (leBytes 8 (reqStatus g)) lreq false
  | _ => ([], s)

/-- REQUEST_COMPLETE (R219): every element has moved; STATUS, then the last byte count. A host COPY replies FAULT where
an element failed, and its queue moves on. -/
def execRequestComplete (id : Nat) (s : State) : Host.Outcome State Fault Refusal :=
  match s.opAt id with
  | none => .next s
  | some o =>
    match o.kind with
    | .request x addr lreq g =>
      if g.moved.length < reqCount x then .next s
      else
        let r := s.requestStatus o addr lreq g
        let o := { o with done := o.done ++ r.1 }
        .next ((r.2.countElem o x lreq g.landed).finishOp o)
    | .hostCopy ses hdr q src dst len g =>
      if hostStep src dst len * g.moved.length < len then .next s
      else
        let s' := (s.finishOp o).answer ses hdr (if g.fail.isSome then .fault else .ok) []
        .next (settleQueue o.ctx q (s'.popQueue o.ctx q o.done))
    | _ => .next s

end Sys2Proof.Machine
end

