-- ==== Sys2Proof/Machine/Events.lean ====
section
/-! DEFINITION. Events of warps, slots and arrays that no word encodes: early merges, spawn bins, drained slots, scores,
starvation and uncorrectable errors (05 R101, R108 to R116, 16 R271). -/

namespace Sys2Proof.Machine

/-! ## Splits and slots -/

/-- Two READY splits may merge before their `join` (R101). -/
def mayMerge (w : Warp) (x y : Split) : Bool :=
  x.st == .ready && y.st == .ready && x.pc == y.pc && w.top x.exec == w.top y.exec && x.mode == y.mode &&
    x.pcl == y.pcl && x.priv == y.priv && x.eh == y.eh && x.epc == y.epc && x.ecause == y.ecause &&
    x.einfo == y.einfo && x.emode == y.emode && x.elbl == y.elbl && x.epriv == y.epriv &&
    match w.top x.exec with
    | some (.diverge ..) => true
    | _ => false

/-- The safe point of two merged splits: both stand at one, and what either names is live. -/
def mergedSafe (x y : Split) : Option (BitVec 32) :=
  match x.safe, y.safe with
  | some m, some n => some (m ||| n)
  | _, _ => none

/-- SPLIT_MERGE_EARLY (R101): EXEC becomes the union, and the entry stays. -/
def execSplitMergeEarly (w a b : Nat) (s : State) : Host.Outcome State Fault Refusal :=
  let k := s.warpAt w
  let x := k.split a
  let y := k.split b
  if a = b || k.st != .run || !mayMerge k x y then .next s
  else
    let z := { x with exec := x.exec ||| y.exec, safe := mergedSafe x y, last := max x.last y.last
                      declined := joinIds x.declined y.declined, heldOn := joinIds x.heldOn y.heldOn }
    .next (s.setWarpAt w ((k.setSplit a z).setSplit b Split.blank))

/-- SPAWN_BIN_TIMER (R108): the bin's oldest deposit is SPTMR x 64 cycles old. -/
def execSpawnBinTimer (core bin : Nat) (s : State) : Host.Outcome State Fault Refusal :=
  let x := (s.coreAt core).bins.get Bin.blank bin
  let t := (s.launchAt (s.blockAt x.block).lseq).sptmr
  if x.threads = [] || t = 0 || s.cycle < x.since + 64 * t then .next s
  else .next (settleSpawns core (tryLaunch s core bin))

/-- SPAWN_BIN_LAUNCH (R108): a bin that waits for a slot launches. -/
def execSpawnBinLaunch (core bin : Nat) (s : State) : Host.Outcome State Fault Refusal :=
  if ((s.coreAt core).bins.get Bin.blank bin).due then .next (settleSpawns core (tryLaunch s core bin)) else .next s

/-- A warp's scoreboard holds a pending register or scratchpad-tile write (R111, R113). -/
def State.pending (s : State) (k : Nat) : Bool :=
  let w := s.warpAt k
  w.loads ≠ [] || (s.ops.any fun o => o.uid = w.uid && o.tiles ≠ []) ||
    (s.coreAt (k / 32)).groups.any fun g => g.quarters.any fun q => q.uid = w.uid

/-- SLOT_DRAIN_DONE (R110, R111): the slot of a warp that halted drains, and one that drains is FREE once its scoreboard is
empty. -/
def execSlotDrainDone (w : Nat) (s : State) : Host.Outcome State Fault Refusal :=
  let k := s.warpAt w
  if k.st == .halt then .next (s.setWarpAt w { k with st := .drain })
  else if k.st == .drain && !s.pending w then .next (s.setWarpAt w Warp.blank)
  else .next s

/-- LOCALITY_DECAY (R115): every score of a core halves, at the end of 1,024 cycles. -/
def execLocalityDecay (core : Nat) (s : State) : Host.Outcome State Fault Refusal :=
  if s.cycle % 1024 ≠ 0 then .next s
  else
    .next ((List.range 32).foldl (fun (s : State) j =>
      let w := s.warpAt (32 * core + j)
      s.setWarpAt (32 * core + j) { w with lost := w.lost >>> 1 }) s)

/-- STARVATION_ISSUE (R116): the split of a scheduler that has waited longest, 4,096 cycles or more, takes the next
turn. -/
def execStarvationIssue (w sp : Nat) (s : State) : Host.Outcome State Fault Refusal :=
  if s.firstStarved (scheduler w) = some (w, sp) then .next { s with agenda := .issue w sp :: s.agenda } else .next s

/-! ## Uncorrectable errors (16 R271) -/

/-- The B slot of a core is poisoned, and the quarters that a pass has not executed halt their warps (14 R233). -/
def poisonSlot (core slot : Nat) (s : State) : State :=
  let x := s.bslotAt core slot
  if x.st != .ready then s
  else
    let s := s.setBslotAt core slot { x with st := .poisoned, plain := [] }
    let qs := (((s.coreAt core).groups.filter fun g => g.slot = slot && g.plain.isSome && g.results = none).map
      Group.quarters).flatten
    s.discard core .poison qs qs

/-- ECC_UNCORRECTABLE: the line or entry struck is poisoned. A line of a cache is 128 bytes, two sectors. -/
def execEccUncorrectable (site : EccSite) (s : State) : Host.Outcome State Fault Refusal :=
  match site with
  | .cacheLine pa =>
    .next ((s.enterPoison (pa % 2 ^ 48 / 128 * 128)).enterPoison (pa % 2 ^ 48 / 128 * 128 + 64))
  | .memorySector pa => .next (s.enterPoison (pa % 2 ^ 48))
  | .scratch block gran =>
    if (s.blockAt block).live then .next (s.setPoison (2 ^ 48 * (block + 1) + 64 * gran % 2 ^ 48) true) else .next s
  | .vreg w reg lane =>
    let k := s.warpAt w
    if k.st == .free || 128 ≤ reg || 32 ≤ lane then .next s
    else .next (s.setWarpAt w { k with poisonV := k.poisonV.set false (vkey reg lane) true })
  | .sreg w reg =>
    let k := s.warpAt w
    if k.st == .free || reg = 0 || 64 ≤ reg then .next s
    else .next (s.setWarpAt w { k with poisonS := k.poisonS.set false reg true })
  | .bslot core slot => .next (poisonSlot core slot s)
  | .opEntry id =>
    match s.opAt id with
    | some o => .next (s.setOp { o with bad := true })
    | none => .next s
  | .privGran w gran =>
    let k := s.warpAt w
    if k.st == .free then .next s else .next (s.setWarpAt w { k with privPoison := k.privPoison.set false gran true })

end Sys2Proof.Machine
end

