-- ==== Sys2Proof/Machine/Cluster.lean ====
section
/-! DEFINITION. Clusters: which of them a context may use, where blocks fit, and the ends of pre-emptions (09 R152 to R154,
17 R291 to R300). -/

namespace Sys2Proof.Machine

/-! ## Clusters of a partition (17 R290, R292) -/

/-- EN of PVCFG. -/
def Pav.en (p : Pav) : Bool := bitOf p.cfg 26
/-- BORROW. -/
def Pav.borrow (p : Pav) : Bool := bitOf p.cfg 25
/-- LEND. -/
def Pav.lend (p : Pav) : Bool := bitOf p.cfg 24
/-- PDL in cycles. -/
def Pav.pdl (p : Pav) : Nat := fieldOf p.cfg 40 8 * 1024
/-- RDL in cycles. -/
def Pav.rdl (p : Pav) : Nat := fieldOf p.cfg 48 8 * 1024

/-- A cluster lies in the range of an enabled Pavilion. -/
def State.ownsCluster (s : State) (p k : Nat) : Bool :=
  let c := s.pavAt p
  c.en && k < s.part.clusters && fieldOf c.cfg 0 8 ≤ k && k ≤ fieldOf c.cfg 8 8

/-- The Pavilion whose range holds a cluster. -/
def State.lender (s : State) (k : Nat) : Option Nat := (List.range 16).find? fun p => s.ownsCluster p k

/-- A cluster may take a gang of a context of a partition: its own and not lent, or borrowed and not reclaimed; in
service; and not being pre-empted from that context (17 R292, R293, R301). -/
def State.clusterFor (s : State) (p c k : Nat) : Bool :=
  let x := s.clusterAt k
  !x.quar && (match x.lent with
    | none => s.ownsCluster p k
    | some q => q = p && !x.reclaim) &&
    !(x.pre.any fun y => y.ctx = c && (s.gangsOn k).any fun g => y.gangs.contains g.1)

/-! ## Where blocks fit (09 R152 to R154) -/

/-- Live blocks on a core. -/
def State.blocksOn (s : State) (core : Nat) : List (Nat × Block) :=
  s.blocks.entries.filter fun b => b.2.live && b.2.core = core && !(s.gangAt b.2.gang).saved

/-- Register bytes of a block (R153). -/
def Launch.regBytes (l : Launch) : Nat := 2 ^ l.w1 * (1152 * (l.vr + 1) + 1024)

/-- Bytes of a block's accumulator window (R155). -/
def Launch.accBytes (l : Launch) : Nat := l.partWord / 2 ^ 16 % 256 / l.blocksPerCore * 16384

/-- A resource is a core listed by a job that is RUN or HELD (22 R362). -/
def State.coreScrubbed (s : State) (core : Nat) : Bool :=
  s.busyJobs.any fun j => (jobExtents j.desc).any fun e => extKind e ≠ 3 && extCore e = core

/-- A core may run blocks of a context: in service, assigned to no other, listed by no job, and holding nothing of
another context (16 R288, 17 R291, 20 R356, 22 R362). -/
def State.coreFor (s : State) (core c : Nat) : Bool :=
  let k := s.coreAt core
  !k.quar && !s.coreScrubbed core &&
    (match k.assigned with
      | .unowned => true
      | .ctx n => n = c
      | .gone _ => false
      | .pool _ => true) &&
    ((s.blocksOn core).all fun b => b.2.ctx = c) &&
    (k.lastCtx == some c || k.lastCtx == none ||
      ((List.range 32).all fun j => (s.warpAt (32 * core + j)).st == .free) && k.groups = [] &&
        !(s.ops.any fun o => o.core = core))

/-- The lowest place for `n` bytes in a share of `len` bytes from `lo` that meets no range in use. -/
def gapIn (used : List (Nat × Nat)) (lo len n : Nat) : Option Nat :=
  ((lo :: used.map fun u => u.1 + u.2).filter fun x =>
    lo ≤ x && x + n ≤ lo + len && !(used.any fun u => meets x n u.1 u.2)).min?

/-- Where the windows of up to `k` more blocks lie in a core's pool, scratchpad and accumulator: in the shares of R361, at
the lowest places free (log 59). -/
def Launch.windows (l : Launch) : Nat → List (Nat × Nat) → List (Nat × Nat) → List (Nat × Nat)
  | 0, _, _ => []
  | k + 1, sps, accs =>
    let rf := l.partWord % 256
    let sp := l.partWord / 2 ^ 8 % 256
    let acc := l.partWord / 2 ^ 16 % 256
    match gapIn sps (16384 * rf) (16384 * sp) l.spBytes, gapIn accs (16384 * (rf + sp)) (16384 * acc) l.accBytes with
    | some a, some b => (a, b) :: l.windows k ((a, l.spBytes) :: sps) ((b, l.accBytes) :: accs)
    | _, _ => []

/-- Where the windows of up to `k` more blocks of a launch lie in a core's pool, beside those of the blocks on it. -/
def State.newWindows (s : State) (core : Nat) (l : Launch) (k : Nat) : List (Nat × Nat) :=
  let bs := (s.blocksOn core).map Prod.snd
  l.windows k (bs.map fun b => (b.poolSp, b.spBytes)) (bs.map fun b => (b.poolAcc, b.accBytes))

/-- A block of a launch on a core, at windows of its own. -/
def State.putBlock (s : State) (id core : Nat) (l : Launch) (b : Block) : State :=
  let p := (s.newWindows core l 1).headD (0, 0)
  s.setBlockAt id { b with core := core, poolSp := p.1, poolAcc := p.2 }

/-- How many more blocks of launch `n` a core can take now (R153, R154). -/
def State.room (s : State) (core n : Nat) : Nat :=
  let l := s.launchAt n
  let bs := s.blocksOn core
  let ls := bs.map fun b => s.launchAt b.2.lseq
  let regs := (l.partWord % 256 * 16384 - (ls.map Launch.regBytes).sum) / l.regBytes
  let slots := ((List.range 32).filter fun j => (s.warpAt (32 * core + j)).st == .free).length
  if !s.coreFor core l.ctx || ls.any fun m => m.partWord ≠ l.partWord then 0
  else
    (regs |> min (slots / 2 ^ l.w1) |> min (s.newWindows core l 32).length
      |> min (l.blocksPerCore - (bs.filter fun b => b.2.lseq = n).length))

/-- The cores of a cluster. -/
def coresOf (k : Nat) : List Nat := (List.range 4).map fun i => 4 * k + i

/-- Places blocks of launch `n` on a cluster in rank order, filling each core before the next (17 R300). -/
def State.place (s : State) (k n : Nat) (bs : List Nat) : Option (List (Nat × Nat)) :=
  let places := ((coresOf k).map fun c => List.replicate (s.room c n) c).flatten
  if bs.length ≤ places.length then some (bs.zip places) else none

/-- A core that passes to another context holds nothing of the first (17 R291). -/
def State.takeCore (s : State) (core c : Nat) : State :=
  let k := s.coreAt core
  if k.lastCtx = some c then s
  else s.setCoreAt core { k with lastCtx := some c, tlb := [], l1 := [], bslots := .empty, bins := .empty }

/-! ## The ends of pre-emptions (17 R298, R301, R293) -/

/-- The pre-emptions of a cluster, those over marked with the cycle at which the last of their gangs had left. -/
def State.markLeft (s : State) (k : Nat) : State :=
  let x := s.clusterAt k
  s.setClusterAt k { x with pre := x.pre.map fun y =>
    if y.left.isNone && !((s.gangsOn k).any fun g => y.gangs.contains g.1) then { y with left := some x.leftAt } else y }

/-- Pre-emptions over on every cluster are charged to their contexts as overrun: those of one context against one
deadline count from the last cluster left. A reclaimed cluster that its borrower has left returns to its lender. -/
def State.settleClusters (s : State) : State :=
  let ks := s.clusters.keys
  let s := ks.foldl State.markLeft s
  let all := (ks.map fun k => (s.clusterAt k).pre).flatten
  let done (y : Pre) : Bool := (all.filter fun z => z.ctx = y.ctx && z.deadline = y.deadline).all fun z => z.left.isSome
  let keys := distinct ((all.filter done).map fun y => (y.ctx, y.deadline))
  let s := keys.foldl (fun (s : State) p =>
    let last := ((all.filter fun z => z.ctx = p.1 && z.deadline = p.2).filterMap Pre.left).foldl max 0
    let x := s.ctxAt p.1
    s.setCtxAt p.1 { x with overrun := x.overrun + (last - p.2) }) s
  ks.foldl (fun (s : State) k =>
    let x := s.clusterAt k
    let back : Bool := x.reclaim && s.gangsOn k = []
    s.setClusterAt k { x with pre := x.pre.filter fun y => !done y
                              lent := if back then none else x.lent
                              reclaim := x.reclaim && !back }) s

end Sys2Proof.Machine
end

