-- ==== Sys2Proof/Machine/Moving.lean ====
section
/-! DEFINITION. The source side of a migration up to the sending of the state (20 R342 steps 1 and 2). -/

namespace Sys2Proof.Machine

/-- What MIGRATE moves: the destination Pavilion, the context record, its memory key and key slots, grants, physical pages,
launches, and saved gangs with their blocks. -/
structure MovedState where
  pav : Nat
  ctx : Ctx
  slots : List (Nat × KeySlot)
  grants : List Grant
  pages : List Nat
  launches : List (Nat × Launch)
  gangs : List (Nat × Gang)
  blocks : List (Nat × Block)
  deriving DecidableEq, Repr

/-- The state encrypted under the migration key, with that key sealed to the session key. Log 9. -/
opaque sealState : MovedState → (migKey sessKey : BitVec 256) → List Byte

/-- The state that a session key opens; none where it does not open. Log 9. -/
opaque openState : (sessKey : BitVec 256) → List Byte → Option MovedState

/-- A migration under way that a context leaves by. -/
def State.leaving (s : State) (c : Nat) : Option (Nat × MigOut) :=
  s.tack.migOut.entries.findSome? fun m => m.2.bind fun y => if y.ctx = c then some (m.1, y) else none

/-- Replaces the record of a migration. -/
def State.setLeaving (s : State) (i : Nat) (m : Option MigOut) : State :=
  { s with tack := { s.tack with migOut := s.tack.migOut.set none i m } }

/-- What moves of a context. -/
def State.moved (s : State) (c pav : Nat) : MovedState :=
  let gs := s.gangsOf c
  let ids := (gs.map fun g => g.2.blocks).flatten
  { pav := pav, ctx := s.ctxAt c
    slots := s.tack.slots.entries.filter fun k => k.2.used && !k.2.dead && k.2.ctx = c && k.2.kind ≠ 3
    grants := s.tack.grants.filter fun g => g.ctx = c
    pages := (s.phys.owners.entries.filter fun o => o.2 = .ctx c).map Prod.fst
    launches := s.launches.entries.filter fun l => l.2.ctx = c
    gangs := gs, blocks := s.blocks.entries.filter fun b => ids.contains b.1 }

/-- Every gang of the context is saved and nothing of it is in flight. -/
def State.allSaved (s : State) (c : Nat) : Bool :=
  (s.gangsOf c).all (fun g => g.2.saved) && !(s.ops.any fun o => o.ctx = c)

/-- Step 2: once every gang is saved and the session with the destination is there, a migration slot is filled and the state
sent under its key, which is sealed to the session's. Where no slot is empty it waits for one. -/
def settleMigration (c : Nat) (s : State) : State :=
  match s.leaving c with
  | none => s
  | some (i, y) =>
    if y.st = .sent || !s.allSaved c then s
    else
      match s.emptySlot, y.peer with
      | some k, some peer =>
        let data := s.moved c y.destPav
        let s := s.drawSlot k 3 c (s.ctxAt c).pav
        (s.setLeaving i (some { y with st := .sent, slot := k, since := s.cycle })).send
          (.mig i (.state (sealState data (s.keySlot k).key peer.key)))
      | _, _ => s

end Sys2Proof.Machine
end

