-- ==== Sys2Proof/Machine/Preempt.lean ====
section
/-! DEFINITION. Pre-emption: draining, discarding and saving gangs, restoring them, quanta, and the lending of clusters
(17 R292 to R305). -/

namespace Sys2Proof.Machine

/-! ## Leaving a cluster -/

/-- Slots of warps that belong to some blocks. -/
def State.warpKeys (s : State) (bs : List Nat) : List Nat :=
  (s.warps.entries.filter fun w => w.2.st != .free && bs.contains w.2.block).map Prod.fst

/-- Cores of some blocks. -/
def State.coresOfBlocks (s : State) (bs : List Nat) : List Nat := (bs.map fun b => (s.blockAt b).core).eraseDups

/-- Faults that warps or B slots of some blocks wait for are forgotten. -/
def State.forgetFaults (s : State) (bs : List Nat) : State :=
  { s with faults := s.faults.filter fun f =>
    match f.who with
    | .warp k _ _ => !bs.contains (s.warpAt k).block
    | .slot core n => !bs.contains (s.bslotAt core n).owner
    | _ => true }

/-- Removes what some blocks hold on their cores: warps, bins, B slots and quarters. -/
def State.clearBlocks (s : State) (bs : List Nat) : State :=
  let s := s.forgetFaults bs
  let s := (s.coresOfBlocks bs).foldl (fun (s : State) c =>
    let k := s.coreAt c
    let ids := ((k.groups.map Group.quarters).flatten.filter fun q => bs.contains q.block).map Quarter.id
    let s := s.dropQuarters c ids
    let k := s.coreAt c
    s.setCoreAt c { k with
      bslots := ⟨k.bslots.entries.filter fun e => !bs.contains e.2.owner⟩
      bins := ⟨k.bins.entries.filter fun e => !bs.contains e.2.block⟩ }) s
  settleKzero ((s.warpKeys bs).foldl (fun s k => s.setWarpAt k Warp.blank) s)

/-- A gang leaves its cluster and its blocks end: its engines' work ends with it. -/
def dropGang (g : Nat) (s : State) : State :=
  let x := s.gangAt g
  let s := s.clearBlocks x.blocks
  let s := (s.ops.filter fun o => x.blocks.contains o.block && o.core ≠ farCore).foldl
    (fun (s : State) o => s.finishOp { o with done := [] }) s
  let s := x.blocks.foldl (fun (s : State) b => s.setBlockAt b { s.blockAt b with live := false }) s
  let s := s.setGangAt g { x with live := false, preempt := none, saved := false }
  if x.saved then s else s.leftCluster x.cluster

/-- A launch without what blocks of a discarded gang have left in it, those that had ended included (R302). -/
def Launch.without (l : Launch) (bs : List Block) : Launch :=
  let mine (n : Nat) : Bool := bs.any fun b => b.num = n
  { l with times := l.times.filter fun t => !mine t.1
           runs := l.runs.filter fun r => !mine r.num
           selected := l.selected.filter fun n => !mine n
           pending := l.pending.filter fun n => !mine n
           skipped := l.skipped.filter fun n => !mine n
           halted := l.halted - (bs.map Block.halts).sum }

/-- Discards a gang, which goes again from its first instruction; an audit run goes again where it waits for a core
(R302, 16 R286). -/
def discardGang (g : Nat) (s : State) : State :=
  let x := s.gangAt g
  let bs := x.blocks.map s.blockAt
  let s := dropGang g s
  if bs.any Block.audit then s
  else
    let l := (s.launchAt x.lseq).without bs
    s.setLaunchAt x.lseq { l with liveGangs := l.liveGangs - 1, discarded := l.discarded ++ [x.num] }

/-! ## The choice at pre-emption (R301, R302) -/

/-- A block has a known remaining time of at most `d` cycles. -/
def State.endsWithin (s : State) (b d : Nat) : Bool :=
  let x := s.blockAt b
  let all := (s.launchAt x.lseq).times.map Prod.snd
  let ts := all.drop (all.length - 8)
  let elapsed := s.cycle - x.start
  let n := ts.length
  !x.live || (n ≠ 0 && n * elapsed < ts.sum && ts.sum ≤ n * (elapsed + d))

/-- A split of some blocks waits in `kzero`, where it is not pre-empted (20 R349). -/
def State.inKzero (s : State) (bs : List Nat) : Bool :=
  (s.warpKeys bs).any fun k => (s.warpAt k).liveSplits.any fun e =>
    match e.2.st with
    | .swait (.kzero ..) => true
    | _ => false

/-- A gang qualifies for discard (R302). -/
def State.mayDiscard (s : State) (g : Nat) : Bool :=
  let x := s.gangAt g
  !s.inKzero x.blocks && ((x.blocks.any fun b => (s.blockAt b).audit) ||
    ((s.launchAt x.lseq).rstrt && x.blocks.all fun b => !(s.blockAt b).noDiscard))

/-- The choice for one gang: it is discarded, or its save begins. -/
def discardOrSave (deadline : Nat) (s : State) (g : Nat) : State :=
  if s.mayDiscard g then discardGang g s
  else
    let x := s.gangAt g
    if x.preempt.isSome then s else s.setGangAt g { x with preempt := some (s.cycle, deadline) }

/-- Pre-empts gangs of a context on a cluster against a deadline `d` cycles away. -/
def preemptGangs (k c d : Nat) (gs : List Nat) (s : State) : State :=
  if gs = [] then s
  else
    let drain := gs.all fun g => (s.gangAt g).blocks.all fun b => s.endsWithin b d
    let x := s.clusterAt k
    let s := s.setClusterAt k { x with pre := x.pre ++ [⟨c, gs, s.cycle + d, drain, none⟩] }
    if drain then s else gs.foldl (discardOrSave (s.cycle + d)) s

/-- Pre-empts every gang of a context on a cluster. -/
def preemptCluster (k c d : Nat) (s : State) : State :=
  preemptGangs k c d (((s.gangsOn k).filter fun g => g.2.ctx = c).map Prod.fst) s

/-- Pre-empts all gangs of a cluster but those of a context. -/
def preemptOthers (k d : Nat) (keep : Option Nat) (s : State) : State :=
  let cs := (((s.gangsOn k).map fun g => g.2.ctx).eraseDups).filter fun c => some c ≠ keep
  cs.foldl (fun s c => preemptCluster k c d s) s

/-- The gangs with a live block on a core are pre-empted, but those of one context; an audit run among them is abandoned
(16 R286, R288, 20 R356). -/
def evictCore (core d : Nat) (keep : Option Nat) (s : State) : State :=
  let k := core / 4
  let here := (s.gangsOn k).filter fun g => some g.2.ctx ≠ keep &&
    g.2.blocks.any fun b => (s.blockAt b).live && (s.blockAt b).core = core
  let isAudit (g : Nat × Gang) : Bool := g.2.blocks.any fun b => (s.blockAt b).audit
  let s := (here.filter isAudit).foldl (fun s g => discardGang g.1 s) s
  let gs := here.filter fun g => !isAudit g
  ((gs.map fun g => g.2.ctx).eraseDups).foldl (fun (s : State) c =>
    preemptGangs k c d ((gs.filter fun g => g.2.ctx = c).map Prod.fst) s) s

/-- PREEMPT_DEADLINE (R301): drains still running at their deadline switch to the choice for each gang. -/
def execPreemptDeadline (k : Nat) (s : State) : Host.Outcome State Fault Refusal :=
  let s := s.settleClusters
  let x := s.clusterAt k
  let due := x.pre.filter fun y => y.drain && y.left.isNone && y.deadline ≤ s.cycle
  let s := s.setClusterAt k { x with pre := x.pre.map fun y =>
    if y.deadline ≤ s.cycle then { y with drain := false } else y }
  .next ((due.foldl (fun (s : State) y =>
    ((s.gangsOn k).filter fun g => y.gangs.contains g.1).foldl (fun s g => discardOrSave y.deadline s g.1) s) s).settleClusters)

/-! ## Saving (R303, R304) -/

/-- Every split of the warp in slot `k` has stopped (R303 step 1). -/
def State.stoppedAll (s : State) (k : Nat) : Bool :=
  (s.warpAt k).st != .run || (s.warpAt k).liveSplits.all fun e => (s.stopMask k e.2).isSome

/-- SPLIT_RELEASE (R303): a split that has been stopped for 4,096 cycles while a sibling runs goes on to its next safe
point. -/
def execSplitRelease (w sp : Nat) (s : State) : Host.Outcome State Fault Refusal :=
  let k := s.warpAt w
  let x := k.split sp
  match (s.gangAt (s.blockAt k.block).gang).preempt with
  | none => .next s
  | some (start, _) =>
    let sibling := k.liveSplits.any fun e => e.1 ≠ sp && (s.stopMask w e.2).isNone
    if k.st == .run && x.st == .ready && x.safe.isSome && sibling && max x.last start + 4096 ≤ s.cycle then
      .next (s.setWarpAt w (k.setSplit sp { x with safe := none }))
    else .next s

/-- An operation keeps a block from being saved: a lane copy, a request that has started, or a remote operation not
locally complete (13 R225). -/
def Op.blocksSave (o : Op) : Bool :=
  match o.kind with
  | .copy _ => true
  | .request _ _ _ g => g.moved ≠ []
  | .put .. => true
  | .get .. => true
  | .send _ _ _ _ _ d _ _ _ => d.isSome
  | .comb _ _ _ _ d _ _ _ _ => d.isSome
  | .hostCopy .. => false

/-- The engines of some blocks have finished (R303 step 2). -/
def State.enginesDone (s : State) (bs : List Nat) : Bool :=
  !(s.ops.any fun o => bs.contains o.block && o.blocksSave) &&
    (s.coresOfBlocks bs).all (fun c => !((s.coreAt c).groups.any fun g => g.quarters.any fun q => bs.contains q.block)) &&
    (s.warpKeys bs).all fun k => (s.warpAt k).loads = []

/-- Registers outside the groups that a live-mask word names are not saved. -/
def Warp.keepGroups (w : Warp) (m : BitVec 32) : Warp :=
  let sg (k : Nat) : Bool := bitOf m (16 + k / 8)
  let vg (k : Nat) : Bool := bitOf m (k / 256)
  { w with sregs := ⟨w.sregs.entries.filter fun e => sg e.1⟩, vregs := ⟨w.vregs.entries.filter fun e => vg e.1⟩
           poisonS := ⟨w.poisonS.entries.filter fun e => sg e.1⟩
           poisonV := ⟨w.poisonV.entries.filter fun e => vg e.1⟩ }

/-- The warp in slot `k` as it is saved: a parked one whole, as one whose restore waits for its slots to load; a halted one
as halted (R304). -/
def State.toSave (s : State) (k : Nat) : Warp :=
  let w := s.warpAt k
  match w.st with
  | .run => { w.keepGroups ((w.liveSplits.filterMap fun e => s.stopMask k e.2).foldl (· ||| ·) 0#32) with st := .saved }
  | .park => { w with st := .saved }
  | .init => { w with st := .saved }
  | _ => w

/-- The requests of some blocks that nothing has moved yet. -/
def State.queuedRequests (s : State) (bs : List Nat) : List SavedReq :=
  s.ops.filterMap fun o =>
    match o.kind with
    | .request x addr lreq _ =>
      if bs.contains o.block then some ⟨o.block, o.priv, x, addr, lreq, o.uid, o.lane, o.hb⟩ else none
    | _ => none

/-- Saves a gang: what R304 lists goes to the context's save area, and the gang leaves its cluster. -/
def saveGang (g : Nat) (s : State) : State :=
  let x := s.gangAt g
  let bs := x.blocks
  let ws := ((s.warpKeys bs).map fun k => (k, s.toSave k)).filter fun w => w.2.st == .saved || w.2.st == .halt
  let cores := (s.coresOfBlocks bs).map s.coreAt
  let bins := ((cores.map fun c => c.bins.entries.map Prod.snd).flatten).filter fun b => bs.contains b.block
  let slots := ((cores.map fun c => c.bslots.entries).flatten).filter fun e => bs.contains e.2.owner && e.2.st != .empty
  let y := { x with saved := true, preempt := none, loading := [], stamp := s.cycle, warps := ws, bins := bins
                    reqs := s.queuedRequests bs, slots := slots.map fun e => (e.2.owner, e.1, { e.2 with plain := [] })
                    atomic := x.atomic || bs.any fun b => (s.blockAt b).didAtomic }
  let s := s.clearBlocks bs
  let s := { s with ops := s.ops.filter fun o => !(bs.contains o.block && match o.kind with
    | .request .. => true
    | _ => false) }
  let s := bs.foldl (fun (s : State) b => s.setBlockAt b { s.blockAt b with start := s.cycle - (s.blockAt b).start }) s
  let s := s.setGangAt g y
  (s.leftCluster x.cluster).settleClusters

/-- A gang that is being saved can be saved now. -/
def State.canSave (s : State) (g : Nat) : Bool :=
  let x := s.gangAt g
  x.live && x.preempt.isSome && (s.warpKeys x.blocks).all s.stoppedAll && s.enginesDone x.blocks

/-- GANG_SAVE (R303). A migration goes on once the last gang is saved (20 R342). -/
def execGangSave (g : Nat) (s : State) : Host.Outcome State Fault Refusal :=
  if s.canSave g then .next (settleMigration (s.gangAt g).ctx (saveGang g s)) else .next s

/-- A warp that did not stop halts with HANG and EINFO 0 (R303). -/
def haltUnstopped (s : State) (k : Nat) : State :=
  let w := s.warpAt k
  match w.liveSplits.find? fun e => (s.stopMask k e.2).isNone with
  | some (_, x) => if s.stoppedAll k then s else s.haltWarp k x.pc .hang 0 (if x.eh then x.ecause.toNat else 0)
  | none => s

/-- SAVE_TIMEOUT (R303): 2^26 cycles after the deadline, each warp that still runs halts. -/
def execSaveTimeout (g : Nat) (s : State) : Host.Outcome State Fault Refusal :=
  let x := s.gangAt g
  match x.preempt with
  | none => .next s
  | some (_, d) =>
    if s.cycle < d + 2 ^ 26 then .next s
    else
      let s' := (s.warpKeys x.blocks).foldl haltUnstopped s
      .next (settleMigration x.ctx (if s'.canSave g then saveGang g s' else s'.settleClusters))

/-! ## First claim and restoring (R297, R299, R305) -/

/-- A context of a partition may take cluster `k`: it holds the quantum; or the holder has no gang waiting and none on the
cluster, and it is the first of the others in the order of R296. -/
def State.mayFill (s : State) (p c k : Nat) : Bool :=
  match (s.pavAt p).holder with
  | none => false
  | some h =>
    h = c || (!s.gangWaiting h && !((s.gangsOn k).any fun g => g.2.ctx = h) && s.firstOf ((s.contextsOf p).filter fun d => d ≠ h && s.gangWaiting d) = some c)

/-- Some cluster of a partition can take blocks of a launch for a context. -/
def State.anyPlace (s : State) (p c n : Nat) (bs : List Nat) : Bool :=
  (List.range s.part.clusters).any fun k => s.clusterFor p c k && (s.place k n bs).isSome

/-- A cluster of a partition's range is being emptied of gangs. -/
def State.emptying (s : State) (p : Nat) : Bool :=
  (List.range s.part.clusters).any fun k => s.ownsCluster p k && (s.clusterAt k).pre.any fun y => y.left.isNone

/-- The holder of the quantum has a gang waiting and no free cluster: the fill gangs of one cluster are pre-empted, unless
a cluster is being emptied already (R297). -/
def claimCluster (p c k n : Nat) (bs : List Nat) (s : State) : State :=
  if (s.pavAt p).holder = some c && s.ownsCluster p k && !s.anyPlace p c n bs && !s.emptying p then
    preemptOthers k (s.pavAt p).pdl (some c) s
  else s

/-- A saved gang goes before another of its context: one that executed a global atomic first, then the earliest. -/
def savedBefore (x y : Gang) : Bool := (x.atomic && !y.atomic) || (x.atomic == y.atomic && x.stamp < y.stamp)

/-- The warps, bins and B slots of saved blocks fit their new cores (R305: a gang is restored whole). -/
def State.fits (s : State) (x : Gang) (places : List (Nat × Nat)) : Bool :=
  let coreOf (b : Nat) : Nat := ((places.find? fun p => p.1 = b).map Prod.snd).getD 0
  (places.map Prod.snd).all fun c =>
    (x.warps.filter fun w => coreOf w.2.block = c).length ≤
      ((List.range 32).filter fun j => (s.warpAt (32 * c + j)).st == .free).length &&
    (x.bins.filter fun y => coreOf y.block = c).length +
      ((s.coreAt c).bins.entries.filter fun e => e.2.threads ≠ []).length ≤ 8 &&
    (List.range 4).all fun n =>
      (x.slots.filter fun e => coreOf e.1 = c && e.2.1 = n).length +
        (if (s.bslotAt c n).st = .empty then 0 else 1) ≤ 1

/-- Puts a saved warp into a free slot of a core. `wait` says that B slots of its gang load first (14 R247). -/
def restoreWarp (wait : Bool) (s : State) (core : Nat) (w : Warp) : State :=
  match s.freeSlot core with
  | none => s
  | some k =>
    let ready := { w with st := if w.st == .halt then .halt else if wait then .init else .run
                          splits := ⟨w.splits.entries.map fun e => (e.1, { e.2.refilled with last := s.cycle })⟩ }
    s.setWarpAt k ready

/-- Puts a saved bin into a free bin of a core; its timer starts again from 0. -/
def restoreBin (s : State) (core : Nat) (b : Bin) : State :=
  let k := s.coreAt core
  match (List.range 8).find? fun i => (k.bins.get Bin.blank i).threads = [] with
  | some i => s.setCoreAt core { k with bins := k.bins.set Bin.blank i { b with since := s.cycle } }
  | none => s

/-- Queues a saved request again. -/
def restoreRequest (s : State) (r : SavedReq) : State :=
  let f := s.fresh
  let b := s.blockAt r.block
  let o : Op := { id := f.1, ctx := b.ctx, priv := r.priv, core := b.core, block := r.block,
                  lseq := b.lseq, wkey := 0, uid := r.warp, lane := r.lane,
                  kind := .request r.snapshot r.addr r.lreq ReqProg.start, hb := r.hb, done := [], since := s.cycle,
                  owns := [], reads := [], tiles := [], waits := [], declined := [], wrote := [], bad := false }
  f.2.startOp o

/-- Restores a saved gang onto the cores of a cluster. Its slots are loaded again through the port, and its warps wait in
INIT until they have been (14 R247). -/
def restoreGang (g k : Nat) (places : List (Nat × Nat)) (s : State) : State :=
  let x := s.gangAt g
  let s := places.foldl (fun (s : State) p =>
    let b := s.blockAt p.1
    (s.takeCore p.2 x.ctx).putBlock p.1 p.2 (s.launchAt b.lseq) { b with start := s.cycle - b.start }) s
  let loads := x.slots.map fun e => ((s.blockAt e.1).core, e.2.1)
  let s := s.setGangAt g { x with saved := false, cluster := k, warps := [], bins := [], reqs := [], slots := [],
                                  loading := loads }
  let s := x.warps.foldl (fun (s : State) w => restoreWarp (x.slots ≠ []) s (s.blockAt w.2.block).core w.2) s
  let s := x.bins.foldl (fun (s : State) b => restoreBin s (s.blockAt b.block).core b) s
  let s := x.slots.foldl (fun (s : State) e =>
    s.setBslotAt (s.blockAt e.1).core e.2.1 { e.2.2 with st := .loading, plain := [] }) s
  x.reqs.foldl restoreRequest s

/-- GANG_RESTORE (R305): a saved gang is restored whole, in the order of R299; or, where the holder finds no free
cluster, it claims one. -/
def execGangRestore (g k : Nat) (s : State) : Host.Outcome State Fault Refusal :=
  let s := s.settleClusters
  let x := s.gangAt g
  let p := (s.ctxAt x.ctx).pav
  if !x.live || !x.saved || (s.ctxAt x.ctx).held || !s.clusterFor p x.ctx k || !s.mayFill p x.ctx k ||
      (s.savedGangs x.ctx).any (fun y => savedBefore y.2 x) then .next s
  else
    match s.place k x.lseq x.blocks with
    | some places => if s.fits x places then .next (restoreGang g k places s) else .next s
    | none => .next (claimCluster p x.ctx k x.lseq x.blocks s)

/-! ## Quanta (R296 to R298) -/

/-- The next holder of a partition: by VT, then the background contexts in turn. -/
def State.nextHolder (s : State) (p : Nat) : Option Nat := s.firstOf ((s.contextsOf p).filter s.runnable)

/-- Grants the next quantum, shortened by the context's overrun. -/
def grantQuantum (p : Nat) (s : State) : State :=
  match s.nextHolder p with
  | none => s.setPavAt p { s.pavAt p with holder := none, qlen := none }
  | some c =>
    let x := s.ctxAt c
    let cut := min x.quantum x.overrun
    let s := s.setPavAt p { s.pavAt p with
      holder := some c, qstart := s.cycle, qlen := if x.quantum = 0 then none else some (x.quantum - cut) }
    (s.setCtxAt c { x with overrun := x.overrun - cut, lastGrant := s.cycle + 1 }).send (.grant c (x.overrun ≠ 0))

/-- The quantum of a partition is over: it has run its length, or its holder is not runnable and has no gang live. -/
def State.quantumDue (s : State) (p : Nat) : Bool :=
  let x := s.pavAt p
  match x.holder with
  | none => true
  | some h =>
    (match x.qlen with
      | some n => x.qstart + n ≤ s.cycle
      | none => false) || (!s.runnable h && s.gangsOf h = [])

/-- Charges the holder's VT with the cycles granted, over its weight, with 16 fraction bits. -/
def chargeQuantum (p : Nat) (s : State) : State :=
  let x := s.pavAt p
  match x.holder with
  | none => s
  | some h =>
    let c := s.ctxAt h
    let used := match x.qlen with
      | some n => min n (s.cycle - x.qstart)
      | none => s.cycle - x.qstart
    if c.weight = 0 then s else s.setCtxAt h { c with vt := c.vt + used * 2 ^ 16 / c.weight }

/-- QUANTUM_EXPIRY (R296 to R298): the holder is charged, the next quantum granted, and where it goes to another
context the clusters of the holder that goes are pre-empted. -/
def execQuantumExpiry (p : Nat) (s : State) : Host.Outcome State Fault Refusal :=
  let s := (s.settleClusters).refreshIdle p
  if !s.quantumDue p then .next s
  else
    let old := (s.pavAt p).holder
    let s := grantQuantum p (chargeQuantum p s)
    match old, (s.pavAt p).holder with
    | some h, some c =>
      if c = h then .next s
      else
        let ks := (((s.gangsOf h).filter fun g => !g.2.saved).map fun g => g.2.cluster).eraseDups
        .next (ks.foldl (fun s k => preemptCluster k h (s.pavAt p).pdl s) s)
    | _, _ => .next s

/-! ## Lending (R292, R293) -/

/-- Pavilions in turn from `p` + 1 upward, wrapping round. -/
def turnsFrom (p : Nat) : List Nat := (List.range 15).map fun i => (p + 1 + i) % 16

/-- CLUSTER_LEND (R292): an idle cluster goes to the first Pavilion in turn that borrows and has a gang waiting. -/
def execClusterLend (k p : Nat) (s : State) : Host.Outcome State Fault Refusal :=
  let s := s.settleClusters
  let x := s.clusterAt k
  match s.lender k with
  | none => .next s
  | some own =>
    let c := s.pavAt own
    let idle := fieldOf c.cfg 32 8
    let taker := (turnsFrom own).find? fun q => (s.pavAt q).en && (s.pavAt q).borrow && s.partWaiting q
    if c.lend && idle ≠ 0 && x.lent = none && !x.quar && s.gangsOn k = [] && x.idleSince + idle * 2 ^ 16 ≤ s.cycle &&
        !s.partWaiting own && taker = some p then
      .next (s.setClusterAt k { x with lent := some p, reclaim := false })
    else .next s

/-- CLUSTER_RECLAIM (R293): the lender has a gang waiting and none of its own clusters is free; the borrower's gangs are
pre-empted against RDL, and the cluster returns once they have left it. -/
def execClusterReclaim (k : Nat) (s : State) : Host.Outcome State Fault Refusal :=
  let s := s.settleClusters
  let x := s.clusterAt k
  match s.lender k with
  | none => .next s
  | some own =>
    let free := (List.range s.part.clusters).any fun j =>
      s.ownsCluster own j && (s.clusterAt j).lent = none && !(s.clusterAt j).quar && s.gangsOn j = []
    if x.lent.isSome && !x.reclaim && s.partWaiting own && !free then
      .next ((preemptOthers k (s.pavAt own).rdl none (s.setClusterAt k { x with reclaim := true })).settleClusters)
    else .next s

end Sys2Proof.Machine
end

