-- ==== Sys2Proof/Machine/Assign.lean ====
section
/-! DEFINITION. The assignment of cores and physical ranges to contexts (20 R356, 22 R362). -/

namespace Sys2Proof.Machine

/-- Gives a resource an owner; a core's SRAM range goes with its core. -/
def State.giveResource (s : State) (e : BitVec 128) (o : Owner) : State :=
  match extKind e with
  | 1 => s.setCoreAt (extCore e) { s.coreAt (extCore e) with assigned := o }
  | 3 => { s with phys := { s.phys with
      owners := (extPages e).foldl (fun (m : Sparse Owner) g => m.set .unowned g o) s.phys.owners } }
  | _ => s

/-- Counts an assignment of an extent toward the DONE jobs that list it; a job all of whose extents have been assigned
is FREE (R355). -/
def State.countAssigned (s : State) (e : BitVec 128) : State :=
  (List.range 16).foldl (fun s j =>
    let x := s.job j
    let es := jobExtents x.desc
    if x.st ≠ .done || !es.contains e then s
    else
      let hit := (List.range es.length).filter fun i => es.getD i 0 = e || x.assigned.contains i
      s.setJob j (if hit.length = es.length then Job.blank else { x with assigned := hit })) s

/-- The status of a `cassign`, and the state after it, in the order of R362. -/
def assignResource (e : BitVec 128) (b : Word) (s : State) : Nat × State :=
  let release := bitOf b 8
  let n := fieldOf b 0 8
  let but := if release then none else some n
  if !release && !((s.ctxAt n).live && (s.ctxAt n).pav = s.ctx.pav) then (5, s)
  else if s.scrubbing e then (6, s)
  else if s.resourceInUse e but then (9, s)
  else (0, (s.giveResource e (if release then .pool s.ctx.pav else .ctx n)).countAssigned e)

/-- `cassign` (R356). A core that is assigned runs blocks of its context only: the gangs of others on it are pre-empted, as
at the end of a quantum (log 59). -/
def execCassign (p : Bool) (d a b : SNum) (s : State) : Host.Outcome State Fault Refusal :=
  word (.cassign p d a b) s fun s => do
    let r ← s.readVirtual 16 (s.sreg a) 16
    let t := r.2.cacheAll [s.sreg a]
    let e := BitVec.ofNat 128 (leNat r.1)
    let done (x : Nat × State) : State := (x.2.setS d (BitVec.ofNat 64 x.1) s.pcl).advance p
    if fieldOf (s.sreg b) 9 55 ≠ 0 || extBad e then .ok (done (7, t))
    else if !s.extReach s.ctx.pav e then .error (.trap .prot (s.sreg a) true)
    else
      let x := assignResource e (s.sreg b) t
      let kept : Option Nat := if bitOf (s.sreg b) 8 then none else some (fieldOf (s.sreg b) 0 8)
      .ok (if x.1 = 0 && extKind e = 1 && kept.isSome then evictCore (extCore e) (s.pavAt s.ctx.pav).pdl kept (done x)
           else done x)

end Sys2Proof.Machine
end

