-- ==== Sys2Proof/Machine/Launching.lean ====
section
/-! DEFINITION. Launches: their start, the dispatch of gangs, their end, and the audits of the Belvedere (05 R93 to R95,
16 R280 to R288, 17 R299, R300, 20 R340). -/

namespace Sys2Proof.Machine

/-! ## Leaves of a context's tables -/

/-- Where the leaf entry of a virtual address lies. -/
def leafPlace (m : Memory) (va : Nat) : List (Nat × Nat × Option Nat) → Nat → Option Nat
  | [], _ => none
  | (sh, b, _) :: rest, table =>
    let at_ := table + 16 * (va / 2 ^ sh % 2 ^ b)
    let e : BitVec 128 := BitVec.ofNat 128 (leNat ((List.range 16).map fun i => m.read (at_ + i)))
    if !bitOf e 0 then none
    else if bitOf e 1 then some at_
    else leafPlace m va rest (fieldOf e 16 32 * 2 ^ 16)

/-- The leaf entry's place for a context. -/
def State.leafAt (s : State) (c va : Nat) : Option Nat := leafPlace s.mem va walkLevels (s.ctxAt c).root

/-- The entry at a place of physical memory. -/
def State.entryAt (s : State) (k : Nat) : BitVec 128 := BitVec.ofNat 128 (leNat (s.bytesAt k 16))

/-- Forgets the cached translations of a range of a context's addresses. -/
def State.dropTranslations (s : State) (c lo n : Nat) : State :=
  (s.dropCores (fun _ => true) c lo n).dropDies (fun _ => true) c lo n

/-! ## Measuring and starting (16 R282, 17 R299, 20 R340) -/

/-- The code measurement of a launch. -/
def State.measure (s : State) (l : Launch) : BitVec 384 :=
  let h := fieldOf l.hdr 0 64 + fieldOf l.hdr 128 384 * 2 ^ 128
  let pages := ((s.leaves l.ctx).filter fun x => bitOf x.2 6).map fun x =>
    ((List.range (pageBytes (leafSize x.2) / 2 ^ 16)).map fun i =>
      let va := x.1 + i * 2 ^ 16
      leBytes 8 va ++ s.bytesAt (leafPa x.2 va) 65536).flatten
  sha3_384 (leBytes 128 h ++ pages.flatten)

/-- Places of the leaves that some regions of a context cover. -/
def State.leavesOf (s : State) (c : Nat) (rs : List (Word × Word)) : List (Nat × Nat) :=
  distinct ((rs.map fun r =>
    let lo := r.1.toNat / 2 ^ 16
    let n := (r.1.toNat + r.2.toNat + 2 ^ 16 - 1) / 2 ^ 16 - lo
    if r.2 = 0 then []
    else (List.range n).filterMap fun i => (s.leafAt c ((lo + i) * 2 ^ 16)).map fun k => (k, (lo + i) * 2 ^ 16)).flatten)

/-- Sets or clears FRZ in a leaf. -/
def State.setFrz (s : State) (k : Nat) (b : Bool) : State :=
  let e := (s.entryAt k).toNat
  let frz := bitOf (s.entryAt k) 10
  if frz == b then s else s.setBytes k (leBytes 16 (if b then e + 2 ^ 10 else e - 2 ^ 10))

/-- Leaves that another open launch has frozen. -/
def State.frozenElsewhere (s : State) (lseq k : Nat) : Bool :=
  s.launches.entries.any fun e => e.1 ≠ lseq && e.2.started && !e.2.closed && e.2.frozen.contains k

/-- Freezes the input regions of a pure launch: every leaf that they cover, whatever its FRZ was (R282). -/
def freezeInputs (lseq : Nat) (s : State) : State :=
  let l := s.launchAt lseq
  let ps := s.leavesOf l.ctx l.inputs
  let s := ps.foldl (fun (s : State) p => (s.setFrz p.1 true).dropTranslations l.ctx p.2 1) s
  s.setLaunchAt lseq { s.launchAt lseq with frozen := ps.map Prod.fst }

/-- LAUNCH_START (R340): the measurement is taken, input pages are frozen, and from here the launch's stores to code
are its own (09 R159). -/
def execLaunchStart (lseq : Nat) (s : State) : Host.Outcome State Fault Refusal :=
  let l := s.launchAt lseq
  if !l.known || !l.ready || l.started || l.ended then .next s
  else
    let s := s.setLaunchAt lseq { l with started := true, meas := s.measure l, firstId := s.nextId
                                         hb := joinIds l.hb (s.queueAt l.ctx l.queue).hb }
    .next (if l.pure then freezeInputs lseq s else s)

/-! ## Dispatch (R300) -/

/-- The block is selected for audit (16 R281). -/
def State.chosen (s : State) (lseq : Nat) (l : Launch) (b : Nat) : Bool :=
  let h := leNat (shake256 (Config.audSeed s.tack.boots ++ leBytes 8 lseq ++ leBytes 8 b) 8)
  l.pure && l.audit ≠ 0 && h % 2 ^ l.audit = 0

/-- Launches the warps of a block into free slots of its core, with the launch values of 02 R9 and 05 R94. -/
def launchWarps (id : Nat) (s : State) : State :=
  let b := s.blockAt id
  let l := s.launchAt b.lseq
  (List.range (2 ^ l.w1)).foldl (fun (s : State) j =>
    let m := l.lanes b.num j
    if m = 0 then s
    else
      match s.freeSlot b.core with
      | none => s
      | some k =>
        let f := s.fresh
        let x : Split := { Split.blank with
          st := .ready, pc := BitVec.ofNat 57 l.entry, exec := m, priv := l.privl, last := s.cycle }
        let w : Warp := { Warp.blank with
          st := .run, uid := f.1, ctx := b.ctx, lseq := b.lseq, block := id, vr := l.vr, lanes0 := m
          wid := widOf l j b.rank (s.gangAt b.gang).num, hbBase := l.hb }
        f.2.setWarpAt k (w.setSplit 0 x)) s

/-- A new block on a core. -/
def newBlock (lseq gang rank num core vcore : Nat) (audit : Bool) (s : State) : Nat × State :=
  let l := s.launchAt lseq
  let f := s.fresh
  let s := f.2.takeCore core l.ctx
  (f.1, s.putBlock f.1 core l { Block.blank with
    live := true, lseq := lseq, ctx := l.ctx, gang := gang, rank := rank, num := num, vcore := vcore
    spBytes := l.spBytes, accBytes := l.accBytes, ranks := 2 ^ l.w2, start := s.cycle, audit := audit })

/-- Dispatches gang `g` of a launch onto a cluster. -/
def dispatchGang (lseq g k : Nat) (places : List (Nat × Nat)) (s : State) : State :=
  let l := s.launchAt lseq
  let f := s.fresh
  let gid := f.1
  let r := ((l.gangBlocks g).zip (places.map Prod.snd)).foldl (fun (r : List Nat × State) e =>
    let x := newBlock lseq gid e.1.1 e.1.2 e.2 e.2 false r.2
    (r.1 ++ [x.1], x.2)) ([], f.2)
  let s := r.2.setGangAt gid { Gang.blank with
    live := true, lseq := lseq, ctx := l.ctx, num := g, cluster := k, blocks := r.1 }
  let picked := ((l.gangBlocks g).map Prod.snd).filter fun b => s.chosen lseq l b && !l.selected.contains b
  let s := s.setLaunchAt lseq { l with
    nextGang := if l.discarded.contains g then l.nextGang else l.nextGang + 1
    discarded := l.discarded.erase g, liveGangs := l.liveGangs + 1
    selected := l.selected ++ picked, pending := l.pending ++ picked }
  let s := s.setCtxAt l.ctx { s.ctxAt l.ctx with lastQueue := l.queue }
  r.1.foldl (fun s b => launchWarps b s) s

/-- Order R299: no saved gang of the context waits, no queue of higher priority has a launch to dispatch, and of those of
equal priority it is this queue's turn. -/
def State.dispatchTurn (s : State) (lseq : Nat) : Bool :=
  let l := s.launchAt lseq
  let c := l.ctx
  let prio := (s.queueAt c l.queue).prio
  let qs := ((s.readyLaunches c).filter fun e => (s.launchAt e.2).hasGang).map Prod.fst
  let equal := qs.filter fun q => (s.queueAt c q).prio = prio
  s.savedGangs c = [] && !(qs.any fun q => prio < (s.queueAt c q).prio) &&
    ((List.range 16).map fun i => ((s.ctxAt c).lastQueue + 1 + i) % 16).find? equal.contains == some l.queue

/-- GANG_DISPATCH (R299, R300): the next gang of a launch is placed whole on a cluster; or, where the holder of the
quantum finds no free cluster, it claims one (R297). -/
def execGangDispatch (lseq g k : Nat) (s : State) : Host.Outcome State Fault Refusal :=
  let s := s.settleClusters
  let l := s.launchAt lseq
  let p := (s.ctxAt l.ctx).pav
  let next : Bool := if l.discarded = [] then g = l.nextGang && g < l.gangs else l.discarded.contains g
  if !l.toDispatch || !next || (s.ctxAt l.ctx).held || !s.clusterFor p l.ctx k || !s.mayFill p l.ctx k ||
      (s.ctxAt l.ctx).saveg ≤ (s.gangsOf l.ctx).length || !s.dispatchTurn lseq then .next s
  else
    let bs := (l.gangBlocks g).map Prod.snd
    match s.place k lseq bs with
    | some places => .next (dispatchGang lseq g k places s)
    | none => .next (claimCluster p l.ctx k lseq bs s)

/-! ## The end of a launch (16 R280, R282, R287) -/

/-- The audit report (19 R316). -/
def auditReport (l : Launch) : List Byte :=
  leBytes 4 l.selected.length ++ leBytes 4 l.passed ++ leBytes 4 l.failed.length ++ leBytes 4 l.skipped.length ++
    leBytes 1 (min 64 l.failed.length) ++ leBytes 7 0 ++ ((l.failed.take 64).map (leBytes 8)).flatten

/-- A launch that has ended and has no audit run left is closed: FRZ is cleared and the report sent. -/
def closeLaunch (lseq : Nat) (s : State) : State :=
  let l := s.launchAt lseq
  if !l.ended || l.closed || l.pending ≠ [] then s
  else
    let s := (l.frozen.filter fun k => !s.frozenElsewhere lseq k).foldl (fun s k => s.setFrz k false) s
    let s := if l.frozen = [] then s else s.dropTranslations l.ctx 0 0
    let s := s.setLaunchAt lseq { l with closed := true }
    if l.pure && l.audit ≠ 0 then
      s.report (s.ctxAt l.ctx).pav (.note (some l.ctx) (s.ctxAt l.ctx).pav .tenant 0x83 0 (auditReport l))
    else s

/-- LAUNCH_COMPLETE (R280): every block has ended and no operation of the launch is in flight. -/
def execLaunchComplete (lseq : Nat) (s : State) : Host.Outcome State Fault Refusal :=
  let l := s.launchAt lseq
  if !l.known || !l.started || l.ended || l.nextGang < l.gangs || l.discarded ≠ [] || l.liveGangs ≠ 0 ||
      (s.ops.any fun o => o.lseq = lseq && o.core ≠ farCore) then .next s
  else
    let status := if l.halted = 0 then Stat.ok.code else Stat.fault.code
    let s := closeLaunch lseq (finishLaunch lseq status s)
    .next (settleMigration l.ctx (settleQueue l.ctx l.queue s))

/-! ## Audit runs (R286) -/

/-- Cores of a partition in service. -/
def State.coresIn (s : State) (p : Nat) : List Nat :=
  (List.range s.part.cores).filter fun c =>
    s.ownsCluster p (c / 4) && !(s.coreAt c).quar && !(s.clusterAt (c / 4)).quar

/-- Cores on which the next run of a block may be placed: none of those that ran it, on another die where the partition
has one. -/
def State.auditCores (s : State) (p : Nat) (rs : List AuditRun) : List Nat :=
  let cs := (s.coresIn p).filter fun c => !(rs.any fun r => r.core = c)
  let far := cs.filter fun c => !(rs.any fun r => dieOf r.core = dieOf c)
  if far = [] then cs else far

/-- The block's runs are over; its audit ends. -/
def endAudit (lseq b : Nat) (f : Launch → Launch) (s : State) : State :=
  let l := f (s.launchAt lseq)
  closeLaunch lseq (s.setLaunchAt lseq { l with
    pending := l.pending.filter (fun x => x ≠ b), runs := l.runs.filter fun r => r.num ≠ b })

/-- Places an audit run of a block on a core. -/
def startAudit (lseq b core : Nat) (first : AuditRun) (s : State) : State :=
  let l := s.launchAt lseq
  let f := s.fresh
  let x := newBlock lseq f.1 (b % 2 ^ l.w2) b core first.vcore true f.2
  let s := x.2.setGangAt f.1 { Gang.blank with
    live := true, lseq := lseq, ctx := l.ctx, num := b / 2 ^ l.w2, cluster := core / 4, blocks := [x.1] }
  launchWarps x.1 s

/-- AUDIT_RUN (R286): a pending block runs again on another core. Where no such core is in service, the block is skipped,
or after two runs that differ reported failed. -/
def execAuditRun (lseq b core : Nat) (s : State) : Host.Outcome State Fault Refusal :=
  let l := s.launchAt lseq
  let p := (s.ctxAt l.ctx).pav
  let rs := l.runsOf b
  if !l.ended || l.closed || !l.pending.contains b || !needsRun rs || s.auditing lseq b then .next s
  else if s.auditCores p rs = [] then
    .next (endAudit lseq b (fun l => if rs.length = 1 then { l with skipped := l.skipped ++ [b] }
      else { l with failed := l.failed ++ [b] }) s)
  else
    match rs with
    | [] => .next s
    | x :: _ =>
      if (s.auditCores p rs).contains core && (s.ctxAt l.ctx).held == false && s.clusterFor p l.ctx (core / 4) &&
          s.mayFill p l.ctx (core / 4) && 1 ≤ s.room core lseq && s.savedGangs l.ctx = [] &&
          (s.gangsOf l.ctx).length < (s.ctxAt l.ctx).saveg &&
          !((s.readyLaunches l.ctx).any fun e => (s.launchAt e.2).hasGang) then
        .next (startAudit lseq b core x s)
      else .next s

/-! ## The vote (R287, R288) -/

/-- A core is quarantined: an audit run on it is abandoned (R286), and its gangs are pre-empted as at a reclaim. -/
def quarantineCore (core : Nat) (s : State) : State :=
  let s := s.setCoreAt core { s.coreAt core with quar := true }
  let d := match s.lender (core / 4) with
    | some p => (s.pavAt p).rdl
    | none => 0
  evictCore core d none s

/-- A core gains points, saturating at 255, and is quarantined at the threshold. -/
def addPoints (n : Nat) (s : State) (core : Nat) : State :=
  let k := s.coreAt core
  let v := min 255 (k.susp.toNat + n)
  let s := s.setCoreAt core { k with susp := BitVec.ofNat 8 v }
  if s.phys.threshold ≤ v && !k.quar then quarantineCore core s else s

/-- A core agreed with another: at 2^20 agreements its score drops by 1. -/
def addAgreement (s : State) (core : Nat) : State :=
  let k := s.coreAt core
  s.setCoreAt core (if k.agree + 1 = 2 ^ 20 then
    { k with agree := 0, susp := if k.susp = 0 then 0 else k.susp - 1 } else { k with agree := k.agree + 1 })

/-- AUDIT_COMPARE (R287): two digests that agree pass the block; after a third run the minority gains points. -/
def execAuditCompare (lseq b : Nat) (s : State) : Host.Outcome State Fault Refusal :=
  let l := s.launchAt lseq
  let pass (l : Launch) : Launch := { l with passed := l.passed + 1 }
  let fail (l : Launch) : Launch := { l with failed := l.failed ++ [b] }
  if !l.pending.contains b then .next s
  else
    match l.runsOf b with
    | [x, y] =>
      if x.agrees y then .next (endAudit lseq b pass ([x.core, y.core].foldl addAgreement s))
      else if s.auditCores (s.ctxAt l.ctx).pav [x, y] = [] then .next (endAudit lseq b fail s)
      else .next s
    | [x, y, z] =>
      if z.agrees y then .next (endAudit lseq b fail (addPoints 16 ([y.core, z.core].foldl addAgreement s) x.core))
      else if z.agrees x then
        .next (endAudit lseq b pass (addPoints 16 ([x.core, z.core].foldl addAgreement s) y.core))
      else .next (endAudit lseq b fail ([x.core, y.core, z.core].foldl (addPoints 8) s))
    | _ => .next s

end Sys2Proof.Machine
end

