-- ==== Sys2Proof/Machine/Faults.lean ====
section
/-! DEFINITION. Replies to faults, the fault timeout, the hang detector and the refusal log (16 R268, R270, R276 to
R278). -/

namespace Sys2Proof.Machine

/-! ## Faults answered (R268) -/

/-- Replaces a pending fault. -/
def State.setFault (s : State) (f : PFault) : State :=
  { s with faults := s.faults.map fun x => if x.tag = f.tag then f else x }

/-- Removes a pending fault. -/
def State.dropFault (s : State) (f : PFault) : State := { s with faults := s.faults.filter fun x => x.tag ≠ f.tag }

/-- A replay of a context is counted (R268). -/
def State.countReplay (s : State) (c : Nat) : State :=
  let x := s.ctxAt c
  s.setCtxAt c { x with nreplay := sat16 x.nreplay }

/-- A parked warp goes on: its instruction issues again, with the pages that the host declined for it. -/
def State.unpark (s : State) (k sp : Nat) (declined : List Nat) : State :=
  let w := s.warpAt k
  let x := (w.split sp).refilled
  s.setWarpAt k { w.setSplit sp { x with declined := joinIds x.declined declined } with st := .run }

/-- The answers for a parked warp: all resolved, or one declined. -/
def settleWarpFault (k uid sp : Nat) (s : State) : State :=
  let who := FaultFor.warp k uid sp
  let fs := s.faults.filter fun f => f.who = who
  let w := s.warpAt k
  if w.uid ≠ uid || w.st != .park then s.dropFaults who
  else if fs.any PFault.no then (s.dropFaults who).unpark k sp (fs.map PFault.page)
  else if fs.all PFault.ok then ((s.dropFaults who).unpark k sp []).countReplay w.ctx
  else s

/-- The host's answer to a fault, or its silence, reaches the party that waits. -/
def answerFault (f : PFault) (ok : Bool) (s : State) : State :=
  match f.who with
  | .warp k uid sp => settleWarpFault k uid sp (s.setFault { f with ok := ok, no := !ok })
  | .op id =>
    let s := if ok then (s.dropFault f).countReplay f.ctx else s.dropFault f
    match s.opAt id with
    | some o => s.setOp (o.answered f.page ok)
    | none => s
  | .slot _ _ => if ok then (s.dropFault f).countReplay f.ctx else s.setFault { f with no := true }
  | .queue c q =>
    settleQueue c q (if ok then (s.dropFault f).countReplay f.ctx else s.setFault { f with no := true })
  | .launchEnd l =>
    completeSignal l (if ok then (s.dropFault f).countReplay f.ctx else s.setFault { f with no := true })
  | .held id =>
    let s := s.dropFault f
    let s := if ok then s.countReplay f.ctx else s
    match s.held.find? fun h => h.id = id with
    | none => s
    | some h =>
      let h := if ok then h else { h with declined := joinIds h.declined [f.page] }
      let s := { s with held := s.held.map fun x => if x.id = id then h else x }
      if s.faults.any fun x => x.who = .held id then s else retryHeld h s

/-- FAULT_TIMEOUT (R268): a fault unanswered for longer than the context's fault timeout counts as declined. -/
def execFaultTimeout (tag : Nat) (s : State) : Host.Outcome State Fault Refusal :=
  match s.faults.find? fun f => f.tag = tag && !f.ok && !f.no with
  | none => .next s
  | some f =>
    let t := (s.ctxAt f.ctx).faultTmo
    if t = 0 || s.cycle ≤ f.since + t * 2 ^ 16 then .next s else .next (answerFault f false s)

/-! ## The hang detector (R276 to R278) -/

/-- The warps of a context that are live on a core: none parked or saved. -/
def State.warpsIn (s : State) (c : Nat) : List (Nat × Warp) :=
  s.warps.entries.filter fun w => w.2.ctx = c && w.2.st == .run

/-- A wait is external: an `mwait` on a page with XSIG, or a `bowait` on an object with EXT. -/
def State.external (s : State) (k : Nat) (x : Split) : Bool :=
  match x.st with
  | .swait (.mwait _ va _ _ _) =>
    match s.translate (k / 32) (s.warpAt k).ctx va.toNat with
    | .leaf e => bitOf e 9
    | _ => false
  | .swait (.bowait _ b off _ _) => bitOf (s.objAt b off) 113
  | _ => false

/-- The split is in JWAIT or SWAIT. -/
def Split.waiting (x : Split) : Bool :=
  match x.st with
  | .jwait => true
  | .swait _ => true
  | _ => false

/-- The cycle from which the wait of a split counts; none where it does not. -/
def State.countsFrom (s : State) (k : Nat) (x : Split) : Option Nat :=
  let t := (s.ctxAt (s.warpAt k).ctx).extTmo * 2 ^ 16
  if !x.waiting then none
  else if s.external k x then (if t = 0 || s.cycle < x.last + t then none else some (x.last + t))
  else some x.last

/-- The context has an engine operation in flight. -/
def State.engineBusy (s : State) (c : Nat) : Bool :=
  (s.ops.any fun o => o.ctx = c) ||
    s.cores.entries.any fun e =>
      (e.2.groups.any fun g => (s.blockAt g.block).ctx = c) ||
        e.2.bslots.entries.any fun b => b.2.st == .loading && (s.blockAt b.2.owner).ctx = c

/-- The hang counter of a context; none where no cycle is counted now. -/
def State.hangCounter (s : State) (c : Nat) : Option Nat :=
  let ws := s.warpsIn c
  let splits := (ws.map fun w => w.2.liveSplits.map fun e => (w.1, e.2)).flatten
  if ws = [] || s.engineBusy c then none
  else
    (splits.foldl (fun (m : Option Nat) e =>
      match m, s.countsFrom e.1 e.2 with
      | some a, some b => some (max a b)
      | _, _ => none) (some (s.ctxAt c).hang)).map fun from_ => s.cycle - from_

/-- The wait kind of R278. -/
def Split.waitKind (x : Split) : Nat :=
  match x.st with
  | .jwait => 3
  | .swait w =>
    match w with
    | .bar .. => 1
    | .barg .. => 2
    | .bowait .. => 4
    | .cwait .. => 5
    | .mwait .. => 6
    | .spawn .. => 7
    | .cbatch .. => 8
    | .ltcompact => 9
    | .mstat .. => 0
    | .mchk .. => 0
    | .dcls .. => 10
    | .kzero .. => 11
    | .refill => 0
  | _ => 0

/-- A mask of the slots of warps. -/
def slotMask (ws : List (Nat × Warp)) : Nat :=
  (ws.foldl (fun (m : BitVec 32) w => m ||| (1#32 <<< (w.1 % 32))) 0#32).toNat

/-- Object, phase or page index, and mask of a split's entry in the wait-for graph (R278, 19 R316). -/
def State.waitObject (s : State) (k : Nat) (x : Split) : Nat × Nat × Nat :=
  let w := s.warpAt k
  match x.st with
  | .jwait =>
    match w.top x.exec with
    | some e => (0, 0, (e.mask &&& ~~~((w.joiners e).foldl (fun (m : BitVec 32) j => m ||| j.2.exec) 0#32)).toNat)
    | none => (0, 0, 0)
  | .swait (.bar _ n) => (n, 0, slotMask ((s.warpsOf w.block).filter fun y => !y.2.arrived false n))
  | .swait (.barg _ n) =>
    (n, 0, slotMask ((s.gangWarps (s.blockAt w.block).gang).filter fun y => !y.2.arrived true n))
  | .swait (.bowait _ _ off ph _) => (off, ph.toNat, 0)
  | .swait (.cwait n) => (n % 2 ^ 32, 0, 0)
  | .swait (.mwait _ va _ _ _) =>
    let m := (s.ctxAt w.ctx).mapOf va.toNat
    (m.1, m.2, 0)
  | _ => (0, 0, 0)

/-- The entries of the wait-for graph of a context. -/
def State.waitGraph (s : State) (c : Nat) : List (List Byte) :=
  ((s.warpsIn c).map fun w => (w.2.liveSplits.filter fun e => e.2.waiting).map fun e =>
    let o := s.waitObject w.1 e.2
    leBytes 2 (s.blockAt w.2.block).vcore ++ leBytes 1 (w.1 % 32) ++ leBytes 1 e.2.waitKind ++ leBytes 4 o.1 ++
      leBytes 4 o.2.1 ++ leBytes 4 o.2.2).flatten

/-- A split leaves its wait. -/
def unwait (s : State) (p : Nat × Nat × Split) : State :=
  s.setWarpAt p.1 ((s.warpAt p.1).setSplit p.2.1 { p.2.2 with st := .ready, wmask := none, wlbl := 0 })

/-- A split that has left its counted wait takes trap HANG at its instruction, and an error record says so. A split whose
warp an earlier trap halted takes none. -/
def hangSplit (s : State) (p : Nat × Nat × Split) : State :=
  let x := p.2.2
  if ((s.warpAt p.1).split p.2.1).st = .gone then s
  else
    s.asWarp p.1 p.2.1 fun s =>
      let code : Word := BitVec.ofNat 64 x.waitKind
      let s := if x.eh || s.ctx.handler = 0 || s.block.audit then s
               else s.writeRecord s.warp.ctx (s.record p.1 x.pc .hang code false 0)
      s.takeTrap .hang code x.wlbl x.pc x.wmask.isSome

/-- HANG_DETECT (R278): the counter has reached the threshold; the graph goes to the session, and the waits trap. -/
def execHangDetect (c : Nat) (s : State) : Host.Outcome State Fault Refusal :=
  let x := s.ctxAt c
  match s.hangCounter c with
  | none => .next s
  | some n =>
    if !x.live || x.hangThr = 0 || n < x.hangThr * 2 ^ 16 then .next s
    else
      let g := s.waitGraph c
      let who := ((s.warpsIn c).map fun w => (w.2.liveSplits.filter fun e => e.2.waiting).map fun e => (w.1, e.1, e.2)).flatten
      let s := s.report x.pav (.note (some c) x.pav .tenant 0x85 0 (leBytes 4 g.length ++ g.flatten))
      .next ((who.foldl hangSplit (who.foldl unwait s)).touch c)

/-! ## The refusal log (R270) -/

/-- The Pavilion has a runtime session. -/
def State.hasRuntime (s : State) (p : Nat) : Bool :=
  s.sessions.entries.any fun e => e.2.isOpen && e.2.role = .runtime && e.2.pav = p

/-- REFUSAL_LOG_FLUSH (R270): the waiting entries go to the runtime session, oldest first. -/
def execRefusalLogFlush (p : Nat) (s : State) : Host.Outcome State Fault Refusal :=
  let x := s.pavAt p
  if x.log = [] || !s.hasRuntime p || (x.log.length < 64 && s.cycle < x.logSince + 2 ^ 20) then .next s
  else
    let body := leBytes 4 x.log.length ++ leBytes 4 x.lost.toNat ++ (x.log.map fun e => leBytes 8 e.toNat).flatten
    .next ((s.setPavAt p { x with log := [] }).report p (.note none p .runtime 0x82 0 body))

end Sys2Proof.Machine
end

