-- ==== Sys2Proof/Machine/Commands.lean ====
section
/-! DEFINITION. Sessions, the host's commands, mapping, and host RMA (09 R164, 16 R268, 17 R294, R295, 19 R313 to R319,
R378, 20 R333, R351). -/

namespace Sys2Proof.Machine

/-! ## Sessions and how a command arrives (R313 to R316, R319) -/

/-- A session. -/
def State.session (s : State) (i : Nat) : Session := s.sessions.get Session.blank i

/-- Open sessions of a Pavilion. -/
def State.sessionsOf (s : State) (p : Nat) : Nat :=
  (s.sessions.entries.filter fun e => e.2.isOpen && e.2.pav = p).length

/-- SESSION_OPEN (R313): refused beyond 64 sessions, and to a disabled Pavilion unless the role is the operator's. A
Pavilion has one runtime session. -/
def execSessionOpen (role : Role) (p c : Nat) (s : State) : Host.Outcome State Fault Refusal :=
  if 16 ≤ p || 64 ≤ s.sessionsOf p || (role ≠ .operator && !((s.pavAt p).enabled && (s.pavAt p).en)) ||
      (role = .runtime && s.hasRuntime p) then .next s
  else
    let f := s.fresh
    .next { f.2 with sessions := f.2.sessions.set Session.blank f.1 ⟨true, role, p, c⟩ }

/-- Bytes of a body. -/
def bodyAt (b : List Byte) (o n : Nat) : Nat := leNat ((b.drop o).take n)

/-- Bytes of a body from `o` are zero. -/
def zeros (b : List Byte) (o n : Nat) : Bool := ((b.drop o).take n).all fun x => x == 0#8

/-- A header fails a check of R314. -/
def hdrBad (h : BitVec 256) (body : List Byte) : Bool :=
  fieldOf h 248 8 ≠ 1 || fieldOf h 232 8 ≠ 0 || fieldOf h 224 8 ≠ 0 || fieldOf h 192 20 ≠ 0 || fieldOf h 0 128 ≠ 0 ||
    hLen h ≠ body.length

/-- A command code of R315. -/
def listedCmd (n : Nat) : Bool := 1 ≤ n && n ≤ 14

/-- The context was made for a migration that is not committed (20 R342). -/
def State.arriving (s : State) (c : Nat) : Bool :=
  s.tack.migIn.entries.any fun m => match m.2 with
    | some y => y.st == .prepared && y.ctx = c
    | none => false

/-- The session serves a context (R313). -/
def State.serves (s : State) (x : Session) (c : Nat) : Bool :=
  let y := s.ctxAt c
  y.live && y.pav = x.pav && !s.arriving c &&
    match x.role with
    | .tenant => x.ctx = c
    | .runtime => true
    | .operator => false

/-- A budget of a context has no room for `n` more bytes in this window (R319): 0 read, 1 write, 2 translation. -/
def Ctx.overBudget (c : Ctx) (i n : Nat) : Bool :=
  c.budget.getD i 0 ≠ 0 && c.budget.getD i 0 * 4096 < c.spent.getD i 0 + n

/-- Counts bytes against a budget. -/
def State.charge (s : State) (c i n : Nat) : State :=
  let x := s.ctxAt c
  if x.live then s.setCtxAt c { x with spent := x.spent.set i (x.spent.getD i 0 + n) } else s

/-- Commands to a Pavilion are held while its image is updated (R329). -/
def State.updating (s : State) (p : Nat) : Bool := (s.pavAt p).image.isSome

/-- A host RMA access. -/
def isRma (i : Instr) : Bool :=
  match i with
  | .hostRmaRead .. => true
  | .hostRmaWrite .. => true
  | _ => false

/-- Holds a command or an access of a session for a context (R319, R329). -/
def State.keep (s : State) (ses c : Nat) (i : Instr) : State := { s with waiting := s.waiting ++ [(ses, c, i)] }

/-- What is held arrives again, in its order, before anything else. -/
def State.release (s : State) : State :=
  { s with waiting := [], agenda := s.waiting.map (fun e => Turn.event e.2.2) ++ s.agenda }

/-- The context that a command is held for; 256 for a command that names none. -/
def heldFor (h : BitVec 256) : Nat := if hCmd h = 6 || hCmd h = 12 then 256 else hCtx h

/-- A command of the session for a context is held; a later one goes behind it, and those for other contexts do not
(R319). -/
def State.behind (s : State) (ses c : Nat) : Bool :=
  s.waiting.any fun e => e.1 = ses && e.2.1 = c && !isRma e.2.2

/-- A command `i` arrives: held, rejected for its header, or carried out. An event stands for the command whose code its
header carries. -/
def command (i : Instr) (ses : Nat) (h : BitVec 256) (body : List Byte) (cmd : Nat) (s : State)
    (f : Session → State → State) : State :=
  let x := s.session ses
  if !x.isOpen then s
  else if s.updating x.pav || s.behind ses (heldFor h) then s.keep ses (heldFor h) i
  else if hCmd h ≠ cmd then (if listedCmd (hCmd h) then s else s.answer ses h .badcmd [])
  else if hdrBad h body then s.answer ses h .badcmd []
  else f x s

/-- A command that names a context: NOCTX where the session does not serve it. Its body counts against the write
budget. One that names a context held for a migration is held with it (20 R342). -/
def ctxCommand (i : Instr) (ses : Nat) (h : BitVec 256) (body : List Byte) (cmd : Nat) (s : State)
    (f : Nat → State → State) : State :=
  command i ses h body cmd s fun x s =>
    let c := hCtx h
    if !s.serves x c then s.answer ses h .noctx []
    else if (s.ctxAt c).overBudget 1 body.length then s.keep ses c i
    else if fieldOf (s.ctxAt c).sched 44 4 < hQueue h then s.answer ses h .badcmd []
    else
      let s := s.charge c 1 body.length
      match s.leaving c with
      | some (j, y) => s.setLeaving j (some { y with queued := y.queued ++ [(ses, h)] })
      | none => f c s

/-- Appends a command to its queue, which goes on as far as it can. -/
def enqueue (c q : Nat) (x : QCmd) (s : State) : State :=
  let y := s.queueAt c q
  settleQueue c q (s.setQueue c q { y with cmds := y.cmds ++ [x] })

/-! ## LAUNCH (05 R96, 09 R152, 17 R300) -/

/-- A signal address is out of range (R317). -/
def sigBad (a : Nat) : Bool := a % 8 ≠ 0 || 2 ^ 57 ≤ a

/-- Pairs of 8-byte words in a body. -/
def pairsAt (b : List Byte) (o n : Nat) : List (Word × Word) :=
  (List.range n).map fun i => (BitVec.ofNat 64 (bodyAt b (o + 16 * i) 8), BitVec.ofNat 64 (bodyAt b (o + 16 * i + 8) 8))

/-- The body of a LAUNCH fails R316 or R317. -/
def launchBodyBad (b : List Byte) : Bool :=
  let nw := bodyAt b 0x80 1
  let ni := bodyAt b 0x81 1
  let cm := bodyAt b 0x82 1
  b.length ≠ 0x158 || 4 < nw || 8 < ni || 1 < cm || !zeros b 0x83 5 || !zeros b (0x88 + 16 * nw) (16 * (4 - nw)) ||
    !zeros b (0xD8 + 16 * ni) (16 * (8 - ni)) || (pairsAt b 0x88 nw).any (fun p => sigBad p.1.toNat) ||
    (cm = 1 && sigBad (bodyAt b 0xC8 8))

/-- A launch header fails R96, R152 or R300; `runtime` says that it came through the runtime session. -/
def launchBad (h : BitVec 1024) (runtime : Bool) : Bool :=
  let l : Launch := { Launch.blank with hdr := h }
  let w := [l.w0, l.w1, l.w2, l.field 145 7, l.field 152 7, l.field 159 7]
  let part := l.partWord
  let rf := part % 256
  let sp := part / 2 ^ 8 % 256
  let acc := part / 2 ^ 16 % 256
  fieldOf h 256 8 ≠ 1 || fieldOf h 320 192 ≠ 0 || fieldOf h 304 16 ≠ 0 || fieldOf h 281 7 ≠ 0 || fieldOf h 240 16 ≠ 0 ||
    fieldOf h 166 26 ≠ 0 || fieldOf h 57 7 ≠ 0 || l.entry % 4 ≠ 0 || 5 < l.w0 || 5 < l.w1 || 4 < l.w2 || 64 < w.sum ||
    l.size = 0 || (w.sum < 64 && 2 ^ w.sum < l.size) || 8 < l.narg || (l.audit ≠ 0 && !l.pure) ||
    (l.privl && !runtime) || rf = 0 || sp = 0 || acc = 0 || 128 < rf + sp + acc || part / 2 ^ 24 ≠ 0 ||
    sp * 16384 < l.spBytes || rf * 16384 < 2 ^ l.w1 * (1152 * (l.vr + 1) + 1024) ||
    4 * l.blocksPerCore < 2 ^ l.w2

/-- The launch that an accepted LAUNCH makes. -/
def newLaunch (ses : Nat) (h : BitVec 256) (b : List Byte) : Launch :=
  { Launch.blank with
    known := true, ctx := hCtx h, queue := hQueue h, ses := ses, tag := hTag h
    hdr := BitVec.ofNat 1024 (bodyAt b 0 128), waits := pairsAt b 0x88 (bodyAt b 0x80 1)
    cmpl := if bodyAt b 0x82 1 = 1 then (pairsAt b 0xC8 1).head? else none
    inputs := pairsAt b 0xD8 (bodyAt b 0x81 1) }

/-- LAUNCH (R315): NOAUDIT goes before BADHDR (00 R2, 05 R96); an accepted launch is queued, and its LSEQ is the reply. -/
def execLaunch (ses : Nat) (h : BitVec 256) (body : List Byte) (s : State) : Host.Outcome State Fault Refusal :=
  .next (ctxCommand (.launch ses h body) ses h body 1 s fun c s =>
    let hdr : BitVec 1024 := BitVec.ofNat 1024 (bodyAt body 0 128)
    if launchBodyBad body then s.answer ses h .badcmd []
    else if !s.part.full && fieldOf hdr 272 6 ≠ 0 then s.answer ses h .noaudit []
    else if launchBad hdr ((s.session ses).role = .runtime) then s.answer ses h .badhdr []
    else
      let n := s.lseq + 1
      let s := { s with lseq := n }
      let s := (s.setLaunchAt n (newLaunch ses h body)).answer ses h .ok (leBytes 8 n)
      enqueue c (hQueue h) (.launch n) s)

/-- COPY (R315). -/
def execCopy (ses : Nat) (h : BitVec 256) (body : List Byte) (s : State) : Host.Outcome State Fault Refusal :=
  .next (ctxCommand (.copy ses h body) ses h body 2 s fun c s =>
    let w (i : Nat) : Word := BitVec.ofNat 64 (bodyAt body (8 * i) 8)
    if body.length ≠ 24 then s.answer ses h .badcmd []
    else enqueue c (hQueue h) (.copy ses h (w 0) (w 1) (w 2)) s)

/-- SIGNAL (R317). -/
def execSignal (ses : Nat) (h : BitVec 256) (body : List Byte) (s : State) : Host.Outcome State Fault Refusal :=
  .next (ctxCommand (.signal ses h body) ses h body 3 s fun c s =>
    let op := bodyAt body 8 1
    if body.length ≠ 24 || 1 < op || !zeros body 9 7 || sigBad (bodyAt body 0 8) then s.answer ses h .badcmd []
    else enqueue c (hQueue h)
      (.signal ses h (BitVec.ofNat 64 (bodyAt body 0 8)) (op = 1) (BitVec.ofNat 64 (bodyAt body 16 8))) s)

/-- WAIT (R317). -/
def execWait (ses : Nat) (h : BitVec 256) (body : List Byte) (s : State) : Host.Outcome State Fault Refusal :=
  .next (ctxCommand (.wait ses h body) ses h body 4 s fun c s =>
    if body.length ≠ 16 || sigBad (bodyAt body 0 8) then s.answer ses h .badcmd []
    else enqueue c (hQueue h) (.wait ses h (BitVec.ofNat 64 (bodyAt body 0 8)) (BitVec.ofNat 64 (bodyAt body 8 8))) s)

/-- FENCE (R315). -/
def execFenceCmd (ses : Nat) (h : BitVec 256) (body : List Byte) (s : State) : Host.Outcome State Fault Refusal :=
  .next (ctxCommand (.fenceCmd ses h body) ses h body 5 s fun c s =>
    if body ≠ [] then s.answer ses h .badcmd [] else enqueue c (hQueue h) (.fence ses h) s)

/-! ## Contexts (17 R294, R295, 20 R333, R351) -/

/-- A peer entry breaks R320. -/
def peerBad (e : BitVec 256) : Bool :=
  fieldOf e 112 6 ≠ 0 || fieldOf e 0 32 ≠ 0 || peerKind e = 3 ||
    (peerKind e = 2 && (fieldOf e 80 16 < 2 || fieldOf e 80 16 ≤ fieldOf e 64 16))

/-- The body of a CTXCREATE fails R316. -/
def createBad (b : List Byte) : Bool :=
  let n := bodyAt b 0x34 1
  b.length ≠ 0xB38 || 1 < bodyAt b 0xA 1 || !zeros b 0xB 5 || bodyAt b 0x2C 4 % 4 ≠ 0 || 64 < n || !zeros b 0x35 3 ||
    ((List.range 16).any fun i => !bitOf (BitVec.ofNat 16 (bodyAt b 8 2)) i && !zeros b (0x38 + 48 * i) 48) ||
    !zeros b (0x338 + 32 * n) (32 * (64 - n)) ||
    (List.range n).any fun i => peerBad (BitVec.ofNat 256 (bodyAt b (0x338 + 32 * i) 32))

/-- The lowest number below `n` that no entry of a list is. -/
def lowestFree (n : Nat) (used : List Nat) : Option Nat := (List.range n).find? fun i => !used.contains i

/-- Why a CTXCREATE is rejected (R294). -/
def State.createStat (s : State) (p : Nat) (sched : Word) : Stat :=
  let cs := s.contextsOf p
  let q := fieldOf sched 8 32
  if (q = 0 && cs ≠ []) || (q ≠ 0 && cs.length = 1 && cs.all fun c => (s.ctxAt c).quantum = 0) then .qzero
  else if fieldOf sched 48 16 = 0 || fieldOf sched 40 4 ≠ 0 || !((s.pavAt p).en && (s.pavAt p).enabled) ||
      256 ≤ (s.ctxs.entries.filter fun c => c.2.live).length || 64 ≤ cs.length then .badctx
  else if s.emptySlot.isNone then .nores
  else .ok

/-- The context that a CTXCREATE makes. -/
def newContext (p pidx mslot : Nat) (b : List Byte) : Ctx :=
  { Ctx.blank with
    live := true, pav := p, pidx := pidx, mslot := mslot, sched := BitVec.ofNat 64 (bodyAt b 0 8)
    owners := BitVec.ofNat 16 (bodyAt b 8 2), isProt := bodyAt b 0xA 1 = 1
    handler := BitVec.ofNat 64 (bodyAt b 0x10 8), root := bodyAt b 0x18 8, faultTmo := bodyAt b 0x20 4
    hangThr := bodyAt b 0x24 4, extTmo := bodyAt b 0x28 4, privBytes := bodyAt b 0x2C 4, llcLimit := bodyAt b 0x30 4
    certs := (List.range 16).map fun i => BitVec.ofNat 384 (bodyAt b (0x38 + 48 * i) 48)
    peers := (List.range (bodyAt b 0x34 1)).map fun i => BitVec.ofNat 256 (bodyAt b (0x338 + 32 * i) 32) }

/-- The priorities that the session sets for the queues of a new context (17 R299): no message of R315 carries them, so
`choices` picks them (log 11). -/
def State.givePrios (s : State) (c : Nat) : State :=
  (List.range (fieldOf (s.ctxAt c).sched 44 4 + 1)).foldl (fun s q =>
    let r := s.pick 8
    r.2.setQueue c q { r.2.queueAt c q with prio := r.1 }) s

/-- CTXCREATE (R294, R295, R333), from the runtime session. -/
def execCtxcreate (ses : Nat) (h : BitVec 256) (body : List Byte) (s : State) : Host.Outcome State Fault Refusal :=
  .next (command (.ctxcreate ses h body) ses h body 6 s fun x s =>
    if x.role ≠ .runtime || hCtx h ≠ 0 || createBad body then s.answer ses h .badcmd []
    else
      let st := s.createStat x.pav (BitVec.ofNat 64 (bodyAt body 0 8))
      let live := (s.ctxs.entries.filter fun c => c.2.live)
      match st, lowestFree 256 (live.map Prod.fst),
          lowestFree 64 ((live.filter fun c => c.2.pav = x.pav).map fun c => c.2.pidx), s.emptySlot with
      | .ok, some c, some i, some k =>
        let s := ((s.setCtxAt c (newContext x.pav i k body)).givePrios c).drawSlot k 2 c x.pav
        s.answer ses h .ok (leBytes 1 c ++ leBytes 1 i ++ leBytes 1 k)
      | st, _, _, _ => s.answer ses h st [])

/-- What a context held stays with its Pavilion: its pages, its cores and its key slots (R346, R351). -/
def State.orphan (s : State) (c : Nat) : State :=
  let p := (s.ctxAt c).pav
  let gone (o : Owner) : Owner := if o = .ctx c then .gone p else o
  { s with
    phys := { s.phys with owners := ⟨s.phys.owners.entries.map fun e => (e.1, gone e.2)⟩ }
    cores := ⟨s.cores.entries.map fun e => (e.1, { e.2 with
      assigned := gone e.2.assigned, lastCtx := if e.2.lastCtx = some c then some 256 else e.2.lastCtx })⟩
    tack := { s.tack with
      slots := ⟨s.tack.slots.entries.map fun e => (e.1, if e.2.ctx = c && e.2.pav = p && !e.2.dead
        then { e.2 with dead := true } else e.2)⟩
      grants := s.tack.grants.filter fun g => g.ctx ≠ c } }

/-- The Tack Room and the sessions forget a context: no endpoint is its owner's, no scrub job writes progress into its
address space, and its tenant sessions serve none. -/
def State.forgetCtx (s : State) (c : Nat) : State :=
  let ses (x : Session) : Session := if x.role = .tenant && x.ctx = c then { x with ctx := 256 } else x
  let ep (x : Endpoint) : Endpoint := if x.keyed && x.ctx = c then { x with keyed := false, secured := false } else x
  let job (x : Job) : Job := if x.issuer = some c then { x with issuer := none } else x
  { s with
    sessions := ⟨s.sessions.entries.map fun e => (e.1, ses e.2)⟩
    tack := { s.tack with
      eps := ⟨s.tack.eps.entries.map fun e => (e.1, ep e.2)⟩
      jobs := ⟨s.tack.jobs.entries.map fun e => (e.1, job e.2)⟩ } }

/-- The Pavilion tears a context down: its gangs are discarded, its queues, channels, faults and grants dropped. Its
cached translations and launches go too, so that no later context of its number meets them. -/
def destroyContext (c : Nat) (s : State) : State :=
  let p := (s.ctxAt c).pav
  let s := (s.gangsOf c).foldl (fun s g => dropGang g.1 s) s
  let s := { s with
    ops := s.ops.filter fun o => o.ctx ≠ c
    faults := s.faults.filter fun f => f.ctx ≠ c
    launches := ⟨s.launches.entries.filter fun (l : Nat × Launch) => l.2.ctx ≠ c⟩ }
  let s : State := (((s.dropTranslations c 0 0).orphan c).forgetCtx c).setCtxAt c Ctx.blank
  let x : Pav := s.pavAt p
  let s : State := if x.holder = some c then s.setPavAt p { x with holder := none, qlen := none } else s
  s.settleClusters

/-- CTXDESTROY (R351 step 1). -/
def execCtxdestroy (ses : Nat) (h : BitVec 256) (body : List Byte) (s : State) : Host.Outcome State Fault Refusal :=
  .next (ctxCommand (.ctxdestroy ses h body) ses h body 7 s fun c s =>
    if body ≠ [] then s.answer ses h .badcmd [] else (destroyContext c s).answer ses h .ok [])

/-! ## MAP and UNMAP (09 R168, R171, R172, 19 R378) -/

/-- Installs a leaf entry, with the tables above it that are absent. -/
def install (va : Nat) (e : BitVec 128) : List (Nat × Nat × Option Nat) → Nat → State → State
  | [], _, s => s
  | (sh, b, size) :: rest, table, s =>
    let k := table + 16 * (va / 2 ^ sh % 2 ^ b)
    if size = some (leafSize e) then s.setBytes k (leBytes 16 e.toNat)
    else
      let cur := s.entryAt k
      if bitOf cur 0 && !bitOf cur 1 then install va e rest (fieldOf cur 16 32 * 2 ^ 16) s
      else
        let f := s.fresh
        let t := (Config.tableBase + f.1) % 2 ^ 32
        let s := (f.2.setBytes (t * 2 ^ 16) (List.replicate 8192 0#8)).setBytes k (leBytes 16 (t * 2 ^ 16 + 1))
        install va e rest (t * 2 ^ 16) s

/-- Clears the leaf entry of a virtual address. -/
def State.unmapLeaf (s : State) (c va : Nat) : State :=
  match s.leafAt c va with
  | some k => s.setBytes k (leBytes 16 0)
  | none => s

/-- 64 KiB units of a page of a SIZE code. -/
def unitsOf (size : Nat) : Nat := pageBytes size / 2 ^ 16

/-- A leaf entry of a MAP is out of range (R172), or its page lies beyond the pool (00 R1, log 63). -/
def mapLeafBad (e : BitVec 128) (size : Nat) : Bool :=
  !bitOf e 0 || !bitOf e 1 || !leafOk e (some size) || poolBytes < fieldOf e 16 32 * 2 ^ 16 + pageBytes size

/-- A leaf names a key slot that a MAP may not name for a context: other than its memory slot, or that number where it holds a
key of another kind; none need be named for weight ciphertext (R333, log 63). -/
def State.slotBad (s : State) (c : Nat) (e : BitVec 128) : Bool :=
  let k := fieldOf e 88 8
  if k = 0 then !bitOf e 2
  else k ≠ (s.ctxAt c).mslot || ((s.keySlot k).used && !(s.keySlot k).holds 2 c)

/-- What a MAP names: its first address, pages, leaves and granule records. -/
structure MapCmd where
  va : Nat
  n : Nat
  lblm : Nat
  size : Nat
  leaves : List (BitVec 128)
  recs : List Nat
  deriving DecidableEq, Repr

/-- Reads the body of a MAP. -/
def mapCmd (b : List Byte) : MapCmd :=
  let n := bodyAt b 8 4
  let leaves := (List.range n).map fun i => BitVec.ofNat 128 (bodyAt b (0x10 + 16 * i) 16)
  let m := bodyAt b 0xC 1
  let k := if m = 1 then 1 else if m = 2 then 1024 * n else 0
  { va := bodyAt b 0 8, n := n, lblm := m, size := leafSize (leaves.headD 0), leaves := leaves
    recs := (List.range k).map fun i => bodyAt b (0x10 + 16 * n + 4 * i) 4 }

/-- The granule record of granule `i` of page `j`: none for LBLM 0. -/
def MapCmd.recOf (x : MapCmd) (j i : Nat) : Option Nat :=
  match x.lblm with
  | 0 => none
  | 1 => x.recs.head?
  | _ => x.recs[1024 * j + i]?

/-- A granule record is out of range, or gives a floating granule a label that the ceiling does not dominate. -/
def recBad (e : BitVec 128) (r : Nat) : Bool :=
  2 ^ 17 ≤ r || (2 ^ 16 ≤ r && !Label.dom (leafCeil e) (BitVec.ofNat 16 r))

/-- A MAP is rejected with BADCMD (R168, R316, R333, R378). -/
def State.mapBad (s : State) (c : Nat) (b : List Byte) : Bool :=
  let x := mapCmd b
  let extra := if x.lblm = 1 then 8 else if x.lblm = 2 then 4096 * x.n else 0
  x.n = 0 || 2 < x.lblm || b.length ≠ 0x10 + 16 * x.n + extra || !zeros b 0xD 3 || x.size = 3 ||
    (x.lblm = 2 && x.size ≠ 0) || x.va % pageBytes x.size ≠ 0 || 2 ^ 57 < x.va + x.n * pageBytes x.size ||
    (x.lblm = 1 && !zeros b (0x14 + 16 * x.n) 4) || x.leaves.any (fun e => mapLeafBad e x.size) ||
    x.leaves.any (s.slotBad c) ||
    x.leaves.zipIdx.any fun e => if x.lblm = 2
      then (List.range 1024).any fun i => ((x.recOf e.2 i).map (recBad e.1)).getD true
      else x.recs.any (recBad e.1)

/-- Physical 64 KiB pages that a leaf covers. -/
def leafPages (e : BitVec 128) : List Nat := List.range' (fieldOf e 16 32) (unitsOf (leafSize e))

/-- A MAP's handle: the lowest that no live mapping holds. -/
def Ctx.freeMap (c : Ctx) : Option Nat := (List.range' 1 65535).find? fun i => c.maps.get none i = none

/-- The status of a MAP in the order of R378. -/
def State.mapStat (s : State) (c : Nat) (b : List Byte) : Stat :=
  let x := mapCmd b
  let pages := (x.leaves.map leafPages).flatten
  if s.mapBad c b then .badcmd
  else if pages.any fun g => s.busyJobs.any fun j => (jobExtents j.desc).any fun e =>
      extKind e = 3 && (extPages e).contains g then .busyScrub
  else if pages.any fun g => s.ownedByOther (s.phys.owners.get .unowned g) (some c) then .inuse
  else if (s.ctxAt c).freeMap.isNone then .nores
  else .ok

/-- Removes virtual pages from a context's mappings; a mapping with no page left ends. -/
def Ctx.dropPages (c : Ctx) (vs : List Nat) : Ctx :=
  { c with maps := ⟨c.maps.entries.filterMap fun m =>
    match m.2 with
    | some y =>
      let ps := y.pages.filter fun i => !vs.contains (y.va / 2 ^ 16 + i)
      if ps = [] then none else some (m.1, some { y with pages := ps })
    | none => none⟩ }

/-- A page that no context holds, or that is free in the partition, goes to the context (R346, R356). -/
def State.takePage (s : State) (c g : Nat) : State :=
  let o := s.phys.owners.get .unowned g
  if o = .unowned || o = .pool (s.ctxAt c).pav then
    { s with phys := { s.phys with owners := s.phys.owners.set .unowned g (.ctx c) } }
  else s

/-- Sets a granule as its record says: fixed with ∅ where there is none. The mark of a scrubbed granule clears (22
R364). -/
def State.mapGran (s : State) (g : Nat) (r : Option Nat) : State :=
  let v : Gran := match r with
    | some n => ⟨BitVec.ofNat 16 n, 2 ^ 16 ≤ n⟩
    | none => Gran.initial
  { s with phys := { s.phys with grans := s.phys.grans.set Gran.initial g v
                                 scrubbed := s.phys.scrubbed.set false g false } }

/-- Part of a physical range is mapped by a live context. -/
def State.mapped (s : State) (base n : Nat) : Bool :=
  s.ctxs.entries.any fun c => c.2.live && (s.leaves c.1).any fun x =>
    meets (fieldOf x.2 16 32 * 2 ^ 16) (pageBytes (leafSize x.2)) base n

/-- A granule's bytes as they lie in the pool under a view (`out`), or as what lies there reads under it (09 R165). -/
def viewBytes (out : Bool) (v : View) (pa : Nat) (bs : List Byte) : List Byte :=
  match v with
  | .key k => xtsUnit out (leBytes 32 k.toNat) (leBytes 32 (Config.tweakKey k).toNat) pa bs
  | _ => bs

/-- The granules of a page that lie in the pool under one view are read under another; which of them do, and which the caches
still hold, is open (log 29). -/
def State.rekey (s : State) (g : Nat) (old new : View) : State :=
  (List.range 1024).foldl (fun (s : State) i =>
    let pa := g * 2 ^ 16 + 64 * i
    let r := s.pick 2
    if r.1 = 0 then r.2.setBytes pa (viewBytes false new pa (viewBytes true old pa (r.2.bytesAt pa 64))) else r.2) s

/-- A physical page is mapped through a leaf. Where it was mapped nowhere, what it holds now is the initial value of its
locations (10 R183); and it is read under the leaf's key (09 R165). -/
def State.enterPage (s : State) (e : BitVec 128) (g : Nat) : State :=
  let v : View := if bitOf e 2 then .plain else .key (s.keySlot (fieldOf e 88 8)).key
  let old := s.phys.views.get .fresh g
  let t := if old = .fresh then s else if old = v then s else s.rekey g old v
  let t := if s.mapped (g * 2 ^ 16) (2 ^ 16) then t else { t with hist := t.hist.forget (g * 2 ^ 16) (2 ^ 16) }
  { t with phys := { t.phys with views := t.phys.views.set .fresh g v } }

/-- Installs one page of a MAP. -/
def mapPage (c : Nat) (x : MapCmd) (s : State) (e : BitVec 128 × Nat) : State :=
  let va := x.va + e.2 * pageBytes x.size
  let s := (leafPages e.1).foldl (fun s g => (s.takePage c g).enterPage e.1 g) s
  let s := install va e.1 walkLevels (s.ctxAt c).root s
  (List.range (unitsOf x.size * 1024)).foldl
    (fun s i => s.mapGran (fieldOf e.1 16 32 * 1024 + i) (x.recOf e.2 i)) s

/-- An accepted MAP: its mapping under a handle, its leaves and its labels. -/
def doMap (c i : Nat) (x : MapCmd) (s : State) : State :=
  let units := x.n * unitsOf x.size
  let y := (s.ctxAt c).dropPages (List.range' (x.va / 2 ^ 16) units)
  let s := s.setCtxAt c { y with maps := y.maps.set none i (some ⟨x.va, List.range units⟩) }
  x.leaves.zipIdx.foldl (mapPage c x) s

/-- MAP (R378). Each leaf entry counts 64 bytes against the translation budget. -/
def execMap (ses : Nat) (h : BitVec 256) (body : List Byte) (s : State) : Host.Outcome State Fault Refusal :=
  .next (ctxCommand (.map ses h body) ses h body 9 s fun c s' =>
    let x := mapCmd body
    match s'.mapStat c body, (s'.ctxAt c).freeMap with
    | .ok, some i =>
      if (s'.ctxAt c).overBudget 2 (64 * x.n) then s.keep ses c (.map ses h body)
      else ((doMap c i x s').charge c 2 (64 * x.n)).answer ses h .ok (leBytes 2 i)
    | st, _ => s'.answer ses h st [])

/-- A host that unmaps an input page of a launch makes its pending audits skipped (16 R282). -/
def skipAudits (c : Nat) (vs : List Nat) (s : State) : State :=
  s.launches.entries.foldl (fun (s : State) l =>
    let hit := l.2.inputs.any fun r => vs.any fun v =>
      meets r.1.toNat r.2.toNat (v * 2 ^ 16) (2 ^ 16)
    if l.2.ctx = c && !l.2.closed && l.2.pending ≠ [] && hit then
      closeLaunch l.1 (s.setLaunchAt l.1 { l.2 with pending := [], skipped := l.2.skipped ++ l.2.pending })
    else s) s

/-- UNMAP (R316): removes leaf entries, each of which counts 64 bytes against the translation budget; a changed entry takes
effect after `tlbinv` (09 R173). -/
def execUnmap (ses : Nat) (h : BitVec 256) (body : List Byte) (s : State) : Host.Outcome State Fault Refusal :=
  .next (ctxCommand (.unmap ses h body) ses h body 13 s fun c s' =>
    let va := bodyAt body 0 8
    let n := bodyAt body 8 4
    let size := bodyAt body 0xC 1
    if body.length ≠ 16 || !zeros body 0xD 3 || 2 < size || n = 0 || va % pageBytes size ≠ 0 ||
        2 ^ 57 < va + n * pageBytes size then s'.answer ses h .badcmd []
    else
      let bytes := 64 * ((List.range n).filter fun i => (s'.leafAt c (va + i * pageBytes size)).isSome).length
      let vs := List.range' (va / 2 ^ 16) (n * unitsOf size)
      if (s'.ctxAt c).overBudget 2 bytes then s.keep ses c (.unmap ses h body) else
      let t := skipAudits c vs s'
      let t := (List.range n).foldl (fun t i => t.unmapLeaf c (va + i * pageBytes size)) t
      ((t.setCtxAt c ((t.ctxAt c).dropPages vs)).charge c 2 bytes).answer ses h .ok [])

/-! ## FAULTREPLY, DCDADD, DCDREL (09 R164, 16 R268) -/

/-- FAULTREPLY (R268): the answer to the fault of the header's TAG and the body's page. RESOLVED counts the leaf entry that it
reports against the translation budget (R319). One for no pending fault has no effect. -/
def execFaultreply (ses : Nat) (h : BitVec 256) (body : List Byte) (s : State) : Host.Outcome State Fault Refusal :=
  .next (ctxCommand (.faultreply ses h body) ses h body 10 s fun c s' =>
    let a := bodyAt body 8 1
    if body.length ≠ 16 || !zeros body 9 7 || a = 0 || 2 < a || bodyAt body 0 8 % 2 ^ 16 ≠ 0 then
      s'.answer ses h .badcmd []
    else
      match s'.faults.find? fun f => f.ctx = c && f.tag = (hTag h).toNat && f.page * 2 ^ 16 = bodyAt body 0 8 &&
          !f.ok && !f.no with
      | none => s'.answer ses h .ok []
      | some f =>
        let n := if a = 1 then 64 else 0
        if (s'.ctxAt c).overBudget 2 n then s.keep ses c (.faultreply ses h body)
        else (answerFault f (a = 1) (s'.charge c 2 n)).answer ses h .ok [])

/-- The extent of a DCDADD or DCDREL: port, base, length; none where it is out of range (log 88). -/
def dcdExtent (b : List Byte) : Option (Nat × Nat × Nat) :=
  let p := bodyAt b 0 1
  let base := bodyAt b 8 8
  let n := bodyAt b 16 8
  if b.length ≠ 24 || 16 ≤ p || !zeros b 1 7 || base % 2 ^ 16 ≠ 0 || n % 2 ^ 16 ≠ 0 || n = 0 ||
      poolBytes < base + n
  then none else some (p, base, n)

/-- DCDADD (R164). An extent that is listed stays so, and the answer is OK (log 89). -/
def execDcdadd (ses : Nat) (h : BitVec 256) (body : List Byte) (s : State) : Host.Outcome State Fault Refusal :=
  .next (ctxCommand (.dcdadd ses h body) ses h body 11 s fun _ s =>
    match dcdExtent body with
    | none => s.answer ses h .badcmd []
    | some e =>
      let es := if s.phys.extents.contains e then s.phys.extents else s.phys.extents ++ [e]
      let s := { s with phys := { s.phys with extents := es } }
      s.answer ses h .ok [])

/-- DCDREL (R164): INUSE while a mapped page uses the extent. One that is not listed is answered OK (log 89). -/
def execDcdrel (ses : Nat) (h : BitVec 256) (body : List Byte) (s : State) : Host.Outcome State Fault Refusal :=
  .next (ctxCommand (.dcdrel ses h body) ses h body 14 s fun _ s =>
    match dcdExtent body with
    | none => s.answer ses h .badcmd []
    | some e =>
      if s.mapped e.2.1 e.2.2 then s.answer ses h .inuse []
      else
        let s := { s with phys := { s.phys with extents := s.phys.extents.filter fun x => x ≠ e } }
        s.answer ses h .ok [])

/-! ## Host RMA (19 R318, R319) -/

/-- The context that a session's RMA reaches. -/
def State.rmaCtx (s : State) (ses : Nat) : Option Nat :=
  let x := s.session ses
  if x.isOpen && x.role = .tenant && s.serves x x.ctx then some x.ctx else none

/-- The pieces of `n` bytes at an address, each an access of its own (10 R175): bytes up to a multiple of 8, then eights. -/
def rmaPieces (va n : Nat) : List (Nat × Nat) :=
  let head := min n ((8 - va % 8) % 8)
  ((List.range head).map fun i => (i, 1)) ++ (pieces (n - head)).map fun p => (head + p.1, p.2)

/-- The checks of a host RMA access to `n` bytes: pieces and their checks. A host is offered no fault. -/
def State.rmaChks (s : State) (c : Nat) (k : Acc) (va n : Nat) : List ((Nat × Nat) × Chk) :=
  (rmaPieces va n).map fun p =>
    (p, match s.farChk c [] k (va + p.1) with
      | .fault q m => if q = waitPage then .fault q m else .refused 0
      | r => r)

/-- A piece lies behind a CXL port in reset: the access waits (R329). -/
def rmaWaits (cs : List ((Nat × Nat) × Chk)) : Bool := cs.any fun p => p.2.page.isSome

/-- Reads the pieces of a host RMA read: bytes, whether one was poisoned, and the first refusal. -/
def rmaRead : List ((Nat × Nat) × Chk) → State → (List Byte × Bool × Option Nat) × State
  | [], s => (([], false, none), s)
  | (p, c) :: t, s =>
    match c with
    | .ok k _ =>
      if s.granLbl k = 0 then
        let b := s.engineRead [] k p.2
        let r := rmaRead t b.2
        ((b.1 ++ r.1.1, s.poisoned k || r.1.2.1, r.1.2.2), r.2)
      else
        let r := rmaRead t s
        ((allOnes p.2 ++ r.1.1, r.1.2.1, some 5), r.2)
    | .refused w =>
      let r := rmaRead t s
      ((allOnes p.2 ++ r.1.1, r.1.2.1, some w), r.2)
    | _ =>
      let r := rmaRead t s
      ((allOnes p.2 ++ r.1.1, r.1.2.1, r.1.2.2), r.2)

/-- HOST_RMA_READ (R318): held where the read budget has no room; a granule whose label is not ∅ is refused. -/
def execHostRmaRead (ses va len : Nat) (s : State) : Host.Outcome State Fault Refusal :=
  match s.rmaCtx ses with
  | none => .next s
  | some c =>
    let cs := s.rmaChks c .load va len
    if (s.ctxAt c).overBudget 0 len || rmaWaits cs then .next (s.keep ses c (.hostRmaRead ses va len))
    else
      let r := rmaRead cs s
      let s := (r.2.refuseFarOpt c r.1.2.2).charge c 0 len
      .next (s.send (.rmaData ses va r.1.1 r.1.2.1))

/-- HOST_RMA_WRITE (R318): the public label, as a remote agent. -/
def execHostRmaWrite (ses va : Nat) (data : List Byte) (s : State) : Host.Outcome State Fault Refusal :=
  match s.rmaCtx ses with
  | none => .next s
  | some c =>
    let cs := s.rmaChks c .store va data.length
    if (s.ctxAt c).overBudget 1 data.length || rmaWaits cs then .next (s.keep ses c (.hostRmaWrite ses va data))
    else
      let r := landFar 0#16 data [] [] cs s
      .next (((r.2.refuseFarOpt c r.1.2.2.2).clearCovered r.1.2.1).charge c 1 data.length)

end Sys2Proof.Machine
end

