-- ==== Sys2Proof/Machine/CrossLane.lean ====
section
/-! DEFINITION. The cross-lane instructions (07 R145 to R151). -/

namespace Sys2Proof.Machine

/-- The source lane of a shuffle, as an exact integer (R145). -/
def shuffleFrom (m : ShflM) (l b : Nat) : Int :=
  match m with
  | .idx => (b : Int)
  | .xor => ((l ^^^ b : Nat) : Int)
  | .up => (l : Int) - b
  | .down => (l : Int) + b

/-- The element of a source lane, 0 where there is none. -/
def State.fromLane (s : State) (a : VNum) (src : Int) : Nat :=
  if 0 ≤ src ∧ src ≤ 31 then s.elem s.ty a src.toNat else 0

/-- Its label, ∅ where there is none. -/
def State.fromLbl (s : State) (a : VNum) (src : Int) : Label :=
  if 0 ≤ src ∧ src ≤ 31 then s.elemLbl s.ty a src.toNat else 0#16

/-- `vshfl` with a vector index (R145). -/
def execVshfl (p : Bool) (d a b : VNum) (m : ShflM) (s : State) : Host.Outcome State Fault Refusal :=
  word (.vshfl p d a b m) s fun s =>
    let src (l : Nat) := shuffleFrom m l (s.elem s.ty b l)
    .ok (vecEffect p s.ty d false (fun l => (s.fromLane a (src l), 0#32))
      (fun l => s.fromLbl a (src l) ||| s.elemLbl s.ty b l) s)

/-- `vshfl` with a scalar index (R145). -/
def execVshflS (p : Bool) (d a : VNum) (b : SNum) (m : ShflM) (s : State) : Host.Outcome State Fault Refusal :=
  word (.vshflS p d a b m) s fun s =>
    let src (l : Nat) := shuffleFrom m l (s.sreg b).toNat
    .ok (vecEffect p s.ty d false (fun l => (s.fromLane a (src l), 0#32))
      (fun l => s.fromLbl a (src l) ||| s.slbl b) s)

/-- `vbcast` (R146): all ones selects the lowest participating lane. -/
def execVbcast (p : Bool) (d a : VNum) (b : SNum) (s : State) : Host.Outcome State Fault Refusal :=
  word (.vbcast p d a b) s fun s =>
    let src : Int := if s.sreg b = BitVec.allOnes 64 then headLane s.lanes else ((s.sreg b).toNat : Int)
    .ok (vecEffect p s.ty d false (fun _ => (s.fromLane a src, 0#32)) (fun _ => s.fromLbl a src ||| s.slbl b) s)

/-- The join of the labels of the participating lanes of an operand, with pc and guard. -/
def State.allLbl (s : State) (a : VNum) : Label :=
  s.pcl ||| s.guardLbl ||| joinLabels (s.lanes.map fun l => s.elemLbl s.ty a l)

/-- `vballot` (R147). -/
def execVballot (p : Bool) (d : SNum) (a : VNum) (s : State) : Host.Outcome State Fault Refusal :=
  word (.vballot p d a) s fun s =>
    .ok ((s.setS d (BitVec.ofNat 64 (maskOf s.lanes fun l => s.elem s.ty a l ≠ 0)) (s.allLbl a)).advance p)

/-- An operation of R148 over contributions, as patterns of type `t`; 0 over none. -/
def reduce (t : ETy) (o : RedOp) (sat : Bool) (rnd : Nat) (xs : List Nat) : Res :=
  match xs with
  | [] => (0, 0#32)
  | x :: rest =>
    match o with
    | .add =>
      if t.float then sumF (Fmt.of t) rnd (xs.map (decodeF (Fmt.of t)))
      else deliverInt t t.width sat true (xs.foldl (fun e y => e + ival t y) 0)
    | .min =>
      if t.float then extremeF (Fmt.of t) true xs
      else (truncInt t.width (rest.foldl (fun e y => min e (ival t y)) (ival t x)), 0#32)
    | .max =>
      if t.float then extremeF (Fmt.of t) false xs
      else (truncInt t.width (rest.foldl (fun e y => max e (ival t y)) (ival t x)), 0#32)
    | .and => (rest.foldl (· &&& ·) x, 0#32)
    | .or => (rest.foldl (· ||| ·) x, 0#32)
    | .xor => (rest.foldl (· ^^^ ·) x, 0#32)

/-- The contribution of a lane: its element in P, else 0 (R148). -/
def State.contribution (s : State) (a : VNum) (l : Nat) : Nat := if s.lanes.contains l then s.elem s.ty a l else 0

/-- An operation of R148 over the contributions of some lanes. A floating sum that includes the +0 of a lane outside P is
not -0. -/
def State.reduction (s : State) (a : VNum) (o : RedOp) (ls : List Nat) : Res :=
  let t := s.ty
  let r := reduce t o s.sat s.rnd (ls.map (s.contribution a))
  if t.float && o == .add && !ls.all s.lanes.contains && r.1 == (Fmt.of t).signed true 0 then (0, r.2) else r

/-- `vred` (R148). -/
def execVred (p : Bool) (d : SNum) (a : VNum) (o : RedOp) (s : State) : Host.Outcome State Fault Refusal :=
  word (.vred p d a o) s fun s =>
    let t := s.ty
    let r := s.reduction a o (List.range 32)
    let v : Word := if t.float then BitVec.ofNat 64 r.1 else extTo64 t t.width r.1
    let s' := s.setS d v (s.allLbl a)
    .ok ((s'.setFlags r.2 (if s.lanes = [] then 0#16 else s.allLbl a)).advance p)

/-- `vscan` (R149): exclusive where `e`. -/
def execVscan (p : Bool) (d a : VNum) (o : RedOp) (e : Bool) (s : State) : Host.Outcome State Fault Refusal :=
  word (.vscan p d a o e) s fun s =>
    let j (l : Nat) := List.range (if e then l else l + 1)
    .ok (vecEffect p s.ty d true (fun l => s.reduction a o (j l))
      (fun l => joinLabels (((j l).filter s.lanes.contains).map fun i => s.elemLbl s.ty a i)) s)

/-- One stage of the bit exchange of R150. -/
def exchange (j m : Nat) (l x y : Nat) : Nat :=
  if l &&& j = 0 then ((x &&& m) ||| ((y &&& m) * 2 ^ j)) % 2 ^ 32
  else (x &&& (2 ^ 32 - 1 - m)) ||| ((y / 2 ^ j) &&& m)

/-- `vbxch` (R150). -/
def execVbxch (p : Bool) (d a : VNum) (b : SNum) (s : State) : Host.Outcome State Fault Refusal :=
  word (.vbxch p d a b) s fun s =>
    let j := (s.sreg b).toNat % 32
    let m := fieldOf (s.sreg b) 32 32
    .ok (vecEffect p s.ty d false
      (fun l => (exchange j m l (s.elem s.ty a l) (s.elem s.ty a (l ^^^ j)), 0#32))
      (fun l => s.elemLbl s.ty a l ||| s.elemLbl s.ty a (l ^^^ j) ||| s.slbl b) s)

/-- `vmatch` (R151). -/
def execVmatch (p : Bool) (d a : VNum) (s : State) : Host.Outcome State Fault Refusal :=
  word (.vmatch p d a) s fun s =>
    let t := s.ty
    -- the destination is written unsigned at TYPE's width
    .ok (vecEffect p t d false (fun l => (maskOf s.lanes fun i => s.elem t a i = s.elem t a l, 0#32))
      (fun _ => joinLabels (s.lanes.map fun i => s.elemLbl t a i)) s)

end Sys2Proof.Machine
end

