-- ==== Sys2Proof/Machine/Management.lean ====
section
/-! DEFINITION. The operator's management messages, budgets' windows, repairs, and the device's resets (09 R163, 16 R272,
R288, 17 R290, 19 R311, R316, R319, R329, 20 R335, R344, R345, 22 R363). -/

namespace Sys2Proof.Machine

/-! ## How a management message arrives (R315, R316) -/

/-- A SUB of R316. -/
def listedSub (n : Nat) : Bool := 1 ≤ n && n ≤ 11

/-- Every byte of a body outside the fields given (offset, length) is zero, and the fields lie in the body. -/
def onlyFields (b : List Byte) (fs : List (Nat × Nat)) : Bool :=
  fs.all (fun f => f.1 + f.2 ≤ b.length) &&
    (List.range b.length).all fun i => fs.any (fun f => f.1 ≤ i && i < f.1 + f.2) || b.getD i 0#8 == 0#8

/-- A management message `i` of a SUB with operands in the fields given. From a session that is not the operator's it is
rejected. An event stands for the SUB that its body carries. -/
def mgmt (i : Instr) (ses : Nat) (h : BitVec 256) (body : List Byte) (sub : Nat) (fs : List (Nat × Nat)) (s : State)
    (f : State → State) : State :=
  command i ses h body 0xC s fun x s =>
    let n := bodyAt body 0 2
    if x.role ≠ .operator then s.answer ses h .badcmd []
    else if body.length < 2 || !listedSub n then s.answer ses h .badcmd []
    else if n ≠ sub then s
    else if !onlyFields body ((0, 2) :: fs) then s.answer ses h .badcmd []
    else f s

/-- The same for a SUB whose first operand is a kind from `lo` to `hi`. An event stands for the kind its body carries. -/
def mgmtKind (i : Instr) (ses : Nat) (h : BitVec 256) (body : List Byte) (sub lo hi kind : Nat) (fs : List (Nat × Nat))
    (s : State) (f : State → State) : State :=
  command i ses h body 0xC s fun x s =>
    let n := bodyAt body 0 2
    let k := bodyAt body 8 1
    if x.role ≠ .operator then s.answer ses h .badcmd []
    else if body.length < 2 || !listedSub n then s.answer ses h .badcmd []
    else if n ≠ sub then s
    else if body.length < 9 || k < lo || hi < k then s.answer ses h .badcmd []
    else if k ≠ kind then s
    else if !onlyFields body ((0, 2) :: (8, 1) :: fs) then s.answer ses h .badcmd []
    else f s

/-! ## Configuration (R290, R319, R288, R163) -/

/-- The bits of PVCFG that are written; the others read zero. -/
def pvcfgMask : Word := 0x00FF_FFFF_0700_FFFF#64

/-- The Pavilion holds a live context. -/
def State.occupied (s : State) (p : Nat) : Bool := s.contextsOf p ≠ []

/-- The other enabled Pavilions. -/
def State.others (s : State) (p : Nat) : List Nat := (List.range 16).filter fun q => q ≠ p && (s.pavAt q).en

/-- A colour mask shares a bit with that of another enabled Pavilion (R290). -/
def State.colourClash (s : State) (p : Nat) (col : Word) : Bool := (s.others p).any fun q => col &&& (s.pavAt q).col ≠ 0

/-- A PVCFG value is rejected for a Pavilion without a live context (R290). -/
def State.pvcfgBad (s : State) (p : Nat) (v : Word) : Bool :=
  let lo := fieldOf v 0 8
  let hi := fieldOf v 8 8
  let meetsRange (c : Word) : Bool := lo ≤ hi && lo ≤ fieldOf c 8 8 && fieldOf c 0 8 ≤ hi
  s.part.clusters ≤ hi || (bitOf v 26 && hi < lo) || ((s.others p).any fun q => meetsRange (s.pavAt q).cfg) ||
    s.colourClash p (s.pavAt p).col

/-- WRITE_PVCFG (R290). -/
def execWritePvcfg (ses : Nat) (h : BitVec 256) (body : List Byte) (s : State) : Host.Outcome State Fault Refusal :=
  .next (mgmt (.writePvcfg ses h body) ses h body 1 [(8, 1), (16, 8)] s fun s =>
    let p := bodyAt body 8 1
    let v : Word := BitVec.ofNat 64 (bodyAt body 16 8)
    if 16 ≤ p then s.answer ses h .badcmd []
    else if s.occupied p then s.answer ses h .inuse []
    else if s.pvcfgBad p v then s.answer ses h .badcmd []
    else (s.setPavAt p { s.pavAt p with cfg := v &&& pvcfgMask }).answer ses h .ok [])

/-- WRITE_PVCOL (R290). -/
def execWritePvcol (ses : Nat) (h : BitVec 256) (body : List Byte) (s : State) : Host.Outcome State Fault Refusal :=
  .next (mgmt (.writePvcol ses h body) ses h body 2 [(8, 1), (16, 8)] s fun s =>
    let p := bodyAt body 8 1
    let v : Word := BitVec.ofNat 64 (bodyAt body 16 8)
    if 16 ≤ p then s.answer ses h .badcmd []
    else if s.occupied p then s.answer ses h .inuse []
    else if s.colourClash p v then s.answer ses h .badcmd []
    else (s.setPavAt p { s.pavAt p with col := v }).answer ses h .ok [])

/-- SET_BUDGETS (R319). -/
def execSetBudgets (ses : Nat) (h : BitVec 256) (body : List Byte) (s : State) : Host.Outcome State Fault Refusal :=
  .next (mgmt (.setBudgets ses h body) ses h body 3 [(8, 1), (12, 12)] s fun s =>
    let c := bodyAt body 8 1
    let x := s.ctxAt c
    if !x.live then s.answer ses h .badctx []
    else (s.setCtxAt c { x with budget := [bodyAt body 12 4, bodyAt body 16 4, bodyAt body 20 4] }).answer ses h .ok [])

/-- BUDGET_WINDOW (R319): a new window of 2^20 cycles; what was held arrives again. -/
def execBudgetWindow (s : State) : Host.Outcome State Fault Refusal :=
  if s.cycle < s.windowStart + 2 ^ 20 then .next s
  else
    let s := { s with
      windowStart := s.windowStart + (s.cycle - s.windowStart) / 2 ^ 20 * 2 ^ 20
      ctxs := ⟨s.ctxs.entries.map fun (c : Nat × Ctx) => (c.1, { c.2 with spent := [0, 0, 0] })⟩ }
    .next s.release

/-- QUARANTINE_THRESHOLD (R288). -/
def execQuarantineThreshold (ses : Nat) (h : BitVec 256) (body : List Byte) (s : State) :
    Host.Outcome State Fault Refusal :=
  .next (mgmt (.quarantineThreshold ses h body) ses h body 11 [(8, 1)] s fun s =>
    let n := bodyAt body 8 1
    if n < 16 then s.answer ses h .badcmd []
    else ({ s with phys := { s.phys with threshold := n } }).answer ses h .ok [])

/-- An entry of an eviction schedule is rejected (R163). -/
def scheduleBad (e : BitVec 256) : Bool :=
  fieldOf e 242 14 ≠ 0 || fieldOf e 121 47 ≠ 0 || fieldOf e 57 7 ≠ 0 || fieldOf e 64 7 ≠ 0 || fieldOf e 0 7 ≠ 0 ||
    (fieldOf e 240 2 ≠ 0 && fieldOf e 64 57 ≤ fieldOf e 0 57) || fieldOf e 200 32 < fieldOf e 168 32 ||
    64 ≤ fieldOf e 232 8

/-- LOAD_EVICTION_SCHEDULE (R163), from the operator's session or from the Pavilion's runtime session. It changes timing
only. -/
def execLoadEvictionSchedule (ses : Nat) (h : BitVec 256) (body : List Byte) (s : State) :
    Host.Outcome State Fault Refusal :=
  .next (command (.loadEvictionSchedule ses h body) ses h body 0xC s fun x s =>
    let n := bodyAt body 10 2
    let p := bodyAt body 8 1
    let es := (List.range n).map fun i => BitVec.ofNat 256 (bodyAt body (16 + 32 * i) 32)
    if body.length < 2 || !listedSub (bodyAt body 0 2) then s.answer ses h .badcmd []
    else if bodyAt body 0 2 ≠ 10 then (if x.role = .operator then s else s.answer ses h .badcmd [])
    else if !(x.role = .operator || (x.role = .runtime && x.pav = p)) || 16 ≤ p || 4096 < n ||
        !onlyFields body [(0, 2), (8, 1), (10, 2), (16, 32 * n)] || es.any scheduleBad then s.answer ses h .badcmd []
    else (s.setPavAt p { s.pavAt p with sched := es }).answer ses h .ok [])

/-! ## In service (R311), repairs and their end (R272, R288, R329) -/

/-- A die has a cluster in service. -/
def State.dieServes (s : State) (d : Nat) : Bool :=
  d < s.part.dies && (List.range 24).any fun k => !(s.clusterAt (24 * d + k)).quar

/-- A number whose bit `i` says `f i`, for the bits below `n`. -/
def bitsOf (f : Nat → Bool) : Nat → Nat
  | 0 => 0
  | n + 1 => bitsOf f n + (if f n then 2 ^ n else 0)

/-- The in-service word (R311). -/
def State.inService (s : State) : Word :=
  BitVec.ofNat 64 (s.phys.eth.toNat * 2 ^ 52 + s.phys.cxl.toNat * 2 ^ 36 + bitsOf s.dieServes 8 * 2 ^ 28 +
    s.phys.lsect.toNat)

/-- A core is out of dispatch: quarantined, or in a quarantined cluster. -/
def State.coreOut (s : State) (c : Nat) : Bool :=
  c < s.part.cores && ((s.coreAt c).quar || (s.clusterAt (c / 4)).quar)

/-- READ_IN_SERVICE (R311): the word, and the mask of quarantined cores. -/
def execReadInService (ses : Nat) (h : BitVec 256) (body : List Byte) (s : State) : Host.Outcome State Fault Refusal :=
  .next (mgmt (.readInService ses h body) ses h body 4 [] s fun s =>
    s.answer ses h .ok (leBytes 8 s.inService.toNat ++ leBytes 96 (bitsOf s.coreOut 768)))

/-- Target of a repair. -/
def repairTarget (b : List Byte) : Nat := bodyAt b 12 4

/-- An image as its bytes arrive: the signature is the last 9,893 of them (20 R336, R337). -/
def imageOf (b : List Byte) : FwImage :=
  let n := b.length - 9893
  ⟨b.take n, Config.imageVersion (b.take n), b.drop n⟩

/-- The Tack Room image that runs. -/
def State.tackImage (s : State) : FwImage := s.tack.code.getD ⟨Config.firstImage 0, s.tack.version, Config.firstSig 0⟩

/-- The image that a Pavilion runs. -/
def State.pavImage (s : State) (p : Nat) : FwImage :=
  (s.pavAt p).code.getD ⟨Config.firstImage (p + 1), (s.pavAt p).version, Config.firstSig (p + 1)⟩

/-- An image is accepted: its signature verifies and its version is at least its fuse (20 R335, R337). -/
def imageOk (m : FwImage) (fuse : Nat) : Bool := Config.sigVerifies m.bytes m.sig && fuse ≤ m.version

/-- The image that a Pavilion runs is accepted at boot (20 R344 step 4). -/
def State.pavOk (s : State) (p : Nat) : Bool := imageOk (s.pavImage p) s.tack.fusePav

/-- The messages about a Pavilion's launches that were delayed leave (R329). -/
def State.sendLate (s : State) (p : Nat) : State :=
  { s with outbox := s.outbox ++ (s.late.filter fun m => m.1 = p).map Prod.snd, late := s.late.filter fun m => m.1 ≠ p }

/-- PAVILION_IMAGE_UPDATE (R329): the Pavilion holds commands until the signature check ends. -/
def execPavilionImageUpdate (ses : Nat) (h : BitVec 256) (body : List Byte) (s : State) :
    Host.Outcome State Fault Refusal :=
  .next (mgmtKind (.pavilionImageUpdate ses h body) ses h body 5 1 7 1 [(12, 4), (16, body.length - 16)] s fun s =>
    let p := repairTarget body
    if 16 ≤ p || body.length < 16 then s.answer ses h .badcmd []
    else (s.setPavAt p { s.pavAt p with image := some (imageOf (body.drop 16)) }).answer ses h .ok [])

/-- IMAGE_SIGNATURE_VERIFIED (R329, 20 R337): the new image takes effect whole, or the old one stays; what was held
arrives again, and what was delayed leaves. -/
def execImageSignatureVerified (p : Nat) (s : State) : Host.Outcome State Fault Refusal :=
  let x := s.pavAt p
  match x.image with
  | none => .next s
  | some m =>
    let x := { x with image := none }
    let x := if imageOk m s.tack.fusePav then
      { x with code := some m, version := m.version, enabled := true } else x
    .next ((s.setPavAt p x).sendLate p).release

/-- CLUSTER_QUARANTINE (R329): its gangs are pre-empted as at a reclaim. -/
def execClusterQuarantine (ses : Nat) (h : BitVec 256) (body : List Byte) (s : State) :
    Host.Outcome State Fault Refusal :=
  .next (mgmtKind (.clusterQuarantine ses h body) ses h body 5 1 7 2 [(12, 4)] s fun s =>
    let k := repairTarget body
    if s.part.clusters ≤ k then s.answer ses h .badcmd []
    else
      let d := match s.lender k with
        | some p => (s.pavAt p).rdl
        | none => 0
      let s := s.setClusterAt k { s.clusterAt k with quar := true }
      (preemptOthers k d none s).settleClusters.answer ses h .ok [])

/-- SECTOR_RETIREMENT (R329): LSECT increases by 1, saturating. -/
def execSectorRetirement (ses : Nat) (h : BitVec 256) (body : List Byte) (s : State) :
    Host.Outcome State Fault Refusal :=
  .next (mgmtKind (.sectorRetirement ses h body) ses h body 5 1 7 3 [(12, 4)] s fun s =>
    ({ s with phys := { s.phys with lsect := sat16 s.phys.lsect } }).answer ses h .ok [])

/-- ETHERNET_RESET (R329): the port is reset and back in service. -/
def execEthernetReset (ses : Nat) (h : BitVec 256) (body : List Byte) (s : State) : Host.Outcome State Fault Refusal :=
  .next (mgmtKind (.ethernetReset ses h body) ses h body 5 1 7 4 [(12, 4)] s fun s =>
    let p := repairTarget body
    if 12 ≤ p then s.answer ses h .badcmd []
    else ({ s with phys := { s.phys with eth := s.phys.eth ||| (1#12 <<< p) } }).answer ses h .ok [])

/-- ETHERNET_REMOVAL (R329). -/
def execEthernetRemoval (ses : Nat) (h : BitVec 256) (body : List Byte) (s : State) :
    Host.Outcome State Fault Refusal :=
  .next (mgmtKind (.ethernetRemoval ses h body) ses h body 5 1 7 5 [(12, 4)] s fun s =>
    let p := repairTarget body
    if 12 ≤ p then s.answer ses h .badcmd []
    else ({ s with phys := { s.phys with eth := s.phys.eth &&& ~~~(1#12 <<< p) } }).answer ses h .ok [])

/-- Sets the service bit of a CXL port, and the cycle since which it waits for IDE. -/
def State.setPort (s : State) (p : Nat) (on : Bool) (wait : Option Nat) : State :=
  let m : BitVec 16 := 1#16 <<< p
  { s with phys := { s.phys with cxl := if on then s.phys.cxl ||| m else s.phys.cxl &&& ~~~m
                                 cxlWait := s.phys.cxlWait.set none p wait } }

/-- CXL_RESET (R329): accesses behind the port wait until IDE is re-established. -/
def execCxlReset (ses : Nat) (h : BitVec 256) (body : List Byte) (s : State) : Host.Outcome State Fault Refusal :=
  .next (mgmtKind (.cxlReset ses h body) ses h body 5 1 7 6 [(12, 4)] s fun s =>
    let p := repairTarget body
    if 16 ≤ p then s.answer ses h .badcmd []
    else (s.setPort p false (some s.cycle)).answer ses h .ok [])

/-- Pages behind a port with bytes written since they were last written back: those in which a line may be dirty
(20 R348). -/
def State.portPages (s : State) (p : Nat) : List Nat :=
  ((s.hist.bytes.entries.filter fun e => (s.portsAt e.1).contains p &&
    e.2.ws.any fun w => s.phys.clean.get 0 (e.1 / 2 ^ 16) ≤ w.1).map fun e => e.1 / 2 ^ 16).eraseDups

/-- What waited for a port goes on: far accesses, completion signals, and the host's. -/
def State.portSettled (s : State) : State := (retrySignals (retryAll s)).release

/-- A port is removed: its memory is lost, and the pages of dirty lines bound there are retired. Which lines are dirty is
open: `choices` picks (log 6). -/
def removePort (p : Nat) (s : State) : State :=
  let s := s.setPort p false none
  ((s.portPages p).foldl (fun (s : State) g =>
    if s.phys.retired.get false g then s
    else
      let r := s.pick 2
      if r.1 = 0 then r.2.retire g else r.2) s).portSettled

/-- CXL_REMOVAL (R329). -/
def execCxlRemoval (ses : Nat) (h : BitVec 256) (body : List Byte) (s : State) : Host.Outcome State Fault Refusal :=
  .next (mgmtKind (.cxlRemoval ses h body) ses h body 5 1 7 7 [(12, 4)] s fun s =>
    let p := repairTarget body
    if 16 ≤ p then s.answer ses h .badcmd [] else (removePort p s).answer ses h .ok [])

/-- CXL_RESET_TIMEOUT (R329): after 2^26 cycles the reset is treated as a removal. -/
def execCxlResetTimeout (p : Nat) (s : State) : Host.Outcome State Fault Refusal :=
  match s.phys.cxlWait.get none p with
  | none => .next s
  | some t => if t + 2 ^ 26 ≤ s.cycle then .next (removePort p s) else .next s

/-- IDE_REESTABLISHED (R329): within 2^26 cycles the port is back in service, and what waited goes on. -/
def execIdeReestablished (p : Nat) (s : State) : Host.Outcome State Fault Refusal :=
  match s.phys.cxlWait.get none p with
  | none => .next s
  | some t => if s.cycle ≤ t + 2 ^ 26 then .next (s.setPort p true none).portSettled else .next s

/-- Target of a return to service. -/
def returnTarget (b : List Byte) : Nat := bodyAt b 16 8

/-- RETURN_CORE (R288): the score is reset. -/
def execReturnCore (ses : Nat) (h : BitVec 256) (body : List Byte) (s : State) : Host.Outcome State Fault Refusal :=
  .next (mgmtKind (.returnCore ses h body) ses h body 6 1 3 1 [(16, 8)] s fun s =>
    let c := returnTarget body
    let k := s.coreAt c
    if s.part.cores ≤ c then s.answer ses h .badcmd []
    else (s.setCoreAt c (if k.quar then { k with quar := false, susp := 0 } else k)).answer ses h .ok [])

/-- RETURN_CLUSTER (R329). -/
def execReturnCluster (ses : Nat) (h : BitVec 256) (body : List Byte) (s : State) : Host.Outcome State Fault Refusal :=
  .next (mgmtKind (.returnCluster ses h body) ses h body 6 1 3 2 [(16, 8)] s fun s =>
    let k := returnTarget body
    if s.part.clusters ≤ k then s.answer ses h .badcmd []
    else (s.setClusterAt k { s.clusterAt k with quar := false }).answer ses h .ok [])

/-- Every granule of a page is marked as scrubbed (22 R364). -/
def State.pageScrubbed (s : State) (g : Nat) : Bool :=
  (List.range 1024).all fun i => s.phys.scrubbed.get false (1024 * g + i)

/-- RETURN_PAGE (R272): a retired page returns after a scrub. -/
def execReturnPage (ses : Nat) (h : BitVec 256) (body : List Byte) (s : State) : Host.Outcome State Fault Refusal :=
  .next (mgmtKind (.returnPage ses h body) ses h body 6 1 3 3 [(16, 8)] s fun s =>
    let g := returnTarget body / 2 ^ 16
    if returnTarget body % 2 ^ 16 ≠ 0 || poolBytes ≤ returnTarget body || !s.pageScrubbed g then s.answer ses h .badcmd []
    else ({ s with phys := { s.phys with retired := s.phys.retired.set false g false } }).answer ses h .ok [])

/-- RAISE_FUSE_TACK_ROOM (R335): a fuse never decreases. -/
def execRaiseFuseTackRoom (ses : Nat) (h : BitVec 256) (body : List Byte) (s : State) :
    Host.Outcome State Fault Refusal :=
  .next (mgmtKind (.raiseFuseTackRoom ses h body) ses h body 7 0 1 0 [(12, 4)] s fun s =>
    ({ s with tack := { s.tack with fuseTack := max s.tack.fuseTack (bodyAt body 12 4) } }).answer ses h .ok [])

/-- RAISE_FUSE_PAVILION (R335). -/
def execRaiseFusePavilion (ses : Nat) (h : BitVec 256) (body : List Byte) (s : State) :
    Host.Outcome State Fault Refusal :=
  .next (mgmtKind (.raiseFusePavilion ses h body) ses h body 7 0 1 1 [(12, 4)] s fun s =>
    ({ s with tack := { s.tack with fusePav := max s.tack.fusePav (bodyAt body 12 4) } }).answer ses h .ok [])

/-- RESUME_SCRUB (R355): a HELD job runs on from its CKPT, and writes no progress word. -/
def execResumeScrub (ses : Nat) (h : BitVec 256) (body : List Byte) (s : State) : Host.Outcome State Fault Refusal :=
  .next (mgmt (.resumeScrub ses h body) ses h body 9 [(8, 1)] s fun s =>
    let j := bodyAt body 8 1
    let x := s.job j
    if 16 ≤ j then s.answer ses h .badcmd []
    else (if x.st = .held then s.setJob j { x with st := .run, issuer := none } else s).answer ses h .ok [])

/-! ## Resets (R344, R345, R363) -/

/-- A core after a reset at this cycle: what it holds is cleared. -/
def Core.cleared (k : Core) (cycle : Nat) : Core :=
  { k with assigned := .unowned, lastCtx := none, tlb := [], l1 := [], victims := [], bslots := .empty, groups := [], bins := .empty
           next := .empty, resetAt := cycle }

/-- A Pavilion after a reset: whether its image was accepted (R344 step 4), and with it whether it accepts sessions. -/
def Pav.restarted (p : Pav) (ok : Bool) : Pav :=
  { p with log := [], logSince := 0, lost := 0, sched := [], holder := none, qstart := 0, qlen := none
           enabled := ok, image := none }

/-- Every core of the part and every Pavilion as a map, changed by a function. -/
def State.restartAll (s : State) (core : Core → Core) (pav : Nat → Pav → Pav) : State :=
  let s := (List.range s.part.cores).foldl (fun (s : State) c => s.setCoreAt c (core (s.coreAt c))) s
  (List.range 16).foldl (fun (s : State) p => s.setPavAt p (pav p (s.pavAt p))) s

/-- Everything that a reset of either kind ends: contexts, sessions, launches, and what is in flight. Bytes that have been
written stay; no party that wrote them is left. -/
def State.endAll (s : State) : State :=
  { s with
    boot := .running, cur := 0, curSplit := 0, hist := ⟨.empty, .empty, [], .empty, []⟩, warps := .empty, blocks := .empty
    gangs := .empty, launches := .empty, ctxs := .empty, dieTlb := .empty, ops := [], held := [], rounds := []
    faults := [], waiting := [], late := [], sessions := .empty }

/-- The CXL links train with IDE (R344 step 6), and the HDM decoders are set (09 R164): which links come into service, and
which decoders there are, is open. -/
def State.train (s : State) : State :=
  let r := s.freeWord
  { r.2 with phys := { r.2.phys with cxl := r.1.setWidth 16, cxlWait := .empty
                                     decoders := Hdm.fit (Config.decoders s.free) } }

/-- The Pavilion that holds a physical page goes on holding it, as free (R363). -/
def Owner.pooled (s : State) (o : Owner) : Owner :=
  match o with
  | .ctx n => .pool (s.ctxAt n).pav
  | .gone p => .pool p
  | o => o

/-- A scrub job after a warm reset: a RUN job is HELD (R355). -/
def Job.afterReset (x : Job) : Job := { x with st := if x.st = .run then .held else x.st, issuer := none }

/-- A warm reset (R345): boot resumes at step 4, which accepts the images that `ok` names. -/
def warm (ok : Nat → Bool) (s : State) : State :=
  let owners : Sparse Owner := ⟨s.phys.owners.entries.map fun o => (o.1, o.2.pooled s)⟩
  let s := s.endAll
  let s := { s with
    phys := { s.phys with owners := owners }
    clusters := ⟨s.clusters.entries.map fun (k : Nat × Cluster) => (k.1, { Cluster.reset with quar := k.2.quar, leftAt := s.cycle, idleSince := s.cycle })⟩
    tack := { s.tack with
      slots := .empty, grants := [], eps := .empty, migOut := .empty, migIn := .empty
      jobs := ⟨s.tack.jobs.entries.map fun (j : Nat × Job) => (j.1, j.2.afterReset)⟩ } }
  (s.restartAll (fun k => k.cleared s.cycle) (fun p x => x.restarted (ok p))).train

/-- WARM_RESET, requested by the operator (R345). -/
def execWarmReset (ses : Nat) (h : BitVec 256) (body : List Byte) (s : State) : Host.Outcome State Fault Refusal :=
  .next (mgmt (.warmReset ses h body) ses h body 8 [] s fun s => warm s.pavOk (s.answer ses h .ok []))

/-- WATCHDOG_RESET (R345). -/
def execWatchdogReset (s : State) : Host.Outcome State Fault Refusal := .next (warm s.pavOk s)

/-- Steps 2 to 7 of a cold reset (R344); step 4 accepts the images that `ok` names. Pages have no owner and no core is
quarantined after it; a retired page stays so (16 R272). -/
def boot (ok : Nat → Bool) (s : State) : State :=
  let s := s.endAll
  let s := { s with
    phys := { s.phys with poison := .empty, owners := .empty, records := .empty, threshold := 64
                          eth := 0xFFF#12, extents := [] }
    clusters := .empty
    tack := { s.tack with
      boots := s.tack.boots + 1, slots := .empty, grants := [], jobs := .empty, eps := .empty, migOut := .empty
      migIn := .empty } }
  (s.restartAll (fun _ => { Core.reset with resetAt := s.cycle })
    (fun p x => { x.restarted (ok p) with cfg := pvcfgReset, col := 0 })).train

/-- COLD_RESET (R344): where the Tack Room image is not accepted, step 1 fails, and the device accepts the firmware-load
message only. -/
def execColdReset (s : State) : Host.Outcome State Fault Refusal :=
  if imageOk s.tackImage s.tack.fuseTack then .next (boot s.pavOk s) else .next { s.endAll with boot := .needFirmware }

/-- FIRMWARE_LOAD (R344, R337): an image that is accepted, at the version that its signed bytes carry, boots. -/
def execFirmwareLoad (m : FwImage) (s : State) : Host.Outcome State Fault Refusal :=
  let m := { m with version := Config.imageVersion m.bytes }
  if s.boot = .needFirmware && imageOk m s.tack.fuseTack then
    .next (boot s.pavOk { s with tack := { s.tack with code := some m, version := m.version } })
  else .next s

end Sys2Proof.Machine
end

