-- ==== Sys2Proof/Machine/Tack.lean ====
section
/-! DEFINITION. The Tack Room: the Skiver's chunks, derived keys, attestation, key loads and grants (20 R331 to R341, R353
to R355, 22 R361, R364). -/

namespace Sys2Proof.Machine

/-! ## The Skiver (R353, R361, R364) -/

/-- A table without the entries of a range of keys. -/
def eraseRange {V : Type} (m : Sparse V) (lo n : Nat) : Sparse V :=
  ⟨m.entries.filter fun e => !(lo ≤ e.1 && e.1 < lo + n)⟩

/-- Marks every granule of a page as scrubbed. -/
def markScrubbed (m : Sparse Bool) (page : Nat) : Sparse Bool :=
  (List.range 1024).foldl (fun m i => m.set false (1024 * page + i) true) m

/-- A physical page is scrubbed: zero bytes, fixed granules of label ∅ that read as zero under any key, no poison, and no
entry in a poison record. -/
def scrubPage (page : Nat) (s : State) : State :=
  let recs (xs : List Nat) : List Nat := xs.filter fun x => x / 1024 ≠ page
  { s with
    mem := s.mem.filter fun c => c.1 / 2 ^ 16 ≠ page
    hist := s.hist.forget (page * 2 ^ 16) (2 ^ 16)
    phys := { s.phys with
      grans := eraseRange s.phys.grans (1024 * page) 1024
      poison := eraseRange s.phys.poison (1024 * page) 1024
      scrubbed := markScrubbed s.phys.scrubbed page
      views := s.phys.views.set .fresh page .fresh
      records := ⟨s.phys.records.entries.map fun e => (e.1, recs e.2)⟩ } }

/-- The range of a block's window offsets that 64 KiB of the pool at an offset meet, for a window of `n` bytes at pool offset
`at_` and window offset `base` (R361): its first offset and its length. -/
def windowPart (at_ n base off : Nat) : Nat × Nat :=
  let lo := max at_ off
  (base + (lo - at_), min (at_ + n) (off + 2 ^ 16) - lo)

/-- A range of a block's window offsets is scrubbed: zero bytes, no poison, and granules fixed with label ∅. -/
def scrubWindow (id : Nat) (s : State) (r : Nat × Nat) : State :=
  let b := s.blockAt id
  let g := (r.1 / 64, r.2 / 64)
  { s with hist := s.hist.forget (scratchKey id r.1) r.2 }.setBlockAt id { b with
    mem := eraseRange b.mem r.1 r.2
    lbl := eraseRange b.lbl g.1 g.2
    poison := eraseRange b.poison g.1 g.2
    fixed := (List.range' g.1 g.2).foldl (fun m i => m.set false i true) b.fixed }

/-- Zeroes the windows that lie in 64 KiB of a core's pool at an offset. -/
def scrubWindows (core off : Nat) (s : State) : State :=
  (s.blocksOn core).foldl (fun (s : State) e =>
    let b := e.2
    [windowPart b.poolSp b.spBytes 0 off, windowPart b.poolAcc b.accBytes 0x200000 off].foldl (scrubWindow e.1) s) s

/-- Of some registers those that `choices` picks (log 59); all where it is empty. -/
def pickSome : List Nat → State → List Nat × State
  | [], s => ([], s)
  | k :: t, s =>
    let r := s.pick 2
    let x := pickSome t r.2
    (if r.1 = 0 then k :: x.1 else x.1, x.2)

/-- Zeroes registers of the warp in slot `k`: all of them, or those that `choices` picks. -/
def scrubRegs (all : Bool) (s : State) (k : Nat) : State :=
  let w := s.warpAt k
  let a := if all then (w.sregs.keys, s) else pickSome w.sregs.keys s
  let b := if all then (w.vregs.keys, s) else pickSome w.vregs.keys a.2
  let out {V : Type} (ks : List Nat) (m : Sparse V) : Sparse V := ⟨m.entries.filter fun e => !ks.contains e.1⟩
  b.2.setWarpAt k { w with sregs := out a.1 w.sregs, vregs := out b.1 w.vregs
                           poisonS := out a.1 w.poisonS, poisonV := out b.1 w.poisonV }

/-- Slots of a core that hold a warp. -/
def State.slotsOn (s : State) (core : Nat) : List Nat :=
  ((List.range 32).map fun j => 32 * core + j).filter fun k => (s.warpAt k).st != .free

/-- Bytes of the register share of a core: 16 KiB x RF of the launches that it runs (R361). -/
def State.regShare (s : State) (core : Nat) : Nat :=
  ((s.blocksOn core).map fun b => (s.launchAt b.2.lseq).partWord % 256 * 16384).headD 0

/-- Zeroes what lies in 64 KiB of a core's pool at an offset (R353, R361): windows, and registers where their share is met;
which of them lie there is open unless the whole share does. -/
def scrubPool (core off : Nat) (s : State) : State :=
  let n := s.regShare core
  let s := if off < n then (s.slotsOn core).foldl (scrubRegs (off = 0 && n ≤ 2 ^ 16)) s else s
  scrubWindows core off s

/-- Zeroes a core's register file, and empties its L1, TLB and B slots. -/
def scrubCore (core : Nat) (s : State) : State :=
  let s := s.setCoreAt core { s.coreAt core with tlb := [], l1 := [], bslots := .empty }
  (s.slotsOn core).foldl (scrubRegs true) s

/-- Writes chunk `i` of an extent. -/
def scrubExtent (e : BitVec 128) (i : Nat) (s : State) : State :=
  match extKind e with
  | 1 => scrubWindows (extCore e) (i * 2 ^ 16) (if i = 0 then scrubCore (extCore e) s else s)
  | 2 => scrubPool (extCore e) (extBase e + i * 2 ^ 16) s
  | _ => scrubPage (extBase e / 2 ^ 16 + i) s

/-- The extent and the chunk in it of a job's chunk number. -/
def chunkAt : List (BitVec 128) → Nat → Option (BitVec 128 × Nat)
  | [], _ => none
  | e :: t, n => if n < extChunks e then some (e, n) else chunkAt t (n - extChunks e)

/-- Chunks of a job. -/
def jobChunks (x : Job) : Nat := ((jobExtents x.desc).map extChunks).sum

/-- Writes a job's progress word in its issuer's address space; a write that may not be made is skipped. -/
def writeProgress (j : Nat) (s : State) : State :=
  let x := s.job j
  match x.issuer with
  | none => s
  | some c =>
    if !(s.ctxAt c).live then s
    else
      match s.checkVa farCore c true false [] .store (BitVec.ofNat 64 (fieldOf (jobHeader x.desc) 64 64)) with
      | .ok k _ => s.stampStore Party.remote [] k (jobWord j x).toNat 0#16
      | _ => s

/-- SCRUB_CHUNK (R353): a RUN job writes its next chunk, counts it, and writes its progress word; after the last it is
DONE. -/
def execScrubChunk (j : Nat) (s : State) : Host.Outcome State Fault Refusal :=
  let x := s.job j
  if 16 ≤ j || x.st ≠ .run then .next s
  else
    let n := match chunkAt (jobExtents x.desc) x.ckpt with
      | some _ => x.ckpt + 1
      | none => x.ckpt
    let s := match chunkAt (jobExtents x.desc) x.ckpt with
      | some (e, i) => scrubExtent e i s
      | none => s
    .next (writeProgress j (s.setJob j { x with
      ckpt := n, st := if jobChunks x ≤ n then .done else .run, assigned := [] }))

/-! ## Derived keys (R334) -/

/-- The security version of a requester: a Pavilion's firmware, or the Tack Room's. -/
def State.versionOf (s : State) (r : Nat) : Nat := if r < 16 then (s.pavAt r).version else s.tack.version

/-- The key derived from the root secret for a purpose, a context and a version (R334). -/
def derivedKey (purpose context v : Nat) : List Byte :=
  shake256 (Config.rootSecret ++ leBytes 4 purpose ++ leBytes 32 context ++ leBytes 4 v) 32

/-- DERIVE_KEY (R334): refused above the requester's own version. -/
def execDeriveKey (r : Nat) (purpose : BitVec 32) (context : BitVec 256) (v : BitVec 32) (s : State) :
    Host.Outcome State Fault Refusal :=
  if s.versionOf r < v.toNat then .next (s.send (.derived r none))
  else .next (s.send (.derived r (some (derivedKey purpose.toNat context.toNat v.toNat))))

/-! ## Attestation (R336 to R339) -/

/-- An SPDM endpoint. -/
def State.ep (s : State) (e : Nat) : Endpoint := s.tack.eps.get Endpoint.blank e

/-- Replaces an endpoint. -/
def State.setEp (s : State) (e : Nat) (x : Endpoint) : State :=
  { s with tack := { s.tack with eps := s.tack.eps.set Endpoint.blank e x } }

/-- Answers an SPDM message. -/
def State.spdm (s : State) (e : Nat) (r : SpdmResp) : State := s.send (.spdm e r)

/-- A signature of R336: 9,893 bytes, under the identity key, whose seeds are derived with P = 2, C = 0 and V = 0. -/
def signature (index : Nat) (m : List Byte) : List Byte :=
  let g := Config.sign (derivedKey 2 0 0) index m
  (List.range 9893).map fun i => g.getD i 0

/-- Signs a message: the counter rises before the signature is computed, with the index that it held; none once it has
reached 2^40 (R336). -/
def State.sign (s : State) (m : List Byte) : Option (List Byte × State) :=
  let n := s.tack.sigCounter
  if 2 ^ 40 ≤ n then none
  else some (signature n m, { s with tack := { s.tack with sigCounter := n + 1 } })

/-- Draws the Responder's nonce. -/
def State.nonce (s : State) : BitVec 256 × State :=
  (Config.spdmNonce s.tack.nonces, { s with tack := { s.tack with nonces := s.tack.nonces + 1 } })

/-- GET_VERSION: a new connection. -/
def execGetVersion (e : Nat) (s : State) : Host.Outcome State Fault Refusal :=
  .next ((s.setEp e { Endpoint.blank with version := true }).spdm e .version)

/-- GET_CAPABILITIES. -/
def execGetCapabilities (e : Nat) (s : State) : Host.Outcome State Fault Refusal :=
  let x := s.ep e
  if !x.version then .next (s.spdm e .error) else .next ((s.setEp e { x with caps := true }).spdm e .capabilities)

/-- NEGOTIATE_ALGORITHMS: the requester must offer each of the choices of R338. -/
def execNegotiateAlgorithms (e : Nat) (a : SpdmAlgs) (s : State) : Host.Outcome State Fault Refusal :=
  let x := s.ep e
  let ok := a.xmssExtAsym && a.sha3_384 && a.secp384r1 && a.aes256gcm
  if !x.caps then .next (s.spdm e .error) else .next ((s.setEp e { x with algs := ok }).spdm e (.algorithms ok))

/-- GET_DIGESTS: the digest of the chain of slot 0. -/
def execGetDigests (e : Nat) (s : State) : Host.Outcome State Fault Refusal :=
  let x := s.ep e
  if !x.algs then .next (s.spdm e .error)
  else .next ((s.setEp e { x with digests := true }).spdm e (.digests (sha3_384 Config.certChain)))

/-- GET_CERTIFICATE: a portion of the chain of slot 0 (R336), and how much of it follows. -/
def execGetCertificate (e slot off len : Nat) (s : State) : Host.Outcome State Fault Refusal :=
  let x := s.ep e
  let n := Config.certChain.length
  if !x.algs || slot ≠ 0 || n < off then .next (s.spdm e .error)
  else
    .next ((s.setEp e { x with cert := true }).spdm e
      (.certificate slot ((Config.certChain.drop off).take len) (n - min n (off + len))))

/-- CHALLENGE (R336): a signature over both nonces and the digest of the chain. -/
def execChallenge (e : Nat) (nonce : BitVec 256) (s : State) : Host.Outcome State Fault Refusal :=
  let x := s.ep e
  let r := s.nonce
  if !x.algs then .next (s.spdm e .error)
  else
    match r.2.sign (leBytes 32 nonce.toNat ++ leBytes 32 r.1.toNat ++
        leBytes 48 (sha3_384 Config.certChain).toNat) with
    | none => .next (s.spdm e .error)
    | some (g, s) => .next ((s.setEp e { x with challenged := true }).spdm e (.challengeAuth r.1 g))

/-- The context record that is measured (R339). -/
def Ctx.measured (c : Ctx) : List Byte :=
  leBytes 8 c.sched.toNat ++ leBytes 2 c.owners.toNat ++ (c.certs.map fun d => leBytes 48 d.toNat).flatten ++
    leBytes 8 c.handler.toNat ++ leBytes 4 c.faultTmo ++ leBytes 4 c.hangThr ++ leBytes 4 c.extTmo ++
    leBytes 1 (if c.isProt then 1 else 0) ++ (c.peers.map fun p => leBytes 32 p.toNat).flatten

/-- The code measurements of a context's last 16 launches, each with its LSEQ. -/
def State.launchMeasures (s : State) (c : Nat) : List Byte :=
  let ls := s.launches.entries.filter fun (l : Nat × Launch) => l.2.ctx = c && l.2.started
  ((ls.drop (ls.length - 16)).map fun l => leBytes 8 l.1 ++ leBytes 48 l.2.meas.toNat).flatten

/-- What a measurement index measures for an endpoint; all but the first need its session (R339), and the last two a session
for a context. -/
def State.measured (s : State) (x : Endpoint) (i : Nat) : Option (List Byte) :=
  let p := s.pavAt x.pav
  match i with
  | 1 => some (s.tackImage.bytes ++ leBytes 4 s.tack.version)
  | 2 => if x.keyed then some ((s.pavImage x.pav).bytes ++ leBytes 4 p.version) else none
  | 3 => if x.keyed then some (leBytes 8 p.cfg.toNat ++ leBytes 8 p.col.toNat ++ leBytes 8 s.inService.toNat) else none
  | 4 => if x.keyed && !x.device then some (s.ctxAt x.ctx).measured else none
  | 5 => if x.keyed && !x.device then some (s.launchMeasures x.ctx) else none
  | _ => none

/-- The measurement blocks that an index asks for: 0xFF asks for all. -/
def State.blocks339 (s : State) (x : Endpoint) (i : Nat) : List (Nat × BitVec 384) :=
  (if i = 0xFF then [1, 2, 3, 4, 5] else [i]).filterMap fun j => (s.measured x j).map fun b => (j, sha3_384 b)

/-- GET_MEASUREMENTS (R339). -/
def execGetMeasurements (e i : Nat) (signed : Bool) (s : State) : Host.Outcome State Fault Refusal :=
  let x := s.ep e
  let bs := s.blocks339 x i
  if !x.algs || bs = [] then .next (s.spdm e .error)
  else if !signed then .next (s.spdm e (.measurements bs []))
  else
    match s.sign (bs.map fun b => leBytes 1 b.1 ++ leBytes 48 b.2.toNat).flatten with
    | none => .next (s.spdm e .error)
    | some (g, s) => .next (s.spdm e (.measurements bs g))

/-- The requester of a KEY_EXCHANGE is who it says: an owner's certificate is the one bound to its slot at CTXCREATE
(R338); a device asks for a Pavilion, to which it means to move a context (R342). -/
def State.peerOk (s : State) (p c : Nat) (who : SpdmWho) (d : BitVec 384) : Bool :=
  let x := s.ctxAt c
  let here : Bool := x.live && x.pav = p
  match who with
  | .owner n => here && n < 16 && bitOf x.owners n && x.certs.getD n 0 == d
  | .tenant => here
  | .device => p < 16

/-- The owner's slot of a requester. -/
def ownerSlot (who : SpdmWho) : Option Nat :=
  match who with
  | .owner n => some n
  | _ => none

/-- KEY_EXCHANGE (R338): mutual authentication is required. -/
def execKeyExchange (e p c : Nat) (who : SpdmWho) (mutual_ : Bool) (d : BitVec 384) (s : State) :
    Host.Outcome State Fault Refusal :=
  let x := s.ep e
  let r := s.nonce
  if !x.algs || !mutual_ || !s.peerOk p c who d then .next (s.spdm e .error)
  else
    match r.2.sign (leBytes 32 r.1.toNat ++ leBytes 48 d.toNat) with
    | none => .next (s.spdm e .error)
    | some (g, s) =>
      .next ((s.setEp e { x with pav := p, ctx := if who = .device then 256 else c, owner := ownerSlot who
                                 device := who = .device, key := Config.sessionKey s.tack.nonces
                                 keyed := true, secured := false }).spdm e (.keyExchangeRsp r.1 g))

/-- FINISH (R338): the session is secured once the requester's message verifies. -/
def execFinish (e : Nat) (verified : Bool) (s : State) : Host.Outcome State Fault Refusal :=
  let x := s.ep e
  if !x.keyed || x.secured then .next (s.spdm e .error)
  else if !verified then .next ((s.setEp e { x with keyed := false }).spdm e .error)
  else .next ((s.setEp e { x with secured := true }).spdm e .finishRsp)

/-- END_SESSION (R338). A migration whose source ends its session so is not taken for lost (R343). -/
def execEndSession (e : Nat) (s : State) : Host.Outcome State Fault Refusal :=
  let x := s.ep e
  let close (m : Option MigIn) : Option MigIn := m.map fun y => if x.device && y.ep = e then { y with closed := true } else y
  if !x.secured then .next (s.spdm e .error)
  else
    let s := { s with tack := { s.tack with migIn := ⟨s.tack.migIn.entries.map fun (m : Nat × Option MigIn) => (m.1, close m.2)⟩ } }
    .next ((s.setEp e { x with keyed := false, secured := false, owner := none, device := false }).spdm e .endSessionAck)

/-! ## Keys and grants of owners (R332, R341) -/

/-- The message came in a secured session of an owner of the context: the owner's slot. -/
def State.ownerOf (s : State) (e : Nat) (secured : Bool) (c : Nat) : Option Nat :=
  let x := s.ep e
  if secured && x.secured && x.ctx = c && (s.ctxAt c).live then x.owner else none

/-- KEYLOAD (R332). -/
def execKeyload (e : Nat) (secured : Bool) (c kind : Nat) (key : BitVec 256) (s : State) :
    Host.Outcome State Fault Refusal :=
  match s.ownerOf e secured c, s.emptySlot with
  | some _, some k =>
    if kind = 1 || kind = 4 then .next ((s.fillSlot k kind c (s.ctxAt c).pav key).spdm e (.vendor Stat.ok.code k))
    else .next (s.spdm e (.vendor Stat.badcmd.code 0))
  | _, _ => .next (s.spdm e (.vendor Stat.badcmd.code 0))

/-- A grant of a context and slot that is still there. -/
def State.grantsOf (s : State) (c o : Nat) : List Grant :=
  s.tack.grants.filter fun g => g.ctx = c && g.slot = o && s.cycle < g.expiry

/-- Grants without one of a context, slot and measurement. -/
def dropGrant (c o : Nat) (m : BitVec 384) (gs : List Grant) : List Grant :=
  gs.filter fun g => !(g.ctx = c && g.slot = o && g.meas = m)

/-- Replaces the grants. -/
def State.setGrants (s : State) (gs : List Grant) : State := { s with tack := { s.tack with grants := gs } }

/-- GRANT (R341). -/
def execGrant (e : Nat) (secured : Bool) (c o : Nat) (m : BitVec 384) (budget : BitVec 32) (life : Nat) (s : State) :
    Host.Outcome State Fault Refusal :=
  let gs := dropGrant c o m s.tack.grants
  if s.ownerOf e secured c ≠ some o then .next (s.spdm e (.vendor Stat.badcmd.code 0))
  else if budget = 0 then .next ((s.setGrants gs).spdm e (.vendor Stat.ok.code 0))
  else if 16 ≤ (s.grantsOf c o).length && (s.grantsOf c o).all (fun g => g.meas ≠ m) then
    .next (s.spdm e (.vendor Stat.badcmd.code 0))
  else
    .next ((s.setGrants (gs ++ [⟨c, o, m, budget, s.cycle + life * 2 ^ 16⟩])).spdm e (.vendor Stat.ok.code 0))

/-- GRANT_EXPIRY (R341): grants of a context and slot whose expiry is reached are absent. -/
def execGrantExpiry (c o : Nat) (s : State) : Host.Outcome State Fault Refusal :=
  .next (s.setGrants (s.tack.grants.filter fun g => !(g.ctx = c && g.slot = o && g.expiry ≤ s.cycle)))

end Sys2Proof.Machine
end

