-- ==== Sys2Proof/Machine/Migration.lean ====
section
/-! DEFINITION. Migration of a context, at its source and at its destination (20 R342, R343). -/

namespace Sys2Proof.Machine

/-! ## The source -/

/-- The save of a gang for a migration begins: never a discard. -/
def beginSave (d : Nat) (s : State) (g : Nat) : State :=
  let x := s.gangAt g
  if x.saved || x.preempt.isSome then s else s.setGangAt g { x with preempt := some (s.cycle, d) }

/-- Each command held since step 1 is reported failed (R343). -/
def failHeld (y : MigOut) (s : State) : State := y.queued.foldl (fun s q => s.answer q.1 q.2 .fault []) s

/-- The context is restored in place: its migration slot is zeroised, and the command and those held with it are reported
failed (R343). -/
def restoreInPlace (i : Nat) (y : MigOut) (s : State) : State :=
  let s := (s.setKeySlot y.slot KeySlot.blank).setLeaving i none
  let s := s.setCtxAt y.ctx { s.ctxAt y.ctx with held := false }
  let s := failHeld y (s.answer y.ses y.hdr .fault [])
  (List.range 16).foldl (fun s q => settleQueue y.ctx q s) s

/-- The versions of a destination are no older than this device's own (R342 step 1). -/
def State.peerNew (s : State) (y : MigOut) (p : MigPeer) : Bool :=
  s.tack.version ≤ p.tackVersion && (s.pavAt (s.ctxAt y.ctx).pav).version ≤ p.pavVersion

/-- Where the session with the destination is there the migration goes on, or is given up where the destination's versions
are older (log 76). -/
def meetPeer (c : Nat) (s : State) : State :=
  match s.leaving c, s.arrival.peer with
  | some (i, y), some p =>
    if y.peer.isSome || y.st = .sent then settleMigration c s
    else if s.peerNew y p then settleMigration c (s.setLeaving i (some { y with peer := some p }))
    else restoreInPlace i y s
  | _, _ => settleMigration c s

/-- Step 1: the context is held, its audit runs are given up, the save of its gangs begins, and a session to the destination's
Tack Room is opened. -/
def startMigration (ses : Nat) (h : BitVec 256) (body : List Byte) (c : Nat) (s : State) : State :=
  let x := s.ctxAt c
  let f := s.fresh
  let m : MigOut := { ctx := c, ses := ses, hdr := h, dest := BitVec.ofNat 128 (bodyAt body 0 16)
                      destPav := bodyAt body 16 1, st := .saving, peer := none, slot := 0, since := s.cycle, asked := 0, queued := [] }
  let s := ((f.2.setCtxAt c { x with held := true }).setLeaving f.1 (some m)).send (.mig f.1 .openSession)
  let audit (g : Nat × Gang) : Bool := g.2.blocks.any fun b => (s.blockAt b).audit
  let s' := ((s.gangsOf c).filter audit).foldl (fun s g => dropGang g.1 s) s
  let d := s'.cycle + (s'.pavAt x.pav).pdl
  meetPeer c ((s'.gangsOf c).foldl (fun s g => beginSave d s g.1) s')

/-- MIGRATE (R342). The event of a migration that has not sent its state carries it on. -/
def execMigrate (ses : Nat) (h : BitVec 256) (body : List Byte) (s : State) : Host.Outcome State Fault Refusal :=
  let mine : Bool := match s.leaving (hCtx h) with
    | some (_, y) => y.ses = ses && y.hdr = h && y.st == .saving
    | none => false
  if mine then .next (meetPeer (hCtx h) s)
  else
    .next (ctxCommand (.migrate ses h body) ses h body 8 s fun c s =>
      if body.length ≠ 32 || 16 ≤ bodyAt body 16 1 || !zeros body 17 15 then s.answer ses h .badcmd []
      else startMigration ses h body c s)

/-- The migration of a number that has sent its state. -/
def State.sentMig (s : State) (i : Nat) : Option MigOut :=
  (s.tack.migOut.get none i).bind fun y => if y.st = .sent then some y else none

/-- Zeroises every key slot of a context, its memory key among them. -/
def zeroSlots (c : Nat) (s : State) : State :=
  { s with tack := { s.tack with
    slots := ⟨s.tack.slots.entries.filter fun k => !(k.2.ctx = c && !k.2.dead)⟩ } }

/-- A confirmation that came outside a secured session is rejected (R338). -/
def State.rejectMig (s : State) (i : Nat) : State := s.send (.mig i .badcmd)

/-- PREPARED (R342 step 4): the context's key slots are zeroised, its grants deleted, COMMIT is sent, and the context is
gone from this device. -/
def execPrepared (i : Nat) (s : State) : Host.Outcome State Fault Refusal :=
  match s.sentMig i with
  | none => .next s
  | some y =>
    if !s.arrival.secured then .next (s.rejectMig i) else
    let s := (destroyContext y.ctx (zeroSlots y.ctx s)).setLeaving i none
    .next (failHeld y ((s.send (.mig i .commit)).answer y.ses y.hdr .ok []))

/-- REFUSED, or the answer NONE to an OUTCOME (R343): the migration slot is zeroised and the context restored in place. -/
def execRefused (i : Nat) (asNone : Bool) (s : State) : Host.Outcome State Fault Refusal :=
  match s.sentMig i with
  | none => .next s
  | some y =>
    if !s.arrival.secured then .next (s.rejectMig i)
    else if asNone && y.asked = 0 then .next s
    else .next (restoreInPlace i y s)

/-- The source opens a new session to the destination's Tack Room and asks OUTCOME. -/
def askOutcome (i : Nat) (y : MigOut) (s : State) : State :=
  ((s.setLeaving i (some { y with asked := s.cycle })).send (.mig i .openSession)).send (.mig i .askOutcome)

/-- MIGRATION_SILENCE (R343): no answer within 2^30 cycles of step 2. -/
def execMigrationSilence (i : Nat) (s : State) : Host.Outcome State Fault Refusal :=
  match s.sentMig i with
  | none => .next s
  | some y => if y.asked = 0 && y.since + 2 ^ 30 ≤ s.cycle then .next (askOutcome i y s) else .next s

/-- MIGRATION_OUTCOME_POLL (R343): every 2^26 cycles until an answer arrives. -/
def execMigrationOutcomePoll (i : Nat) (s : State) : Host.Outcome State Fault Refusal :=
  match s.sentMig i with
  | none => .next s
  | some y => if y.asked ≠ 0 && y.asked + 2 ^ 26 ≤ s.cycle then .next (askOutcome i y s) else .next s

/-! ## The destination -/

/-- Replaces the record of a migration this device is the destination of. -/
def State.setArriving (s : State) (i : Nat) (m : Option MigIn) : State :=
  { s with tack := { s.tack with migIn := s.tack.migIn.set none i m } }

/-- Highest of some numbers, plus 1. -/
def above (xs : List Nat) : Nat := xs.foldl (fun m x => max m (x + 1)) 0

/-- A split on a device where names are shifted by `k`: its `bowait` names its block by the new name. -/
def Split.shift (x : Split) (k : Nat) : Split :=
  match x.st with
  | .swait (.bowait d b off ph c) => { x with st := .swait (.bowait d (b + k) off ph c), heldOn := [] }
  | _ => { x with heldOn := [] }

/-- A warp on a device where names are shifted by `k` and sequence numbers by `l`. No history of the source is kept. -/
def Warp.shift (w : Warp) (c k l : Nat) : Warp :=
  { w with uid := w.uid + k, ctx := c, lseq := w.lseq + l, block := w.block + k, hb := .empty, acq := .empty
           rel := .empty, hbBase := [], batchHb := [], tileHb := []
           splits := ⟨w.splits.entries.map fun e => (e.1, e.2.shift k)⟩ }

/-- A gang, likewise. -/
def Gang.shift (g : Gang) (c k l : Nat) : Gang :=
  { g with lseq := g.lseq + l, ctx := c, blocks := g.blocks.map (· + k), preempt := none, stamp := 0
           warps := g.warps.map fun w => (w.1, w.2.shift c k l)
           bins := g.bins.map fun b => { b with block := b.block + k }
           reqs := g.reqs.map fun r => { r with block := r.block + k, warp := r.warp + k, hb := [] }
           slots := g.slots.map fun e => (e.1 + k, e.2.1, { e.2.2 with owner := e.2.2.owner + k, hb := [] }) }

/-- A block, likewise. -/
def Block.shift (b : Block) (c k l : Nat) : Block :=
  { b with lseq := b.lseq + l, ctx := c, gang := b.gang + k, objHb := .empty }

/-- A queued command, likewise. -/
def QCmd.shift (q : QCmd) (l : Nat) : QCmd :=
  match q with
  | .launch n => .launch (n + l)
  | q => q

/-- The physical pages of a moved context can be its own here. -/
def State.pagesFree (s : State) (p : Nat) (gs : List Nat) : Bool :=
  gs.all fun g =>
    let o := s.phys.owners.get .unowned g
    o = .unowned || o = .pool p

/-- The checks of step 3: the Pavilion takes a context, and its key slots and pages are free here. -/
def State.canReceive (s : State) (m : MovedState) : Bool :=
  m.pav < 16 && s.createStat m.pav m.ctx.sched = .ok && m.slots.all (fun k => !(s.keySlot k.1).used) &&
    s.pagesFree m.pav m.pages

/-- Creates the moved context, held until it is activated. -/
def receive (c idx : Nat) (m : MovedState) (s : State) : State :=
  let k := s.nextId
  let l := s.lseq
  let x := m.ctx
  let x := { x with
    pav := m.pav, pidx := idx, held := true, vt := 0, lastGrant := 0, overrun := 0, wasIdle := true, hang := s.cycle
    queues := ⟨x.queues.entries.map fun (q : Nat × Queue) =>
      (q.1, { q.2 with cmds := q.2.cmds.map fun y => y.shift l, hb := [] })⟩ }
  let s := s.setCtxAt c x
  let s := m.slots.foldl (fun (s : State) e => s.setKeySlot e.1 { e.2 with ctx := c, pav := m.pav }) s
  let s := s.setGrants (s.tack.grants ++ m.grants.map fun g => { g with ctx := c })
  let s := { s with phys := { s.phys with
    owners := m.pages.foldl (fun (o : Sparse Owner) g => o.set .unowned g (.ctx c)) s.phys.owners } }
  let s := m.launches.foldl (fun (s : State) e =>
    s.setLaunchAt (e.1 + l) { e.2 with ctx := c, hb := [], firstId := 0 }) s
  let s := m.gangs.foldl (fun (s : State) e => s.setGangAt (e.1 + k) (e.2.shift c k l)) s
  let s := m.blocks.foldl (fun (s : State) e => s.setBlockAt (e.1 + k) (e.2.shift c k l)) s
  let names := m.gangs.map Prod.fst ++ m.blocks.map Prod.fst ++ (m.gangs.map fun g => g.2.warps.map fun w => w.2.uid).flatten
  { s with nextId := k + above names, lseq := l + above (m.launches.map Prod.fst) }

/-- Step 3 (R342, R343): the state held is opened with the session's key, the context made and PREPARED sent; or the state is
deleted and REFUSED sent. -/
def openHeld (i : Nat) (y : MigIn) (data : List Byte) (key : BitVec 256) (s : State) : State :=
  let refuse := (s.setArriving i (some { y with st := .ended })).send (.mig i .refused)
  match openState key data with
  | none => refuse
  | some m =>
    let live := s.ctxs.entries.filter fun c => c.2.live
    match lowestFree 256 (live.map Prod.fst),
        lowestFree 64 ((live.filter fun c => c.2.pav = m.pav).map fun c => c.2.pidx) with
    | some c, some idx =>
      if s.canReceive m then
        ((receive c idx m s).setArriving i (some { y with st := .prepared, ctx := c })).send (.mig i .prepared)
      else refuse
    | _, _ => refuse

/-- The session in which a migration's source speaks is secured (R338). -/
def State.peerSecured (s : State) : Bool := (s.ep s.arrival.ep).secured && (s.ep s.arrival.ep).device

/-- The message came in that session. -/
def State.fromSource (s : State) : Bool := s.arrival.secured && s.peerSecured

/-- MIGRATION_STATE_RECEIVE (R342 steps 2 and 3): the state is received and held unusable, and opened at once or
by a later event. Nothing is received twice. -/
def execMigrationStateReceive (i : Nat) (data : List Byte) (s : State) : Host.Outcome State Fault Refusal :=
  match s.tack.migIn.get none i with
  | some y =>
    match y.st with
    | .holding d key => .next (if s.arrival.later then s else openHeld i y d key s)
    | _ => .next s
  | none =>
    let key := (s.ep s.arrival.ep).key
    let y : MigIn := ⟨.holding data key, 0, s.arrival.ep, false, none⟩
    if !s.peerSecured then .next (s.rejectMig i)
    else .next (if s.arrival.later then s.setArriving i (some y) else openHeld i y data key s)

/-- A prepared context is activated: it runs, and its queues go on. -/
def activate (c : Nat) (s : State) : State :=
  let s := s.setCtxAt c { s.ctxAt c with held := false }
  (List.range 16).foldl (fun s q => settleQueue c q s) s

/-- COMMIT (R342 step 4): the context is activated if it is not yet; the outcome record has served. -/
def execCommit (i : Nat) (s : State) : Host.Outcome State Fault Refusal :=
  match s.tack.migIn.get none i with
  | none => .next s
  | some y =>
    if !s.fromSource then .next (s.rejectMig i) else
    match y.st with
    | .holding .. => .next s
    | .prepared => .next (activate y.ctx (s.setArriving i (some { y with st := .ended })))
    | .active => .next (s.setArriving i (some { y with st := .ended }))
    | .ended => .next s

/-- OUTCOME (R343), in a new session: PREPARED where it has been sent or the context is active, else NONE, with which state
held is deleted and after which none is received. -/
def execOutcome (i : Nat) (s : State) : Host.Outcome State Fault Refusal :=
  if !s.fromSource then .next (s.rejectMig i) else
  match s.tack.migIn.get none i with
  | none => .next ((s.setArriving i (some ⟨.ended, 0, s.arrival.ep, false, none⟩)).send (.mig i .answerNone))
  | some y =>
    let y := { y with ep := s.arrival.ep, closed := false, lostSince := none }
    match y.st with
    | .holding .. => .next ((s.setArriving i (some { y with st := .ended })).send (.mig i .answerNone))
    | .prepared => .next ((s.setArriving i (some y)).send (.mig i .answerPrepared))
    | .active => .next ((s.setArriving i (some { y with st := .ended })).send (.mig i .answerPrepared))
    | .ended => .next (s.send (.mig i .answerNone))

/-- MIGRATION_SOURCE_LOSS (R343): the session with the source is found lost, and has not ended by END_SESSION; after 2^26 cycles the
prepared context is activated, and an outcome record kept. -/
def execMigrationSourceLoss (i : Nat) (s : State) : Host.Outcome State Fault Refusal :=
  match s.tack.migIn.get none i with
  | none => .next s
  | some y =>
    if y.st ≠ .prepared || y.closed then .next s
    else
      match y.lostSince with
      | none => .next (s.setArriving i (some { y with lostSince := some s.cycle }))
      | some t =>
        if t + 2 ^ 26 ≤ s.cycle then .next (activate y.ctx (s.setArriving i (some { y with st := .active }))) else .next s

end Sys2Proof.Machine
end

