-- ==== Sys2Proof/Machine/Dispatch.lean ====
section
/-! DEFINITION. One arm per constructor of `Instr`: each calls its meaning. -/

namespace Sys2Proof.Machine

/-- The effect of an instruction or step on the state. -/
def exec (i : Instr) (s : State) : Host.Outcome State Fault Refusal :=
  match i with
  | .braZ p c o => Sys2Proof.Machine.execBraZ p c o s
  | .braNz p c o => Sys2Proof.Machine.execBraNz p c o s
  | .brd p c o => Sys2Proof.Machine.execBrd p c o s
  | .call p c o => Sys2Proof.Machine.execCall p c o s
  | .jmpi p a => Sys2Proof.Machine.execJmpi p a s
  | .ret p a => Sys2Proof.Machine.execRet p a s
  | .sread p d n => Sys2Proof.Machine.execSread p d n s
  | .sreadClr p d n => Sys2Proof.Machine.execSreadClr p d n s
  | .swid p d n => Sys2Proof.Machine.execSwid p d n s
  | .vwid p d n => Sys2Proof.Machine.execVwid p d n s
  | .spawn p a b => Sys2Proof.Machine.execSpawn p a b s
  | .trap p n => Sys2Proof.Machine.execTrap p n s
  | .bar p d n => Sys2Proof.Machine.execBar p d n s
  | .barg p d n => Sys2Proof.Machine.execBarg p d n s
  | .nop p => Sys2Proof.Machine.execNop p s
  | .join p => Sys2Proof.Machine.execJoin p s
  | .exit => Sys2Proof.Machine.execExit s
  | .yield p => Sys2Proof.Machine.execYield p s
  | .sadd p d a b => Sys2Proof.Machine.execSadd p d a b s
  | .ssub p d a b => Sys2Proof.Machine.execSsub p d a b s
  | .smul p d a b => Sys2Proof.Machine.execSmul p d a b s
  | .smulh p d a b => Sys2Proof.Machine.execSmulh p d a b s
  | .sdiv p d a b => Sys2Proof.Machine.execSdiv p d a b s
  | .srem p d a b => Sys2Proof.Machine.execSrem p d a b s
  | .sand p d a b => Sys2Proof.Machine.execSand p d a b s
  | .sor p d a b => Sys2Proof.Machine.execSor p d a b s
  | .sxor p d a b => Sys2Proof.Machine.execSxor p d a b s
  | .sshl p d a b => Sys2Proof.Machine.execSshl p d a b s
  | .sshr p d a b => Sys2Proof.Machine.execSshr p d a b s
  | .ssra p d a b => Sys2Proof.Machine.execSsra p d a b s
  | .srot p d a b => Sys2Proof.Machine.execSrot p d a b s
  | .smin p d a b => Sys2Proof.Machine.execSmin p d a b s
  | .smax p d a b => Sys2Proof.Machine.execSmax p d a b s
  | .scmp p d a b c => Sys2Proof.Machine.execScmp p d a b c s
  | .ssel p d a b => Sys2Proof.Machine.execSsel p d a b s
  | .smovi p d im => Sys2Proof.Machine.execSmovi p d im s
  | .smovh p d im => Sys2Proof.Machine.execSmovh p d im s
  | .saddi p d im => Sys2Proof.Machine.execSaddi p d im s
  | .spopc p d a => Sys2Proof.Machine.execSpopc p d a s
  | .sclz p d a => Sys2Proof.Machine.execSclz p d a s
  | .sctz p d a => Sys2Proof.Machine.execSctz p d a s
  | .sbrev p d a => Sys2Proof.Machine.execSbrev p d a s
  | .sbfx p d a b => Sys2Proof.Machine.execSbfx p d a b s
  | .sbfi p d a b => Sys2Proof.Machine.execSbfi p d a b s
  | .sld p d a b w => Sys2Proof.Machine.execSld p d a b w s
  | .sst p d a b w => Sys2Proof.Machine.execSst p d a b w s
  | .sldc p d n => Sys2Proof.Machine.execSldc p d n s
  | .mode p a => Sys2Proof.Machine.execMode p a s
  | .modei p im => Sys2Proof.Machine.execModei p im s
  | .lget p d a => Sys2Proof.Machine.execLget p d a s
  | .lgetV p d a => Sys2Proof.Machine.execLgetV p d a s
  | .ljoin p d a b => Sys2Proof.Machine.execLjoin p d a b s
  | .ljoinV p d a b => Sys2Proof.Machine.execLjoinV p d a b s
  | .lchk p d a b => Sys2Proof.Machine.execLchk p d a b s
  | .ltcompact p => Sys2Proof.Machine.execLtcompact p s
  | .dcls p d a g => Sys2Proof.Machine.execDcls p d a g s
  | .dclsS p d a g => Sys2Proof.Machine.execDclsS p d a g s
  | .vadd p d a b => Sys2Proof.Machine.execVadd p d a b s
  | .vsub p d a b => Sys2Proof.Machine.execVsub p d a b s
  | .vmul p d a b => Sys2Proof.Machine.execVmul p d a b s
  | .vmulh p d a b => Sys2Proof.Machine.execVmulh p d a b s
  | .vmad p d a b => Sys2Proof.Machine.execVmad p d a b s
  | .vfma p d a b => Sys2Proof.Machine.execVfma p d a b s
  | .vmin p d a b => Sys2Proof.Machine.execVmin p d a b s
  | .vmax p d a b => Sys2Proof.Machine.execVmax p d a b s
  | .vabs p d a => Sys2Proof.Machine.execVabs p d a s
  | .vneg p d a => Sys2Proof.Machine.execVneg p d a s
  | .vdiv p d a b => Sys2Proof.Machine.execVdiv p d a b s
  | .vsqrt p d a => Sys2Proof.Machine.execVsqrt p d a s
  | .vrcp p d a => Sys2Proof.Machine.execVrcp p d a s
  | .vrsq p d a => Sys2Proof.Machine.execVrsq p d a s
  | .vexp2 p d a => Sys2Proof.Machine.execVexp2 p d a s
  | .vlog2 p d a => Sys2Proof.Machine.execVlog2 p d a s
  | .vsin p d a => Sys2Proof.Machine.execVsin p d a s
  | .vcos p d a => Sys2Proof.Machine.execVcos p d a s
  | .vcvt p d a t => Sys2Proof.Machine.execVcvt p d a t s
  | .vand p d a b => Sys2Proof.Machine.execVand p d a b s
  | .vor p d a b => Sys2Proof.Machine.execVor p d a b s
  | .vxor p d a b => Sys2Proof.Machine.execVxor p d a b s
  | .vnot p d a => Sys2Proof.Machine.execVnot p d a s
  | .vshl p d a b => Sys2Proof.Machine.execVshl p d a b s
  | .vshr p d a b => Sys2Proof.Machine.execVshr p d a b s
  | .vsra p d a b => Sys2Proof.Machine.execVsra p d a b s
  | .vbfx p d a b => Sys2Proof.Machine.execVbfx p d a b s
  | .vbfi p d a b => Sys2Proof.Machine.execVbfi p d a b s
  | .vpopc p d a => Sys2Proof.Machine.execVpopc p d a s
  | .vclz p d a => Sys2Proof.Machine.execVclz p d a s
  | .vbrev p d a => Sys2Proof.Machine.execVbrev p d a s
  | .vcmp p d a b c => Sys2Proof.Machine.execVcmp p d a b c s
  | .vsel p d a b => Sys2Proof.Machine.execVsel p d a b s
  | .vmov p d a => Sys2Proof.Machine.execVmov p d a s
  | .vmovs p d b => Sys2Proof.Machine.execVmovs p d b s
  | .vmovi p d im => Sys2Proof.Machine.execVmovi p d im s
  | .vqadd p d a b => Sys2Proof.Machine.execVqadd p d a b s
  | .vqsub p d a b => Sys2Proof.Machine.execVqsub p d a b s
  | .vqmul p d a b => Sys2Proof.Machine.execVqmul p d a b s
  | .vqbfly p d a b => Sys2Proof.Machine.execVqbfly p d a b s
  | .vqbflyi p d a b => Sys2Proof.Machine.execVqbflyi p d a b s
  | .vshfl p d a b m => Sys2Proof.Machine.execVshfl p d a b m s
  | .vshflS p d a b m => Sys2Proof.Machine.execVshflS p d a b m s
  | .vballot p d a => Sys2Proof.Machine.execVballot p d a s
  | .vred p d a o => Sys2Proof.Machine.execVred p d a o s
  | .vscan p d a o e => Sys2Proof.Machine.execVscan p d a o e s
  | .vbcast p d a b => Sys2Proof.Machine.execVbcast p d a b s
  | .vbxch p d a b => Sys2Proof.Machine.execVbxch p d a b s
  | .vmatch p d a => Sys2Proof.Machine.execVmatch p d a s
  | .vld p d b o w => Sys2Proof.Machine.execVld p d b o w s
  | .vst p d b o w => Sys2Proof.Machine.execVst p d b o w s
  | .vldAcqB32 p d b o sc => Sys2Proof.Machine.execVldAcqB32 p d b o sc s
  | .vldAcqB64 p d b o sc => Sys2Proof.Machine.execVldAcqB64 p d b o sc s
  | .vstRelB32 p d b o sc => Sys2Proof.Machine.execVstRelB32 p d b o sc s
  | .vstRelB64 p d b o sc => Sys2Proof.Machine.execVstRelB64 p d b o sc s
  | .vldScB32 p d b o sc => Sys2Proof.Machine.execVldScB32 p d b o sc s
  | .vldScB64 p d b o sc => Sys2Proof.Machine.execVldScB64 p d b o sc s
  | .vstScB32 p d b o sc => Sys2Proof.Machine.execVstScB32 p d b o sc s
  | .vstScB64 p d b o sc => Sys2Proof.Machine.execVstScB64 p d b o sc s
  | .vlds p d b o w => Sys2Proof.Machine.execVlds p d b o w s
  | .vsts p d b o w => Sys2Proof.Machine.execVsts p d b o w s
  | .vldp p d b o w => Sys2Proof.Machine.execVldp p d b o w s
  | .vstp p d b o w => Sys2Proof.Machine.execVstp p d b o w s
  | .sprf p a b l => Sys2Proof.Machine.execSprf p a b l s
  | .fence p k sc => Sys2Proof.Machine.execFence p k sc s
  | .mwait p d a b c => Sys2Proof.Machine.execMwait p d a b c s
  | .rhint p a b h => Sys2Proof.Machine.execRhint p a b h s
  | .vatomB32 p d b o x => Sys2Proof.Machine.execVatomB32 p d b o x s
  | .vatomB64 p d b o x => Sys2Proof.Machine.execVatomB64 p d b o x s
  | .vratomB32 p d b o x => Sys2Proof.Machine.execVratomB32 p d b o x s
  | .vratomB64 p d b o x => Sys2Proof.Machine.execVratomB64 p d b o x s
  | .satom p d a b w o => Sys2Proof.Machine.execSatom p d a b w o s
  | .boinit p a b => Sys2Proof.Machine.execBoinit p a b s
  | .boarr p d a b => Sys2Proof.Machine.execBoarr p d a b s
  | .bowait p d a b => Sys2Proof.Machine.execBowait p d a b s
  | .boexp p a b => Sys2Proof.Machine.execBoexp p a b s
  | .vcpy p d a w => Sys2Proof.Machine.execVcpy p d a w s
  | .cbatch p d => Sys2Proof.Machine.execCbatch p d s
  | .cwait p a => Sys2Proof.Machine.execCwait p a s
  | .kick p a => Sys2Proof.Machine.execKick p a s
  | .rput p a b => Sys2Proof.Machine.execRput p a b s
  | .rget p a b => Sys2Proof.Machine.execRget p a b s
  | .mldb p a b n => Sys2Proof.Machine.execMldb p a b n s
  | .mfree p n => Sys2Proof.Machine.execMfree p n s
  | .munf p a => Sys2Proof.Machine.execMunf p a s
  | .mmq p a => Sys2Proof.Machine.execMmq p a s
  | .mscaleA p a b => Sys2Proof.Machine.execMscaleA p a b s
  | .mscaleB p a b => Sys2Proof.Machine.execMscaleB p a b s
  | .mstat p d c => Sys2Proof.Machine.execMstat p d c s
  | .mchk p d c => Sys2Proof.Machine.execMchk p d c s
  | .fopen p d a b => Sys2Proof.Machine.execFopen p d a b s
  | .fclose p a => Sys2Proof.Machine.execFclose p a s
  | .fsend p a b => Sys2Proof.Machine.execFsend p a b s
  | .fsendDefer p a b => Sys2Proof.Machine.execFsendDefer p a b s
  | .fcomb p a b o => Sys2Proof.Machine.execFcomb p a b o s
  | .eret => Sys2Proof.Machine.execEret s
  | .tlbinv p a b sc => Sys2Proof.Machine.execTlbinv p a b sc s
  | .cinv p a b l => Sys2Proof.Machine.execCinv p a b l s
  | .kzero p a b => Sys2Proof.Machine.execKzero p a b s
  | .kstat p d a => Sys2Proof.Machine.execKstat p d a s
  | .scrub p d a => Sys2Proof.Machine.execScrub p d a s
  | .cassign p d a b => Sys2Proof.Machine.execCassign p d a b s
  | .splitMergeEarly w a b => Sys2Proof.Machine.execSplitMergeEarly w a b s
  | .loadReturn w id => Sys2Proof.Machine.execLoadReturn w id s
  | .mwaitWake w sp => Sys2Proof.Machine.execMwaitWake w sp s
  | .spawnBinTimer core bin => Sys2Proof.Machine.execSpawnBinTimer core bin s
  | .spawnBinLaunch core bin => Sys2Proof.Machine.execSpawnBinLaunch core bin s
  | .slotDrainDone w => Sys2Proof.Machine.execSlotDrainDone w s
  | .localityDecay core => Sys2Proof.Machine.execLocalityDecay core s
  | .starvationIssue w sp => Sys2Proof.Machine.execStarvationIssue w sp s
  | .laneCopy op => Sys2Proof.Machine.execLaneCopy op s
  | .requestElement op im => Sys2Proof.Machine.execRequestElement op im s
  | .requestComplete op => Sys2Proof.Machine.execRequestComplete op s
  | .remoteSourceRead op => Sys2Proof.Machine.execRemoteSourceRead op s
  | .remotePutArrival m => Sys2Proof.Machine.execRemotePutArrival m s
  | .remoteGetArrival m => Sys2Proof.Machine.execRemoteGetArrival m s
  | .rgetDataReturn op r => Sys2Proof.Machine.execRgetDataReturn op r s
  | .remoteHoldTimeout held => Sys2Proof.Machine.execRemoteHoldTimeout held s
  | .sendArrival m => Sys2Proof.Machine.execSendArrival m s
  | .sendDeferAdmit held => Sys2Proof.Machine.execSendDeferAdmit held s
  | .sendStatus op status => Sys2Proof.Machine.execSendStatus op status s
  | .sendUnreachable op => Sys2Proof.Machine.execSendUnreachable op s
  | .combinerContribution src hdr payload bad => Sys2Proof.Machine.execCombinerContribution src hdr payload bad s
  | .combinerTimeout group seq => Sys2Proof.Machine.execCombinerTimeout group seq s
  | .combineResult op hdr payload => Sys2Proof.Machine.execCombineResult op hdr payload s
  | .passGroupLaunch core group => Sys2Proof.Machine.execPassGroupLaunch core group s
  | .passExecute core group err => Sys2Proof.Machine.execPassExecute core group err s
  | .passDrain core group => Sys2Proof.Machine.execPassDrain core group s
  | .slotLoad core slot => Sys2Proof.Machine.execSlotLoad core slot s
  | .eccUncorrectable site => Sys2Proof.Machine.execEccUncorrectable site s
  | .hangDetect ctx => Sys2Proof.Machine.execHangDetect ctx s
  | .refusalLogFlush pav => Sys2Proof.Machine.execRefusalLogFlush pav s
  | .faultTimeout tag => Sys2Proof.Machine.execFaultTimeout tag s
  | .gangDispatch lseq gang cluster => Sys2Proof.Machine.execGangDispatch lseq gang cluster s
  | .launchReady ctx queue => Sys2Proof.Machine.execLaunchReady ctx queue s
  | .launchStart lseq => Sys2Proof.Machine.execLaunchStart lseq s
  | .launchComplete lseq => Sys2Proof.Machine.execLaunchComplete lseq s
  | .auditRun lseq block core => Sys2Proof.Machine.execAuditRun lseq block core s
  | .auditCompare lseq block => Sys2Proof.Machine.execAuditCompare lseq block s
  | .quantumExpiry pav => Sys2Proof.Machine.execQuantumExpiry pav s
  | .preemptDeadline cluster => Sys2Proof.Machine.execPreemptDeadline cluster s
  | .splitRelease w sp => Sys2Proof.Machine.execSplitRelease w sp s
  | .gangSave gang => Sys2Proof.Machine.execGangSave gang s
  | .saveTimeout gang => Sys2Proof.Machine.execSaveTimeout gang s
  | .gangRestore gang cluster => Sys2Proof.Machine.execGangRestore gang cluster s
  | .clusterLend cluster pav => Sys2Proof.Machine.execClusterLend cluster pav s
  | .clusterReclaim cluster => Sys2Proof.Machine.execClusterReclaim cluster s
  | .budgetWindow => Sys2Proof.Machine.execBudgetWindow s
  | .hostRmaRead ses va len => Sys2Proof.Machine.execHostRmaRead ses va len s
  | .hostRmaWrite ses va data => Sys2Proof.Machine.execHostRmaWrite ses va data s
  | .sessionOpen role pav ctx => Sys2Proof.Machine.execSessionOpen role pav ctx s
  | .launch ses hdr body => Sys2Proof.Machine.execLaunch ses hdr body s
  | .copy ses hdr body => Sys2Proof.Machine.execCopy ses hdr body s
  | .signal ses hdr body => Sys2Proof.Machine.execSignal ses hdr body s
  | .wait ses hdr body => Sys2Proof.Machine.execWait ses hdr body s
  | .fenceCmd ses hdr body => Sys2Proof.Machine.execFenceCmd ses hdr body s
  | .ctxcreate ses hdr body => Sys2Proof.Machine.execCtxcreate ses hdr body s
  | .ctxdestroy ses hdr body => Sys2Proof.Machine.execCtxdestroy ses hdr body s
  | .migrate ses hdr body => Sys2Proof.Machine.execMigrate ses hdr body s
  | .map ses hdr body => Sys2Proof.Machine.execMap ses hdr body s
  | .unmap ses hdr body => Sys2Proof.Machine.execUnmap ses hdr body s
  | .faultreply ses hdr body => Sys2Proof.Machine.execFaultreply ses hdr body s
  | .dcdadd ses hdr body => Sys2Proof.Machine.execDcdadd ses hdr body s
  | .dcdrel ses hdr body => Sys2Proof.Machine.execDcdrel ses hdr body s
  | .writePvcfg ses hdr body => Sys2Proof.Machine.execWritePvcfg ses hdr body s
  | .writePvcol ses hdr body => Sys2Proof.Machine.execWritePvcol ses hdr body s
  | .setBudgets ses hdr body => Sys2Proof.Machine.execSetBudgets ses hdr body s
  | .readInService ses hdr body => Sys2Proof.Machine.execReadInService ses hdr body s
  | .pavilionImageUpdate ses hdr body => Sys2Proof.Machine.execPavilionImageUpdate ses hdr body s
  | .clusterQuarantine ses hdr body => Sys2Proof.Machine.execClusterQuarantine ses hdr body s
  | .sectorRetirement ses hdr body => Sys2Proof.Machine.execSectorRetirement ses hdr body s
  | .ethernetReset ses hdr body => Sys2Proof.Machine.execEthernetReset ses hdr body s
  | .ethernetRemoval ses hdr body => Sys2Proof.Machine.execEthernetRemoval ses hdr body s
  | .cxlReset ses hdr body => Sys2Proof.Machine.execCxlReset ses hdr body s
  | .cxlRemoval ses hdr body => Sys2Proof.Machine.execCxlRemoval ses hdr body s
  | .cxlResetTimeout port => Sys2Proof.Machine.execCxlResetTimeout port s
  | .returnCore ses hdr body => Sys2Proof.Machine.execReturnCore ses hdr body s
  | .returnCluster ses hdr body => Sys2Proof.Machine.execReturnCluster ses hdr body s
  | .returnPage ses hdr body => Sys2Proof.Machine.execReturnPage ses hdr body s
  | .raiseFuseTackRoom ses hdr body => Sys2Proof.Machine.execRaiseFuseTackRoom ses hdr body s
  | .raiseFusePavilion ses hdr body => Sys2Proof.Machine.execRaiseFusePavilion ses hdr body s
  | .warmReset ses hdr body => Sys2Proof.Machine.execWarmReset ses hdr body s
  | .watchdogReset => Sys2Proof.Machine.execWatchdogReset s
  | .resumeScrub ses hdr body => Sys2Proof.Machine.execResumeScrub ses hdr body s
  | .loadEvictionSchedule ses hdr body => Sys2Proof.Machine.execLoadEvictionSchedule ses hdr body s
  | .quarantineThreshold ses hdr body => Sys2Proof.Machine.execQuarantineThreshold ses hdr body s
  | .coldReset => Sys2Proof.Machine.execColdReset s
  | .deriveKey requester purpose context version => Sys2Proof.Machine.execDeriveKey requester purpose context version s
  | .getVersion ep => Sys2Proof.Machine.execGetVersion ep s
  | .getCapabilities ep => Sys2Proof.Machine.execGetCapabilities ep s
  | .negotiateAlgorithms ep algs => Sys2Proof.Machine.execNegotiateAlgorithms ep algs s
  | .getDigests ep => Sys2Proof.Machine.execGetDigests ep s
  | .getCertificate ep slot off len => Sys2Proof.Machine.execGetCertificate ep slot off len s
  | .challenge ep nonce => Sys2Proof.Machine.execChallenge ep nonce s
  | .getMeasurements ep index signed => Sys2Proof.Machine.execGetMeasurements ep index signed s
  | .keyExchange ep pav ctx who mutualAuth certDigest => Sys2Proof.Machine.execKeyExchange ep pav ctx who mutualAuth certDigest s
  | .finish ep verified => Sys2Proof.Machine.execFinish ep verified s
  | .endSession ep => Sys2Proof.Machine.execEndSession ep s
  | .keyload ep secured ctx kind key => Sys2Proof.Machine.execKeyload ep secured ctx kind key s
  | .grant ep secured ctx slot meas budget life => Sys2Proof.Machine.execGrant ep secured ctx slot meas budget life s
  | .migrationStateReceive mig data => Sys2Proof.Machine.execMigrationStateReceive mig data s
  | .prepared mig => Sys2Proof.Machine.execPrepared mig s
  | .commit mig => Sys2Proof.Machine.execCommit mig s
  | .refused mig asNone => Sys2Proof.Machine.execRefused mig asNone s
  | .outcome mig => Sys2Proof.Machine.execOutcome mig s
  | .migrationSilence mig => Sys2Proof.Machine.execMigrationSilence mig s
  | .migrationOutcomePoll mig => Sys2Proof.Machine.execMigrationOutcomePoll mig s
  | .migrationSourceLoss mig => Sys2Proof.Machine.execMigrationSourceLoss mig s
  | .scrubChunk job => Sys2Proof.Machine.execScrubChunk job s
  | .grantExpiry ctx slot => Sys2Proof.Machine.execGrantExpiry ctx slot s
  | .firmwareLoad image => Sys2Proof.Machine.execFirmwareLoad image s
  | .ideReestablished port => Sys2Proof.Machine.execIdeReestablished port s
  | .imageSignatureVerified pav => Sys2Proof.Machine.execImageSignatureVerified pav s

end Sys2Proof.Machine
end

