-- ==== Sys2Proof/Machine/Sched.lean ====
section
/-! DEFINITION. Choosing the next turn, and placing a word where the next step fetches it. -/

namespace Sys2Proof.Machine

/-- The turn loads firmware (20 R344). -/
def loadsFirmware (t : Turn) : Bool :=
  match t with
  | .event (.firmwareLoad _) => true
  | .event .coldReset => true
  | .advance _ => true
  | _ => false

/-- The READY split whose last issue is oldest. -/
def nextSplit (s : State) : Option (Nat × Nat) :=
  let all := (s.warps.entries.map fun e => e.2.splits.entries.filterMap fun p =>
    if canIssue s e.1 p.1 then some (p.2.last, e.1, p.1) else none).flatten
  (all.foldl (fun b x => match b with
    | none => some x
    | some y => if x.1 < y.1 then some x else some y) none).map fun x => x.2

/-- What an operation in flight can do next by itself. -/
def opTurn (s : State) (o : Op) : Option Instr :=
  let next (n : Nat) (g : ReqProg) : Instr :=
    match (List.range n).find? fun i => !g.moved.contains i with
    | some i => .requestElement o.id i
    | none => .requestComplete o.id
  if s.faults.any fun f => f.who = FaultFor.op o.id then none
  else
    match o.kind with
    | .copy _ => some (.laneCopy o.id)
    | .request x _ _ g => some (next (reqCount x) g)
    | .hostCopy _ _ _ src dst len g => some (next ((len + hostStep src dst len - 1) / hostStep src dst len) g)
    | .put _ _ _ d _ _ => if d.isSome then some (.remoteSourceRead o.id) else none
    | .get .. => none
    | .send _ _ _ _ _ d _ _ _ => if d.isSome then some (.remoteSourceRead o.id) else none
    | .comb _ _ _ _ d _ _ _ _ => if d.isSome then some (.remoteSourceRead o.id) else none

/-- What a core's matrix engine can do next. -/
def engineTurn (s : State) (core : Nat) (k : Core) : Option Instr :=
  let slot := k.bslots.entries.find? fun b => b.2.st == .loading &&
    !(k.groups.any fun g => g.slot = b.1 && g.plain.isSome) &&
    !(s.faults.any fun f => f.who = FaultFor.slot core b.1 && !f.no)
  match slot with
  | some b => some (.slotLoad core b.1)
  | none =>
    (k.groups.find? fun g => g.launched && g.results.isNone).map (fun g => Instr.passExecute core g.id [])
      |>.orElse fun _ => (k.groups.find? fun g => g.results.isSome).map (fun g => Instr.passDrain core g.id)
      |>.orElse fun _ => (k.groups.find? fun g => !g.launched && g.plain.isSome &&
          (g.opened + 4 ≤ s.cycle || 4 ≤ g.quarters.length)).map fun g => Instr.passGroupLaunch core g.id

/-- An `mwait` whose poll now ends its wait, or a slot that has drained. -/
def warpTurn (s : State) (k : Nat) (w : Warp) : Option Instr :=
  if (w.st == .drain || w.st == .halt) && !s.pending k then some (.slotDrainDone k)
  else if w.st == .run then
    (w.liveSplits.find? fun p => (pollOf { s with cur := k, curSplit := p.1 }).isSome).map
      fun p => Instr.mwaitWake k p.1
  else none

/-- A split whose `dcls` the Tack Room may answer, whose `ltcompact` finds no write pending, or whose `kzero` finds its slots
free of what it waits for. -/
def replyTurn (s : State) (k : Nat) (w : Warp) : Option Turn :=
  if w.st != .run then none
  else
    (w.liveSplits.find? fun p =>
      match p.2.st with
      | .swait (.dcls ..) => true
      | .swait .ltcompact => !w.writePending
      | .swait (.kzero f n upto) => !s.slotsBusy f n upto
      | _ => false).map fun p => Turn.reply k p.1

/-- A gang that can be saved, and what a launch can do next: start, dispatch its next gang, or complete. -/
def launchTurn (s : State) : Option Instr :=
  match s.gangs.entries.find? fun g => s.canSave g.1 with
  | some g => some (.gangSave g.1)
  | none =>
    s.launches.entries.findSome? fun (e : Nat × Launch) =>
      let l := e.2
      let p := (s.ctxAt l.ctx).pav
      if !l.known || !l.ready || l.ended then none
      else if !l.started then some (.launchStart e.1)
      else if l.toDispatch then
        if s.quantumDue p then some (.quantumExpiry p)
        else if !s.dispatchTurn e.1 then none
        else
          let g := l.discarded.headD l.nextGang
          let bs := (l.gangBlocks g).map Prod.snd
          ((List.range s.part.clusters).find? fun k => s.clusterFor p l.ctx k && s.mayFill p l.ctx k && (s.place k e.1 bs).isSome).map
            fun k => Instr.gangDispatch e.1 g k
      else if l.liveGangs = 0 then some (.launchComplete e.1) else none

/-- The default turn: loads return first, then engines work, waits end and slots drain, then the READY split whose last
issue is oldest issues, then launches go on, else a cycle passes. -/
def defaultTurn (s : State) : Turn :=
  let load := s.warps.entries.findSome? fun e => e.2.loads.head?.map fun x => Instr.loadReturn e.1 x.id
  let event := load
    |>.orElse fun _ => s.ops.findSome? (opTurn s)
    |>.orElse fun _ => s.cores.entries.findSome? fun e => engineTurn s e.1 e.2
    |>.orElse fun _ => s.warps.entries.findSome? fun e => warpTurn s e.1 e.2
  match event with
  | some i => .event i
  | none =>
    match s.warps.entries.findSome? fun e => replyTurn s e.1 e.2 with
    | some t => t
    | none =>
      match nextSplit s with
      | some (k, i) => .issue k i
      | none =>
        match launchTurn s with
        | some i => .event i
        | none => .advance 1

/-- A page-table entry: a leaf of a 64 KiB page, or a pointer to the next table (09 R171, R172). -/
def tableEntry (pfn : Nat) (flags : Nat) : List Byte := leBytes 16 (pfn * 2 ^ 16 + flags)

/-- Writes bytes of physical memory. -/
def poke (m : Memory) (a : Nat) : List Byte → Memory
  | [] => m
  | b :: t => poke (m.write a b) (a + 1) t

/-- Physical memory with tables at pages 1 to 5, and the word `n` at the start of page 6, mapped at 0x1_0000. -/
def placeMem (m : Memory) (n : Nat) : Memory :=
  let m := poke m 0x10000 (tableEntry 2 1)
  let m := poke m 0x20000 (tableEntry 3 1)
  let m := poke m 0x30000 (tableEntry 4 1)
  let m := poke m 0x40000 (tableEntry 5 1)
  -- leaf: V, LEAF, RD, W, X, KSLOT 1, CEIL and CLR the owner set
  let m := poke m 0x50010 (leBytes 16 (6 * 2 ^ 16 + 0x73 + 1 * 2 ^ 88 + 0xFFFF * 2 ^ 96 + 0xFFFF * 2 ^ 112))
  poke m 0x60000 (leBytes 8 (n % 2 ^ 32))

/-- The launch's header: VR 15, PART 16, 8, 16, SPWIN 4, W0 5, SIZE 32, ENTRY 0x1_0000. -/
def placeHdr : BitVec 1024 :=
  BitVec.ofNat 1024 (2 ^ 256 + 15 * 2 ^ 264 + 4 * 2 ^ 224 + 0x100810 * 2 ^ 192 + 5 * 2 ^ 128 + 32 * 2 ^ 64 + 0x10000)

/-- `s` with a context, its key slot, its tables, a launch, a gang, a block and a warp whose only split fetches the word
`n` next. -/
def placeWord (s : State) (n : Nat) : State :=
  let x : Split := { Split.blank with st := .ready, pc := 0x10000, exec := 0xFFFFFFFF#32 }
  let w : Warp := { Warp.blank with st := .run, uid := 1, ctx := 0, lseq := 1, block := 1, vr := 15,
                                    lanes0 := 0xFFFFFFFF#32, wid := [0, 0, 0, 0, 0] }
  { s with
    boot := .running, cur := 0, curSplit := 0, mem := placeMem s.mem n, hist := s.hist.forget 0x60000 8
    phys := { s.phys with owners := s.phys.owners.set .unowned 6 (.ctx 0)
                          retired := s.phys.retired.set false 6 false
                          poison := s.phys.poison.set false (0x60000 / 64) false }
    warps := s.warps.set Warp.blank 0 (w.setSplit 0 x)
    blocks := s.blocks.set Block.blank 1 { Block.blank with
      live := true, lseq := 1, ctx := 0, gang := 1, spBytes := 4096, accBytes := 2 ^ 14, poolSp := 0x40000, poolAcc := 0x60000
      ranks := 1 }
    gangs := s.gangs.set Gang.blank 1 { Gang.blank with live := true, lseq := 1, blocks := [1] }
    launches := s.launches.set Launch.blank 1 { Launch.blank with
      known := true, hdr := placeHdr, ready := true, started := true, liveGangs := 1, nextGang := 1 }
    ctxs := s.ctxs.set Ctx.blank 0 { Ctx.blank with
      live := true, mslot := 1, owners := 0xFFFF#16, root := 0x10000, privBytes := 256 }
    cores := s.cores.set Core.reset 0 Core.reset
    dieTlb := s.dieTlb.set [] 0 []
    tack := { s.tack with slots := s.tack.slots.set KeySlot.blank 1 ⟨true, 2, 0, 0, false, 0, 0⟩ }
    agenda := .issue 0 0 :: s.agenda }

end Sys2Proof.Machine
end

