-- ==== Sys2Proof/Machine/Step.lean ====
section
/-! DEFINITION. One step of the machine: the next turn, or the default one, and how a word is put where the next step
fetches. -/

namespace Sys2Proof.Machine

/-- The fetch, the clearance check and the decoding (03 R62 steps 1 to 3), then the instruction's meaning. -/
def issue (s : State) : Host.Outcome State Fault Refusal :=
  match fetch s with
  | .stop t => .next t
  | .word w =>
    let s := s.latch w
    match decode w with
    | .ok i => exec i (s.fill i)
    | .error _ => .next (illegal w s)

/-- The Tack Room's reply to a `dcls`, or the end of the wait of an `ltcompact` or a `kzero`, for the split that waits (04
R88, R90, 20 R349). -/
def reply (w sp : Nat) (s : State) : State :=
  if (s.warpAt w).st == .run then settleKzero (settleCompact w (s.asWarp w sp tackReply)) else s

/-- A turn of the agenda. A word can not stand there as an event: it issues from its address. -/
def turn (t : Turn) (s : State) : Host.Outcome State Fault Refusal :=
  match t with
  | .issue w sp => if canIssue s w sp then issue (prepare s w sp) else .next s
  | .event i => if i.isWord then .next s else exec i { s with arrival := .blank }
  | .arrive a i => if i.isWord then .next s else exec i { s with arrival := a }
  | .reply w sp => .next (reply w sp s)
  | .advance n => .next { s with cycle := s.cycle + n }

/-- One step. With an empty agenda the default turn is taken (log 6). A device that waits for its firmware does
nothing but load it (20 R344). -/
def step (s : State) : Host.Outcome State Fault Refusal :=
  match s.agenda with
  | t :: rest =>
    if s.boot = .needFirmware ∧ !loadsFirmware t then .next { s with agenda := rest }
    else turn t { s with agenda := rest }
  | [] => turn (defaultTurn s) s

/-- Context 0, launch 1, gang 1, block 1 and warp slot 0 with one split whose next word is `w` (log 8). -/
def State.withFetchWord (s : State) (nbits w : Nat) : State := placeWord s (w % 2 ^ nbits)

end Sys2Proof.Machine
end

