-- ==== Sys2Proof/Laws/PerInstr.lean ====
section
/-! SUPPORT. The family `Fields`, one lemma a constructor: the fields of an instruction's word, read back under its
format, give the instruction (03 R33 to R58). The formats' lemmas stand before it. -/

namespace Sys2Proof

theorem Cond.code_lt (x : Cond) : x.code < 2 ^ 3 := by cases x <;> decide
theorem Cond.ofCode_code (x : Cond) : Cond.ofCode x.code = some x := by cases x <;> rfl
theorem VCond.code_lt (x : VCond) : x.code < 2 ^ 3 := by cases x <;> decide
theorem VCond.ofCode_code (x : VCond) : VCond.ofCode x.code = some x := by cases x <;> rfl
theorem LdW.code_lt (x : LdW) : x.code < 2 ^ 3 := by cases x <;> decide
theorem LdW.ofCode_code (x : LdW) : LdW.ofCode x.code = some x := by cases x <;> rfl
theorem StW.code_lt (x : StW) : x.code < 2 ^ 2 := by cases x <;> decide
theorem StW.ofCode_code (x : StW) : StW.ofCode x.code = some x := by cases x <;> rfl
theorem Scope.code_lt (x : Scope) : x.code < 2 ^ 3 := by cases x <;> decide
theorem Scope.ofCode_code (x : Scope) : Scope.ofCode x.code = some x := by cases x <;> rfl
theorem FenceK.code_lt (x : FenceK) : x.code < 2 ^ 2 := by cases x <;> decide
theorem FenceK.ofCode_code (x : FenceK) : FenceK.ofCode x.code = some x := by cases x <;> rfl
theorem ShflM.code_lt (x : ShflM) : x.code < 2 ^ 2 := by cases x <;> decide
theorem ShflM.ofCode_code (x : ShflM) : ShflM.ofCode x.code = some x := by cases x <;> rfl
theorem RedOp.code_lt (x : RedOp) : x.code < 2 ^ 3 := by cases x <;> decide
theorem RedOp.ofCode_code (x : RedOp) : RedOp.ofCode x.code = some x := by cases x <;> rfl
theorem AtomOp.code_lt (x : AtomOp) : x.code < 2 ^ 3 := by cases x <;> decide
theorem AtomOp.ofCode_code (x : AtomOp) : AtomOp.ofCode x.code = some x := by cases x <;> rfl
theorem WaitC.code_lt (x : WaitC) : x.code < 2 ^ 2 := by cases x <;> decide
theorem WaitC.ofCode_code (x : WaitC) : WaitC.ofCode x.code = some x := by cases x <;> rfl
theorem Level.code_lt (x : Level) : x.code < 2 ^ 2 := by cases x <;> decide
theorem Level.ofCode_code (x : Level) : Level.ofCode x.code = some x := by cases x <;> rfl
theorem HintA.code_lt (x : HintA) : x.code < 2 ^ 2 := by cases x <;> decide
theorem HintA.ofCode_code (x : HintA) : HintA.ofCode x.code = some x := by cases x <;> rfl
theorem CpyW.code_lt (x : CpyW) : x.code < 2 ^ 2 := by cases x <;> decide
theorem CpyW.ofCode_code (x : CpyW) : CpyW.ofCode x.code = some x := by cases x <;> rfl
theorem TlbS.code_lt (x : TlbS) : x.code < 2 ^ 2 := by cases x <;> decide
theorem TlbS.ofCode_code (x : TlbS) : TlbS.ofCode x.code = some x := by cases x <;> rfl
theorem CombOp.code_lt (x : CombOp) : x.code < 2 ^ 2 := by cases x <;> decide
theorem CombOp.ofCode_code (x : CombOp) : CombOp.ofCode x.code = some x := by cases x <;> rfl
theorem ETy.code_lt (x : ETy) : x.code < 2 ^ 4 := by cases x <;> decide
theorem ETy.ofCode_code (x : ETy) : ETy.ofCode x.code = some x := by cases x <;> rfl

/-- The high bit of a `vcmp` condition. -/
theorem VCond.hi_lt (c : VCond) : c.code / 4 < 2 ^ 1 := by cases c <;> decide
/-- Its two low bits. -/
theorem VCond.lo_lt (c : VCond) : c.code % 4 < 2 ^ 2 := by cases c <;> decide
theorem VCond.ofCode_split (c : VCond) : VCond.ofCode (c.code / 4 * 4 + c.code % 4) = some c := by cases c <;> rfl

@[simp] theorem Bool.toNat_beq_one (p : Bool) : (p.toNat == 1) = p := by cases p <;> rfl

end Sys2Proof

namespace Sys2Proof.Laws.Fields

open Dec

/-! ## Formats -/

theorem fmt0 (M K x0 x1 x2 n : Nat) (hM : M < 256) (hK : K = 0x800000 * M + 0x0) (hx0 : x0 < 2 ^ 1) (hx1 : x1 < 2 ^ 6) (hx2 : x2 < 2 ^ 17)
    (hn : n = K + x0 * 0x80000000 + x1 * 0x20000 + x2) :
    n < 0x100000000 ∧
      fld n 23 8 = M ∧
      fld n 0 17 = x2 ∧
      fld n 17 6 = x1 ∧
      fld n 31 1 = x0 := by
  subst hn hK
  simp only [fld]
  refine ⟨?_, ?_, ?_, ?_, ?_⟩ <;> omega

theorem fmt1 (M K x0 x1 n : Nat) (hM : M < 256) (hK : K = 0x800000 * M + 0x0) (hx0 : x0 < 2 ^ 1) (hx1 : x1 < 2 ^ 6)
    (hn : n = K + x0 * 0x80000000 + x1 * 0x800) :
    n < 0x100000000 ∧
      fld n 23 8 = M ∧
      fld n 0 11 = 0 ∧
      fld n 11 6 = x1 ∧
      fld n 17 6 = 0 ∧
      fld n 31 1 = x0 := by
  subst hn hK
  simp only [fld]
  refine ⟨?_, ?_, ?_, ?_, ?_, ?_⟩ <;> omega

theorem fmt2 (M K x0 x1 n : Nat) (hM : M < 256) (hK : K = 0x800000 * M + 0x1) (hx0 : x0 < 2 ^ 1) (hx1 : x1 < 2 ^ 6)
    (hn : n = K + x0 * 0x80000000 + x1 * 0x800) :
    n < 0x100000000 ∧
      fld n 23 8 = M ∧
      fld n 0 11 = 1 ∧
      fld n 11 6 = x1 ∧
      fld n 17 6 = 0 ∧
      fld n 31 1 = x0 := by
  subst hn hK
  simp only [fld]
  refine ⟨?_, ?_, ?_, ?_, ?_, ?_⟩ <;> omega

theorem fmt3 (M K x0 x1 x2 n : Nat) (hM : M < 256) (hK : K = 0x800000 * M + 0x0) (hx0 : x0 < 2 ^ 1) (hx1 : x1 < 2 ^ 6) (hx2 : x2 < 2 ^ 12)
    (hn : n = K + x0 * 0x80000000 + x1 * 0x10000 + x2) :
    n < 0x100000000 ∧
      fld n 23 8 = M ∧
      fld n 0 12 = x2 ∧
      fld n 12 4 = 0 ∧
      fld n 16 6 = x1 ∧
      fld n 22 1 = 0 ∧
      fld n 31 1 = x0 := by
  subst hn hK
  simp only [fld]
  refine ⟨?_, ?_, ?_, ?_, ?_, ?_, ?_⟩ <;> omega

theorem fmt4 (M K x0 x1 x2 n : Nat) (hM : M < 256) (hK : K = 0x800000 * M + 0x8000) (hx0 : x0 < 2 ^ 1) (hx1 : x1 < 2 ^ 6) (hx2 : x2 < 2 ^ 12)
    (hn : n = K + x0 * 0x80000000 + x1 * 0x10000 + x2) :
    n < 0x100000000 ∧
      fld n 23 8 = M ∧
      fld n 0 12 = x2 ∧
      fld n 12 4 = 8 ∧
      fld n 16 6 = x1 ∧
      fld n 22 1 = 0 ∧
      fld n 31 1 = x0 := by
  subst hn hK
  simp only [fld]
  refine ⟨?_, ?_, ?_, ?_, ?_, ?_, ?_⟩ <;> omega

theorem fmt5 (M K x0 x1 x2 n : Nat) (hM : M < 256) (hK : K = 0x800000 * M + 0x0) (hx0 : x0 < 2 ^ 1) (hx1 : x1 < 2 ^ 6) (hx2 : x2 < 2 ^ 16)
    (hn : n = K + x0 * 0x80000000 + x1 * 0x10000 + x2) :
    n < 0x100000000 ∧
      fld n 23 8 = M ∧
      fld n 0 16 = x2 ∧
      fld n 16 6 = x1 ∧
      fld n 22 1 = 0 ∧
      fld n 31 1 = x0 := by
  subst hn hK
  simp only [fld]
  refine ⟨?_, ?_, ?_, ?_, ?_, ?_⟩ <;> omega

theorem fmt6 (M K x0 x1 x2 n : Nat) (hM : M < 256) (hK : K = 0x800000 * M + 0x0) (hx0 : x0 < 2 ^ 1) (hx1 : x1 < 2 ^ 7) (hx2 : x2 < 2 ^ 16)
    (hn : n = K + x0 * 0x80000000 + x1 * 0x10000 + x2) :
    n < 0x100000000 ∧
      fld n 23 8 = M ∧
      fld n 0 16 = x2 ∧
      fld n 16 7 = x1 ∧
      fld n 31 1 = x0 := by
  subst hn hK
  simp only [fld]
  refine ⟨?_, ?_, ?_, ?_, ?_⟩ <;> omega

theorem fmt7 (M K x0 x1 x2 n : Nat) (hM : M < 256) (hK : K = 0x800000 * M + 0x0) (hx0 : x0 < 2 ^ 1) (hx1 : x1 < 2 ^ 7) (hx2 : x2 < 2 ^ 6)
    (hn : n = K + x0 * 0x80000000 + x1 * 0x200 + x2 * 0x8) :
    n < 0x100000000 ∧
      fld n 23 8 = M ∧
      fld n 0 3 = 0 ∧
      fld n 3 6 = x2 ∧
      fld n 9 7 = x1 ∧
      fld n 16 7 = 0 ∧
      fld n 31 1 = x0 := by
  subst hn hK
  simp only [fld]
  refine ⟨?_, ?_, ?_, ?_, ?_, ?_, ?_⟩ <;> omega

theorem fmt8 (M K x0 x1 n : Nat) (hM : M < 256) (hK : K = 0x800000 * M + 0x0) (hx0 : x0 < 2 ^ 1) (hx1 : x1 < 2 ^ 16)
    (hn : n = K + x0 * 0x80000000 + x1) :
    n < 0x100000000 ∧
      fld n 23 8 = M ∧
      fld n 0 16 = x1 ∧
      fld n 16 7 = 0 ∧
      fld n 31 1 = x0 := by
  subst hn hK
  simp only [fld]
  refine ⟨?_, ?_, ?_, ?_, ?_⟩ <;> omega

theorem fmt9 (M K x0 x1 x2 n : Nat) (hM : M < 256) (hK : K = 0x800000 * M + 0x0) (hx0 : x0 < 2 ^ 1) (hx1 : x1 < 2 ^ 6) (hx2 : x2 < 2 ^ 4)
    (hn : n = K + x0 * 0x80000000 + x1 * 0x10000 + x2) :
    n < 0x100000000 ∧
      fld n 23 8 = M ∧
      fld n 0 4 = x2 ∧
      fld n 4 12 = 0 ∧
      fld n 16 6 = x1 ∧
      fld n 22 1 = 0 ∧
      fld n 31 1 = x0 := by
  subst hn hK
  simp only [fld]
  refine ⟨?_, ?_, ?_, ?_, ?_, ?_, ?_⟩ <;> omega

theorem fmt10 (M K x0 n : Nat) (hM : M < 256) (hK : K = 0x800000 * M + 0x0) (hx0 : x0 < 2 ^ 1)
    (hn : n = K + x0 * 0x80000000) :
    n < 0x100000000 ∧
      fld n 23 8 = M ∧
      fld n 0 23 = 0 ∧
      fld n 31 1 = x0 := by
  subst hn hK
  simp only [fld]
  refine ⟨?_, ?_, ?_, ?_⟩ <;> omega

theorem fmt11 (M K x0 n : Nat) (hM : M < 256) (hK : K = 0x800000 * M + 0x10000) (hx0 : x0 < 2 ^ 1)
    (hn : n = K + x0 * 0x80000000) :
    n < 0x100000000 ∧
      fld n 23 8 = M ∧
      fld n 0 23 = 65536 ∧
      fld n 31 1 = x0 := by
  subst hn hK
  simp only [fld]
  refine ⟨?_, ?_, ?_, ?_⟩ <;> omega

theorem fmt12 (M K  n : Nat) (hM : M < 256) (hK : K = 0x800000 * M + 0x20000)
    (hn : n = K) :
    n < 0x100000000 ∧
      fld n 23 8 = M ∧
      fld n 0 23 = 131072 ∧
      fld n 31 1 = 0 := by
  subst hn hK
  simp only [fld]
  refine ⟨?_, ?_, ?_, ?_⟩ <;> omega

theorem fmt13 (M K x0 n : Nat) (hM : M < 256) (hK : K = 0x800000 * M + 0x30000) (hx0 : x0 < 2 ^ 1)
    (hn : n = K + x0 * 0x80000000) :
    n < 0x100000000 ∧
      fld n 23 8 = M ∧
      fld n 0 23 = 196608 ∧
      fld n 31 1 = x0 := by
  subst hn hK
  simp only [fld]
  refine ⟨?_, ?_, ?_, ?_⟩ <;> omega

theorem fmt14 (M K x0 x1 x2 x3 n : Nat) (hM : M < 256) (hK : K = 0x800000 * M + 0x0) (hx0 : x0 < 2 ^ 1) (hx1 : x1 < 2 ^ 6) (hx2 : x2 < 2 ^ 6) (hx3 : x3 < 2 ^ 6)
    (hn : n = K + x0 * 0x80000000 + x1 * 0x20000 + x2 * 0x800 + x3 * 0x20) :
    n < 0x100000000 ∧
      fld n 23 8 = M ∧
      fld n 0 5 = 0 ∧
      fld n 5 6 = x3 ∧
      fld n 11 6 = x2 ∧
      fld n 17 6 = x1 ∧
      fld n 31 1 = x0 := by
  subst hn hK
  simp only [fld]
  refine ⟨?_, ?_, ?_, ?_, ?_, ?_, ?_⟩ <;> omega

theorem fmt15 (M K x0 x1 x2 x3 x4 n : Nat) (hM : M < 256) (hK : K = 0x800000 * M + 0x0) (hx0 : x0 < 2 ^ 1) (hx1 : x1 < 2 ^ 6) (hx2 : x2 < 2 ^ 6) (hx3 : x3 < 2 ^ 6) (hx4 : x4 < 2 ^ 3)
    (hn : n = K + x0 * 0x80000000 + x1 * 0x20000 + x2 * 0x800 + x3 * 0x20 + x4) :
    n < 0x100000000 ∧
      fld n 23 8 = M ∧
      fld n 0 5 = x4 ∧
      fld n 5 6 = x3 ∧
      fld n 11 6 = x2 ∧
      fld n 17 6 = x1 ∧
      fld n 31 1 = x0 := by
  subst hn hK
  simp only [fld]
  refine ⟨?_, ?_, ?_, ?_, ?_, ?_, ?_⟩ <;> omega

theorem fmt16 (M K x0 x1 x2 n : Nat) (hM : M < 256) (hK : K = 0x800000 * M + 0x0) (hx0 : x0 < 2 ^ 1) (hx1 : x1 < 2 ^ 6) (hx2 : x2 < 2 ^ 6)
    (hn : n = K + x0 * 0x80000000 + x1 * 0x20000 + x2 * 0x800) :
    n < 0x100000000 ∧
      fld n 23 8 = M ∧
      fld n 0 11 = 0 ∧
      fld n 11 6 = x2 ∧
      fld n 17 6 = x1 ∧
      fld n 31 1 = x0 := by
  subst hn hK
  simp only [fld]
  refine ⟨?_, ?_, ?_, ?_, ?_, ?_⟩ <;> omega

theorem fmt17 (M K x0 x1 x2 x3 x4 n : Nat) (hM : M < 256) (hK : K = 0x800000 * M + 0x0) (hx0 : x0 < 2 ^ 1) (hx1 : x1 < 2 ^ 6) (hx2 : x2 < 2 ^ 6) (hx3 : x3 < 2 ^ 6) (hx4 : x4 < 2 ^ 3)
    (hn : n = K + x0 * 0x80000000 + x1 * 0x20000 + x2 * 0x800 + x3 * 0x20 + x4) :
    n < 0x100000000 ∧
      fld n 23 8 = M ∧
      fld n 0 3 = x4 ∧
      fld n 3 2 = 0 ∧
      fld n 5 6 = x3 ∧
      fld n 11 6 = x2 ∧
      fld n 17 6 = x1 ∧
      fld n 31 1 = x0 := by
  subst hn hK
  simp only [fld]
  refine ⟨?_, ?_, ?_, ?_, ?_, ?_, ?_, ?_⟩ <;> omega

theorem fmt18 (M K x0 x1 x2 x3 x4 n : Nat) (hM : M < 256) (hK : K = 0x800000 * M + 0x0) (hx0 : x0 < 2 ^ 1) (hx1 : x1 < 2 ^ 6) (hx2 : x2 < 2 ^ 6) (hx3 : x3 < 2 ^ 6) (hx4 : x4 < 2 ^ 2)
    (hn : n = K + x0 * 0x80000000 + x1 * 0x20000 + x2 * 0x800 + x3 * 0x20 + x4) :
    n < 0x100000000 ∧
      fld n 23 8 = M ∧
      fld n 0 2 = x4 ∧
      fld n 2 3 = 0 ∧
      fld n 5 6 = x3 ∧
      fld n 11 6 = x2 ∧
      fld n 17 6 = x1 ∧
      fld n 31 1 = x0 := by
  subst hn hK
  simp only [fld]
  refine ⟨?_, ?_, ?_, ?_, ?_, ?_, ?_, ?_⟩ <;> omega

theorem fmt19 (M K x0 x1 x2 n : Nat) (hM : M < 256) (hK : K = 0x800000 * M + 0x0) (hx0 : x0 < 2 ^ 1) (hx1 : x1 < 2 ^ 7) (hx2 : x2 < 2 ^ 7)
    (hn : n = K + x0 * 0x80000000 + x1 * 0x10000 + x2 * 0x200) :
    n < 0x100000000 ∧
      fld n 23 8 = M ∧
      fld n 0 9 = 0 ∧
      fld n 9 7 = x2 ∧
      fld n 16 7 = x1 ∧
      fld n 31 1 = x0 := by
  subst hn hK
  simp only [fld]
  refine ⟨?_, ?_, ?_, ?_, ?_, ?_⟩ <;> omega

theorem fmt20 (M K x0 x1 x2 x3 n : Nat) (hM : M < 256) (hK : K = 0x800000 * M + 0x0) (hx0 : x0 < 2 ^ 1) (hx1 : x1 < 2 ^ 7) (hx2 : x2 < 2 ^ 7) (hx3 : x3 < 2 ^ 6)
    (hn : n = K + x0 * 0x80000000 + x1 * 0x10000 + x2 * 0x200 + x3 * 0x8) :
    n < 0x100000000 ∧
      fld n 23 8 = M ∧
      fld n 0 3 = 0 ∧
      fld n 3 6 = x3 ∧
      fld n 9 7 = x2 ∧
      fld n 16 7 = x1 ∧
      fld n 31 1 = x0 := by
  subst hn hK
  simp only [fld]
  refine ⟨?_, ?_, ?_, ?_, ?_, ?_, ?_⟩ <;> omega

theorem fmt21 (M K x0 x1 x2 x3 n : Nat) (hM : M < 256) (hK : K = 0x800000 * M + 0x0) (hx0 : x0 < 2 ^ 1) (hx1 : x1 < 2 ^ 7) (hx2 : x2 < 2 ^ 7) (hx3 : x3 < 2 ^ 7)
    (hn : n = K + x0 * 0x80000000 + x1 * 0x10000 + x2 * 0x200 + x3 * 0x4) :
    n < 0x100000000 ∧
      fld n 23 8 = M ∧
      fld n 0 2 = 0 ∧
      fld n 2 7 = x3 ∧
      fld n 9 7 = x2 ∧
      fld n 16 7 = x1 ∧
      fld n 31 1 = x0 := by
  subst hn hK
  simp only [fld]
  refine ⟨?_, ?_, ?_, ?_, ?_, ?_, ?_⟩ <;> omega

theorem fmt22 (M K x0 x1 x2 x3 n : Nat) (hM : M < 256) (hK : K = 0x800000 * M + 0x0) (hx0 : x0 < 2 ^ 1) (hx1 : x1 < 2 ^ 7) (hx2 : x2 < 2 ^ 7) (hx3 : x3 < 2 ^ 4)
    (hn : n = K + x0 * 0x80000000 + x1 * 0x10000 + x2 * 0x200 + x3 * 0x4) :
    n < 0x100000000 ∧
      fld n 23 8 = M ∧
      fld n 0 2 = 0 ∧
      fld n 2 4 = x3 ∧
      fld n 6 3 = 0 ∧
      fld n 9 7 = x2 ∧
      fld n 16 7 = x1 ∧
      fld n 31 1 = x0 := by
  subst hn hK
  simp only [fld]
  refine ⟨?_, ?_, ?_, ?_, ?_, ?_, ?_, ?_⟩ <;> omega

theorem fmt23 (M K x0 x1 x2 x3 x4 x5 n : Nat) (hM : M < 256) (hK : K = 0x800000 * M + 0x0) (hx0 : x0 < 2 ^ 1) (hx1 : x1 < 2 ^ 6) (hx2 : x2 < 2 ^ 7) (hx3 : x3 < 2 ^ 7) (hx4 : x4 < 2 ^ 1) (hx5 : x5 < 2 ^ 2)
    (hn : n = K + x0 * 0x80000000 + x1 * 0x10000 + x2 * 0x200 + x3 * 0x4 + x4 * 0x400000 + x5) :
    n < 0x100000000 ∧
      fld n 23 8 = M ∧
      fld n 0 2 = x5 ∧
      fld n 2 7 = x3 ∧
      fld n 9 7 = x2 ∧
      fld n 16 6 = x1 ∧
      fld n 22 1 = x4 ∧
      fld n 31 1 = x0 := by
  subst hn hK
  simp only [fld]
  refine ⟨?_, ?_, ?_, ?_, ?_, ?_, ?_, ?_⟩ <;> omega

theorem fmt24 (M K x0 x1 x2 n : Nat) (hM : M < 256) (hK : K = 0x800000 * M + 0x0) (hx0 : x0 < 2 ^ 1) (hx1 : x1 < 2 ^ 7) (hx2 : x2 < 2 ^ 6)
    (hn : n = K + x0 * 0x80000000 + x1 * 0x10000 + x2 * 0x8) :
    n < 0x100000000 ∧
      fld n 23 8 = M ∧
      fld n 0 3 = 0 ∧
      fld n 3 6 = x2 ∧
      fld n 9 7 = 0 ∧
      fld n 16 7 = x1 ∧
      fld n 31 1 = x0 := by
  subst hn hK
  simp only [fld]
  refine ⟨?_, ?_, ?_, ?_, ?_, ?_, ?_⟩ <;> omega

theorem fmt25 (M K x0 x1 x2 x3 x4 n : Nat) (hM : M < 256) (hK : K = 0x800000 * M + 0x0) (hx0 : x0 < 2 ^ 1) (hx1 : x1 < 2 ^ 7) (hx2 : x2 < 2 ^ 7) (hx3 : x3 < 2 ^ 7) (hx4 : x4 < 2 ^ 2)
    (hn : n = K + x0 * 0x80000000 + x1 * 0x10000 + x2 * 0x200 + x3 * 0x4 + x4) :
    n < 0x100000000 ∧
      fld n 23 8 = M ∧
      fld n 0 2 = x4 ∧
      fld n 2 7 = x3 ∧
      fld n 9 7 = x2 ∧
      fld n 16 7 = x1 ∧
      fld n 31 1 = x0 := by
  subst hn hK
  simp only [fld]
  refine ⟨?_, ?_, ?_, ?_, ?_, ?_, ?_⟩ <;> omega

theorem fmt26 (M K x0 x1 x2 x3 x4 n : Nat) (hM : M < 256) (hK : K = 0x800000 * M + 0x0) (hx0 : x0 < 2 ^ 1) (hx1 : x1 < 2 ^ 7) (hx2 : x2 < 2 ^ 7) (hx3 : x3 < 2 ^ 6) (hx4 : x4 < 2 ^ 2)
    (hn : n = K + x0 * 0x80000000 + x1 * 0x10000 + x2 * 0x200 + x3 * 0x8 + x4) :
    n < 0x100000000 ∧
      fld n 23 8 = M ∧
      fld n 0 2 = x4 ∧
      fld n 2 1 = 0 ∧
      fld n 3 6 = x3 ∧
      fld n 9 7 = x2 ∧
      fld n 16 7 = x1 ∧
      fld n 31 1 = x0 := by
  subst hn hK
  simp only [fld]
  refine ⟨?_, ?_, ?_, ?_, ?_, ?_, ?_, ?_⟩ <;> omega

theorem fmt27 (M K x0 x1 x2 n : Nat) (hM : M < 256) (hK : K = 0x800000 * M + 0x0) (hx0 : x0 < 2 ^ 1) (hx1 : x1 < 2 ^ 6) (hx2 : x2 < 2 ^ 7)
    (hn : n = K + x0 * 0x80000000 + x1 * 0x10000 + x2 * 0x200) :
    n < 0x100000000 ∧
      fld n 23 8 = M ∧
      fld n 0 9 = 0 ∧
      fld n 9 7 = x2 ∧
      fld n 16 6 = x1 ∧
      fld n 22 1 = 0 ∧
      fld n 31 1 = x0 := by
  subst hn hK
  simp only [fld]
  refine ⟨?_, ?_, ?_, ?_, ?_, ?_, ?_⟩ <;> omega

theorem fmt28 (M K x0 x1 x2 x3 n : Nat) (hM : M < 256) (hK : K = 0x800000 * M + 0x0) (hx0 : x0 < 2 ^ 1) (hx1 : x1 < 2 ^ 6) (hx2 : x2 < 2 ^ 7) (hx3 : x3 < 2 ^ 3)
    (hn : n = K + x0 * 0x80000000 + x1 * 0x10000 + x2 * 0x200 + x3 * 0x4) :
    n < 0x100000000 ∧
      fld n 23 8 = M ∧
      fld n 0 2 = 0 ∧
      fld n 2 3 = x3 ∧
      fld n 5 4 = 0 ∧
      fld n 9 7 = x2 ∧
      fld n 16 6 = x1 ∧
      fld n 22 1 = 0 ∧
      fld n 31 1 = x0 := by
  subst hn hK
  simp only [fld]
  refine ⟨?_, ?_, ?_, ?_, ?_, ?_, ?_, ?_, ?_⟩ <;> omega

theorem fmt29 (M K x0 x1 x2 x3 x4 n : Nat) (hM : M < 256) (hK : K = 0x800000 * M + 0x0) (hx0 : x0 < 2 ^ 1) (hx1 : x1 < 2 ^ 7) (hx2 : x2 < 2 ^ 7) (hx3 : x3 < 2 ^ 3) (hx4 : x4 < 2 ^ 1)
    (hn : n = K + x0 * 0x80000000 + x1 * 0x10000 + x2 * 0x200 + x3 * 0x4 + x4) :
    n < 0x100000000 ∧
      fld n 23 8 = M ∧
      fld n 0 1 = x4 ∧
      fld n 1 1 = 0 ∧
      fld n 2 3 = x3 ∧
      fld n 5 4 = 0 ∧
      fld n 9 7 = x2 ∧
      fld n 16 7 = x1 ∧
      fld n 31 1 = x0 := by
  subst hn hK
  simp only [fld]
  refine ⟨?_, ?_, ?_, ?_, ?_, ?_, ?_, ?_, ?_⟩ <;> omega

theorem fmt30 (M K x0 x1 x2 x3 x4 n : Nat) (hM : M < 256) (hK : K = 0x800000 * M + 0x0) (hx0 : x0 < 2 ^ 1) (hx1 : x1 < 2 ^ 7) (hx2 : x2 < 2 ^ 6) (hx3 : x3 < 2 ^ 7) (hx4 : x4 < 2 ^ 3)
    (hn : n = K + x0 * 0x80000000 + x1 * 0x10000 + x2 * 0x400 + x3 * 0x8 + x4) :
    n < 0x100000000 ∧
      fld n 23 8 = M ∧
      fld n 0 3 = x4 ∧
      fld n 3 7 = x3 ∧
      fld n 10 6 = x2 ∧
      fld n 16 7 = x1 ∧
      fld n 31 1 = x0 := by
  subst hn hK
  simp only [fld]
  refine ⟨?_, ?_, ?_, ?_, ?_, ?_, ?_⟩ <;> omega

theorem fmt31 (M K x0 x1 x2 x3 x4 n : Nat) (hM : M < 256) (hK : K = 0x800000 * M + 0x0) (hx0 : x0 < 2 ^ 1) (hx1 : x1 < 2 ^ 7) (hx2 : x2 < 2 ^ 6) (hx3 : x3 < 2 ^ 7) (hx4 : x4 < 2 ^ 2)
    (hn : n = K + x0 * 0x80000000 + x1 * 0x10000 + x2 * 0x400 + x3 * 0x8 + x4) :
    n < 0x100000000 ∧
      fld n 23 8 = M ∧
      fld n 0 2 = x4 ∧
      fld n 2 1 = 0 ∧
      fld n 3 7 = x3 ∧
      fld n 10 6 = x2 ∧
      fld n 16 7 = x1 ∧
      fld n 31 1 = x0 := by
  subst hn hK
  simp only [fld]
  refine ⟨?_, ?_, ?_, ?_, ?_, ?_, ?_, ?_⟩ <;> omega

theorem fmt32 (M K x0 x1 x2 x3 n : Nat) (hM : M < 256) (hK : K = 0x800000 * M + 0x0) (hx0 : x0 < 2 ^ 1) (hx1 : x1 < 2 ^ 6) (hx2 : x2 < 2 ^ 6) (hx3 : x3 < 2 ^ 2)
    (hn : n = K + x0 * 0x80000000 + x1 * 0x800 + x2 * 0x20 + x3) :
    n < 0x100000000 ∧
      fld n 23 8 = M ∧
      fld n 0 5 = x3 ∧
      fld n 5 6 = x2 ∧
      fld n 11 6 = x1 ∧
      fld n 17 6 = 0 ∧
      fld n 31 1 = x0 := by
  subst hn hK
  simp only [fld]
  refine ⟨?_, ?_, ?_, ?_, ?_, ?_, ?_⟩ <;> omega

theorem fmt33 (M K x0 x1 x2 n : Nat) (hM : M < 256) (hK : K = 0x800000 * M + 0x0) (hx0 : x0 < 2 ^ 1) (hx1 : x1 < 2 ^ 2) (hx2 : x2 < 2 ^ 3)
    (hn : n = K + x0 * 0x80000000 + x1 * 0x10000 + x2) :
    n < 0x100000000 ∧
      fld n 23 8 = M ∧
      fld n 0 3 = x2 ∧
      fld n 3 13 = 0 ∧
      fld n 16 2 = x1 ∧
      fld n 18 5 = 0 ∧
      fld n 31 1 = x0 := by
  subst hn hK
  simp only [fld]
  refine ⟨?_, ?_, ?_, ?_, ?_, ?_, ?_⟩ <;> omega

theorem fmt34 (M K x0 x1 x2 x3 x4 n : Nat) (hM : M < 256) (hK : K = 0x800000 * M + 0x0) (hx0 : x0 < 2 ^ 1) (hx1 : x1 < 2 ^ 6) (hx2 : x2 < 2 ^ 6) (hx3 : x3 < 2 ^ 6) (hx4 : x4 < 2 ^ 2)
    (hn : n = K + x0 * 0x80000000 + x1 * 0x20000 + x2 * 0x800 + x3 * 0x20 + x4) :
    n < 0x100000000 ∧
      fld n 23 8 = M ∧
      fld n 0 5 = x4 ∧
      fld n 5 6 = x3 ∧
      fld n 11 6 = x2 ∧
      fld n 17 6 = x1 ∧
      fld n 31 1 = x0 := by
  subst hn hK
  simp only [fld]
  refine ⟨?_, ?_, ?_, ?_, ?_, ?_, ?_⟩ <;> omega

theorem fmt35 (M K x0 x1 x2 x3 x4 x5 n : Nat) (hM : M < 256) (hK : K = 0x800000 * M + 0x0) (hx0 : x0 < 2 ^ 1) (hx1 : x1 < 2 ^ 6) (hx2 : x2 < 2 ^ 6) (hx3 : x3 < 2 ^ 6) (hx4 : x4 < 2 ^ 1) (hx5 : x5 < 2 ^ 3)
    (hn : n = K + x0 * 0x80000000 + x1 * 0x20000 + x2 * 0x800 + x3 * 0x20 + x4 * 0x8 + x5) :
    n < 0x100000000 ∧
      fld n 23 8 = M ∧
      fld n 0 3 = x5 ∧
      fld n 3 1 = x4 ∧
      fld n 4 1 = 0 ∧
      fld n 5 6 = x3 ∧
      fld n 11 6 = x2 ∧
      fld n 17 6 = x1 ∧
      fld n 31 1 = x0 := by
  subst hn hK
  simp only [fld]
  refine ⟨?_, ?_, ?_, ?_, ?_, ?_, ?_, ?_, ?_⟩ <;> omega

theorem fmt36 (M K x0 x1 x2 n : Nat) (hM : M < 256) (hK : K = 0x800000 * M + 0x0) (hx0 : x0 < 2 ^ 1) (hx1 : x1 < 2 ^ 6) (hx2 : x2 < 2 ^ 6)
    (hn : n = K + x0 * 0x80000000 + x1 * 0x800 + x2 * 0x20) :
    n < 0x100000000 ∧
      fld n 23 8 = M ∧
      fld n 0 5 = 0 ∧
      fld n 5 6 = x2 ∧
      fld n 11 6 = x1 ∧
      fld n 17 6 = 0 ∧
      fld n 31 1 = x0 := by
  subst hn hK
  simp only [fld]
  refine ⟨?_, ?_, ?_, ?_, ?_, ?_, ?_⟩ <;> omega

theorem fmt37 (M K x0 x1 x2 x3 n : Nat) (hM : M < 256) (hK : K = 0x800000 * M + 0x0) (hx0 : x0 < 2 ^ 1) (hx1 : x1 < 2 ^ 7) (hx2 : x2 < 2 ^ 7) (hx3 : x3 < 2 ^ 2)
    (hn : n = K + x0 * 0x80000000 + x1 * 0x10000 + x2 * 0x200 + x3) :
    n < 0x100000000 ∧
      fld n 23 8 = M ∧
      fld n 0 2 = x3 ∧
      fld n 2 7 = 0 ∧
      fld n 9 7 = x2 ∧
      fld n 16 7 = x1 ∧
      fld n 31 1 = x0 := by
  subst hn hK
  simp only [fld]
  refine ⟨?_, ?_, ?_, ?_, ?_, ?_, ?_⟩ <;> omega

theorem fmt38 (M K x0 x1 n : Nat) (hM : M < 256) (hK : K = 0x800000 * M + 0x0) (hx0 : x0 < 2 ^ 1) (hx1 : x1 < 2 ^ 6)
    (hn : n = K + x0 * 0x80000000 + x1 * 0x20000) :
    n < 0x100000000 ∧
      fld n 23 8 = M ∧
      fld n 0 17 = 0 ∧
      fld n 17 6 = x1 ∧
      fld n 31 1 = x0 := by
  subst hn hK
  simp only [fld]
  refine ⟨?_, ?_, ?_, ?_, ?_⟩ <;> omega

theorem fmt39 (M K x0 x1 x2 x3 n : Nat) (hM : M < 256) (hK : K = 0x800000 * M + 0x0) (hx0 : x0 < 2 ^ 1) (hx1 : x1 < 2 ^ 6) (hx2 : x2 < 2 ^ 6) (hx3 : x3 < 2 ^ 2)
    (hn : n = K + x0 * 0x80000000 + x1 * 0x800 + x2 * 0x20 + x3) :
    n < 0x100000000 ∧
      fld n 23 8 = M ∧
      fld n 0 2 = x3 ∧
      fld n 2 3 = 0 ∧
      fld n 5 6 = x2 ∧
      fld n 11 6 = x1 ∧
      fld n 17 6 = 0 ∧
      fld n 31 1 = x0 := by
  subst hn hK
  simp only [fld]
  refine ⟨?_, ?_, ?_, ?_, ?_, ?_, ?_, ?_⟩ <;> omega

theorem fmt40 (M K x0 x1 n : Nat) (hM : M < 256) (hK : K = 0x800000 * M + 0x0) (hx0 : x0 < 2 ^ 1) (hx1 : x1 < 2 ^ 2)
    (hn : n = K + x0 * 0x80000000 + x1 * 0x10000) :
    n < 0x100000000 ∧
      fld n 23 8 = M ∧
      fld n 0 16 = 0 ∧
      fld n 16 2 = x1 ∧
      fld n 18 5 = 0 ∧
      fld n 31 1 = x0 := by
  subst hn hK
  simp only [fld]
  refine ⟨?_, ?_, ?_, ?_, ?_, ?_⟩ <;> omega

theorem fmt41 (M K x0 x1 n : Nat) (hM : M < 256) (hK : K = 0x800000 * M + 0x0) (hx0 : x0 < 2 ^ 1) (hx1 : x1 < 2 ^ 7)
    (hn : n = K + x0 * 0x80000000 + x1 * 0x200) :
    n < 0x100000000 ∧
      fld n 23 8 = M ∧
      fld n 0 9 = 0 ∧
      fld n 9 7 = x1 ∧
      fld n 16 7 = 0 ∧
      fld n 31 1 = x0 := by
  subst hn hK
  simp only [fld]
  refine ⟨?_, ?_, ?_, ?_, ?_, ?_⟩ <;> omega

theorem fmt42 (M K x0 x1 x2 n : Nat) (hM : M < 256) (hK : K = 0x800000 * M + 0x1) (hx0 : x0 < 2 ^ 1) (hx1 : x1 < 2 ^ 6) (hx2 : x2 < 2 ^ 6)
    (hn : n = K + x0 * 0x80000000 + x1 * 0x800 + x2 * 0x20) :
    n < 0x100000000 ∧
      fld n 23 8 = M ∧
      fld n 0 5 = 1 ∧
      fld n 5 6 = x2 ∧
      fld n 11 6 = x1 ∧
      fld n 17 6 = 0 ∧
      fld n 31 1 = x0 := by
  subst hn hK
  simp only [fld]
  refine ⟨?_, ?_, ?_, ?_, ?_, ?_, ?_⟩ <;> omega

theorem fmt43 (M K x0 x1 x2 n : Nat) (hM : M < 256) (hK : K = 0x800000 * M + 0x0) (hx0 : x0 < 2 ^ 1) (hx1 : x1 < 2 ^ 6) (hx2 : x2 < 2 ^ 1)
    (hn : n = K + x0 * 0x80000000 + x1 * 0x20000 + x2) :
    n < 0x100000000 ∧
      fld n 23 8 = M ∧
      fld n 0 1 = x2 ∧
      fld n 1 16 = 0 ∧
      fld n 17 6 = x1 ∧
      fld n 31 1 = x0 := by
  subst hn hK
  simp only [fld]
  refine ⟨?_, ?_, ?_, ?_, ?_, ?_⟩ <;> omega

theorem fmt44 (M K  n : Nat) (hM : M < 256) (hK : K = 0x800000 * M + 0x0)
    (hn : n = K) :
    n < 0x100000000 ∧
      fld n 23 8 = M ∧
      fld n 0 23 = 0 ∧
      fld n 31 1 = 0 := by
  subst hn hK
  simp only [fld]
  refine ⟨?_, ?_, ?_, ?_⟩ <;> omega

/-- An instruction word is below 2^32 and its fields give the instruction back. -/
def Statement (i : Instr) : Prop :=
  i.isWord = true → encodeNat i < 0x100000000 ∧ decodeFields (encodeNat i) = .ok i

/-! ## One lemma a constructor -/

theorem of_braZ (p : Bool) (c : SNum) (o : BitVec 17) (u : Nat) (he : u = 0x00800000 + p.toNat * 0x80000000 + c.toNat * 0x20000 + o.toNat) :
    u < 0x100000000 ∧ decodeFields u = .ok (.braZ p c o) := by
  obtain ⟨hb, hm, q0, q1, q2⟩ := fmt0 0x1 0x800000 p.toNat c.toNat o.toNat u (by decide) (by decide) (Bool.toNat_lt p) c.isLt o.isLt he
  exact ⟨hb, by simp [decodeFields, fieldsControl, hm, q0, q1, q2, bit, bv]⟩

theorem braZ (p : Bool) (c : SNum) (o : BitVec 17) : Statement (.braZ p c o) := fun _ => of_braZ p c o _ rfl

theorem of_braNz (p : Bool) (c : SNum) (o : BitVec 17) (u : Nat) (he : u = 0x01000000 + p.toNat * 0x80000000 + c.toNat * 0x20000 + o.toNat) :
    u < 0x100000000 ∧ decodeFields u = .ok (.braNz p c o) := by
  obtain ⟨hb, hm, q0, q1, q2⟩ := fmt0 0x2 0x1000000 p.toNat c.toNat o.toNat u (by decide) (by decide) (Bool.toNat_lt p) c.isLt o.isLt he
  exact ⟨hb, by simp [decodeFields, fieldsControl, hm, q0, q1, q2, bit, bv]⟩

theorem braNz (p : Bool) (c : SNum) (o : BitVec 17) : Statement (.braNz p c o) := fun _ => of_braNz p c o _ rfl

theorem of_brd (p : Bool) (c : SNum) (o : BitVec 17) (u : Nat) (he : u = 0x01800000 + p.toNat * 0x80000000 + c.toNat * 0x20000 + o.toNat) :
    u < 0x100000000 ∧ decodeFields u = .ok (.brd p c o) := by
  obtain ⟨hb, hm, q0, q1, q2⟩ := fmt0 0x3 0x1800000 p.toNat c.toNat o.toNat u (by decide) (by decide) (Bool.toNat_lt p) c.isLt o.isLt he
  exact ⟨hb, by simp [decodeFields, fieldsControl, hm, q0, q1, q2, bit, bv]⟩

theorem brd (p : Bool) (c : SNum) (o : BitVec 17) : Statement (.brd p c o) := fun _ => of_brd p c o _ rfl

theorem of_call (p : Bool) (c : SNum) (o : BitVec 17) (u : Nat) (he : u = 0x02000000 + p.toNat * 0x80000000 + c.toNat * 0x20000 + o.toNat) :
    u < 0x100000000 ∧ decodeFields u = .ok (.call p c o) := by
  obtain ⟨hb, hm, q0, q1, q2⟩ := fmt0 0x4 0x2000000 p.toNat c.toNat o.toNat u (by decide) (by decide) (Bool.toNat_lt p) c.isLt o.isLt he
  exact ⟨hb, by simp [decodeFields, fieldsControl, hm, q0, q1, q2, bit, bv]⟩

theorem call (p : Bool) (c : SNum) (o : BitVec 17) : Statement (.call p c o) := fun _ => of_call p c o _ rfl

theorem of_jmpi (p : Bool) (a : SNum) (u : Nat) (he : u = 0x02800000 + p.toNat * 0x80000000 + a.toNat * 0x800) :
    u < 0x100000000 ∧ decodeFields u = .ok (.jmpi p a) := by
  obtain ⟨hb, hm, q0, q1, q2, q3⟩ := fmt1 0x5 0x2800000 p.toNat a.toNat u (by decide) (by decide) (Bool.toNat_lt p) a.isLt he
  exact ⟨hb, by simp [decodeFields, fieldsControl, hm, q0, q1, q2, q3, bit, bv]⟩

theorem jmpi (p : Bool) (a : SNum) : Statement (.jmpi p a) := fun _ => of_jmpi p a _ rfl

theorem of_ret (p : Bool) (a : SNum) (u : Nat) (he : u = 0x02800001 + p.toNat * 0x80000000 + a.toNat * 0x800) :
    u < 0x100000000 ∧ decodeFields u = .ok (.ret p a) := by
  obtain ⟨hb, hm, q0, q1, q2, q3⟩ := fmt2 0x5 0x2800001 p.toNat a.toNat u (by decide) (by decide) (Bool.toNat_lt p) a.isLt he
  exact ⟨hb, by simp [decodeFields, fieldsControl, hm, q0, q1, q2, q3, bit, bv]⟩

theorem ret (p : Bool) (a : SNum) : Statement (.ret p a) := fun _ => of_ret p a _ rfl

theorem of_sread (p : Bool) (d : SNum) (n : BitVec 12) (u : Nat) (he : u = 0x03000000 + p.toNat * 0x80000000 + d.toNat * 0x10000 + n.toNat) :
    u < 0x100000000 ∧ decodeFields u = .ok (.sread p d n) := by
  obtain ⟨hb, hm, q0, q1, q2, q3, q4⟩ := fmt3 0x6 0x3000000 p.toNat d.toNat n.toNat u (by decide) (by decide) (Bool.toNat_lt p) d.isLt n.isLt he
  exact ⟨hb, by simp [decodeFields, fieldsControl, hm, q0, q1, q2, q3, q4, bit, bv]⟩

theorem sread (p : Bool) (d : SNum) (n : BitVec 12) : Statement (.sread p d n) := fun _ => of_sread p d n _ rfl

theorem of_sreadClr (p : Bool) (d : SNum) (n : BitVec 12) (u : Nat) (he : u = 0x03008000 + p.toNat * 0x80000000 + d.toNat * 0x10000 + n.toNat) :
    u < 0x100000000 ∧ decodeFields u = .ok (.sreadClr p d n) := by
  obtain ⟨hb, hm, q0, q1, q2, q3, q4⟩ := fmt4 0x6 0x3008000 p.toNat d.toNat n.toNat u (by decide) (by decide) (Bool.toNat_lt p) d.isLt n.isLt he
  exact ⟨hb, by simp [decodeFields, fieldsControl, hm, q0, q1, q2, q3, q4, bit, bv]⟩

theorem sreadClr (p : Bool) (d : SNum) (n : BitVec 12) : Statement (.sreadClr p d n) := fun _ => of_sreadClr p d n _ rfl

theorem of_swid (p : Bool) (d : SNum) (n : Imm16) (u : Nat) (he : u = 0x03800000 + p.toNat * 0x80000000 + d.toNat * 0x10000 + n.toNat) :
    u < 0x100000000 ∧ decodeFields u = .ok (.swid p d n) := by
  obtain ⟨hb, hm, q0, q1, q2, q3⟩ := fmt5 0x7 0x3800000 p.toNat d.toNat n.toNat u (by decide) (by decide) (Bool.toNat_lt p) d.isLt n.isLt he
  exact ⟨hb, by simp [decodeFields, fieldsControl, hm, q0, q1, q2, q3, bit, bv, zero]⟩

theorem swid (p : Bool) (d : SNum) (n : Imm16) : Statement (.swid p d n) := fun _ => of_swid p d n _ rfl

theorem of_vwid (p : Bool) (d : VNum) (n : Imm16) (u : Nat) (he : u = 0x04000000 + p.toNat * 0x80000000 + d.toNat * 0x10000 + n.toNat) :
    u < 0x100000000 ∧ decodeFields u = .ok (.vwid p d n) := by
  obtain ⟨hb, hm, q0, q1, q2⟩ := fmt6 0x8 0x4000000 p.toNat d.toNat n.toNat u (by decide) (by decide) (Bool.toNat_lt p) d.isLt n.isLt he
  exact ⟨hb, by simp [decodeFields, fieldsControl, hm, q0, q1, q2, bit, bv]⟩

theorem vwid (p : Bool) (d : VNum) (n : Imm16) : Statement (.vwid p d n) := fun _ => of_vwid p d n _ rfl

theorem of_spawn (p : Bool) (a : VNum) (b : SNum) (u : Nat) (he : u = 0x04800000 + p.toNat * 0x80000000 + a.toNat * 0x200 + b.toNat * 0x8) :
    u < 0x100000000 ∧ decodeFields u = .ok (.spawn p a b) := by
  obtain ⟨hb, hm, q0, q1, q2, q3, q4⟩ := fmt7 0x9 0x4800000 p.toNat a.toNat b.toNat u (by decide) (by decide) (Bool.toNat_lt p) a.isLt b.isLt he
  exact ⟨hb, by simp [decodeFields, fieldsControl, hm, q0, q1, q2, q3, q4, bit, bv, zero]⟩

theorem spawn (p : Bool) (a : VNum) (b : SNum) : Statement (.spawn p a b) := fun _ => of_spawn p a b _ rfl

theorem of_trap (p : Bool) (n : Imm16) (u : Nat) (he : u = 0x05000000 + p.toNat * 0x80000000 + n.toNat) :
    u < 0x100000000 ∧ decodeFields u = .ok (.trap p n) := by
  obtain ⟨hb, hm, q0, q1, q2⟩ := fmt8 0xA 0x5000000 p.toNat n.toNat u (by decide) (by decide) (Bool.toNat_lt p) n.isLt he
  exact ⟨hb, by simp [decodeFields, fieldsControl, hm, q0, q1, q2, bit, bv, zero]⟩

theorem trap (p : Bool) (n : Imm16) : Statement (.trap p n) := fun _ => of_trap p n _ rfl

theorem of_bar (p : Bool) (d : SNum) (n : BitVec 4) (u : Nat) (he : u = 0x05800000 + p.toNat * 0x80000000 + d.toNat * 0x10000 + n.toNat) :
    u < 0x100000000 ∧ decodeFields u = .ok (.bar p d n) := by
  obtain ⟨hb, hm, q0, q1, q2, q3, q4⟩ := fmt9 0xB 0x5800000 p.toNat d.toNat n.toNat u (by decide) (by decide) (Bool.toNat_lt p) d.isLt n.isLt he
  exact ⟨hb, by simp [decodeFields, fieldsControl, hm, q0, q1, q2, q3, q4, bit, bv, zero]⟩

theorem bar (p : Bool) (d : SNum) (n : BitVec 4) : Statement (.bar p d n) := fun _ => of_bar p d n _ rfl

theorem of_barg (p : Bool) (d : SNum) (n : BitVec 4) (u : Nat) (he : u = 0x06000000 + p.toNat * 0x80000000 + d.toNat * 0x10000 + n.toNat) :
    u < 0x100000000 ∧ decodeFields u = .ok (.barg p d n) := by
  obtain ⟨hb, hm, q0, q1, q2, q3, q4⟩ := fmt9 0xC 0x6000000 p.toNat d.toNat n.toNat u (by decide) (by decide) (Bool.toNat_lt p) d.isLt n.isLt he
  exact ⟨hb, by simp [decodeFields, fieldsControl, hm, q0, q1, q2, q3, q4, bit, bv, zero]⟩

theorem barg (p : Bool) (d : SNum) (n : BitVec 4) : Statement (.barg p d n) := fun _ => of_barg p d n _ rfl

theorem of_nop (p : Bool) (u : Nat) (he : u = 0x07800000 + p.toNat * 0x80000000) :
    u < 0x100000000 ∧ decodeFields u = .ok (.nop p) := by
  obtain ⟨hb, hm, q0, q1⟩ := fmt10 0xF 0x7800000 p.toNat u (by decide) (by decide) (Bool.toNat_lt p) he
  exact ⟨hb, by simp [decodeFields, fieldsControl, hm, q0, q1, bit]⟩

theorem nop (p : Bool) : Statement (.nop p) := fun _ => of_nop p _ rfl

theorem of_join (p : Bool) (u : Nat) (he : u = 0x07810000 + p.toNat * 0x80000000) :
    u < 0x100000000 ∧ decodeFields u = .ok (.join p) := by
  obtain ⟨hb, hm, q0, q1⟩ := fmt11 0xF 0x7810000 p.toNat u (by decide) (by decide) (Bool.toNat_lt p) he
  exact ⟨hb, by simp [decodeFields, fieldsControl, hm, q0, q1, bit]⟩

theorem join (p : Bool) : Statement (.join p) := fun _ => of_join p _ rfl

theorem of_exit (u : Nat) (he : u = 0x07820000) :
    u < 0x100000000 ∧ decodeFields u = .ok .exit := by
  obtain ⟨hb, hm, q0, q1⟩ := fmt12 0xF 0x7820000  u (by decide) (by decide)  he
  exact ⟨hb, by simp [decodeFields, fieldsControl, hm, q0, q1, bit, noSafePoint]⟩

theorem exit : Statement .exit := fun _ => of_exit _ rfl

theorem of_yield (p : Bool) (u : Nat) (he : u = 0x07830000 + p.toNat * 0x80000000) :
    u < 0x100000000 ∧ decodeFields u = .ok (.yield p) := by
  obtain ⟨hb, hm, q0, q1⟩ := fmt13 0xF 0x7830000 p.toNat u (by decide) (by decide) (Bool.toNat_lt p) he
  exact ⟨hb, by simp [decodeFields, fieldsControl, hm, q0, q1, bit]⟩

theorem yield (p : Bool) : Statement (.yield p) := fun _ => of_yield p _ rfl

theorem of_sadd (p : Bool) (d : SNum) (a : SNum) (b : SNum) (u : Nat) (he : u = 0x08000000 + p.toNat * 0x80000000 + d.toNat * 0x20000 + a.toNat * 0x800 + b.toNat * 0x20) :
    u < 0x100000000 ∧ decodeFields u = .ok (.sadd p d a b) := by
  obtain ⟨hb, hm, q0, q1, q2, q3, q4⟩ := fmt14 0x10 0x8000000 p.toNat d.toNat a.toNat b.toNat u (by decide) (by decide) (Bool.toNat_lt p) d.isLt a.isLt b.isLt he
  exact ⟨hb, by simp [decodeFields, fieldsScalar, hm, q0, q1, q2, q3, q4, bit, bv, zero]⟩

theorem sadd (p : Bool) (d : SNum) (a : SNum) (b : SNum) : Statement (.sadd p d a b) := fun _ => of_sadd p d a b _ rfl

theorem of_ssub (p : Bool) (d : SNum) (a : SNum) (b : SNum) (u : Nat) (he : u = 0x08800000 + p.toNat * 0x80000000 + d.toNat * 0x20000 + a.toNat * 0x800 + b.toNat * 0x20) :
    u < 0x100000000 ∧ decodeFields u = .ok (.ssub p d a b) := by
  obtain ⟨hb, hm, q0, q1, q2, q3, q4⟩ := fmt14 0x11 0x8800000 p.toNat d.toNat a.toNat b.toNat u (by decide) (by decide) (Bool.toNat_lt p) d.isLt a.isLt b.isLt he
  exact ⟨hb, by simp [decodeFields, fieldsScalar, hm, q0, q1, q2, q3, q4, bit, bv, zero]⟩

theorem ssub (p : Bool) (d : SNum) (a : SNum) (b : SNum) : Statement (.ssub p d a b) := fun _ => of_ssub p d a b _ rfl

theorem of_smul (p : Bool) (d : SNum) (a : SNum) (b : SNum) (u : Nat) (he : u = 0x09000000 + p.toNat * 0x80000000 + d.toNat * 0x20000 + a.toNat * 0x800 + b.toNat * 0x20) :
    u < 0x100000000 ∧ decodeFields u = .ok (.smul p d a b) := by
  obtain ⟨hb, hm, q0, q1, q2, q3, q4⟩ := fmt14 0x12 0x9000000 p.toNat d.toNat a.toNat b.toNat u (by decide) (by decide) (Bool.toNat_lt p) d.isLt a.isLt b.isLt he
  exact ⟨hb, by simp [decodeFields, fieldsScalar, hm, q0, q1, q2, q3, q4, bit, bv, zero]⟩

theorem smul (p : Bool) (d : SNum) (a : SNum) (b : SNum) : Statement (.smul p d a b) := fun _ => of_smul p d a b _ rfl

theorem of_smulh (p : Bool) (d : SNum) (a : SNum) (b : SNum) (u : Nat) (he : u = 0x09800000 + p.toNat * 0x80000000 + d.toNat * 0x20000 + a.toNat * 0x800 + b.toNat * 0x20) :
    u < 0x100000000 ∧ decodeFields u = .ok (.smulh p d a b) := by
  obtain ⟨hb, hm, q0, q1, q2, q3, q4⟩ := fmt14 0x13 0x9800000 p.toNat d.toNat a.toNat b.toNat u (by decide) (by decide) (Bool.toNat_lt p) d.isLt a.isLt b.isLt he
  exact ⟨hb, by simp [decodeFields, fieldsScalar, hm, q0, q1, q2, q3, q4, bit, bv, zero]⟩

theorem smulh (p : Bool) (d : SNum) (a : SNum) (b : SNum) : Statement (.smulh p d a b) := fun _ => of_smulh p d a b _ rfl

theorem of_sdiv (p : Bool) (d : SNum) (a : SNum) (b : SNum) (u : Nat) (he : u = 0x0A000000 + p.toNat * 0x80000000 + d.toNat * 0x20000 + a.toNat * 0x800 + b.toNat * 0x20) :
    u < 0x100000000 ∧ decodeFields u = .ok (.sdiv p d a b) := by
  obtain ⟨hb, hm, q0, q1, q2, q3, q4⟩ := fmt14 0x14 0xA000000 p.toNat d.toNat a.toNat b.toNat u (by decide) (by decide) (Bool.toNat_lt p) d.isLt a.isLt b.isLt he
  exact ⟨hb, by simp [decodeFields, fieldsScalar, hm, q0, q1, q2, q3, q4, bit, bv, zero]⟩

theorem sdiv (p : Bool) (d : SNum) (a : SNum) (b : SNum) : Statement (.sdiv p d a b) := fun _ => of_sdiv p d a b _ rfl

theorem of_srem (p : Bool) (d : SNum) (a : SNum) (b : SNum) (u : Nat) (he : u = 0x0A800000 + p.toNat * 0x80000000 + d.toNat * 0x20000 + a.toNat * 0x800 + b.toNat * 0x20) :
    u < 0x100000000 ∧ decodeFields u = .ok (.srem p d a b) := by
  obtain ⟨hb, hm, q0, q1, q2, q3, q4⟩ := fmt14 0x15 0xA800000 p.toNat d.toNat a.toNat b.toNat u (by decide) (by decide) (Bool.toNat_lt p) d.isLt a.isLt b.isLt he
  exact ⟨hb, by simp [decodeFields, fieldsScalar, hm, q0, q1, q2, q3, q4, bit, bv, zero]⟩

theorem srem (p : Bool) (d : SNum) (a : SNum) (b : SNum) : Statement (.srem p d a b) := fun _ => of_srem p d a b _ rfl

theorem of_sand (p : Bool) (d : SNum) (a : SNum) (b : SNum) (u : Nat) (he : u = 0x0B000000 + p.toNat * 0x80000000 + d.toNat * 0x20000 + a.toNat * 0x800 + b.toNat * 0x20) :
    u < 0x100000000 ∧ decodeFields u = .ok (.sand p d a b) := by
  obtain ⟨hb, hm, q0, q1, q2, q3, q4⟩ := fmt14 0x16 0xB000000 p.toNat d.toNat a.toNat b.toNat u (by decide) (by decide) (Bool.toNat_lt p) d.isLt a.isLt b.isLt he
  exact ⟨hb, by simp [decodeFields, fieldsScalar, hm, q0, q1, q2, q3, q4, bit, bv, zero]⟩

theorem sand (p : Bool) (d : SNum) (a : SNum) (b : SNum) : Statement (.sand p d a b) := fun _ => of_sand p d a b _ rfl

theorem of_sor (p : Bool) (d : SNum) (a : SNum) (b : SNum) (u : Nat) (he : u = 0x0B800000 + p.toNat * 0x80000000 + d.toNat * 0x20000 + a.toNat * 0x800 + b.toNat * 0x20) :
    u < 0x100000000 ∧ decodeFields u = .ok (.sor p d a b) := by
  obtain ⟨hb, hm, q0, q1, q2, q3, q4⟩ := fmt14 0x17 0xB800000 p.toNat d.toNat a.toNat b.toNat u (by decide) (by decide) (Bool.toNat_lt p) d.isLt a.isLt b.isLt he
  exact ⟨hb, by simp [decodeFields, fieldsScalar, hm, q0, q1, q2, q3, q4, bit, bv, zero]⟩

theorem sor (p : Bool) (d : SNum) (a : SNum) (b : SNum) : Statement (.sor p d a b) := fun _ => of_sor p d a b _ rfl

theorem of_sxor (p : Bool) (d : SNum) (a : SNum) (b : SNum) (u : Nat) (he : u = 0x0C000000 + p.toNat * 0x80000000 + d.toNat * 0x20000 + a.toNat * 0x800 + b.toNat * 0x20) :
    u < 0x100000000 ∧ decodeFields u = .ok (.sxor p d a b) := by
  obtain ⟨hb, hm, q0, q1, q2, q3, q4⟩ := fmt14 0x18 0xC000000 p.toNat d.toNat a.toNat b.toNat u (by decide) (by decide) (Bool.toNat_lt p) d.isLt a.isLt b.isLt he
  exact ⟨hb, by simp [decodeFields, fieldsScalar, hm, q0, q1, q2, q3, q4, bit, bv, zero]⟩

theorem sxor (p : Bool) (d : SNum) (a : SNum) (b : SNum) : Statement (.sxor p d a b) := fun _ => of_sxor p d a b _ rfl

theorem of_sshl (p : Bool) (d : SNum) (a : SNum) (b : SNum) (u : Nat) (he : u = 0x0C800000 + p.toNat * 0x80000000 + d.toNat * 0x20000 + a.toNat * 0x800 + b.toNat * 0x20) :
    u < 0x100000000 ∧ decodeFields u = .ok (.sshl p d a b) := by
  obtain ⟨hb, hm, q0, q1, q2, q3, q4⟩ := fmt14 0x19 0xC800000 p.toNat d.toNat a.toNat b.toNat u (by decide) (by decide) (Bool.toNat_lt p) d.isLt a.isLt b.isLt he
  exact ⟨hb, by simp [decodeFields, fieldsScalar, hm, q0, q1, q2, q3, q4, bit, bv, zero]⟩

theorem sshl (p : Bool) (d : SNum) (a : SNum) (b : SNum) : Statement (.sshl p d a b) := fun _ => of_sshl p d a b _ rfl

theorem of_sshr (p : Bool) (d : SNum) (a : SNum) (b : SNum) (u : Nat) (he : u = 0x0D000000 + p.toNat * 0x80000000 + d.toNat * 0x20000 + a.toNat * 0x800 + b.toNat * 0x20) :
    u < 0x100000000 ∧ decodeFields u = .ok (.sshr p d a b) := by
  obtain ⟨hb, hm, q0, q1, q2, q3, q4⟩ := fmt14 0x1A 0xD000000 p.toNat d.toNat a.toNat b.toNat u (by decide) (by decide) (Bool.toNat_lt p) d.isLt a.isLt b.isLt he
  exact ⟨hb, by simp [decodeFields, fieldsScalar, hm, q0, q1, q2, q3, q4, bit, bv, zero]⟩

theorem sshr (p : Bool) (d : SNum) (a : SNum) (b : SNum) : Statement (.sshr p d a b) := fun _ => of_sshr p d a b _ rfl

theorem of_ssra (p : Bool) (d : SNum) (a : SNum) (b : SNum) (u : Nat) (he : u = 0x0D800000 + p.toNat * 0x80000000 + d.toNat * 0x20000 + a.toNat * 0x800 + b.toNat * 0x20) :
    u < 0x100000000 ∧ decodeFields u = .ok (.ssra p d a b) := by
  obtain ⟨hb, hm, q0, q1, q2, q3, q4⟩ := fmt14 0x1B 0xD800000 p.toNat d.toNat a.toNat b.toNat u (by decide) (by decide) (Bool.toNat_lt p) d.isLt a.isLt b.isLt he
  exact ⟨hb, by simp [decodeFields, fieldsScalar, hm, q0, q1, q2, q3, q4, bit, bv, zero]⟩

theorem ssra (p : Bool) (d : SNum) (a : SNum) (b : SNum) : Statement (.ssra p d a b) := fun _ => of_ssra p d a b _ rfl

theorem of_srot (p : Bool) (d : SNum) (a : SNum) (b : SNum) (u : Nat) (he : u = 0x0E000000 + p.toNat * 0x80000000 + d.toNat * 0x20000 + a.toNat * 0x800 + b.toNat * 0x20) :
    u < 0x100000000 ∧ decodeFields u = .ok (.srot p d a b) := by
  obtain ⟨hb, hm, q0, q1, q2, q3, q4⟩ := fmt14 0x1C 0xE000000 p.toNat d.toNat a.toNat b.toNat u (by decide) (by decide) (Bool.toNat_lt p) d.isLt a.isLt b.isLt he
  exact ⟨hb, by simp [decodeFields, fieldsScalar, hm, q0, q1, q2, q3, q4, bit, bv, zero]⟩

theorem srot (p : Bool) (d : SNum) (a : SNum) (b : SNum) : Statement (.srot p d a b) := fun _ => of_srot p d a b _ rfl

theorem of_smin (p : Bool) (d : SNum) (a : SNum) (b : SNum) (u : Nat) (he : u = 0x0E800000 + p.toNat * 0x80000000 + d.toNat * 0x20000 + a.toNat * 0x800 + b.toNat * 0x20) :
    u < 0x100000000 ∧ decodeFields u = .ok (.smin p d a b) := by
  obtain ⟨hb, hm, q0, q1, q2, q3, q4⟩ := fmt14 0x1D 0xE800000 p.toNat d.toNat a.toNat b.toNat u (by decide) (by decide) (Bool.toNat_lt p) d.isLt a.isLt b.isLt he
  exact ⟨hb, by simp [decodeFields, fieldsScalar, hm, q0, q1, q2, q3, q4, bit, bv, zero]⟩

theorem smin (p : Bool) (d : SNum) (a : SNum) (b : SNum) : Statement (.smin p d a b) := fun _ => of_smin p d a b _ rfl

theorem of_smax (p : Bool) (d : SNum) (a : SNum) (b : SNum) (u : Nat) (he : u = 0x0F000000 + p.toNat * 0x80000000 + d.toNat * 0x20000 + a.toNat * 0x800 + b.toNat * 0x20) :
    u < 0x100000000 ∧ decodeFields u = .ok (.smax p d a b) := by
  obtain ⟨hb, hm, q0, q1, q2, q3, q4⟩ := fmt14 0x1E 0xF000000 p.toNat d.toNat a.toNat b.toNat u (by decide) (by decide) (Bool.toNat_lt p) d.isLt a.isLt b.isLt he
  exact ⟨hb, by simp [decodeFields, fieldsScalar, hm, q0, q1, q2, q3, q4, bit, bv, zero]⟩

theorem smax (p : Bool) (d : SNum) (a : SNum) (b : SNum) : Statement (.smax p d a b) := fun _ => of_smax p d a b _ rfl

theorem of_scmp (p : Bool) (d : SNum) (a : SNum) (b : SNum) (c : Cond) (u : Nat) (he : u = 0x0F800000 + p.toNat * 0x80000000 + d.toNat * 0x20000 + a.toNat * 0x800 + b.toNat * 0x20 + c.code) :
    u < 0x100000000 ∧ decodeFields u = .ok (.scmp p d a b c) := by
  obtain ⟨hb, hm, q0, q1, q2, q3, q4⟩ := fmt15 0x1F 0xF800000 p.toNat d.toNat a.toNat b.toNat c.code u (by decide) (by decide) (Bool.toNat_lt p) d.isLt a.isLt b.isLt (Cond.code_lt c) he
  exact ⟨hb, by simp [decodeFields, fieldsScalar, hm, q0, q1, q2, q3, q4, bit, bv, code, Cond.ofCode_code]⟩

theorem scmp (p : Bool) (d : SNum) (a : SNum) (b : SNum) (c : Cond) : Statement (.scmp p d a b c) := fun _ => of_scmp p d a b c _ rfl

theorem of_ssel (p : Bool) (d : SNum) (a : SNum) (b : SNum) (u : Nat) (he : u = 0x10000000 + p.toNat * 0x80000000 + d.toNat * 0x20000 + a.toNat * 0x800 + b.toNat * 0x20) :
    u < 0x100000000 ∧ decodeFields u = .ok (.ssel p d a b) := by
  obtain ⟨hb, hm, q0, q1, q2, q3, q4⟩ := fmt14 0x20 0x10000000 p.toNat d.toNat a.toNat b.toNat u (by decide) (by decide) (Bool.toNat_lt p) d.isLt a.isLt b.isLt he
  exact ⟨hb, by simp [decodeFields, fieldsScalar, hm, q0, q1, q2, q3, q4, bit, bv, zero]⟩

theorem ssel (p : Bool) (d : SNum) (a : SNum) (b : SNum) : Statement (.ssel p d a b) := fun _ => of_ssel p d a b _ rfl

theorem of_smovi (p : Bool) (d : SNum) (i : Imm16) (u : Nat) (he : u = 0x10800000 + p.toNat * 0x80000000 + d.toNat * 0x10000 + i.toNat) :
    u < 0x100000000 ∧ decodeFields u = .ok (.smovi p d i) := by
  obtain ⟨hb, hm, q0, q1, q2, q3⟩ := fmt5 0x21 0x10800000 p.toNat d.toNat i.toNat u (by decide) (by decide) (Bool.toNat_lt p) d.isLt i.isLt he
  exact ⟨hb, by simp [decodeFields, fieldsScalar, hm, q0, q1, q2, q3, bit, bv, zero]⟩

theorem smovi (p : Bool) (d : SNum) (i : Imm16) : Statement (.smovi p d i) := fun _ => of_smovi p d i _ rfl

theorem of_smovh (p : Bool) (d : SNum) (i : Imm16) (u : Nat) (he : u = 0x11000000 + p.toNat * 0x80000000 + d.toNat * 0x10000 + i.toNat) :
    u < 0x100000000 ∧ decodeFields u = .ok (.smovh p d i) := by
  obtain ⟨hb, hm, q0, q1, q2, q3⟩ := fmt5 0x22 0x11000000 p.toNat d.toNat i.toNat u (by decide) (by decide) (Bool.toNat_lt p) d.isLt i.isLt he
  exact ⟨hb, by simp [decodeFields, fieldsScalar, hm, q0, q1, q2, q3, bit, bv, zero]⟩

theorem smovh (p : Bool) (d : SNum) (i : Imm16) : Statement (.smovh p d i) := fun _ => of_smovh p d i _ rfl

theorem of_saddi (p : Bool) (d : SNum) (i : Imm16) (u : Nat) (he : u = 0x11800000 + p.toNat * 0x80000000 + d.toNat * 0x10000 + i.toNat) :
    u < 0x100000000 ∧ decodeFields u = .ok (.saddi p d i) := by
  obtain ⟨hb, hm, q0, q1, q2, q3⟩ := fmt5 0x23 0x11800000 p.toNat d.toNat i.toNat u (by decide) (by decide) (Bool.toNat_lt p) d.isLt i.isLt he
  exact ⟨hb, by simp [decodeFields, fieldsScalar, hm, q0, q1, q2, q3, bit, bv, zero]⟩

theorem saddi (p : Bool) (d : SNum) (i : Imm16) : Statement (.saddi p d i) := fun _ => of_saddi p d i _ rfl

theorem of_spopc (p : Bool) (d : SNum) (a : SNum) (u : Nat) (he : u = 0x12000000 + p.toNat * 0x80000000 + d.toNat * 0x20000 + a.toNat * 0x800) :
    u < 0x100000000 ∧ decodeFields u = .ok (.spopc p d a) := by
  obtain ⟨hb, hm, q0, q1, q2, q3⟩ := fmt16 0x24 0x12000000 p.toNat d.toNat a.toNat u (by decide) (by decide) (Bool.toNat_lt p) d.isLt a.isLt he
  exact ⟨hb, by simp [decodeFields, fieldsScalar, hm, q0, q1, q2, q3, bit, bv, zero]⟩

theorem spopc (p : Bool) (d : SNum) (a : SNum) : Statement (.spopc p d a) := fun _ => of_spopc p d a _ rfl

theorem of_sclz (p : Bool) (d : SNum) (a : SNum) (u : Nat) (he : u = 0x12800000 + p.toNat * 0x80000000 + d.toNat * 0x20000 + a.toNat * 0x800) :
    u < 0x100000000 ∧ decodeFields u = .ok (.sclz p d a) := by
  obtain ⟨hb, hm, q0, q1, q2, q3⟩ := fmt16 0x25 0x12800000 p.toNat d.toNat a.toNat u (by decide) (by decide) (Bool.toNat_lt p) d.isLt a.isLt he
  exact ⟨hb, by simp [decodeFields, fieldsScalar, hm, q0, q1, q2, q3, bit, bv, zero]⟩

theorem sclz (p : Bool) (d : SNum) (a : SNum) : Statement (.sclz p d a) := fun _ => of_sclz p d a _ rfl

theorem of_sctz (p : Bool) (d : SNum) (a : SNum) (u : Nat) (he : u = 0x13000000 + p.toNat * 0x80000000 + d.toNat * 0x20000 + a.toNat * 0x800) :
    u < 0x100000000 ∧ decodeFields u = .ok (.sctz p d a) := by
  obtain ⟨hb, hm, q0, q1, q2, q3⟩ := fmt16 0x26 0x13000000 p.toNat d.toNat a.toNat u (by decide) (by decide) (Bool.toNat_lt p) d.isLt a.isLt he
  exact ⟨hb, by simp [decodeFields, fieldsScalar, hm, q0, q1, q2, q3, bit, bv, zero]⟩

theorem sctz (p : Bool) (d : SNum) (a : SNum) : Statement (.sctz p d a) := fun _ => of_sctz p d a _ rfl

theorem of_sbrev (p : Bool) (d : SNum) (a : SNum) (u : Nat) (he : u = 0x13800000 + p.toNat * 0x80000000 + d.toNat * 0x20000 + a.toNat * 0x800) :
    u < 0x100000000 ∧ decodeFields u = .ok (.sbrev p d a) := by
  obtain ⟨hb, hm, q0, q1, q2, q3⟩ := fmt16 0x27 0x13800000 p.toNat d.toNat a.toNat u (by decide) (by decide) (Bool.toNat_lt p) d.isLt a.isLt he
  exact ⟨hb, by simp [decodeFields, fieldsScalar, hm, q0, q1, q2, q3, bit, bv, zero]⟩

theorem sbrev (p : Bool) (d : SNum) (a : SNum) : Statement (.sbrev p d a) := fun _ => of_sbrev p d a _ rfl

theorem of_sbfx (p : Bool) (d : SNum) (a : SNum) (b : SNum) (u : Nat) (he : u = 0x14000000 + p.toNat * 0x80000000 + d.toNat * 0x20000 + a.toNat * 0x800 + b.toNat * 0x20) :
    u < 0x100000000 ∧ decodeFields u = .ok (.sbfx p d a b) := by
  obtain ⟨hb, hm, q0, q1, q2, q3, q4⟩ := fmt14 0x28 0x14000000 p.toNat d.toNat a.toNat b.toNat u (by decide) (by decide) (Bool.toNat_lt p) d.isLt a.isLt b.isLt he
  exact ⟨hb, by simp [decodeFields, fieldsScalar, hm, q0, q1, q2, q3, q4, bit, bv, zero]⟩

theorem sbfx (p : Bool) (d : SNum) (a : SNum) (b : SNum) : Statement (.sbfx p d a b) := fun _ => of_sbfx p d a b _ rfl

theorem of_sbfi (p : Bool) (d : SNum) (a : SNum) (b : SNum) (u : Nat) (he : u = 0x14800000 + p.toNat * 0x80000000 + d.toNat * 0x20000 + a.toNat * 0x800 + b.toNat * 0x20) :
    u < 0x100000000 ∧ decodeFields u = .ok (.sbfi p d a b) := by
  obtain ⟨hb, hm, q0, q1, q2, q3, q4⟩ := fmt14 0x29 0x14800000 p.toNat d.toNat a.toNat b.toNat u (by decide) (by decide) (Bool.toNat_lt p) d.isLt a.isLt b.isLt he
  exact ⟨hb, by simp [decodeFields, fieldsScalar, hm, q0, q1, q2, q3, q4, bit, bv, zero]⟩

theorem sbfi (p : Bool) (d : SNum) (a : SNum) (b : SNum) : Statement (.sbfi p d a b) := fun _ => of_sbfi p d a b _ rfl

theorem of_sld (p : Bool) (d : SNum) (a : SNum) (b : SNum) (w : LdW) (u : Nat) (he : u = 0x15000000 + p.toNat * 0x80000000 + d.toNat * 0x20000 + a.toNat * 0x800 + b.toNat * 0x20 + w.code) :
    u < 0x100000000 ∧ decodeFields u = .ok (.sld p d a b w) := by
  obtain ⟨hb, hm, q0, q1, q2, q3, q4, q5⟩ := fmt17 0x2A 0x15000000 p.toNat d.toNat a.toNat b.toNat w.code u (by decide) (by decide) (Bool.toNat_lt p) d.isLt a.isLt b.isLt (LdW.code_lt w) he
  exact ⟨hb, by simp [decodeFields, fieldsScalar, hm, q0, q1, q2, q3, q4, q5, bit, bv, zero, code, LdW.ofCode_code]⟩

theorem sld (p : Bool) (d : SNum) (a : SNum) (b : SNum) (w : LdW) : Statement (.sld p d a b w) := fun _ => of_sld p d a b w _ rfl

theorem of_sst (p : Bool) (d : SNum) (a : SNum) (b : SNum) (w : StW) (u : Nat) (he : u = 0x15800000 + p.toNat * 0x80000000 + d.toNat * 0x20000 + a.toNat * 0x800 + b.toNat * 0x20 + w.code) :
    u < 0x100000000 ∧ decodeFields u = .ok (.sst p d a b w) := by
  obtain ⟨hb, hm, q0, q1, q2, q3, q4, q5⟩ := fmt18 0x2B 0x15800000 p.toNat d.toNat a.toNat b.toNat w.code u (by decide) (by decide) (Bool.toNat_lt p) d.isLt a.isLt b.isLt (StW.code_lt w) he
  exact ⟨hb, by simp [decodeFields, fieldsScalar, hm, q0, q1, q2, q3, q4, q5, bit, bv, zero, code, StW.ofCode_code]⟩

theorem sst (p : Bool) (d : SNum) (a : SNum) (b : SNum) (w : StW) : Statement (.sst p d a b w) := fun _ => of_sst p d a b w _ rfl

theorem of_sldc (p : Bool) (d : SNum) (n : Imm16) (u : Nat) (he : u = 0x16000000 + p.toNat * 0x80000000 + d.toNat * 0x10000 + n.toNat) :
    u < 0x100000000 ∧ decodeFields u = .ok (.sldc p d n) := by
  obtain ⟨hb, hm, q0, q1, q2, q3⟩ := fmt5 0x2C 0x16000000 p.toNat d.toNat n.toNat u (by decide) (by decide) (Bool.toNat_lt p) d.isLt n.isLt he
  exact ⟨hb, by simp [decodeFields, fieldsScalar, hm, q0, q1, q2, q3, bit, bv, zero]⟩

theorem sldc (p : Bool) (d : SNum) (n : Imm16) : Statement (.sldc p d n) := fun _ => of_sldc p d n _ rfl

theorem of_mode (p : Bool) (a : SNum) (u : Nat) (he : u = 0x18000000 + p.toNat * 0x80000000 + a.toNat * 0x800) :
    u < 0x100000000 ∧ decodeFields u = .ok (.mode p a) := by
  obtain ⟨hb, hm, q0, q1, q2, q3⟩ := fmt1 0x30 0x18000000 p.toNat a.toNat u (by decide) (by decide) (Bool.toNat_lt p) a.isLt he
  exact ⟨hb, by simp [decodeFields, fieldsLabel, hm, q0, q1, q2, q3, bit, bv, zero]⟩

theorem mode (p : Bool) (a : SNum) : Statement (.mode p a) := fun _ => of_mode p a _ rfl

theorem of_modei (p : Bool) (i : Imm16) (u : Nat) (he : u = 0x18800000 + p.toNat * 0x80000000 + i.toNat) :
    u < 0x100000000 ∧ decodeFields u = .ok (.modei p i) := by
  obtain ⟨hb, hm, q0, q1, q2⟩ := fmt8 0x31 0x18800000 p.toNat i.toNat u (by decide) (by decide) (Bool.toNat_lt p) i.isLt he
  exact ⟨hb, by simp [decodeFields, fieldsLabel, hm, q0, q1, q2, bit, bv, zero]⟩

theorem modei (p : Bool) (i : Imm16) : Statement (.modei p i) := fun _ => of_modei p i _ rfl

theorem of_lget (p : Bool) (d : SNum) (a : SNum) (u : Nat) (he : u = 0x19000000 + p.toNat * 0x80000000 + d.toNat * 0x20000 + a.toNat * 0x800) :
    u < 0x100000000 ∧ decodeFields u = .ok (.lget p d a) := by
  obtain ⟨hb, hm, q0, q1, q2, q3⟩ := fmt16 0x32 0x19000000 p.toNat d.toNat a.toNat u (by decide) (by decide) (Bool.toNat_lt p) d.isLt a.isLt he
  exact ⟨hb, by simp [decodeFields, fieldsLabel, hm, q0, q1, q2, q3, bit, bv, zero]⟩

theorem lget (p : Bool) (d : SNum) (a : SNum) : Statement (.lget p d a) := fun _ => of_lget p d a _ rfl

theorem of_lgetV (p : Bool) (d : VNum) (a : VNum) (u : Nat) (he : u = 0x19800000 + p.toNat * 0x80000000 + d.toNat * 0x10000 + a.toNat * 0x200) :
    u < 0x100000000 ∧ decodeFields u = .ok (.lgetV p d a) := by
  obtain ⟨hb, hm, q0, q1, q2, q3⟩ := fmt19 0x33 0x19800000 p.toNat d.toNat a.toNat u (by decide) (by decide) (Bool.toNat_lt p) d.isLt a.isLt he
  exact ⟨hb, by simp [decodeFields, fieldsLabel, hm, q0, q1, q2, q3, bit, bv, zero]⟩

theorem lgetV (p : Bool) (d : VNum) (a : VNum) : Statement (.lgetV p d a) := fun _ => of_lgetV p d a _ rfl

theorem of_ljoin (p : Bool) (d : SNum) (a : SNum) (b : SNum) (u : Nat) (he : u = 0x1A000000 + p.toNat * 0x80000000 + d.toNat * 0x20000 + a.toNat * 0x800 + b.toNat * 0x20) :
    u < 0x100000000 ∧ decodeFields u = .ok (.ljoin p d a b) := by
  obtain ⟨hb, hm, q0, q1, q2, q3, q4⟩ := fmt14 0x34 0x1A000000 p.toNat d.toNat a.toNat b.toNat u (by decide) (by decide) (Bool.toNat_lt p) d.isLt a.isLt b.isLt he
  exact ⟨hb, by simp [decodeFields, fieldsLabel, hm, q0, q1, q2, q3, q4, bit, bv, zero]⟩

theorem ljoin (p : Bool) (d : SNum) (a : SNum) (b : SNum) : Statement (.ljoin p d a b) := fun _ => of_ljoin p d a b _ rfl

theorem of_ljoinV (p : Bool) (d : VNum) (a : VNum) (b : SNum) (u : Nat) (he : u = 0x1A800000 + p.toNat * 0x80000000 + d.toNat * 0x10000 + a.toNat * 0x200 + b.toNat * 0x8) :
    u < 0x100000000 ∧ decodeFields u = .ok (.ljoinV p d a b) := by
  obtain ⟨hb, hm, q0, q1, q2, q3, q4⟩ := fmt20 0x35 0x1A800000 p.toNat d.toNat a.toNat b.toNat u (by decide) (by decide) (Bool.toNat_lt p) d.isLt a.isLt b.isLt he
  exact ⟨hb, by simp [decodeFields, fieldsLabel, hm, q0, q1, q2, q3, q4, bit, bv, zero]⟩

theorem ljoinV (p : Bool) (d : VNum) (a : VNum) (b : SNum) : Statement (.ljoinV p d a b) := fun _ => of_ljoinV p d a b _ rfl

theorem of_lchk (p : Bool) (d : SNum) (a : SNum) (b : SNum) (u : Nat) (he : u = 0x1B000000 + p.toNat * 0x80000000 + d.toNat * 0x20000 + a.toNat * 0x800 + b.toNat * 0x20) :
    u < 0x100000000 ∧ decodeFields u = .ok (.lchk p d a b) := by
  obtain ⟨hb, hm, q0, q1, q2, q3, q4⟩ := fmt14 0x36 0x1B000000 p.toNat d.toNat a.toNat b.toNat u (by decide) (by decide) (Bool.toNat_lt p) d.isLt a.isLt b.isLt he
  exact ⟨hb, by simp [decodeFields, fieldsLabel, hm, q0, q1, q2, q3, q4, bit, bv, zero]⟩

theorem lchk (p : Bool) (d : SNum) (a : SNum) (b : SNum) : Statement (.lchk p d a b) := fun _ => of_lchk p d a b _ rfl

theorem of_ltcompact (p : Bool) (u : Nat) (he : u = 0x1B800000 + p.toNat * 0x80000000) :
    u < 0x100000000 ∧ decodeFields u = .ok (.ltcompact p) := by
  obtain ⟨hb, hm, q0, q1⟩ := fmt10 0x37 0x1B800000 p.toNat u (by decide) (by decide) (Bool.toNat_lt p) he
  exact ⟨hb, by simp [decodeFields, fieldsLabel, hm, q0, q1, bit, zero]⟩

theorem ltcompact (p : Bool) : Statement (.ltcompact p) := fun _ => of_ltcompact p _ rfl

theorem of_dcls (p : Bool) (d : VNum) (a : VNum) (g : SNum) (u : Nat) (he : u = 0x1C000000 + p.toNat * 0x80000000 + d.toNat * 0x10000 + a.toNat * 0x200 + g.toNat * 0x8) :
    u < 0x100000000 ∧ decodeFields u = .ok (.dcls p d a g) := by
  obtain ⟨hb, hm, q0, q1, q2, q3, q4⟩ := fmt20 0x38 0x1C000000 p.toNat d.toNat a.toNat g.toNat u (by decide) (by decide) (Bool.toNat_lt p) d.isLt a.isLt g.isLt he
  exact ⟨hb, by simp [decodeFields, fieldsLabel, hm, q0, q1, q2, q3, q4, bit, bv, zero]⟩

theorem dcls (p : Bool) (d : VNum) (a : VNum) (g : SNum) : Statement (.dcls p d a g) := fun _ => of_dcls p d a g _ rfl

theorem of_dclsS (p : Bool) (d : SNum) (a : SNum) (g : SNum) (u : Nat) (he : u = 0x1C800000 + p.toNat * 0x80000000 + d.toNat * 0x20000 + a.toNat * 0x800 + g.toNat * 0x20) :
    u < 0x100000000 ∧ decodeFields u = .ok (.dclsS p d a g) := by
  obtain ⟨hb, hm, q0, q1, q2, q3, q4⟩ := fmt14 0x39 0x1C800000 p.toNat d.toNat a.toNat g.toNat u (by decide) (by decide) (Bool.toNat_lt p) d.isLt a.isLt g.isLt he
  exact ⟨hb, by simp [decodeFields, fieldsLabel, hm, q0, q1, q2, q3, q4, bit, bv, zero]⟩

theorem dclsS (p : Bool) (d : SNum) (a : SNum) (g : SNum) : Statement (.dclsS p d a g) := fun _ => of_dclsS p d a g _ rfl

theorem of_vadd (p : Bool) (d : VNum) (a : VNum) (b : VNum) (u : Nat) (he : u = 0x20000000 + p.toNat * 0x80000000 + d.toNat * 0x10000 + a.toNat * 0x200 + b.toNat * 0x4) :
    u < 0x100000000 ∧ decodeFields u = .ok (.vadd p d a b) := by
  obtain ⟨hb, hm, q0, q1, q2, q3, q4⟩ := fmt21 0x40 0x20000000 p.toNat d.toNat a.toNat b.toNat u (by decide) (by decide) (Bool.toNat_lt p) d.isLt a.isLt b.isLt he
  exact ⟨hb, by simp [decodeFields, fieldsVector, hm, q0, q1, q2, q3, q4, bit, bv, zero]⟩

theorem vadd (p : Bool) (d : VNum) (a : VNum) (b : VNum) : Statement (.vadd p d a b) := fun _ => of_vadd p d a b _ rfl

theorem of_vsub (p : Bool) (d : VNum) (a : VNum) (b : VNum) (u : Nat) (he : u = 0x20800000 + p.toNat * 0x80000000 + d.toNat * 0x10000 + a.toNat * 0x200 + b.toNat * 0x4) :
    u < 0x100000000 ∧ decodeFields u = .ok (.vsub p d a b) := by
  obtain ⟨hb, hm, q0, q1, q2, q3, q4⟩ := fmt21 0x41 0x20800000 p.toNat d.toNat a.toNat b.toNat u (by decide) (by decide) (Bool.toNat_lt p) d.isLt a.isLt b.isLt he
  exact ⟨hb, by simp [decodeFields, fieldsVector, hm, q0, q1, q2, q3, q4, bit, bv, zero]⟩

theorem vsub (p : Bool) (d : VNum) (a : VNum) (b : VNum) : Statement (.vsub p d a b) := fun _ => of_vsub p d a b _ rfl

theorem of_vmul (p : Bool) (d : VNum) (a : VNum) (b : VNum) (u : Nat) (he : u = 0x21000000 + p.toNat * 0x80000000 + d.toNat * 0x10000 + a.toNat * 0x200 + b.toNat * 0x4) :
    u < 0x100000000 ∧ decodeFields u = .ok (.vmul p d a b) := by
  obtain ⟨hb, hm, q0, q1, q2, q3, q4⟩ := fmt21 0x42 0x21000000 p.toNat d.toNat a.toNat b.toNat u (by decide) (by decide) (Bool.toNat_lt p) d.isLt a.isLt b.isLt he
  exact ⟨hb, by simp [decodeFields, fieldsVector, hm, q0, q1, q2, q3, q4, bit, bv, zero]⟩

theorem vmul (p : Bool) (d : VNum) (a : VNum) (b : VNum) : Statement (.vmul p d a b) := fun _ => of_vmul p d a b _ rfl

theorem of_vmulh (p : Bool) (d : VNum) (a : VNum) (b : VNum) (u : Nat) (he : u = 0x21800000 + p.toNat * 0x80000000 + d.toNat * 0x10000 + a.toNat * 0x200 + b.toNat * 0x4) :
    u < 0x100000000 ∧ decodeFields u = .ok (.vmulh p d a b) := by
  obtain ⟨hb, hm, q0, q1, q2, q3, q4⟩ := fmt21 0x43 0x21800000 p.toNat d.toNat a.toNat b.toNat u (by decide) (by decide) (Bool.toNat_lt p) d.isLt a.isLt b.isLt he
  exact ⟨hb, by simp [decodeFields, fieldsVector, hm, q0, q1, q2, q3, q4, bit, bv, zero]⟩

theorem vmulh (p : Bool) (d : VNum) (a : VNum) (b : VNum) : Statement (.vmulh p d a b) := fun _ => of_vmulh p d a b _ rfl

theorem of_vmad (p : Bool) (d : VNum) (a : VNum) (b : VNum) (u : Nat) (he : u = 0x22000000 + p.toNat * 0x80000000 + d.toNat * 0x10000 + a.toNat * 0x200 + b.toNat * 0x4) :
    u < 0x100000000 ∧ decodeFields u = .ok (.vmad p d a b) := by
  obtain ⟨hb, hm, q0, q1, q2, q3, q4⟩ := fmt21 0x44 0x22000000 p.toNat d.toNat a.toNat b.toNat u (by decide) (by decide) (Bool.toNat_lt p) d.isLt a.isLt b.isLt he
  exact ⟨hb, by simp [decodeFields, fieldsVector, hm, q0, q1, q2, q3, q4, bit, bv, zero]⟩

theorem vmad (p : Bool) (d : VNum) (a : VNum) (b : VNum) : Statement (.vmad p d a b) := fun _ => of_vmad p d a b _ rfl

theorem of_vfma (p : Bool) (d : VNum) (a : VNum) (b : VNum) (u : Nat) (he : u = 0x22800000 + p.toNat * 0x80000000 + d.toNat * 0x10000 + a.toNat * 0x200 + b.toNat * 0x4) :
    u < 0x100000000 ∧ decodeFields u = .ok (.vfma p d a b) := by
  obtain ⟨hb, hm, q0, q1, q2, q3, q4⟩ := fmt21 0x45 0x22800000 p.toNat d.toNat a.toNat b.toNat u (by decide) (by decide) (Bool.toNat_lt p) d.isLt a.isLt b.isLt he
  exact ⟨hb, by simp [decodeFields, fieldsVector, hm, q0, q1, q2, q3, q4, bit, bv, zero]⟩

theorem vfma (p : Bool) (d : VNum) (a : VNum) (b : VNum) : Statement (.vfma p d a b) := fun _ => of_vfma p d a b _ rfl

theorem of_vmin (p : Bool) (d : VNum) (a : VNum) (b : VNum) (u : Nat) (he : u = 0x23000000 + p.toNat * 0x80000000 + d.toNat * 0x10000 + a.toNat * 0x200 + b.toNat * 0x4) :
    u < 0x100000000 ∧ decodeFields u = .ok (.vmin p d a b) := by
  obtain ⟨hb, hm, q0, q1, q2, q3, q4⟩ := fmt21 0x46 0x23000000 p.toNat d.toNat a.toNat b.toNat u (by decide) (by decide) (Bool.toNat_lt p) d.isLt a.isLt b.isLt he
  exact ⟨hb, by simp [decodeFields, fieldsVector, hm, q0, q1, q2, q3, q4, bit, bv, zero]⟩

theorem vmin (p : Bool) (d : VNum) (a : VNum) (b : VNum) : Statement (.vmin p d a b) := fun _ => of_vmin p d a b _ rfl

theorem of_vmax (p : Bool) (d : VNum) (a : VNum) (b : VNum) (u : Nat) (he : u = 0x23800000 + p.toNat * 0x80000000 + d.toNat * 0x10000 + a.toNat * 0x200 + b.toNat * 0x4) :
    u < 0x100000000 ∧ decodeFields u = .ok (.vmax p d a b) := by
  obtain ⟨hb, hm, q0, q1, q2, q3, q4⟩ := fmt21 0x47 0x23800000 p.toNat d.toNat a.toNat b.toNat u (by decide) (by decide) (Bool.toNat_lt p) d.isLt a.isLt b.isLt he
  exact ⟨hb, by simp [decodeFields, fieldsVector, hm, q0, q1, q2, q3, q4, bit, bv, zero]⟩

theorem vmax (p : Bool) (d : VNum) (a : VNum) (b : VNum) : Statement (.vmax p d a b) := fun _ => of_vmax p d a b _ rfl

theorem of_vabs (p : Bool) (d : VNum) (a : VNum) (u : Nat) (he : u = 0x24000000 + p.toNat * 0x80000000 + d.toNat * 0x10000 + a.toNat * 0x200) :
    u < 0x100000000 ∧ decodeFields u = .ok (.vabs p d a) := by
  obtain ⟨hb, hm, q0, q1, q2, q3⟩ := fmt19 0x48 0x24000000 p.toNat d.toNat a.toNat u (by decide) (by decide) (Bool.toNat_lt p) d.isLt a.isLt he
  exact ⟨hb, by simp [decodeFields, fieldsVector, hm, q0, q1, q2, q3, bit, bv, zero]⟩

theorem vabs (p : Bool) (d : VNum) (a : VNum) : Statement (.vabs p d a) := fun _ => of_vabs p d a _ rfl

theorem of_vneg (p : Bool) (d : VNum) (a : VNum) (u : Nat) (he : u = 0x24800000 + p.toNat * 0x80000000 + d.toNat * 0x10000 + a.toNat * 0x200) :
    u < 0x100000000 ∧ decodeFields u = .ok (.vneg p d a) := by
  obtain ⟨hb, hm, q0, q1, q2, q3⟩ := fmt19 0x49 0x24800000 p.toNat d.toNat a.toNat u (by decide) (by decide) (Bool.toNat_lt p) d.isLt a.isLt he
  exact ⟨hb, by simp [decodeFields, fieldsVector, hm, q0, q1, q2, q3, bit, bv, zero]⟩

theorem vneg (p : Bool) (d : VNum) (a : VNum) : Statement (.vneg p d a) := fun _ => of_vneg p d a _ rfl

theorem of_vdiv (p : Bool) (d : VNum) (a : VNum) (b : VNum) (u : Nat) (he : u = 0x25000000 + p.toNat * 0x80000000 + d.toNat * 0x10000 + a.toNat * 0x200 + b.toNat * 0x4) :
    u < 0x100000000 ∧ decodeFields u = .ok (.vdiv p d a b) := by
  obtain ⟨hb, hm, q0, q1, q2, q3, q4⟩ := fmt21 0x4A 0x25000000 p.toNat d.toNat a.toNat b.toNat u (by decide) (by decide) (Bool.toNat_lt p) d.isLt a.isLt b.isLt he
  exact ⟨hb, by simp [decodeFields, fieldsVector, hm, q0, q1, q2, q3, q4, bit, bv, zero]⟩

theorem vdiv (p : Bool) (d : VNum) (a : VNum) (b : VNum) : Statement (.vdiv p d a b) := fun _ => of_vdiv p d a b _ rfl

theorem of_vsqrt (p : Bool) (d : VNum) (a : VNum) (u : Nat) (he : u = 0x25800000 + p.toNat * 0x80000000 + d.toNat * 0x10000 + a.toNat * 0x200) :
    u < 0x100000000 ∧ decodeFields u = .ok (.vsqrt p d a) := by
  obtain ⟨hb, hm, q0, q1, q2, q3⟩ := fmt19 0x4B 0x25800000 p.toNat d.toNat a.toNat u (by decide) (by decide) (Bool.toNat_lt p) d.isLt a.isLt he
  exact ⟨hb, by simp [decodeFields, fieldsVector, hm, q0, q1, q2, q3, bit, bv, zero]⟩

theorem vsqrt (p : Bool) (d : VNum) (a : VNum) : Statement (.vsqrt p d a) := fun _ => of_vsqrt p d a _ rfl

theorem of_vrcp (p : Bool) (d : VNum) (a : VNum) (u : Nat) (he : u = 0x26000000 + p.toNat * 0x80000000 + d.toNat * 0x10000 + a.toNat * 0x200) :
    u < 0x100000000 ∧ decodeFields u = .ok (.vrcp p d a) := by
  obtain ⟨hb, hm, q0, q1, q2, q3⟩ := fmt19 0x4C 0x26000000 p.toNat d.toNat a.toNat u (by decide) (by decide) (Bool.toNat_lt p) d.isLt a.isLt he
  exact ⟨hb, by simp [decodeFields, fieldsVector, hm, q0, q1, q2, q3, bit, bv, zero]⟩

theorem vrcp (p : Bool) (d : VNum) (a : VNum) : Statement (.vrcp p d a) := fun _ => of_vrcp p d a _ rfl

theorem of_vrsq (p : Bool) (d : VNum) (a : VNum) (u : Nat) (he : u = 0x26800000 + p.toNat * 0x80000000 + d.toNat * 0x10000 + a.toNat * 0x200) :
    u < 0x100000000 ∧ decodeFields u = .ok (.vrsq p d a) := by
  obtain ⟨hb, hm, q0, q1, q2, q3⟩ := fmt19 0x4D 0x26800000 p.toNat d.toNat a.toNat u (by decide) (by decide) (Bool.toNat_lt p) d.isLt a.isLt he
  exact ⟨hb, by simp [decodeFields, fieldsVector, hm, q0, q1, q2, q3, bit, bv, zero]⟩

theorem vrsq (p : Bool) (d : VNum) (a : VNum) : Statement (.vrsq p d a) := fun _ => of_vrsq p d a _ rfl

theorem of_vexp2 (p : Bool) (d : VNum) (a : VNum) (u : Nat) (he : u = 0x27000000 + p.toNat * 0x80000000 + d.toNat * 0x10000 + a.toNat * 0x200) :
    u < 0x100000000 ∧ decodeFields u = .ok (.vexp2 p d a) := by
  obtain ⟨hb, hm, q0, q1, q2, q3⟩ := fmt19 0x4E 0x27000000 p.toNat d.toNat a.toNat u (by decide) (by decide) (Bool.toNat_lt p) d.isLt a.isLt he
  exact ⟨hb, by simp [decodeFields, fieldsVector, hm, q0, q1, q2, q3, bit, bv, zero]⟩

theorem vexp2 (p : Bool) (d : VNum) (a : VNum) : Statement (.vexp2 p d a) := fun _ => of_vexp2 p d a _ rfl

theorem of_vlog2 (p : Bool) (d : VNum) (a : VNum) (u : Nat) (he : u = 0x27800000 + p.toNat * 0x80000000 + d.toNat * 0x10000 + a.toNat * 0x200) :
    u < 0x100000000 ∧ decodeFields u = .ok (.vlog2 p d a) := by
  obtain ⟨hb, hm, q0, q1, q2, q3⟩ := fmt19 0x4F 0x27800000 p.toNat d.toNat a.toNat u (by decide) (by decide) (Bool.toNat_lt p) d.isLt a.isLt he
  exact ⟨hb, by simp [decodeFields, fieldsVector, hm, q0, q1, q2, q3, bit, bv, zero]⟩

theorem vlog2 (p : Bool) (d : VNum) (a : VNum) : Statement (.vlog2 p d a) := fun _ => of_vlog2 p d a _ rfl

theorem of_vsin (p : Bool) (d : VNum) (a : VNum) (u : Nat) (he : u = 0x28000000 + p.toNat * 0x80000000 + d.toNat * 0x10000 + a.toNat * 0x200) :
    u < 0x100000000 ∧ decodeFields u = .ok (.vsin p d a) := by
  obtain ⟨hb, hm, q0, q1, q2, q3⟩ := fmt19 0x50 0x28000000 p.toNat d.toNat a.toNat u (by decide) (by decide) (Bool.toNat_lt p) d.isLt a.isLt he
  exact ⟨hb, by simp [decodeFields, fieldsVector, hm, q0, q1, q2, q3, bit, bv, zero]⟩

theorem vsin (p : Bool) (d : VNum) (a : VNum) : Statement (.vsin p d a) := fun _ => of_vsin p d a _ rfl

theorem of_vcos (p : Bool) (d : VNum) (a : VNum) (u : Nat) (he : u = 0x28800000 + p.toNat * 0x80000000 + d.toNat * 0x10000 + a.toNat * 0x200) :
    u < 0x100000000 ∧ decodeFields u = .ok (.vcos p d a) := by
  obtain ⟨hb, hm, q0, q1, q2, q3⟩ := fmt19 0x51 0x28800000 p.toNat d.toNat a.toNat u (by decide) (by decide) (Bool.toNat_lt p) d.isLt a.isLt he
  exact ⟨hb, by simp [decodeFields, fieldsVector, hm, q0, q1, q2, q3, bit, bv, zero]⟩

theorem vcos (p : Bool) (d : VNum) (a : VNum) : Statement (.vcos p d a) := fun _ => of_vcos p d a _ rfl

theorem of_vcvt (p : Bool) (d : VNum) (a : VNum) (t : ETy) (u : Nat) (he : u = 0x29000000 + p.toNat * 0x80000000 + d.toNat * 0x10000 + a.toNat * 0x200 + t.code * 0x4) :
    u < 0x100000000 ∧ decodeFields u = .ok (.vcvt p d a t) := by
  obtain ⟨hb, hm, q0, q1, q2, q3, q4, q5⟩ := fmt22 0x52 0x29000000 p.toNat d.toNat a.toNat t.code u (by decide) (by decide) (Bool.toNat_lt p) d.isLt a.isLt (ETy.code_lt t) he
  exact ⟨hb, by simp [decodeFields, fieldsVector, hm, q0, q1, q2, q3, q4, q5, bit, bv, zero, code, ETy.ofCode_code]⟩

theorem vcvt (p : Bool) (d : VNum) (a : VNum) (t : ETy) : Statement (.vcvt p d a t) := fun _ => of_vcvt p d a t _ rfl

theorem of_vand (p : Bool) (d : VNum) (a : VNum) (b : VNum) (u : Nat) (he : u = 0x29800000 + p.toNat * 0x80000000 + d.toNat * 0x10000 + a.toNat * 0x200 + b.toNat * 0x4) :
    u < 0x100000000 ∧ decodeFields u = .ok (.vand p d a b) := by
  obtain ⟨hb, hm, q0, q1, q2, q3, q4⟩ := fmt21 0x53 0x29800000 p.toNat d.toNat a.toNat b.toNat u (by decide) (by decide) (Bool.toNat_lt p) d.isLt a.isLt b.isLt he
  exact ⟨hb, by simp [decodeFields, fieldsVector, hm, q0, q1, q2, q3, q4, bit, bv, zero]⟩

theorem vand (p : Bool) (d : VNum) (a : VNum) (b : VNum) : Statement (.vand p d a b) := fun _ => of_vand p d a b _ rfl

theorem of_vor (p : Bool) (d : VNum) (a : VNum) (b : VNum) (u : Nat) (he : u = 0x2A000000 + p.toNat * 0x80000000 + d.toNat * 0x10000 + a.toNat * 0x200 + b.toNat * 0x4) :
    u < 0x100000000 ∧ decodeFields u = .ok (.vor p d a b) := by
  obtain ⟨hb, hm, q0, q1, q2, q3, q4⟩ := fmt21 0x54 0x2A000000 p.toNat d.toNat a.toNat b.toNat u (by decide) (by decide) (Bool.toNat_lt p) d.isLt a.isLt b.isLt he
  exact ⟨hb, by simp [decodeFields, fieldsVector, hm, q0, q1, q2, q3, q4, bit, bv, zero]⟩

theorem vor (p : Bool) (d : VNum) (a : VNum) (b : VNum) : Statement (.vor p d a b) := fun _ => of_vor p d a b _ rfl

theorem of_vxor (p : Bool) (d : VNum) (a : VNum) (b : VNum) (u : Nat) (he : u = 0x2A800000 + p.toNat * 0x80000000 + d.toNat * 0x10000 + a.toNat * 0x200 + b.toNat * 0x4) :
    u < 0x100000000 ∧ decodeFields u = .ok (.vxor p d a b) := by
  obtain ⟨hb, hm, q0, q1, q2, q3, q4⟩ := fmt21 0x55 0x2A800000 p.toNat d.toNat a.toNat b.toNat u (by decide) (by decide) (Bool.toNat_lt p) d.isLt a.isLt b.isLt he
  exact ⟨hb, by simp [decodeFields, fieldsVector, hm, q0, q1, q2, q3, q4, bit, bv, zero]⟩

theorem vxor (p : Bool) (d : VNum) (a : VNum) (b : VNum) : Statement (.vxor p d a b) := fun _ => of_vxor p d a b _ rfl

theorem of_vnot (p : Bool) (d : VNum) (a : VNum) (u : Nat) (he : u = 0x2B000000 + p.toNat * 0x80000000 + d.toNat * 0x10000 + a.toNat * 0x200) :
    u < 0x100000000 ∧ decodeFields u = .ok (.vnot p d a) := by
  obtain ⟨hb, hm, q0, q1, q2, q3⟩ := fmt19 0x56 0x2B000000 p.toNat d.toNat a.toNat u (by decide) (by decide) (Bool.toNat_lt p) d.isLt a.isLt he
  exact ⟨hb, by simp [decodeFields, fieldsVector, hm, q0, q1, q2, q3, bit, bv, zero]⟩

theorem vnot (p : Bool) (d : VNum) (a : VNum) : Statement (.vnot p d a) := fun _ => of_vnot p d a _ rfl

theorem of_vshl (p : Bool) (d : VNum) (a : VNum) (b : VNum) (u : Nat) (he : u = 0x2B800000 + p.toNat * 0x80000000 + d.toNat * 0x10000 + a.toNat * 0x200 + b.toNat * 0x4) :
    u < 0x100000000 ∧ decodeFields u = .ok (.vshl p d a b) := by
  obtain ⟨hb, hm, q0, q1, q2, q3, q4⟩ := fmt21 0x57 0x2B800000 p.toNat d.toNat a.toNat b.toNat u (by decide) (by decide) (Bool.toNat_lt p) d.isLt a.isLt b.isLt he
  exact ⟨hb, by simp [decodeFields, fieldsVector, hm, q0, q1, q2, q3, q4, bit, bv, zero]⟩

theorem vshl (p : Bool) (d : VNum) (a : VNum) (b : VNum) : Statement (.vshl p d a b) := fun _ => of_vshl p d a b _ rfl

theorem of_vshr (p : Bool) (d : VNum) (a : VNum) (b : VNum) (u : Nat) (he : u = 0x2C000000 + p.toNat * 0x80000000 + d.toNat * 0x10000 + a.toNat * 0x200 + b.toNat * 0x4) :
    u < 0x100000000 ∧ decodeFields u = .ok (.vshr p d a b) := by
  obtain ⟨hb, hm, q0, q1, q2, q3, q4⟩ := fmt21 0x58 0x2C000000 p.toNat d.toNat a.toNat b.toNat u (by decide) (by decide) (Bool.toNat_lt p) d.isLt a.isLt b.isLt he
  exact ⟨hb, by simp [decodeFields, fieldsVector, hm, q0, q1, q2, q3, q4, bit, bv, zero]⟩

theorem vshr (p : Bool) (d : VNum) (a : VNum) (b : VNum) : Statement (.vshr p d a b) := fun _ => of_vshr p d a b _ rfl

theorem of_vsra (p : Bool) (d : VNum) (a : VNum) (b : VNum) (u : Nat) (he : u = 0x2C800000 + p.toNat * 0x80000000 + d.toNat * 0x10000 + a.toNat * 0x200 + b.toNat * 0x4) :
    u < 0x100000000 ∧ decodeFields u = .ok (.vsra p d a b) := by
  obtain ⟨hb, hm, q0, q1, q2, q3, q4⟩ := fmt21 0x59 0x2C800000 p.toNat d.toNat a.toNat b.toNat u (by decide) (by decide) (Bool.toNat_lt p) d.isLt a.isLt b.isLt he
  exact ⟨hb, by simp [decodeFields, fieldsVector, hm, q0, q1, q2, q3, q4, bit, bv, zero]⟩

theorem vsra (p : Bool) (d : VNum) (a : VNum) (b : VNum) : Statement (.vsra p d a b) := fun _ => of_vsra p d a b _ rfl

theorem of_vbfx (p : Bool) (d : VNum) (a : VNum) (b : VNum) (u : Nat) (he : u = 0x2D000000 + p.toNat * 0x80000000 + d.toNat * 0x10000 + a.toNat * 0x200 + b.toNat * 0x4) :
    u < 0x100000000 ∧ decodeFields u = .ok (.vbfx p d a b) := by
  obtain ⟨hb, hm, q0, q1, q2, q3, q4⟩ := fmt21 0x5A 0x2D000000 p.toNat d.toNat a.toNat b.toNat u (by decide) (by decide) (Bool.toNat_lt p) d.isLt a.isLt b.isLt he
  exact ⟨hb, by simp [decodeFields, fieldsVector, hm, q0, q1, q2, q3, q4, bit, bv, zero]⟩

theorem vbfx (p : Bool) (d : VNum) (a : VNum) (b : VNum) : Statement (.vbfx p d a b) := fun _ => of_vbfx p d a b _ rfl

theorem of_vbfi (p : Bool) (d : VNum) (a : VNum) (b : VNum) (u : Nat) (he : u = 0x2D800000 + p.toNat * 0x80000000 + d.toNat * 0x10000 + a.toNat * 0x200 + b.toNat * 0x4) :
    u < 0x100000000 ∧ decodeFields u = .ok (.vbfi p d a b) := by
  obtain ⟨hb, hm, q0, q1, q2, q3, q4⟩ := fmt21 0x5B 0x2D800000 p.toNat d.toNat a.toNat b.toNat u (by decide) (by decide) (Bool.toNat_lt p) d.isLt a.isLt b.isLt he
  exact ⟨hb, by simp [decodeFields, fieldsVector, hm, q0, q1, q2, q3, q4, bit, bv, zero]⟩

theorem vbfi (p : Bool) (d : VNum) (a : VNum) (b : VNum) : Statement (.vbfi p d a b) := fun _ => of_vbfi p d a b _ rfl

theorem of_vpopc (p : Bool) (d : VNum) (a : VNum) (u : Nat) (he : u = 0x2E000000 + p.toNat * 0x80000000 + d.toNat * 0x10000 + a.toNat * 0x200) :
    u < 0x100000000 ∧ decodeFields u = .ok (.vpopc p d a) := by
  obtain ⟨hb, hm, q0, q1, q2, q3⟩ := fmt19 0x5C 0x2E000000 p.toNat d.toNat a.toNat u (by decide) (by decide) (Bool.toNat_lt p) d.isLt a.isLt he
  exact ⟨hb, by simp [decodeFields, fieldsVector, hm, q0, q1, q2, q3, bit, bv, zero]⟩

theorem vpopc (p : Bool) (d : VNum) (a : VNum) : Statement (.vpopc p d a) := fun _ => of_vpopc p d a _ rfl

theorem of_vclz (p : Bool) (d : VNum) (a : VNum) (u : Nat) (he : u = 0x2E800000 + p.toNat * 0x80000000 + d.toNat * 0x10000 + a.toNat * 0x200) :
    u < 0x100000000 ∧ decodeFields u = .ok (.vclz p d a) := by
  obtain ⟨hb, hm, q0, q1, q2, q3⟩ := fmt19 0x5D 0x2E800000 p.toNat d.toNat a.toNat u (by decide) (by decide) (Bool.toNat_lt p) d.isLt a.isLt he
  exact ⟨hb, by simp [decodeFields, fieldsVector, hm, q0, q1, q2, q3, bit, bv, zero]⟩

theorem vclz (p : Bool) (d : VNum) (a : VNum) : Statement (.vclz p d a) := fun _ => of_vclz p d a _ rfl

theorem of_vbrev (p : Bool) (d : VNum) (a : VNum) (u : Nat) (he : u = 0x2F000000 + p.toNat * 0x80000000 + d.toNat * 0x10000 + a.toNat * 0x200) :
    u < 0x100000000 ∧ decodeFields u = .ok (.vbrev p d a) := by
  obtain ⟨hb, hm, q0, q1, q2, q3⟩ := fmt19 0x5E 0x2F000000 p.toNat d.toNat a.toNat u (by decide) (by decide) (Bool.toNat_lt p) d.isLt a.isLt he
  exact ⟨hb, by simp [decodeFields, fieldsVector, hm, q0, q1, q2, q3, bit, bv, zero]⟩

theorem vbrev (p : Bool) (d : VNum) (a : VNum) : Statement (.vbrev p d a) := fun _ => of_vbrev p d a _ rfl

theorem of_vcmp (p : Bool) (d : SNum) (a : VNum) (b : VNum) (c : VCond) (u : Nat) (he : u = 0x2F800000 + p.toNat * 0x80000000 + d.toNat * 0x10000 + a.toNat * 0x200 + b.toNat * 0x4 + c.code / 4 * 0x400000 + c.code % 4) :
    u < 0x100000000 ∧ decodeFields u = .ok (.vcmp p d a b c) := by
  obtain ⟨hb, hm, q0, q1, q2, q3, q4, q5⟩ := fmt23 0x5F 0x2F800000 p.toNat d.toNat a.toNat b.toNat (c.code / 4) (c.code % 4) u (by decide) (by decide) (Bool.toNat_lt p) d.isLt a.isLt b.isLt (VCond.hi_lt c) (VCond.lo_lt c) he
  exact ⟨hb, by simp [decodeFields, fieldsVector, hm, q0, q1, q2, q3, q4, q5, bit, bv, code, VCond.ofCode_split]⟩

theorem vcmp (p : Bool) (d : SNum) (a : VNum) (b : VNum) (c : VCond) : Statement (.vcmp p d a b c) := fun _ => of_vcmp p d a b c _ rfl

theorem of_vsel (p : Bool) (d : VNum) (a : VNum) (b : SNum) (u : Nat) (he : u = 0x30000000 + p.toNat * 0x80000000 + d.toNat * 0x10000 + a.toNat * 0x200 + b.toNat * 0x8) :
    u < 0x100000000 ∧ decodeFields u = .ok (.vsel p d a b) := by
  obtain ⟨hb, hm, q0, q1, q2, q3, q4⟩ := fmt20 0x60 0x30000000 p.toNat d.toNat a.toNat b.toNat u (by decide) (by decide) (Bool.toNat_lt p) d.isLt a.isLt b.isLt he
  exact ⟨hb, by simp [decodeFields, fieldsVector, hm, q0, q1, q2, q3, q4, bit, bv, zero]⟩

theorem vsel (p : Bool) (d : VNum) (a : VNum) (b : SNum) : Statement (.vsel p d a b) := fun _ => of_vsel p d a b _ rfl

theorem of_vmov (p : Bool) (d : VNum) (a : VNum) (u : Nat) (he : u = 0x30800000 + p.toNat * 0x80000000 + d.toNat * 0x10000 + a.toNat * 0x200) :
    u < 0x100000000 ∧ decodeFields u = .ok (.vmov p d a) := by
  obtain ⟨hb, hm, q0, q1, q2, q3⟩ := fmt19 0x61 0x30800000 p.toNat d.toNat a.toNat u (by decide) (by decide) (Bool.toNat_lt p) d.isLt a.isLt he
  exact ⟨hb, by simp [decodeFields, fieldsVector, hm, q0, q1, q2, q3, bit, bv, zero]⟩

theorem vmov (p : Bool) (d : VNum) (a : VNum) : Statement (.vmov p d a) := fun _ => of_vmov p d a _ rfl

theorem of_vmovs (p : Bool) (d : VNum) (b : SNum) (u : Nat) (he : u = 0x31000000 + p.toNat * 0x80000000 + d.toNat * 0x10000 + b.toNat * 0x8) :
    u < 0x100000000 ∧ decodeFields u = .ok (.vmovs p d b) := by
  obtain ⟨hb, hm, q0, q1, q2, q3, q4⟩ := fmt24 0x62 0x31000000 p.toNat d.toNat b.toNat u (by decide) (by decide) (Bool.toNat_lt p) d.isLt b.isLt he
  exact ⟨hb, by simp [decodeFields, fieldsVector, hm, q0, q1, q2, q3, q4, bit, bv, zero]⟩

theorem vmovs (p : Bool) (d : VNum) (b : SNum) : Statement (.vmovs p d b) := fun _ => of_vmovs p d b _ rfl

theorem of_vmovi (p : Bool) (d : VNum) (i : Imm16) (u : Nat) (he : u = 0x31800000 + p.toNat * 0x80000000 + d.toNat * 0x10000 + i.toNat) :
    u < 0x100000000 ∧ decodeFields u = .ok (.vmovi p d i) := by
  obtain ⟨hb, hm, q0, q1, q2⟩ := fmt6 0x63 0x31800000 p.toNat d.toNat i.toNat u (by decide) (by decide) (Bool.toNat_lt p) d.isLt i.isLt he
  exact ⟨hb, by simp [decodeFields, fieldsVector, hm, q0, q1, q2, bit, bv]⟩

theorem vmovi (p : Bool) (d : VNum) (i : Imm16) : Statement (.vmovi p d i) := fun _ => of_vmovi p d i _ rfl

theorem of_vqadd (p : Bool) (d : VNum) (a : VNum) (b : SNum) (u : Nat) (he : u = 0x34000000 + p.toNat * 0x80000000 + d.toNat * 0x10000 + a.toNat * 0x200 + b.toNat * 0x8) :
    u < 0x100000000 ∧ decodeFields u = .ok (.vqadd p d a b) := by
  obtain ⟨hb, hm, q0, q1, q2, q3, q4⟩ := fmt20 0x68 0x34000000 p.toNat d.toNat a.toNat b.toNat u (by decide) (by decide) (Bool.toNat_lt p) d.isLt a.isLt b.isLt he
  exact ⟨hb, by simp [decodeFields, fieldsModular, hm, q0, q1, q2, q3, q4, bit, bv, zero]⟩

theorem vqadd (p : Bool) (d : VNum) (a : VNum) (b : SNum) : Statement (.vqadd p d a b) := fun _ => of_vqadd p d a b _ rfl

theorem of_vqsub (p : Bool) (d : VNum) (a : VNum) (b : SNum) (u : Nat) (he : u = 0x34800000 + p.toNat * 0x80000000 + d.toNat * 0x10000 + a.toNat * 0x200 + b.toNat * 0x8) :
    u < 0x100000000 ∧ decodeFields u = .ok (.vqsub p d a b) := by
  obtain ⟨hb, hm, q0, q1, q2, q3, q4⟩ := fmt20 0x69 0x34800000 p.toNat d.toNat a.toNat b.toNat u (by decide) (by decide) (Bool.toNat_lt p) d.isLt a.isLt b.isLt he
  exact ⟨hb, by simp [decodeFields, fieldsModular, hm, q0, q1, q2, q3, q4, bit, bv, zero]⟩

theorem vqsub (p : Bool) (d : VNum) (a : VNum) (b : SNum) : Statement (.vqsub p d a b) := fun _ => of_vqsub p d a b _ rfl

theorem of_vqmul (p : Bool) (d : VNum) (a : VNum) (b : SNum) (u : Nat) (he : u = 0x35000000 + p.toNat * 0x80000000 + d.toNat * 0x10000 + a.toNat * 0x200 + b.toNat * 0x8) :
    u < 0x100000000 ∧ decodeFields u = .ok (.vqmul p d a b) := by
  obtain ⟨hb, hm, q0, q1, q2, q3, q4⟩ := fmt20 0x6A 0x35000000 p.toNat d.toNat a.toNat b.toNat u (by decide) (by decide) (Bool.toNat_lt p) d.isLt a.isLt b.isLt he
  exact ⟨hb, by simp [decodeFields, fieldsModular, hm, q0, q1, q2, q3, q4, bit, bv, zero]⟩

theorem vqmul (p : Bool) (d : VNum) (a : VNum) (b : SNum) : Statement (.vqmul p d a b) := fun _ => of_vqmul p d a b _ rfl

theorem of_vqbfly (p : Bool) (d : VNum) (a : VNum) (b : SNum) (u : Nat) (he : u = 0x35800000 + p.toNat * 0x80000000 + d.toNat * 0x10000 + a.toNat * 0x200 + b.toNat * 0x8) :
    u < 0x100000000 ∧ decodeFields u = .ok (.vqbfly p d a b) := by
  obtain ⟨hb, hm, q0, q1, q2, q3, q4⟩ := fmt20 0x6B 0x35800000 p.toNat d.toNat a.toNat b.toNat u (by decide) (by decide) (Bool.toNat_lt p) d.isLt a.isLt b.isLt he
  exact ⟨hb, by simp [decodeFields, fieldsModular, hm, q0, q1, q2, q3, q4, bit, bv, zero]⟩

theorem vqbfly (p : Bool) (d : VNum) (a : VNum) (b : SNum) : Statement (.vqbfly p d a b) := fun _ => of_vqbfly p d a b _ rfl

theorem of_vqbflyi (p : Bool) (d : VNum) (a : VNum) (b : SNum) (u : Nat) (he : u = 0x36000000 + p.toNat * 0x80000000 + d.toNat * 0x10000 + a.toNat * 0x200 + b.toNat * 0x8) :
    u < 0x100000000 ∧ decodeFields u = .ok (.vqbflyi p d a b) := by
  obtain ⟨hb, hm, q0, q1, q2, q3, q4⟩ := fmt20 0x6C 0x36000000 p.toNat d.toNat a.toNat b.toNat u (by decide) (by decide) (Bool.toNat_lt p) d.isLt a.isLt b.isLt he
  exact ⟨hb, by simp [decodeFields, fieldsModular, hm, q0, q1, q2, q3, q4, bit, bv, zero]⟩

theorem vqbflyi (p : Bool) (d : VNum) (a : VNum) (b : SNum) : Statement (.vqbflyi p d a b) := fun _ => of_vqbflyi p d a b _ rfl

theorem of_vshfl (p : Bool) (d : VNum) (a : VNum) (b : VNum) (m : ShflM) (u : Nat) (he : u = 0x38000000 + p.toNat * 0x80000000 + d.toNat * 0x10000 + a.toNat * 0x200 + b.toNat * 0x4 + m.code) :
    u < 0x100000000 ∧ decodeFields u = .ok (.vshfl p d a b m) := by
  obtain ⟨hb, hm, q0, q1, q2, q3, q4⟩ := fmt25 0x70 0x38000000 p.toNat d.toNat a.toNat b.toNat m.code u (by decide) (by decide) (Bool.toNat_lt p) d.isLt a.isLt b.isLt (ShflM.code_lt m) he
  exact ⟨hb, by simp [decodeFields, fieldsCross, hm, q0, q1, q2, q3, q4, bit, bv, code, ShflM.ofCode_code]⟩

theorem vshfl (p : Bool) (d : VNum) (a : VNum) (b : VNum) (m : ShflM) : Statement (.vshfl p d a b m) := fun _ => of_vshfl p d a b m _ rfl

theorem of_vshflS (p : Bool) (d : VNum) (a : VNum) (b : SNum) (m : ShflM) (u : Nat) (he : u = 0x38800000 + p.toNat * 0x80000000 + d.toNat * 0x10000 + a.toNat * 0x200 + b.toNat * 0x8 + m.code) :
    u < 0x100000000 ∧ decodeFields u = .ok (.vshflS p d a b m) := by
  obtain ⟨hb, hm, q0, q1, q2, q3, q4, q5⟩ := fmt26 0x71 0x38800000 p.toNat d.toNat a.toNat b.toNat m.code u (by decide) (by decide) (Bool.toNat_lt p) d.isLt a.isLt b.isLt (ShflM.code_lt m) he
  exact ⟨hb, by simp [decodeFields, fieldsCross, hm, q0, q1, q2, q3, q4, q5, bit, bv, zero, code, ShflM.ofCode_code]⟩

theorem vshflS (p : Bool) (d : VNum) (a : VNum) (b : SNum) (m : ShflM) : Statement (.vshflS p d a b m) := fun _ => of_vshflS p d a b m _ rfl

theorem of_vballot (p : Bool) (d : SNum) (a : VNum) (u : Nat) (he : u = 0x39000000 + p.toNat * 0x80000000 + d.toNat * 0x10000 + a.toNat * 0x200) :
    u < 0x100000000 ∧ decodeFields u = .ok (.vballot p d a) := by
  obtain ⟨hb, hm, q0, q1, q2, q3, q4⟩ := fmt27 0x72 0x39000000 p.toNat d.toNat a.toNat u (by decide) (by decide) (Bool.toNat_lt p) d.isLt a.isLt he
  exact ⟨hb, by simp [decodeFields, fieldsCross, hm, q0, q1, q2, q3, q4, bit, bv, zero]⟩

theorem vballot (p : Bool) (d : SNum) (a : VNum) : Statement (.vballot p d a) := fun _ => of_vballot p d a _ rfl

theorem of_vred (p : Bool) (d : SNum) (a : VNum) (o : RedOp) (u : Nat) (he : u = 0x39800000 + p.toNat * 0x80000000 + d.toNat * 0x10000 + a.toNat * 0x200 + o.code * 0x4) :
    u < 0x100000000 ∧ decodeFields u = .ok (.vred p d a o) := by
  obtain ⟨hb, hm, q0, q1, q2, q3, q4, q5, q6⟩ := fmt28 0x73 0x39800000 p.toNat d.toNat a.toNat o.code u (by decide) (by decide) (Bool.toNat_lt p) d.isLt a.isLt (RedOp.code_lt o) he
  exact ⟨hb, by simp [decodeFields, fieldsCross, hm, q0, q1, q2, q3, q4, q5, q6, bit, bv, zero, code, RedOp.ofCode_code]⟩

theorem vred (p : Bool) (d : SNum) (a : VNum) (o : RedOp) : Statement (.vred p d a o) := fun _ => of_vred p d a o _ rfl

theorem of_vscan (p : Bool) (d : VNum) (a : VNum) (o : RedOp) (e : Bool) (u : Nat) (he : u = 0x3A000000 + p.toNat * 0x80000000 + d.toNat * 0x10000 + a.toNat * 0x200 + o.code * 0x4 + e.toNat) :
    u < 0x100000000 ∧ decodeFields u = .ok (.vscan p d a o e) := by
  obtain ⟨hb, hm, q0, q1, q2, q3, q4, q5, q6⟩ := fmt29 0x74 0x3A000000 p.toNat d.toNat a.toNat o.code e.toNat u (by decide) (by decide) (Bool.toNat_lt p) d.isLt a.isLt (RedOp.code_lt o) (Bool.toNat_lt e) he
  exact ⟨hb, by simp [decodeFields, fieldsCross, hm, q0, q1, q2, q3, q4, q5, q6, bit, bv, zero, code, RedOp.ofCode_code]⟩

theorem vscan (p : Bool) (d : VNum) (a : VNum) (o : RedOp) (e : Bool) : Statement (.vscan p d a o e) := fun _ => of_vscan p d a o e _ rfl

theorem of_vbcast (p : Bool) (d : VNum) (a : VNum) (b : SNum) (u : Nat) (he : u = 0x3A800000 + p.toNat * 0x80000000 + d.toNat * 0x10000 + a.toNat * 0x200 + b.toNat * 0x8) :
    u < 0x100000000 ∧ decodeFields u = .ok (.vbcast p d a b) := by
  obtain ⟨hb, hm, q0, q1, q2, q3, q4⟩ := fmt20 0x75 0x3A800000 p.toNat d.toNat a.toNat b.toNat u (by decide) (by decide) (Bool.toNat_lt p) d.isLt a.isLt b.isLt he
  exact ⟨hb, by simp [decodeFields, fieldsCross, hm, q0, q1, q2, q3, q4, bit, bv, zero]⟩

theorem vbcast (p : Bool) (d : VNum) (a : VNum) (b : SNum) : Statement (.vbcast p d a b) := fun _ => of_vbcast p d a b _ rfl

theorem of_vbxch (p : Bool) (d : VNum) (a : VNum) (b : SNum) (u : Nat) (he : u = 0x3B000000 + p.toNat * 0x80000000 + d.toNat * 0x10000 + a.toNat * 0x200 + b.toNat * 0x8) :
    u < 0x100000000 ∧ decodeFields u = .ok (.vbxch p d a b) := by
  obtain ⟨hb, hm, q0, q1, q2, q3, q4⟩ := fmt20 0x76 0x3B000000 p.toNat d.toNat a.toNat b.toNat u (by decide) (by decide) (Bool.toNat_lt p) d.isLt a.isLt b.isLt he
  exact ⟨hb, by simp [decodeFields, fieldsCross, hm, q0, q1, q2, q3, q4, bit, bv, zero]⟩

theorem vbxch (p : Bool) (d : VNum) (a : VNum) (b : SNum) : Statement (.vbxch p d a b) := fun _ => of_vbxch p d a b _ rfl

theorem of_vmatch (p : Bool) (d : VNum) (a : VNum) (u : Nat) (he : u = 0x3B800000 + p.toNat * 0x80000000 + d.toNat * 0x10000 + a.toNat * 0x200) :
    u < 0x100000000 ∧ decodeFields u = .ok (.vmatch p d a) := by
  obtain ⟨hb, hm, q0, q1, q2, q3⟩ := fmt19 0x77 0x3B800000 p.toNat d.toNat a.toNat u (by decide) (by decide) (Bool.toNat_lt p) d.isLt a.isLt he
  exact ⟨hb, by simp [decodeFields, fieldsCross, hm, q0, q1, q2, q3, bit, bv, zero]⟩

theorem vmatch (p : Bool) (d : VNum) (a : VNum) : Statement (.vmatch p d a) := fun _ => of_vmatch p d a _ rfl

theorem of_vld (p : Bool) (d : VNum) (b : SNum) (o : VNum) (w : LdW) (u : Nat) (he : u = 0x40000000 + p.toNat * 0x80000000 + d.toNat * 0x10000 + b.toNat * 0x400 + o.toNat * 0x8 + w.code) :
    u < 0x100000000 ∧ decodeFields u = .ok (.vld p d b o w) := by
  obtain ⟨hb, hm, q0, q1, q2, q3, q4⟩ := fmt30 0x80 0x40000000 p.toNat d.toNat b.toNat o.toNat w.code u (by decide) (by decide) (Bool.toNat_lt p) d.isLt b.isLt o.isLt (LdW.code_lt w) he
  exact ⟨hb, by simp [decodeFields, fieldsMemory, hm, q0, q1, q2, q3, q4, bit, bv, code, LdW.ofCode_code]⟩

theorem vld (p : Bool) (d : VNum) (b : SNum) (o : VNum) (w : LdW) : Statement (.vld p d b o w) := fun _ => of_vld p d b o w _ rfl

theorem of_vst (p : Bool) (d : VNum) (b : SNum) (o : VNum) (w : StW) (u : Nat) (he : u = 0x40800000 + p.toNat * 0x80000000 + d.toNat * 0x10000 + b.toNat * 0x400 + o.toNat * 0x8 + w.code) :
    u < 0x100000000 ∧ decodeFields u = .ok (.vst p d b o w) := by
  obtain ⟨hb, hm, q0, q1, q2, q3, q4, q5⟩ := fmt31 0x81 0x40800000 p.toNat d.toNat b.toNat o.toNat w.code u (by decide) (by decide) (Bool.toNat_lt p) d.isLt b.isLt o.isLt (StW.code_lt w) he
  exact ⟨hb, by simp [decodeFields, fieldsMemory, hm, q0, q1, q2, q3, q4, q5, bit, bv, zero, code, StW.ofCode_code]⟩

theorem vst (p : Bool) (d : VNum) (b : SNum) (o : VNum) (w : StW) : Statement (.vst p d b o w) := fun _ => of_vst p d b o w _ rfl

theorem of_vldAcqB32 (p : Bool) (d : VNum) (b : SNum) (o : VNum) (s : Scope) (u : Nat) (he : u = 0x41000000 + p.toNat * 0x80000000 + d.toNat * 0x10000 + b.toNat * 0x400 + o.toNat * 0x8 + s.code) :
    u < 0x100000000 ∧ decodeFields u = .ok (.vldAcqB32 p d b o s) := by
  obtain ⟨hb, hm, q0, q1, q2, q3, q4⟩ := fmt30 0x82 0x41000000 p.toNat d.toNat b.toNat o.toNat s.code u (by decide) (by decide) (Bool.toNat_lt p) d.isLt b.isLt o.isLt (Scope.code_lt s) he
  exact ⟨hb, by simp [decodeFields, fieldsMemory, hm, q0, q1, q2, q3, q4, bit, bv, code, Scope.ofCode_code]⟩

theorem vldAcqB32 (p : Bool) (d : VNum) (b : SNum) (o : VNum) (s : Scope) : Statement (.vldAcqB32 p d b o s) := fun _ => of_vldAcqB32 p d b o s _ rfl

theorem of_vldAcqB64 (p : Bool) (d : VNum) (b : SNum) (o : VNum) (s : Scope) (u : Nat) (he : u = 0x41800000 + p.toNat * 0x80000000 + d.toNat * 0x10000 + b.toNat * 0x400 + o.toNat * 0x8 + s.code) :
    u < 0x100000000 ∧ decodeFields u = .ok (.vldAcqB64 p d b o s) := by
  obtain ⟨hb, hm, q0, q1, q2, q3, q4⟩ := fmt30 0x83 0x41800000 p.toNat d.toNat b.toNat o.toNat s.code u (by decide) (by decide) (Bool.toNat_lt p) d.isLt b.isLt o.isLt (Scope.code_lt s) he
  exact ⟨hb, by simp [decodeFields, fieldsMemory, hm, q0, q1, q2, q3, q4, bit, bv, code, Scope.ofCode_code]⟩

theorem vldAcqB64 (p : Bool) (d : VNum) (b : SNum) (o : VNum) (s : Scope) : Statement (.vldAcqB64 p d b o s) := fun _ => of_vldAcqB64 p d b o s _ rfl

theorem of_vstRelB32 (p : Bool) (d : VNum) (b : SNum) (o : VNum) (s : Scope) (u : Nat) (he : u = 0x42000000 + p.toNat * 0x80000000 + d.toNat * 0x10000 + b.toNat * 0x400 + o.toNat * 0x8 + s.code) :
    u < 0x100000000 ∧ decodeFields u = .ok (.vstRelB32 p d b o s) := by
  obtain ⟨hb, hm, q0, q1, q2, q3, q4⟩ := fmt30 0x84 0x42000000 p.toNat d.toNat b.toNat o.toNat s.code u (by decide) (by decide) (Bool.toNat_lt p) d.isLt b.isLt o.isLt (Scope.code_lt s) he
  exact ⟨hb, by simp [decodeFields, fieldsMemory, hm, q0, q1, q2, q3, q4, bit, bv, code, Scope.ofCode_code]⟩

theorem vstRelB32 (p : Bool) (d : VNum) (b : SNum) (o : VNum) (s : Scope) : Statement (.vstRelB32 p d b o s) := fun _ => of_vstRelB32 p d b o s _ rfl

theorem of_vstRelB64 (p : Bool) (d : VNum) (b : SNum) (o : VNum) (s : Scope) (u : Nat) (he : u = 0x42800000 + p.toNat * 0x80000000 + d.toNat * 0x10000 + b.toNat * 0x400 + o.toNat * 0x8 + s.code) :
    u < 0x100000000 ∧ decodeFields u = .ok (.vstRelB64 p d b o s) := by
  obtain ⟨hb, hm, q0, q1, q2, q3, q4⟩ := fmt30 0x85 0x42800000 p.toNat d.toNat b.toNat o.toNat s.code u (by decide) (by decide) (Bool.toNat_lt p) d.isLt b.isLt o.isLt (Scope.code_lt s) he
  exact ⟨hb, by simp [decodeFields, fieldsMemory, hm, q0, q1, q2, q3, q4, bit, bv, code, Scope.ofCode_code]⟩

theorem vstRelB64 (p : Bool) (d : VNum) (b : SNum) (o : VNum) (s : Scope) : Statement (.vstRelB64 p d b o s) := fun _ => of_vstRelB64 p d b o s _ rfl

theorem of_vldScB32 (p : Bool) (d : VNum) (b : SNum) (o : VNum) (s : Scope) (u : Nat) (he : u = 0x43000000 + p.toNat * 0x80000000 + d.toNat * 0x10000 + b.toNat * 0x400 + o.toNat * 0x8 + s.code) :
    u < 0x100000000 ∧ decodeFields u = .ok (.vldScB32 p d b o s) := by
  obtain ⟨hb, hm, q0, q1, q2, q3, q4⟩ := fmt30 0x86 0x43000000 p.toNat d.toNat b.toNat o.toNat s.code u (by decide) (by decide) (Bool.toNat_lt p) d.isLt b.isLt o.isLt (Scope.code_lt s) he
  exact ⟨hb, by simp [decodeFields, fieldsMemory, hm, q0, q1, q2, q3, q4, bit, bv, code, Scope.ofCode_code]⟩

theorem vldScB32 (p : Bool) (d : VNum) (b : SNum) (o : VNum) (s : Scope) : Statement (.vldScB32 p d b o s) := fun _ => of_vldScB32 p d b o s _ rfl

theorem of_vldScB64 (p : Bool) (d : VNum) (b : SNum) (o : VNum) (s : Scope) (u : Nat) (he : u = 0x43800000 + p.toNat * 0x80000000 + d.toNat * 0x10000 + b.toNat * 0x400 + o.toNat * 0x8 + s.code) :
    u < 0x100000000 ∧ decodeFields u = .ok (.vldScB64 p d b o s) := by
  obtain ⟨hb, hm, q0, q1, q2, q3, q4⟩ := fmt30 0x87 0x43800000 p.toNat d.toNat b.toNat o.toNat s.code u (by decide) (by decide) (Bool.toNat_lt p) d.isLt b.isLt o.isLt (Scope.code_lt s) he
  exact ⟨hb, by simp [decodeFields, fieldsMemory, hm, q0, q1, q2, q3, q4, bit, bv, code, Scope.ofCode_code]⟩

theorem vldScB64 (p : Bool) (d : VNum) (b : SNum) (o : VNum) (s : Scope) : Statement (.vldScB64 p d b o s) := fun _ => of_vldScB64 p d b o s _ rfl

theorem of_vstScB32 (p : Bool) (d : VNum) (b : SNum) (o : VNum) (s : Scope) (u : Nat) (he : u = 0x44000000 + p.toNat * 0x80000000 + d.toNat * 0x10000 + b.toNat * 0x400 + o.toNat * 0x8 + s.code) :
    u < 0x100000000 ∧ decodeFields u = .ok (.vstScB32 p d b o s) := by
  obtain ⟨hb, hm, q0, q1, q2, q3, q4⟩ := fmt30 0x88 0x44000000 p.toNat d.toNat b.toNat o.toNat s.code u (by decide) (by decide) (Bool.toNat_lt p) d.isLt b.isLt o.isLt (Scope.code_lt s) he
  exact ⟨hb, by simp [decodeFields, fieldsMemory, hm, q0, q1, q2, q3, q4, bit, bv, code, Scope.ofCode_code]⟩

theorem vstScB32 (p : Bool) (d : VNum) (b : SNum) (o : VNum) (s : Scope) : Statement (.vstScB32 p d b o s) := fun _ => of_vstScB32 p d b o s _ rfl

theorem of_vstScB64 (p : Bool) (d : VNum) (b : SNum) (o : VNum) (s : Scope) (u : Nat) (he : u = 0x44800000 + p.toNat * 0x80000000 + d.toNat * 0x10000 + b.toNat * 0x400 + o.toNat * 0x8 + s.code) :
    u < 0x100000000 ∧ decodeFields u = .ok (.vstScB64 p d b o s) := by
  obtain ⟨hb, hm, q0, q1, q2, q3, q4⟩ := fmt30 0x89 0x44800000 p.toNat d.toNat b.toNat o.toNat s.code u (by decide) (by decide) (Bool.toNat_lt p) d.isLt b.isLt o.isLt (Scope.code_lt s) he
  exact ⟨hb, by simp [decodeFields, fieldsMemory, hm, q0, q1, q2, q3, q4, bit, bv, code, Scope.ofCode_code]⟩

theorem vstScB64 (p : Bool) (d : VNum) (b : SNum) (o : VNum) (s : Scope) : Statement (.vstScB64 p d b o s) := fun _ => of_vstScB64 p d b o s _ rfl

theorem of_vlds (p : Bool) (d : VNum) (b : SNum) (o : VNum) (w : LdW) (u : Nat) (he : u = 0x45000000 + p.toNat * 0x80000000 + d.toNat * 0x10000 + b.toNat * 0x400 + o.toNat * 0x8 + w.code) :
    u < 0x100000000 ∧ decodeFields u = .ok (.vlds p d b o w) := by
  obtain ⟨hb, hm, q0, q1, q2, q3, q4⟩ := fmt30 0x8A 0x45000000 p.toNat d.toNat b.toNat o.toNat w.code u (by decide) (by decide) (Bool.toNat_lt p) d.isLt b.isLt o.isLt (LdW.code_lt w) he
  exact ⟨hb, by simp [decodeFields, fieldsMemory, hm, q0, q1, q2, q3, q4, bit, bv, code, LdW.ofCode_code]⟩

theorem vlds (p : Bool) (d : VNum) (b : SNum) (o : VNum) (w : LdW) : Statement (.vlds p d b o w) := fun _ => of_vlds p d b o w _ rfl

theorem of_vsts (p : Bool) (d : VNum) (b : SNum) (o : VNum) (w : StW) (u : Nat) (he : u = 0x45800000 + p.toNat * 0x80000000 + d.toNat * 0x10000 + b.toNat * 0x400 + o.toNat * 0x8 + w.code) :
    u < 0x100000000 ∧ decodeFields u = .ok (.vsts p d b o w) := by
  obtain ⟨hb, hm, q0, q1, q2, q3, q4, q5⟩ := fmt31 0x8B 0x45800000 p.toNat d.toNat b.toNat o.toNat w.code u (by decide) (by decide) (Bool.toNat_lt p) d.isLt b.isLt o.isLt (StW.code_lt w) he
  exact ⟨hb, by simp [decodeFields, fieldsMemory, hm, q0, q1, q2, q3, q4, q5, bit, bv, zero, code, StW.ofCode_code]⟩

theorem vsts (p : Bool) (d : VNum) (b : SNum) (o : VNum) (w : StW) : Statement (.vsts p d b o w) := fun _ => of_vsts p d b o w _ rfl

theorem of_vldp (p : Bool) (d : VNum) (b : SNum) (o : VNum) (w : LdW) (u : Nat) (he : u = 0x46000000 + p.toNat * 0x80000000 + d.toNat * 0x10000 + b.toNat * 0x400 + o.toNat * 0x8 + w.code) :
    u < 0x100000000 ∧ decodeFields u = .ok (.vldp p d b o w) := by
  obtain ⟨hb, hm, q0, q1, q2, q3, q4⟩ := fmt30 0x8C 0x46000000 p.toNat d.toNat b.toNat o.toNat w.code u (by decide) (by decide) (Bool.toNat_lt p) d.isLt b.isLt o.isLt (LdW.code_lt w) he
  exact ⟨hb, by simp [decodeFields, fieldsMemory, hm, q0, q1, q2, q3, q4, bit, bv, code, LdW.ofCode_code]⟩

theorem vldp (p : Bool) (d : VNum) (b : SNum) (o : VNum) (w : LdW) : Statement (.vldp p d b o w) := fun _ => of_vldp p d b o w _ rfl

theorem of_vstp (p : Bool) (d : VNum) (b : SNum) (o : VNum) (w : StW) (u : Nat) (he : u = 0x46800000 + p.toNat * 0x80000000 + d.toNat * 0x10000 + b.toNat * 0x400 + o.toNat * 0x8 + w.code) :
    u < 0x100000000 ∧ decodeFields u = .ok (.vstp p d b o w) := by
  obtain ⟨hb, hm, q0, q1, q2, q3, q4, q5⟩ := fmt31 0x8D 0x46800000 p.toNat d.toNat b.toNat o.toNat w.code u (by decide) (by decide) (Bool.toNat_lt p) d.isLt b.isLt o.isLt (StW.code_lt w) he
  exact ⟨hb, by simp [decodeFields, fieldsMemory, hm, q0, q1, q2, q3, q4, q5, bit, bv, zero, code, StW.ofCode_code]⟩

theorem vstp (p : Bool) (d : VNum) (b : SNum) (o : VNum) (w : StW) : Statement (.vstp p d b o w) := fun _ => of_vstp p d b o w _ rfl

theorem of_sprf (p : Bool) (a : SNum) (b : SNum) (l : Level) (u : Nat) (he : u = 0x47000000 + p.toNat * 0x80000000 + a.toNat * 0x800 + b.toNat * 0x20 + l.code) :
    u < 0x100000000 ∧ decodeFields u = .ok (.sprf p a b l) := by
  obtain ⟨hb, hm, q0, q1, q2, q3, q4⟩ := fmt32 0x8E 0x47000000 p.toNat a.toNat b.toNat l.code u (by decide) (by decide) (Bool.toNat_lt p) a.isLt b.isLt (Level.code_lt l) he
  exact ⟨hb, by simp [decodeFields, fieldsMemory, hm, q0, q1, q2, q3, q4, bit, bv, zero, code, Level.ofCode_code]⟩

theorem sprf (p : Bool) (a : SNum) (b : SNum) (l : Level) : Statement (.sprf p a b l) := fun _ => of_sprf p a b l _ rfl

theorem of_fence (p : Bool) (k : FenceK) (s : Scope) (u : Nat) (he : u = 0x47800000 + p.toNat * 0x80000000 + k.code * 0x10000 + s.code) :
    u < 0x100000000 ∧ decodeFields u = .ok (.fence p k s) := by
  obtain ⟨hb, hm, q0, q1, q2, q3, q4⟩ := fmt33 0x8F 0x47800000 p.toNat k.code s.code u (by decide) (by decide) (Bool.toNat_lt p) (FenceK.code_lt k) (Scope.code_lt s) he
  exact ⟨hb, by simp [decodeFields, fieldsMemory, hm, q0, q1, q2, q3, q4, bit, zero, code, FenceK.ofCode_code, Scope.ofCode_code]⟩

theorem fence (p : Bool) (k : FenceK) (s : Scope) : Statement (.fence p k s) := fun _ => of_fence p k s _ rfl

theorem of_mwait (p : Bool) (d : SNum) (a : SNum) (b : SNum) (c : WaitC) (u : Nat) (he : u = 0x48000000 + p.toNat * 0x80000000 + d.toNat * 0x20000 + a.toNat * 0x800 + b.toNat * 0x20 + c.code) :
    u < 0x100000000 ∧ decodeFields u = .ok (.mwait p d a b c) := by
  obtain ⟨hb, hm, q0, q1, q2, q3, q4⟩ := fmt34 0x90 0x48000000 p.toNat d.toNat a.toNat b.toNat c.code u (by decide) (by decide) (Bool.toNat_lt p) d.isLt a.isLt b.isLt (WaitC.code_lt c) he
  exact ⟨hb, by simp [decodeFields, fieldsMemory, hm, q0, q1, q2, q3, q4, bit, bv, code, WaitC.ofCode_code]⟩

theorem mwait (p : Bool) (d : SNum) (a : SNum) (b : SNum) (c : WaitC) : Statement (.mwait p d a b c) := fun _ => of_mwait p d a b c _ rfl

theorem of_rhint (p : Bool) (a : SNum) (b : SNum) (h : HintA) (u : Nat) (he : u = 0x48800000 + p.toNat * 0x80000000 + a.toNat * 0x800 + b.toNat * 0x20 + h.code) :
    u < 0x100000000 ∧ decodeFields u = .ok (.rhint p a b h) := by
  obtain ⟨hb, hm, q0, q1, q2, q3, q4⟩ := fmt32 0x91 0x48800000 p.toNat a.toNat b.toNat h.code u (by decide) (by decide) (Bool.toNat_lt p) a.isLt b.isLt (HintA.code_lt h) he
  exact ⟨hb, by simp [decodeFields, fieldsMemory, hm, q0, q1, q2, q3, q4, bit, bv, zero, code, HintA.ofCode_code]⟩

theorem rhint (p : Bool) (a : SNum) (b : SNum) (h : HintA) : Statement (.rhint p a b h) := fun _ => of_rhint p a b h _ rfl

theorem of_vatomB32 (p : Bool) (d : VNum) (b : SNum) (o : VNum) (x : AtomOp) (u : Nat) (he : u = 0x50000000 + p.toNat * 0x80000000 + d.toNat * 0x10000 + b.toNat * 0x400 + o.toNat * 0x8 + x.code) :
    u < 0x100000000 ∧ decodeFields u = .ok (.vatomB32 p d b o x) := by
  obtain ⟨hb, hm, q0, q1, q2, q3, q4⟩ := fmt30 0xA0 0x50000000 p.toNat d.toNat b.toNat o.toNat x.code u (by decide) (by decide) (Bool.toNat_lt p) d.isLt b.isLt o.isLt (AtomOp.code_lt x) he
  exact ⟨hb, by simp [decodeFields, fieldsAtomic, hm, q0, q1, q2, q3, q4, bit, bv, code, AtomOp.ofCode_code]⟩

theorem vatomB32 (p : Bool) (d : VNum) (b : SNum) (o : VNum) (x : AtomOp) : Statement (.vatomB32 p d b o x) := fun _ => of_vatomB32 p d b o x _ rfl

theorem of_vatomB64 (p : Bool) (d : VNum) (b : SNum) (o : VNum) (x : AtomOp) (u : Nat) (he : u = 0x50800000 + p.toNat * 0x80000000 + d.toNat * 0x10000 + b.toNat * 0x400 + o.toNat * 0x8 + x.code) :
    u < 0x100000000 ∧ decodeFields u = .ok (.vatomB64 p d b o x) := by
  obtain ⟨hb, hm, q0, q1, q2, q3, q4⟩ := fmt30 0xA1 0x50800000 p.toNat d.toNat b.toNat o.toNat x.code u (by decide) (by decide) (Bool.toNat_lt p) d.isLt b.isLt o.isLt (AtomOp.code_lt x) he
  exact ⟨hb, by simp [decodeFields, fieldsAtomic, hm, q0, q1, q2, q3, q4, bit, bv, code, AtomOp.ofCode_code]⟩

theorem vatomB64 (p : Bool) (d : VNum) (b : SNum) (o : VNum) (x : AtomOp) : Statement (.vatomB64 p d b o x) := fun _ => of_vatomB64 p d b o x _ rfl

theorem of_vratomB32 (p : Bool) (d : VNum) (b : SNum) (o : VNum) (x : AtomOp) (u : Nat) (he : u = 0x51000000 + p.toNat * 0x80000000 + d.toNat * 0x10000 + b.toNat * 0x400 + o.toNat * 0x8 + x.code) :
    u < 0x100000000 ∧ decodeFields u = .ok (.vratomB32 p d b o x) := by
  obtain ⟨hb, hm, q0, q1, q2, q3, q4⟩ := fmt30 0xA2 0x51000000 p.toNat d.toNat b.toNat o.toNat x.code u (by decide) (by decide) (Bool.toNat_lt p) d.isLt b.isLt o.isLt (AtomOp.code_lt x) he
  exact ⟨hb, by simp [decodeFields, fieldsAtomic, hm, q0, q1, q2, q3, q4, bit, bv, code, AtomOp.ofCode_code]⟩

theorem vratomB32 (p : Bool) (d : VNum) (b : SNum) (o : VNum) (x : AtomOp) : Statement (.vratomB32 p d b o x) := fun _ => of_vratomB32 p d b o x _ rfl

theorem of_vratomB64 (p : Bool) (d : VNum) (b : SNum) (o : VNum) (x : AtomOp) (u : Nat) (he : u = 0x51800000 + p.toNat * 0x80000000 + d.toNat * 0x10000 + b.toNat * 0x400 + o.toNat * 0x8 + x.code) :
    u < 0x100000000 ∧ decodeFields u = .ok (.vratomB64 p d b o x) := by
  obtain ⟨hb, hm, q0, q1, q2, q3, q4⟩ := fmt30 0xA3 0x51800000 p.toNat d.toNat b.toNat o.toNat x.code u (by decide) (by decide) (Bool.toNat_lt p) d.isLt b.isLt o.isLt (AtomOp.code_lt x) he
  exact ⟨hb, by simp [decodeFields, fieldsAtomic, hm, q0, q1, q2, q3, q4, bit, bv, code, AtomOp.ofCode_code]⟩

theorem vratomB64 (p : Bool) (d : VNum) (b : SNum) (o : VNum) (x : AtomOp) : Statement (.vratomB64 p d b o x) := fun _ => of_vratomB64 p d b o x _ rfl

theorem of_satom (p : Bool) (d : SNum) (a : SNum) (b : SNum) (w : Bool) (o : AtomOp) (u : Nat) (he : u = 0x52000000 + p.toNat * 0x80000000 + d.toNat * 0x20000 + a.toNat * 0x800 + b.toNat * 0x20 + w.toNat * 0x8 + o.code) :
    u < 0x100000000 ∧ decodeFields u = .ok (.satom p d a b w o) := by
  obtain ⟨hb, hm, q0, q1, q2, q3, q4, q5, q6⟩ := fmt35 0xA4 0x52000000 p.toNat d.toNat a.toNat b.toNat w.toNat o.code u (by decide) (by decide) (Bool.toNat_lt p) d.isLt a.isLt b.isLt (Bool.toNat_lt w) (AtomOp.code_lt o) he
  exact ⟨hb, by simp [decodeFields, fieldsAtomic, hm, q0, q1, q2, q3, q4, q5, q6, bit, bv, zero, code, AtomOp.ofCode_code]⟩

theorem satom (p : Bool) (d : SNum) (a : SNum) (b : SNum) (w : Bool) (o : AtomOp) : Statement (.satom p d a b w o) := fun _ => of_satom p d a b w o _ rfl

theorem of_boinit (p : Bool) (a : SNum) (b : SNum) (u : Nat) (he : u = 0x52800000 + p.toNat * 0x80000000 + a.toNat * 0x800 + b.toNat * 0x20) :
    u < 0x100000000 ∧ decodeFields u = .ok (.boinit p a b) := by
  obtain ⟨hb, hm, q0, q1, q2, q3, q4⟩ := fmt36 0xA5 0x52800000 p.toNat a.toNat b.toNat u (by decide) (by decide) (Bool.toNat_lt p) a.isLt b.isLt he
  exact ⟨hb, by simp [decodeFields, fieldsAtomic, hm, q0, q1, q2, q3, q4, bit, bv, zero]⟩

theorem boinit (p : Bool) (a : SNum) (b : SNum) : Statement (.boinit p a b) := fun _ => of_boinit p a b _ rfl

theorem of_boarr (p : Bool) (d : SNum) (a : SNum) (b : SNum) (u : Nat) (he : u = 0x53000000 + p.toNat * 0x80000000 + d.toNat * 0x20000 + a.toNat * 0x800 + b.toNat * 0x20) :
    u < 0x100000000 ∧ decodeFields u = .ok (.boarr p d a b) := by
  obtain ⟨hb, hm, q0, q1, q2, q3, q4⟩ := fmt14 0xA6 0x53000000 p.toNat d.toNat a.toNat b.toNat u (by decide) (by decide) (Bool.toNat_lt p) d.isLt a.isLt b.isLt he
  exact ⟨hb, by simp [decodeFields, fieldsAtomic, hm, q0, q1, q2, q3, q4, bit, bv, zero]⟩

theorem boarr (p : Bool) (d : SNum) (a : SNum) (b : SNum) : Statement (.boarr p d a b) := fun _ => of_boarr p d a b _ rfl

theorem of_bowait (p : Bool) (d : SNum) (a : SNum) (b : SNum) (u : Nat) (he : u = 0x53800000 + p.toNat * 0x80000000 + d.toNat * 0x20000 + a.toNat * 0x800 + b.toNat * 0x20) :
    u < 0x100000000 ∧ decodeFields u = .ok (.bowait p d a b) := by
  obtain ⟨hb, hm, q0, q1, q2, q3, q4⟩ := fmt14 0xA7 0x53800000 p.toNat d.toNat a.toNat b.toNat u (by decide) (by decide) (Bool.toNat_lt p) d.isLt a.isLt b.isLt he
  exact ⟨hb, by simp [decodeFields, fieldsAtomic, hm, q0, q1, q2, q3, q4, bit, bv, zero]⟩

theorem bowait (p : Bool) (d : SNum) (a : SNum) (b : SNum) : Statement (.bowait p d a b) := fun _ => of_bowait p d a b _ rfl

theorem of_boexp (p : Bool) (a : SNum) (b : SNum) (u : Nat) (he : u = 0x54000000 + p.toNat * 0x80000000 + a.toNat * 0x800 + b.toNat * 0x20) :
    u < 0x100000000 ∧ decodeFields u = .ok (.boexp p a b) := by
  obtain ⟨hb, hm, q0, q1, q2, q3, q4⟩ := fmt36 0xA8 0x54000000 p.toNat a.toNat b.toNat u (by decide) (by decide) (Bool.toNat_lt p) a.isLt b.isLt he
  exact ⟨hb, by simp [decodeFields, fieldsAtomic, hm, q0, q1, q2, q3, q4, bit, bv, zero]⟩

theorem boexp (p : Bool) (a : SNum) (b : SNum) : Statement (.boexp p a b) := fun _ => of_boexp p a b _ rfl

theorem of_vcpy (p : Bool) (d : VNum) (a : VNum) (w : CpyW) (u : Nat) (he : u = 0x58000000 + p.toNat * 0x80000000 + d.toNat * 0x10000 + a.toNat * 0x200 + w.code) :
    u < 0x100000000 ∧ decodeFields u = .ok (.vcpy p d a w) := by
  obtain ⟨hb, hm, q0, q1, q2, q3, q4⟩ := fmt37 0xB0 0x58000000 p.toNat d.toNat a.toNat w.code u (by decide) (by decide) (Bool.toNat_lt p) d.isLt a.isLt (CpyW.code_lt w) he
  exact ⟨hb, by simp [decodeFields, fieldsCopy, hm, q0, q1, q2, q3, q4, bit, bv, zero, code, CpyW.ofCode_code]⟩

theorem vcpy (p : Bool) (d : VNum) (a : VNum) (w : CpyW) : Statement (.vcpy p d a w) := fun _ => of_vcpy p d a w _ rfl

theorem of_cbatch (p : Bool) (d : SNum) (u : Nat) (he : u = 0x58800000 + p.toNat * 0x80000000 + d.toNat * 0x20000) :
    u < 0x100000000 ∧ decodeFields u = .ok (.cbatch p d) := by
  obtain ⟨hb, hm, q0, q1, q2⟩ := fmt38 0xB1 0x58800000 p.toNat d.toNat u (by decide) (by decide) (Bool.toNat_lt p) d.isLt he
  exact ⟨hb, by simp [decodeFields, fieldsCopy, hm, q0, q1, q2, bit, bv, zero]⟩

theorem cbatch (p : Bool) (d : SNum) : Statement (.cbatch p d) := fun _ => of_cbatch p d _ rfl

theorem of_cwait (p : Bool) (a : SNum) (u : Nat) (he : u = 0x59000000 + p.toNat * 0x80000000 + a.toNat * 0x800) :
    u < 0x100000000 ∧ decodeFields u = .ok (.cwait p a) := by
  obtain ⟨hb, hm, q0, q1, q2, q3⟩ := fmt1 0xB2 0x59000000 p.toNat a.toNat u (by decide) (by decide) (Bool.toNat_lt p) a.isLt he
  exact ⟨hb, by simp [decodeFields, fieldsCopy, hm, q0, q1, q2, q3, bit, bv, zero]⟩

theorem cwait (p : Bool) (a : SNum) : Statement (.cwait p a) := fun _ => of_cwait p a _ rfl

theorem of_kick (p : Bool) (a : SNum) (u : Nat) (he : u = 0x59800000 + p.toNat * 0x80000000 + a.toNat * 0x800) :
    u < 0x100000000 ∧ decodeFields u = .ok (.kick p a) := by
  obtain ⟨hb, hm, q0, q1, q2, q3⟩ := fmt1 0xB3 0x59800000 p.toNat a.toNat u (by decide) (by decide) (Bool.toNat_lt p) a.isLt he
  exact ⟨hb, by simp [decodeFields, fieldsCopy, hm, q0, q1, q2, q3, bit, bv, zero]⟩

theorem kick (p : Bool) (a : SNum) : Statement (.kick p a) := fun _ => of_kick p a _ rfl

theorem of_rput (p : Bool) (a : SNum) (b : SNum) (u : Nat) (he : u = 0x5A000000 + p.toNat * 0x80000000 + a.toNat * 0x800 + b.toNat * 0x20) :
    u < 0x100000000 ∧ decodeFields u = .ok (.rput p a b) := by
  obtain ⟨hb, hm, q0, q1, q2, q3, q4⟩ := fmt36 0xB4 0x5A000000 p.toNat a.toNat b.toNat u (by decide) (by decide) (Bool.toNat_lt p) a.isLt b.isLt he
  exact ⟨hb, by simp [decodeFields, fieldsCopy, hm, q0, q1, q2, q3, q4, bit, bv, zero]⟩

theorem rput (p : Bool) (a : SNum) (b : SNum) : Statement (.rput p a b) := fun _ => of_rput p a b _ rfl

theorem of_rget (p : Bool) (a : SNum) (b : SNum) (u : Nat) (he : u = 0x5A800000 + p.toNat * 0x80000000 + a.toNat * 0x800 + b.toNat * 0x20) :
    u < 0x100000000 ∧ decodeFields u = .ok (.rget p a b) := by
  obtain ⟨hb, hm, q0, q1, q2, q3, q4⟩ := fmt36 0xB5 0x5A800000 p.toNat a.toNat b.toNat u (by decide) (by decide) (Bool.toNat_lt p) a.isLt b.isLt he
  exact ⟨hb, by simp [decodeFields, fieldsCopy, hm, q0, q1, q2, q3, q4, bit, bv, zero]⟩

theorem rget (p : Bool) (a : SNum) (b : SNum) : Statement (.rget p a b) := fun _ => of_rget p a b _ rfl

theorem of_mldb (p : Bool) (a : SNum) (b : SNum) (n : BitVec 2) (u : Nat) (he : u = 0x60000000 + p.toNat * 0x80000000 + a.toNat * 0x800 + b.toNat * 0x20 + n.toNat) :
    u < 0x100000000 ∧ decodeFields u = .ok (.mldb p a b n) := by
  obtain ⟨hb, hm, q0, q1, q2, q3, q4, q5⟩ := fmt39 0xC0 0x60000000 p.toNat a.toNat b.toNat n.toNat u (by decide) (by decide) (Bool.toNat_lt p) a.isLt b.isLt n.isLt he
  exact ⟨hb, by simp [decodeFields, fieldsMatrix, hm, q0, q1, q2, q3, q4, q5, bit, bv, zero]⟩

theorem mldb (p : Bool) (a : SNum) (b : SNum) (n : BitVec 2) : Statement (.mldb p a b n) := fun _ => of_mldb p a b n _ rfl

theorem of_mfree (p : Bool) (n : BitVec 2) (u : Nat) (he : u = 0x60800000 + p.toNat * 0x80000000 + n.toNat * 0x10000) :
    u < 0x100000000 ∧ decodeFields u = .ok (.mfree p n) := by
  obtain ⟨hb, hm, q0, q1, q2, q3⟩ := fmt40 0xC1 0x60800000 p.toNat n.toNat u (by decide) (by decide) (Bool.toNat_lt p) n.isLt he
  exact ⟨hb, by simp [decodeFields, fieldsMatrix, hm, q0, q1, q2, q3, bit, bv, zero]⟩

theorem mfree (p : Bool) (n : BitVec 2) : Statement (.mfree p n) := fun _ => of_mfree p n _ rfl

theorem of_munf (p : Bool) (a : SNum) (u : Nat) (he : u = 0x61000000 + p.toNat * 0x80000000 + a.toNat * 0x800) :
    u < 0x100000000 ∧ decodeFields u = .ok (.munf p a) := by
  obtain ⟨hb, hm, q0, q1, q2, q3⟩ := fmt1 0xC2 0x61000000 p.toNat a.toNat u (by decide) (by decide) (Bool.toNat_lt p) a.isLt he
  exact ⟨hb, by simp [decodeFields, fieldsMatrix, hm, q0, q1, q2, q3, bit, bv, zero]⟩

theorem munf (p : Bool) (a : SNum) : Statement (.munf p a) := fun _ => of_munf p a _ rfl

theorem of_mmq (p : Bool) (a : VNum) (u : Nat) (he : u = 0x61800000 + p.toNat * 0x80000000 + a.toNat * 0x200) :
    u < 0x100000000 ∧ decodeFields u = .ok (.mmq p a) := by
  obtain ⟨hb, hm, q0, q1, q2, q3⟩ := fmt41 0xC3 0x61800000 p.toNat a.toNat u (by decide) (by decide) (Bool.toNat_lt p) a.isLt he
  exact ⟨hb, by simp [decodeFields, fieldsMatrix, hm, q0, q1, q2, q3, bit, bv, zero]⟩

theorem mmq (p : Bool) (a : VNum) : Statement (.mmq p a) := fun _ => of_mmq p a _ rfl

theorem of_mscaleA (p : Bool) (a : SNum) (b : SNum) (u : Nat) (he : u = 0x62000000 + p.toNat * 0x80000000 + a.toNat * 0x800 + b.toNat * 0x20) :
    u < 0x100000000 ∧ decodeFields u = .ok (.mscaleA p a b) := by
  obtain ⟨hb, hm, q0, q1, q2, q3, q4⟩ := fmt36 0xC4 0x62000000 p.toNat a.toNat b.toNat u (by decide) (by decide) (Bool.toNat_lt p) a.isLt b.isLt he
  exact ⟨hb, by simp [decodeFields, fieldsMatrix, hm, q0, q1, q2, q3, q4, bit, bv]⟩

theorem mscaleA (p : Bool) (a : SNum) (b : SNum) : Statement (.mscaleA p a b) := fun _ => of_mscaleA p a b _ rfl

theorem of_mscaleB (p : Bool) (a : SNum) (b : SNum) (u : Nat) (he : u = 0x62000001 + p.toNat * 0x80000000 + a.toNat * 0x800 + b.toNat * 0x20) :
    u < 0x100000000 ∧ decodeFields u = .ok (.mscaleB p a b) := by
  obtain ⟨hb, hm, q0, q1, q2, q3, q4⟩ := fmt42 0xC4 0x62000001 p.toNat a.toNat b.toNat u (by decide) (by decide) (Bool.toNat_lt p) a.isLt b.isLt he
  exact ⟨hb, by simp [decodeFields, fieldsMatrix, hm, q0, q1, q2, q3, q4, bit, bv]⟩

theorem mscaleB (p : Bool) (a : SNum) (b : SNum) : Statement (.mscaleB p a b) := fun _ => of_mscaleB p a b _ rfl

theorem of_mstat (p : Bool) (d : SNum) (c : Bool) (u : Nat) (he : u = 0x62800000 + p.toNat * 0x80000000 + d.toNat * 0x20000 + c.toNat) :
    u < 0x100000000 ∧ decodeFields u = .ok (.mstat p d c) := by
  obtain ⟨hb, hm, q0, q1, q2, q3⟩ := fmt43 0xC5 0x62800000 p.toNat d.toNat c.toNat u (by decide) (by decide) (Bool.toNat_lt p) d.isLt (Bool.toNat_lt c) he
  exact ⟨hb, by simp [decodeFields, fieldsMatrix, hm, q0, q1, q2, q3, bit, bv, zero]⟩

theorem mstat (p : Bool) (d : SNum) (c : Bool) : Statement (.mstat p d c) := fun _ => of_mstat p d c _ rfl

theorem of_mchk (p : Bool) (d : SNum) (c : Bool) (u : Nat) (he : u = 0x63000000 + p.toNat * 0x80000000 + d.toNat * 0x20000 + c.toNat) :
    u < 0x100000000 ∧ decodeFields u = .ok (.mchk p d c) := by
  obtain ⟨hb, hm, q0, q1, q2, q3⟩ := fmt43 0xC6 0x63000000 p.toNat d.toNat c.toNat u (by decide) (by decide) (Bool.toNat_lt p) d.isLt (Bool.toNat_lt c) he
  exact ⟨hb, by simp [decodeFields, fieldsMatrix, hm, q0, q1, q2, q3, bit, bv, zero]⟩

theorem mchk (p : Bool) (d : SNum) (c : Bool) : Statement (.mchk p d c) := fun _ => of_mchk p d c _ rfl

theorem of_fopen (p : Bool) (d : SNum) (a : SNum) (b : SNum) (u : Nat) (he : u = 0x70000000 + p.toNat * 0x80000000 + d.toNat * 0x20000 + a.toNat * 0x800 + b.toNat * 0x20) :
    u < 0x100000000 ∧ decodeFields u = .ok (.fopen p d a b) := by
  obtain ⟨hb, hm, q0, q1, q2, q3, q4⟩ := fmt14 0xE0 0x70000000 p.toNat d.toNat a.toNat b.toNat u (by decide) (by decide) (Bool.toNat_lt p) d.isLt a.isLt b.isLt he
  exact ⟨hb, by simp [decodeFields, fieldsFabric, hm, q0, q1, q2, q3, q4, bit, bv, zero]⟩

theorem fopen (p : Bool) (d : SNum) (a : SNum) (b : SNum) : Statement (.fopen p d a b) := fun _ => of_fopen p d a b _ rfl

theorem of_fclose (p : Bool) (a : SNum) (u : Nat) (he : u = 0x70800000 + p.toNat * 0x80000000 + a.toNat * 0x800) :
    u < 0x100000000 ∧ decodeFields u = .ok (.fclose p a) := by
  obtain ⟨hb, hm, q0, q1, q2, q3⟩ := fmt1 0xE1 0x70800000 p.toNat a.toNat u (by decide) (by decide) (Bool.toNat_lt p) a.isLt he
  exact ⟨hb, by simp [decodeFields, fieldsFabric, hm, q0, q1, q2, q3, bit, bv, zero]⟩

theorem fclose (p : Bool) (a : SNum) : Statement (.fclose p a) := fun _ => of_fclose p a _ rfl

theorem of_fsend (p : Bool) (a : SNum) (b : SNum) (u : Nat) (he : u = 0x71000000 + p.toNat * 0x80000000 + a.toNat * 0x800 + b.toNat * 0x20) :
    u < 0x100000000 ∧ decodeFields u = .ok (.fsend p a b) := by
  obtain ⟨hb, hm, q0, q1, q2, q3, q4⟩ := fmt36 0xE2 0x71000000 p.toNat a.toNat b.toNat u (by decide) (by decide) (Bool.toNat_lt p) a.isLt b.isLt he
  exact ⟨hb, by simp [decodeFields, fieldsFabric, hm, q0, q1, q2, q3, q4, bit, bv]⟩

theorem fsend (p : Bool) (a : SNum) (b : SNum) : Statement (.fsend p a b) := fun _ => of_fsend p a b _ rfl

theorem of_fsendDefer (p : Bool) (a : SNum) (b : SNum) (u : Nat) (he : u = 0x71000001 + p.toNat * 0x80000000 + a.toNat * 0x800 + b.toNat * 0x20) :
    u < 0x100000000 ∧ decodeFields u = .ok (.fsendDefer p a b) := by
  obtain ⟨hb, hm, q0, q1, q2, q3, q4⟩ := fmt42 0xE2 0x71000001 p.toNat a.toNat b.toNat u (by decide) (by decide) (Bool.toNat_lt p) a.isLt b.isLt he
  exact ⟨hb, by simp [decodeFields, fieldsFabric, hm, q0, q1, q2, q3, q4, bit, bv]⟩

theorem fsendDefer (p : Bool) (a : SNum) (b : SNum) : Statement (.fsendDefer p a b) := fun _ => of_fsendDefer p a b _ rfl

theorem of_fcomb (p : Bool) (a : SNum) (b : SNum) (o : CombOp) (u : Nat) (he : u = 0x71800000 + p.toNat * 0x80000000 + a.toNat * 0x800 + b.toNat * 0x20 + o.code) :
    u < 0x100000000 ∧ decodeFields u = .ok (.fcomb p a b o) := by
  obtain ⟨hb, hm, q0, q1, q2, q3, q4, q5⟩ := fmt39 0xE3 0x71800000 p.toNat a.toNat b.toNat o.code u (by decide) (by decide) (Bool.toNat_lt p) a.isLt b.isLt (CombOp.code_lt o) he
  exact ⟨hb, by simp [decodeFields, fieldsFabric, hm, q0, q1, q2, q3, q4, q5, bit, bv, zero, code, CombOp.ofCode_code]⟩

theorem fcomb (p : Bool) (a : SNum) (b : SNum) (o : CombOp) : Statement (.fcomb p a b o) := fun _ => of_fcomb p a b o _ rfl

theorem of_eret (u : Nat) (he : u = 0x78000000) :
    u < 0x100000000 ∧ decodeFields u = .ok .eret := by
  obtain ⟨hb, hm, q0, q1⟩ := fmt44 0xF0 0x78000000  u (by decide) (by decide)  he
  exact ⟨hb, by simp [decodeFields, fieldsPriv, hm, q0, q1, bit, zero, noSafePoint]⟩

theorem eret : Statement .eret := fun _ => of_eret _ rfl

theorem of_tlbinv (p : Bool) (a : SNum) (b : SNum) (s : TlbS) (u : Nat) (he : u = 0x78800000 + p.toNat * 0x80000000 + a.toNat * 0x800 + b.toNat * 0x20 + s.code) :
    u < 0x100000000 ∧ decodeFields u = .ok (.tlbinv p a b s) := by
  obtain ⟨hb, hm, q0, q1, q2, q3, q4⟩ := fmt32 0xF1 0x78800000 p.toNat a.toNat b.toNat s.code u (by decide) (by decide) (Bool.toNat_lt p) a.isLt b.isLt (TlbS.code_lt s) he
  exact ⟨hb, by simp [decodeFields, fieldsPriv, hm, q0, q1, q2, q3, q4, bit, bv, zero, code, TlbS.ofCode_code]⟩

theorem tlbinv (p : Bool) (a : SNum) (b : SNum) (s : TlbS) : Statement (.tlbinv p a b s) := fun _ => of_tlbinv p a b s _ rfl

theorem of_cinv (p : Bool) (a : SNum) (b : SNum) (l : Level) (u : Nat) (he : u = 0x79000000 + p.toNat * 0x80000000 + a.toNat * 0x800 + b.toNat * 0x20 + l.code) :
    u < 0x100000000 ∧ decodeFields u = .ok (.cinv p a b l) := by
  obtain ⟨hb, hm, q0, q1, q2, q3, q4⟩ := fmt32 0xF2 0x79000000 p.toNat a.toNat b.toNat l.code u (by decide) (by decide) (Bool.toNat_lt p) a.isLt b.isLt (Level.code_lt l) he
  exact ⟨hb, by simp [decodeFields, fieldsPriv, hm, q0, q1, q2, q3, q4, bit, bv, zero, code, Level.ofCode_code]⟩

theorem cinv (p : Bool) (a : SNum) (b : SNum) (l : Level) : Statement (.cinv p a b l) := fun _ => of_cinv p a b l _ rfl

theorem of_kzero (p : Bool) (a : SNum) (b : SNum) (u : Nat) (he : u = 0x79800000 + p.toNat * 0x80000000 + a.toNat * 0x800 + b.toNat * 0x20) :
    u < 0x100000000 ∧ decodeFields u = .ok (.kzero p a b) := by
  obtain ⟨hb, hm, q0, q1, q2, q3, q4⟩ := fmt36 0xF3 0x79800000 p.toNat a.toNat b.toNat u (by decide) (by decide) (Bool.toNat_lt p) a.isLt b.isLt he
  exact ⟨hb, by simp [decodeFields, fieldsPriv, hm, q0, q1, q2, q3, q4, bit, bv, zero]⟩

theorem kzero (p : Bool) (a : SNum) (b : SNum) : Statement (.kzero p a b) := fun _ => of_kzero p a b _ rfl

theorem of_kstat (p : Bool) (d : SNum) (a : SNum) (u : Nat) (he : u = 0x7A000000 + p.toNat * 0x80000000 + d.toNat * 0x20000 + a.toNat * 0x800) :
    u < 0x100000000 ∧ decodeFields u = .ok (.kstat p d a) := by
  obtain ⟨hb, hm, q0, q1, q2, q3⟩ := fmt16 0xF4 0x7A000000 p.toNat d.toNat a.toNat u (by decide) (by decide) (Bool.toNat_lt p) d.isLt a.isLt he
  exact ⟨hb, by simp [decodeFields, fieldsPriv, hm, q0, q1, q2, q3, bit, bv, zero]⟩

theorem kstat (p : Bool) (d : SNum) (a : SNum) : Statement (.kstat p d a) := fun _ => of_kstat p d a _ rfl

theorem of_scrub (p : Bool) (d : SNum) (a : SNum) (u : Nat) (he : u = 0x7A800000 + p.toNat * 0x80000000 + d.toNat * 0x20000 + a.toNat * 0x800) :
    u < 0x100000000 ∧ decodeFields u = .ok (.scrub p d a) := by
  obtain ⟨hb, hm, q0, q1, q2, q3⟩ := fmt16 0xF5 0x7A800000 p.toNat d.toNat a.toNat u (by decide) (by decide) (Bool.toNat_lt p) d.isLt a.isLt he
  exact ⟨hb, by simp [decodeFields, fieldsPriv, hm, q0, q1, q2, q3, bit, bv, zero]⟩

theorem scrub (p : Bool) (d : SNum) (a : SNum) : Statement (.scrub p d a) := fun _ => of_scrub p d a _ rfl

theorem of_cassign (p : Bool) (d : SNum) (a : SNum) (b : SNum) (u : Nat) (he : u = 0x7B000000 + p.toNat * 0x80000000 + d.toNat * 0x20000 + a.toNat * 0x800 + b.toNat * 0x20) :
    u < 0x100000000 ∧ decodeFields u = .ok (.cassign p d a b) := by
  obtain ⟨hb, hm, q0, q1, q2, q3, q4⟩ := fmt14 0xF6 0x7B000000 p.toNat d.toNat a.toNat b.toNat u (by decide) (by decide) (Bool.toNat_lt p) d.isLt a.isLt b.isLt he
  exact ⟨hb, by simp [decodeFields, fieldsPriv, hm, q0, q1, q2, q3, q4, bit, bv, zero]⟩

theorem cassign (p : Bool) (d : SNum) (a : SNum) (b : SNum) : Statement (.cassign p d a b) := fun _ => of_cassign p d a b _ rfl

theorem splitMergeEarly (w : Nat) (a : Nat) (b : Nat) : Statement (.splitMergeEarly w a b) := fun h => nomatch h

theorem loadReturn (w : Nat) (id : Nat) : Statement (.loadReturn w id) := fun h => nomatch h

theorem mwaitWake (w : Nat) (sp : Nat) : Statement (.mwaitWake w sp) := fun h => nomatch h

theorem spawnBinTimer (core : Nat) (bin : Nat) : Statement (.spawnBinTimer core bin) := fun h => nomatch h

theorem spawnBinLaunch (core : Nat) (bin : Nat) : Statement (.spawnBinLaunch core bin) := fun h => nomatch h

theorem slotDrainDone (w : Nat) : Statement (.slotDrainDone w) := fun h => nomatch h

theorem localityDecay (core : Nat) : Statement (.localityDecay core) := fun h => nomatch h

theorem starvationIssue (w : Nat) (sp : Nat) : Statement (.starvationIssue w sp) := fun h => nomatch h

theorem laneCopy (op : Nat) : Statement (.laneCopy op) := fun h => nomatch h

theorem requestElement (op : Nat) (i : Nat) : Statement (.requestElement op i) := fun h => nomatch h

theorem requestComplete (op : Nat) : Statement (.requestComplete op) := fun h => nomatch h

theorem remoteSourceRead (op : Nat) : Statement (.remoteSourceRead op) := fun h => nomatch h

theorem remotePutArrival (m : PutMsg) : Statement (.remotePutArrival m) := fun h => nomatch h

theorem remoteGetArrival (m : GetMsg) : Statement (.remoteGetArrival m) := fun h => nomatch h

theorem rgetDataReturn (op : Nat) (r : GetReply) : Statement (.rgetDataReturn op r) := fun h => nomatch h

theorem remoteHoldTimeout (held : Nat) : Statement (.remoteHoldTimeout held) := fun h => nomatch h

theorem sendArrival (m : SendMsg) : Statement (.sendArrival m) := fun h => nomatch h

theorem sendDeferAdmit (held : Nat) : Statement (.sendDeferAdmit held) := fun h => nomatch h

theorem sendStatus (op : Nat) (status : Nat) : Statement (.sendStatus op status) := fun h => nomatch h

theorem sendUnreachable (op : Nat) : Statement (.sendUnreachable op) := fun h => nomatch h

theorem combinerContribution (src : BitVec 128) (hdr : BitVec 256) (payload : List Byte) (bad : Bool) : Statement (.combinerContribution src hdr payload bad) := fun h => nomatch h

theorem combinerTimeout (group : Nat) (seq : Nat) : Statement (.combinerTimeout group seq) := fun h => nomatch h

theorem combineResult (op : Nat) (hdr : BitVec 256) (payload : List Byte) : Statement (.combineResult op hdr payload) := fun h => nomatch h

theorem passGroupLaunch (core : Nat) (group : Nat) : Statement (.passGroupLaunch core group) := fun h => nomatch h

theorem passExecute (core : Nat) (group : Nat) (err : List PassErr) : Statement (.passExecute core group err) := fun h => nomatch h

theorem passDrain (core : Nat) (group : Nat) : Statement (.passDrain core group) := fun h => nomatch h

theorem slotLoad (core : Nat) (slot : Nat) : Statement (.slotLoad core slot) := fun h => nomatch h

theorem eccUncorrectable (site : EccSite) : Statement (.eccUncorrectable site) := fun h => nomatch h

theorem hangDetect (ctx : Nat) : Statement (.hangDetect ctx) := fun h => nomatch h

theorem refusalLogFlush (pav : Nat) : Statement (.refusalLogFlush pav) := fun h => nomatch h

theorem faultTimeout (tag : Nat) : Statement (.faultTimeout tag) := fun h => nomatch h

theorem gangDispatch (lseq : Nat) (gang : Nat) (cluster : Nat) : Statement (.gangDispatch lseq gang cluster) := fun h => nomatch h

theorem launchReady (ctx : Nat) (queue : Nat) : Statement (.launchReady ctx queue) := fun h => nomatch h

theorem launchStart (lseq : Nat) : Statement (.launchStart lseq) := fun h => nomatch h

theorem launchComplete (lseq : Nat) : Statement (.launchComplete lseq) := fun h => nomatch h

theorem auditRun (lseq : Nat) (block : Nat) (core : Nat) : Statement (.auditRun lseq block core) := fun h => nomatch h

theorem auditCompare (lseq : Nat) (block : Nat) : Statement (.auditCompare lseq block) := fun h => nomatch h

theorem quantumExpiry (pav : Nat) : Statement (.quantumExpiry pav) := fun h => nomatch h

theorem preemptDeadline (cluster : Nat) : Statement (.preemptDeadline cluster) := fun h => nomatch h

theorem splitRelease (w : Nat) (sp : Nat) : Statement (.splitRelease w sp) := fun h => nomatch h

theorem gangSave (gang : Nat) : Statement (.gangSave gang) := fun h => nomatch h

theorem saveTimeout (gang : Nat) : Statement (.saveTimeout gang) := fun h => nomatch h

theorem gangRestore (gang : Nat) (cluster : Nat) : Statement (.gangRestore gang cluster) := fun h => nomatch h

theorem clusterLend (cluster : Nat) (pav : Nat) : Statement (.clusterLend cluster pav) := fun h => nomatch h

theorem clusterReclaim (cluster : Nat) : Statement (.clusterReclaim cluster) := fun h => nomatch h

theorem budgetWindow : Statement .budgetWindow := fun h => nomatch h

theorem hostRmaRead (ses : Nat) (va : Nat) (len : Nat) : Statement (.hostRmaRead ses va len) := fun h => nomatch h

theorem hostRmaWrite (ses : Nat) (va : Nat) (data : List Byte) : Statement (.hostRmaWrite ses va data) := fun h => nomatch h

theorem sessionOpen (role : Role) (pav : Nat) (ctx : Nat) : Statement (.sessionOpen role pav ctx) := fun h => nomatch h

theorem launch (ses : Nat) (hdr : BitVec 256) (body : List Byte) : Statement (.launch ses hdr body) := fun h => nomatch h

theorem copy (ses : Nat) (hdr : BitVec 256) (body : List Byte) : Statement (.copy ses hdr body) := fun h => nomatch h

theorem signal (ses : Nat) (hdr : BitVec 256) (body : List Byte) : Statement (.signal ses hdr body) := fun h => nomatch h

theorem wait (ses : Nat) (hdr : BitVec 256) (body : List Byte) : Statement (.wait ses hdr body) := fun h => nomatch h

theorem fenceCmd (ses : Nat) (hdr : BitVec 256) (body : List Byte) : Statement (.fenceCmd ses hdr body) := fun h => nomatch h

theorem ctxcreate (ses : Nat) (hdr : BitVec 256) (body : List Byte) : Statement (.ctxcreate ses hdr body) := fun h => nomatch h

theorem ctxdestroy (ses : Nat) (hdr : BitVec 256) (body : List Byte) : Statement (.ctxdestroy ses hdr body) := fun h => nomatch h

theorem migrate (ses : Nat) (hdr : BitVec 256) (body : List Byte) : Statement (.migrate ses hdr body) := fun h => nomatch h

theorem map (ses : Nat) (hdr : BitVec 256) (body : List Byte) : Statement (.map ses hdr body) := fun h => nomatch h

theorem unmap (ses : Nat) (hdr : BitVec 256) (body : List Byte) : Statement (.unmap ses hdr body) := fun h => nomatch h

theorem faultreply (ses : Nat) (hdr : BitVec 256) (body : List Byte) : Statement (.faultreply ses hdr body) := fun h => nomatch h

theorem dcdadd (ses : Nat) (hdr : BitVec 256) (body : List Byte) : Statement (.dcdadd ses hdr body) := fun h => nomatch h

theorem dcdrel (ses : Nat) (hdr : BitVec 256) (body : List Byte) : Statement (.dcdrel ses hdr body) := fun h => nomatch h

theorem writePvcfg (ses : Nat) (hdr : BitVec 256) (body : List Byte) : Statement (.writePvcfg ses hdr body) := fun h => nomatch h

theorem writePvcol (ses : Nat) (hdr : BitVec 256) (body : List Byte) : Statement (.writePvcol ses hdr body) := fun h => nomatch h

theorem setBudgets (ses : Nat) (hdr : BitVec 256) (body : List Byte) : Statement (.setBudgets ses hdr body) := fun h => nomatch h

theorem readInService (ses : Nat) (hdr : BitVec 256) (body : List Byte) : Statement (.readInService ses hdr body) := fun h => nomatch h

theorem pavilionImageUpdate (ses : Nat) (hdr : BitVec 256) (body : List Byte) : Statement (.pavilionImageUpdate ses hdr body) := fun h => nomatch h

theorem clusterQuarantine (ses : Nat) (hdr : BitVec 256) (body : List Byte) : Statement (.clusterQuarantine ses hdr body) := fun h => nomatch h

theorem sectorRetirement (ses : Nat) (hdr : BitVec 256) (body : List Byte) : Statement (.sectorRetirement ses hdr body) := fun h => nomatch h

theorem ethernetReset (ses : Nat) (hdr : BitVec 256) (body : List Byte) : Statement (.ethernetReset ses hdr body) := fun h => nomatch h

theorem ethernetRemoval (ses : Nat) (hdr : BitVec 256) (body : List Byte) : Statement (.ethernetRemoval ses hdr body) := fun h => nomatch h

theorem cxlReset (ses : Nat) (hdr : BitVec 256) (body : List Byte) : Statement (.cxlReset ses hdr body) := fun h => nomatch h

theorem cxlRemoval (ses : Nat) (hdr : BitVec 256) (body : List Byte) : Statement (.cxlRemoval ses hdr body) := fun h => nomatch h

theorem cxlResetTimeout (port : Nat) : Statement (.cxlResetTimeout port) := fun h => nomatch h

theorem returnCore (ses : Nat) (hdr : BitVec 256) (body : List Byte) : Statement (.returnCore ses hdr body) := fun h => nomatch h

theorem returnCluster (ses : Nat) (hdr : BitVec 256) (body : List Byte) : Statement (.returnCluster ses hdr body) := fun h => nomatch h

theorem returnPage (ses : Nat) (hdr : BitVec 256) (body : List Byte) : Statement (.returnPage ses hdr body) := fun h => nomatch h

theorem raiseFuseTackRoom (ses : Nat) (hdr : BitVec 256) (body : List Byte) : Statement (.raiseFuseTackRoom ses hdr body) := fun h => nomatch h

theorem raiseFusePavilion (ses : Nat) (hdr : BitVec 256) (body : List Byte) : Statement (.raiseFusePavilion ses hdr body) := fun h => nomatch h

theorem warmReset (ses : Nat) (hdr : BitVec 256) (body : List Byte) : Statement (.warmReset ses hdr body) := fun h => nomatch h

theorem watchdogReset : Statement .watchdogReset := fun h => nomatch h

theorem resumeScrub (ses : Nat) (hdr : BitVec 256) (body : List Byte) : Statement (.resumeScrub ses hdr body) := fun h => nomatch h

theorem loadEvictionSchedule (ses : Nat) (hdr : BitVec 256) (body : List Byte) : Statement (.loadEvictionSchedule ses hdr body) := fun h => nomatch h

theorem quarantineThreshold (ses : Nat) (hdr : BitVec 256) (body : List Byte) : Statement (.quarantineThreshold ses hdr body) := fun h => nomatch h

theorem coldReset : Statement .coldReset := fun h => nomatch h

theorem deriveKey (requester : Nat) (purpose : BitVec 32) (context : BitVec 256) (version : BitVec 32) : Statement (.deriveKey requester purpose context version) := fun h => nomatch h

theorem getVersion (ep : Nat) : Statement (.getVersion ep) := fun h => nomatch h

theorem getCapabilities (ep : Nat) : Statement (.getCapabilities ep) := fun h => nomatch h

theorem negotiateAlgorithms (ep : Nat) (algs : SpdmAlgs) : Statement (.negotiateAlgorithms ep algs) := fun h => nomatch h

theorem getDigests (ep : Nat) : Statement (.getDigests ep) := fun h => nomatch h

theorem getCertificate (ep : Nat) (slot : Nat) (off : Nat) (len : Nat) : Statement (.getCertificate ep slot off len) := fun h => nomatch h

theorem challenge (ep : Nat) (nonce : BitVec 256) : Statement (.challenge ep nonce) := fun h => nomatch h

theorem getMeasurements (ep : Nat) (index : Nat) (signed : Bool) : Statement (.getMeasurements ep index signed) := fun h => nomatch h

theorem keyExchange (ep : Nat) (pav : Nat) (ctx : Nat) (who : SpdmWho) (mutualAuth : Bool) (certDigest : BitVec 384) : Statement (.keyExchange ep pav ctx who mutualAuth certDigest) := fun h => nomatch h

theorem finish (ep : Nat) (verified : Bool) : Statement (.finish ep verified) := fun h => nomatch h

theorem endSession (ep : Nat) : Statement (.endSession ep) := fun h => nomatch h

theorem keyload (ep : Nat) (secured : Bool) (ctx : Nat) (kind : Nat) (key : BitVec 256) : Statement (.keyload ep secured ctx kind key) := fun h => nomatch h

theorem grant (ep : Nat) (secured : Bool) (ctx : Nat) (slot : Nat) (meas : BitVec 384) (budget : BitVec 32) (life : Nat) : Statement (.grant ep secured ctx slot meas budget life) := fun h => nomatch h

theorem migrationStateReceive (mig : Nat) (data : List Byte) : Statement (.migrationStateReceive mig data) := fun h => nomatch h

theorem prepared (mig : Nat) : Statement (.prepared mig) := fun h => nomatch h

theorem commit (mig : Nat) : Statement (.commit mig) := fun h => nomatch h

theorem refused (mig : Nat) (asNone : Bool) : Statement (.refused mig asNone) := fun h => nomatch h

theorem outcome (mig : Nat) : Statement (.outcome mig) := fun h => nomatch h

theorem migrationSilence (mig : Nat) : Statement (.migrationSilence mig) := fun h => nomatch h

theorem migrationOutcomePoll (mig : Nat) : Statement (.migrationOutcomePoll mig) := fun h => nomatch h

theorem migrationSourceLoss (mig : Nat) : Statement (.migrationSourceLoss mig) := fun h => nomatch h

theorem scrubChunk (job : Nat) : Statement (.scrubChunk job) := fun h => nomatch h

theorem grantExpiry (ctx : Nat) (slot : Nat) : Statement (.grantExpiry ctx slot) := fun h => nomatch h

theorem firmwareLoad (image : FwImage) : Statement (.firmwareLoad image) := fun h => nomatch h

theorem ideReestablished (port : Nat) : Statement (.ideReestablished port) := fun h => nomatch h

theorem imageSignatureVerified (pav : Nat) : Statement (.imageSignatureVerified pav) := fun h => nomatch h

end Sys2Proof.Laws.Fields
end

