-- ==== Sys2Proof/Safety.lean ====
section
/-! DEFINITION. What counts as a safe run, and the words in which claims say what a step does: that an instruction passes
the checks at issue, what it leaves unchanged, and what a result's label is. -/

namespace Sys2Proof

open Machine

/-- A step completes: it answers a next state. -/
def Machine.State.goesOn (s : State) : Prop := ∃ t, step s = .next t

/-- A run of `k` steps never stops with a fault or a refusal. -/
def Machine.State.safeFor (s : State) (k : Nat) : Prop := ∃ t, Host.Core.run core k s = .next t

/-- The checks that stand before an instruction's own (03 R62 steps 3 to 5, 05 R113, 16 R273) pass: its operands lie in
the warp's allocation and suit MODE.TYPE, its live-mask word names only state that exists, it has the privilege, none of
its registers waits for a load, and none that it reads holds poison. -/
structure Machine.State.Ready (s : State) (i : Instr) : Prop where
  operands : s.operandsOk i = true
  mask : s.maskCheck i = none
  priv : s.privOk i = true
  loads : s.scoreboarded i = false
  poison : s.readsPoison i = false

/-- The instruction completes: `exec` answers a next state for which `P` holds. -/
def Completes (i : Instr) (s : State) (P : State → Prop) : Prop := ∃ t, exec i s = .next t ∧ P t

/-- Nothing differs but the warp that issues: memory, every other warp, every block, context, core and engine, the
Tack Room and the messages sent are unchanged. -/
def OnlyWarp (s t : State) : Prop := t = s.setWarp t.warp

/-- Every entry of the warp's label table stays. -/
def KeepsEntries (s t : State) : Prop :=
  ∀ i l, s.warp.entry s.owners i = some l → t.warp.entry s.owners i = some l

/-- The label table of `s` can name `l` exactly: an entry holds it, or one of L1 to L14 is free (02 R19). -/
def HasRoom (s : State) (l : Label) : Prop :=
  (∃ j < 16, s.warp.entry s.owners j = some l) ∨ ∃ j, 1 ≤ j ∧ j ≤ 14 ∧ s.warp.ltab.get none j = none

/-- The index `i` stands, in `t`, for a label that dominates `l`, for every `l` within the owner set; and for `l` itself
where an entry of `s` holds it (02 R18, R19). -/
def Stands (s t : State) (i : LIdx) (l : Label) : Prop :=
  ((∃ j < 16, s.warp.entry s.owners j = some l) → t.label i = l) ∧
    (Label.dom s.owners l = true → Label.dom (t.label i) l = true)

/-- The entry that an index names is in use. -/
def InUse (s : State) (i : LIdx) : Prop := (s.warp.entry s.owners i.toNat).isSome = true

/-- The split goes on at `pc`. Of the split only its PC, the safe point it stands at, and the machine's own bookkeeping
of its issue differ; the warp's other splits are unchanged. -/
structure GoesTo (s t : State) (pc : BitVec 57) : Prop where
  split : t.split = { s.split with pc := pc, safe := t.split.safe, last := s.cycle, declined := [], heldOn := [] }
  others : ∀ i, i ≠ s.curSplit → t.warp.split i = s.warp.split i

/-- What an instruction that writes S[d] does: the value `v` under the label `l`, the split going on at `pc`; S0 discards
both. Every other scalar
register, every vector register, every flag and every other register of the warp is unchanged, but for FLAGS and FLBL
where the instruction names flags: those it sets are `f`, and FLBL then joins `l` (02 R10, R11, R18, R19, 04 R65). -/
structure WritesScalar (s t : State) (pc : BitVec 57) (d : SNum) (v : Word) (l : Label) (f : Option (BitVec 32)) : Prop where
  only : OnlyWarp s t
  next : GoesTo s t pc
  value : d ≠ 0 → t.sreg d = v
  label : d ≠ 0 → HasRoom s l → t.slbl d = l
  dominates : d ≠ 0 → Label.dom s.owners l = true → Label.dom (t.slbl d) l = true
  discarded : d = 0 → t.warp.sregs = s.warp.sregs
  others : ∀ r : SNum, r ≠ d → t.warp.sregs.get SReg.zero r.toNat = s.warp.sregs.get SReg.zero r.toNat
  entries : KeepsEntries s t
  flags : t.warp.flags = s.warp.flags ||| f.getD 0
  flbl : if f.isNone then t.warp.flbl = s.warp.flbl
         else InUse s s.warp.flbl → Stands s t t.warp.flbl (s.label s.warp.flbl ||| l)
  rest : t.warp = { s.warp with
    sregs := t.warp.sregs, poisonS := t.warp.poisonS, ltab := t.warp.ltab, coarsen := t.warp.coarsen,
    flags := t.warp.flags, flbl := t.warp.flbl, splits := t.warp.splits }

/-- What a lane-wise instruction does that writes elements of `wide` or single registers to V[d] in the lanes `ls`: lane
`l` holds `v l` under a label for `lb l`. Every other lane, every other vector register, every scalar register and every
other register of the warp is unchanged, but for FLAGS and FLBL where it names flags (07 R119, R132, R133). -/
structure WritesLanes (s t : State) (pc : BitVec 57) (wide : Bool) (d : VNum) (ls : List Nat) (v : Nat → Nat)
    (lb : Nat → Label) (f : Option (BitVec 32)) : Prop where
  only : OnlyWarp s t
  next : GoesTo s t pc
  value : ∀ l ∈ ls, t.velt wide d.toNat l = v l % 2 ^ (if wide then 64 else 32)
  label : ∀ l ∈ ls, ∀ r, r = d.toNat ∨ (wide = true ∧ r = d.toNat + 1) → Stands s t (t.vlane r l).lbl (lb l)
  others : ∀ r l, l < 32 → ¬(l ∈ ls ∧ (r = d.toNat ∨ (wide = true ∧ r = d.toNat + 1))) → t.vlane r l = s.vlane r l
  entries : KeepsEntries s t
  flags : t.warp.flags = s.warp.flags ||| f.getD 0
  flbl : if f.isNone then t.warp.flbl = s.warp.flbl
         else InUse s s.warp.flbl → Stands s t t.warp.flbl (s.label s.warp.flbl ||| joinLabels (ls.map lb))
  rest : t.warp = { s.warp with
    vregs := t.warp.vregs, poisonV := t.warp.poisonV, ltab := t.warp.ltab, coarsen := t.warp.coarsen,
    flags := t.warp.flags, flbl := t.warp.flbl, splits := t.warp.splits }

/-- What an instruction does that writes no register: it goes on at `pc`, and nothing else differs. -/
structure GoesOnly (s t : State) (pc : BitVec 57) : Prop where
  only : OnlyWarp s t
  next : GoesTo s t pc
  rest : t.warp = { s.warp with splits := t.warp.splits }

/-- Every byte of memory, and of every block's windows, reads as before. -/
def SameMemory (s t : State) : Prop := ∀ k, t.byteAt k = s.byteAt k

end Sys2Proof
end

