-- ==== Sys2Proof/Certificates/Slice0/Obligations.lean ====
section
/-! DEFINITION. The statements for the provers. -/

namespace Sys2Proof

open Machine

/-! ## Words for the statements -/

/-- An instruction that delivers the exact result `e` of R66 to S[d], completing at the next word: `sat` says that its
row saturates, `named` which flags beside ISAT it sets where its row names a flag. -/
def Delivers (i : Instr) (s : State) (p : Bool) (d : SNum) (l : Label) (sat : Bool) (named : Option (BitVec 32))
    (e : Int) : Prop :=
  let w := intWidth s.ty
  let r := deliverInt s.ty w s.sat sat e
  s.Ready i → Completes i s fun t => WritesScalar s t (s.nextPc p) d (extTo64 s.ty w r.1) l (named.map (r.2 ||| ·))

/-- An instruction that writes `v` to S[d] under the label `l` and names no flag. -/
def Puts (i : Instr) (s : State) (p : Bool) (d : SNum) (v : Word) (l : Label) : Prop :=
  s.Ready i → Completes i s fun t => WritesScalar s t (s.nextPc p) d v l none

/-- The stack entries after the raise of R24 by a label: one uniform-raise entry is pushed where the pc label does not
dominate it. -/
def raisedEntries (s : State) (l : Label) : List Entry :=
  if Label.dom s.pcl l then s.warp.entries else .raise s.split.exec s.split.mode s.split.pcl :: s.warp.entries

/-- The pc label after the raise of R24. -/
def RaisesPcl (s t : State) (l : Label) : Prop :=
  (Label.dom s.pcl l = true → t.split.pcl = s.split.pcl) ∧
    (Label.dom s.pcl l = false → Stands s t t.split.pcl (s.pcl ||| l))

/-- What an instruction does that branches on data of label `l`: the raise of R24, then it goes on at `pc` with MODE
`mode`. Nothing else of the machine differs. -/
structure Branches (s t : State) (l : Label) (pc : BitVec 57) (mode : BitVec 32) : Prop where
  only : OnlyWarp s t
  entries : KeepsEntries s t
  split : t.split = { s.split with
    pc := pc, mode := mode, pcl := t.split.pcl, safe := t.split.safe, last := s.cycle, declined := [], heldOn := [] }
  others : ∀ i, i ≠ s.curSplit → t.warp.split i = s.warp.split i
  label : RaisesPcl s t l
  stack : t.warp.entries = raisedEntries s l
  rest : t.warp = { s.warp with
    ltab := t.warp.ltab, coarsen := t.warp.coarsen, stack := t.warp.stack, spill := t.warp.spill,
    splits := t.warp.splits }

/-- Every page of the warp's private area is mapped for the instruction (log 30). -/
def AreaMapped (s : State) : Prop := s.choices = [] ∧ s.split.declined = []

/-- So is it, and none of it is poisoned: a refill of the stack completes (05 R103, 16 R273). -/
def AreaReads (s : State) : Prop := AreaMapped s ∧ ∀ a, s.warp.privPoison.get false a = false

/-- The stack has room for a raise by `l` and `n` entries beside: in the core, or with the spills that it takes (05 R103,
09 R167). -/
def StackRoom (s : State) (l : Label) (n : Nat) : Prop :=
  let k := n + (if Label.dom s.pcl l then 0 else 1)
  s.warp.stack.length + k ≤ 16 ∨
    s.warp.stack.length ≤ 16 ∧ s.warp.entries.length + k ≤ 144 ∧ AreaMapped s

/-- A trap entered into the context's handler (02 R28). Of its address the PC keeps bits 56:2 (log 80). -/
structure EntersHandler (s t : State) (c : Cause) (einfo : Word) (ops : Label) (epc : BitVec 57) : Prop where
  only : OnlyWarp s t
  entries : KeepsEntries s t
  epc : t.split.epc = epc
  ecause : t.split.ecause = BitVec.ofNat 8 c.code
  einfo : t.split.einfo = einfo
  emode : t.split.emode = s.split.mode
  elbl : t.split.elbl = s.split.pcl
  epriv : t.split.epriv = s.split.priv
  pcl : Stands s t t.split.pcl (s.pcl ||| ops)
  mode : t.split.mode = 0x30#32
  priv : t.split.priv = true
  eh : t.split.eh = true
  pc : t.split.pc = s.ctx.handler.setWidth 57 &&& ~~~3#57
  exec : t.split.exec = s.split.exec
  ready : t.split.st = .ready
  others : ∀ i, i ≠ s.curSplit → t.warp.split i = s.warp.split i
  rest : t.warp = { s.warp with ltab := t.warp.ltab, coarsen := t.warp.coarsen, splits := t.warp.splits }

/-- Lane-wise writes of single registers that name no flag. -/
def PutsLanes (i : Instr) (s : State) (p : Bool) (d : Sys2Proof.VNum) (v : Nat → Nat) (lb : Nat → Label) : Prop :=
  s.Ready i → Completes i s fun t => WritesLanes s t (s.nextPc p) false d s.lanes v lb none

/-- A lane-wise instruction that gives each participating lane a result of type `t`: its value and the flags it sets,
with the operand label `lb` joined with pc and guard (07 R132, R133). `named` says that the instruction names a flag. -/
def Gives (i : Instr) (s : State) (p : Bool) (t : ETy) (d : Sys2Proof.VNum) (named : Bool) (v : Nat → Nat × BitVec 32)
    (lb : Nat → Label) : Prop :=
  s.Ready i → Completes i s fun u =>
    WritesLanes s u (s.nextPc p) t.wide d s.lanes (fun l => laneForm t (v l).1)
      (fun l => s.pcl ||| s.guardLbl ||| lb l)
      (if named then some (s.lanes.foldl (fun f l => f ||| (v l).2) 0#32) else none)

/-! ### Floating point -/

/-- The value of a finite datum (06 R120). -/
def numOf (x : FVal) : ℚ :=
  match x with
  | .fin neg m e => (if neg then -1 else 1) * m * (2 : ℚ) ^ e
  | _ => 0

/-- Its sign. -/
def negOf (x : FVal) : Bool :=
  match x with
  | .fin neg _ _ => neg
  | .inf neg => neg
  | .nan _ => false

/-- A datum is finite. -/
def finite (x : FVal) : Bool :=
  match x with
  | .fin .. => true
  | _ => false

/-- The magnitude of a finite pattern without its sign bit: a subnormal or zero, or 1.f x 2^(e - bias) (R120). -/
def magOf (f : Fmt) (n : Nat) : ℚ :=
  let r : ℚ := (n % 2 ^ f.m : Nat)
  if n / 2 ^ f.m = 0 then (2 : ℚ) ^ f.emin * (r / 2 ^ f.m)
  else (2 : ℚ) ^ ((n / 2 ^ f.m : Nat) - (f.bias : Int)) * (1 + r / 2 ^ f.m)

/-- 06 R120: the datum of a pattern. -/
def ReadsPattern (f : Fmt) (n : Nat) : Prop :=
  let neg : Bool := decide (2 ^ (f.eb + f.m) ≤ n)
  let mag := n % 2 ^ (f.eb + f.m)
  let frac := n % 2 ^ f.m
  (mag = f.infBits → decodeF f n = .inf neg) ∧
    (f.infBits < mag → decodeF f n = .nan (decide (frac < 2 ^ (f.m - 1)))) ∧
    (mag < f.infBits → finite (decodeF f n) = true ∧ negOf (decodeF f n) = neg ∧ |numOf (decodeF f n)| = magOf f mag)

/-- `k` is the one of the neighbours of a magnitude `y`, of a sign, that a rounding mode chooses (06 R122). -/
def Chooses (rnd : Nat) (neg : Bool) (y : ℝ) (k : Nat) : Prop :=
  |y - k| < 1 ∧ ((k : ℝ) = y ∨
    match rnd with
    | 0 => |y - k| < 1 / 2 ∨ (|y - k| = 1 / 2 ∧ k % 2 = 0)
    | 1 => (k : ℝ) < y
    | 2 => if neg then (k : ℝ) < y else y < k
    | 3 => if neg then y < k else (k : ℝ) < y
    | _ => |y - k| < 1 / 2 ∨ (|y - k| = 1 / 2 ∧ y < k))

/-- The result and flags of an exact magnitude `y`, not 0, rounded once to a format (06 R121, R122): `k` in units of the last
place of the format, and `u` with the exponent range unbounded, by which it overflows or is tiny. -/
def IsRounded (f : Fmt) (rnd : Nat) (neg : Bool) (y : ℝ) (v : Nat × BitVec 32) : Prop :=
  ∃ (e : Int) (k u : Nat),
    let ulp : ℝ := 2 ^ (max e f.emin - (f.m : Int))
    let wide : ℝ := u * 2 ^ (e - (f.m : Int))
    let top : ℝ := 2 ^ (f.bias + 1)
    (2 : ℝ) ^ e ≤ y ∧ y < (2 : ℝ) ^ (e + 1) ∧ Chooses rnd neg (y / ulp) k ∧
      Chooses rnd neg (y / (2 : ℝ) ^ (e - (f.m : Int))) u ∧
      (top ≤ wide → v = (f.signed neg (if rnd = 1 ∨ (rnd = 2 ∧ neg = true) ∨ (rnd = 3 ∧ neg = false) then f.infBits - 1
        else f.infBits), fOVF ||| fINX)) ∧
      (wide < top →
        (∃ n < f.infBits, v.1 = f.signed neg n ∧ (magOf f n : ℝ) = k * ulp) ∧
        (k * ulp = y → v.2 = 0) ∧
        (k * ulp ≠ y → (2 : ℝ) ^ f.emin ≤ wide → v.2 = fINX) ∧
        (k * ulp ≠ y → wide < (2 : ℝ) ^ f.emin → v.2 = fINX ||| fUNF))

/-- The same of an exact number, 0 included: a zero has the sign `zneg`. -/
def Rounds (f : Fmt) (rnd : Nat) (zneg : Bool) (x : ℚ) (v : Nat × BitVec 32) : Prop :=
  (x = 0 → v = (f.signed zneg 0, 0#32)) ∧ (x ≠ 0 → IsRounded f rnd (decide (x < 0)) ((|x| : ℚ) : ℝ) v)

/-- The canonical NaN, with INV where a signalling NaN is among the operands (06 R123). -/
def NanOf (f : Fmt) (xs : List FVal) (v : Nat × BitVec 32) : Prop :=
  v = (f.nan, if FVal.nan true ∈ xs then fINV else 0#32)

/-- Some operand is a NaN. -/
def SomeNan (xs : List FVal) : Prop := ∃ s, FVal.nan s ∈ xs

/-- A sum of operands, exact and rounded once; `zneg` is the sign of a sum that is 0 (06 R121 to R123, 07 R136). -/
def IsSum (f : Fmt) (rnd : Nat) (zneg : Bool) (xs : List FVal) (v : Nat × BitVec 32) : Prop :=
  (SomeNan xs → NanOf f xs v) ∧
    (¬SomeNan xs →
      (FVal.inf false ∈ xs → FVal.inf true ∈ xs → v = (f.nan, fINV)) ∧
      (∀ n, FVal.inf n ∈ xs → FVal.inf (!n) ∉ xs → v = (f.signed n f.infBits, 0#32)) ∧
      ((∀ n, FVal.inf n ∉ xs) → Rounds f rnd zneg (xs.map numOf).sum v))

/-- The sign of a sum that is 0: that of its terms where they agree, else minus only under RDN (06 R122). -/
def zeroSign (rnd : Nat) (xs : List FVal) : Bool := xs.all negOf || (xs.any negOf && rnd == 3)

/-- A product of two operands (07 R136). -/
def IsProduct (f : Fmt) (rnd : Nat) (x y : FVal) (v : Nat × BitVec 32) : Prop :=
  let neg := negOf x != negOf y
  (SomeNan [x, y] → NanOf f [x, y] v) ∧
    (¬SomeNan [x, y] → (finite x = false ∨ finite y = false) →
      ((finite x = true ∧ numOf x = 0) ∨ (finite y = true ∧ numOf y = 0) → v = (f.nan, fINV)) ∧
      ((finite x = true → numOf x ≠ 0) → (finite y = true → numOf y ≠ 0) → v = (f.signed neg f.infBits, 0#32))) ∧
    (finite x = true → finite y = true → Rounds f rnd neg (numOf x * numOf y) v)

/-- A product of two operands and an addend, rounded once (07 R136). -/
def IsFused (f : Fmt) (rnd : Nat) (x y z : FVal) (v : Nat × BitVec 32) : Prop :=
  let neg := negOf x != negOf y
  (SomeNan [x, y] → NanOf f [x, y, z] v) ∧
    (¬SomeNan [x, y] → (finite x = false ∨ finite y = false) →
      ((finite x = true ∧ numOf x = 0) ∨ (finite y = true ∧ numOf y = 0) → v = (f.nan, fINV)) ∧
      ((finite x = true → numOf x ≠ 0) → (finite y = true → numOf y ≠ 0) →
        IsSum f rnd false [.inf neg, z] v)) ∧
    (finite x = true → finite y = true → ∃ m e, numOf (.fin neg m e) = numOf x * numOf y ∧
      IsSum f rnd (zeroSign rnd [.fin neg m e, z]) [.fin neg m e, z] v)

/-- A quotient (07 R136). -/
def IsQuotient (f : Fmt) (rnd : Nat) (x y : FVal) (v : Nat × BitVec 32) : Prop :=
  let neg := negOf x != negOf y
  (SomeNan [x, y] → NanOf f [x, y] v) ∧
    (¬SomeNan [x, y] →
      (finite x = false → finite y = false → v = (f.nan, fINV)) ∧
      (finite x = false → finite y = true → v = (f.signed neg f.infBits, 0#32)) ∧
      (finite x = true → finite y = false → v = (f.signed neg 0, 0#32)) ∧
      (finite x = true → finite y = true →
        (numOf y = 0 → v = if numOf x = 0 then (f.nan, fINV) else (f.signed neg f.infBits, fDZ)) ∧
        (numOf y ≠ 0 → Rounds f rnd neg (numOf x / numOf y) v)))

/-- A square root (06 R131). -/
def IsRoot (f : Fmt) (rnd : Nat) (x : FVal) (v : Nat × BitVec 32) : Prop :=
  (SomeNan [x] → NanOf f [x] v) ∧
    (x = .inf false → v = (f.infBits, 0#32)) ∧
    (finite x = true → numOf x = 0 → v = (f.signed (negOf x) 0, 0#32)) ∧
    (x = .inf true ∨ (finite x = true ∧ numOf x < 0) → v = (f.nan, fINV)) ∧
    (finite x = true → 0 < numOf x → IsRounded f rnd false (Real.sqrt (numOf x : ℝ)) v)

/-- The order of minimum and maximum on data that are no NaN, -0 below +0 (07 R137). -/
def Below (x y : FVal) : Prop :=
  match x, y with
  | .inf n, .inf k => n = true ∨ k = false
  | .inf n, .fin .. => n = true
  | .fin .., .inf k => k = false
  | .fin .., .fin .. => numOf x < numOf y ∨ (numOf x = numOf y ∧ (negOf y = true → negOf x = true))
  | _, _ => False

/-- The minimum or maximum of data given as patterns: NaNs drop out (07 R137, R148). -/
def IsExtreme (f : Fmt) (isMin : Bool) (xs : List Nat) (v : Nat × BitVec 32) : Prop :=
  let ds := xs.map (decodeF f)
  let isNan (n : Nat) : Prop := ∃ s, decodeF f n = .nan s
  ((∀ n ∈ xs, isNan n) → v.1 = f.nan) ∧
    ((∃ n ∈ xs, ¬isNan n) → v.1 ∈ xs ∧ ¬isNan v.1 ∧ ∀ n ∈ xs, ¬isNan n →
      if isMin then Below (decodeF f v.1) (decodeF f n) else Below (decodeF f n) (decodeF f v.1)) ∧
    v.2 = if FVal.nan true ∈ ds then fINV else 0#32

/-- A result within `b` ulp of an exact number `y`, not 0 (06 R130): infinite where `y` is beyond the format, and otherwise
only where the bound reaches beyond it. INX is set, OVF of an infinity, and UNF of a subnormal or zero (log 38). -/
def WithinUlps (f : Fmt) (b : Nat) (y : ℝ) (v : Nat × BitVec 32) : Prop :=
  ∃ (e : Int) (neg : Bool) (n : Nat),
    let bound : ℝ := b * 2 ^ (max e f.emin - (f.m : Int))
    (2 : ℝ) ^ e ≤ |y| ∧ |y| < (2 : ℝ) ^ (e + 1) ∧ v.1 = f.signed neg n ∧ n ≤ f.infBits ∧
      (n < f.infBits → |(if neg then -(magOf f n : ℝ) else magOf f n) - y| ≤ bound) ∧
      ((2 : ℝ) ^ (f.bias + 1) ≤ |y| → n = f.infBits) ∧
      (n = f.infBits → (neg = true ↔ y < 0) ∧ (2 : ℝ) ^ (f.bias + 1) ≤ |y| + bound) ∧
      v.2 = fINX ||| (if n = f.infBits then fOVF else 0#32) ||| (if n < 2 ^ f.m then fUNF else 0#32)

/-- A conversion of the pattern `n` (06 R129). A float becomes an integer by its nearest neighbour under the rounding mode,
clamped to the type's range whatever SAT holds. -/
def Converts (src dst : ETy) (sat : Bool) (rnd n : Nat) (v : Nat × BitVec 32) : Prop :=
  let x := decodeF (Fmt.of src) n
  let w := dst.width
  let lo : Int := if dst.unsigned then 0 else -(2 : Int) ^ (w - 1)
  let hi : Int := if dst.unsigned then (2 : Int) ^ w - 1 else (2 : Int) ^ (w - 1) - 1
  (src = dst → v = (n, 0#32)) ∧
  (src ≠ dst →
    (src.int = true → dst.int = true → v = deliverInt dst w sat true (valOf src src.width n)) ∧
    (src.int = true → dst.float = true → Rounds (Fmt.of dst) rnd false (valOf src src.width n) v) ∧
    (src.float = true → dst.float = true →
      (SomeNan [x] → NanOf (Fmt.of dst) [x] v) ∧
      (∀ m, x = .inf m → v = ((Fmt.of dst).signed m (Fmt.of dst).infBits, 0#32)) ∧
      (finite x = true → Rounds (Fmt.of dst) rnd (negOf x) (numOf x) v)) ∧
    (src.float = true → dst.int = true →
      (SomeNan [x] → v = (0, fCVTN ||| fINV)) ∧
      (∀ m, x = .inf m → v = (((if m then lo else hi) % (2 : Int) ^ w).toNat, fISAT)) ∧
      (finite x = true → ∃ k : Nat, Chooses rnd (negOf x) ((|numOf x| : ℚ) : ℝ) k ∧
        let y : Int := if negOf x then -(k : Int) else k
        v.1 = (max lo (min hi y) % (2 : Int) ^ w).toNat ∧
        v.2 = (if lo ≤ y ∧ y ≤ hi then 0#32 else fISAT) ||| (if (y : ℚ) = numOf x then 0#32 else fINX))))

/-- One datum is less than another, neither a NaN; -0 and +0 are equal (07 R141). -/
def Less (x y : FVal) : Prop :=
  match x, y with
  | .inf n, .inf k => n = true ∧ k = false
  | .inf n, .fin .. => n = true
  | .fin .., .inf k => k = false
  | .fin .., .fin .. => numOf x < numOf y
  | _, _ => False

/-- Two data are equal, neither a NaN. -/
def Same (x y : FVal) : Prop :=
  match x, y with
  | .inf n, .inf k => n = k
  | .fin .., .fin .. => numOf x = numOf y
  | _, _ => False

/-- A comparison of floating data, and INV (07 R141). -/
def Compares (c : VCond) (x y : FVal) (v : Bool × BitVec 32) : Prop :=
  (v.1 = true ↔ match c with
    | .eq => Same x y
    | .ne => ¬Same x y
    | .lt => Less x y
    | .le => Less x y ∨ Same x y
    | .gt => Less y x
    | .ge => Less y x ∨ Same x y
    | .un => SomeNan [x, y]
    | .ord => ¬SomeNan [x, y]) ∧
  (v.2 = fINV ∨ v.2 = 0#32) ∧
  (v.2 = fINV ↔ match c with
    | .lt | .le | .gt | .ge => SomeNan [x, y]
    | .eq | .ne | .un | .ord => FVal.nan true ∈ [x, y])

/-- A reduction of contributions, of which there are some (07 R148): `full` says that each is of a participating lane. -/
def Reduces (t : ETy) (o : RedOp) (sat : Bool) (rnd : Nat) (full : Bool) (xs : List Nat) (v : Nat × BitVec 32) : Prop :=
  let f := Fmt.of t
  let ds := xs.map (decodeF f)
  let vals := xs.map (valOf t t.width)
  match o with
  | .add =>
    if t.float then IsSum f rnd (full && zeroSign rnd ds) ds v else v = deliverInt t t.width sat true vals.sum
  | .min =>
    if t.float then IsExtreme f true xs v
    else ∃ m ∈ vals, (∀ y ∈ vals, m ≤ y) ∧ v = ((m % (2 : Int) ^ t.width).toNat, 0#32)
  | .max =>
    if t.float then IsExtreme f false xs v
    else ∃ m ∈ vals, (∀ y ∈ vals, y ≤ m) ∧ v = ((m % (2 : Int) ^ t.width).toNat, 0#32)
  | .and => (∀ i, v.1.testBit i = xs.all fun x => x.testBit i) ∧ v.2 = 0#32
  | .or => (∀ i, v.1.testBit i = xs.any fun x => x.testBit i) ∧ v.2 = 0#32
  | .xor => (∀ i, v.1.testBit i = decide ((xs.filter fun x => x.testBit i).length % 2 = 1)) ∧ v.2 = 0#32

/-- What an instruction does that writes S[d], names flags and has no participating lane: it sets no flag, and FLBL stands
for its label yet (07 R133). -/
def WritesNoLane (s t : State) (pc : BitVec 57) (d : Sys2Proof.SNum) (l : Label) : Prop :=
  WritesScalar s (t.setWarp { t.warp with flbl := s.warp.flbl }) pc d 0 l none ∧
    (InUse s s.warp.flbl → t.label t.warp.flbl = s.label s.warp.flbl)

/-- A pattern and no flag, of a finite number that is `y`. -/
def IsExact (f : Fmt) (y : ℝ) (v : Nat × BitVec 32) : Prop :=
  ∃ (neg : Bool) (n : Nat), n < f.infBits ∧ v = (f.signed neg n, 0#32) ∧
    (if neg then -(magOf f n : ℝ) else magOf f n) = y

/-- The pattern and no flag where the format holds `y`, not 0, exactly; else a result within `b` ulp (06 R130, R131). -/
def Approximates (f : Fmt) (b : Nat) (y : ℝ) (v : Nat × BitVec 32) : Prop :=
  ((∃ w, IsExact f y w) → IsExact f y v) ∧ (IsExact f y v ∨ WithinUlps f b y v)

/-! ### Memory -/

/-- The write (none: the initial value) whose byte a plain read of `x` may return to a party that has seen `seen`: a member of
the value set (10 R183), or over an interval in which only threads of the reader's die touch `x` the last write in the die's
memory order, or one that waits to enter it and does so as the read takes its place (10 R185). -/
def MayReadByte (s : State) (seen : List Nat) (x : Nat) (w : Option Nat) : Prop :=
  let lasts (b : ByteHist) : Prop := ∃ i, b.solo = some (s.dieNo, i)
  (s.hist.values x (s.byteAt x) seen ≠ [] → ∃ v, (w, v) ∈ s.hist.values x (s.byteAt x) seen) ∨
    ∃ b, s.hist.byte x = some b ∧ ((lasts b ∧ w = b.top) ∨
      ∃ q ∈ s.hist.pend, w = some q.id ∧ (∃ v, (q.id, v) ∈ b.ws) ∧ (lasts b ∨ s.nextId ≤ q.id))

/-- The bytes of `n` locations from `k` by a rule for one location: those of one write where every write of them is aligned
and at least as wide (10 R175), else each on its own. -/
def Picks (s : State) (k n : Nat) (bs : List Byte) (rule : Nat → Option Nat → Prop) : Prop :=
  bs.length = n ∧
    ((∀ i < n, s.hist.wide (k + i) n = true) → ∃ w, rule k w ∧
      ∀ i < n, bs[i]? = some (s.hist.byteOf (k + i) (s.byteAt (k + i)) w)) ∧
    ∀ i < n, ∃ w, bs[i]? = some (s.hist.byteOf (k + i) (s.byteAt (k + i)) w) ∧
      ((∃ j < n, s.hist.wide (k + j) n = false) → rule (k + i) w)

/-- What a plain read of `n` bytes at `k` may return to the lanes `ls`. Where nothing has written, that is what memory
holds. -/
def MayRead (s : State) (ls : List Nat) (k n : Nat) (bs : List Byte) : Prop :=
  ∃ seen, (∀ x ∈ s.warp.seenAll ls, x ∈ seen) ∧ Picks s k n bs (MayReadByte s seen)

/-- The value that an atomic of the lanes `ls` may read of `n` bytes at `k`: the same, or what its predecessor in the order of
atomics wrote (10 R184). -/
def MayAtomic (s : State) (ls : List Nat) (k n v : Nat) : Prop :=
  ∃ seen bs, (∀ x ∈ s.warp.seenAll ls, x ∈ seen) ∧ v = leNat bs ∧
    Picks s k n bs fun x w => MayReadByte s seen x w ∨ (w.isSome = true ∧ w = s.hist.ao.get none x)

/-- No plain write of `n` bytes at `k` races with an atomic of lane `l`: each that is recorded there happens before it. -/
def NoRace (s : State) (l k n : Nat) : Prop :=
  ∀ i < n, ∀ b, s.hist.byte (k + i) = some b → ∀ w ∈ b.ws, (s.hist.wrec w.1).atomic = true ∨ w.1 ∈ s.warp.seen l

/-- What an engine that has seen the writes `seen` may read of `n` bytes at `k`: of each aligned 8 bytes a member of the value
set (10 R174, R175, R183). -/
def EngineReads (s : State) (seen : List Nat) (k n : Nat) (bs : List Byte) : Prop :=
  bs.length = n ∧ ∀ o m, (o, m) ∈ pieces n → Picks s (k + o) m ((bs.drop o).take m) fun x w =>
    s.hist.values x (s.byteAt x) seen ≠ [] → ∃ v, (w, v) ∈ s.hist.values x (s.byteAt x) seen

/-- What an atomic from outside the threads of one die may read of `n` bytes at `k` (10 R184): the same of the 8 bytes, or what
its predecessor in the order of atomics wrote. -/
def EngineAtomic (s : State) (seen : List Nat) (k n : Nat) (bs : List Byte) : Prop :=
  Picks s k n bs fun x w => (s.hist.values x (s.byteAt x) seen ≠ [] → ∃ v, (w, v) ∈ s.hist.values x (s.byteAt x) seen) ∨
    (w.isSome = true ∧ w = s.hist.ao.get none x)

/-- Nothing is recorded as written at these places: memory holds what every read of them returns. -/
def Unwritten (s : State) (k n : Nat) : Prop := ∀ i < n, Sparse.look (k + i) s.hist.bytes.entries = none

/-- What an instruction leaves alone that stores nothing to memory: all bytes, labels and poison of memory, every other
warp, and the Tack Room. -/
structure NoStore (s t : State) : Prop where
  memory : SameMemory s t
  phys : t.phys = s.phys
  warps : ∀ k, k ≠ s.cur → t.warpAt k = s.warpAt k
  tack : t.tack = s.tack

/-- What a scalar load does: `v` under the label `l` goes to S[d], and nothing is stored. -/
structure LoadsScalar (s t : State) (pc : BitVec 57) (d : Sys2Proof.SNum) (v : Word) (l : Label) : Prop where
  next : GoesTo s t pc
  frame : NoStore s t
  value : d ≠ 0 → t.sreg d = v
  label : d ≠ 0 → HasRoom s l → t.slbl d = l
  dominates : d ≠ 0 → Label.dom s.owners l = true → Label.dom (t.slbl d) l = true
  discarded : d = 0 → t.warp.sregs = s.warp.sregs
  others : ∀ r : Sys2Proof.SNum, r ≠ d → t.warp.sregs.get SReg.zero r.toNat = s.warp.sregs.get SReg.zero r.toNat
  entries : KeepsEntries s t
  rest : t.warp = { s.warp with
    sregs := t.warp.sregs, poisonS := t.warp.poisonS, ltab := t.warp.ltab, coarsen := t.warp.coarsen,
    splits := t.warp.splits, hb := t.warp.hb, acq := t.warp.acq }

/-- A refusal of the warp that issues is counted and logged (16 R270). -/
def LogsRefusal (s t : State) (kind why : Nat) : Prop :=
  (t.ctxAt s.warp.ctx).nrefuse = sat16 s.ctx.nrefuse ∧
    (t.pavAt s.ctx.pav).log.getLast? =
      some (logEntry s.warp.ctx s.block.vcore (s.cur % 32) kind why s.warp.lseq)

/-- A lane-wise load has issued: its lanes' values and labels are pending, and the registers do not differ yet. `value` and
`lb` say what each lane has read; `late` that its read may yet be performed (10 R183). -/
structure LoadsLanes (s t : State) (pc : BitVec 57) (d : Sys2Proof.VNum) (pair : Bool)
    (value : Nat → Word → Prop) (lb : Nat → Label) (late : Nat → Option LateRead → Prop) : Prop where
  next : GoesTo s t pc
  frame : NoStore s t
  entries : KeepsEntries s t
  idle : s.lanes = [] → t.warp.loads = s.warp.loads
  pending : s.lanes ≠ [] → ∃ x : PLoad, t.warp.loads = s.warp.loads ++ [x] ∧ x.reg = d.toNat ∧ x.pair = pair ∧
    x.poison = none ∧ x.lanes.map PLane.lane = s.lanes ∧
    ∀ e ∈ x.lanes, value e.lane e.val ∧ Stands s t e.lbl (lb e.lane) ∧ late e.lane e.late
  rest : t.warp = { s.warp with
    loads := t.warp.loads, ltab := t.warp.ltab, coarsen := t.warp.coarsen, splits := t.warp.splits, hb := t.warp.hb,
    acq := t.warp.acq }

/-- What a load of `n` bytes makes of them: sign-extended to 32 bits where `signed`, else zero-extended. -/
def Extends (signed : Bool) (n : Nat) (bs : List Byte) (v : Word) : Prop :=
  (signed = false → v = BitVec.ofNat 64 (leNat bs)) ∧
    (signed = true → v.setWidth 32 = BitVec.ofInt 32 (sextNat (8 * n) (leNat bs)))

/-- What a store leaves alone in its warp and elsewhere. -/
structure OnlyStores (s t : State) (pc : BitVec 57) : Prop where
  next : GoesTo s t pc
  warps : ∀ k, k ≠ s.cur → t.warpAt k = s.warpAt k
  tack : t.tack = s.tack
  rest : t.warp = { s.warp with splits := t.warp.splits, hb := t.warp.hb }

/-- What the lanes of a store of `n` bytes leave in memory: `place` gives each lane's location, `v` its value and `c` its
contribution. Where lanes meet, the highest wins; every other byte, every fixed granule's label, and the label of every
granule that no lane stores to, is unchanged. -/
structure StoresLanes (s t : State) (n : Nat) (place : Nat → Option Nat) (v : Nat → Nat) (c : Nat → Label) : Prop where
  others : ∀ a, (∀ l ∈ s.lanes, ∀ k, place l = some k → ¬(k ≤ a ∧ a < k + n)) → t.byteAt a = s.byteAt a
  stored : ∀ l ∈ s.lanes, ∀ k, place l = some k → ∀ j < n,
    (∀ m ∈ s.lanes, l < m → ∀ q, place m = some q → ¬(q ≤ k + j ∧ k + j < q + n)) →
    t.byteAt (k + j) = BitVec.ofNat 8 (v l / 256 ^ j)
  joined : ∀ l ∈ s.lanes, ∀ k, place l = some k → s.granFloat k = true → Label.dom (t.granLbl k) (c l) = true
  fixed : ∀ a, s.granFloat a = false → t.granLbl a = s.granLbl a
  apart : ∀ a, (∀ l ∈ s.lanes, ∀ k, place l = some k → k / 64 ≠ a / 64) → t.granLbl a = s.granLbl a

/-- The lowest-numbered lane that fails does so with a trap. -/
def FirstTrap (s : State) (chk : Nat → Chk) (c : Cause) (e : Word) (page : Bool) : Prop :=
  ∃ l ∈ s.lanes, chk l = .trap c e page ∧
    ∀ m ∈ s.lanes, m < l → (chk m).key.isSome = true ∨ (chk m).why.isSome = true

/-! ### Threads, copies and descriptors -/

/-- The threads of a bin run as a new warp in slot `k`: lane `i` is thread `i`, with W0 in V0 and V1 and W1 in V2 and V3
(05 R109). -/
structure LaunchesThreads (s t : State) (k : Nat) (x : Bin) : Prop where
  st : (t.warpAt k).st = .run
  spawned : (t.warpAt k).spawned = true
  block : (t.warpAt k).block = x.block
  ctx : (t.warpAt k).ctx = (s.blockAt x.block).ctx
  lseq : (t.warpAt k).lseq = (s.blockAt x.block).lseq
  ready : ((t.warpAt k).split 0).st = .ready
  pc : ((t.warpAt k).split 0).pc = x.entry
  exec : ((t.warpAt k).split 0).exec = BitVec.ofNat 32 (2 ^ x.threads.length - 1)
  priv : ((t.warpAt k).split 0).priv = (s.launchAt (s.blockAt x.block).lseq).privl
  words : ∀ i y, x.threads[i]? = some y → i < 32 →
    let v (r : Nat) := ((t.warpAt k).vregs.get VLane.zero (vkey r i)).val
    v 0 = y.w0.setWidth 32 ∧ v 1 = y.w0.extractLsb' 32 32 ∧ v 2 = y.w1.setWidth 32 ∧ v 3 = y.w1.extractLsb' 32 32

/-- The split that issues is the only live one of its warp. -/
def OnlySplit (s : State) : Prop := s.split.st = .ready ∧ ∀ e ∈ s.warp.liveSplits, e.1 = s.curSplit

/-- A descriptor of `n` bytes can be read at a scratchpad address, and every read of it returns `x`, under the label
`lbl`. -/
def Describes (s : State) (v : BitVec 32) (n x : Nat) (lbl : Label) : Prop :=
  v.toNat % n = 0 ∧ ∃ k ceil, s.checkSp s.warp.block v n true = .ok k ceil ∧ s.heldBy k = [] ∧ s.poisoned k = false ∧
    s.poisoned (k + n - 1) = false ∧ (∀ bs, EngineReads s (s.warp.seenAll s.execLanes) k n bs → leNat bs = x) ∧
    lbl = s.granLbl k ||| s.granLbl (k + n - 1)

/-- An instruction hands an operation to an engine and goes on: memory and every register are unchanged, and nothing of
its warp differs but its record of open copies. -/
structure StartsOp (s t : State) (pc : BitVec 57) (o : Op) : Prop where
  next : GoesTo s t pc
  memory : SameMemory s t
  ops : t.ops = s.ops ++ [o]
  ctx : o.ctx = s.warp.ctx
  block : o.block = s.warp.block
  warps : ∀ k, k ≠ s.cur → t.warpAt k = s.warpAt k
  rest : t.warp = { s.warp with splits := t.warp.splits, openCopies := t.warp.openCopies }

/-! ### Remote operations -/

/-- The bytes `bs` that an instruction read from a local range of `n` bytes in elements of `e`: those of each element
whose check passed, in order. -/
def ReadsRange (s : State) (cs : List Chk) (e n : Nat) (bs : List Byte) : Prop :=
  ∀ (j k : Nat) (c : Label), cs[j]? = some (.ok k c) →
    EngineReads s (s.warp.seenAll s.execLanes) k (min e (n - e * j)) ((bs.drop (e * j)).take e)

/-- No engine holds the sources of an instruction. -/
def SourcesFree (s : State) (cs : List Chk) : Prop := ∀ c ∈ cs, ∀ k, c.key = some k → s.heldBy k = []

/-- Pieces of the bytes `bs`, each an offset and a length, have been written at their places in order. No other byte is
changed but those of `also`, which are written last. -/
def Writes (s t : State) (bs : List Byte) (ps : List ((Nat × Nat) × Nat)) (also : Nat → Prop) : Prop :=
  (∀ a, ¬also a → (∀ x ∈ ps, ¬(x.2 ≤ a ∧ a < x.2 + x.1.2)) → t.byteAt a = s.byteAt a) ∧
  ∀ (j i : Nat) (x : (Nat × Nat) × Nat) (b : Byte), ps[j]? = some x → i < x.1.2 →
    (∀ (l : Nat) (y : (Nat × Nat) × Nat), j < l → ps[l]? = some y → ¬(y.2 ≤ x.2 + i ∧ x.2 + i < y.2 + y.1.2)) →
    ¬also (x.2 + i) → bs[x.1.1 + i]? = some b → t.byteAt (x.2 + i) = b

/-- The elements of `e` bytes of a destination of `n` have been written at their places, those that have one and whose offsets
are not in `gone`. -/
def Lands (s t : State) (bs : List Byte) (e n : Nat) (gone : List Nat) (places : List (Option Nat)) (also : Nat → Prop) : Prop :=
  Writes s t bs (((cut e n).zip places).filterMap fun x => if gone.contains x.1.1 then none else x.2.map fun k => (x.1, k)) also

/-- A location lies in a word of 8 bytes at a place, where there is one. -/
def InWord (place : Option Nat) (a : Nat) : Prop := ∃ k, place = some k ∧ k ≤ a ∧ a < k + 8

/-- A location lies in the barrier object that an operation counts its bytes on, where it names one. -/
def InObject (s : State) (o : Op) (bo : Bool) (bobj : BitVec 32) (a : Nat) : Prop :=
  bo = true ∧ ∃ k c, s.checkSp o.block bobj 16 false = .ok k c ∧ k ≤ a ∧ a < k + 16

/-- An operation ends, and no other: nothing remains of it. -/
def Ends (s t : State) (id : Nat) : Prop := t.ops.map Op.id = (s.ops.map Op.id).filter (· ≠ id)

/-- Elements that arrive from a peer: each that passes its check and accepts the channel's label. -/
def arriving (s : State) (cl : Label) (cs : List ((Nat × Nat) × Chk)) : List (Option Nat) :=
  cs.map fun c => match c.2 with
    | .ok k ceil => if s.accepts k ceil cl then some k else none
    | _ => none

/-- A send finds its channel open over its sender, a ring entry that takes it, and every page that it touches. -/
structure Admits (s : State) (declined : List Nat) (m : SendMsg) (head tail : Nat) : Prop where
  opened : (s.chanAt m.ctx m.pch).opened = true
  kind : peerKind (s.chanPeer m.ctx (s.chanAt m.ctx m.pch)) = 1
  addr : peerAddr (s.chanPeer m.ctx (s.chanAt m.ctx m.pch)) = m.srcAddr
  pctx : peerCtx (s.chanPeer m.ctx (s.chanAt m.ctx m.pch)) = m.srcCtx
  pch : (s.chanAt m.ctx m.pch).pch = m.handle
  head : ∃ c, s.farChk m.ctx declined .load (s.chanAt m.ctx m.pch).headAt = .ok head c
  tail : ∃ c, s.farChk m.ctx declined .store (s.chanAt m.ctx m.pch).tailAt = .ok tail c ∧
    s.accepts tail c (s.chanAt m.ctx m.pch).cl = true
  fits : m.payload.length + 8 ≤ (s.chanAt m.ctx m.pch).entry
  places : ∀ c ∈ s.farChks m.ctx declined ((s.chanAt m.ctx m.pch).ring +
      m.seq % (s.chanAt m.ctx m.pch).slots * (s.chanAt m.ctx m.pch).entry) (m.payload.length + 8),
    ∃ k ceil, c.2 = .ok k ceil ∧ s.accepts k ceil (s.chanAt m.ctx m.pch).cl = true

/-- The tail counter once a message has ended: every earlier message has ended, at its receiver or at its sender, and this one
has not (19 R324). -/
def TailPasses (s : State) (m : SendMsg) (n : Nat) : Prop :=
  let ended (q : Nat) : Prop := q = m.seq ∨ q ∈ m.failed ∨ q ∈ (s.chanAt m.ctx m.pch).doneSeqs
  (∀ q < n, ended q) ∧ ¬ended n

/-- A send is written: LEN, TAG and the payload into its ring entry, then the tail counter; the sender is told. -/
def DeliversSend (s t : State) (declined : List Nat) (m : SendMsg) (tail : Nat) : Prop :=
  let ch := s.chanAt m.ctx m.pch
  let bs := leBytes 4 m.len ++ leBytes 4 m.tag.toNat ++ m.payload
  Lands s t bs 8 bs.length [] (arriving s ch.cl (s.farChks m.ctx declined (ch.ring + m.seq % ch.slots * ch.entry) bs.length))
    (InWord (some tail)) ∧
  (∀ n, TailPasses s m n → leNat (t.bytesAt tail 8) = n % 2 ^ 64) ∧
  t.outbox.getLast? = some (.sendStatus m.srcAddr m.opTag 1)

/-- Element `j` of the result `y` of a round with an OP, TY and Q, from every rank's contribution (19 R326): the sum, the
maximum or the minimum; under RESCALE the maximum m comes first. -/
def Combines (op ty q j : Nat) (cs : List (List Byte)) (y : List Byte) : Prop :=
  let e := combBytes ty
  let at_ (i : Nat) (x : List Byte) : Nat := leNat ((x.drop (e * i)).take e)
  let xs := cs.map (at_ j)
  let vs := xs.map (sextNat (8 * e))
  let v := at_ j y
  (op = 0 → ty < 2 → v = xs.sum % 2 ^ (8 * e)) ∧
    (op = 0 → ty = 2 → ∃ fl, IsSum f32 0 (zeroSign 0 (xs.map (decodeF f32))) (xs.map (decodeF f32)) (v, fl)) ∧
    (op = 0 → ty = 3 → 0 < q → v = (xs.map fun x => x % q).sum % q) ∧
    (op = 1 ∨ op = 2 → ty < 2 → cs ≠ [] →
      ∃ m ∈ vs, v = (m % (2 : Int) ^ (8 * e)).toNat ∧ ∀ x ∈ vs, if op = 1 then x ≤ m else m ≤ x) ∧
    (op = 1 ∨ op = 2 → ty = 2 → ∃ fl, IsExtreme f32 (decide (op = 2)) xs (v, fl)) ∧
    (op = 3 → ty = 2 → let ms := cs.map (at_ 0)
      (SomeNan (ms.map (decodeF f32)) → v = f32.nan) ∧
      (¬SomeNan (ms.map (decodeF f32)) → j = 0 → ∃ fl, IsExtreme f32 false ms (v, fl)))

/-! ### The matrix engine -/

/-- A descriptor of the warp's own window. -/
def DescribesOwn (s : State) (v : BitVec 32) (n x : Nat) (lbl : Label) : Prop := bitOf v 26 = false ∧ Describes s v n x lbl

/-- The groups of a core have names of their own. -/
def OwnNames (s : State) (core : Nat) : Prop :=
  ((s.coreAt core).groups.map Group.id).Nodup ∧ ∀ g ∈ (s.coreAt core).groups, g.id < s.nextId

/-- What a word of the matrix engine leaves alone: memory, every other warp, and of its own warp all but the label table,
the split's place and the matrix view of A. -/
structure OnlyView (s t : State) (pc : BitVec 57) : Prop where
  next : GoesTo s t pc
  memory : SameMemory s t
  warps : ∀ k, k ≠ s.cur → t.warpAt k = s.warpAt k
  entries : KeepsEntries s t
  rest : t.warp = { s.warp with
    splits := t.warp.splits, ltab := t.warp.ltab, coarsen := t.warp.coarsen, unfold := t.warp.unfold,
    unfoldLbl := t.warp.unfoldLbl, abase := t.warp.abase, astr := t.warp.astr, aLbl := t.warp.aLbl }

/-- The bytes that a pass reads of row `m` of a quarter; zeros where it reads none (14 R232). -/
def RowReads (s : State) (g : Group) (q : Quarter) (m : Nat) (bs : List Byte) : Prop :=
  match sliceAddr q.unfold (groupBytes g.desc) m (bG0 g.desc + g.g) with
  | some o => EngineReads s q.seen (scratchKey q.block o) (groupBytes g.desc) bs
  | none => bs = List.replicate (groupBytes g.desc) 0#8

/-- Nothing that the rows of a quarter are read from is poisoned. -/
def RowsReady (s : State) (g : Group) (q : Quarter) : Prop :=
  ∀ i < 8, ∀ o : Nat,
    (sliceAddr q.unfold (groupBytes g.desc) (q.row0 + i) (bG0 g.desc + g.g) = some o →
      ∀ j < groupBytes g.desc, s.poisoned (scratchKey q.block o + j) = false) ∧
    (scaleAddr q.unfold g.desc q.abase q.astr (q.row0 + i) (bG0 g.desc + g.g) = some o →
      s.poisoned (scratchKey q.block o) = false)

/-- Two lists of patterns of a format: the exact sum of their products, all finite, rounded once to F32 (14 R241, R242). -/
def DotRounds (t : ETy) (xs ys : List Int) (v : Int) : Prop :=
  let ds := xs.map fun x => decodeF (Fmt.of t) x.toNat
  let es := ys.map fun y => decodeF (Fmt.of t) y.toNat
  (∀ x ∈ ds ++ es, finite x = true) → ∃ (n : Nat) (fl : BitVec 32), v = n ∧
    Rounds f32 0 ((List.zipWith (fun x y => negOf x != negOf y) ds es).all id)
      (List.zipWith (fun x y => numOf x * numOf y) ds es).sum (n, fl)

/-- A quarter's element of a pass, from the elements of its row and column (14 R227, R241): the exact sum of products, that of
the residues, or the sums of two chunks. -/
def PassElement (d : BitVec 512) (xs ys vals : List Int) : Prop :=
  let half (c : Nat) (zs : List Int) : List Int := (zs.drop (32 * c)).take 32
  (bMode d < 2 → vals = [dot xs ys]) ∧
    (bMode d = 3 ∨ bMode d = 4 → vals.length = 2 ∧ ∀ c < 2, ∀ v, vals[c]? = some v →
      DotRounds (if bMode d = 3 then .bf16 else .f32) (half c xs) (half c ys) v) ∧
    (bMode d = 5 → vals = [dot (xs.map (· % (bQ d : Int))) (ys.map (· % (bQ d : Int))) % (bQ d : Int)])

/-- What an accumulator that held `old` holds after a drain of `vals` (14 R230, R238, R241). -/
def Accumulates (d : BitVec 512) (old : Nat) (vals : List Int) (v : Nat) : Prop :=
  let w := 8 * accBytesOf d
  (∀ u, bMode d < 2 → vals = [u] →
    v = truncInt w (max (-(2 ^ (w - 1) : Nat)) (min ((2 ^ (w - 1) : Nat) - 1) (sextNat w old + u)))) ∧
    (∀ a b : Nat, 2 ≤ bMode d → bMode d ≤ 4 → vals = [(a : Int), (b : Int)] →
      let sum (xs : List Nat) (y : Nat) : Prop :=
        ∃ fl, IsSum f32 0 (zeroSign 0 (xs.map (decodeF f32))) (xs.map (decodeF f32)) (y, fl)
      ∃ y, sum [old, a] y ∧ sum [y, b] v) ∧
    (∀ u : Nat, bMode d = 5 → 0 < bQ d → vals = [(u : Int)] → v = (old % bQ d + u) % bQ d)

/-! ### Privileged instructions, the host and the Tack Room -/

/-- What `n` bytes at a virtual address read as, 8 at a time: each access passes its checks, nothing holds it or has
poisoned it, and every read of it returns the same. -/
def ReadsVirtual (s : State) (va : Word) (n : Nat) (bs : List Byte) : Prop :=
  bs.length = n ∧ ∀ i < n / 8, ∃ k ceil, s.memChk .load (va + BitVec.ofNat 64 (8 * i)) 8 = .ok k ceil ∧ s.heldBy k = [] ∧
    s.poisoned k = false ∧ ∀ ys, MayRead s s.execLanes k 8 ys → ys = (bs.drop (8 * i)).take 8

/-- A device command's answer is the last message sent: its header carries the command, a status, the context, the queue
and the tag of the command (19 R314). -/
def Answers (t : State) (ses : Nat) (h : BitVec 256) (x : Stat) (body : List Byte) : Prop :=
  ∃ y, t.outbox.getLast? = some (.reply ses y body) ∧ fieldOf y 248 8 = 1 ∧ hCmd y = hCmd h ∧ fieldOf y 232 8 = x.code ∧
    hCtx y = hCtx h ∧ hQueue y = hQueue h ∧ hTag y = hTag h ∧ hLen y = body.length % 2 ^ 32

/-- A command arrives on an open session, in order, with a good header (19 R313 to R315, R329). -/
structure Arrives (s : State) (ses : Nat) (h : BitVec 256) (body : List Byte) (cmd : Nat) : Prop where
  opened : (s.session ses).isOpen = true
  free : s.updating (s.session ses).pav = false
  order : s.behind ses (heldFor h) = false
  cmd : hCmd h = cmd
  good : hdrBad h body = false

/-- The command names a context that its session serves, within its budget, and a queue of it (19 R313, R315, R319). -/
structure Serves (s : State) (ses : Nat) (h : BitVec 256) (body : List Byte) (cmd : Nat) : Prop where
  arrives : Arrives s ses h body cmd
  serves : s.serves (s.session ses) (hCtx h) = true
  budget : (s.ctxAt (hCtx h)).overBudget 1 body.length = false
  queue : hQueue h ≤ fieldOf (s.ctxAt (hCtx h)).sched 44 4
  stays : s.leaving (hCtx h) = none
  held : (s.ctxAt (hCtx h)).held = false

/-- A management message of the operator with a SUB, and for the fields given nothing else in its body (19 R316). -/
structure Manages (s : State) (ses : Nat) (h : BitVec 256) (body : List Byte) (sub : Nat) (fs : List (Nat × Nat)) : Prop where
  arrives : Arrives s ses h body 0xC
  operator : (s.session ses).role = .operator
  sub : bodyAt body 0 2 = sub
  fields : onlyFields body ((0, 2) :: fs) = true

end Sys2Proof

open Sys2Proof Sys2Proof.Machine

/-! ## Encoding and the step -/

/-- 03 R33, R46 to R58: words written out from the spec's encodings are the instructions that they stand for. -/
def Obligations.SampleWordsDecode : Prop :=
  decode 0b0_00010000_000011_000001_000010_00000#32 = .ok (.sadd false 3 1 2) ∧
  decode 0b1_00100001_0_000101_1111111111111111#32 = .ok (.smovi true 5 0xFFFF#16) ∧
  decode 0b0_00000001_000111_11111111111111110#32 = .ok (.braZ false 7 0x1FFFE#17) ∧
  decode 0b0_01000000_0000011_0000001_0000010_00#32 = .ok (.vadd false 3 1 2) ∧
  decode 0b0_10000000_0000100_000010_0000110_010#32 = .ok (.vld false 4 2 6 .b32) ∧
  decode 0b0_10100100_000011_000001_000010_0_1_000#32 = .ok (.satom false 3 1 2 true .add) ∧
  decode 0b0_00001111_0100000_0000000000000000#32 = .error .minor ∧
  decode 0b1_00001111_0000010_0000000000000000#32 = .error .safePoint ∧
  decode 0b0_01111000_00000000000000000000000#32 = .error .major

/-- 03 R33 to R58: no bit of an operand is dropped by the encoding: the word of every well-formed instruction decodes to
it again. -/
def Obligations.DecodeOfEncodeIsTheInstruction : Prop :=
  ∀ i : Instr, i.isWord = true → i.illFormed = none → decode (encode i) = .ok i

/-- 03 R33 to R63: every word that decodes is the word of the instruction that it decodes to, which is well formed: no two
words are one instruction, and no bit of a word is ignored. -/
def Obligations.EncodeOfDecodeIsTheWord : Prop :=
  ∀ (w : BitVec 32) (i : Instr), decode w = .ok i → i.isWord = true ∧ i.illFormed = none ∧ encode i = w

/-- 03 R62: a step takes the next turn of the agenda. A turn that issues a split whose word is fetched and decodes to `i` is
`exec` of `i` in the state where that split issues, with its live-mask word latched (R38) and what the access brings into the
TLBs and the L1; a word that does not decode traps ILL, and a fetch that fails ends the turn. A turn that is an event is
`exec` of the event, with how it came where it is another device's message (20 R338). -/
def Obligations.StepRunsTheDecodedInstruction : Prop :=
  (∀ (s : State) (w sp : Nat) (rest : List Turn) (word : BitVec 32) (i : Instr),
    s.agenda = .issue w sp :: rest → s.boot = .running →
    canIssue { s with agenda := rest } w sp = true →
    fetch (prepare { s with agenda := rest } w sp) = .word word → decode word = .ok i →
    step s = exec i (((prepare { s with agenda := rest } w sp).latch word).fill i)) ∧
  (∀ (s t : State) (w sp : Nat) (rest : List Turn) (word : BitVec 32) (e : DecodeErr),
    s.agenda = .issue w sp :: rest → s.boot = .running →
    (canIssue { s with agenda := rest } w sp = false → step s = .next { s with agenda := rest }) ∧
    (canIssue { s with agenda := rest } w sp = true →
      (fetch (prepare { s with agenda := rest } w sp) = .stop t → step s = .next t) ∧
      (fetch (prepare { s with agenda := rest } w sp) = .word word → decode word = .error e →
        step s = .next (illegal word ((prepare { s with agenda := rest } w sp).latch word))))) ∧
  (∀ (s : State) (i : Instr) (rest : List Turn), s.agenda = .event i :: rest → s.boot = .running →
    i.isWord = false → step s = exec i { s with agenda := rest, arrival := .blank }) ∧
  (∀ (s : State) (a : Arrival) (i : Instr) (rest : List Turn), s.agenda = .arrive a i :: rest → s.boot = .running →
    i.isWord = false → step s = exec i { s with agenda := rest, arrival := a })

/-! ## Labels and scalar registers -/

/-- 02 R19: `lookup_or_insert`. An entry that holds the label gives the lowest such index and changes nothing; else the
lowest free entry of L1 to L14 takes it; else the index is that of an entry that dominates it and has fewest owners, the
lowest of equals, and LBLCOARSEN counts, stopping at 0xFFFF_FFFF. No entry that is in use changes. -/
def Obligations.LookupOrInsertFollowsItsOrder : Prop :=
  ∀ (w : Warp) (own l : Label),
    ((∃ j < 16, w.entry own j = some l) →
      (w.intern own l).2 = w ∧ w.entry own (w.intern own l).1.toNat = some l ∧
      ∀ j < (w.intern own l).1.toNat, w.entry own j ≠ some l) ∧
    ((∀ j < 16, w.entry own j ≠ some l) → (∃ j, 1 ≤ j ∧ j ≤ 14 ∧ w.ltab.get none j = none) →
      let i := (w.intern own l).1.toNat
      1 ≤ i ∧ i ≤ 14 ∧ w.ltab.get none i = none ∧ (∀ j, 1 ≤ j → j < i → w.ltab.get none j ≠ none) ∧
      (w.intern own l).2 = { w with ltab := w.ltab.set none i (some l) }) ∧
    ((∀ j < 16, w.entry own j ≠ some l) → (∀ j, 1 ≤ j → j ≤ 14 → w.ltab.get none j ≠ none) →
      Label.dom own l = true →
      let i := (w.intern own l).1.toNat
      ∃ e, w.entry own i = some e ∧ Label.dom e l = true ∧
        (∀ j < 16, ∀ x, w.entry own j = some x → Label.dom x l = true →
          labelSize e < labelSize x ∨ (labelSize e = labelSize x ∧ i ≤ j)) ∧
        (w.intern own l).2 = { w with coarsen := if w.coarsen = 0xFFFFFFFF#32 then w.coarsen else w.coarsen + 1 }) ∧
    (∀ i x, w.entry own i = some x → (w.intern own l).2.entry own i = some x)

/-- 02 R10: S0 reads 0 with label ∅, whatever is written to it. -/
def Obligations.S0ReadsZeroAndDiscardsWrites : Prop :=
  ∀ (s : State) (v : Word) (l : Label), s.setS 0 v l = s ∧ s.sreg 0 = 0 ∧ s.slbl 0 = 0#16

/-- 04 R66: what is delivered of an exact result at width `w`. Without saturation the pattern is the result modulo 2^w;
with it the value is the result clamped to the type's range, and ISAT says that it differs. -/
def Obligations.DeliveryWrapsOrSaturates : Prop :=
  ∀ (t : ETy) (e : Int),
    let w := intWidth t
    let lo : Int := if t.unsigned then 0 else -(2 : Int) ^ (w - 1)
    let hi : Int := if t.unsigned then (2 : Int) ^ w - 1 else (2 : Int) ^ (w - 1) - 1
    (∀ sat row : Bool, (sat && row) = false →
      ((deliverInt t w sat row e).1 : Int) = e % (2 : Int) ^ w ∧ (deliverInt t w sat row e).2 = 0#32) ∧
    valOf t w (deliverInt t w true true e).1 = max lo (min hi e) ∧
    (deliverInt t w true true e).2 = (if lo ≤ e ∧ e ≤ hi then 0#32 else fISAT) ∧
    ∀ n : Nat, (extTo64 t w n).toInt = (if t.unsigned ∧ w = 64 then (BitVec.ofNat 64 n).toInt else valOf t w n)

/-- 04 R66: the scalar arithmetic instructions, each with the exact result of its row, at the width of MODE.TYPE. -/
def Obligations.ScalarArithmeticDeliversItsRow : Prop :=
  ∀ (s : State) (p : Bool) (d a b : Sys2Proof.SNum) (imm : Imm16),
    let w := intWidth s.ty
    let ua := (s.sreg a).toNat % 2 ^ w
    let ub := (s.sreg b).toNat % 2 ^ w
    let x := valOf s.ty w (s.sreg a).toNat
    let y := valOf s.ty w (s.sreg b).toNat
    let n := ub % w
    let l := s.pcl ||| s.slbl a ||| s.slbl b
    let isat : Option (BitVec 32) := some 0#32
    let divz : Option (BitVec 32) := some (if y = 0 then fIDIVZ else 0#32)
    Delivers (.sadd p d a b) s p d l true isat (x + y) ∧
    Delivers (.ssub p d a b) s p d l true isat (x - y) ∧
    Delivers (.smul p d a b) s p d l true isat (x * y) ∧
    Delivers (.smulh p d a b) s p d l false none (x * y / (2 ^ w : Nat)) ∧
    Delivers (.sdiv p d a b) s p d l true divz
      (if y = 0 then (if s.ty.unsigned then (2 ^ w : Nat) - 1 else -1) else x.tdiv y) ∧
    Delivers (.srem p d a b) s p d l false divz (x - y * x.tdiv y) ∧
    Delivers (.sand p d a b) s p d l false none ((ua &&& ub : Nat) : Int) ∧
    Delivers (.sor p d a b) s p d l false none ((ua ||| ub : Nat) : Int) ∧
    Delivers (.sxor p d a b) s p d l false none ((ua ^^^ ub : Nat) : Int) ∧
    Delivers (.sshl p d a b) s p d l false none ((ua * 2 ^ n : Nat) : Int) ∧
    Delivers (.sshr p d a b) s p d l false none ((ua / 2 ^ n : Nat) : Int) ∧
    Delivers (.ssra p d a b) s p d l false none (sextNat w ua / (2 ^ n : Nat)) ∧
    Delivers (.srot p d a b) s p d l false none ((ua * 2 ^ n % 2 ^ w + ua / 2 ^ (w - n) : Nat) : Int) ∧
    Delivers (.smin p d a b) s p d l false none (min x y) ∧
    Delivers (.smax p d a b) s p d l false none (max x y) ∧
    Delivers (.saddi p d imm) s p d (s.pcl ||| s.slbl d) true isat
      (valOf s.ty w (s.sreg d).toNat + valOf s.ty w (imm.signExtend 64).toNat)

/-- 04 R67, R68: counts, reversal and fields of a scalar register, bit by bit. -/
def Obligations.ScalarBitInstructionsGiveTheirBits : Prop :=
  ∀ (s : State) (p : Bool) (d a b : Sys2Proof.SNum),
    let w := intWidth s.ty
    let u := s.sreg a
    let pos := fieldOf (s.sreg b) 0 6
    let len := min (fieldOf (s.sreg b) 8 7) 64
    let la := s.pcl ||| s.slbl a
    (∃ c : Nat, c = ((List.range w).filter fun i => u.getLsbD i).length ∧
      Puts (.spopc p d a) s p d (BitVec.ofNat 64 c) la) ∧
    (∃ c ≤ w, (∀ i, w - c ≤ i → i < w → u.getLsbD i = false) ∧ (c < w → u.getLsbD (w - 1 - c) = true) ∧
      Puts (.sclz p d a) s p d (BitVec.ofNat 64 c) la) ∧
    (∃ c ≤ w, (∀ i < c, u.getLsbD i = false) ∧ (c < w → u.getLsbD c = true) ∧
      Puts (.sctz p d a) s p d (BitVec.ofNat 64 c) la) ∧
    (∃ r : Nat, r < 2 ^ w ∧ (∀ i < w, r.testBit i = u.getLsbD (w - 1 - i)) ∧
      Puts (.sbrev p d a) s p d (extTo64 s.ty w r) la) ∧
    (∃ v : Word, (∀ i < len, v.getLsbD i = u.getLsbD (pos + i)) ∧
      (∀ i, len ≤ i → i < 64 → v.getLsbD i = (!s.ty.unsigned && 0 < len && u.getLsbD (pos + len - 1))) ∧
      Puts (.sbfx p d a b) s p d v (la ||| s.slbl b)) ∧
    (∃ v : Word, (∀ i < 64, v.getLsbD i =
        if pos ≤ i ∧ i < pos + len then u.getLsbD (i - pos) else (s.sreg d).getLsbD i) ∧
      Puts (.sbfi p d a b) s p d v (s.pcl ||| s.slbl d ||| s.slbl a ||| s.slbl b))

/-- 04 R69, R70, R71, R74: compare, select, constants and launch arguments. -/
def Obligations.ScalarCompareSelectAndConstants : Prop :=
  ∀ (s : State) (p : Bool) (d a b : Sys2Proof.SNum) (imm : Imm16),
    let w := intWidth s.ty
    let x := valOf s.ty w (s.sreg a).toNat
    let y := valOf s.ty w (s.sreg b).toNat
    let l := s.pcl ||| s.slbl a ||| s.slbl b
    Puts (.scmp p d a b .eq) s p d (if x = y then 1 else 0) l ∧
    Puts (.scmp p d a b .ne) s p d (if x ≠ y then 1 else 0) l ∧
    Puts (.scmp p d a b .lt) s p d (if x < y then 1 else 0) l ∧
    Puts (.scmp p d a b .le) s p d (if x ≤ y then 1 else 0) l ∧
    Puts (.scmp p d a b .gt) s p d (if x > y then 1 else 0) l ∧
    Puts (.scmp p d a b .ge) s p d (if x ≥ y then 1 else 0) l ∧
    Puts (.ssel p d a b) s p d (if s.sreg d ≠ 0 then s.sreg a else s.sreg b)
      (s.pcl ||| s.slbl d ||| s.slbl a ||| s.slbl b) ∧
    Puts (.smovi p d imm) s p d (imm.signExtend 64) s.pcl ∧
    Puts (.smovh p d imm) s p d (s.sreg d <<< 16 ||| imm.setWidth 64) (s.pcl ||| s.slbl d) ∧
    Puts (.sldc p d imm) s p d (if imm.toNat < s.launch.narg then s.launch.arg imm.toNat else 0) s.pcl

/-! ## Mode, labels and declassification -/

/-- 04 R84: `mode` and `modei`. A reserved TYPE or RND traps ILL; else MODE[15:0] is written, and `mode` first raises by
the label of its register. -/
def Obligations.ModeWritesAndRaises : Prop :=
  ∀ (s : State) (p : Bool) (a : Sys2Proof.SNum) (v : Imm16),
    let x : BitVec 16 := (s.sreg a).setWidth 16
    let legal (m : BitVec 16) : Prop := fieldOf m 4 4 ≤ 12 ∧ fieldOf m 1 3 ≤ 4
    (s.Ready (.mode p a) → legal x → StackRoom s (s.slbl a) 0 →
      Completes (.mode p a) s fun t => Branches s t (s.slbl a) (s.nextPc p) (x.setWidth 32)) ∧
    (s.Ready (.mode p a) → ¬legal x →
      exec (.mode p a) s = .next (s.takeTrap .ill (wordOf (.mode p a)) (s.slbl a) s.split.pc p)) ∧
    (s.Ready (.modei p v) → legal v → Completes (.modei p v) s fun t =>
      OnlyWarp s t ∧
      t.split = { s.split with
        pc := s.nextPc p, mode := v.setWidth 32, safe := t.split.safe, last := s.cycle, declined := [],
        heldOn := [] } ∧
      (∀ i, i ≠ s.curSplit → t.warp.split i = s.warp.split i) ∧
      t.warp = { s.warp with splits := t.warp.splits }) ∧
    (s.Ready (.modei p v) → ¬legal v →
      exec (.modei p v) s = .next (s.takeTrap .ill (wordOf (.modei p v)) 0#16 s.split.pc p))

/-- 04 R85, R86, R87: reading a label, joining owners to it, and testing it. -/
def Obligations.LabelInstructionsReadAndJoin : Prop :=
  ∀ (s : State) (p : Bool) (d a b : Sys2Proof.SNum) (vd va : Sys2Proof.VNum),
    let la := s.slbl a
    let added := s.slbl b ||| ((s.sreg b).setWidth 16 &&& s.owners)
    let g := s.pcl ||| s.guardLbl
    let lv (l : Nat) : Label := s.label (s.vlane va.toNat l).lbl
    Puts (.lget p d a) s p d (la.setWidth 64) (s.pcl ||| la) ∧
    PutsLanes (.lgetV p vd va) s p vd (fun l => (lv l).toNat) (fun l => g ||| lv l) ∧
    Puts (.ljoin p d a b) s p d (s.sreg a) (s.pcl ||| la ||| added) ∧
    PutsLanes (.ljoinV p vd va b) s p vd (fun l => (s.vlane va.toNat l).val.toNat) (fun l => g ||| added ||| lv l) ∧
    Puts (.lchk p d a b) s p d (if la &&& ~~~((s.sreg b).setWidth 16) = 0#16 then 1 else 0)
      (s.pcl ||| la ||| s.slbl b)

/-- 04 R88: `ltcompact` frees exactly the entries of L1 to L14 that nothing of the rule's list references; with a register
write of the warp pending, a load's or that of an instruction at which a split waits, it waits. -/
def Obligations.LtcompactFreesUnreferencedEntries : Prop :=
  ∀ (s : State) (p : Bool), s.Ready (.ltcompact p) →
    let w := s.warp
    let pending : Prop := w.loads ≠ [] ∨ ∃ e ∈ w.liveSplits, e.2.willWrite = true
    let named (i : LIdx) : Prop := (∃ e ∈ w.sregs.entries, e.2.lbl = i) ∨ (∃ e ∈ w.vregs.entries, e.2.lbl = i) ∨
      (∃ e ∈ w.liveSplits, e.2.pcl = i ∨ e.2.elbl = i) ∨ (∃ e ∈ w.entries, e.pcl = i) ∨ w.flbl = i
    (¬pending → Completes (.ltcompact p) s fun t =>
      OnlyWarp s t ∧ GoesTo s t (s.nextPc p) ∧
      (∀ i, 1 ≤ i → i ≤ 14 →
        (named (BitVec.ofNat 4 i) → t.warp.ltab.get none i = w.ltab.get none i) ∧
        (¬named (BitVec.ofNat 4 i) → t.warp.ltab.get none i = none)) ∧
      t.warp = { s.warp with ltab := t.warp.ltab, splits := t.warp.splits }) ∧
    (pending → Completes (.ltcompact p) s fun t =>
      OnlyWarp s t ∧ t.split.st = .swait .ltcompact ∧ t.split.pc = s.split.pc ∧
      t.warp = { s.warp with splits := t.warp.splits })

/-- 04 R89, R90: `dcls.s` and `dcls`. With G = ∅ they copy, `dcls` as a `vmov`. Else the Tack Room spends one unit of each
owner's grant and no other budget, the value is copied and G leaves its label; where an owner of G has no live grant the
instruction traps LBL_DCLS and no budget changes. As `choices` picks, its reply comes at once or the split waits for it. -/
def Obligations.DeclassificationNeedsLiveGrants : Prop :=
  (∀ (s : State) (p : Bool) (d a g : Sys2Proof.SNum) (vd va : Sys2Proof.VNum),
      let o : Label := (s.sreg g).setWidth 16
      let live : Prop := Label.dom s.owners o = true ∧ (s.block.audit = true ∨ ∀ i < 16, o.getLsbD i = true →
        ∃ x ∈ s.tack.grants, x.ctx = s.warp.ctx ∧ x.slot = i ∧ x.meas = s.launch.meas ∧ x.budget ≠ 0 ∧ s.cycle < x.expiry)
      let atOnce : Prop := s.choices.headD 0 % 2 = 0
      let low (l : Label) : Label := (l &&& ~~~o) ||| s.slbl g
      let lv (l : Nat) : Label := s.label (s.vlane va.toNat l).lbl
      let i : Instr := .dclsS p d a g
      let iv : Instr := .dcls p vd va g
      let spent (t : State) : Prop := ∃ u, s.spend o (wordOf i) = .ok u ∧ t.tack = u.tack
      (s.Ready i → o = 0 → Completes i s fun t =>
        WritesScalar (s.mark true false false) t (s.nextPc p) d (s.sreg a) (s.pcl ||| s.slbl a) none) ∧
      (s.Ready i → o ≠ 0 → atOnce → live → Completes i s fun t =>
        (d ≠ 0 → t.sreg d = s.sreg a) ∧
        (d ≠ 0 → HasRoom s (low (s.pcl ||| s.slbl a)) → t.slbl d = low (s.pcl ||| s.slbl a)) ∧
        (∀ r, r ≠ d → t.warp.sregs.get SReg.zero r.toNat = s.warp.sregs.get SReg.zero r.toNat) ∧
        t.warp.vregs = s.warp.vregs ∧ t.warp.flags = s.warp.flags ∧
        SameMemory s t ∧ t.split.pc = s.nextPc p ∧ t.split.st = s.split.st ∧ spent t ∧ t.ctxs = s.ctxs) ∧
      (s.Ready iv → s.lanes ≠ [] → o = 0 → s.Ready (.vmov p vd va) → Completes iv s fun t =>
        WritesLanes (s.mark true false false) t (s.nextPc p) s.ty.wide vd s.lanes
          (fun l => laneForm s.ty (s.elem s.ty va l)) (fun l => s.pcl ||| s.guardLbl ||| s.elemLbl s.ty va l) none) ∧
      (s.Ready iv → s.lanes ≠ [] → o = 0 → s.operandsOk (.vmov p vd va) = false →
        exec iv s = .next ((s.mark true false false).takeTrap .ill (wordOf iv) (s.readLabel iv) s.split.pc p)) ∧
      (s.Ready iv → s.lanes ≠ [] → o ≠ 0 → atOnce → live → Completes iv s fun t =>
        (∀ l ∈ s.lanes, (t.vlane vd.toNat l).val = (s.vlane va.toNat l).val ∧
          Stands s t (t.vlane vd.toNat l).lbl (low (s.pcl ||| s.guardLbl ||| lv l))) ∧
        (∀ r l, l < 32 → ¬(l ∈ s.lanes ∧ r = vd.toNat) → t.vlane r l = s.vlane r l) ∧
        t.warp.sregs = s.warp.sregs ∧ t.warp.flags = s.warp.flags ∧
        SameMemory s t ∧ t.split.pc = s.nextPc p ∧ t.split.st = s.split.st ∧ spent t ∧ t.ctxs = s.ctxs) ∧
      (s.Ready iv → s.lanes = [] → Completes iv s fun t => GoesOnly (s.mark true false false) t (s.nextPc p)) ∧
      (∀ x : Instr, (x = i ∨ x = iv ∧ s.lanes ≠ []) → s.Ready x → o ≠ 0 →
        (Label.dom s.owners o = false ∨ atOnce ∧ ¬live → exec x s =
          .next ((s.mark true false false).takeTrap .lblDcls (wordOf x) (s.readLabel x) s.split.pc p)) ∧
        (Label.dom s.owners o = true → ¬atOnce → Completes x s fun t =>
          t.tack = s.tack ∧ t.split.pc = s.split.pc ∧ SameMemory s t ∧
          t.warp = { s.warp with splits := t.warp.splits } ∧ ∃ vals, t.split.st = .swait (.dcls o
            (if x = i then d.toNat else vd.toNat) (decide (x ≠ i)) vals (wordOf x)) ∧
          (x = i → vals = [(0, s.sreg a, low (s.pcl ||| s.slbl a))]) ∧
          (x ≠ i → vals = s.lanes.map fun l => (l, (s.vlane va.toNat l).val.setWidth 64,
            low (s.pcl ||| s.guardLbl ||| lv l)))))) ∧
  (∀ (s : State) (w sp : Nat) (rest : List Turn) (o : Label) (d : Nat) (vals : List (Nat × Word × Label)) (x : Word),
      let u : State := { s with agenda := rest, cur := w, curSplit := sp }
      s.agenda = .reply w sp :: rest → s.boot = .running → (s.warpAt w).st = .run →
      u.split.st = .swait (.dcls o d false vals x) → (s.warpAt w).liveSplits.length = 1 →
      (∀ e ∈ s.warps.entries, ∀ y ∈ e.2.liveSplits, ∀ f n k, y.2.st ≠ .swait (.kzero f n k)) →
      (∀ r, u.spend o x = .ok r → ∃ t, step s = .next t ∧ t.tack = r.tack ∧
        (∀ v, vals = [v] → d < 64 → d ≠ 0 → ({ t with cur := w } : State).sreg (BitVec.ofNat 6 d) = v.2.1) ∧
        ((t.warpAt w).split sp).st = .ready ∧
        ((t.warpAt w).split sp).pc = u.split.pc + (if u.split.wmask.isSome then 8 else 4)) ∧
      (∀ e, u.spend o x = .error e → ∃ t, step s = .next t ∧ t.tack = s.tack ∧
        (u.split.eh = false → u.ctx.handler ≠ 0 → ((t.warpAt w).split sp).eh = true ∧
          ((t.warpAt w).split sp).ecause = BitVec.ofNat 8 Cause.lblDcls.code ∧
          ((t.warpAt w).split sp).epc = u.split.pc ∧ ((t.warpAt w).split sp).einfo = x))) ∧
  (∀ (s t : State) (o : Label) (w : Word), s.block.audit = false → s.spend o w = .ok t →
      t = { s with tack := { s.tack with grants := t.tack.grants } } ∧
      t.tack.grants.length = s.tack.grants.length ∧
      (∀ (i : Nat) (x y : Grant), s.tack.grants[i]? = some x → t.tack.grants[i]? = some y →
        y = x ∨ (y = { x with budget := x.budget - 1 } ∧ x.budget ≠ 0 ∧ x.ctx = s.warp.ctx ∧ x.slot < 16 ∧
          o.getLsbD x.slot = true ∧ x.meas = s.launch.meas ∧ s.cycle < x.expiry)) ∧
      (s.tack.grants.foldl (fun n x => n + x.budget.toNat) 0) =
        (t.tack.grants.foldl (fun n x => n + x.budget.toNat) 0) + labelSize o)

/-! ## Control -/

/-- 04 R75, R77, R78, 02 R24: branches, calls and jumps. A uniform branch raises by the label of its condition whether
or not it is taken. -/
def Obligations.BranchesCallsAndJumpsSetThePc : Prop :=
  ∀ (s : State) (p : Bool) (c a : Sys2Proof.SNum) (o : BitVec 17),
    let target := s.split.pc + 4 * o.signExtend 57
    let v := s.sreg a
    let legal : Prop := v.toNat % 4 = 0 ∧ v.toNat < 2 ^ 57
    (s.Ready (.braZ p c o) → StackRoom s (s.slbl c) 0 → Completes (.braZ p c o) s fun t =>
      Branches s t (s.slbl c) (if s.sreg c = 0 then target else s.nextPc p) s.split.mode) ∧
    (s.Ready (.braNz p c o) → StackRoom s (s.slbl c) 0 → Completes (.braNz p c o) s fun t =>
      Branches s t (s.slbl c) (if s.sreg c ≠ 0 then target else s.nextPc p) s.split.mode) ∧
    (s.Ready (.call p c o) → Completes (.call p c o) s fun t =>
      WritesScalar s t target c (s.split.pc.setWidth 64 + (if p then 8 else 4)) s.pcl none) ∧
    (s.Ready (.jmpi p a) → legal → StackRoom s (s.slbl a) 0 → Completes (.jmpi p a) s fun t =>
      Branches s t (s.slbl a) (v.setWidth 57) s.split.mode) ∧
    (s.Ready (.ret p a) → legal → StackRoom s (s.slbl a) 0 → Completes (.ret p a) s fun t =>
      Branches s t (s.slbl a) (v.setWidth 57) s.split.mode) ∧
    (∀ i : Instr, i = .jmpi p a ∨ i = .ret p a → s.Ready i →
      (v.toNat % 4 ≠ 0 → exec i s = .next (s.takeTrap .align v (s.slbl a) s.split.pc p true)) ∧
      (v.toNat % 4 = 0 → 2 ^ 57 ≤ v.toNat → exec i s = .next (s.takeTrap .prot v (s.slbl a) s.split.pc p true)))

/-- 04 R76, 05 R98: `brd`. A mask that does not divide EXEC branches; one that does pushes a divergence entry and makes a
second split where a slot of the four is free, else a serial entry. -/
def Obligations.BrdDividesTheSplit : Prop :=
  ∀ (s : State) (p : Bool) (c : Sys2Proof.SNum) (o : BitVec 17), s.Ready (.brd p c o) →
    let taken := s.split.exec &&& (s.sreg c).setWidth 32
    let falls := s.split.exec &&& ~~~((s.sreg c).setWidth 32)
    let target := s.split.pc + 4 * o.signExtend 57
    let l := s.slbl c
    (taken = 0 ∨ falls = 0 → StackRoom s l 0 → Completes (.brd p c o) s fun t =>
      Branches s t l (if falls = 0 then target else s.nextPc p) s.split.mode) ∧
    (taken ≠ 0 → falls ≠ 0 → s.split.st ≠ .gone → StackRoom s l 1 → Completes (.brd p c o) s fun t =>
      OnlyWarp s t ∧ KeepsEntries s t ∧ RaisesPcl s t l ∧
      t.split = { s.split with
        pc := target, exec := taken, pcl := t.split.pcl, safe := t.split.safe, last := s.cycle, declined := [],
        heldOn := [] } ∧
      (∀ i < 4, (s.warp.split i).st = .gone → (∀ j < i, (s.warp.split j).st ≠ .gone) →
        t.warp.split i = { t.split with exec := falls, pc := s.nextPc p } ∧
        (∀ j, j ≠ i → j ≠ s.curSplit → t.warp.split j = s.warp.split j) ∧
        t.warp.entries =
          .diverge s.split.exec s.split.mode t.split.pcl none none :: raisedEntries s l) ∧
      ((∀ i < 4, (s.warp.split i).st ≠ .gone) →
        (∀ j, j ≠ s.curSplit → t.warp.split j = s.warp.split j) ∧
        t.warp.entries =
          .serial s.split.exec falls (s.nextPc p) s.split.mode t.split.pcl none none false :: raisedEntries s l))

/-- 04 R79, 05 R100, R103: `join` by the innermost entry that covers the split's lanes, which is in the core or refilled. The
last split to arrive at a divergence merges with those that wait for it: the one that holds the lowest lane goes on. A
refill that faults leaves the split in SWAIT and parks the warp; one that is refused halts it with PROT. -/
def Obligations.JoinEndsTheInnermostEntry : Prop :=
  ∀ (s : State) (p : Bool), s.Ready (.join p) →
    (∀ e pick left, s.warp.top s.split.exec = some e → e ∉ s.warp.stack → s.split.declined = [] →
      s.choices = pick :: left →
      (pick % 5 = 1 → Completes (.join p) s fun t =>
        t.split = { s.split with st := .swait .refill } ∧ t.warp.st = .park ∧ t.warp.entries = s.warp.entries ∧
        SameMemory s t ∧ ∃ f ∈ t.faults, f.kind = 0 ∧ f.ctx = s.warp.ctx ∧ f.who = .warp s.cur s.warp.uid s.curSplit) ∧
      (pick % 5 = 2 → exec (.join p) s =
        .next ((({ s with choices := left } : State).refuse 9 0).haltWarp s.cur s.split.pc .prot 0 0))) ∧
    (s.warp.spill = [] ∨ AreaReads s →
    (s.warp.top s.split.exec = none → Completes (.join p) s fun t => GoesOnly s t (s.nextPc p)) ∧
    (∀ m mode pcl, s.warp.top s.split.exec = some (.raise m mode pcl) → Completes (.join p) s fun t =>
      OnlyWarp s t ∧ t.split.pc = s.nextPc p ∧ t.split.mode = mode ∧ t.split.pcl = pcl ∧
      t.split.exec = s.split.exec ∧ t.warp.entries = s.warp.entries.erase (.raise m mode pcl)) ∧
    (∀ m mode pcl rpc rm l, s.warp.top s.split.exec = some (.diverge m mode pcl rpc rm) →
      m.getLsbD l = true → s.split.exec.getLsbD l = false →
      (∀ e ∈ s.warp.splits.entries, e.2.st = .jwait → e.2.exec.getLsbD l = false) → Completes (.join p) s fun t =>
      OnlyWarp s t ∧ t.split.st = .jwait ∧ t.split.pc = s.split.pc ∧ t.split.exec = s.split.exec ∧
      ∃ rm', t.warp.entries = s.warp.entries.replace (.diverge m mode pcl rpc rm)
        (.diverge m mode pcl (some (rpc.getD s.split.pc)) rm')) ∧
    (∀ m mode pcl rpc rm (js : List (Nat × Split)) (low j : Nat) (x : Split),
      let e := Entry.diverge m mode pcl (some rpc) rm
      s.warp.top s.split.exec = some e → s.warp.splits.wf Split.blank = true → s.split.st = .ready →
      js = (s.warp.splits.entries.filter fun y => y.1 ≠ s.curSplit && y.2.st == .jwait && s.warp.top y.2.exec == some e) →
      (∀ l, m.getLsbD l = true → s.split.exec.getLsbD l = true ∨ ∃ y ∈ js, y.2.exec.getLsbD l = true) →
      m.getLsbD low = true → (∀ l < low, m.getLsbD l = false) →
      (j, x) ∈ (s.curSplit, s.split) :: js → x.exec.getLsbD low = true →
      (∀ y ∈ (s.curSplit, s.split) :: js, y.1 ≠ j → y.2.exec.getLsbD low = false) → Completes (.join p) s fun t =>
      OnlyWarp s t ∧
      t.warp.split j = { x with
        st := .ready, exec := m, mode := mode, pcl := pcl, pc := rpc + (if rm.isSome then 8 else 4),
        safe := (t.warp.split j).safe, wmask := none, wlbl := 0, last := s.cycle,
        declined := if j = s.curSplit then [] else x.declined } ∧
      (∀ y ∈ (s.curSplit, s.split) :: js, y.1 ≠ j → t.warp.split y.1 = Split.blank) ∧
      (∀ i, (∀ y ∈ (s.curSplit, s.split) :: js, i ≠ y.1) → t.warp.split i = s.warp.split i) ∧
      t.warp.entries = s.warp.entries.erase e ∧
      t.warp = { s.warp with stack := t.warp.stack, spill := t.warp.spill, splits := t.warp.splits }) ∧
    (∀ m mode pcl rm, s.warp.top s.split.exec = some (.diverge m mode pcl none rm) → m &&& ~~~s.split.exec = 0 → m ≠ 0 →
      (∀ e ∈ s.warp.splits.entries, e.1 ≠ s.curSplit → e.2.st ≠ .jwait) → Completes (.join p) s fun t =>
      OnlyWarp s t ∧ t.split.st = .ready ∧ t.split.exec = m ∧ t.split.mode = mode ∧ t.split.pcl = pcl ∧
      t.split.pc = s.nextPc p ∧ t.warp.entries = s.warp.entries.erase (.diverge m mode pcl none rm)) ∧
    (∀ m pend pendPc mode pcl rpc rm, s.warp.top s.split.exec = some (.serial m pend pendPc mode pcl rpc rm false) →
      pend &&& m ≠ 0 → Completes (.join p) s fun t =>
      OnlyWarp s t ∧ t.split.pc = pendPc ∧ t.split.exec = pend &&& m ∧ t.split.mode = mode ∧ t.split.pcl = pcl ∧
      ∃ rm', t.warp.entries = s.warp.entries.replace (.serial m pend pendPc mode pcl rpc rm false)
        (.serial m pend pendPc mode pcl (some s.split.pc) rm' true)) ∧
    (∀ m pend pendPc mode pcl rpc rm, s.warp.top s.split.exec = some (.serial m pend pendPc mode pcl (some rpc) rm true) →
      Completes (.join p) s fun t =>
      OnlyWarp s t ∧ t.split.pc = rpc + (if rm.isSome then 8 else 4) ∧ t.split.exec = m ∧ t.split.mode = mode ∧
      t.split.pcl = pcl ∧
      t.warp.entries = s.warp.entries.erase (.serial m pend pendPc mode pcl (some rpc) rm true)) ∧
    (∀ m pend pendPc mode pcl rpc rm, s.warp.top s.split.exec = some (.serial m pend pendPc mode pcl rpc rm false) →
      pend &&& m = 0 → Completes (.join p) s fun t =>
      OnlyWarp s t ∧ t.split.pc = s.nextPc p ∧ t.split.exec = m ∧ t.split.mode = mode ∧ t.split.pcl = pcl ∧
      t.warp.entries = s.warp.entries.erase (.serial m pend pendPc mode pcl rpc rm false)))

/-- 04 R80: `nop` and `yield` only go on; 11 R198: `sprf` and `rhint` have no effect on values. 05 R107: after a `yield` the
split does not issue while another that was READY waits for its opportunity, for 16 cycles at most. 05 R104: `exit` ends
its split, takes its lanes out of every entry's mask and drops the entries left with none; with its last split the
warp drains, or halts where a load of it met poison (16 R267). -/
def Obligations.HintsAdvanceAndExitEndsTheSplit : Prop :=
  (∀ (s : State) (p : Bool) (a b : Sys2Proof.SNum) (l : Level) (h : HintA),
      (s.Ready (.nop p) → Completes (.nop p) s fun t => GoesOnly s t (s.nextPc p)) ∧
      (s.Ready (.yield p) → Completes (.yield p) s fun t =>
        GoesOnly s (t.setSplit { t.split with yielded := s.split.yielded }) (s.nextPc p) ∧
        (∀ k i, (k, i) ∈ t.split.yielded ↔ (k, i) ≠ (s.cur, s.curSplit) ∧ k / 8 = s.cur / 8 ∧
          ∃ w x, (k, w) ∈ s.warps.entries ∧ w.st = .run ∧ (i, x) ∈ w.liveSplits ∧ x.st = .ready) ∧
        ((∃ e ∈ t.split.yielded, t.readyAt e.1 e.2 = true) → t.issueCycle s.cur < s.cycle + 16 →
          canIssue t s.cur s.curSplit = false)) ∧
      (s.Ready (.sprf p a b l) → Completes (.sprf p a b l) s fun t => GoesOnly s t (s.nextPc p)) ∧
      (s.Ready (.rhint p a b h) → Completes (.rhint p a b h) s fun t => GoesOnly s t (s.nextPc p))) ∧
  (∀ s : State, s.Ready .exit → s.warp.spill = [] ∨ AreaReads s → Completes .exit s fun t =>
      t.warp.split s.curSplit = Split.blank ∧ t.cur = s.cur ∧
      (∀ e ∈ t.warp.entries, e.mask &&& s.split.exec = 0 ∧ e.mask ≠ 0) ∧
      ((∀ i, i ≠ s.curSplit → (s.warp.split i).st = .gone) → s.warp.splits.wf Split.blank = true →
        t.warp.st = if ∀ x ∈ s.warp.loads, x.poison = none then .drain else .halt) ∧
      (∀ k < 2 ^ 48, t.byteAt k = s.byteAt k))

/-- 04 R82, R83: every special register is read under its label, its clear effect follows, a trap register read with
PRIV = 0 traps PRIV, EPC cleared outside handler state traps ILL; and the fields of the work identifier. -/
def Obligations.SpecialRegistersReadAndClear : Prop :=
  (∀ (s : State) (p : Bool) (d : Sys2Proof.SNum),
      let x := s.split
      let reads (n : BitVec 12) (v : Word) (l : Label) : Prop :=
        s.Ready (.sread p d n) → (x.priv = true ∨ n.toNat < 0x010) → Completes (.sread p d n) s fun t =>
          WritesScalar s t (s.nextPc p) d v l none
      reads 0x000#12 (capsOf s.part) s.pcl ∧
      reads 0x001#12 (s.warp.flags.setWidth 64) (s.label s.warp.flbl ||| s.pcl) ∧
      reads 0x002#12 (s.warp.coarsen.setWidth 64) s.owners ∧
      reads 0x003#12 (x.mode.setWidth 64) s.pcl ∧
      reads 0x004#12 (s.pcl.setWidth 64) s.pcl ∧
      reads 0x005#12 (x.exec.setWidth 64) s.pcl ∧
      reads 0x006#12 (BitVec.ofNat 64 (s.cycle - (s.coreAt (s.cur / 32)).resetAt)) s.pcl ∧
      reads 0x007#12 (s.owners.setWidth 64) s.pcl ∧
      reads 0x008#12 (BitVec.ofNat 64 s.warp.lseq) s.pcl ∧
      reads 0x009#12 (BitVec.ofNat 64 s.block.vcore) s.pcl ∧
      reads 0x00A#12 (BitVec.ofNat 64 (s.cur % 32)) s.pcl ∧
      reads 0x010#12 (x.epc.setWidth 64) s.pcl ∧
      reads 0x011#12 (x.ecause.setWidth 64) s.pcl ∧
      reads 0x012#12 x.einfo (s.label x.elbl ||| s.pcl) ∧
      reads 0x013#12 (x.emode.setWidth 64) s.pcl ∧
      reads 0x014#12 ((s.label x.elbl).setWidth 64) s.pcl ∧
      reads 0x015#12 (BitVec.ofNat 64 ((if x.epriv then 1 else 0) + (if x.eh then 2 else 0))) s.pcl ∧
      ∀ n : BitVec 12, 0x010 ≤ n.toNat → n.toNat ≤ 0x015 → x.priv = false → s.Ready (.sread p d n) →
        exec (.sread p d n) s = .next (s.takeTrap .priv (wordOf (.sread p d n)) 0#16 x.pc p)) ∧
  (∀ (s : State) (p : Bool) (d : Sys2Proof.SNum),
      let x := s.split
      let i (n : BitVec 12) : Instr := .sreadClr p d n
      (s.Ready (i 0x001#12) → Completes (i 0x001#12) s fun t =>
        WritesScalar s (t.setWarp { t.warp with flags := s.warp.flags, flbl := s.warp.flbl }) (s.nextPc p) d
          (s.warp.flags.setWidth 64) (s.label s.warp.flbl ||| s.pcl) none ∧
        t.warp.flags = 0 ∧ t.warp.flbl = 0 ∧ t.warp.coarsen.toNat ≥ s.warp.coarsen.toNat) ∧
      (s.Ready (i 0x002#12) → Completes (i 0x002#12) s fun t =>
        WritesScalar s t (s.nextPc p) d (s.warp.coarsen.setWidth 64) s.owners none ∧ (d ≠ 0 → t.slbl d = s.owners) ∧
        t.warp.coarsen = 0) ∧
      (s.Ready (i 0x010#12) → x.priv = true → x.eh = true → x.ecause.toNat ≠ Cause.trapi.code →
        Completes (i 0x010#12) s fun t =>
          WritesScalar s (t.setSplit { t.split with epc := x.epc }) (s.nextPc p) d (x.epc.setWidth 64) s.pcl none ∧
          t.split.epc = x.epc + (if x.elen8 then 8 else 4)) ∧
      (s.Ready (i 0x010#12) → x.priv = true → (x.eh = false ∨ x.ecause.toNat = Cause.trapi.code) →
        exec (i 0x010#12) s = .next (s.takeTrap .ill (wordOf (i 0x010#12)) 0#16 x.pc p))) ∧
  (∀ (s : State) (p : Bool) (d : Sys2Proof.SNum) (v : Sys2Proof.VNum) (n : Imm16),
      let f : Word := s.warp.wid.getD (n.toNat - 1) 0
      Puts (.swid p d n) s p d f s.pcl ∧
      PutsLanes (.vwid p v n) s p v (fun l => if n = 0 then l else f.toNat) (fun _ => s.pcl ||| s.guardLbl))

/-! ## Traps -/

/-- 02 R28: a trap taken outside handler state, in a context with a handler, enters it. 04 R81: `trap` completes and
then enters the handler, with EPC at the next instruction and EINFO its word. -/
def Obligations.TrapEntersTheHandler : Prop :=
  (∀ (s : State) (c : Cause) (einfo : Word) (ops : Label) (epc : BitVec 57) (len8 page : Bool),
      s.split.eh = false → s.ctx.handler ≠ 0 →
        EntersHandler s (s.takeTrap c einfo ops epc len8 page) c einfo ops epc) ∧
  (∀ (s : State) (p : Bool) (n : Imm16), s.Ready (.trap p n) → s.split.eh = false → s.ctx.handler ≠ 0 →
      Completes (.trap p n) s fun t =>
        EntersHandler s t .trapi (wordOf (.trap p n)) 0#16 (s.nextPc p) ∧ fieldOf t.split.einfo 0 16 = n.toNat)

/-- 02 R30, 16 R279: a trap in handler state, or without a handler, halts the warp: none of its splits is left, and outside
an audit run an error record is the context's newest, every field of which is the rule's. It holds no address of a protected
context, and names the page concerned by its mapping. -/
def Obligations.TrapInHandlerStateHaltsTheWarp : Prop :=
  ∀ (s : State) (c : Cause) (einfo : Word) (ops : Label) (epc : BitVec 57) (len8 page : Bool),
    (s.split.eh = true ∨ s.ctx.handler = 0) →
      let t := s.takeTrap c einfo ops epc len8 page
      (t.warpAt s.cur).st = .halt ∧ (∀ i, ((t.warpAt s.cur).split i).st = .gone) ∧
      (s.block.audit = false →
        (t.ctxAt s.warp.ctx).nfault = sat16 s.ctx.nfault ∧
        ∃ r, (t.ctxAt s.warp.ctx).records.getLast? = some r ∧ fieldOf r 1 8 = c.code ∧
          fieldOf r 9 8 = (if s.split.eh then s.split.ecause.toNat else 0) ∧
          fieldOf r 0 1 = (if s.ctx.isProt then 1 else 0) ∧
          let m := if page then s.ctx.mapOf einfo.toNat else (0, 0)
          (s.warp.ctx < 256 → s.block.vcore < 1024 → m.1 < 2 ^ 16 →
            fieldOf r 17 8 = s.warp.ctx ∧ fieldOf r 25 5 = s.cur % 32 ∧ fieldOf r 30 10 = s.block.vcore ∧
            fieldOf r 40 32 = s.warp.lseq % 2 ^ 32 ∧
            BitVec.ofNat 32 (fieldOf r 72 32) = epc.setWidth 32 - BitVec.ofNat 32 s.launch.entry ∧
            fieldOf r 104 24 = m.2 % 2 ^ 24 ∧ fieldOf r 128 16 = m.1 ∧ fieldOf r 144 16 = s.ctx.nreplay.toNat ∧
            fieldOf r 160 16 = s.ctx.nrefuse.toNat ∧ fieldOf r 176 16 = (sat16 s.ctx.nfault).toNat ∧
            fieldOf r 192 64 = (if s.ctx.isProt then 0 else einfo.toNat)))

/-- 02 R29: `eret` restores what the trap saved. With PRIV = 0 it traps PRIV, and outside handler state ILL (20 R346). -/
def Obligations.EretRestoresWhatTheTrapSaved : Prop :=
  ∀ s : State,
    (s.Ready .eret → s.split.eh = true → Completes .eret s fun t =>
      OnlyWarp s t ∧ t.split.pc = s.split.epc ∧ t.split.mode = s.split.emode ∧ t.split.pcl = s.split.elbl ∧
      t.split.priv = s.split.epriv ∧ t.split.eh = false ∧ t.split.exec = s.split.exec ∧
      (∀ i, i ≠ s.curSplit → t.warp.split i = s.warp.split i) ∧
      t.warp = { s.warp with splits := t.warp.splits }) ∧
    (s.Ready .eret → s.split.eh = false →
      exec .eret s = .next (s.takeTrap .ill (wordOf .eret) 0#16 s.split.pc false)) ∧
    (s.operandsOk .eret = true → s.split.priv = false →
      exec .eret s = .next (s.takeTrap .priv (wordOf .eret) 0#16 s.split.pc false))

/-- 03 R62 steps 3 to 5, 05 R113, 16 R273: what the checks at issue do, for every instruction word, in order: ILL where
the operands lie outside the allocation or do not suit MODE.TYPE, the live-mask word's own check, PRIV without the
privilege, nothing yet where a register waits for a load, and a halt where it reads poison. -/
def Obligations.ChecksAtIssueStandBeforeEveryWord : Prop :=
  ∀ (i : Instr) (s : State), i.isWord = true →
    (s.operandsOk i = false → exec i s = .next (s.takeTrap .ill (wordOf i) 0#16 s.split.pc i.sp)) ∧
    (s.operandsOk i = true → ∀ t, s.maskCheck i = some t → exec i s = .next t) ∧
    (s.operandsOk i = true → s.maskCheck i = none → s.privOk i = false →
      exec i s = .next (s.takeTrap .priv (wordOf i) 0#16 s.split.pc i.sp)) ∧
    (s.operandsOk i = true → s.maskCheck i = none → s.privOk i = true → s.scoreboarded i = true →
      exec i s = .next s) ∧
    (s.operandsOk i = true → s.maskCheck i = none → s.privOk i = true → s.scoreboarded i = false →
      s.readsPoison i = true → exec i s = .next (s.haltWarp s.cur s.split.pc .poison 0 0))

/-! ## Barriers and spawned threads -/

/-- 05 R105, R106: at `bar` and `barg` the split waits while a live warp of the block, or of the gang, has a live split that
has not reached the barrier. With the arrival of the last, every split that waits there goes on: its S[d] is 0, under the join
of the pc labels of all of them, and its PC the next word. In an abandoned block, or a gang with one, they go on at once with
status 1. -/
def Obligations.BarriersWaitForEveryLiveWarp : Prop :=
  ∀ (s : State) (p : Bool) (d : Sys2Proof.SNum) (n : BitVec 4),
    let b := s.warp.block
    let blocks := (s.gangAt s.block.gang).blocks
    let abandoned (gang : Bool) : Prop :=
      if gang then ∃ c ∈ blocks, (s.blockAt c).abandoned = true else s.block.abandoned = true
    let ws (gang : Bool) : List (Nat × Warp) := if gang then s.gangWarps s.block.gang else s.warpsOf b
    let i (gang : Bool) : Instr := if gang then .barg p d n else .bar p d n
    let wait (gang : Bool) (d : Sys2Proof.SNum) : Wait := if gang then .barg d n.toNat else .bar d n.toNat
    let there (gang : Bool) (k j : Nat) (x : Split) (d' : Sys2Proof.SNum) : Prop :=
      ((k, j) = (s.cur, s.curSplit) ∧ x = s.split ∧ d' = d) ∨
        (k, j) ≠ (s.cur, s.curSplit) ∧ (∃ w, (k, w) ∈ ws gang ∧ (j, x) ∈ w.liveSplits) ∧ x.st = .swait (wait gang d')
    let pcLbl (k : Nat) (x : Split) : Label := (s.warpAt k).label (s.ctxAt (s.warpAt k).ctx).owners x.pcl
    let sound : Prop := s.warps.wf Warp.blank = true ∧ (∀ e ∈ s.warps.entries, e.2.splits.wf Split.blank = true) ∧
      blocks.Nodup ∧ b ∈ blocks ∧ s.warp.live = true ∧ s.split.st = .ready
    let next (k j : Nat) (x : Split) : BitVec 57 :=
      x.pc + (if (if (k, j) = (s.cur, s.curSplit) then p else x.wmask.isSome) then 8 else 4)
    ∀ gang : Bool, s.Ready (i gang) →
      (¬abandoned gang → sound →
        (∃ e ∈ ws gang, ∃ x ∈ e.2.liveSplits, (e.1, x.1) ≠ (s.cur, s.curSplit) ∧ x.2.atBar gang n.toNat = false) →
        Completes (i gang) s fun t =>
          t.split.st = .swait (wait gang d) ∧ t.split.pc = s.split.pc ∧ SameMemory s t) ∧
      (¬abandoned gang → sound →
        (∀ e ∈ ws gang, ∀ x ∈ e.2.liveSplits, (e.1, x.1) = (s.cur, s.curSplit) ∨ x.2.atBar gang n.toNat = true) →
        Completes (i gang) s fun t => SameMemory s t ∧
          ∀ k j x d', there gang k j x d' →
            ((t.warpAt k).split j).st = .ready ∧ ((t.warpAt k).split j).pc = next k j x ∧
            (d' ≠ 0 → ({ t with cur := k } : State).sreg d' = 0 ∧
              ∀ k' j' x' d'', there gang k' j' x' d'' →
                Label.dom (s.ctxAt (s.warpAt k).ctx).owners (pcLbl k' x') = true →
                (∀ k'' j'' x'' e, there gang k'' j'' x'' e →
                  Label.dom (s.ctxAt (s.warpAt k).ctx).owners (pcLbl k'' x'') = true) →
                Label.dom (({ t with cur := k } : State).slbl d') (pcLbl k' x') = true)) ∧
      (abandoned gang → sound → Completes (i gang) s fun t => SameMemory s t ∧
          ∀ k j x d', there gang k j x d' →
            ((t.warpAt k).split j).st = .ready ∧ ((t.warpAt k).split j).pc = next k j x ∧
            (d' ≠ 0 → ({ t with cur := k } : State).sreg d' = 1))

/-! ## Vector arithmetic -/

/-- 07 R135: the integer vector arithmetic, lane by lane at the width of MODE.TYPE, saturating where SAT = 1. 07 R119:
the lane form of a narrow integer element is its sign or zero extension to 32 bits. -/
def Obligations.VectorIntegerArithmetic : Prop :=
  (∀ (t : ETy) (n : Nat),
      laneForm t n % 2 ^ t.width = n % 2 ^ t.width ∧
      (t.int = true → t.width < 32 → (BitVec.ofNat 32 (laneForm t n)).toInt = valOf t t.width n) ∧
      (t.float = true → laneForm t n = n % 2 ^ t.width)) ∧
  (∀ (s : State) (p : Bool) (d a b : Sys2Proof.VNum), s.ty.int = true →
      let t := s.ty
      let w := t.width
      let x (l : Nat) : Int := valOf t w (s.elem t a l)
      let y (l : Nat) : Int := valOf t w (s.elem t b l)
      let z (l : Nat) : Int := valOf t w (s.elem t d l)
      let la (l : Nat) := s.elemLbl t a l
      let lab (l : Nat) := s.elemLbl t a l ||| s.elemLbl t b l
      let sat (e : Int) := deliverInt t w s.sat true e
      let low (e : Int) : Nat × BitVec 32 := ((e % (2 : Int) ^ w).toNat, 0#32)
      Gives (.vadd p d a b) s p t d true (fun l => sat (x l + y l)) lab ∧
      Gives (.vsub p d a b) s p t d true (fun l => sat (x l - y l)) lab ∧
      Gives (.vmul p d a b) s p t d true (fun l => sat (x l * y l)) lab ∧
      Gives (.vmulh p d a b) s p t d false (fun l => low (x l * y l / (2 : Int) ^ w)) lab ∧
      Gives (.vmad p d a b) s p t d true (fun l => sat (z l + x l * y l))
        (fun l => lab l ||| s.elemLbl t d l) ∧
      Gives (.vmin p d a b) s p t d false (fun l => low (min (x l) (y l))) lab ∧
      Gives (.vmax p d a b) s p t d false (fun l => low (max (x l) (y l))) lab ∧
      Gives (.vabs p d a) s p t d true (fun l => sat |x l|) la ∧
      Gives (.vneg p d a) s p t d true (fun l => sat (-x l)) la ∧
      Gives (.vdiv p d a b) s p t d true (fun l =>
        let e : Int := if y l = 0 then (if t.unsigned then (2 : Int) ^ w - 1 else -1) else (x l).tdiv (y l)
        ((sat e).1, (sat e).2 ||| if y l = 0 then fIDIVZ else 0#32)) lab)

/-- 06 R120 to R123, R131, 07 R136, R137: the floating vector arithmetic. Each lane gets the exact sum, difference,
product, fused product, quotient or root of its data rounded once by MODE.RND, with the NaNs, infinities, signs of zero and
flags of those rules; `vmin` and `vmax` choose among the patterns, `vabs` and `vneg` change the sign bit. -/
def Obligations.VectorFloatArithmetic : Prop :=
  (∀ (s : State) (p : Bool) (d a b : Sys2Proof.VNum), s.ty.float = true →
    let t := s.ty
    let f := Fmt.of t
    let x := s.elem t a
    let y := s.elem t b
    let flip (n : Nat) : Nat := if n < 2 ^ (t.width - 1) then n + 2 ^ (t.width - 1) else n - 2 ^ (t.width - 1)
    let la := s.elemLbl t a
    let lab (l : Nat) := s.elemLbl t a l ||| s.elemLbl t b l
    Gives (.vadd p d a b) s p t d true (fun l => addF f s.rnd (x l) (y l)) lab ∧
    Gives (.vsub p d a b) s p t d true (fun l => subF f s.rnd (x l) (y l)) lab ∧
    Gives (.vmul p d a b) s p t d true (fun l => mulF f s.rnd (x l) (y l)) lab ∧
    Gives (.vfma p d a b) s p t d true (fun l => fmaF f s.rnd (x l) (y l) (s.elem t d l))
      (fun l => lab l ||| s.elemLbl t d l) ∧
    Gives (.vmin p d a b) s p t d true (fun l => extremeF f true [x l, y l]) lab ∧
    Gives (.vmax p d a b) s p t d true (fun l => extremeF f false [x l, y l]) lab ∧
    Gives (.vabs p d a) s p t d false (fun l => (x l % 2 ^ (t.width - 1), 0#32)) la ∧
    Gives (.vneg p d a) s p t d false (fun l => (flip (x l), 0#32)) la ∧
    Gives (.vdiv p d a b) s p t d true (fun l => divF f s.rnd (x l) (y l)) lab ∧
    Gives (.vsqrt p d a) s p t d true (fun l => sqrtF f s.rnd (x l)) la) ∧
  (Fmt.of .f16 = ⟨10, 5⟩ ∧ Fmt.of .bf16 = ⟨7, 8⟩ ∧ Fmt.of .f32 = ⟨23, 8⟩ ∧ Fmt.of .f64 = ⟨52, 11⟩) ∧
  (∀ (t : ETy) (rnd x y z : Nat), t.float = true → rnd ≤ 4 → x < 2 ^ t.width → y < 2 ^ t.width → z < 2 ^ t.width →
    let f := Fmt.of t
    let dx := decodeF f x
    let dy := decodeF f y
    let minus := decodeF f (if y < 2 ^ (t.width - 1) then y + 2 ^ (t.width - 1) else y - 2 ^ (t.width - 1))
    ReadsPattern f x ∧
    IsSum f rnd (zeroSign rnd [dx, dy]) [dx, dy] (addF f rnd x y) ∧
    IsSum f rnd (zeroSign rnd [dx, minus]) [dx, minus] (subF f rnd x y) ∧
    IsProduct f rnd dx dy (mulF f rnd x y) ∧
    IsFused f rnd dx dy (decodeF f z) (fmaF f rnd x y z) ∧
    IsQuotient f rnd dx dy (divF f rnd x y) ∧
    IsRoot f rnd dx (sqrtF f rnd x) ∧
    IsExtreme f true [x, y] (extremeF f true [x, y]) ∧
    IsExtreme f false [x, y] (extremeF f false [x, y]))

/-- 06 R130, R131: the approximating functions complete. Of special inputs, and where the result is exact, each lane gets
the stated result; any other is within the bound of R130 of the true value, whichever value within it the part picks
(log 6). -/
def Obligations.VectorFunctionsComplete : Prop :=
  (∀ (s : State) (p : Bool) (d a : Sys2Proof.VNum), s.ty.float = true →
    let t := s.ty
    let f := Fmt.of t
    let x := s.elem t a
    let la := s.elemLbl t a
    let pick (k : Nat) (l : Nat) : Nat := Config.funcPick k t.code (x l)
    Gives (.vrcp p d a) s p t d true (fun l => rcpF f 1 (x l) (pick 0 l)) la ∧
    Gives (.vrsq p d a) s p t d true (fun l => rsqF f (ulpBound t) (x l) (pick 1 l)) la ∧
    Gives (.vexp2 p d a) s p t d true (fun l => exp2F f (ulpBound t) (x l) (pick 2 l)) la ∧
    Gives (.vlog2 p d a) s p t d true (fun l => log2F f (ulpBound t) (x l) (pick 3 l)) la ∧
    Gives (.vsin p d a) s p t d true (fun l => sinF f (ulpBound t) (x l) (pick 4 l)) la ∧
    Gives (.vcos p d a) s p t d true (fun l => cosF f (ulpBound t) (x l) (pick 5 l)) la) ∧
  (∀ (t : ETy) (x pick : Nat), t.float = true → x < 2 ^ t.width →
    let f := Fmt.of t
    let v := decodeF f x
    let y : ℝ := (numOf v : ℝ)
    let neg := negOf v
    let b := ulpBound t
    let inf (n : Bool) : Nat := f.signed n f.infBits
    let rcp := rcpF f 1 x pick
    let rsq := rsqF f b x pick
    let exp2 := exp2F f b x pick
    let log2 := log2F f b x pick
    let sin := sinF f b x pick
    let cos := cosF f b x pick
    let zero : Prop := finite v = true ∧ y = 0
    let plus : Prop := finite v = true ∧ 0 < y
    let minus : Prop := v = .inf true ∨ (finite v = true ∧ y < 0)
    b = (match t with
      | .f32 | .f64 => 2
      | _ => 1) ∧
    (∀ r ∈ [rcp, rsq, exp2, log2, sin, cos], SomeNan [v] → NanOf f [v] r) ∧
    (zero → rcp = (inf neg, fDZ) ∧ rsq = (inf neg, fDZ) ∧ log2 = (inf true, fDZ) ∧ sin = (f.signed neg 0, 0#32) ∧
      IsExact f 1 cos) ∧
    (∀ n, v = .inf n → rcp = (f.signed n 0, 0#32) ∧ exp2 = (if n then 0 else f.infBits, 0#32) ∧ sin = (f.nan, fINV) ∧
      cos = (f.nan, fINV)) ∧
    (v = .inf false → rsq = (0, 0#32) ∧ log2 = (f.infBits, 0#32)) ∧
    (minus → rsq = (f.nan, fINV) ∧ log2 = (f.nan, fINV)) ∧
    (finite v = true → Approximates f b ((2 : ℝ) ^ y) exp2) ∧
    (finite v = true → y ≠ 0 → Approximates f 1 (1 / y) rcp ∧
      (IsExact f (Real.sin y) sin ∨ WithinUlps f b (Real.sin y) sin) ∧
      (IsExact f (Real.cos y) cos ∨ WithinUlps f b (Real.cos y) cos)) ∧
    (plus → Approximates f b (1 / Real.sqrt y) rsq ∧
      (y = 1 → log2 = (0, 0#32)) ∧ (y ≠ 1 → Approximates f b (Real.logb 2 y) log2)))

/-- 07 R138, R139: bits, shifts, counts and fields, lane by lane on the patterns of MODE.TYPE's width. -/
def Obligations.VectorBitsShiftsAndFields : Prop :=
  ∀ (s : State) (p : Bool) (d a b : Sys2Proof.VNum), s.ty ≠ .q64 →
    let t := s.ty
    let w := t.width
    let x := s.elem t a
    let y := s.elem t b
    let la := s.elemLbl t a
    let lab (l : Nat) := s.elemLbl t a l ||| s.elemLbl t b l
    let lz (l : Nat) := lab l ||| s.elemLbl t d l
    let pos (l : Nat) := fieldOf (s.vlane b.toNat l).val 0 6
    let len (l : Nat) := min (fieldOf (s.vlane b.toNat l).val 8 7) w
    let bare (v : Nat → Nat) (l : Nat) : Nat × BitVec 32 := (v l, 0#32)
    Gives (.vand p d a b) s p t d false (bare fun l => x l &&& y l) lab ∧
    Gives (.vor p d a b) s p t d false (bare fun l => x l ||| y l) lab ∧
    Gives (.vxor p d a b) s p t d false (bare fun l => x l ^^^ y l) lab ∧
    Gives (.vnot p d a) s p t d false (bare fun l => 2 ^ w - 1 - x l) la ∧
    Gives (.vshl p d a b) s p t d false (bare fun l => x l * 2 ^ (y l % w) % 2 ^ w) lab ∧
    Gives (.vshr p d a b) s p t d false (bare fun l => x l / 2 ^ (y l % w)) lab ∧
    Gives (.vsra p d a b) s p t d false
      (bare fun l => (sextNat w (x l) / (2 : Int) ^ (y l % w) % (2 : Int) ^ w).toNat) lab ∧
    (∃ v : Nat → Nat, (∀ l, v l = ((List.range w).filter fun i => (x l).testBit i).length) ∧
      Gives (.vpopc p d a) s p t d false (bare v) la) ∧
    (∃ v : Nat → Nat, (∀ l, v l ≤ w ∧ (∀ i, w - v l ≤ i → i < w → (x l).testBit i = false) ∧
        (v l < w → (x l).testBit (w - 1 - v l) = true)) ∧
      Gives (.vclz p d a) s p t d false (bare v) la) ∧
    (∃ v : Nat → Nat, (∀ l, v l < 2 ^ w ∧ ∀ i < w, (v l).testBit i = (x l).testBit (w - 1 - i)) ∧
      Gives (.vbrev p d a) s p t d false (bare v) la) ∧
    (∃ v : Nat → Nat, (∀ l, v l < 2 ^ w ∧ (∀ i < w, (v l).testBit i =
        if i < len l then (decide (pos l + i < w) && (x l).testBit (pos l + i))
        else (t.int && !t.unsigned && decide (0 < len l) && decide (pos l + len l - 1 < w) &&
          (x l).testBit (pos l + len l - 1)))) ∧
      Gives (.vbfx p d a b) s p t d false (bare v) lab) ∧
    (∃ v : Nat → Nat, (∀ l, v l < 2 ^ w ∧ ∀ i < w, (v l).testBit i =
        if pos l ≤ i ∧ i < pos l + len l then (x l).testBit (i - pos l) else (s.elem t d l).testBit i) ∧
      Gives (.vbfi p d a b) s p t d false (bare v) lz)

/-- 06 R129, 07 R140 to R143: conversion, comparison, selection and moves. A comparison gives the mask of the lanes where
it holds, 0 with no participating lane. -/
def Obligations.VectorConvertCompareAndMove : Prop :=
  (∀ (s : State) (p : Bool) (d a b : Sys2Proof.VNum) (sd sb : Sys2Proof.SNum) (imm : Imm16) (t' : ETy) (c : VCond),
    let t := s.ty
    let x := s.elem t a
    let y := s.elem t b
    let all := s.pcl ||| s.guardLbl ||| joinLabels (s.lanes.map fun l => s.elemLbl t a l ||| s.elemLbl t b l)
    let holds (l : Nat) : Bool :=
      if t.float then (compareF (Fmt.of t) c (x l) (y l)).1
      else compareInt c (valOf t t.width (x l)) (valOf t t.width (y l))
    Gives (.vcvt p d a t') s p t' d true (fun l => convert t t' s.sat s.rnd (x l)) (s.elemLbl t a) ∧
    (s.Ready (.vcmp p sd a b c) → Completes (.vcmp p sd a b c) s fun u =>
      let v := u.sreg sd
      (sd ≠ 0 → ∀ l < 64, v.getLsbD l = (decide (l ∈ s.lanes) && holds l)) ∧
      (t.float = false → WritesScalar s u (s.nextPc p) sd v all none) ∧
      (t.float = true → s.lanes ≠ [] → WritesScalar s u (s.nextPc p) sd v all
        (some (s.lanes.foldl (fun f l => f ||| (compareF (Fmt.of t) c (x l) (y l)).2) 0#32))) ∧
      (t.float = true → s.lanes = [] → WritesNoLane s u (s.nextPc p) sd (s.pcl ||| s.guardLbl))) ∧
    Gives (.vsel p d a sb) s p t d false
      (fun l => (if (s.sreg sb).getLsbD l then x l else s.elem t d l, 0#32))
      (fun l => s.slbl sb ||| s.elemLbl t a l ||| s.elemLbl t d l) ∧
    Gives (.vmov p d a) s p t d false (fun l => (x l, 0#32)) (s.elemLbl t a) ∧
    Gives (.vmovs p d sb) s p t d false (fun _ => ((s.sreg sb).toNat % 2 ^ t.width, 0#32)) (fun _ => s.slbl sb) ∧
    Gives (.vmovi p d imm) s p t d false (fun _ => ((imm.signExtend 64).toNat % 2 ^ t.width, 0#32)) (fun _ => 0#16)) ∧
  (∀ (src dst : ETy) (sat : Bool) (rnd n : Nat), src ≠ .q64 → dst ≠ .q64 → rnd ≤ 4 → n < 2 ^ src.width →
    Converts src dst sat rnd n (convert src dst sat rnd n)) ∧
  (∀ (t : ETy) (c : VCond) (x y : Nat), t.float = true → x < 2 ^ t.width → y < 2 ^ t.width →
    Compares c (decodeF (Fmt.of t) x) (decodeF (Fmt.of t) y) (compareF (Fmt.of t) c x y)) ∧
  (∀ x y : Int, (compareInt .eq x y = true ↔ x = y) ∧ (compareInt .ne x y = true ↔ x ≠ y) ∧
    (compareInt .lt x y = true ↔ x < y) ∧ (compareInt .le x y = true ↔ x ≤ y) ∧
    (compareInt .gt x y = true ↔ y < x) ∧ (compareInt .ge x y = true ↔ y ≤ x))

/-- 07 R145 to R151: the cross-lane instructions. A sum over lanes is exact before it is delivered, minimum and maximum are
those of the contributions, and the bitwise reductions act on each bit; a prefix of no lane gives 0. -/
def Obligations.CrossLaneInstructions : Prop :=
  (∀ (s : State) (p : Bool) (d a b : Sys2Proof.VNum) (sd sb : Sys2Proof.SNum) (m : ShflM) (o : RedOp) (e : Bool),
      let t := s.ty
      let x := s.elem t a
      let lx := s.elemLbl t a
      let source (l n : Nat) : Int := match m with
        | .idx => (n : Int)
        | .xor => ((l ^^^ n : Nat) : Int)
        | .up => (l : Int) - n
        | .down => (l : Int) + n
      let inRange (j : Int) : Prop := 0 ≤ j ∧ j ≤ 31
      let take (j : Int) : Nat × BitVec 32 := (if inRange j then x j.toNat else 0, 0#32)
      let lbl (j : Int) : Label := if inRange j then lx j.toNat else 0#16
      let all := s.pcl ||| s.guardLbl ||| joinLabels (s.lanes.map lx)
      let at_ : Int := if s.sreg sb = BitVec.allOnes 64 then (s.lanes.headD 0 : Nat) else (s.sreg sb).toNat
      let j := (s.sreg sb).toNat % 32
      let field (i : Nat) : Bool := (s.sreg sb).getLsbD (32 + i)
      let before (l : Nat) := List.range (if e then l else l + 1)
      Gives (.vshfl p d a b m) s p t d false (fun l => take (source l (s.elem t b l)))
        (fun l => lbl (source l (s.elem t b l)) ||| s.elemLbl t b l) ∧
      Gives (.vshflS p d a sb m) s p t d false (fun l => take (source l (s.sreg sb).toNat))
        (fun l => lbl (source l (s.sreg sb).toNat) ||| s.slbl sb) ∧
      Gives (.vbcast p d a sb) s p t d false (fun _ => take at_) (fun _ => lbl at_ ||| s.slbl sb) ∧
      (∃ v : Word, (∀ l < 64, v.getLsbD l = (decide (l ∈ s.lanes) && decide (x l ≠ 0))) ∧
        Puts (.vballot p sd a) s p sd v all) ∧
      (s.Ready (.vred p sd a o) → Completes (.vred p sd a o) s fun u =>
        let r := s.reduction a o (List.range 32)
        (s.lanes ≠ [] → WritesScalar s u (s.nextPc p) sd
          (if t.float then BitVec.ofNat 64 r.1 else extTo64 t t.width r.1) all (some r.2)) ∧
        (s.lanes = [] → WritesNoLane s u (s.nextPc p) sd (s.pcl ||| s.guardLbl))) ∧
      Gives (.vscan p d a o e) s p t d true (fun l => s.reduction a o (before l))
        (fun l => joinLabels (((before l).filter fun i => decide (i ∈ s.lanes)).map lx)) ∧
      (∃ v : Nat → Nat, (∀ l, v l < 2 ^ 32 ∧ ∀ i < 32, (v l).testBit i =
          if l &&& j = 0 then
            ((x l).testBit i && field i) || (decide (j ≤ i) && (x (l ^^^ j)).testBit (i - j) && field (i - j))
          else ((x l).testBit i && !field i) || ((x (l ^^^ j)).testBit (i + j) && field i)) ∧
        (t.width = 32 → Gives (.vbxch p d a sb) s p t d false (fun l => (v l, 0#32))
          (fun l => lx l ||| lx (l ^^^ j) ||| s.slbl sb))) ∧
      (∃ v : Nat → Nat, (∀ l i, (v l).testBit i = (decide (i ∈ s.lanes) && decide (x i = x l))) ∧
        Gives (.vmatch p d a) s p t d false (fun l => (v l, 0#32)) (fun _ => joinLabels (s.lanes.map lx)))) ∧
  (∀ (s : State) (a : Sys2Proof.VNum) (o : RedOp) (ls : List Nat), s.ty.int = true ∨ s.ty.float = true → s.rnd ≤ 4 →
      (ls = [] → s.reduction a o ls = (0, 0#32)) ∧
      (ls ≠ [] → Reduces s.ty o s.sat s.rnd (decide (∀ l ∈ ls, l ∈ s.lanes))
        (ls.map fun l => if l ∈ s.lanes then s.elem s.ty a l else 0) (s.reduction a o ls)))

/-- 07 R144, 06 R124: the modular instructions. With a valid modulus every result is reduced; an operand at or above q, or
an invalid modulus, sets QRNG, and an invalid modulus gives 0. Each result has the labels of the modulus and of every
operand of its lane, and FLBL joins them. -/
def Obligations.ModularInstructionsReduce : Prop :=
  ∀ (s : State) (p : Bool) (d a : Sys2Proof.VNum) (sb : Sys2Proof.SNum),
    let q := (s.sreg sb).toNat
    let mu := (s.sreg (sb + 1)).toNat
    let ok : Prop := q % 2 = 1 ∧ 3 ≤ q ∧ q < 2 ^ 62 ∧ mu = 2 ^ (2 * bitLen q) / q
    let pr (r l : Nat) := s.velt true r l
    let c := s.pcl ||| s.guardLbl ||| s.slbl sb ||| s.slbl (sb + 1)
    let gives (i : Instr) (ins : List Nat) (outs : Nat → List Nat) : Prop :=
      let lb (l : Nat) : Label := c ||| joinLabels (ins.map fun r => s.vlbl true r l)
      s.Ready i → (∀ r ∈ ins, r + 1 < 128) → Completes i s fun t =>
        OnlyWarp s t ∧ KeepsEntries s t ∧ t.warp.sregs = s.warp.sregs ∧ GoesTo s t (s.nextPc p) ∧
        (∀ l ∈ s.lanes, ∀ k < (outs l).length,
          (ok → ∃ v, (outs l)[k]? = some v ∧ t.velt true (d.toNat + 2 * k) l = v % q) ∧
          (¬ok → t.velt true (d.toNat + 2 * k) l = 0) ∧
          Stands s t (t.vlane (d.toNat + 2 * k) l).lbl (lb l) ∧ Stands s t (t.vlane (d.toNat + 2 * k + 1) l).lbl (lb l)) ∧
        (InUse s s.warp.flbl → Stands s t t.warp.flbl (s.label s.warp.flbl ||| joinLabels (s.lanes.map lb))) ∧
        (∀ r l, l < 32 → ¬(l ∈ s.lanes ∧ d.toNat ≤ r ∧ r < d.toNat + 2 * (outs l).length) →
          t.vlane r l = s.vlane r l) ∧
        t.warp.flags = s.warp.flags |||
          (if ¬ok ∨ ∃ l ∈ s.lanes, ∃ r ∈ ins, q ≤ pr r l then fQRNG else 0#32) ∧
        t.warp = { s.warp with
          vregs := t.warp.vregs, poisonV := t.warp.poisonV, ltab := t.warp.ltab, coarsen := t.warp.coarsen,
          flags := t.warp.flags, flbl := t.warp.flbl, splits := t.warp.splits }
    let x := pr d.toNat
    let y := pr a.toNat
    let z := pr (d.toNat + 2)
    gives (.vqadd p d a sb) [d.toNat, a.toNat] (fun l => [x l + y l]) ∧
    gives (.vqsub p d a sb) [d.toNat, a.toNat] (fun l => [x l + (q - y l % q)]) ∧
    gives (.vqmul p d a sb) [d.toNat, a.toNat] (fun l => [x l * y l]) ∧
    gives (.vqbfly p d a sb) [d.toNat, d.toNat + 2, a.toNat]
      (fun l => [x l + y l * z l, x l + (q - y l * z l % q)]) ∧
    gives (.vqbflyi p d a sb) [d.toNat, d.toNat + 2, a.toNat]
      (fun l => [x l + z l, (x l + (q - z l % q)) * y l])

/-! ## Memory -/

/-- 11 R191, 09 R165, R171, R172, 16 R268, R269, R283, 19 R329: the checks of one access of `n` bytes, in their order: its
address, a page that the host declined, the tables, the permissions, the owner, the page and the key of the memory, a port
that is being reset, and for a read the label of its granule. -/
def Obligations.AccessChecksFollowTheirOrder : Prop :=
  ∀ (s : State) (k : Acc) (va : Word) (n : Nat),
    let a := va.toNat
    let reads : Prop := k = .load ∨ k = .atomic
    let w := s.translate s.coreNo s.warp.ctx a
    let declined : Bool := s.split.declined.contains (a / 2 ^ 16)
    let allowed (e : BitVec 128) : Prop := (s.split.priv = true ∨ bitOf e 3 = false) ∧
      (match k with
        | .load => bitOf e 4 = true
        | .store => bitOf e 5 = true ∧ bitOf e 10 = false
        | .atomic => bitOf e 4 = true ∧ bitOf e 5 = true ∧ bitOf e 10 = false
        | .fetch => bitOf e 6 = true)
    (a % n ≠ 0 → s.memChk k va n = .trap .align va true) ∧
    (a % n = 0 → 2 ^ 57 ≤ a → s.memChk k va n = .trap .prot va true) ∧
    (a % n = 0 → a < 2 ^ 57 → declined = true → s.memChk k va n = .trap .page va true) ∧
    (a % n = 0 → a < 2 ^ 57 → declined = false →
      (w = .malformed → s.memChk k va n = .trap .page va true) ∧
      (w = .absent → s.memChk k va n = .fault (a / 2 ^ 16) k.kind) ∧
      (∀ e, w = .leaf e →
        let pa := fieldOf e 16 32 * 2 ^ 16 + a % pageBytes (leafSize e)
        let frozen : Prop := s.launch.pure = true → reads → bitOf e 10 = true
        let owned : Prop := s.phys.owners.get .unowned (pa / 2 ^ 16) = .ctx s.warp.ctx
        let whole : Prop := s.phys.retired.get false (pa / 2 ^ 16) = false
        let slot := s.tack.slots.get KeySlot.blank (fieldOf e 88 8)
        let keyed : Prop := if fieldOf e 88 8 = 0 then bitOf e 2 = true
          else slot.used = true ∧ slot.dead = false ∧ slot.kind = 2 ∧ slot.ctx = s.warp.ctx ∧ fieldOf e 88 8 = s.ctx.mslot
        let waits : Prop := ∃ p ∈ s.portsAt pa, (s.phys.cxlWait.get none p).isSome = true
        let cleared : Prop := reads → Label.dom s.owners (s.granLbl pa) = true
        (¬allowed e → s.memChk k va n = .trap .prot va true) ∧
        (allowed e → ¬frozen → s.memChk k va n = .trap .prot va true) ∧
        (allowed e → frozen →
          (¬owned → s.memChk k va n = .refused 0) ∧
          (owned → ¬whole → s.memChk k va n = .refused 1) ∧
          (owned → whole → ¬keyed → s.memChk k va n = .refused 4) ∧
          (owned → whole → keyed → waits → s.memChk k va n = .fault waitPage k.kind) ∧
          (owned → whole → keyed → ¬waits →
            (cleared → s.memChk k va n = .ok pa (BitVec.ofNat 16 (fieldOf e 96 16))) ∧
            (¬cleared → s.memChk k va n = .trap .prot va true)))))

/-- 04 R72, 11 R191: `sld` and `sst`. The loaded value is one that the consistency model allows; the store changes exactly
its bytes; a trap leaves memory as it was, a refused load returns all ones. -/
def Obligations.ScalarLoadsAndStores : Prop :=
  ∀ (s : State) (p : Bool) (d a b : Sys2Proof.SNum) (lw : LdW) (sw : StW),
    let va := s.sreg a + s.sreg b
    let n := (ldWidth lw).1
    let m := stWidth sw
    let ld : Instr := .sld p d a b lw
    let st : Instr := .sst p d a b sw
    let lbl := s.slbl a ||| s.slbl b ||| s.pcl
    let c := s.slbl d ||| lbl
    (∀ k ceil, s.Ready ld → s.memChk .load va n = .ok k ceil → s.heldBy k = [] → s.poisoned k = false →
      Completes ld s fun t => ∃ (bs : List Byte) (v : Word), MayRead s s.execLanes k n bs ∧
        ((ldWidth lw).2 = false → v = BitVec.ofNat 64 (leNat bs)) ∧
        ((ldWidth lw).2 = true → v = BitVec.ofInt 64 (sextNat (8 * n) (leNat bs))) ∧
        LoadsScalar s t (s.nextPc p) d v (s.granLbl k ||| lbl)) ∧
    (∀ why, s.Ready ld → s.memChk .load va n = .refused why → Completes ld s fun t =>
      LoadsScalar s t (s.nextPc p) d (BitVec.allOnes 64) s.owners ∧ LogsRefusal s t 0 why) ∧
    (∀ x e pg, s.Ready ld → s.memChk .load va n = .trap x e pg →
      exec ld s = .next (s.takeTrap x e (s.readLabel ld) s.split.pc p pg)) ∧
    (∀ page kind, s.Ready ld → page ≠ waitPage → s.memChk .load va n = .fault page kind → Completes ld s fun t =>
      t.warp.st = .park ∧ t.split = s.split ∧ SameMemory s t ∧
      ∃ f ∈ t.faults, f.page = page ∧ f.kind = kind ∧ f.ctx = s.warp.ctx ∧ f.who = .warp s.cur s.warp.uid s.curSplit) ∧
    (∀ k ceil, s.Ready st → s.block.audit = false → s.memChk .store va m = .ok k ceil → s.accepts k ceil c = true →
      s.heldStore k = [] → Completes st s fun t => OnlyStores s t (s.nextPc p) ∧
        (∀ x, t.byteAt x = if k ≤ x ∧ x < k + m then BitVec.ofNat 8 ((s.sreg d).toNat / 256 ^ (x - k)) else s.byteAt x) ∧
        ∀ x, t.granLbl x = if x / 64 = k / 64 ∧ s.granFloat k = true then s.granLbl k ||| c else s.granLbl x) ∧
    (∀ k ceil, s.Ready st → s.memChk .store va m = .ok k ceil → s.accepts k ceil c = false →
      exec st s = .next ((s.mark true false false).takeTrap .lblStore va (s.readLabel st) s.split.pc p true)) ∧
    (∀ why, s.Ready st → s.memChk .store va m = .refused why → Completes st s fun t =>
      OnlyStores s t (s.nextPc p) ∧ SameMemory s t ∧ LogsRefusal s t 1 why) ∧
    (∀ x e pg, s.Ready st → s.memChk .store va m = .trap x e pg →
      exec st s = .next ((s.mark true false false).takeTrap x e (s.readLabel st) s.split.pc p pg))

/-- 11 R192, R194, R195: the lane-wise loads. They issue with every lane's value and label pending: refused lanes all
ones under the owner set, the others what the consistency model allows. The lowest failing lane's trap stops them. 11
R192: LOAD_RETURN writes the pending lanes of one load to its register, or pair, and nothing else. A plain read may return
there what a later write left (10 R183), but not where one die's memory order stands (R185). 16 R267, R273: a load that meets
poison goes on, and its warp halts as its data return. -/
def Obligations.LaneLoadsIssueAndReturn : Prop :=
  (∀ (s : State) (p : Bool) (d o : Sys2Proof.VNum) (b : Sys2Proof.SNum) (w : LdW) (c : Scope),
      let loads (i : Instr) (n : Nat) (signed plain : Bool) (chk : Nat → Chk) : Prop :=
        (s.Ready i → s.waitStop false (s.lanes.map chk) = none → s.meetsPoison (s.lanes.map chk) = false →
          Completes i s fun t => LoadsLanes s t (s.nextPc p) d (n == 8)
            (fun l v => match chk l with
              | .ok k _ => ∃ bs, MayRead s [l] k n bs ∧ Extends signed n bs v
              | _ => v = BitVec.allOnes 64)
            (fun l => match chk l with
              | .ok k _ => s.granLbl k ||| s.slbl b ||| s.label (s.vlane o.toNat l).lbl ||| s.pcl ||| s.guardLbl
              | _ => s.owners)
            (fun l r => match chk l with
              | .ok k _ => if plain then ∃ id, r = some ⟨k, n, signed, id⟩ ∧ s.nextId ≤ id else r = none
              | _ => r = none)) ∧
        (s.Ready i → s.waitStop false (s.lanes.map chk) = none → s.meetsPoison (s.lanes.map chk) = true →
          Completes i s fun t => GoesTo s t (s.nextPc p) ∧ SameMemory s t ∧ t.warp.vregs = s.warp.vregs ∧
            ∃ x : PLoad, t.warp.loads = s.warp.loads ++ [x] ∧ x.reg = d.toNat ∧ x.poison = some s.split.pc)
      let va (l : Nat) : Word := s.sreg b + (s.vlane o.toNat l).val.signExtend 64
      let mem (n l : Nat) : Chk := s.memChk .load (va l) n
      loads (.vld p d b o w) (ldWidth w).1 (ldWidth w).2 true (mem (ldWidth w).1) ∧
      loads (.vldAcqB32 p d b o c) 4 false false (mem 4) ∧
      loads (.vldAcqB64 p d b o c) 8 false false (mem 8) ∧
      loads (.vldScB32 p d b o c) 4 false false (mem 4) ∧
      loads (.vldScB64 p d b o c) 8 false false (mem 8) ∧
      loads (.vlds p d b o w) (ldWidth w).1 (ldWidth w).2 true (fun l => s.spChk (va l) (ldWidth w).1 true) ∧
      (∀ x e pg, s.Ready (.vld p d b o w) → FirstTrap s (mem (ldWidth w).1) x e pg →
        exec (.vld p d b o w) s = .next (s.takeTrap x e (s.readLabel (.vld p d b o w)) s.split.pc p pg))) ∧
  (∀ (s : State) (w id : Nat) (x : PLoad), (s.warpAt w).loads.find? (fun y => y.id = id) = some x →
      (x.lanes.map PLane.lane).Nodup → (∀ e ∈ x.lanes, e.lane < 32) → x.reg < 128 →
      let u : State := { s with cur := w }
      let fixed (e : PLane) : Prop := ∀ r, e.late = some r → s.hist.oneDie u.dieNo r.id r.key r.len = true ∨
        s.poisoned r.key = true ∨ ∀ i < r.len, s.laterWrites r.id (r.key + i) = []
      (x.poison = none → Completes (.loadReturn w id) s fun t =>
        let v (r l : Nat) := (t.warpAt w).vregs.get VLane.zero (vkey r l)
        (∀ e ∈ x.lanes, ∃ (d : Word) (j : LIdx), v x.reg e.lane = ⟨d.setWidth 32, j⟩ ∧
          (x.pair = true → v (x.reg + 1) e.lane = ⟨d.extractLsb' 32 32, j⟩) ∧
          (fixed e → d = e.val ∧ j = e.lbl) ∧
          ∀ r, e.late = some r → d = e.val ∨ ∃ bs, Extends r.signed r.len bs d ∧ ∀ i < r.len,
            bs[i]? = (leBytes r.len e.val.toNat)[i]? ∨
            ∃ y, bs[i]? = some (s.hist.byteOf (r.key + i) (s.byteAt (r.key + i)) (some y)) ∧
              (y ∈ s.laterWrites r.id (r.key + i) ∨ s.wideAt r.key r.len = true ∧ y ∈ s.laterWrites r.id r.key)) ∧
        (∀ r l, l < 32 → (∀ e ∈ x.lanes, ¬(l = e.lane ∧ (r = x.reg ∨ (x.pair = true ∧ r = x.reg + 1)))) →
          v r l = (s.warpAt w).vregs.get VLane.zero (vkey r l)) ∧
        (t.warpAt w).loads = (s.warpAt w).loads.filter (fun y => y.id ≠ id) ∧
        (t.warpAt w).sregs = (s.warpAt w).sregs ∧ SameMemory s t ∧ ∀ k, k ≠ w → t.warpAt k = s.warpAt k) ∧
      (∀ pc, x.poison = some pc → (s.warpAt w).live = true → Completes (.loadReturn w id) s fun t =>
        (t.warpAt w).st = .halt ∧ (t.warpAt w).vregs = (s.warpAt w).vregs))

/-- 11 R193, R194, R195: the lane-wise stores. Each lane's bytes go to the location of its address, the highest lane last;
every other byte of memory is unchanged. -/
def Obligations.LaneStoresWriteTheirBytes : Prop :=
  ∀ (s : State) (p : Bool) (d o : Sys2Proof.VNum) (b : Sys2Proof.SNum) (w : StW) (c : Scope),
    let va (l : Nat) : Word := s.sreg b + (s.vlane o.toNat l).val.signExtend 64
    let con (n l : Nat) : Label := s.vlbl (n == 8) d.toNat l ||| (s.slbl b ||| s.label (s.vlane o.toNat l).lbl) |||
      s.pcl ||| s.guardLbl
    let mem (n l : Nat) : Chk := s.labelChk (con n l) (va l) (s.memChk .store (va l) n)
    let stores (i : Instr) (n : Nat) (global : Bool) (chk : Nat → Chk) : Prop :=
      s.Ready i → (global = true → s.block.audit = false) → (global = false → ∀ x, s.waitedObjs x = []) →
      s.accessStop false true (s.lanes.map chk) = none →
      Completes i s fun t => OnlyStores s t (s.nextPc p) ∧
        StoresLanes s t n (fun l => (chk l).key) (fun l => s.velt (n == 8) d.toNat l) (con n)
    stores (.vst p d b o w) (stWidth w) true (mem (stWidth w)) ∧
    stores (.vstRelB32 p d b o c) 4 true (mem 4) ∧
    stores (.vstRelB64 p d b o c) 8 true (mem 8) ∧
    stores (.vstScB32 p d b o c) 4 true (mem 4) ∧
    stores (.vstScB64 p d b o c) 8 true (mem 8) ∧
    stores (.vsts p d b o w) (stWidth w) false (fun l => s.spChk (va l) (stWidth w) true) ∧
    (∀ x e pg, s.Ready (.vst p d b o w) → FirstTrap s (mem (stWidth w)) x e pg →
      exec (.vst p d b o w) s =
        .next ((s.mark true false false).takeTrap x e (s.readLabel (.vst p d b o w)) s.split.pc p pg))

/-- 09 R166, 11 R195: `vldp` and `vstp` act on each lane's own bytes of the warp's private area, within PRIVB, where its
pages are mapped. -/
def Obligations.PrivateMemoryIsPerLane : Prop :=
  ∀ (s : State) (p : Bool) (d o : Sys2Proof.VNum) (b : Sys2Proof.SNum) (lw : LdW) (sw : StW),
    let va (l : Nat) : Word := s.sreg b + (s.vlane o.toNat l).val.signExtend 64
    let off (l : Nat) : Nat := (va l).toNat % 2 ^ 32
    let cell (l j : Nat) : Nat := (off l + j) / 4 * 128 + 4 * l + (off l + j) % 4
    let fits (n : Nat) : Prop := ∀ l ∈ s.lanes, (va l).toNat % n = 0 ∧ off l + n ≤ s.ctx.privBytes
    let al (l : Nat) : Label := s.slbl b ||| s.label (s.vlane o.toNat l).lbl ||| s.pcl ||| s.guardLbl
    let n := (ldWidth lw).1
    let m := stWidth sw
    (s.Ready (.vldp p d b o lw) → AreaMapped s → fits n →
      (∀ l ∈ s.lanes, ∀ j < n, s.warp.privPoison.get false (cell l j / 64) = false) →
      Completes (.vldp p d b o lw) s fun t => LoadsLanes s t (s.nextPc p) d (n == 8)
        (fun l v => Extends (ldWidth lw).2 n ((List.range n).map fun j => s.warp.priv.get 0 (cell l j)) v)
        (fun l => joinLabels ((List.range n).map fun j => s.warp.privLbl.get 0 (cell l j / 64)) ||| al l)
        (fun _ r => r = none)) ∧
    (s.Ready (.vstp p d b o sw) → AreaMapped s → fits m → Completes (.vstp p d b o sw) s fun t =>
      OnlyWarp s t ∧ GoesTo s t (s.nextPc p) ∧
      (∀ l ∈ s.lanes, ∀ j < m, t.warp.priv.get 0 (cell l j) = BitVec.ofNat 8 (s.velt (m == 8) d.toNat l / 256 ^ j) ∧
        Label.dom (t.warp.privLbl.get 0 (cell l j / 64)) (s.vlbl (m == 8) d.toNat l ||| al l) = true) ∧
      (∀ x, (∀ l ∈ s.lanes, ∀ j < m, x ≠ cell l j) → t.warp.priv.get 0 x = s.warp.priv.get 0 x) ∧
      t.warp = { s.warp with
        priv := t.warp.priv, privLbl := t.warp.privLbl, privPoison := t.warp.privPoison, splits := t.warp.splits }) ∧
    (∀ l ∈ s.lanes, s.Ready (.vstp p d b o sw) → AreaMapped s → (∀ k ∈ s.lanes, k < l → (va k).toNat % m = 0 ∧ off k + m ≤ s.ctx.privBytes) →
      ((va l).toNat % m ≠ 0 → exec (.vstp p d b o sw) s =
        .next (s.takeTrap .align (va l) (s.readLabel (.vstp p d b o sw)) s.split.pc p)) ∧
      ((va l).toNat % m = 0 → s.ctx.privBytes < off l + m → exec (.vstp p d b o sw) s =
        .next (s.takeTrap .prot (va l) (s.readLabel (.vstp p d b o sw)) s.split.pc p)))

/-- 11 R199 to R203, 10 R184, 09 R169: the atomics. Lanes that name one location act on it in lane order: with no plain write
that races, each returns what the lane before it wrote, or the first what the consistency model allows; the last that writes
leaves its value. A floating granule joins each lane's contribution; every other byte and label is unchanged. 10 R184: where
no plain write races, an atomic reads what its predecessor in the order of atomics wrote. -/
def Obligations.AtomicsActInLaneOrder : Prop :=
  ∀ (s : State) (p : Bool) (o : AtomOp), s.block.audit = false →
    (∀ (t : ETy) (w m x e : Nat),
      combine .add t w m x e = some ((m + x) % 2 ^ w) ∧ combine .and t w m x e = some (m &&& x) ∧
      combine .or t w m x e = some (m ||| x) ∧ combine .xor t w m x e = some (m ^^^ x) ∧
      combine .exch t w m x e = some x ∧ combine .cas t w m x e = (if m = e then some x else none) ∧
      combine .min t w m x e = some (if valOf t w m ≤ valOf t w x then m else x) ∧
      combine .max t w m x e = some (if valOf t w m ≤ valOf t w x then x else m)) ∧
    (∀ (v q : Sys2Proof.VNum) (b : Sys2Proof.SNum) (n : Nat) (i : Instr) (write : Bool),
      (i, n, write) ∈ [(.vatomB32 p v b q o, 4, true), (.vatomB64 p v b q o, 8, true), (.vratomB32 p v b q o, 4, false),
        (.vratomB64 p v b q o, 8, false)] →
      let wide : Bool := n == 8
      let va (l : Nat) : Word := s.sreg b + (s.vlane q.toNat l).val.signExtend 64
      let er := v.toNat + (if wide then 2 else 1)
      let al (l : Nat) : Label := s.slbl b ||| s.label (s.vlane q.toNat l).lbl ||| s.pcl ||| s.guardLbl
      let con (l : Nat) : Label := s.vlbl wide v.toNat l ||| (if o = .cas then s.vlbl wide er l else 0#16) ||| al l
      let chk (l : Nat) : Chk := s.labelChk (con l) (va l) (s.memChk .atomic (va l) n)
      let at_ (k : Nat) : List Nat := s.lanes.filter fun l => (chk l).key = some k
      let act (m l : Nat) : Option Nat := combine o s.ty (8 * n) m (s.velt wide v.toNat l) (s.velt wide er l)
      s.Ready i → s.accessStop true true (s.lanes.map chk) = none → Completes i s fun t => ∃ old : Nat → Nat,
        let wrote (k : Nat) : List Nat := (at_ k).filter fun l => (act (old l) l).isSome
        (∀ l ∈ s.lanes, ∀ k, (chk l).key = some k →
          match ((wrote k).filter (· < l)).getLast? with
          | some m => (∀ j ∈ s.lanes, ∀ q, (chk j).key = some q → NoRace s j q n) → old l = (act (old m) m).getD 0
          | none => MayAtomic s [l] k n (old l)) ∧
        (∀ x, t.granLbl x = s.granLbl x ||| if s.granFloat x then
          joinLabels ((s.lanes.filter fun l => (chk l).key.any fun k => k / 64 == x / 64).map con) else 0#16) ∧
        GoesTo s t (s.nextPc p) ∧ KeepsEntries s t ∧ t.warp.sregs = s.warp.sregs ∧ t.warp.flags = s.warp.flags ∧
        (∀ k, k ≠ s.cur → t.warpAt k = s.warpAt k) ∧
        (∀ l ∈ s.lanes, ∀ k, (chk l).key = some k → ∀ j < n,
          t.byteAt (k + j) = match (wrote k).getLast? with
            | some m => BitVec.ofNat 8 ((act (old m) m).getD 0 / 256 ^ j)
            | none => s.byteAt (k + j)) ∧
        (∀ a, (∀ l ∈ s.lanes, ∀ k, (chk l).key = some k → ¬(k ≤ a ∧ a < k + n)) → t.byteAt a = s.byteAt a) ∧
        (write = true → ∀ l ∈ s.lanes,
          (∀ k, (chk l).key = some k → t.velt wide v.toNat l = old l ∧
            Stands s t (t.vlane v.toNat l).lbl
              (s.granLbl k ||| joinLabels (((at_ k).filter (· < l)).map con) ||| al l)) ∧
          (∀ why, chk l = .refused why → t.velt wide v.toNat l = 2 ^ (8 * n) - 1)) ∧
        (∀ r l, l < 32 → ¬(write = true ∧ l ∈ s.lanes ∧ (r = v.toNat ∨ (wide = true ∧ r = v.toNat + 1))) →
          t.vlane r l = s.vlane r l)) ∧
    (∀ (d a b : Sys2Proof.SNum) (w : Bool) (k : Nat) (ceil : Label),
      let i : Instr := .satom p d a b w o
      let n := if w then 8 else 4
      let va := s.sreg a
      let con : Label := s.slbl b ||| (if o = .cas then s.slbl (d + 1) else 0#16) ||| s.slbl a ||| s.pcl
      s.Ready i → s.memChk .atomic va n = .ok k ceil → s.accepts k ceil con = true → s.heldStore k = [] →
      s.poisoned k = false → Completes i s fun t => ∃ m, MayAtomic s s.execLanes k n m ∧
        let r := combine o s.ty (8 * n) m ((s.sreg b).toNat % 2 ^ (8 * n)) ((s.sreg (d + 1)).toNat % 2 ^ (8 * n))
        GoesTo s t (s.nextPc p) ∧
        (∀ j < n, t.byteAt (k + j) = match r with
          | some x => BitVec.ofNat 8 (x / 256 ^ j)
          | none => s.byteAt (k + j)) ∧
        (∀ x, t.granLbl x = s.granLbl x ||| if s.granFloat x ∧ x / 64 = k / 64 then con else 0#16) ∧
        (∀ x, ¬(k ≤ x ∧ x < k + n) → t.byteAt x = s.byteAt x) ∧
        (d ≠ 0 → t.sreg d = if w then BitVec.ofNat 64 m else extTo64 s.ty 32 m) ∧
        (d ≠ 0 → HasRoom s (s.granLbl k ||| s.slbl a ||| s.pcl) → t.slbl d = s.granLbl k ||| s.slbl a ||| s.pcl) ∧
        (∀ x : Sys2Proof.SNum, x ≠ d → t.warp.sregs.get SReg.zero x.toNat = s.warp.sregs.get SReg.zero x.toNat) ∧
        t.warp.vregs = s.warp.vregs ∧ t.warp.flags = s.warp.flags) ∧
    (∀ (seen : List Nat) (k n w : Nat), (∀ i < n, s.hist.ao.get none (k + i) = some w) →
      (∀ i < n, ∀ x v, (some x, v) ∈ s.hist.values (k + i) (s.byteAt (k + i)) seen →
        (s.hist.wrec x).atomic = true ∨ x ∈ (s.hist.wrec w).before) →
      (s.atomicValue seen k n).1 = (List.range n).map fun i => s.hist.byteOf (k + i) (s.byteAt (k + i)) (some w))

/-- 11 R204 to R207: `boinit` initialises an object, `boarr` and `boexp` add to PEND, an arrival lowers CNT, and the phase
ends where the object's MODE says so; `bowait` waits while the phase it names is the current one, and answers
BAR_ABANDONED for an abandoned object or block. -/
def Obligations.BarrierObjectsCountTheirPhases : Prop :=
  ∀ (s : State) (p : Bool) (d a b : Sys2Proof.SNum) (bl off : Nat) (ceil : Label), s.split.st = .ready →
    s.spChk (((s.sreg a).setWidth 32).setWidth 64) 16 false = .ok (scratchKey bl off) ceil → off < 2 ^ 22 →
    let v := s.sreg b
    let k := scratchKey bl off
    let o := s.objAt bl off
    let c := s.slbl a ||| s.slbl b ||| s.pcl
    let apart (t : State) : Prop := ∀ x, ¬(k ≤ x ∧ x < k + 16) → t.byteAt x = s.byteAt x
    let pend := sextNat 48 (fieldOf o 0 48) + sextNat 48 v.toNat
    let ph := fieldOf o 96 16
    let counts (t : State) (cnt : Nat) : Prop :=
      let closed : Prop := (fieldOf o 114 2 = 0 ∧ cnt = 0 ∧ pend = 0) ∨ (fieldOf o 114 2 = 1 ∧ cnt = 0) ∨
        (fieldOf o 114 2 = 2 ∧ pend = 0)
      let x := t.objAt bl off
      sextNat 48 (fieldOf x 0 48) = pend ∧ fieldOf x 80 16 = fieldOf o 80 16 ∧ fieldOf x 112 4 = fieldOf o 112 4 ∧
      (closed → fieldOf x 64 16 = fieldOf o 80 16 ∧ fieldOf x 96 16 = (ph + 1) % 2 ^ 16) ∧
      (¬closed → fieldOf x 64 16 = cnt ∧ fieldOf x 96 16 = ph)
    (s.Ready (.boinit p a b) → s.heldStore k = [] → fieldOf v 17 2 ≠ 3 → fieldOf v 19 45 = 0 →
      ((s.blockAt bl).objs.contains off = true ∨ (s.blockAt bl).objs.length < 32) → Completes (.boinit p a b) s fun t =>
        let x := t.objAt bl off
        fieldOf x 0 48 = 0 ∧ fieldOf x 64 16 = fieldOf v 0 16 ∧ fieldOf x 80 16 = fieldOf v 0 16 ∧ fieldOf x 96 16 = 0 ∧
        fieldOf x 112 1 = 0 ∧ fieldOf x 113 1 = fieldOf v 16 1 ∧ fieldOf x 114 2 = fieldOf v 17 2 ∧
        off ∈ (t.blockAt bl).objs ∧ apart t ∧ t.split.pc = s.nextPc p) ∧
    (s.Ready (.boinit p a b) → (fieldOf v 17 2 = 3 ∨ fieldOf v 19 45 ≠ 0) → s.objPeer a = false →
      exec (.boinit p a b) s = .next (s.takeTrap .prot (((s.sreg a).setWidth 32).setWidth 64)
        (s.readLabel (.boinit p a b)) s.split.pc p)) ∧
    (s.Ready (.boarr p d a b) → s.heldStore k = [] → -(2 ^ 47 : Int) ≤ pend → pend < 2 ^ 47 →
      Completes (.boarr p d a b) s fun t =>
        counts t (fieldOf o 64 16 - 1) ∧ apart t ∧ t.split.pc = s.nextPc p ∧
        (d ≠ 0 → t.sreg d = BitVec.ofNat 64 (ph + (if fieldOf o 64 16 = 0 then 2 ^ 63 else 0)) ∧
          (Label.dom s.owners (s.granLbl k ||| c) = true → Label.dom (t.slbl d) (s.granLbl k ||| c) = true))) ∧
    (s.Ready (.boexp p a b) → s.heldStore k = [] → -(2 ^ 47 : Int) ≤ pend → pend < 2 ^ 47 →
      Completes (.boexp p a b) s fun t => counts t (fieldOf o 64 16) ∧ apart t ∧ t.split.pc = s.nextPc p) ∧
    (s.Ready (.boexp p a b) → s.heldStore k = [] → ¬(-(2 ^ 47 : Int) ≤ pend ∧ pend < 2 ^ 47) → s.objPeer a = false →
      exec (.boexp p a b) s = .next (s.takeTrap .prot (((s.sreg a).setWidth 32).setWidth 64)
        (s.readLabel (.boexp p a b)) s.split.pc p)) ∧
    (s.Ready (.bowait p d a b) → s.heldBy k = [] → s.warp.live = true → s.boWaiters bl off = [] →
      let dead : Prop := fieldOf o 112 1 = 1 ∨ (s.blockAt bl).abandoned = true
      Completes (.bowait p d a b) s fun t => SameMemory s t ∧ KeepsEntries s t ∧
        (dead ∨ ph ≠ v.toNat % 2 ^ 16 → t.split.pc = s.nextPc p ∧ t.split.st = .ready ∧
          (dead → d ≠ 0 → t.sreg d = 1) ∧ (¬dead → d ≠ 0 → t.sreg d = 0)) ∧
        (¬dead → ph = v.toNat % 2 ^ 16 → t.split.pc = s.split.pc ∧
          t.split.st = .swait (.bowait d bl off (v.setWidth 16) c)))

/-- 10 R179, 11 R196, R197: fences order, and an acquire fence ends its lanes' outstanding reads. `mwait` completes once it
reads a value that meets its condition; until then its split waits, and polls. -/
def Obligations.FencesOrderAndMwaitWaits : Prop :=
  ∀ (s : State) (p : Bool) (d a b : Sys2Proof.SNum) (f : FenceK) (sc : Scope) (c : WaitC) (k : Nat) (ceil : Label),
    (s.Ready (.fence p f sc) → Completes (.fence p f sc) s fun t =>
      GoesTo s t (s.nextPc p) ∧ NoStore s t ∧
      (f ≠ .rel → ∀ l ∈ s.execLanes, ∀ x ∈ acquired (s.party l) (scopeCode sc) (s.warp.acq.get [] l), x ∈ t.warp.seen l) ∧
      (f ≠ .acq → ∀ l ∈ s.execLanes, ∃ x ∈ t.warp.rel.get [] l, x.scope = scopeCode sc ∧ x.party = s.party l ∧
        ∀ y ∈ s.warp.seen l, y ∈ x.hb) ∧
      t.warp.loads = (s.warp.loads.map fun x => { x with lanes := x.lanes.map fun y =>
        if f ≠ .rel ∧ y.lane ∈ s.execLanes then { y with late := none } else y }) ∧
      t.warp = { s.warp with
        hb := t.warp.hb, rel := t.warp.rel, loads := t.warp.loads, splits := t.warp.splits }) ∧
    (let i : Instr := .mwait p d a b c
     let lbl := s.slbl a ||| s.slbl b ||| s.pcl
     let met (v : Word) : Prop := match c with
       | .ge => (s.sreg b).toNat ≤ v.toNat
       | .ne => v ≠ s.sreg b
       | .eq => v = s.sreg b
     s.Ready i → s.memChk .load (s.sreg a) 8 = .ok k ceil → s.heldBy k = [] → s.poisoned k = false →
      Completes i s fun t => ∃ bs, MayRead s s.execLanes k 8 bs ∧
        let v := BitVec.ofNat 64 (leNat bs)
        (met v → LoadsScalar s t (s.nextPc p) d v (s.granLbl k ||| lbl)) ∧
        (¬met v → OnlyWarp s t ∧ t.split.pc = s.split.pc ∧
          t.split.st = .swait (.mwait d (s.sreg a) (s.sreg b) c lbl) ∧ t.warp = { s.warp with splits := t.warp.splits })) ∧
    (∀ (w sp : Nat) (va rhs : Word) (lbl : Label),
      let u : State := { s with cur := w, curSplit := sp }
      (s.warpAt w).st = .run → u.split.st = .swait (.mwait d va rhs c lbl) →
      (u.memChk .load va 8 = .ok k ceil → u.heldBy k = [] → s.poisoned k = false →
        Completes (.mwaitWake w sp) s fun t => ∃ bs, MayRead u u.execLanes k 8 bs ∧
          let v := BitVec.ofNat 64 (leNat bs)
          (waitHolds c v rhs = true →
            SameMemory s t ∧ (d ≠ 0 → ({ t with cur := w } : State).sreg d = v) ∧
            ((t.warpAt w).split sp).st = .ready ∧
            ((t.warpAt w).split sp).pc = u.split.pc + (if u.split.wmask.isSome then 8 else 4)) ∧
          (waitHolds c v rhs = false → t = s)) ∧
      (∀ page kind, u.memChk .load va 8 = .fault page kind → page ≠ waitPage → Completes (.mwaitWake w sp) s fun t =>
        (t.warpAt w).st = .park ∧ ((t.warpAt w).split sp).st = .ready ∧ ((t.warpAt w).split sp).pc = u.split.pc ∧
        SameMemory s t ∧ ∃ f ∈ t.faults, f.page = page ∧ f.kind = kind ∧ f.who = .warp w (s.warpAt w).uid sp))

/-! ## Spawned threads, warps and slots -/

/-- 05 R108: `spawn` deposits its lanes' threads in the bin of its block and entry address; the 32nd launches a warp where
a slot is free. With no bin free it waits. A misaligned entry address traps ALIGN, one out of range PROT. -/
def Obligations.SpawnDepositsItsThreads : Prop :=
  ∀ (s : State) (p : Bool) (a : Sys2Proof.VNum) (b : Sys2Proof.SNum),
    let i : Instr := .spawn p a b
    let e := s.sreg b
    let pc : BitVec 57 := e.setWidth 57
    let c := s.pcl ||| s.guardLbl ||| s.slbl b
    let lb (r l : Nat) : Label := s.label (s.vlane r l).lbl
    let n := a.toNat
    let ts : List Deposit := s.lanes.map fun l =>
      { w0 := BitVec.ofNat 64 (s.velt true n l), l0 := (lb n l, lb (n + 1) l),
        w1 := BitVec.ofNat 64 (s.velt true (n + 2) l), l1 := (lb (n + 2) l, lb (n + 3) l), c := c }
    let bin (t : State) (j : Nat) : Bin := (t.coreAt s.coreNo).bins.get Bin.blank j
    let timer := (s.launchAt (s.blockAt s.warp.block).lseq).sptmr
    let legal : Prop := e.toNat % 4 = 0 ∧ e.toNat < 2 ^ 57
    (s.Ready i → e.toNat % 4 ≠ 0 → exec i s = .next (s.takeTrap .align e (s.readLabel i) s.split.pc p true)) ∧
    (s.Ready i → e.toNat % 4 = 0 → 2 ^ 57 ≤ e.toNat →
      exec i s = .next (s.takeTrap .prot e (s.readLabel i) s.split.pc p true)) ∧
    (∀ j, s.Ready i → legal → s.binFor s.coreNo s.warp.block pc = some j → timer ≠ 0 →
      (bin s j).threads.length + s.lanes.length < 32 → Completes i s fun t =>
        GoesTo s t (s.nextPc p) ∧ SameMemory s t ∧ t.warp = { s.warp with splits := t.warp.splits } ∧
        (∀ k, k ≠ s.cur → t.warpAt k = s.warpAt k) ∧ (∀ m, m ≠ j → bin t m = bin s m) ∧
        (bin t j).threads = (bin s j).threads ++ ts ∧
        (s.lanes ≠ [] → (bin t j).block = s.warp.block ∧ (bin t j).entry = pc)) ∧
    (∀ j k, s.Ready i → legal → s.binFor s.coreNo s.warp.block pc = some j → timer ≠ 0 → s.lanes ≠ [] →
      (bin s j).threads.length + s.lanes.length = 32 → s.freeSlot s.coreNo = some k → s.warp.st = .run →
      Completes i s fun t =>
        GoesTo s t (s.nextPc p) ∧ SameMemory s t ∧ bin t j = Bin.blank ∧
        LaunchesThreads s t k { Bin.blank with
          block := s.warp.block, entry := pc, threads := (bin s j).threads ++ ts }) ∧
    (s.Ready i → legal → s.binFor s.coreNo s.warp.block pc = none → Completes i s fun t =>
      OnlyWarp s t ∧ t.split.st = .swait (.spawn pc ts) ∧ t.split.pc = s.split.pc ∧
      t.warp = { s.warp with splits := t.warp.splits })

/-- 05 R101, R108 to R116, 16 R271: what happens to warps, slots and arrays by itself. A slot that halted drains before it
is free (R110). R116: while a split starves, its scheduler issues one that starves and has waited no less. R112: a
scheduler issues one instruction a cycle. -/
def Obligations.WarpAndArrayEventsAct : Prop :=
  ∀ (s : State),
    (∀ (core j k : Nat) (i : Instr),
      let x := (s.coreAt core).bins.get Bin.blank j
      let timer := (s.launchAt (s.blockAt x.block).lseq).sptmr
      (i = .spawnBinTimer core j ∧ timer ≠ 0 ∧ x.since + 64 * timer ≤ s.cycle) ∨
        (i = .spawnBinLaunch core j ∧ x.due = true) →
      x.threads ≠ [] → x.threads.length ≤ 32 → s.freeSlot core = some k →
      (∀ m < 32, ∀ e ∈ (s.warpAt (32 * core + m)).liveSplits, ∀ pc ts, e.2.st ≠ .swait (.spawn pc ts)) →
      Completes i s fun t => LaunchesThreads s t k x ∧ (t.coreAt core).bins.get Bin.blank j = Bin.blank ∧
        SameMemory s t ∧ ∀ m, m ≠ k → t.warpAt m = s.warpAt m) ∧
    (∀ (w a b : Nat) (m mode : BitVec 32) (pcl : LIdx) (rpc : Option (BitVec 57)) (rm : Option (BitVec 32)),
      let k := s.warpAt w
      let x := k.split a
      let y := k.split b
      a ≠ b → k.st = .run → x.st = .ready →
      y = { x with
        exec := y.exec, safe := y.safe, imask := y.imask, wmask := y.wmask, wlbl := y.wlbl, last := y.last,
        declined := y.declined, heldOn := y.heldOn, yielded := y.yielded } →
      k.top x.exec = some (.diverge m mode pcl rpc rm) → k.top y.exec = k.top x.exec →
      Completes (.splitMergeEarly w a b) s fun t =>
        ((t.warpAt w).split a).exec = x.exec ||| y.exec ∧ (t.warpAt w).split b = Split.blank ∧
        ((t.warpAt w).split a).pc = x.pc ∧ (t.warpAt w).entries = k.entries ∧
        (∀ j, j ≠ a → j ≠ b → (t.warpAt w).split j = k.split j) ∧ t = s.setWarpAt w (t.warpAt w)) ∧
    (∀ w, ((s.warpAt w).st = .halt →
        exec (.slotDrainDone w) s = .next (s.setWarpAt w { s.warpAt w with st := .drain })) ∧
      ((s.warpAt w).st = .drain → s.pending w = false → exec (.slotDrainDone w) s = .next (s.setWarpAt w Warp.blank)) ∧
      ((s.warpAt w).st = .drain → s.pending w = true → exec (.slotDrainDone w) s = .next s)) ∧
    (∀ core, s.cycle % 1024 = 0 → Completes (.localityDecay core) s fun t => ∀ k,
      t.warpAt k = if k / 32 = core then { s.warpAt k with lost := (s.warpAt k).lost >>> 1 } else s.warpAt k) ∧
    (∀ w sp j i, canIssue s w sp = true → (j, i) ∈ s.splitsOf (scheduler w) → s.candidate j i = true →
      ((s.warpAt j).split i).last + 4096 ≤ s.issueCycle j → s.candidate w sp = true ∧
        ((s.warpAt w).split sp).last + 4096 ≤ s.issueCycle w ∧
        ((s.warpAt w).split sp).last ≤ ((s.warpAt j).split i).last) ∧
    (∀ w sp, s.firstStarved (scheduler w) = some (w, sp) →
      exec (.starvationIssue w sp) s = .next { s with agenda := .issue w sp :: s.agenda }) ∧
    (∀ w sp, (prepare s w sp).cycle = s.issueCycle w ∧ (prepare s w sp).issueCycle w = s.issueCycle w + 1) ∧
    (∀ pa, Completes (.eccUncorrectable (.memorySector pa)) s fun t =>
      t.poisoned (pa % 2 ^ 48) = true ∧ SameMemory s t) ∧
    (∀ pa, Completes (.eccUncorrectable (.cacheLine pa)) s fun t =>
      t.poisoned (pa % 2 ^ 48 / 128 * 128) = true ∧ t.poisoned (pa % 2 ^ 48 / 128 * 128 + 64) = true ∧ SameMemory s t) ∧
    (∀ b g, (s.blockAt b).live = true → Completes (.eccUncorrectable (.scratch b g)) s fun t =>
      t.poisoned (scratchKey b (64 * g % 2 ^ 48)) = true ∧ SameMemory s t) ∧
    (∀ w r l, (s.warpAt w).st ≠ .free → r < 128 → l < 32 → Completes (.eccUncorrectable (.vreg w r l)) s fun t =>
      (t.warpAt w).poisonV.get false (vkey r l) = true ∧ (t.warpAt w).vregs = (s.warpAt w).vregs) ∧
    (∀ w r, (s.warpAt w).st ≠ .free → 0 < r → r < 64 → Completes (.eccUncorrectable (.sreg w r)) s fun t =>
      (t.warpAt w).poisonS.get false r = true ∧ (t.warpAt w).sregs = (s.warpAt w).sregs) ∧
    (∀ core n, (s.bslotAt core n).st = .ready → (s.bslotAt core n).freeing = false →
      (∀ g ∈ (s.coreAt core).groups, g.slot ≠ n) → Completes (.eccUncorrectable (.bslot core n)) s fun t =>
        (t.bslotAt core n).st = .poisoned ∧ SameMemory s t) ∧
    (∀ id o, s.opAt id = some o →
      exec (.eccUncorrectable (.opEntry id)) s = .next (s.setOp { o with bad := true })) ∧
    (∀ w g, (s.warpAt w).st ≠ .free → Completes (.eccUncorrectable (.privGran w g)) s fun t =>
      (t.warpAt w).privPoison.get false g = true ∧ (t.warpAt w).priv = (s.warpAt w).priv)

/-! ## Copies -/

/-- 13 R210 to R219: a lane copy reads its sources at issue, those whose line no earlier operation owns, and writes its
destinations when the coalescer moves it;
batches close over open copies, and `cwait` waits for them; `kick` queues a bulk request, whose elements the engine moves
one by one, and whose STATUS follows the last. -/
def Obligations.CopiesMoveTheirBytes : Prop :=
  ∀ (s : State) (p : Bool),
    (∀ (d a : Sys2Proof.VNum) (w : CpyW),
      let n := match w with
        | .b32 => 4
        | .b64 => 8
        | .b128 => 16
      let i : Instr := .vcpy p d a w
      let xs := s.cpyLanes d a n
      s.Ready i → firstStop (xs.map CpyLane.verdict) = none →
      (∀ x ∈ xs, ∀ k, x.src.key = some k → s.heldBy k = []) →
      s.warp.openCopies.length + (s.warp.batches.map fun b => b.copies.length).sum < 64 → Completes i s fun t =>
        ∃ (o : Op) (data : Nat → List Byte), StartsOp s t (s.nextPc p) o ∧
          t.warp.openCopies = s.warp.openCopies ++ [o.id] ∧ o.reads = [] ∧
          (∀ x ∈ xs, ∀ k, x.src.key = some k → EngineReads s (s.warp.seenAll s.lanes) k n (data x.lane)) ∧
          o.kind = .copy (xs.filterMap fun x => x.src.key.map fun k =>
            { lane := x.lane, dst := x.dst.key, va := x.va, data := data x.lane, bad := s.poisoned k, c := x.c })) ∧
    (∀ (id n : Nat) (o : Op) (xs : List LaneElt), s.opAt id = some o → o.kind = .copy xs → o.reads = [] →
      s.claimed id (xs.filterMap fun x => x.dst) = false → (s.blockAt o.block).audit = false →
      (∀ x ∈ xs, x.data.length = n) → Completes (.laneCopy id) s fun t =>
        Ends s t id ∧
        (∀ b, (∀ x ∈ xs, ∀ k, x.dst = some k → ¬(k ≤ b ∧ b < k + n)) → t.byteAt b = s.byteAt b) ∧
        (∀ (j : Nat) (x : LaneElt) (k : Nat), xs[j]? = some x → x.dst = some k → ∀ m < n,
          (∀ (l : Nat) (y : LaneElt) (q : Nat), j < l → xs[l]? = some y → y.dst = some q → ¬(q ≤ k + m ∧ k + m < q + n)) →
          x.data[m]? = some (t.byteAt (k + m))) ∧
        ((s.warpAt o.wkey).uid = o.uid → id ∉ (t.warpAt o.wkey).openCopies)) ∧
    (∀ d : Sys2Proof.SNum, s.Ready (.cbatch p d) → OnlySplit s →
      (s.warp.batches.length < 16 ∨ s.warp.openCopies = [] → Completes (.cbatch p d) s fun t =>
        (d ≠ 0 → t.sreg d = s.warp.lastBatch + 1) ∧ t.warp.lastBatch = s.warp.lastBatch + 1 ∧ t.warp.openCopies = [] ∧
        t.warp.batches = (if s.warp.openCopies = [] then s.warp.batches
          else s.warp.batches ++ [⟨(s.warp.lastBatch + 1).toNat, s.warp.openCopies⟩]) ∧
        GoesTo s t (s.nextPc p) ∧ OnlyWarp s t) ∧
      (16 ≤ s.warp.batches.length → s.warp.openCopies ≠ [] → Completes (.cbatch p d) s fun t =>
        t.split.st = .swait (.cbatch d) ∧ t.split.pc = s.split.pc ∧ OnlyWarp s t)) ∧
    (∀ a : Sys2Proof.SNum, s.Ready (.cwait p a) → OnlySplit s →
      let n := min (s.sreg a).toNat s.warp.lastBatch.toNat
      ((∀ b ∈ s.warp.batches, n < b.num) → Completes (.cwait p a) s fun t =>
        t.split.st = .ready ∧ t.split.pc = s.nextPc p ∧ OnlyWarp s t ∧ t.warp.sregs = s.warp.sregs ∧
        t.warp.batches = s.warp.batches) ∧
      (∀ b ∈ s.warp.batches, b.num ≤ n → Completes (.cwait p a) s fun t =>
        t.split.st = .swait (.cwait n) ∧ t.split.pc = s.split.pc ∧ OnlyWarp s t)) ∧
    (∀ (a : Sys2Proof.SNum) (n : Nat) (lbl : Label),
      let i : Instr := .kick p a
      let v : BitVec 32 := (s.sreg a).setWidth 32
      let x := BitVec.ofNat 1024 n
      s.Ready i → Describes s v 128 n lbl →
      (s.kickStop v x = none → s.requests s.coreNo < 64 → Completes i s fun t =>
        ∃ o, StartsOp s t (s.nextPc p) o ∧
          o.kind = .request x v.toNat (lbl ||| s.slbl a ||| s.pcl) ReqProg.start) ∧
      (reqMalformed x = true → ∃ d u,
        exec i s = .next ((s.mark d u false).takeTrap .copyAddr (v.setWidth 64) (s.readLabel i) s.split.pc p))) ∧
    (∀ (id i addr k q j : Nat) (o : Op) (x : BitVec 1024) (lreq ceil ce cb : Label) (g : ReqProg),
      let e := 2 ^ fieldOf x 3 2
      s.opAt id = some o → o.kind = .request x addr lreq g → g.moved.contains i = false → i < reqCount x →
      s.owned id (s.elemKeys o x i) = false → reqStore x = false → reqFan x = false →
      s.checkSp o.block (reqSaddr x + BitVec.ofNat 32 (i * e)) e true = .ok q ce →
      s.checkSp o.block (reqBobj x) 16 false = .ok j cb → (q + e ≤ j ∨ j + 16 ≤ q) →
      let apart (t : State) : Prop := ∀ b, ¬(q ≤ b ∧ b < q + e) → ¬(j ≤ b ∧ b < j + 16) → t.byteAt b = s.byteAt b
      (reqOob x i = true → Completes (.requestElement id i) s fun t =>
        (∀ m < e, t.byteAt (q + m) = 0#8) ∧ apart t) ∧
      (∀ a, reqOob x i = false → reqAddr x i = some a →
        s.checkVa o.core o.ctx o.priv (s.launchAt o.lseq).pure (o.declinedFor i) .load (BitVec.ofNat 64 a) = .ok k ceil →
        Label.dom (s.ctxAt o.ctx).owners (s.granLbl k) = true → Completes (.requestElement id i) s fun t =>
          (∃ bs, EngineReads s (joinIds o.hb o.done) k e bs ∧ ∀ m < e, bs[m]? = some (t.byteAt (q + m))) ∧ apart t)) ∧
    (∀ (id addr k q : Nat) (o : Op) (x : BitVec 1024) (lreq ceil ce : Label) (g : ReqProg),
      s.opAt id = some o → o.kind = .request x addr lreq g → reqCount x ≤ g.moved.length → reqFan x = false →
      s.checkSp o.block (BitVec.ofNat 32 (addr + 0x78)) 8 true = .ok k ceil →
      s.checkSp o.block (reqBobj x) 16 false = .ok q ce → (k + 8 ≤ q ∨ q + 16 ≤ k) →
      Completes (.requestComplete id) s fun t =>
        Ends s t id ∧
        leNat (t.bytesAt k 8) = (2 ^ 63 + (if g.oob then 2 ^ 62 else 0) + (if g.fdrop then 2 ^ 61 else 0) +
          (if g.rfsd then 2 ^ 60 else 0) + (match g.fail with
            | some (c, i) => c * 2 ^ 56 + i % 2 ^ 40
            | none => 0)) % 2 ^ 64 ∧
        ∀ b, ¬(k ≤ b ∧ b < k + 8) → ¬(q ≤ b ∧ b < q + 16) → t.byteAt b = s.byteAt b)

/-! ## Remote operations -/

/-- 13 R222, 19 R321 to R323, R327: each remote instruction reads its descriptor, checks its channel, its local side and
CL, and starts one operation; a channel that is not open traps PROT, and a label beyond CL traps LBL_SEND. -/
def Obligations.RemoteInstructionsStartOperations : Prop :=
  ∀ (s : State) (p : Bool) (a b : Sys2Proof.SNum) (n : Nat) (lbl : Label),
    let x := BitVec.ofNat 512 n
    let desc (r : Sys2Proof.SNum) : Prop := Describes s ((s.sreg r).setWidth 32) 64 n lbl
    let base := lbl ||| s.slbl a ||| s.slbl b ||| s.pcl
    let room : Prop := s.remotes s.coreNo < 64
    let trap (i : Instr) (c : Cause) (e : Word) : State := (s.mark true true false).takeTrap c e (s.readLabel i) s.split.pc p
    (∀ (i : Instr) (kind : Nat),
      (kind = 1 ∧ (i = .rput p a b ∨ i = .fsend p a b ∨ i = .fsendDefer p a b)) ∨ (kind = 2 ∧ ∃ o, i = .fcomb p a b o) →
      s.Ready i → desc b → s.openChan a kind = none → exec i s = .next (trap i .prot (s.sreg a))) ∧
    (let i : Instr := .rget p a b
     s.Ready i → desc b → s.openChan a 1 = none →
      ∃ m u, exec i s = .next ((s.mark m u false).takeTrap .prot (s.sreg a) (s.readLabel i) s.split.pc p)) ∧
    (∀ (h : Nat) (ch : Chan), desc b → s.openChan a 1 = some (h, ch) →
      (let i : Instr := .rput p a b
       let cs := s.rangeChk .load (remLaddr x) 8 (remLen x)
       let lrem := s.srcLabel cs ||| base
       s.Ready i → remMalformed x true = false → s.localStop cs [] (remBo x) (remBobj x) = none →
        (Label.dom ch.cl lrem = false → exec i s = .next (trap i .lblSend (wordOf i))) ∧
        (Label.dom ch.cl lrem = true → SourcesFree s cs → room → Completes i s fun t =>
          ∃ o bs bad gone, StartsOp s t (s.nextPc p) o ∧ o.reads = [] ∧ o.kind = .put x h lrem (some bs) bad gone ∧
            ReadsRange s cs 8 (remLen x) bs)) ∧
      (let i : Instr := .rget p a b
       let ds := s.rangeAt .store (remLaddr x) 8 (remLen x)
       let st := s.rangeAt .store (remStaddr x) 8 8
       s.Ready i → remMalformed x false = false → s.localStop [] ((ds ++ st).map Prod.snd) (remBo x) (remBobj x) = none →
        s.acceptStop (ch.cl ||| base) (ds ++ st) = none → room → Completes i s fun t =>
          ∃ o, StartsOp s t (s.nextPc p) o ∧
            o.kind = .get x h base (ds.map fun d => d.2.key) (st.head?.bind fun d => d.2.key) ∧
            t.outbox = s.outbox ++ [.get (peerAddr (s.chanPeer s.warp.ctx ch))
              { ctx := peerCtx (s.chanPeer s.warp.ctx ch), srcAddr := Config.fabricAddr, srcCtx := s.warp.ctx, handle := h,
                raddr := fieldOf x 64 57, len := remLen x, tag := o.id }]) ∧
      (∀ defer : Bool,
        let i : Instr := if defer then .fsendDefer p a b else .fsend p a b
        let len := fieldOf x 64 32
        let cs := s.rangeChk .load (BitVec.ofNat 64 (fieldOf x 0 64)) 8 len
        let st := s.copyChk .store (BitVec.ofNat 64 (fieldOf x 192 64)) 8
        let lrem := s.srcLabel cs ||| base
        s.Ready i → sendMalformed x ch = false → s.localStop cs [st] (bitOf x 160) (sendBobj x) = none →
        (Label.dom ch.cl lrem = false → exec i s = .next (trap i .lblSend (wordOf i))) ∧
        (Label.dom ch.cl lrem = true → SourcesFree s cs → room → Completes i s fun t =>
          ∃ o bs bad gone, StartsOp s t (s.nextPc p) o ∧ o.reads = [] ∧
            o.kind = .send x h ch.seq lrem defer (some bs) bad gone st.key ∧ ReadsRange s cs 8 len bs ∧
            (t.chanAt s.warp.ctx h).seq = ch.seq + 1))) ∧
    (∀ (h : Nat) (ch : Chan) (o : CombOp),
      let i : Instr := .fcomb p a b o
      let e := combBytes (fieldOf x 384 4)
      let len := combLen (combCode o) (fieldOf x 384 4) (fieldOf x 368 16)
      let la : Word := BitVec.ofNat 64 (fieldOf x 0 64)
      let ra : Word := BitVec.ofNat 64 (fieldOf x 64 64)
      let cs := s.rangeChk .load la (stepOf la e) len
      let ds := s.rangeAt .store ra (stepOf ra e) len
      let st := s.rangeAt .store (BitVec.ofNat 64 (fieldOf x 128 64)) 8 8
      let lrem := s.srcLabel cs ||| base
      desc b → s.openChan a 2 = some (h, ch) → s.Ready i → combMalformed x o = false →
      s.localStop cs ((ds ++ st).map Prod.snd) false 0 = none →
      (Label.dom ch.cl lrem = false → exec i s = .next (trap i .lblSend (wordOf i))) ∧
      (Label.dom ch.cl lrem = true → s.acceptStop (ch.cl ||| lrem) (ds ++ st) = none → SourcesFree s cs → room →
        Completes i s fun t => ∃ y bs bad unread, StartsOp s t (s.nextPc p) y ∧ y.reads = [] ∧
          y.kind = .comb x h o lrem (some bs) bad unread (ds.map fun d => d.2.key) (st.head?.bind fun d => d.2.key) ∧
          ((∀ c ∈ cs, c.key.isSome = true) → unread = false ∧ ReadsRange s cs (stepOf la e) len bs))) ∧
    (∀ d : Sys2Proof.SNum,
      let i : Instr := .fopen p d a b
      let e := s.ctx.peer (fieldOf x 0 16)
      let free (h : Nat) : Prop := (s.chanAt s.warp.ctx h).used = false
      let cl : Label := (s.sreg b).setWidth 16
      let clear : Label := BitVec.ofNat 16 (fieldOf (s.ctx.peer (fieldOf x 0 16)) 96 16)
      let good : Prop := Label.dom clear cl = true ∧ Label.dom s.owners cl = true ∧ Label.dom cl base = true
      s.Ready i → desc a → (∃ h, 1 ≤ h ∧ h ≤ 64 ∧ free h) → s.chanBad x = false →
      (good → s.held = [] → Completes i s fun t => ∃ h, 1 ≤ h ∧ h ≤ 64 ∧
        (free h ∨ (s.chanAt s.warp.ctx h).awaitsPuts = true) ∧ (∀ g, 1 ≤ g → g < h → ¬free g) ∧
        GoesTo s t (s.nextPc p) ∧ SameMemory s t ∧ (d ≠ 0 → t.sreg d = BitVec.ofNat 64 h) ∧
        t.chanAt s.warp.ctx h = { Chan.blank with
          used := true, opened := true, desc := x, cl := cl
          doneSeqs := (s.ctx.missed.filter fun m => m.pch = h && m.addr = peerAddr e && m.ctx = peerCtx e &&
            m.handle = fieldOf x 16 8).map MissedSend.seq }) ∧
      (¬good → ∃ m u, exec i s = .next ((s.mark m u false).takeTrap .lblSend (wordOf i) (s.readLabel i) s.split.pc p))) ∧
    (let i : Instr := .fclose p a
     let h := (s.sreg a).toNat
     let ch := s.chanAt s.warp.ctx h
     s.Ready i →
      (ch.opened = true → Completes i s fun t => GoesTo s t (s.nextPc p) ∧ SameMemory s t ∧ t.warp.sregs = s.warp.sregs ∧
        t.chanAt s.warp.ctx h = if ch.ops = [] ∧ ch.far = false then Chan.blank else { ch with opened := false }) ∧
      (ch.opened = false → exec i s = .next (s.takeTrap .prot (s.sreg a) (s.readLabel i) s.split.pc p)))

/-- 13 R222, R223, 19 R323, R324, R327: an operation's source bytes leave as one message; what comes back is written to
its places, then its stamp or status, and the operation has ended. A failure's value has bit 63 set. A send whose channel's
key slot holds no key of the context fails with status 4 (20 R331, R349), and later messages of the channel carry its
sequence number (log 49). -/
def Obligations.RemoteOperationsEnd : Prop :=
  ∀ (s : State) (id : Nat) (o : Op), s.opAt id = some o →
    (∀ (x : BitVec 512) (h : Nat) (lrem : Label) (bs : List Byte) (bad gone : List Nat),
      o.kind = .put x h lrem (some bs) bad gone → o.reads = [] → Completes (.remoteSourceRead id) s fun t =>
        let e := s.chanPeer o.ctx (s.chanAt o.ctx h)
        Ends s t id ∧ (t.chanAt o.ctx h).far = true ∧ t.outbox.getLast? = some (.put (peerAddr e)
          { ctx := peerCtx e, srcAddr := Config.fabricAddr, srcCtx := o.ctx, handle := h, raddr := fieldOf x 64 57,
            staddr := fieldOf x 256 64, sval := BitVec.ofNat 64 (remSval x), payload := bs,
            bad := if o.bad then offsetsOf bs.length else bad, gone := gone }) ∧
        ∀ a, ¬InObject s o (remBo x) (remBobj x) a → t.byteAt a = s.byteAt a) ∧
    (∀ (x : BitVec 512) (h q : Nat) (lrem : Label) (defer : Bool) (bs : List Byte) (bad gone : List Nat) (st : Option Nat),
      let ch := s.chanAt o.ctx h
      let e := s.chanPeer o.ctx ch
      let keyed := s.slotOk (fieldOf ch.desc 24 8) 4 o.ctx
      o.kind = .send x h q lrem defer (some bs) bad gone st → o.reads = [] →
      (keyed = false → s.claimed id st.toList = false → Completes (.remoteSourceRead id) s fun t =>
        Ends s t id ∧ t.outbox = s.outbox ∧ (∀ k, st = some k → leNat (t.bytesAt k 8) = 2 ^ 63 + 4) ∧
        (ch.opened = true → (t.chanAt o.ctx h).failed = ch.failed ++ [q]) ∧
        ∀ a, ¬InWord st a → ¬InObject s o (bitOf x 160) (sendBobj x) a → t.byteAt a = s.byteAt a) ∧
      (keyed = true → Completes (.remoteSourceRead id) s fun t =>
        t.opAt id = some { o with kind := .send x h q lrem defer none bad gone st, since := s.cycle } ∧
        t.outbox.getLast? = some (.send (peerAddr e)
          { ctx := peerCtx e, srcAddr := Config.fabricAddr, srcCtx := o.ctx, handle := h, pch := ch.pch, seq := q,
            len := fieldOf x 64 32, tag := BitVec.ofNat 32 (fieldOf x 96 32), payload := bs,
            bad := if o.bad then offsetsOf bs.length else bad, gone := gone, defer := defer, opTag := id,
            failed := ch.failed }) ∧
        ∀ a, ¬InObject s o (bitOf x 160) (sendBobj x) a → t.byteAt a = s.byteAt a)) ∧
    (∀ (x : BitVec 512) (h : Nat) (c : CombOp) (lrem : Label) (bs : List Byte) (bad unread : Bool)
      (ds : List (Option Nat)) (st : Option Nat),
      o.kind = .comb x h c lrem (some bs) bad unread ds st → o.reads = [] → Completes (.remoteSourceRead id) s fun t =>
        let e := s.chanPeer o.ctx (s.chanAt o.ctx h)
        t.opAt id = some { o with kind := .comb x h c lrem none bad unread ds st } ∧ SameMemory s t ∧
        ∃ hdr, t.outbox = s.outbox ++ [.frame (peerAddr e) hdr bs (bad || o.bad)] ∧ fieldOf hdr 244 4 = 0 ∧
          fieldOf hdr 240 4 = combCode c ∧ fieldOf hdr 236 4 = fieldOf x 384 4 ∧
          fieldOf hdr 232 4 = (if unread then 4 else 0) ∧ fieldOf hdr 208 16 = fieldOf x 352 16 ∧
          fieldOf hdr 192 16 = fieldOf e 80 16 ∧ fieldOf hdr 176 16 = fieldOf e 64 16 ∧
          fieldOf hdr 160 16 = fieldOf x 368 16 ∧ fieldOf hdr 128 32 = fieldOf x 320 32 ∧
          fieldOf hdr 64 64 = fieldOf x 256 64) ∧
    (∀ (x : BitVec 512) (h : Nat) (lrem : Label) (ds : List (Option Nat)) (st : Option Nat) (r : GetReply),
      o.kind = .get x h lrem ds st → s.claimed id (ds.filterMap (fun d => d) ++ st.toList) = false →
      Completes (.rgetDataReturn id r) s fun t =>
        let v := if r.failed = true ∨ r.gone ≠ [] then remSval x % 2 ^ 63 + 2 ^ 63 else remSval x
        Ends s t id ∧ Lands s t r.data 8 (remLen x) r.gone (if r.failed then [] else ds)
          (fun a => InWord st a ∨ InObject s o (remBo x) (remBobj x) a) ∧
        ∀ k, st = some k → (∀ i < 8, ¬InObject s o (remBo x) (remBobj x) (k + i)) → leNat (t.bytesAt k 8) = v) ∧
    (∀ (x : BitVec 512) (h q : Nat) (lrem : Label) (defer : Bool) (bad gone : List Nat) (st : Option Nat),
      o.kind = .send x h q lrem defer none bad gone st → s.claimed id st.toList = false →
      let ends (i : Instr) (v : Nat) : Prop := Completes i s fun t =>
        Ends s t id ∧ (∀ a, ¬InWord st a → t.byteAt a = s.byteAt a) ∧ ∀ k, st = some k → leNat (t.bytesAt k 8) = v
      ends (.sendStatus id 1) 1 ∧ (∀ f, 1 < f → f < 2 ^ 63 → ends (.sendStatus id f) (2 ^ 63 + f)) ∧
        (o.since + 2 ^ 26 ≤ s.cycle → ends (.sendUnreachable id) (2 ^ 63 + 4) ∧
          ((s.chanAt o.ctx h).opened = true → Completes (.sendUnreachable id) s fun t =>
            (t.chanAt o.ctx h).failed = (s.chanAt o.ctx h).failed ++ [q]))) ∧
    (∀ (x : BitVec 512) (h : Nat) (c : CombOp) (lrem : Label) (bad unread : Bool) (ds : List (Option Nat))
      (st : Option Nat) (hdr : BitVec 256) (y : List Byte),
      let e := stepOf (BitVec.ofNat 64 (fieldOf x 64 64)) (combBytes (fieldOf x 384 4))
      let len := combLen (combCode c) (fieldOf x 384 4) (fieldOf x 368 16)
      o.kind = .comb x h c lrem none bad unread ds st → s.claimed id (ds.filterMap (fun d => d) ++ st.toList) = false →
      Completes (.combineResult id hdr y) s fun t =>
        let v := fieldOf x 192 64
        Ends s t id ∧ Lands s t y e len [] (if fieldOf hdr 244 4 = 1 then ds else []) (InWord st) ∧
        ∀ k, st = some k → leNat (t.bytesAt k 8) = if fieldOf hdr 244 4 = 1 then v else v % 2 ^ 63 + 2 ^ 63)

/-- 13 R223, 19 R324, 21 R358: what arrives from a peer is carried out over the channel that answers it, or held; a
held operation ends once its channel or its ring lets it in, or fails after 2^26 cycles. 19 R326: a combining Olnas
keeps a round until every rank has contributed, then sends each the same outcome: the combination, or a failure code. -/
def Obligations.PeersAndCombinersAreServed : Prop :=
  (∀ (s : State),
      (∀ (m : PutMsg) (n : Nat) (ch : Chan) (k0 : Nat) (c0 : Label),
        let cs := s.farChks m.ctx [] m.raddr m.payload.length
        (s.ctxAt m.ctx).live = true → s.answering m.ctx m.srcAddr m.srcCtx m.handle = some (n, ch) →
        s.farChk m.ctx [] .store m.staddr = .ok k0 c0 → s.accepts k0 c0 ch.cl = true →
        (∀ c ∈ cs, m.gone.contains c.1.1 = false → c.2.page = none) → Completes (.remotePutArrival m) s fun t =>
          Lands s t m.payload 8 m.payload.length m.gone (arriving s ch.cl cs) (InWord (some k0)) ∧
          ((∀ c ∈ arriving s ch.cl cs, c.isSome = true) → (∀ c ∈ cs, m.gone.contains c.1.1 = false) →
            leNat (t.bytesAt k0 8) = m.sval.toNat) ∧
          ((none ∈ arriving s ch.cl cs ∨ ∃ c ∈ cs, m.gone.contains c.1.1 = true) →
            leNat (t.bytesAt k0 8) = m.sval.toNat % 2 ^ 63 + 2 ^ 63)) ∧
      (∀ (m : GetMsg) (n : Nat) (ch : Chan),
        let cs := (cut 8 m.len).map fun p => (p, s.farChk m.ctx [] .load (m.raddr + p.1))
        (s.ctxAt m.ctx).live = true → s.answering m.ctx m.srcAddr m.srcCtx m.handle = some (n, ch) →
        (∀ c ∈ cs, c.2.page = none) → Completes (.remoteGetArrival m) s fun t =>
          SameMemory s t ∧ ∃ r, t.outbox.getLast? = some (.getReply m.srcAddr m.tag r) ∧ r.failed = false ∧
          r.data.length = m.len ∧
          ∀ (p : Nat × Nat) (k : Nat) (ceil : Label), (p, .ok k ceil) ∈ cs →
            (Label.dom ch.cl (s.granLbl k) = true → EngineReads s [] k p.2 ((r.data.drop p.1).take p.2)) ∧
            (Label.dom ch.cl (s.granLbl k) = false → (r.data.drop p.1).take p.2 = allOnes p.2)) ∧
      (∀ k : HeldKind,
        let c := match k with
          | .put m => m.ctx
          | .get m => m.ctx
          | .send m => m.ctx
        let who := match k with
          | .put m => s.answering m.ctx m.srcAddr m.srcCtx m.handle
          | .get m => s.answering m.ctx m.srcAddr m.srcCtx m.handle
          | .send _ => none
        let i : Instr := match k with
          | .put m => .remotePutArrival m
          | .get m => .remoteGetArrival m
          | .send m => .sendArrival m
        (∀ m, k ≠ .send m) → (s.ctxAt c).live = false ∨ who = none → Completes i s fun t =>
          SameMemory s t ∧ t.outbox = s.outbox ∧ ∃ h, t.held = s.held ++ [h] ∧ h.kind = k ∧ h.since = s.cycle ∧
            h.failed = false) ∧
      (∀ (m : SendMsg) (head tail : Nat), Admits s [] m head tail → m.gone = [] →
        (m.seq < leNat (s.bytesAt head 8) + (s.chanAt m.ctx m.pch).slots →
          Completes (.sendArrival m) s fun t => DeliversSend s t [] m tail) ∧
        (leNat (s.bytesAt head 8) + (s.chanAt m.ctx m.pch).slots ≤ m.seq →
          (m.defer = true → Completes (.sendArrival m) s fun t => SameMemory s t ∧
            ∃ h, t.held = s.held ++ [h] ∧ h.kind = .send m ∧ h.ring = true) ∧
          (m.defer = false → Completes (.sendArrival m) s fun t =>
            (∀ a, ¬InWord (some tail) a → t.byteAt a = s.byteAt a) ∧
            (∀ n, TailPasses s m n → leNat (t.bytesAt tail 8) = n % 2 ^ 64) ∧
            t.outbox.getLast? = some (.sendStatus m.srcAddr m.opTag 2)))) ∧
      (∀ m : SendMsg, (s.chanAt m.ctx m.pch).opened = false → Completes (.sendArrival m) s fun t =>
        SameMemory s t ∧ t.outbox = s.outbox ++ [.sendStatus m.srcAddr m.opTag 4] ∧
        ((s.ctxAt m.ctx).live = true → (t.ctxAt m.ctx).missed = (s.ctxAt m.ctx).missed ++
          (m.seq :: m.failed).map fun q => ⟨m.pch, m.srcAddr, m.srcCtx, m.handle, q⟩)) ∧
      (∀ (h : Held) (m : SendMsg) (head tail : Nat), (s.held.find? fun x => x.id = h.id) = some h → h.kind = .send m →
        h.ring = true → Admits s h.declined m head tail → m.gone = [] →
        m.seq < leNat (s.bytesAt head 8) + (s.chanAt m.ctx m.pch).slots → Completes (.sendDeferAdmit h.id) s fun t =>
          DeliversSend s t h.declined m tail ∧ ∀ x ∈ t.held, x.id ≠ h.id) ∧
      (∀ h : Held, (s.held.find? fun x => x.id = h.id) = some h → h.failed = false → h.since + 2 ^ 26 ≤ s.cycle →
        (∀ (m : GetMsg), h.kind = .get m →
          s.answering m.ctx m.srcAddr m.srcCtx m.handle = none → Completes (.remoteHoldTimeout h.id) s fun t =>
            (∀ x ∈ t.held, x.id ≠ h.id) ∧ SameMemory s t ∧
            ∃ r, t.outbox.getLast? = some (.getReply m.srcAddr m.tag r) ∧ r.failed = true) ∧
        (∀ (m : PutMsg) (k : Nat) (ceil : Label), h.kind = .put m → (s.ctxAt m.ctx).live = true →
          s.answering m.ctx m.srcAddr m.srcCtx m.handle = none → s.farChk m.ctx h.declined .store m.staddr = .ok k ceil →
          s.accepts k ceil 0 = true → Completes (.remoteHoldTimeout h.id) s fun t =>
            (∀ x ∈ t.held, x.id ≠ h.id) ∧ (∀ a, ¬InWord (some k) a → t.byteAt a = s.byteAt a) ∧
            leNat (t.bytesAt k 8) = m.sval.toNat % 2 ^ 63 + 2 ^ 63) ∧
        (∀ m : PutMsg, h.kind = .put m → (s.ctxAt m.ctx).live = false →
          s.answering m.ctx m.srcAddr m.srcCtx m.handle = none → Completes (.remoteHoldTimeout h.id) s fun t =>
            SameMemory s t ∧ t.outbox = s.outbox ∧ ∀ x ∈ t.held, x.id ≠ h.id))) ∧
  (∀ (s : State) (src : BitVec 128) (hdr : BitVec 256) (payload : List Byte) (bad : Bool) (r : Round),
      let g := fieldOf hdr 208 16
      let q := fieldOf hdr 128 32
      let rank := fieldOf hdr 176 16
      let n := fieldOf r.hdr 192 16
      let parts := r.parts ++ [(rank, src, payload)]
      let i : Instr := .combinerContribution src hdr payload bad
      let same : Prop := ∀ x ∈ [(240, 4), (236, 4), (160, 16), (192, 16), (64, 64)],
        fieldOf hdr x.1 x.2 = fieldOf r.hdr x.1 x.2
      let told (t : State) (ps : List (Nat × BitVec 128 × List Byte)) (kind code : Nat) (y : List Byte) : Prop :=
        ∃ h, t.outbox = s.outbox ++ ps.map (fun p => .frame p.2.1 h y false) ∧ fieldOf h 244 4 = kind ∧
          fieldOf h 232 4 = code ∧ fieldOf h 208 16 = fieldOf r.hdr 208 16 ∧ fieldOf h 128 32 = fieldOf r.hdr 128 32 ∧
          (t.rounds.find? fun x => x.group = r.group && x.seq = r.seq) =
            some { r with parts := ps, outcome := some (h, y) }
      let find : Option Round := s.rounds.find? fun x => x.group = g && x.seq = q
      r.group = g → r.seq = q →
      (∀ h y, fieldOf hdr 248 8 = 1 → fieldOf hdr 244 4 = 0 → find = some r → r.outcome = some (h, y) →
        exec i s = .next (s.send (.frame src h y false))) ∧
      (r.outcome = none → fieldOf hdr 248 8 = 1 → fieldOf hdr 244 4 = 0 →
        (find = some r → (∃ p ∈ r.parts, p.1 = rank) → exec i s = .next s) ∧
        (find = none → fieldOf hdr 232 4 = 0 → bad = false → 1 < fieldOf hdr 192 16 → Completes i s fun t =>
          t.outbox = s.outbox ∧ (t.rounds.find? fun x => x.group = g && x.seq = q) =
            some ⟨g, q, s.cycle, hdr, [(rank, src, payload)], none⟩) ∧
        (find = some r → (∀ p ∈ r.parts, p.1 ≠ rank) →
          (same → fieldOf hdr 232 4 = 0 → bad = false → (∀ k < n, ∃ p ∈ parts, p.1 = k) → Completes i s fun t =>
            ∃ y, told t parts 1 0 y ∧
              ∀ j < fieldOf r.hdr 160 16, Combines (fieldOf r.hdr 240 4) (fieldOf r.hdr 236 4) (fieldOf r.hdr 64 64) j
                ((List.range n).map fun k => ((parts.find? fun p => p.1 = k).map fun p => p.2.2).getD []) y) ∧
          (same → fieldOf hdr 232 4 = 0 → bad = true → Completes i s fun t => told t parts 2 3 []) ∧
          (¬same → fieldOf hdr 232 4 ≠ 4 → Completes i s fun t => told t parts 2 1 []) ∧
          (fieldOf hdr 232 4 = 4 → Completes i s fun t => told t parts 2 4 []))) ∧
      (find = some r → r.outcome = none → Completes (.combinerTimeout g q) s fun t =>
        if Config.groupTimeout g ≠ 0 ∧ r.since + Config.groupTimeout g * 2 ^ 16 ≤ s.cycle then told t r.parts 2 2 []
        else t = s))

/-! ## The matrix engine -/

/-- 14 R231 to R233, 15 R249 to R263: the words that load and free B slots, set the view of A and the scales, issue
quarters and read status. A descriptor that fails its checks traps PROT, Q64 without the part's support ILL. -/
def Obligations.MatrixInstructionsAct : Prop :=
  ∀ (s : State) (p : Bool) (a b d : Sys2Proof.SNum) (n : BitVec 2) (x : Nat) (lbl : Label),
    let core := s.coreNo
    let slot := s.bslotAt core n.toNat
    let pc := s.nextPc p
    let trap (i : Instr) (c : Cause) (e : Word) : State := s.takeTrap c e (s.readLabel i) s.split.pc p
    let base := s.slbl a ||| s.slbl b ||| s.pcl ||| s.guardLbl
    (let i : Instr := .mldb p a b n
     let v : BitVec 32 := (s.sreg a + s.sreg b).setWidth 32
     let y := BitVec.ofNat 512 x
     s.Ready i → DescribesOwn s v 64 x lbl →
      (bMode y = 5 → s.part = .olL4 → exec i s = .next (trap i .ill (wordOf i))) ∧
      (bMode y ≠ 5 ∨ s.part = .olX8 →
        (bMalformed y = true → exec i s = .next (trap i .prot (v.setWidth 64))) ∧
        (bMalformed y = false → s.foreignSlot slot = true → exec i s = .next (trap i .prot (n.setWidth 64))) ∧
        (bMalformed y = false → s.foreignSlot slot = false → slot.st ≠ .loading → Completes i s fun t =>
          let z := t.bslotAt core n.toNat
          OnlyView s t pc ∧ z.st = .loading ∧ z.owner = s.warp.block ∧ z.desc = y ∧ z.scales = .empty ∧ z.freeing = false ∧
          (Label.dom s.owners (lbl ||| base) = true → Label.dom z.lbl (lbl ||| base) = true) ∧
          (∀ m, m ≠ n.toNat → t.bslotAt core m = s.bslotAt core m) ∧
          (t.coreAt core).groups = (s.coreAt core).groups.map fun g => if g.slot = n.toNat then { g with closed := true } else g))) ∧
    (let i : Instr := .mfree p n
     s.Ready i →
      (s.foreignSlot slot = true → exec i s = .next (trap i .prot (n.setWidth 64))) ∧
      (slot.st ≠ .empty → slot.owner = s.warp.block → Completes i s fun t => OnlyView s t pc ∧
        (slot.st ≠ .loading → (∀ g ∈ (s.coreAt core).groups, g.slot ≠ n.toNat) → t.bslotAt core n.toNat = BSlot.blank) ∧
        (slot.st = .loading ∨ (∃ g ∈ (s.coreAt core).groups, g.slot = n.toNat) →
          t.bslotAt core n.toNat = { slot with freeing := true } ∧
          ∀ g ∈ (t.coreAt core).groups, g.slot = n.toNat → g.closed = true)) ∧
      (slot.st = .empty ∨ (slot.owner ≠ s.warp.block ∧ s.foreignSlot slot = false) →
        Completes i s fun t => GoesOnly s t pc)) ∧
    (let i : Instr := .munf p a
     let v : BitVec 32 := (s.sreg a).setWidth 32
     let u := BitVec.ofNat 128 x
     s.Ready i → DescribesOwn s v 16 x lbl →
      (ufBad u = true → exec i s = .next (trap i .prot (v.setWidth 64))) ∧
      (ufBad u = false → Completes i s fun t => OnlyView s t pc ∧ t.warp.unfold = u ∧
        Stands s t t.warp.unfoldLbl (lbl ||| s.slbl a ||| s.pcl ||| s.guardLbl) ∧ t.warp.abase = s.warp.abase ∧
        t.warp.astr = s.warp.astr ∧ t.warp.aLbl = s.warp.aLbl)) ∧
    (let i : Instr := .mscaleA p a b
     let v : BitVec 32 := (s.sreg a).setWidth 32
     s.Ready i →
      (fieldOf (s.sreg b) 16 48 ≠ 0 → exec i s = .next (trap i .prot (s.sreg b))) ∧
      (fieldOf (s.sreg b) 16 48 = 0 → v.toNat % 4 ≠ 0 ∨ bitOf v 26 = true → exec i s = .next (trap i .prot (v.setWidth 64))) ∧
      (fieldOf (s.sreg b) 16 48 = 0 → v.toNat % 4 = 0 → bitOf v 26 = false → Completes i s fun t => OnlyView s t pc ∧
        t.warp.abase = v ∧ t.warp.astr = (s.sreg b).setWidth 16 ∧ Stands s t t.warp.aLbl base ∧
        t.warp.unfold = s.warp.unfold ∧ t.warp.unfoldLbl = s.warp.unfoldLbl)) ∧
    (let i : Instr := .mscaleB p a b
     let m := fieldOf (s.sreg b) 0 2
     let y := s.bslotAt core m
     let v : BitVec 32 := (s.sreg a).setWidth 32
     let len := 256 * bKg y.desc
     s.Ready i →
      (fieldOf (s.sreg b) 2 62 ≠ 0 ∨ y.st = .empty ∨ y.owner ≠ s.warp.block →
        exec i s = .next (trap i .prot (BitVec.ofNat 64 m))) ∧
      (fieldOf (s.sreg b) 2 62 = 0 → y.st ≠ .empty → y.owner = s.warp.block →
        (v.toNat % 4 ≠ 0 → exec i s = .next (trap i .align (v.setWidth 64))) ∧
        (v.toNat % 4 = 0 → bitOf v 26 = true ∨ (∀ k c, s.checkSp s.warp.block v len true ≠ .ok k c) →
          exec i s = .next (trap i .prot (v.setWidth 64)))) ∧
      (∀ (k : Nat) (ceil : Label), fieldOf (s.sreg b) 2 62 = 0 → y.st ≠ .empty → y.owner = s.warp.block →
        v.toNat % 4 = 0 → bitOf v 26 = false → s.checkSp s.warp.block v len true = .ok k ceil →
        (∀ j < len, s.heldBy (k + j) = [] ∧ s.poisoned (k + j) = false) → Completes i s fun t =>
          let z := t.bslotAt core m
          OnlyView s t pc ∧ z = { y with scales := z.scales, lbl := z.lbl } ∧
          (∃ bs, EngineReads s (s.warp.seenAll s.execLanes) k len bs ∧ ∀ j < 64 * bKg y.desc,
            z.scales.get scaleOne j = BitVec.ofNat 32 (leNat ((bs.drop (4 * j)).take 4))) ∧
          (∀ j, 64 * bKg y.desc ≤ j → z.scales.get scaleOne j = y.scales.get scaleOne j) ∧
          (let l := y.lbl ||| joinLabels ((List.range len).map fun j => s.granLbl (k + j)) ||| base
           Label.dom s.owners l = true → Label.dom z.lbl l = true))) ∧
    (∀ v : Sys2Proof.VNum,
      let i : Instr := .mmq p v
      let qs := (List.range 4).filter fun q => s.lanes.any fun l => l / 8 = q
      let count (u : State) : Nat := ((u.coreAt core).groups.map fun g => g.quarters.length).sum
      let word (q j : Nat) : BitVec 32 := (s.vlane v.toNat (8 * q + j)).val
      s.Ready i →
      (∀ q j, (qs.findSome? fun q => (s.quarterFail v q).map fun i => (q, i)) = some (q, j) →
        exec i s = .next (trap i .prot ((word q j).setWidth 64))) ∧
      ((∀ q ∈ qs, s.quarterFail v q = none ∧ (s.bslotAt core (fieldOf (word q 3) 0 2)).st ≠ .poisoned) →
        count s + qs.length ≤ 64 → s.rowsHeld v qs = [] → OwnNames s core → Completes i s fun t =>
          OnlyView s t pc ∧ count t = count s + qs.length ∧ (t.coreAt core).bslots = (s.coreAt core).bslots ∧
          ∀ q ∈ qs, ∃ g ∈ (t.coreAt core).groups, g.slot = fieldOf (word q 3) 0 2 ∧ g.g = (word q 2).toNat ∧
            ∃ y ∈ g.quarters, y.q = q ∧ y.uid = s.warp.uid ∧ y.row0 = (word q 1).toNat ∧
              y.acc = fieldOf (word q 0) 0 22 ∧ y.zero = bitOf (word q 3) 2 ∧ y.unfold = s.warp.unfold) ∧
      ((∀ q ∈ qs, s.quarterFail v q = none) → (∃ q ∈ qs, (s.bslotAt core (fieldOf (word q 3) 0 2)).st = .poisoned) →
        exec i s = .next (s.haltWarp s.cur s.split.pc .poison 0 0))) ∧
    (s.Ready (.mstat p d false) → s.passPending s.warp.uid = false → Completes (.mstat p d false) s fun t =>
      WritesScalar s t pc d (s.warp.mstat.setWidth 64) (s.label s.warp.mslbl ||| s.pcl ||| s.guardLbl) none) ∧
    (s.Ready (.mstat p d true) → s.passPending s.warp.uid = false → Completes (.mstat p d true) s fun t =>
      OnlyWarp s t ∧ GoesTo s t pc ∧ (d ≠ 0 → t.sreg d = s.warp.mstat.setWidth 64) ∧ t.warp.mstat = 0 ∧ t.warp.mslbl = 0) ∧
    (s.Ready (.mchk p d false) → s.passPending s.warp.uid = false → Completes (.mchk p d false) s fun t =>
      WritesScalar s t pc d (s.warp.chkcnt.setWidth 64) (s.pcl ||| s.guardLbl) none) ∧
    (s.Ready (.mchk p d true) → s.passPending s.warp.uid = false → Completes (.mchk p d true) s fun t =>
      OnlyWarp s t ∧ GoesTo s t pc ∧ (d ≠ 0 → t.sreg d = s.warp.chkcnt.setWidth 64) ∧ t.warp.chkcnt = 0) ∧
    (∀ (c : Bool) (i : Instr), (i = .mstat p d c ∨ i = .mchk p d c) → s.Ready i → s.passPending s.warp.uid = true →
      Completes i s fun t => OnlyWarp s t ∧ t.warp = { s.warp with splits := t.warp.splits } ∧ t.split.pc = s.split.pc ∧
        t.split.st = .swait (if i = .mstat p d c then .mstat d c else .mchk d c))

/-- 14 R229, R230, R233 to R245: a slot holds the decrypted blocks of its load; a group launches four cycles after it
opened, or full; a pass multiplies its rows with the slot's columns, and each quarter drains into its tile. -/
def Obligations.MatrixPassesCompute : Prop :=
  ∀ (s : State) (core id : Nat) (g : Group),
    (∀ slot : Nat,
      let x := s.bslotAt core slot
      let r := portLoad core slot (bLoad x.desc) [] s
      let b := s.blockAt x.owner
      let key := leBytes 32 (s.tack.slots.get KeySlot.blank (fieldOf x.desc 160 8)).key.toNat
      let iv (m : Nat) : List Byte := leBytes 8 (fieldOf x.desc 192 64) ++ leBytes 4 m
      let declined := (s.faults.filter fun f => f.who = FaultFor.slot core slot && f.no).map PFault.page
      let tensor (m : Nat) (ct : List Byte) : Prop := ∃ k ceil, EngineReads s x.hb k 512 ct ∧
        s.checkVa core b.ctx x.priv (s.launchAt b.lseq).pure declined .load (BitVec.ofNat 64 (fieldOf x.desc 0 57 + 512 * m)) =
          .ok k ceil
      x.st = .loading → (∀ y ∈ (s.coreAt core).groups, y.slot = slot → y.plain = none) →
      (∀ pt, r.1.1 = some pt → x.freeing = false → Completes (.slotLoad core slot) s fun t =>
        (t.bslotAt core slot).st = .ready ∧ (t.bslotAt core slot).plain = pt ∧ (t.bslotAt core slot).desc = x.desc ∧
        SameMemory s t ∧ ∃ pts : List (List Byte), pt = pts.flatten ∧ pts.length = (bLoad x.desc).length ∧
          ∀ (j m : Nat), (bLoad x.desc)[j]? = some m → ∃ ct tag,
            (j = 0 → tensor m ct) ∧ (gcmOpen key (iv m) ct tag).isSome = true ∧ pts[j]? = gcmOpen key (iv m) ct tag) ∧
      (r.1.1 = none → r.1.2.1 = none → x.freeing = false → (∀ y ∈ (s.coreAt core).groups, y.slot ≠ slot) →
        Completes (.slotLoad core slot) s fun t => (t.bslotAt core slot).st = .poisoned)) ∧
    (OwnNames s core → g ∈ (s.coreAt core).groups → g.id = id → g.launched = false → g.plain.isSome = true →
      (g.opened + 4 ≤ s.cycle ∨ 4 ≤ g.quarters.length) → Completes (.passGroupLaunch core id) s fun t =>
        SameMemory s t ∧ (t.coreAt core).groups.filter Group.launched =
          (s.coreAt core).groups.filter Group.launched ++ [{ g with closed := true, launched := true }]) ∧
    ((s.coreAt core).groups.find? (fun y => y.launched && y.results.isNone) = some g → g.id = id → g.quarters ≠ [] →
      (∀ q ∈ g.quarters, RowsReady s g q) → Completes (.passExecute core id []) s fun t =>
        SameMemory s t ∧ ∃ y ∈ (t.coreAt core).groups, y.id = id ∧ y.quarters = g.quarters ∧ ∃ rs, y.results = some rs ∧
          ∀ (n : Nat) (q : Quarter), g.quarters[n]? = some q → ∃ r, rs[n]? = some r ∧
            Label.dom r.lbl (q.unfoldLbl ||| q.aLbl ||| g.slotLbl ||| q.c) = true ∧
            ∀ i < 8, ∃ bs, RowReads s g q (q.row0 + i) bs ∧ ∀ j < 64, ∃ vals, r.vals[64 * i + j]? = some vals ∧
              PassElement g.desc (aElems g.desc bs) (bElems g.desc (g.plain.getD []) g.g j) vals) ∧
    (∀ (q : Quarter) (r : QResult),
      let w := 8 * accBytesOf g.desc
      let k := scratchKey q.block q.acc
      let old (m : Nat) : Nat := if q.zero then 0 else leNat (s.bytesAt (k + w / 8 * m) (w / 8))
      (s.coreAt core).groups.find? (fun y => y.id = id) = some g → g.quarters = [q] → g.results = some [r] →
      s.drainWaits core q = false → q.acc + 64 * w ≤ 2 ^ 48 → Completes (.passDrain core id) s fun t =>
        (∀ y ∈ (t.coreAt core).groups, ∀ z ∈ y.quarters, z.id ≠ q.id) ∧
        (∀ a, ¬(k ≤ a ∧ a < k + 64 * w) → t.byteAt a = s.byteAt a) ∧
        ∀ (m : Nat) (vals : List Int), m < 512 → r.vals[m]? = some vals →
          Accumulates g.desc (old m) vals (leNat (t.bytesAt (k + w / 8 * m) (w / 8))))

/-! ## Privileged instructions -/

/-- 20 R346 to R356, 22 R361 to R364: translations are invalidated, key slots zeroised and read, and scrub jobs started,
carried out and assigned, as the operands say; operands out of the Pavilion's reach trap PROT. -/
def Obligations.PrivilegedInstructionsAct : Prop :=
  ∀ (s : State) (p : Bool) (a b d : Sys2Proof.SNum),
    let pc := s.nextPc p
    let v := s.sreg a
    let w := s.sreg b
    let trap (i : Instr) (e : Word) (page : Bool) : State := s.takeTrap .prot e (s.readLabel i) s.split.pc p page
    let result (t : State) (x : Nat) : Prop := GoesTo s t pc ∧ (d ≠ 0 → t.sreg d = BitVec.ofNat 64 x) ∧
      (d ≠ 0 → HasRoom s s.pcl → t.slbl d = s.pcl)
    (∀ (r : TlbS) (c : Nat),
      let i : Instr := .tlbinv p a b r
      let lo := fieldOf v 0 57
      let n := w.toNat
      let reach (core : Nat) : Prop := match r with
        | .core => core = s.coreNo
        | .die => dieOf core = dieOf s.coreNo
        | .dev => True
      let reachDie (die : Nat) : Prop := match r with
        | .core => False
        | .die => die = dieOf s.coreNo
        | .dev => True
      let hit (e : Nat × Nat × BitVec 128 × Nat) : Prop := e.1 = c ∧ (n = 0 ∨ (e.2.1 < lo + n ∧ lo < e.2.1 + e.2.2.2))
      s.Ready i →
      (bitOf v 63 = false → s.byIndex s.ctx.pav (fieldOf v 57 6) = some c → lo % 2 ^ 16 = 0 → n % 2 ^ 16 = 0 →
        Completes i s fun t => GoesTo s t pc ∧ SameMemory s t ∧ t.warp.sregs = s.warp.sregs ∧
          (∀ core e, e ∈ (t.coreAt core).tlb ↔ e ∈ (s.coreAt core).tlb ∧ ¬(reach core ∧ hit e)) ∧
          ∀ die e, e ∈ t.dieTlb.get [] die ↔ e ∈ s.dieTlb.get [] die ∧ ¬(reachDie die ∧ hit e))) ∧
    (∀ (l : Level) (c : Nat),
      let pages := s.pagesIn c (fieldOf v 0 57) w.toNat
      let cfg := (s.pavAt s.ctx.pav).cfg
      let inside (core : Nat) : Prop := fieldOf cfg 0 8 ≤ core / 4 ∧ core / 4 ≤ fieldOf cfg 8 8
      s.Ready (.cinv p a b l) → bitOf v 63 = false →
      s.byIndex s.ctx.pav (fieldOf v 57 6) = some c → fieldOf v 0 57 % 2 ^ 16 = 0 → w.toNat % 2 ^ 16 = 0 →
      Completes (.cinv p a b l) s fun t => GoesTo s t pc ∧ SameMemory s t ∧
        t.warp = { s.warp with splits := t.warp.splits } ∧ (∀ k, k ≠ s.cur → t.warpAt k = s.warpAt k) ∧
        (∀ core y, y ∈ (t.coreAt core).l1 ↔ y ∈ (s.coreAt core).l1 ∧ ¬(inside core ∧ y / 512 ∈ pages)) ∧
        ∀ g, t.phys.clean.get 0 g = if l = .llc ∧ g ∈ pages then s.nextId else s.phys.clean.get 0 g) ∧
    (∀ i : Instr, ((∃ r, i = .tlbinv p a b r) ∨ ∃ l, i = .cinv p a b l) → s.Ready i →
      let unnamed : Prop := bitOf v 63 = true ∨ s.byIndex s.ctx.pav (fieldOf v 57 6) = none ∨ fieldOf v 0 57 % 2 ^ 16 ≠ 0
      (unnamed → exec i s = .next (trap i v false)) ∧
      (¬unnamed → w.toNat % 2 ^ 16 ≠ 0 → exec i s = .next (trap i w false))) ∧
    (let i : Instr := .kzero p a b
     let own : Prop := ∀ k, v.toNat ≤ k → k < v.toNat + w.toNat → (s.keySlot k).used = true → (s.keySlot k).pav = s.ctx.pav
     s.Ready i →
      (w.toNat ≠ 0 → v.toNat + w.toNat ≤ 256 → v.toNat ≠ 0 → own → s.slotsBusy v.toNat w.toNat s.nextId = false →
        Completes i s fun t => GoesTo s t pc ∧ SameMemory s t ∧ t.warp.sregs = s.warp.sregs ∧
        ∀ k, t.keySlot k = if v.toNat ≤ k ∧ k < v.toNat + w.toNat then KeySlot.blank else s.keySlot k) ∧
      (w.toNat ≠ 0 → v.toNat + w.toNat ≤ 256 → v.toNat ≠ 0 → own → s.slotsBusy v.toNat w.toNat s.nextId = true →
        Completes i s fun t => OnlyWarp s t ∧ t.split.st = .swait (.kzero v.toNat w.toNat s.nextId) ∧ t.split.pc = s.split.pc ∧
        t.warp.sregs = s.warp.sregs ∧ t.tack = s.tack) ∧
      (w.toNat = 0 ∨ 256 < v.toNat + w.toNat → exec i s = .next (trap i w false)) ∧
      (w.toNat ≠ 0 → v.toNat + w.toNat ≤ 256 → v.toNat = 0 ∨ ¬own → exec i s = .next (trap i v false))) ∧
    (let i : Instr := .kstat p d a
     let n := v.toNat
     let x := s.keySlot n
     let j := s.job (n - 0x100)
     s.Ready i →
      (1 ≤ n → n < 0x100 → x.kind < 8 → x.ctx < 256 → x.svn < 2 ^ 16 → Completes i s fun t =>
        WritesScalar s t pc d (if x.used ∧ x.pav = s.ctx.pav then
          BitVec.ofNat 64 (2 ^ 63 + x.kind * 2 ^ 60 + x.ctx * 2 ^ 52 + x.svn * 2 ^ 16) else 0) s.pcl none) ∧
      (0x100 ≤ n → n < 0x110 → j.ckpt < 2 ^ 40 → Completes i s fun t => OnlyWarp s t ∧ result t
        (if j.st = .free then 0 else (if j.st = .done then 2 ^ 63 else 0) + j.st.code * 2 ^ 61 + (n - 0x100) * 2 ^ 52 +
          fieldOf (jobHeader j.desc) 192 8 * 2 ^ 44 + j.ckpt)) ∧
      (n = 0 ∨ 0x110 ≤ n → exec i s = .next (trap i v false))) ∧
    (∀ bs : List Byte,
      let i : Instr := .scrub p d a
      let n := fieldOf (jobHeader bs) 256 8
      let held (j : Nat) : Prop := (s.job j).st = .held ∧ (s.job j).digest = sha3_384 bs
      s.Ready i → v.toNat % 64 = 0 → 1 ≤ n → n ≤ 64 → ReadsVirtual s v (64 + 16 * n) bs →
      (s.privPages v (64 + 16 * n) = false → exec i s = .next (trap i v true)) ∧
      (s.privPages v (64 + 16 * n) = true →
        (headerBad (jobHeader bs) = true ∨ (∃ e ∈ jobExtents bs, extBad e = true ∨ s.extReach s.ctx.pav e = false) →
          exec i s = .next (trap i v true)) ∧
        (headerBad (jobHeader bs) = false → (∀ e ∈ jobExtents bs, extBad e = false ∧ s.extReach s.ctx.pav e = true) →
          (∀ j < 16, held j → (∀ k < j, ¬held k) → Completes i s fun t =>
            result t (2 ^ 62 + j) ∧ t.job j = { s.job j with st := .run, issuer := some s.warp.ctx }) ∧
          ((∀ j < 16, ¬held j) →
            ((∃ e ∈ jobExtents bs, s.scrubbing e = true) → Completes i s fun t => result t (2 ^ 63 + 1) ∧ t.tack = s.tack) ∧
            ((∀ e ∈ jobExtents bs, s.scrubbing e = false) →
              (∀ j < 16, (s.job j).st = .free → (∀ k < j, (s.job k).st ≠ .free) → Completes i s fun t => result t j ∧
                t.job j = ⟨.run, 0, bs, sha3_384 bs, some s.warp.ctx, []⟩) ∧
              ((∀ j < 16, (s.job j).st ≠ .free ∧ (s.job j).st ≠ .done) → Completes i s fun t =>
                result t (2 ^ 63 + 2) ∧ t.tack = s.tack)))))) ∧
    (∀ bs : List Byte,
      let i : Instr := .cassign p d a b
      let e := BitVec.ofNat 128 (leNat bs)
      let n := fieldOf w 0 8
      let give := bitOf w 8 = false
      let owner : Owner := if bitOf w 8 then .pool s.ctx.pav else .ctx n
      let quiet : Prop := ∀ g ∈ s.gangsOn (extCore e / 4), g.2.ctx = n ∨
        ∀ k ∈ g.2.blocks, (s.blockAt k).live = true → (s.blockAt k).core ≠ extCore e
      s.Ready i → v.toNat % 16 = 0 → ReadsVirtual s v 16 bs →
      (fieldOf w 9 55 ≠ 0 ∨ extBad e = true → Completes i s fun t => result t 7 ∧ t.phys = s.phys) ∧
      (fieldOf w 9 55 = 0 → extBad e = false →
        (s.extReach s.ctx.pav e = false → exec i s = .next (trap i v true)) ∧
        (s.extReach s.ctx.pav e = true →
          (give → (s.ctxAt n).live = false ∨ (s.ctxAt n).pav ≠ s.ctx.pav → Completes i s fun t =>
            result t 5 ∧ t.phys = s.phys) ∧
          ((give → (s.ctxAt n).live = true ∧ (s.ctxAt n).pav = s.ctx.pav) →
            (s.scrubbing e = true → Completes i s fun t => result t 6 ∧ t.phys = s.phys) ∧
            (s.scrubbing e = false →
              (s.resourceInUse e (if bitOf w 8 then none else some n) = true → Completes i s fun t =>
                result t 9 ∧ t.phys = s.phys) ∧
              (s.resourceInUse e (if bitOf w 8 then none else some n) = false → Completes i s fun t =>
                (extKind e ≠ 1 ∨ bitOf w 8 = true ∨ quiet → result t 0) ∧
                (extKind e = 1 → (t.coreAt (extCore e)).assigned = owner) ∧
                (extKind e = 3 → ∀ g, t.phys.owners.get .unowned g =
                  if g ∈ extPages e then owner else s.phys.owners.get .unowned g))))))) ∧
    (∀ (j i : Nat) (e : BitVec 128),
      let x := s.job j
      j < 16 → x.st = .run → x.issuer = none → chunkAt (jobExtents x.desc) x.ckpt = some (e, i) →
      Completes (.scrubChunk j) s fun t =>
        t.job j = { x with ckpt := x.ckpt + 1, st := if jobChunks x ≤ x.ckpt + 1 then .done else .run, assigned := [] } ∧
        (extKind e = 3 →
          let g := extBase e / 2 ^ 16 + i
          (∀ k, k < 2 ^ 48 → t.byteAt k = if k / 2 ^ 16 = g then 0 else s.byteAt k) ∧
          (∀ k, k < 2 ^ 48 → k / 2 ^ 16 = g → t.granLbl k = 0 ∧ t.granFloat k = false ∧
            t.phys.poison.get false (k / 64) = false ∧ t.phys.scrubbed.get false (k / 64) = true)) ∧
        (extKind e = 1 → i = 0 → (t.coreAt (extCore e)).tlb = [] ∧ (t.coreAt (extCore e)).bslots = .empty ∧
          ∀ m < 32, (s.warpAt (32 * extCore e + m)).st ≠ .free →
            (t.warpAt (32 * extCore e + m)).sregs = .empty ∧ (t.warpAt (32 * extCore e + m)).vregs = .empty))

/-! ## Faults, hangs and the refusal log -/

/-- 16 R268, R270, R276 to R278: a fault that the host answers, or leaves unanswered for the fault timeout, lets the warp
issue again; a context that hangs reports its wait-for graph and traps; the refusal log goes to the runtime session. -/
def Obligations.FaultsAndHangsEnd : Prop :=
  ∀ (s : State),
    (∀ (f : PFault) (k uid sp : Nat),
      (s.faults.find? fun x => x.tag = f.tag && !x.ok && !x.no) = some f → f.who = .warp k uid sp →
      (s.warpAt k).uid = uid → (s.warpAt k).st = .park → (s.ctxAt f.ctx).faultTmo ≠ 0 →
      f.since + (s.ctxAt f.ctx).faultTmo * 2 ^ 16 < s.cycle → Completes (.faultTimeout f.tag) s fun t =>
        (t.warpAt k).st = .run ∧ f.page ∈ ((t.warpAt k).split sp).declined ∧ SameMemory s t ∧
        ∀ x ∈ t.faults, x.who ≠ .warp k uid sp) ∧
    (∀ (f : PFault) (ses k uid sp : Nat) (h : BitVec 256) (body : List Byte),
      let i : Instr := .faultreply ses h body
      Serves s ses h body 10 → body.length = 16 → zeros body 9 7 = true →
      (s.faults.find? fun x => x.ctx = hCtx h && x.tag = (hTag h).toNat && x.page * 2 ^ 16 = bodyAt body 0 8 &&
        !x.ok && !x.no) = some f → (s.ctxAt (hCtx h)).overBudget 2 64 = false →
      f.who = .warp k uid sp → (s.warpAt k).uid = uid → (s.warpAt k).st = .park →
      (∀ x ∈ s.faults, x.who = f.who → x = f) →
      (bodyAt body 8 1 = 1 → Completes i s fun t => (t.warpAt k).st = .run ∧ Answers t ses h .ok [] ∧
        (∀ x ∈ t.faults, x.who ≠ f.who) ∧
        (t.ctxAt (s.warpAt k).ctx).nreplay = sat16 (s.ctxAt (s.warpAt k).ctx).nreplay) ∧
      (bodyAt body 8 1 = 2 → Completes i s fun t => (t.warpAt k).st = .run ∧ Answers t ses h .ok [] ∧
        f.page ∈ ((t.warpAt k).split sp).declined)) ∧
    (∀ (c n k sp : Nat) (w : Warp) (x : Split),
      s.warpsIn c = [(k, w)] → w.liveSplits = [(sp, x)] → x.waiting = true → x.eh = false → (s.ctxAt c).handler ≠ 0 →
      s.hangCounter c = some n → (s.ctxAt c).live = true → (s.ctxAt c).hangThr ≠ 0 →
      (s.ctxAt c).hangThr * 2 ^ 16 ≤ n → s.warpAt k = w → w.split sp = x →
      (s.pavAt (s.ctxAt c).pav).image = none → Completes (.hangDetect c) s fun t =>
        let y := (t.warpAt k).split sp
        y.st = .ready ∧ y.pc = (s.ctxAt c).handler.setWidth 57 &&& ~~~3#57 ∧ y.ecause = 14 ∧ y.epc = x.pc ∧ y.eh = true ∧
        y.priv = true ∧ y.einfo = BitVec.ofNat 64 x.waitKind ∧ SameMemory s t ∧
        ∃ g ys, t.outbox = s.outbox ++ .note (some c) (s.ctxAt c).pav .tenant 0x85 0 (leBytes 4 1 ++ g) :: ys) ∧
    (∀ p, (s.pavAt p).log ≠ [] → s.hasRuntime p = true → (s.pavAt p).image = none →
      64 ≤ (s.pavAt p).log.length ∨ (s.pavAt p).logSince + 2 ^ 20 ≤ s.cycle → Completes (.refusalLogFlush p) s fun t =>
        t.outbox = s.outbox ++ [.note none p .runtime 0x82 0 (leBytes 4 (s.pavAt p).log.length ++
          leBytes 4 (s.pavAt p).lost.toNat ++ ((s.pavAt p).log.map fun e => leBytes 8 e.toNat).flatten)] ∧
        t.pavAt p = { s.pavAt p with log := [] } ∧ SameMemory s t)

/-! ## Launches and audits -/

/-- 05 R94, 16 R280 to R288, 17 R299, R300: a launch becomes ready once its signals are, starts, has its gangs dispatched
with the launch values, and ends with a status; the audits of its blocks run elsewhere and are compared. -/
def Obligations.LaunchesAndAuditsRun : Prop :=
  ∀ (s : State) (lseq : Nat),
    let l := s.launchAt lseq
    let p := (s.ctxAt l.ctx).pav
    (∀ (c q : Nat) (rest : List QCmd),
      (s.ctxAt c).live = true → (s.ctxAt c).held = false → (s.queueAt c q).cmds = .launch lseq :: rest → l.ready = false →
      (l.waits = [] → Completes (.launchReady c q) s fun t => (t.launchAt lseq).ready = true ∧ SameMemory s t) ∧
      (∀ (a v : Word) (k : Nat) (ceil : Label), l.waits = [(a, v)] →
        s.sigChk c (.queue c q) .load a = .ok k ceil → Completes (.launchReady c q) s fun t => SameMemory s t ∧
          ∃ bs, EngineReads s (s.queueAt c q).hb k 8 bs ∧ ((t.launchAt lseq).ready = true ↔ v.toNat ≤ leNat bs))) ∧
    (l.known = true → l.ready = true → l.started = false → l.ended = false → Completes (.launchStart lseq) s fun t =>
      (t.launchAt lseq).started = true ∧ (t.launchAt lseq).meas = s.measure l ∧ (t.launchAt lseq).firstId = s.nextId ∧
      (l.pure = false → SameMemory s t ∧ (t.launchAt lseq).frozen = l.frozen)) ∧
    (∀ (g k : Nat) (ps : List (Nat × Nat)),
      let u := s.settleClusters
      let l := u.launchAt lseq
      let p := (u.ctxAt l.ctx).pav
      l.toDispatch = true → l.discarded = [] → g = l.nextGang → g < l.gangs → (u.ctxAt l.ctx).held = false →
      u.clusterFor p l.ctx k = true → u.mayFill p l.ctx k = true → (u.gangsOf l.ctx).length < (u.ctxAt l.ctx).saveg →
      u.dispatchTurn lseq = true → u.place k lseq ((l.gangBlocks g).map Prod.snd) = some ps →
      Completes (.gangDispatch lseq g k) s fun t =>
        let x := t.gangAt u.nextId
        x.live = true ∧ x.num = g ∧ x.cluster = k ∧ x.ctx = l.ctx ∧ x.lseq = lseq ∧ x.saved = false ∧
        x.blocks.length = (l.gangBlocks g).length ∧ (t.launchAt lseq).nextGang = g + 1 ∧
        (t.launchAt lseq).liveGangs = l.liveGangs + 1 ∧ t.mem = s.mem ∧
        (∀ (j r b b' core : Nat), (l.gangBlocks g)[j]? = some (r, b) → ps[j]? = some (b', core) →
          ∃ id, x.blocks[j]? = some id ∧ (t.blockAt id).live = true ∧ (t.blockAt id).num = b ∧ (t.blockAt id).rank = r ∧
            (t.blockAt id).core = core ∧ (t.blockAt id).gang = u.nextId ∧ (t.blockAt id).spBytes = l.spBytes ∧
            (t.blockAt id).mem = .empty) ∧
        (∀ (b b' core n : Nat), l.gangBlocks g = [(0, b)] → ps = [(b', core)] → l.w1 = 0 → l.lanes b 0 ≠ 0 →
          u.freeSlot core = some n →
          let w := t.warpAt n
          w.st = .run ∧ w.ctx = l.ctx ∧ w.lseq = lseq ∧ w.block = x.blocks.headD 0 ∧ w.vr = l.vr ∧ w.sregs = .empty ∧
          w.vregs = .empty ∧ w.flags = 0 ∧ (w.split 0).st = .ready ∧ (w.split 0).pc = BitVec.ofNat 57 l.entry ∧
          (w.split 0).exec = l.lanes b 0 ∧ (w.split 0).mode = 0x30 ∧ (w.split 0).priv = l.privl)) ∧
    (l.known = true → l.started = true → l.ended = false → l.gangs ≤ l.nextGang → l.discarded = [] → l.liveGangs = 0 →
      (∀ o ∈ s.ops, o.lseq = lseq → o.core = farCore) → (s.queueAt l.ctx l.queue).cmds = [.launch lseq] → l.cmpl = none →
      s.leaving l.ctx = none → (s.pavAt p).image = none → Completes (.launchComplete lseq) s fun t =>
        (t.launchAt lseq).ended = true ∧ (t.queueAt l.ctx l.queue).cmds = [] ∧
        ∃ ys, t.outbox = s.outbox ++ .status l.ses l.tag lseq (if l.halted = 0 then 0 else 3) l.halted :: ys) ∧
    (∀ (b core : Nat) (r : AuditRun),
      l.ended = true → l.closed = false → b ∈ l.pending → s.auditing lseq b = false → l.runsOf b = [r] →
      (s.auditCores p [r] = [] → Completes (.auditRun lseq b core) s fun t =>
        b ∉ (t.launchAt lseq).pending ∧ (t.launchAt lseq).skipped = l.skipped ++ [b]) ∧
      (core ∈ s.auditCores p [r] → (s.ctxAt l.ctx).held = false → s.clusterFor p l.ctx (core / 4) = true →
        s.mayFill p l.ctx (core / 4) = true → 1 ≤ s.room core lseq → s.savedGangs l.ctx = [] →
        (s.gangsOf l.ctx).length < (s.ctxAt l.ctx).saveg →
        (∀ e ∈ s.readyLaunches l.ctx, (s.launchAt e.2).hasGang = false) → Completes (.auditRun lseq b core) s fun t =>
          core ≠ r.core ∧ ∃ id, (t.blockAt id).live = true ∧ (t.blockAt id).audit = true ∧ (t.blockAt id).num = b ∧
            (t.blockAt id).core = core ∧ (t.blockAt id).lseq = lseq ∧ (t.blockAt id).vcore = r.vcore ∧
            (t.blockAt id).rank = b % 2 ^ l.w2)) ∧
    (∀ (b : Nat) (x y : AuditRun), b ∈ l.pending → l.runsOf b = [x, y] →
      (x.agrees y = true → Completes (.auditCompare lseq b) s fun t =>
        b ∉ (t.launchAt lseq).pending ∧ (t.launchAt lseq).passed = l.passed + 1 ∧ (t.launchAt lseq).failed = l.failed) ∧
      (x.agrees y = false → s.auditCores p [x, y] = [] → Completes (.auditCompare lseq b) s fun t =>
        b ∉ (t.launchAt lseq).pending ∧ (t.launchAt lseq).failed = l.failed ++ [b])) ∧
    (∀ (b : Nat) (x y z : AuditRun), b ∈ l.pending → l.runsOf b = [x, y, z] →
      x.core ≠ y.core → z.core ≠ y.core → z.core ≠ x.core → s.phys.threshold ≤ 255 →
      (∀ r, r = x ∨ r = y ∨ r = z → (s.coreAt r.core).susp.toNat + 16 < s.phys.threshold) →
      Completes (.auditCompare lseq b) s fun t =>
        let gains (r : AuditRun) (n : Nat) : Prop := (t.coreAt r.core).susp.toNat = (s.coreAt r.core).susp.toNat + n
        let failed : Prop := (t.launchAt lseq).failed = l.failed ++ [b] ∧ (t.launchAt lseq).passed = l.passed
        b ∉ (t.launchAt lseq).pending ∧ (z.agrees y = true → failed ∧ gains x 16) ∧
        (z.agrees y = false → z.agrees x = true →
          (t.launchAt lseq).passed = l.passed + 1 ∧ (t.launchAt lseq).failed = l.failed ∧ gains y 16) ∧
        (z.agrees y = false → z.agrees x = false → failed ∧ gains x 8 ∧ gains y 8 ∧ gains z 8))

/-! ## Pre-emption, quanta and clusters -/

/-- 17 R292 to R305: the holder of a quantum is charged and the next one granted; gangs are saved at their safe points and
restored, or halt where they do not stop; drains become saves at their deadline; clusters are lent and reclaimed. -/
def Obligations.GangsAreScheduled : Prop :=
  ∀ (s : State),
    (∀ (p c : Nat),
      let u := s.settleClusters.refreshIdle p
      let y := (chargeQuantum p u).ctxAt c
      u.quantumDue p = true → (chargeQuantum p u).nextHolder p = some c →
      ((u.pavAt p).holder = none ∨ (u.pavAt p).holder = some c) → Completes (.quantumExpiry p) s fun t =>
        (t.pavAt p).holder = some c ∧ (t.pavAt p).qstart = s.cycle ∧
        (t.pavAt p).qlen = (if y.quantum = 0 then none else some (y.quantum - min y.quantum y.overrun)) ∧
        (t.ctxAt c).overrun = y.overrun - min y.quantum y.overrun ∧ SameMemory s t ∧
        t.outbox = s.outbox ++ [.grant c (decide (y.overrun ≠ 0))] ∧
        ((u.pavAt p).holder = some c → (u.ctxAt c).weight ≠ 0 → ∀ n, (u.pavAt p).qlen = some n →
          (t.ctxAt c).vt = (u.ctxAt c).vt + min n (s.cycle - (u.pavAt p).qstart) * 2 ^ 16 / (u.ctxAt c).weight)) ∧
    (∀ (p c h : Nat),
      let u := s.settleClusters.refreshIdle p
      u.quantumDue p = true → (u.pavAt p).holder = some h →
      ((chargeQuantum p u).nextHolder p = some c → Completes (.quantumExpiry p) s fun t => (t.pavAt p).holder = some c) ∧
      ((chargeQuantum p u).nextHolder p = none → Completes (.quantumExpiry p) s fun t =>
        (t.pavAt p).holder = none ∧ t.gangs = s.gangs ∧ SameMemory s t)) ∧
    (∀ (k g : Nat) (x : Gang) (y : Pre),
      let u := s.settleClusters
      (u.clusterAt k).pre = [y] → y.drain = true → y.left = none → y.deadline ≤ s.cycle →
      (u.gangsOn k).filter (fun e => y.gangs.contains e.1) = [(g, x)] → u.gangAt g = x → x.preempt = none →
      u.mayDiscard g = false → Completes (.preemptDeadline k) s fun t =>
        t.gangAt g = { x with preempt := some (s.cycle, y.deadline) } ∧ SameMemory s t) ∧
    (∀ (k g : Nat) (x : Gang) (y : Pre),
      let u := s.settleClusters
      (u.clusterAt k).pre = [y] → y.drain = true → y.left = none → y.deadline ≤ s.cycle →
      (u.gangsOn k).filter (fun e => y.gangs.contains e.1) = [(g, x)] → u.gangAt g = x →
      (∀ b ∈ x.blocks, (u.blockAt b).audit = false ∧ (u.blockAt b).noDiscard = false) →
      (u.launchAt x.lseq).rstrt = true → u.inKzero x.blocks = false → Completes (.preemptDeadline k) s fun t =>
        (t.gangAt g).live = false ∧ (t.launchAt x.lseq).discarded = (u.launchAt x.lseq).discarded ++ [x.num] ∧
        (∀ b ∈ x.blocks, (t.blockAt b).live = false) ∧ SameMemory s t) ∧
    (∀ w sp a : Nat,
      let k := s.warpAt w
      let x := k.split sp
      let y := k.split a
      let z := s.gangAt (s.blockAt k.block).gang
      (∃ d, z.preempt = some d ∧ max x.last d.1 + 4096 ≤ s.cycle) → k.st = .run → x.st = .ready → x.safe.isSome = true →
      (a, y) ∈ k.liveSplits → a ≠ sp → s.stopMask w y = none → Completes (.splitRelease w sp) s fun t =>
        (t.warpAt w).split sp = { x with safe := none } ∧ ∀ j, j ≠ sp → (t.warpAt w).split j = k.split j) ∧
    (∀ (g : Nat),
      let x := s.gangAt g
      s.canSave g = true → Completes (.gangSave g) s fun t =>
        (t.gangAt g).saved = true ∧ (t.gangAt g).preempt = none ∧ (t.gangAt g).blocks = x.blocks ∧
        (∀ k ∈ s.warpKeys x.blocks, t.warpAt k = Warp.blank) ∧ SameMemory s t ∧
        ∀ k ∈ s.warpKeys x.blocks, (s.warpAt k).st = .run → ∃ y, (k, y) ∈ (t.gangAt g).warps ∧ y.st = .saved ∧
          y.splits = (s.warpAt k).splits ∧ y.stack = (s.warpAt k).stack ∧ y.ltab = (s.warpAt k).ltab ∧
          ∀ e ∈ (s.warpAt k).liveSplits, ∀ m, s.stopMask k e.2 = some m →
            (∀ r < 64, bitOf m (16 + r / 8) = true → y.sregs.get SReg.zero r = (s.warpAt k).sregs.get SReg.zero r) ∧
            ∀ r < 128, ∀ l < 32, bitOf m (r / 8) = true →
              y.vregs.get VLane.zero (vkey r l) = (s.warpAt k).vregs.get VLane.zero (vkey r l)) ∧
    (∀ (g b k d start : Nat),
      let x := s.gangAt g
      x.preempt = some (start, d) → d + 2 ^ 26 ≤ s.cycle → x.blocks = [b] → s.warpKeys [b] = [k] →
      (s.blockAt b).live = true → (s.blockAt b).gang = g → s.binsOf b = [] → (s.blockAt b).objs = [] →
      (s.warpAt k).st = .run → (s.warpAt k).block = b → s.stoppedAll k = false → Completes (.saveTimeout g) s fun t =>
        (t.warpAt k).st = .halt ∧ (t.gangAt g).live = false) ∧
    (∀ (g k : Nat) (ps : List (Nat × Nat)),
      let u := s.settleClusters
      let x := u.gangAt g
      let p := (u.ctxAt x.ctx).pav
      x.live = true → x.saved = true → (u.ctxAt x.ctx).held = false → u.clusterFor p x.ctx k = true →
      u.mayFill p x.ctx k = true → (∀ y ∈ u.savedGangs x.ctx, savedBefore y.2 x = false) →
      u.place k x.lseq x.blocks = some ps → u.fits x ps = true → Completes (.gangRestore g k) s fun t =>
        (t.gangAt g).saved = false ∧ (t.gangAt g).cluster = k ∧ SameMemory s t ∧
        (x.blocks.Nodup → ∀ e ∈ ps, (t.blockAt e.1).core = e.2) ∧
        (∀ (b core n j : Nat) (w : Warp), x.warps = [(j, w)] → w.st = .saved → w.block = b → ps = [(b, core)] →
          u.freeSlot core = some n →
          (t.warpAt n).st = (if x.slots = [] then .run else .init) ∧ (t.warpAt n).uid = w.uid ∧ (t.warpAt n).sregs = w.sregs ∧
          (t.warpAt n).vregs = w.vregs ∧ (t.warpAt n).ltab = w.ltab ∧ (t.warpAt n).stack = w.stack)) ∧
    (∀ (k p own : Nat),
      let u := s.settleClusters
      u.lender k = some own → (u.pavAt own).lend = true → fieldOf (u.pavAt own).cfg 32 8 ≠ 0 →
      (u.clusterAt k).lent = none → (u.clusterAt k).quar = false → u.gangsOn k = [] →
      (u.clusterAt k).idleSince + fieldOf (u.pavAt own).cfg 32 8 * 2 ^ 16 ≤ s.cycle → u.partWaiting own = false →
      (turnsFrom own).find? (fun q => (u.pavAt q).en && (u.pavAt q).borrow && u.partWaiting q) = some p →
      Completes (.clusterLend k p) s fun t => (t.clusterAt k).lent = some p ∧ (t.clusterAt k).reclaim = false) ∧
    (∀ (k own q : Nat),
      let u := s.settleClusters
      u.lender k = some own → (u.clusterAt k).lent = some q → (u.clusterAt k).reclaim = false →
      u.partWaiting own = true → (∀ j < u.part.clusters, u.ownsCluster own j = true → (u.clusterAt j).lent = none →
        (u.clusterAt j).quar = false → u.gangsOn j ≠ []) → Completes (.clusterReclaim k) s fun t =>
        (t.clusterAt k).reclaim = true ∨ (t.clusterAt k).lent = none)

/-! ## The host's commands -/

/-- 19 R313 to R319: a session opens; a LAUNCH is rejected or queued; COPY, SIGNAL, WAIT and FENCE act at the head of an
idle queue; host RMA reads public granules only and writes with the public label; a budget's window starts anew. -/
def Obligations.HostCommandsAct : Prop :=
  ∀ (s : State) (ses : Nat) (h : BitVec 256) (body : List Byte),
    let c := hCtx h
    let q := hQueue h
    let w (i : Nat) : Word := BitVec.ofNat 64 (bodyAt body (8 * i) 8)
    let idle : Prop := (s.queueAt c q).cmds = []
    let none_ : Prop := ∀ f ∈ s.faults, f.who ≠ .queue c q
    let reach (k : Acc) (p : Nat) : Prop := ∃ ceil, s.checkVa farCore c true false [] k (w 0) = .ok p ceil
    (∀ (r : Role) (p x : Nat), p < 16 → s.sessionsOf p < 64 →
      (r = .operator ∨ ((s.pavAt p).enabled = true ∧ (s.pavAt p).en = true)) → (r = .runtime → s.hasRuntime p = false) →
      Completes (.sessionOpen r p x) s fun t => t.session s.nextId = ⟨true, r, p, x⟩ ∧ t.mem = s.mem) ∧
    (let i : Instr := .launch ses h body
     let hdr : BitVec 1024 := BitVec.ofNat 1024 (bodyAt body 0 128)
     let n := s.lseq + 1
     Serves s ses h body 1 →
      (launchBodyBad body = true → Completes i s fun t => Answers t ses h .badcmd [] ∧ t.lseq = s.lseq) ∧
      (launchBodyBad body = false →
        (s.part = .olL4 → fieldOf hdr 272 6 ≠ 0 → Completes i s fun t => Answers t ses h .noaudit [] ∧ t.lseq = s.lseq) ∧
        (s.part = .olX8 ∨ fieldOf hdr 272 6 = 0 →
          (launchBad hdr (decide ((s.session ses).role = .runtime)) = true → Completes i s fun t =>
            Answers t ses h .badhdr [] ∧ t.lseq = s.lseq) ∧
          (launchBad hdr (decide ((s.session ses).role = .runtime)) = false → idle → bodyAt body 0x80 1 = 0 →
            Completes i s fun t => Answers t ses h .ok (leBytes 8 n) ∧ t.lseq = n ∧
              (t.queueAt c q).cmds = [.launch n] ∧
              (let l := t.launchAt n
               l.known = true ∧ l.ctx = c ∧ l.queue = q ∧ l.hdr = hdr ∧ l.ready = true ∧ l.started = false ∧
               l.ended = false ∧ l.ses = ses ∧ l.tag = hTag h))))) ∧
    (let i : Instr := .copy ses h body
     Serves s ses h body 2 → body.length = 24 → idle →
      (w 2 ≠ 0 → s.hostCopyOf c q = none → Completes i s fun t => SameMemory s t ∧
        (t.queueAt c q).cmds = [.copy ses h (w 0) (w 1) (w 2)] ∧ ∃ o, t.ops = s.ops ++ [o] ∧ o.ctx = c ∧
        o.kind = .hostCopy ses h q (w 0).toNat (w 1).toNat (w 2).toNat ReqProg.start) ∧
      (w 2 = 0 → s.hostCopyOf c q = none → Completes i s fun t => SameMemory s t ∧ Answers t ses h .ok [] ∧
        (t.queueAt c q).cmds = [])) ∧
    (let i : Instr := .signal ses h body
     Serves s ses h body 3 → body.length = 24 → bodyAt body 8 1 ≤ 1 → zeros body 9 7 = true → sigBad (bodyAt body 0 8) = false →
      idle → none_ → ∀ p, reach .store p → Completes i s fun t =>
        Answers t ses h .ok [] ∧ (t.queueAt c q).cmds = [] ∧
        (∃ bs, EngineAtomic s (s.queueAt c q).hb p 8 bs ∧
          leNat (t.bytesAt p 8) = if bodyAt body 8 1 = 1 then (leNat bs + (w 2).toNat) % 2 ^ 64 else (w 2).toNat) ∧
        ∀ a, ¬(p ≤ a ∧ a < p + 8) → t.byteAt a = s.byteAt a) ∧
    (let i : Instr := .wait ses h body
     Serves s ses h body 4 → body.length = 16 → sigBad (bodyAt body 0 8) = false → idle → none_ →
      ∀ p, reach .load p → Completes i s fun t => SameMemory s t ∧ ∃ bs, EngineReads s (s.queueAt c q).hb p 8 bs ∧
        ((w 1).toNat ≤ leNat bs → Answers t ses h .ok [] ∧ (t.queueAt c q).cmds = []) ∧
        (leNat bs < (w 1).toNat → t.outbox = s.outbox ∧ (t.queueAt c q).cmds = [.wait ses h (w 0) (w 1)])) ∧
    (let i : Instr := .fenceCmd ses h body
     Serves s ses h body 5 → body = [] → idle → Completes i s fun t => Answers t ses h .ok [] ∧
      (t.queueAt c q).cmds = [] ∧ SameMemory s t) ∧
    (∀ (i : Instr) (cmd : Nat),
      (i = .launch ses h body ∧ cmd = 1) ∨ (i = .copy ses h body ∧ cmd = 2) ∨ (i = .signal ses h body ∧ cmd = 3) ∨
        (i = .wait ses h body ∧ cmd = 4) ∨ (i = .fenceCmd ses h body ∧ cmd = 5) → (s.session ses).isOpen = true →
      (s.updating (s.session ses).pav = true ∨ s.behind ses (heldFor h) = true →
        exec i s = .next (s.keep ses (heldFor h) i)) ∧
      (Arrives s ses h body cmd →
        (s.serves (s.session ses) c = false → Completes i s fun t => Answers t ses h .noctx [] ∧ SameMemory s t) ∧
        (s.serves (s.session ses) c = true → (s.ctxAt c).overBudget 1 body.length = true →
          exec i s = .next (s.keep ses c i)))) ∧
    (∀ (va len x : Nat), s.rmaCtx ses = some x → (s.ctxAt x).overBudget 0 len = false →
      rmaWaits (s.rmaChks x .load va len) = false → Completes (.hostRmaRead ses va len) s fun t => SameMemory s t ∧
        ∃ data bad, t.outbox = s.outbox ++ [.rmaData ses va data bad] ∧ data.length = len ∧
          ∀ (e : Nat × Nat) (k : Nat) (ceil : Label), (e, .ok k ceil) ∈ s.rmaChks x .load va len →
            (s.granLbl k = 0 → EngineReads s [] k e.2 ((data.drop e.1).take e.2)) ∧
            (s.granLbl k ≠ 0 → (data.drop e.1).take e.2 = allOnes e.2)) ∧
    (∀ (va x : Nat) (data : List Byte), s.rmaCtx ses = some x → (s.ctxAt x).overBudget 1 data.length = false →
      let cs := s.rmaChks x .store va data.length
      rmaWaits cs = false → Completes (.hostRmaWrite ses va data) s fun t =>
        Writes s t data ((cs.zip (arriving s 0 cs)).filterMap fun y => y.2.map fun k => (y.1.1, k)) (fun _ => False)) ∧
    (s.windowStart + 2 ^ 20 ≤ s.cycle → Completes .budgetWindow s fun t =>
      (∀ x, (t.ctxAt x).spent = [0, 0, 0]) ∧ t.waiting = [] ∧
      t.agenda = s.waiting.map (fun e => Turn.event e.2.2) ++ s.agenda ∧ t.windowStart ≤ s.cycle ∧
      s.cycle < t.windowStart + 2 ^ 20)

/-! ## Contexts and their pages -/

/-- 09 R164, R168, 17 R294, R295, 19 R316, R378, 20 R333, R351: a context is made with the lowest free numbers and a memory
key, and destroyed; pages are mapped with their labels, and unmapped; CXL extents come and go. -/
def Obligations.ContextsAreMadeAndMapped : Prop :=
  ∀ (s : State) (ses : Nat) (h : BitVec 256) (body : List Byte),
    let c := hCtx h
    (let i : Instr := .ctxcreate ses h body
     let p := (s.session ses).pav
     let live := s.ctxs.entries.filter fun e => e.2.live
     let stat := s.createStat p (BitVec.ofNat 64 (bodyAt body 0 8))
     Arrives s ses h body 6 → (s.session ses).role = .runtime → c = 0 →
      (createBad body = true → Completes i s fun t => Answers t ses h .badcmd [] ∧ t.ctxs = s.ctxs) ∧
      (createBad body = false →
        (stat ≠ .ok → Completes i s fun t => Answers t ses h stat [] ∧ t.ctxs = s.ctxs) ∧
        (∀ n x k : Nat, stat = .ok → lowestFree 256 (live.map Prod.fst) = some n →
          lowestFree 64 ((live.filter fun e => e.2.pav = p).map fun e => e.2.pidx) = some x → s.emptySlot = some k →
          Completes i s fun t =>
            Answers t ses h .ok (leBytes 1 n ++ leBytes 1 x ++ leBytes 1 k) ∧
            (let y := t.ctxAt n
             y.live = true ∧ y.pav = p ∧ y.pidx = x ∧ y.mslot = k ∧ y.sched = BitVec.ofNat 64 (bodyAt body 0 8) ∧
             y.owners = BitVec.ofNat 16 (bodyAt body 8 2) ∧ y.handler = BitVec.ofNat 64 (bodyAt body 0x10 8) ∧
             y.root = bodyAt body 0x18 8 ∧ y.faultTmo = bodyAt body 0x20 4 ∧ y.hangThr = bodyAt body 0x24 4 ∧
             y.privBytes = bodyAt body 0x2C 4 ∧ y.vt = 0 ∧ y.nfault = 0 ∧ y.nrefuse = 0) ∧
            (t.keySlot k).holds 2 n = true ∧ (∀ m, m ≠ n → t.ctxAt m = s.ctxAt m) ∧
            ∀ m, m ≠ k → t.keySlot m = s.keySlot m))) ∧
    (let i : Instr := .ctxdestroy ses h body
     Serves s ses h body 7 → body = [] → Completes i s fun t =>
      Answers t ses h .ok [] ∧ (t.ctxAt c).live = false ∧ t.mem = s.mem ∧ (∀ o ∈ t.ops, o.ctx ≠ c) ∧
      (∀ g ∈ t.tack.grants, g.ctx ≠ c) ∧ (∀ k kind, (s.keySlot k).pav = (s.ctxAt c).pav → (t.keySlot k).holds kind c = false) ∧
      ∀ g, t.phys.owners.get .unowned g = (if s.phys.owners.get .unowned g = .ctx c then .gone (s.ctxAt c).pav
        else s.phys.owners.get .unowned g)) ∧
    (let i : Instr := .map ses h body
     let x := mapCmd body
     Serves s ses h body 9 →
      (∀ st, s.mapStat c body = st → st ≠ .ok → Completes i s fun t => Answers t ses h st [] ∧ t.phys = s.phys ∧
        t.mem = s.mem) ∧
      (∀ (n : Nat) (e : BitVec 128), s.mapStat c body = .ok → (s.ctxAt c).freeMap = some n →
        (s.ctxAt c).overBudget 2 (64 * x.n) = false → x.n = 1 → x.size = 0 → x.lblm ≤ 1 → x.leaves = [e] →
        Completes i s fun t =>
          let g := fieldOf e 16 32
          let own := s.phys.owners.get .unowned g
          Answers t ses h .ok (leBytes 2 n) ∧ (t.ctxAt c).maps.get none n = some ⟨x.va, [0]⟩ ∧
          t.phys.owners.get .unowned g = (if own = .unowned ∨ own = .pool (s.ctxAt c).pav then .ctx c else own) ∧
          t.phys.views.get .fresh g = (if bitOf e 2 then .plain else .key (s.keySlot (fieldOf e 88 8)).key) ∧
          ∀ j < 1024, t.phys.grans.get Gran.initial (1024 * g + j) = (if x.lblm = 0 then ⟨0, false⟩
            else ⟨BitVec.ofNat 16 (x.recs.headD 0), decide (2 ^ 16 ≤ x.recs.headD 0)⟩))) ∧
    (let i : Instr := .unmap ses h body
     let va := bodyAt body 0 8
     let bad : Prop := body.length ≠ 16 ∨ zeros body 0xD 3 = false ∨ 2 < bodyAt body 0xC 1 ∨ bodyAt body 8 4 = 0 ∨
       va % pageBytes (bodyAt body 0xC 1) ≠ 0 ∨ 2 ^ 57 < va + bodyAt body 8 4 * pageBytes (bodyAt body 0xC 1)
     Serves s ses h body 13 →
      (bad → Completes i s fun t => Answers t ses h .badcmd [] ∧ t.mem = s.mem) ∧
      (¬bad → bodyAt body 8 4 = 1 → bodyAt body 0xC 1 = 0 → (s.ctxAt c).overBudget 2 64 = false →
        (∀ l ∈ s.launches.entries, l.2.pending = []) → Completes i s fun t =>
          Answers t ses h .ok [] ∧ (∀ k, s.leafAt c va = some k → t.entryAt k = 0) ∧ t.dieTlb = s.dieTlb ∧
          (∀ core, (t.coreAt core).tlb = (s.coreAt core).tlb) ∧
          (∀ n y, (t.ctxAt c).maps.get none n = some y → ∀ j ∈ y.pages, y.va / 2 ^ 16 + j ≠ va / 2 ^ 16))) ∧
    (∀ e : Nat × Nat × Nat, dcdExtent body = some e →
      (Serves s ses h body 11 → Completes (.dcdadd ses h body) s fun t => Answers t ses h .ok [] ∧
        (∀ y, y ∈ t.phys.extents ↔ y ∈ s.phys.extents ∨ y = e) ∧ t.mem = s.mem) ∧
      (Serves s ses h body 14 →
        (s.mapped e.2.1 e.2.2 = true → Completes (.dcdrel ses h body) s fun t => Answers t ses h .inuse [] ∧
          t.phys = s.phys) ∧
        (s.mapped e.2.1 e.2.2 = false → Completes (.dcdrel ses h body) s fun t => Answers t ses h .ok [] ∧
          (∀ y, y ∈ t.phys.extents ↔ y ∈ s.phys.extents ∧ y ≠ e) ∧ t.mem = s.mem)))

/-! ## Management, repairs and budgets -/

/-- 09 R163, 16 R272, R288, 17 R290, 19 R311, R316, R319, R329, 20 R335, R355: each management message of the operator
changes what it names and replies; a port's reset ends in service or as a removal; an image takes effect where it
verifies. -/
def Obligations.ManagementMessagesAct : Prop :=
  ∀ (s : State) (ses : Nat) (h : BitVec 256) (body : List Byte),
    let f (o n : Nat) : Nat := bodyAt body o n
    let p := f 8 1
    let v : Word := BitVec.ofNat 64 (f 16 8)
    let kind (sub k : Nat) (fs : List (Nat × Nat)) : Prop := Manages s ses h body sub ((8, 1) :: fs) ∧ p = k
    let ok (i : Instr) (q : State → Prop) : Prop := Completes i s fun t => Answers t ses h .ok [] ∧ t.mem = s.mem ∧ q t
    let denies (i : Instr) (x : Stat) : Prop := Completes i s fun t => Answers t ses h x [] ∧ t.phys = s.phys ∧
      t.pavs = s.pavs ∧ t.cores = s.cores ∧ t.clusters = s.clusters ∧ t.tack = s.tack ∧ t.mem = s.mem
    let m := f 12 4
    let target := f 16 8
    let quiet : Prop := s.held = [] ∧ ∀ l ∈ s.launches.entries, l.2.signalling = false
    let lo := fieldOf v 0 8
    let hi := fieldOf v 8 8
    let others (q : Pav → Prop) : Prop := ∃ x < 16, x ≠ p ∧ (s.pavAt x).en = true ∧ q (s.pavAt x)
    let outside : Prop := s.part.clusters ≤ hi ∨ (bitOf v 26 = true ∧ hi < lo) ∨
      others (fun x => lo ≤ hi ∧ lo ≤ fieldOf x.cfg 8 8 ∧ fieldOf x.cfg 0 8 ≤ hi)
    let clash (col : Word) : Prop := others fun x => col &&& x.col ≠ 0
    (Manages s ses h body 1 [(8, 1), (16, 8)] → p < 16 →
      (s.contextsOf p ≠ [] → denies (.writePvcfg ses h body) .inuse) ∧
      (s.contextsOf p = [] → outside ∨ clash (s.pavAt p).col → denies (.writePvcfg ses h body) .badcmd) ∧
      (s.contextsOf p = [] → ¬outside → ¬clash (s.pavAt p).col → ok (.writePvcfg ses h body) fun t =>
        t.pavAt p = { s.pavAt p with cfg := v &&& 0x00FF_FFFF_0700_FFFF#64 } ∧ ∀ x, x ≠ p → t.pavAt x = s.pavAt x)) ∧
    (Manages s ses h body 2 [(8, 1), (16, 8)] → p < 16 →
      (s.contextsOf p ≠ [] → denies (.writePvcol ses h body) .inuse) ∧
      (s.contextsOf p = [] → clash v → denies (.writePvcol ses h body) .badcmd) ∧
      (s.contextsOf p = [] → ¬clash v → ok (.writePvcol ses h body) fun t =>
        t.pavAt p = { s.pavAt p with col := v } ∧ ∀ x, x ≠ p → t.pavAt x = s.pavAt x)) ∧
    (Manages s ses h body 3 [(8, 1), (12, 12)] →
      ((s.ctxAt p).live = true → ok (.setBudgets ses h body) fun t =>
        t.ctxAt p = { s.ctxAt p with budget := [f 12 4, f 16 4, f 20 4] }) ∧
      ((s.ctxAt p).live = false → denies (.setBudgets ses h body) .badctx)) ∧
    (Manages s ses h body 4 [] → Completes (.readInService ses h body) s fun t => ∃ b : List Byte,
      Answers t ses h .ok b ∧ b.length = 104 ∧ fieldOf (BitVec.ofNat 64 (leNat (b.take 8))) 52 12 = s.phys.eth.toNat ∧
      fieldOf (BitVec.ofNat 64 (leNat (b.take 8))) 36 16 = s.phys.cxl.toNat ∧
      fieldOf (BitVec.ofNat 64 (leNat (b.take 8))) 0 16 = s.phys.lsect.toNat ∧
      ∀ c < 768, leNat (b.drop 8) / 2 ^ c % 2 = if c < s.part.cores ∧
        ((s.coreAt c).quar = true ∨ (s.clusterAt (c / 4)).quar = true) then 1 else 0) ∧
    (kind 5 1 [(12, 4), (16, body.length - 16)] → 16 ≤ body.length → m < 16 → ok (.pavilionImageUpdate ses h body) fun t =>
      let image := (body.drop 16).take (body.length - 16 - 9893)
      t.updating m = true ∧ t.pavAt m = { s.pavAt m with
        image := some ⟨image, Config.imageVersion image, (body.drop 16).drop (body.length - 16 - 9893)⟩ }) ∧
    (∀ (q : Nat) (x : FwImage), (s.pavAt q).image = some x → Completes (.imageSignatureVerified q) s fun t =>
      t.updating q = false ∧ t.waiting = [] ∧ t.agenda = s.waiting.map (fun e => Turn.event e.2.2) ++ s.agenda ∧
      t.outbox = s.outbox ++ (s.late.filter (fun y => y.1 = q)).map Prod.snd ∧ t.late = s.late.filter (fun y => y.1 ≠ q) ∧
      (Config.sigVerifies x.bytes x.sig = true → s.tack.fusePav ≤ x.version →
        (t.pavAt q).code = some x ∧ (t.pavAt q).version = x.version ∧ (t.pavAt q).enabled = true) ∧
      ((Config.sigVerifies x.bytes x.sig = false ∨ x.version < s.tack.fusePav) →
        (t.pavAt q).code = (s.pavAt q).code ∧ (t.pavAt q).version = (s.pavAt q).version)) ∧
    (kind 5 2 [(12, 4)] →
      (m < s.part.clusters → ok (.clusterQuarantine ses h body) fun t => (t.clusterAt m).quar = true) ∧
      (s.part.clusters ≤ m → denies (.clusterQuarantine ses h body) .badcmd)) ∧
    (kind 5 3 [(12, 4)] → ok (.sectorRetirement ses h body) fun t =>
      t.phys.lsect = if s.phys.lsect = 0xFFFF then 0xFFFF else s.phys.lsect + 1) ∧
    (kind 5 4 [(12, 4)] → m < 12 → ok (.ethernetReset ses h body) fun t =>
      ∀ j < 12, bitOf t.phys.eth j = (if j = m then true else bitOf s.phys.eth j)) ∧
    (kind 5 5 [(12, 4)] → m < 12 → ok (.ethernetRemoval ses h body) fun t =>
      ∀ j < 12, bitOf t.phys.eth j = (if j = m then false else bitOf s.phys.eth j)) ∧
    (kind 5 6 [(12, 4)] → m < 16 → ok (.cxlReset ses h body) fun t =>
      t.phys.cxlWait.get none m = some s.cycle ∧ ∀ j < 16, bitOf t.phys.cxl j = (if j = m then false else bitOf s.phys.cxl j)) ∧
    (kind 5 7 [(12, 4)] → m < 16 → quiet → ok (.cxlRemoval ses h body) fun t =>
      t.phys.cxlWait.get none m = none ∧ bitOf t.phys.cxl m = false ∧
      (∀ k < 2 ^ 48, m ∈ s.portsAt k → t.poisoned k = true) ∧ t.waiting = [] ∧
      t.agenda = s.waiting.map (fun e => Turn.event e.2.2) ++ s.agenda) ∧
    (∀ k : Nat, (∀ d ∈ s.phys.decoders, k < d.base ∨ d.base + d.len ≤ k) →
      ∀ q, q ∈ s.portsAt k ↔ ∃ e ∈ s.phys.extents, e.1 = q ∧ e.2.1 ≤ k ∧ k < e.2.1 + e.2.2) ∧
    (∀ q since, q < 16 → s.phys.cxlWait.get none q = some since → quiet →
      (s.cycle ≤ since + 2 ^ 26 → Completes (.ideReestablished q) s fun t =>
        t.agenda = s.waiting.map (fun e => Turn.event e.2.2) ++ s.agenda ∧ bitOf t.phys.cxl q = true ∧ t.phys.cxlWait.get none q = none ∧ SameMemory s t) ∧
      (since + 2 ^ 26 ≤ s.cycle → Completes (.cxlResetTimeout q) s fun t =>
        bitOf t.phys.cxl q = false ∧ t.phys.cxlWait.get none q = none ∧ SameMemory s t)) ∧
    (kind 6 1 [(16, 8)] → target < s.part.cores → (s.coreAt target).quar = true → ok (.returnCore ses h body) fun t =>
      t.coreAt target = { s.coreAt target with quar := false, susp := 0 }) ∧
    (kind 6 2 [(16, 8)] → target < s.part.clusters → ok (.returnCluster ses h body) fun t =>
      t.clusterAt target = { s.clusterAt target with quar := false }) ∧
    (kind 6 3 [(16, 8)] → target % 2 ^ 16 = 0 → target < 2 ^ 46 →
      (s.pageScrubbed (target / 2 ^ 16) = true → ok (.returnPage ses h body) fun t =>
        t.phys.retired.get false (target / 2 ^ 16) = false) ∧
      (s.pageScrubbed (target / 2 ^ 16) = false → denies (.returnPage ses h body) .badcmd)) ∧
    (kind 7 0 [(12, 4)] → ok (.raiseFuseTackRoom ses h body) fun t =>
      t.tack = { s.tack with fuseTack := max s.tack.fuseTack m }) ∧
    (kind 7 1 [(12, 4)] → ok (.raiseFusePavilion ses h body) fun t =>
      t.tack = { s.tack with fusePav := max s.tack.fusePav m }) ∧
    (Manages s ses h body 9 [(8, 1)] → p < 16 → (s.job p).st = .held → ok (.resumeScrub ses h body) fun t =>
      t.job p = { s.job p with st := .run, issuer := none }) ∧
    (Manages s ses h body 10 [(8, 1), (10, 2), (16, 32 * f 10 2)] → p < 16 → f 10 2 ≤ 4096 →
      (let es := (List.range (f 10 2)).map fun i => BitVec.ofNat 256 (f (16 + 32 * i) 32)
       ((∀ e ∈ es, scheduleBad e = false) → ok (.loadEvictionSchedule ses h body) fun t =>
        t.pavAt p = { s.pavAt p with sched := es }) ∧
       ((∃ e ∈ es, scheduleBad e = true) → denies (.loadEvictionSchedule ses h body) .badcmd))) ∧
    (Manages s ses h body 11 [(8, 1)] →
      (16 ≤ p → ok (.quarantineThreshold ses h body) fun t => t.phys = { s.phys with threshold := p }) ∧
      (p < 16 → denies (.quarantineThreshold ses h body) .badcmd))

/-! ## Resets -/

/-- 20 R344, R345, R355, 22 R363: what a warm reset ends and what it keeps; a cold reset boots, or accepts firmware only
where the Tack Room image is below its fuse, until an image that verifies is loaded. -/
def Obligations.ResetsEndWhatTheyMust : Prop :=
  ∀ (s : State),
    let ended (t : State) : Prop := t.ctxs = .empty ∧ t.launches = .empty ∧ t.warps = .empty ∧ t.blocks = .empty ∧
      t.gangs = .empty ∧ t.sessions = .empty ∧ t.ops = [] ∧ t.faults = [] ∧ t.waiting = [] ∧ t.late = [] ∧ t.held = []
    let accepts (x : FwImage) (fuse : Nat) : Prop :=
      Config.sigVerifies x.bytes x.sig = true ∧ fuse ≤ x.version
    let warmed (t : State) : Prop := ended t ∧ t.boot = .running ∧ t.mem = s.mem ∧ t.phys.grans = s.phys.grans ∧
      t.phys.poison = s.phys.poison ∧ t.phys.retired = s.phys.retired ∧ t.phys.records = s.phys.records ∧
      t.phys.threshold = s.phys.threshold ∧ t.phys.extents = s.phys.extents ∧ t.lseq = s.lseq ∧
      t.tack.slots = .empty ∧ t.tack.grants = [] ∧ t.tack.fuseTack = s.tack.fuseTack ∧ t.tack.fusePav = s.tack.fusePav ∧
      t.tack.sigCounter = s.tack.sigCounter ∧ t.tack.boots = s.tack.boots ∧
      (∀ j, (t.job j).st = (if (s.job j).st = .run then .held else (s.job j).st) ∧ (t.job j).ckpt = (s.job j).ckpt ∧
        (t.job j).desc = (s.job j).desc ∧ (t.job j).issuer = none) ∧
      (∀ k, (t.clusterAt k).quar = (s.clusterAt k).quar ∧ (t.clusterAt k).lent = none) ∧
      (∀ c < s.part.cores, (t.coreAt c).quar = (s.coreAt c).quar ∧ (t.coreAt c).susp = (s.coreAt c).susp ∧
        (t.coreAt c).assigned = .unowned ∧ (t.coreAt c).tlb = [] ∧ (t.coreAt c).bslots = .empty ∧
        (t.coreAt c).groups = [] ∧ (t.coreAt c).resetAt = s.cycle) ∧
      (∀ p < 16, (t.pavAt p).cfg = (s.pavAt p).cfg ∧ (t.pavAt p).col = (s.pavAt p).col ∧ (t.pavAt p).log = [] ∧
        ((t.pavAt p).enabled = true ↔ accepts (s.pavImage p) s.tack.fusePav)) ∧
      ∀ g c, s.phys.owners.get .unowned g = .ctx c → t.phys.owners.get .unowned g = .pool (s.ctxAt c).pav
    let booted (u t : State) : Prop := ended t ∧ t.boot = .running ∧ t.tack.boots = u.tack.boots + 1 ∧
      t.tack.slots = .empty ∧ t.tack.grants = [] ∧ t.tack.jobs = .empty ∧ t.tack.fuseTack = u.tack.fuseTack ∧
      t.tack.fusePav = u.tack.fusePav ∧ t.tack.version = u.tack.version ∧ t.phys.retired = s.phys.retired ∧
      t.phys.eth = 0xFFF#12 ∧ t.phys.poison = .empty ∧ t.phys.records = .empty ∧ t.phys.owners = .empty ∧
      t.phys.threshold = 64 ∧ t.clusters = .empty ∧
      (∀ c < u.part.cores, t.coreAt c = { Core.reset with resetAt := u.cycle }) ∧
      ∀ p < 16, (t.pavAt p).cfg = 0x0010_1004_0000_0000#64 ∧ (t.pavAt p).log = [] ∧
        ((t.pavAt p).enabled = true ↔ accepts (s.pavImage p) s.tack.fusePav)
    (∀ (ses : Nat) (h : BitVec 256) (body : List Byte), Manages s ses h body 8 [] →
      Completes (.warmReset ses h body) s fun t => warmed t ∧ Answers t ses h .ok []) ∧
    (Completes .watchdogReset s fun t => warmed t ∧ t.outbox = s.outbox) ∧
    (accepts s.tackImage s.tack.fuseTack → Completes .coldReset s (booted s)) ∧
    (¬accepts s.tackImage s.tack.fuseTack → Completes .coldReset s fun t => ended t ∧ t.boot = .needFirmware) ∧
    (∀ m : FwImage, s.boot = .needFirmware →
      let x : FwImage := { m with version := Config.imageVersion m.bytes }
      (accepts x s.tack.fuseTack → Completes (.firmwareLoad m) s fun t =>
        booted { s with tack := { s.tack with code := some x, version := x.version } } t ∧ t.tack.code = some x) ∧
      (¬accepts x s.tack.fuseTack → exec (.firmwareLoad m) s = .next s))

/-! ## Keys, attestation and grants -/

/-- 20 R331 to R341: derived keys, the order of an SPDM connection, its signatures, and the keys and grants that an owner's
secured session loads. A message out of order is answered with an error. -/
def Obligations.TackRoomAnswers : Prop :=
  ∀ (s : State) (e : Nat),
    let x := s.ep e
    let replies (i : Instr) (r : SpdmResp) (q : State → Prop) : Prop := Completes i s fun t =>
      t.outbox = s.outbox ++ [.spdm e r] ∧ t.mem = s.mem ∧ q t
    let errs (i : Instr) : Prop := exec i s = .next (s.send (.spdm e .error))
    let signs : Prop := s.tack.sigCounter < 2 ^ 40
    let signed (t : State) : Prop := t.tack.sigCounter = s.tack.sigCounter + 1
    let derive (purpose context v : Nat) : List Byte :=
      shake256 (Config.rootSecret ++ leBytes 4 purpose ++ leBytes 32 context ++ leBytes 4 v) 32
    let sig (m : List Byte) : List Byte :=
      (List.range 9893).map fun i => (Config.sign (derive 2 0 0) s.tack.sigCounter m).getD i 0
    (∀ (r : Nat) (purpose : BitVec 32) (context : BitVec 256) (v : BitVec 32),
      let own := if r < 16 then (s.pavAt r).version else s.tack.version
      (v.toNat ≤ own → exec (.deriveKey r purpose context v) s =
        .next (s.send (.derived r (some (derive purpose.toNat context.toNat v.toNat))))) ∧
      (own < v.toNat → exec (.deriveKey r purpose context v) s = .next (s.send (.derived r none)))) ∧
    (replies (.getVersion e) .version fun t => t.ep e = { Endpoint.blank with version := true }) ∧
    (x.version = true → replies (.getCapabilities e) .capabilities fun t => t.ep e = { x with caps := true }) ∧
    (x.version = false → errs (.getCapabilities e)) ∧
    (∀ a : SpdmAlgs,
      let all := a.xmssExtAsym && a.sha3_384 && a.secp384r1 && a.aes256gcm
      (x.caps = true → replies (.negotiateAlgorithms e a) (.algorithms all) fun t => t.ep e = { x with algs := all }) ∧
      (x.caps = false → errs (.negotiateAlgorithms e a))) ∧
    (x.algs = true → replies (.getDigests e) (.digests (sha3_384 Config.certChain)) fun t =>
      t.ep e = { x with digests := true }) ∧
    (x.algs = false → errs (.getDigests e) ∧ (∀ slot off len, errs (.getCertificate e slot off len)) ∧
      (∀ n, errs (.challenge e n)) ∧ (∀ i want, errs (.getMeasurements e i want)) ∧
      ∀ p c who d, errs (.keyExchange e p c who true d)) ∧
    (∀ off len : Nat, x.algs = true → off ≤ Config.certChain.length →
      replies (.getCertificate e 0 off len) (.certificate 0 ((Config.certChain.drop off).take len)
        (Config.certChain.length - min Config.certChain.length (off + len))) fun t => t.ep e = { x with cert := true }) ∧
    (∀ n : BitVec 256, x.algs = true →
      (signs → replies (.challenge e n) (.challengeAuth (Config.spdmNonce s.tack.nonces) (sig
        (leBytes 32 n.toNat ++ leBytes 32 (Config.spdmNonce s.tack.nonces).toNat ++
          leBytes 48 (sha3_384 Config.certChain).toNat))) fun t => signed t ∧ t.ep e = { x with challenged := true }) ∧
      (¬signs → errs (.challenge e n))) ∧
    (∀ (i : Nat) (want : Bool), x.algs = true →
      let bs := s.blocks339 x i
      let p := s.pavAt x.pav
      (i = 1 → bs = [(1, sha3_384 (s.tackImage.bytes ++ leBytes 4 s.tack.version))]) ∧
      (x.keyed = true → i = 2 → bs = [(2, sha3_384 ((s.pavImage x.pav).bytes ++ leBytes 4 p.version))]) ∧
      (x.keyed = true → i = 3 → bs = [(3, sha3_384 (leBytes 8 p.cfg.toNat ++ leBytes 8 p.col.toNat ++
        leBytes 8 s.inService.toNat))]) ∧
      (x.keyed = true → x.device = false → i = 4 → bs = [(4, sha3_384 (s.ctxAt x.ctx).measured)]) ∧
      (x.keyed = true → x.device = false → i = 5 → bs = [(5, sha3_384 (s.launchMeasures x.ctx))]) ∧
      (x.keyed = false → 2 ≤ i → i ≤ 5 → bs = []) ∧
      (i = 0xFF → bs = ([1, 2, 3, 4, 5].map (s.blocks339 x)).flatten) ∧
      (bs = [] → errs (.getMeasurements e i want)) ∧
      (bs ≠ [] → replies (.getMeasurements e i false) (.measurements bs []) fun t => t.tack = s.tack) ∧
      (bs ≠ [] → signs → replies (.getMeasurements e i true) (.measurements bs (sig
        (bs.map fun b => leBytes 1 b.1 ++ leBytes 48 b.2.toNat).flatten)) signed)) ∧
    (∀ (p c : Nat) (who : SpdmWho) (d : BitVec 384),
      let here : Prop := (s.ctxAt c).live = true ∧ (s.ctxAt c).pav = p
      let bound : Prop := (who = .device ∧ p < 16) ∨ (who = .tenant ∧ here) ∨
        ∃ n < 16, who = .owner n ∧ here ∧ bitOf (s.ctxAt c).owners n = true ∧ (s.ctxAt c).certs.getD n 0 = d
      let session (t : State) (ctx : Nat) (o : Option Nat) : Prop := ∃ key, t.ep e = { x with
        pav := p, ctx := ctx, owner := o, device := who = .device, key := key, keyed := true, secured := false }
      (x.algs = true → bound → signs → replies (.keyExchange e p c who true d)
        (.keyExchangeRsp (Config.spdmNonce s.tack.nonces) (sig
          (leBytes 32 (Config.spdmNonce s.tack.nonces).toNat ++ leBytes 48 d.toNat))) fun t =>
          signed t ∧ (who = .device → session t 256 none) ∧ (who = .tenant → session t c none) ∧
            ∀ n, who = .owner n → session t c (some n)) ∧
      (¬bound ∨ ¬signs → errs (.keyExchange e p c who true d)) ∧ errs (.keyExchange e p c who false d)) ∧
    (x.keyed = true → x.secured = false →
      (replies (.finish e true) .finishRsp fun t => t.ep e = { x with secured := true }) ∧
      replies (.finish e false) .error fun t => t.ep e = { x with keyed := false }) ∧
    (x.keyed = false → ∀ v, errs (.finish e v)) ∧ (x.secured = false → errs (.endSession e)) ∧
    (x.secured = true → replies (.endSession e) .endSessionAck fun t =>
      t.ep e = { x with keyed := false, secured := false, owner := none, device := false } ∧
      ∀ i y, s.tack.migIn.get none i = some y →
        t.tack.migIn.get none i = some (if x.device && y.ep = e then { y with closed := true } else y)) ∧
    (∀ (c kind : Nat) (key : BitVec 256),
      (x.secured = false ∨ x.owner = none ∨ x.ctx ≠ c ∨ (s.ctxAt c).live = false ∨ s.emptySlot = none →
        replies (.keyload e true c kind key) (.vendor 7 0) fun t => t.tack = s.tack) ∧
      replies (.keyload e false c kind key) (.vendor 7 0) fun t => t.tack = s.tack) ∧
    (∀ (c o : Nat), x.secured = true → x.ctx = c → (s.ctxAt c).live = true → x.owner = some o →
      (∀ (kind k : Nat) (key : BitVec 256), s.emptySlot = some k →
        (kind = 1 ∨ kind = 4 → replies (.keyload e true c kind key) (.vendor 0 k) fun t =>
          t.keySlot k = ⟨true, kind, c, (s.ctxAt c).pav, false, key, s.tack.version⟩ ∧
          ∀ j, j ≠ k → t.keySlot j = s.keySlot j) ∧
        (kind ≠ 1 → kind ≠ 4 → replies (.keyload e true c kind key) (.vendor 7 0) fun t => t.tack = s.tack)) ∧
      (∀ (m : BitVec 384) (n : BitVec 32) (life : Nat),
        let rest := s.tack.grants.filter fun g => !(g.ctx = c && g.slot = o && g.meas = m)
        let mine := s.tack.grants.filter fun g => g.ctx = c && g.slot = o && s.cycle < g.expiry
        (n = 0 → replies (.grant e true c o m n life) (.vendor 0 0) fun t => t.tack = { s.tack with grants := rest }) ∧
        (n ≠ 0 → mine.length < 16 ∨ (∃ g ∈ mine, g.meas = m) → replies (.grant e true c o m n life) (.vendor 0 0) fun t =>
          t.tack = { s.tack with grants := rest ++ [⟨c, o, m, n, s.cycle + life * 2 ^ 16⟩] }) ∧
        (n ≠ 0 → 16 ≤ mine.length → (∀ g ∈ mine, g.meas ≠ m) → replies (.grant e true c o m n life) (.vendor 7 0) fun t =>
          t.tack = s.tack))) ∧
    (∀ (c o : Nat) (m : BitVec 384) (n : BitVec 32) (life : Nat),
      (x.secured = false ∨ x.owner ≠ some o ∨ x.ctx ≠ c →
        replies (.grant e true c o m n life) (.vendor 7 0) fun t => t.tack = s.tack) ∧
      replies (.grant e false c o m n life) (.vendor 7 0) fun t => t.tack = s.tack) ∧
    (∀ c o : Nat, exec (.grantExpiry c o) s = .next { s with tack := { s.tack with
      grants := s.tack.grants.filter fun g => !(g.ctx = c && g.slot = o && g.expiry ≤ s.cycle) } })

/-! ## Migration -/

/-- 20 R342, R343: MIGRATE holds the context and sends its state once its gangs are saved; the source gives it up on
PREPARED and restores it on REFUSED; the destination keeps an outcome, and activates on COMMIT or on the source's loss. -/
def Obligations.MigrationMovesOnce : Prop :=
  ∀ (s : State) (i : Nat),
    (∀ (ses : Nat) (h : BitVec 256) (body : List Byte),
      let peer := s.arrival.peer
      let c := hCtx h
      let p := (s.ctxAt c).pav
      let go := Instr.migrate ses h body
      let newer (q : MigPeer) : Prop := s.tack.version ≤ q.tackVersion ∧ (s.pavAt p).version ≤ q.pavVersion
      let record (t : State) (id : Nat) (st : MigSrc) (k : Nat) : Prop :=
        ∃ y, t.tack.migOut.get none id = some y ∧ y.st = st ∧ y.slot = k ∧ y.ctx = c ∧
          (st = .sent → y.since = s.cycle) ∧ ∀ q, peer = some q → newer q → y.peer = peer
      let carries (t : State) (m : MovedState) (pav : Nat) : Prop :=
        m.pav = pav ∧ m.ctx = t.ctxAt c ∧ (∀ g, g ∈ m.grants ↔ g ∈ s.tack.grants ∧ g.ctx = c) ∧
        (∀ x, x ∈ m.slots ↔ x ∈ s.tack.slots.entries ∧ x.2.used = true ∧ x.2.dead = false ∧ x.2.ctx = c ∧ x.2.kind ≠ 3) ∧
        ∀ g, g ∈ m.pages ↔ ∃ o ∈ s.phys.owners.entries, o.1 = g ∧ o.2 = .ctx c
      let sends (t : State) (id k pav : Nat) (before : List Msg) : Prop := (t.keySlot k).kind = 3 ∧ (t.keySlot k).ctx = c ∧
        t.mem = s.mem ∧ record t id .sent k ∧ ∃ q m, peer = some q ∧ carries t m pav ∧
          t.outbox = s.outbox ++ before ++ [.mig id (.state (sealState m (t.keySlot k).key q.key))]
      (Serves s ses h body 8 → body.length = 32 →
        (16 ≤ bodyAt body 16 1 ∨ zeros body 17 15 = false → Completes go s fun t =>
          Answers t ses h .badcmd [] ∧ (t.ctxAt c).held = false) ∧
        (bodyAt body 16 1 < 16 → zeros body 17 15 = true →
          (s.gangsOf c = [] → (∀ o ∈ s.ops, o.ctx ≠ c) →
            (peer = none → Completes go s fun t => (t.ctxAt c).held = true ∧ record t s.nextId .saving 0 ∧
              t.outbox = s.outbox ++ [.mig s.nextId .openSession]) ∧
            (∀ k q, peer = some q → newer q → s.emptySlot = some k → Completes go s fun t => (t.ctxAt c).held = true ∧
              sends t s.nextId k (bodyAt body 16 1) [.mig s.nextId .openSession]) ∧
            (∀ q, peer = some q → ¬newer q → (∀ n, (s.queueAt c n).cmds = []) → Completes go s fun t =>
              (t.ctxAt c).held = false ∧ Answers t ses h .fault [] ∧ t.tack.migOut.get none s.nextId = none ∧
              t.mem = s.mem)) ∧
          (∀ (g : Nat) (x : Gang), s.gangsOf c = [(g, x)] → s.gangAt g = x → x.saved = false → x.preempt = none →
            (∀ b ∈ x.blocks, (s.blockAt b).audit = false) → (∀ q, peer = some q → newer q) → Completes go s fun t =>
            (t.ctxAt c).held = true ∧ t.outbox = s.outbox ++ [.mig s.nextId .openSession] ∧
            (t.gangAt g).preempt = some (s.cycle, s.cycle + (s.pavAt p).pdl) ∧ record t s.nextId .saving 0))) ∧
      (∀ (id : Nat) (y : MigOut) (k : Nat) (q : MigPeer), s.leaving c = some (id, y) → y.ses = ses → y.hdr = h →
        y.st = .saving → y.peer = none → s.allSaved c = true → s.emptySlot = some k → peer = some q → newer q →
        Completes go s fun t => sends t id k y.destPav [])) ∧
    (∀ y : MigOut, s.sentMig i = some y →
      (s.arrival.secured = false → exec (.prepared i) s = .next (s.send (.mig i .badcmd)) ∧
        ∀ asNone, exec (.refused i asNone) s = .next (s.send (.mig i .badcmd))) ∧
      (s.arrival.secured = true → y.queued = [] →
        (Completes (.prepared i) s fun t =>
          (t.ctxAt y.ctx).live = false ∧ t.tack.migOut.get none i = none ∧ Answers t y.ses y.hdr .ok [] ∧
          (∀ k, (t.keySlot k).used = true → (t.keySlot k).ctx = y.ctx → (t.keySlot k).dead = true) ∧
          (∀ g ∈ t.tack.grants, g.ctx ≠ y.ctx) ∧ .mig i .commit ∈ t.outbox) ∧
        ((∀ q, (s.queueAt y.ctx q).cmds = []) → ∀ asNone : Bool, (asNone = true → y.asked ≠ 0) →
          Completes (.refused i asNone) s fun t =>
          (t.ctxAt y.ctx).held = false ∧ t.tack.migOut.get none i = none ∧ t.keySlot y.slot = KeySlot.blank ∧
          Answers t y.ses y.hdr .fault [] ∧ t.mem = s.mem)) ∧
      (let asks (ins : Instr) : Prop := Completes ins s fun t =>
         t.outbox = s.outbox ++ [.mig i .openSession, .mig i .askOutcome] ∧
         t.tack.migOut.get none i = some { y with asked := s.cycle }
       (y.asked = 0 → y.since + 2 ^ 30 ≤ s.cycle → asks (.migrationSilence i)) ∧
       (y.asked ≠ 0 → y.asked + 2 ^ 26 ≤ s.cycle → asks (.migrationOutcomePoll i)))) ∧
    (let ep := s.arrival.ep
      let x := s.ep ep
      let session : Prop := x.secured = true ∧ x.device = true
      let secure : Prop := s.arrival.secured = true ∧ session
      let tells (t : State) (m : MigMsg) (y : MigIn) : Prop :=
        t.outbox = s.outbox ++ [.mig i m] ∧ t.tack.migIn.get none i = some y
      let opens (ins : Instr) (y : MigIn) (data : List Byte) (key : BitVec 256) : Prop :=
        let refuses : Prop := Completes ins s fun t => tells t .refused { y with st := .ended } ∧ t.ctxs = s.ctxs
        (openState key data = none → refuses) ∧
        (∀ m, openState key data = some m → s.canReceive m = false → refuses) ∧
        (∀ (m : MovedState) (c n : Nat), openState key data = some m → s.canReceive m = true →
          lowestFree 256 ((s.ctxs.entries.filter fun e => e.2.live).map Prod.fst) = some c →
          lowestFree 64 (((s.ctxs.entries.filter fun e => e.2.live).filter fun e => e.2.pav = m.pav).map
            fun e => e.2.pidx) = some n → Completes ins s fun t =>
            tells t .prepared { y with st := .prepared, ctx := c } ∧
            (t.ctxAt c).held = true ∧ (t.ctxAt c).pav = m.pav ∧ (t.ctxAt c).pidx = n ∧ (t.ctxAt c).owners = m.ctx.owners ∧
            t.mem = s.mem ∧ ∀ g ∈ m.pages, t.phys.owners.get .unowned g = .ctx c)
      let rejects (ins : Instr) : Prop := exec ins s = .next (s.send (.mig i .badcmd))
      (s.tack.migIn.get none i = none → ∀ data : List Byte,
        let y : MigIn := ⟨.holding data x.key, 0, ep, false, none⟩
        (¬session → rejects (.migrationStateReceive i data)) ∧
        (session → (s.arrival.later = false → opens (.migrationStateReceive i data) y data x.key) ∧
          (s.arrival.later = true → Completes (.migrationStateReceive i data) s fun t =>
            t.tack.migIn.get none i = some y ∧ t.ctxs = s.ctxs ∧ t.outbox = s.outbox))) ∧
      (¬secure → rejects (.outcome i)) ∧
      (s.tack.migIn.get none i = none → secure → Completes (.outcome i) s fun t =>
        tells t .answerNone ⟨.ended, 0, ep, false, none⟩) ∧
      (∀ y : MigIn, s.tack.migIn.get none i = some y →
        let here := { y with ep := ep, closed := false, lostSince := none }
        let activates (ins : Instr) (st : MigDst) : Prop := (∀ q, (s.queueAt y.ctx q).cmds = []) →
          Completes ins s fun t => (t.ctxAt y.ctx).held = false ∧ t.mem = s.mem ∧
            t.tack.migIn.get none i = some { y with st := st }
        (¬secure → rejects (.commit i)) ∧
        (∀ data key, y.st = .holding data key →
          (s.arrival.later = false → ∀ d, opens (.migrationStateReceive i d) y data key) ∧
          (secure → Completes (.outcome i) s fun t => tells t .answerNone { here with st := .ended })) ∧
        (y.st = .prepared → secure → activates (.commit i) .ended ∧
          Completes (.outcome i) s fun t => tells t .answerPrepared here) ∧
        (y.st = .prepared → y.closed = false →
          (y.lostSince = none → Completes (.migrationSourceLoss i) s fun t =>
            t.tack.migIn.get none i = some { y with lostSince := some s.cycle }) ∧
          (∀ n, y.lostSince = some n → n + 2 ^ 26 ≤ s.cycle → activates (.migrationSourceLoss i) .active)) ∧
        (y.st = .active → secure → Completes (.outcome i) s fun t => tells t .answerPrepared { here with st := .ended }) ∧
        (y.st = .ended → secure → Completes (.outcome i) s fun t => t.outbox = s.outbox ++ [.mig i .answerNone])))

/-! ## Reset values -/

/-- 17 R290, 19 R311, 20 R344, 16 R288: what a cold reset leaves, as far as the spec gives the values. -/
def Obligations.ResetHasTheStatedValues : Prop :=
  let s := State.reset
  s.phys.eth = 0xFFF#12 ∧ s.phys.lsect = 0 ∧ s.phys.threshold = 64 ∧ s.phys.retired = .empty ∧ s.phys.records = .empty ∧
  s.ctxs = .empty ∧ s.warps = .empty ∧ s.launches = .empty ∧ s.sessions = .empty ∧ s.tack.slots = .empty ∧
  s.tack.grants = [] ∧ s.lseq = 0 ∧
  (∀ p, (s.pavAt p).cfg = 0x0010_1004_0000_0000#64 ∧ (s.pavAt p).log = [] ∧ (s.pavAt p).sched = [] ∧
    (s.pavAt p).en = false ∧ (s.pavAt p).rdl = 16 * 1024 ∧ (s.pavAt p).pdl = 16 * 1024 ∧
    fieldOf (s.pavAt p).cfg 32 8 = 4) ∧
  (∀ c, (s.coreAt c).susp = 0 ∧ (s.coreAt c).quar = false ∧ (s.coreAt c).assigned = .unowned ∧ (s.coreAt c).tlb = []) ∧
  (∀ k, (s.clusterAt k).quar = false ∧ (s.clusterAt k).lent = none) ∧
  ∀ g, s.phys.owners.get .unowned g = .unowned

/-- Memory keeps its canonical form: reset memory has it, every write of a byte keeps it, and reads what it wrote; two
memories in that form that read alike are equal. -/
def Obligations.MemoryStaysCanonical : Prop :=
  Memory.wf State.reset.mem = true ∧
  ∀ (m : Memory) (a : Nat) (b : Byte), Memory.wf m = true → Memory.wf (m.write a b) = true ∧
    (m.write a b).read a = b ∧ (∀ k, k ≠ a → (m.write a b).read k = m.read k) ∧
    ∀ n : Memory, Memory.wf n = true → (∀ k, m.read k = n.read k) → m = n

/-- An invariant of every step, whatever the turn: memory stays in its canonical form, and the part that the machine is
does not change. -/
def Obligations.EveryStepKeepsMemoryCanonical : Prop :=
  ∀ s t : State, step s = .next t → Memory.wf s.mem = true → Memory.wf t.mem = true ∧ t.part = s.part
end

