-- ==== Sys2Proof/Laws/Arms.lean ====
section
/-! SUPPORT. One equation a constructor: the meaning that `exec` calls. -/

namespace Sys2Proof.Machine

variable (s : State)

@[simp] theorem exec_braZ (p : Bool) (c : SNum) (o : BitVec 17) : exec (.braZ p c o) s = execBraZ p c o s := rfl
@[simp] theorem exec_braNz (p : Bool) (c : SNum) (o : BitVec 17) : exec (.braNz p c o) s = execBraNz p c o s := rfl
@[simp] theorem exec_brd (p : Bool) (c : SNum) (o : BitVec 17) : exec (.brd p c o) s = execBrd p c o s := rfl
@[simp] theorem exec_call (p : Bool) (c : SNum) (o : BitVec 17) : exec (.call p c o) s = execCall p c o s := rfl
@[simp] theorem exec_jmpi (p : Bool) (a : SNum) : exec (.jmpi p a) s = execJmpi p a s := rfl
@[simp] theorem exec_ret (p : Bool) (a : SNum) : exec (.ret p a) s = execRet p a s := rfl
@[simp] theorem exec_sread (p : Bool) (d : SNum) (n : BitVec 12) : exec (.sread p d n) s = execSread p d n s := rfl
@[simp] theorem exec_sreadClr (p : Bool) (d : SNum) (n : BitVec 12) : exec (.sreadClr p d n) s = execSreadClr p d n s := rfl
@[simp] theorem exec_swid (p : Bool) (d : SNum) (n : Imm16) : exec (.swid p d n) s = execSwid p d n s := rfl
@[simp] theorem exec_vwid (p : Bool) (d : VNum) (n : Imm16) : exec (.vwid p d n) s = execVwid p d n s := rfl
@[simp] theorem exec_spawn (p : Bool) (a : VNum) (b : SNum) : exec (.spawn p a b) s = execSpawn p a b s := rfl
@[simp] theorem exec_trap (p : Bool) (n : Imm16) : exec (.trap p n) s = execTrap p n s := rfl
@[simp] theorem exec_bar (p : Bool) (d : SNum) (n : BitVec 4) : exec (.bar p d n) s = execBar p d n s := rfl
@[simp] theorem exec_barg (p : Bool) (d : SNum) (n : BitVec 4) : exec (.barg p d n) s = execBarg p d n s := rfl
@[simp] theorem exec_nop (p : Bool) : exec (.nop p) s = execNop p s := rfl
@[simp] theorem exec_join (p : Bool) : exec (.join p) s = execJoin p s := rfl
@[simp] theorem exec_exit : exec .exit s = execExit s := rfl
@[simp] theorem exec_yield (p : Bool) : exec (.yield p) s = execYield p s := rfl
@[simp] theorem exec_sadd (p : Bool) (d : SNum) (a : SNum) (b : SNum) : exec (.sadd p d a b) s = execSadd p d a b s := rfl
@[simp] theorem exec_ssub (p : Bool) (d : SNum) (a : SNum) (b : SNum) : exec (.ssub p d a b) s = execSsub p d a b s := rfl
@[simp] theorem exec_smul (p : Bool) (d : SNum) (a : SNum) (b : SNum) : exec (.smul p d a b) s = execSmul p d a b s := rfl
@[simp] theorem exec_smulh (p : Bool) (d : SNum) (a : SNum) (b : SNum) : exec (.smulh p d a b) s = execSmulh p d a b s := rfl
@[simp] theorem exec_sdiv (p : Bool) (d : SNum) (a : SNum) (b : SNum) : exec (.sdiv p d a b) s = execSdiv p d a b s := rfl
@[simp] theorem exec_srem (p : Bool) (d : SNum) (a : SNum) (b : SNum) : exec (.srem p d a b) s = execSrem p d a b s := rfl
@[simp] theorem exec_sand (p : Bool) (d : SNum) (a : SNum) (b : SNum) : exec (.sand p d a b) s = execSand p d a b s := rfl
@[simp] theorem exec_sor (p : Bool) (d : SNum) (a : SNum) (b : SNum) : exec (.sor p d a b) s = execSor p d a b s := rfl
@[simp] theorem exec_sxor (p : Bool) (d : SNum) (a : SNum) (b : SNum) : exec (.sxor p d a b) s = execSxor p d a b s := rfl
@[simp] theorem exec_sshl (p : Bool) (d : SNum) (a : SNum) (b : SNum) : exec (.sshl p d a b) s = execSshl p d a b s := rfl
@[simp] theorem exec_sshr (p : Bool) (d : SNum) (a : SNum) (b : SNum) : exec (.sshr p d a b) s = execSshr p d a b s := rfl
@[simp] theorem exec_ssra (p : Bool) (d : SNum) (a : SNum) (b : SNum) : exec (.ssra p d a b) s = execSsra p d a b s := rfl
@[simp] theorem exec_srot (p : Bool) (d : SNum) (a : SNum) (b : SNum) : exec (.srot p d a b) s = execSrot p d a b s := rfl
@[simp] theorem exec_smin (p : Bool) (d : SNum) (a : SNum) (b : SNum) : exec (.smin p d a b) s = execSmin p d a b s := rfl
@[simp] theorem exec_smax (p : Bool) (d : SNum) (a : SNum) (b : SNum) : exec (.smax p d a b) s = execSmax p d a b s := rfl
@[simp] theorem exec_scmp (p : Bool) (d : SNum) (a : SNum) (b : SNum) (c : Cond) : exec (.scmp p d a b c) s = execScmp p d a b c s := rfl
@[simp] theorem exec_ssel (p : Bool) (d : SNum) (a : SNum) (b : SNum) : exec (.ssel p d a b) s = execSsel p d a b s := rfl
@[simp] theorem exec_smovi (p : Bool) (d : SNum) (im : Imm16) : exec (.smovi p d im) s = execSmovi p d im s := rfl
@[simp] theorem exec_smovh (p : Bool) (d : SNum) (im : Imm16) : exec (.smovh p d im) s = execSmovh p d im s := rfl
@[simp] theorem exec_saddi (p : Bool) (d : SNum) (im : Imm16) : exec (.saddi p d im) s = execSaddi p d im s := rfl
@[simp] theorem exec_spopc (p : Bool) (d : SNum) (a : SNum) : exec (.spopc p d a) s = execSpopc p d a s := rfl
@[simp] theorem exec_sclz (p : Bool) (d : SNum) (a : SNum) : exec (.sclz p d a) s = execSclz p d a s := rfl
@[simp] theorem exec_sctz (p : Bool) (d : SNum) (a : SNum) : exec (.sctz p d a) s = execSctz p d a s := rfl
@[simp] theorem exec_sbrev (p : Bool) (d : SNum) (a : SNum) : exec (.sbrev p d a) s = execSbrev p d a s := rfl
@[simp] theorem exec_sbfx (p : Bool) (d : SNum) (a : SNum) (b : SNum) : exec (.sbfx p d a b) s = execSbfx p d a b s := rfl
@[simp] theorem exec_sbfi (p : Bool) (d : SNum) (a : SNum) (b : SNum) : exec (.sbfi p d a b) s = execSbfi p d a b s := rfl
@[simp] theorem exec_sld (p : Bool) (d : SNum) (a : SNum) (b : SNum) (w : LdW) : exec (.sld p d a b w) s = execSld p d a b w s := rfl
@[simp] theorem exec_sst (p : Bool) (d : SNum) (a : SNum) (b : SNum) (w : StW) : exec (.sst p d a b w) s = execSst p d a b w s := rfl
@[simp] theorem exec_sldc (p : Bool) (d : SNum) (n : Imm16) : exec (.sldc p d n) s = execSldc p d n s := rfl
@[simp] theorem exec_mode (p : Bool) (a : SNum) : exec (.mode p a) s = execMode p a s := rfl
@[simp] theorem exec_modei (p : Bool) (im : Imm16) : exec (.modei p im) s = execModei p im s := rfl
@[simp] theorem exec_lget (p : Bool) (d : SNum) (a : SNum) : exec (.lget p d a) s = execLget p d a s := rfl
@[simp] theorem exec_lgetV (p : Bool) (d : VNum) (a : VNum) : exec (.lgetV p d a) s = execLgetV p d a s := rfl
@[simp] theorem exec_ljoin (p : Bool) (d : SNum) (a : SNum) (b : SNum) : exec (.ljoin p d a b) s = execLjoin p d a b s := rfl
@[simp] theorem exec_ljoinV (p : Bool) (d : VNum) (a : VNum) (b : SNum) : exec (.ljoinV p d a b) s = execLjoinV p d a b s := rfl
@[simp] theorem exec_lchk (p : Bool) (d : SNum) (a : SNum) (b : SNum) : exec (.lchk p d a b) s = execLchk p d a b s := rfl
@[simp] theorem exec_ltcompact (p : Bool) : exec (.ltcompact p) s = execLtcompact p s := rfl
@[simp] theorem exec_dcls (p : Bool) (d : VNum) (a : VNum) (g : SNum) : exec (.dcls p d a g) s = execDcls p d a g s := rfl
@[simp] theorem exec_dclsS (p : Bool) (d : SNum) (a : SNum) (g : SNum) : exec (.dclsS p d a g) s = execDclsS p d a g s := rfl
@[simp] theorem exec_vadd (p : Bool) (d : VNum) (a : VNum) (b : VNum) : exec (.vadd p d a b) s = execVadd p d a b s := rfl
@[simp] theorem exec_vsub (p : Bool) (d : VNum) (a : VNum) (b : VNum) : exec (.vsub p d a b) s = execVsub p d a b s := rfl
@[simp] theorem exec_vmul (p : Bool) (d : VNum) (a : VNum) (b : VNum) : exec (.vmul p d a b) s = execVmul p d a b s := rfl
@[simp] theorem exec_vmulh (p : Bool) (d : VNum) (a : VNum) (b : VNum) : exec (.vmulh p d a b) s = execVmulh p d a b s := rfl
@[simp] theorem exec_vmad (p : Bool) (d : VNum) (a : VNum) (b : VNum) : exec (.vmad p d a b) s = execVmad p d a b s := rfl
@[simp] theorem exec_vfma (p : Bool) (d : VNum) (a : VNum) (b : VNum) : exec (.vfma p d a b) s = execVfma p d a b s := rfl
@[simp] theorem exec_vmin (p : Bool) (d : VNum) (a : VNum) (b : VNum) : exec (.vmin p d a b) s = execVmin p d a b s := rfl
@[simp] theorem exec_vmax (p : Bool) (d : VNum) (a : VNum) (b : VNum) : exec (.vmax p d a b) s = execVmax p d a b s := rfl
@[simp] theorem exec_vabs (p : Bool) (d : VNum) (a : VNum) : exec (.vabs p d a) s = execVabs p d a s := rfl
@[simp] theorem exec_vneg (p : Bool) (d : VNum) (a : VNum) : exec (.vneg p d a) s = execVneg p d a s := rfl
@[simp] theorem exec_vdiv (p : Bool) (d : VNum) (a : VNum) (b : VNum) : exec (.vdiv p d a b) s = execVdiv p d a b s := rfl
@[simp] theorem exec_vsqrt (p : Bool) (d : VNum) (a : VNum) : exec (.vsqrt p d a) s = execVsqrt p d a s := rfl
@[simp] theorem exec_vrcp (p : Bool) (d : VNum) (a : VNum) : exec (.vrcp p d a) s = execVrcp p d a s := rfl
@[simp] theorem exec_vrsq (p : Bool) (d : VNum) (a : VNum) : exec (.vrsq p d a) s = execVrsq p d a s := rfl
@[simp] theorem exec_vexp2 (p : Bool) (d : VNum) (a : VNum) : exec (.vexp2 p d a) s = execVexp2 p d a s := rfl
@[simp] theorem exec_vlog2 (p : Bool) (d : VNum) (a : VNum) : exec (.vlog2 p d a) s = execVlog2 p d a s := rfl
@[simp] theorem exec_vsin (p : Bool) (d : VNum) (a : VNum) : exec (.vsin p d a) s = execVsin p d a s := rfl
@[simp] theorem exec_vcos (p : Bool) (d : VNum) (a : VNum) : exec (.vcos p d a) s = execVcos p d a s := rfl
@[simp] theorem exec_vcvt (p : Bool) (d : VNum) (a : VNum) (t : ETy) : exec (.vcvt p d a t) s = execVcvt p d a t s := rfl
@[simp] theorem exec_vand (p : Bool) (d : VNum) (a : VNum) (b : VNum) : exec (.vand p d a b) s = execVand p d a b s := rfl
@[simp] theorem exec_vor (p : Bool) (d : VNum) (a : VNum) (b : VNum) : exec (.vor p d a b) s = execVor p d a b s := rfl
@[simp] theorem exec_vxor (p : Bool) (d : VNum) (a : VNum) (b : VNum) : exec (.vxor p d a b) s = execVxor p d a b s := rfl
@[simp] theorem exec_vnot (p : Bool) (d : VNum) (a : VNum) : exec (.vnot p d a) s = execVnot p d a s := rfl
@[simp] theorem exec_vshl (p : Bool) (d : VNum) (a : VNum) (b : VNum) : exec (.vshl p d a b) s = execVshl p d a b s := rfl
@[simp] theorem exec_vshr (p : Bool) (d : VNum) (a : VNum) (b : VNum) : exec (.vshr p d a b) s = execVshr p d a b s := rfl
@[simp] theorem exec_vsra (p : Bool) (d : VNum) (a : VNum) (b : VNum) : exec (.vsra p d a b) s = execVsra p d a b s := rfl
@[simp] theorem exec_vbfx (p : Bool) (d : VNum) (a : VNum) (b : VNum) : exec (.vbfx p d a b) s = execVbfx p d a b s := rfl
@[simp] theorem exec_vbfi (p : Bool) (d : VNum) (a : VNum) (b : VNum) : exec (.vbfi p d a b) s = execVbfi p d a b s := rfl
@[simp] theorem exec_vpopc (p : Bool) (d : VNum) (a : VNum) : exec (.vpopc p d a) s = execVpopc p d a s := rfl
@[simp] theorem exec_vclz (p : Bool) (d : VNum) (a : VNum) : exec (.vclz p d a) s = execVclz p d a s := rfl
@[simp] theorem exec_vbrev (p : Bool) (d : VNum) (a : VNum) : exec (.vbrev p d a) s = execVbrev p d a s := rfl
@[simp] theorem exec_vcmp (p : Bool) (d : SNum) (a : VNum) (b : VNum) (c : VCond) : exec (.vcmp p d a b c) s = execVcmp p d a b c s := rfl
@[simp] theorem exec_vsel (p : Bool) (d : VNum) (a : VNum) (b : SNum) : exec (.vsel p d a b) s = execVsel p d a b s := rfl
@[simp] theorem exec_vmov (p : Bool) (d : VNum) (a : VNum) : exec (.vmov p d a) s = execVmov p d a s := rfl
@[simp] theorem exec_vmovs (p : Bool) (d : VNum) (b : SNum) : exec (.vmovs p d b) s = execVmovs p d b s := rfl
@[simp] theorem exec_vmovi (p : Bool) (d : VNum) (im : Imm16) : exec (.vmovi p d im) s = execVmovi p d im s := rfl
@[simp] theorem exec_vqadd (p : Bool) (d : VNum) (a : VNum) (b : SNum) : exec (.vqadd p d a b) s = execVqadd p d a b s := rfl
@[simp] theorem exec_vqsub (p : Bool) (d : VNum) (a : VNum) (b : SNum) : exec (.vqsub p d a b) s = execVqsub p d a b s := rfl
@[simp] theorem exec_vqmul (p : Bool) (d : VNum) (a : VNum) (b : SNum) : exec (.vqmul p d a b) s = execVqmul p d a b s := rfl
@[simp] theorem exec_vqbfly (p : Bool) (d : VNum) (a : VNum) (b : SNum) : exec (.vqbfly p d a b) s = execVqbfly p d a b s := rfl
@[simp] theorem exec_vqbflyi (p : Bool) (d : VNum) (a : VNum) (b : SNum) : exec (.vqbflyi p d a b) s = execVqbflyi p d a b s := rfl
@[simp] theorem exec_vshfl (p : Bool) (d : VNum) (a : VNum) (b : VNum) (m : ShflM) : exec (.vshfl p d a b m) s = execVshfl p d a b m s := rfl
@[simp] theorem exec_vshflS (p : Bool) (d : VNum) (a : VNum) (b : SNum) (m : ShflM) : exec (.vshflS p d a b m) s = execVshflS p d a b m s := rfl
@[simp] theorem exec_vballot (p : Bool) (d : SNum) (a : VNum) : exec (.vballot p d a) s = execVballot p d a s := rfl
@[simp] theorem exec_vred (p : Bool) (d : SNum) (a : VNum) (o : RedOp) : exec (.vred p d a o) s = execVred p d a o s := rfl
@[simp] theorem exec_vscan (p : Bool) (d : VNum) (a : VNum) (o : RedOp) (e : Bool) : exec (.vscan p d a o e) s = execVscan p d a o e s := rfl
@[simp] theorem exec_vbcast (p : Bool) (d : VNum) (a : VNum) (b : SNum) : exec (.vbcast p d a b) s = execVbcast p d a b s := rfl
@[simp] theorem exec_vbxch (p : Bool) (d : VNum) (a : VNum) (b : SNum) : exec (.vbxch p d a b) s = execVbxch p d a b s := rfl
@[simp] theorem exec_vmatch (p : Bool) (d : VNum) (a : VNum) : exec (.vmatch p d a) s = execVmatch p d a s := rfl
@[simp] theorem exec_vld (p : Bool) (d : VNum) (b : SNum) (o : VNum) (w : LdW) : exec (.vld p d b o w) s = execVld p d b o w s := rfl
@[simp] theorem exec_vst (p : Bool) (d : VNum) (b : SNum) (o : VNum) (w : StW) : exec (.vst p d b o w) s = execVst p d b o w s := rfl
@[simp] theorem exec_vldAcqB32 (p : Bool) (d : VNum) (b : SNum) (o : VNum) (sc : Scope) : exec (.vldAcqB32 p d b o sc) s = execVldAcqB32 p d b o sc s := rfl
@[simp] theorem exec_vldAcqB64 (p : Bool) (d : VNum) (b : SNum) (o : VNum) (sc : Scope) : exec (.vldAcqB64 p d b o sc) s = execVldAcqB64 p d b o sc s := rfl
@[simp] theorem exec_vstRelB32 (p : Bool) (d : VNum) (b : SNum) (o : VNum) (sc : Scope) : exec (.vstRelB32 p d b o sc) s = execVstRelB32 p d b o sc s := rfl
@[simp] theorem exec_vstRelB64 (p : Bool) (d : VNum) (b : SNum) (o : VNum) (sc : Scope) : exec (.vstRelB64 p d b o sc) s = execVstRelB64 p d b o sc s := rfl
@[simp] theorem exec_vldScB32 (p : Bool) (d : VNum) (b : SNum) (o : VNum) (sc : Scope) : exec (.vldScB32 p d b o sc) s = execVldScB32 p d b o sc s := rfl
@[simp] theorem exec_vldScB64 (p : Bool) (d : VNum) (b : SNum) (o : VNum) (sc : Scope) : exec (.vldScB64 p d b o sc) s = execVldScB64 p d b o sc s := rfl
@[simp] theorem exec_vstScB32 (p : Bool) (d : VNum) (b : SNum) (o : VNum) (sc : Scope) : exec (.vstScB32 p d b o sc) s = execVstScB32 p d b o sc s := rfl
@[simp] theorem exec_vstScB64 (p : Bool) (d : VNum) (b : SNum) (o : VNum) (sc : Scope) : exec (.vstScB64 p d b o sc) s = execVstScB64 p d b o sc s := rfl
@[simp] theorem exec_vlds (p : Bool) (d : VNum) (b : SNum) (o : VNum) (w : LdW) : exec (.vlds p d b o w) s = execVlds p d b o w s := rfl
@[simp] theorem exec_vsts (p : Bool) (d : VNum) (b : SNum) (o : VNum) (w : StW) : exec (.vsts p d b o w) s = execVsts p d b o w s := rfl
@[simp] theorem exec_vldp (p : Bool) (d : VNum) (b : SNum) (o : VNum) (w : LdW) : exec (.vldp p d b o w) s = execVldp p d b o w s := rfl
@[simp] theorem exec_vstp (p : Bool) (d : VNum) (b : SNum) (o : VNum) (w : StW) : exec (.vstp p d b o w) s = execVstp p d b o w s := rfl
@[simp] theorem exec_sprf (p : Bool) (a : SNum) (b : SNum) (l : Level) : exec (.sprf p a b l) s = execSprf p a b l s := rfl
@[simp] theorem exec_fence (p : Bool) (k : FenceK) (sc : Scope) : exec (.fence p k sc) s = execFence p k sc s := rfl
@[simp] theorem exec_mwait (p : Bool) (d : SNum) (a : SNum) (b : SNum) (c : WaitC) : exec (.mwait p d a b c) s = execMwait p d a b c s := rfl
@[simp] theorem exec_rhint (p : Bool) (a : SNum) (b : SNum) (h : HintA) : exec (.rhint p a b h) s = execRhint p a b h s := rfl
@[simp] theorem exec_vatomB32 (p : Bool) (d : VNum) (b : SNum) (o : VNum) (x : AtomOp) : exec (.vatomB32 p d b o x) s = execVatomB32 p d b o x s := rfl
@[simp] theorem exec_vatomB64 (p : Bool) (d : VNum) (b : SNum) (o : VNum) (x : AtomOp) : exec (.vatomB64 p d b o x) s = execVatomB64 p d b o x s := rfl
@[simp] theorem exec_vratomB32 (p : Bool) (d : VNum) (b : SNum) (o : VNum) (x : AtomOp) : exec (.vratomB32 p d b o x) s = execVratomB32 p d b o x s := rfl
@[simp] theorem exec_vratomB64 (p : Bool) (d : VNum) (b : SNum) (o : VNum) (x : AtomOp) : exec (.vratomB64 p d b o x) s = execVratomB64 p d b o x s := rfl
@[simp] theorem exec_satom (p : Bool) (d : SNum) (a : SNum) (b : SNum) (w : Bool) (o : AtomOp) : exec (.satom p d a b w o) s = execSatom p d a b w o s := rfl
@[simp] theorem exec_boinit (p : Bool) (a : SNum) (b : SNum) : exec (.boinit p a b) s = execBoinit p a b s := rfl
@[simp] theorem exec_boarr (p : Bool) (d : SNum) (a : SNum) (b : SNum) : exec (.boarr p d a b) s = execBoarr p d a b s := rfl
@[simp] theorem exec_bowait (p : Bool) (d : SNum) (a : SNum) (b : SNum) : exec (.bowait p d a b) s = execBowait p d a b s := rfl
@[simp] theorem exec_boexp (p : Bool) (a : SNum) (b : SNum) : exec (.boexp p a b) s = execBoexp p a b s := rfl
@[simp] theorem exec_vcpy (p : Bool) (d : VNum) (a : VNum) (w : CpyW) : exec (.vcpy p d a w) s = execVcpy p d a w s := rfl
@[simp] theorem exec_cbatch (p : Bool) (d : SNum) : exec (.cbatch p d) s = execCbatch p d s := rfl
@[simp] theorem exec_cwait (p : Bool) (a : SNum) : exec (.cwait p a) s = execCwait p a s := rfl
@[simp] theorem exec_kick (p : Bool) (a : SNum) : exec (.kick p a) s = execKick p a s := rfl
@[simp] theorem exec_rput (p : Bool) (a : SNum) (b : SNum) : exec (.rput p a b) s = execRput p a b s := rfl
@[simp] theorem exec_rget (p : Bool) (a : SNum) (b : SNum) : exec (.rget p a b) s = execRget p a b s := rfl
@[simp] theorem exec_mldb (p : Bool) (a : SNum) (b : SNum) (n : BitVec 2) : exec (.mldb p a b n) s = execMldb p a b n s := rfl
@[simp] theorem exec_mfree (p : Bool) (n : BitVec 2) : exec (.mfree p n) s = execMfree p n s := rfl
@[simp] theorem exec_munf (p : Bool) (a : SNum) : exec (.munf p a) s = execMunf p a s := rfl
@[simp] theorem exec_mmq (p : Bool) (a : VNum) : exec (.mmq p a) s = execMmq p a s := rfl
@[simp] theorem exec_mscaleA (p : Bool) (a : SNum) (b : SNum) : exec (.mscaleA p a b) s = execMscaleA p a b s := rfl
@[simp] theorem exec_mscaleB (p : Bool) (a : SNum) (b : SNum) : exec (.mscaleB p a b) s = execMscaleB p a b s := rfl
@[simp] theorem exec_mstat (p : Bool) (d : SNum) (c : Bool) : exec (.mstat p d c) s = execMstat p d c s := rfl
@[simp] theorem exec_mchk (p : Bool) (d : SNum) (c : Bool) : exec (.mchk p d c) s = execMchk p d c s := rfl
@[simp] theorem exec_fopen (p : Bool) (d : SNum) (a : SNum) (b : SNum) : exec (.fopen p d a b) s = execFopen p d a b s := rfl
@[simp] theorem exec_fclose (p : Bool) (a : SNum) : exec (.fclose p a) s = execFclose p a s := rfl
@[simp] theorem exec_fsend (p : Bool) (a : SNum) (b : SNum) : exec (.fsend p a b) s = execFsend p a b s := rfl
@[simp] theorem exec_fsendDefer (p : Bool) (a : SNum) (b : SNum) : exec (.fsendDefer p a b) s = execFsendDefer p a b s := rfl
@[simp] theorem exec_fcomb (p : Bool) (a : SNum) (b : SNum) (o : CombOp) : exec (.fcomb p a b o) s = execFcomb p a b o s := rfl
@[simp] theorem exec_eret : exec .eret s = execEret s := rfl
@[simp] theorem exec_tlbinv (p : Bool) (a : SNum) (b : SNum) (sc : TlbS) : exec (.tlbinv p a b sc) s = execTlbinv p a b sc s := rfl
@[simp] theorem exec_cinv (p : Bool) (a : SNum) (b : SNum) (l : Level) : exec (.cinv p a b l) s = execCinv p a b l s := rfl
@[simp] theorem exec_kzero (p : Bool) (a : SNum) (b : SNum) : exec (.kzero p a b) s = execKzero p a b s := rfl
@[simp] theorem exec_kstat (p : Bool) (d : SNum) (a : SNum) : exec (.kstat p d a) s = execKstat p d a s := rfl
@[simp] theorem exec_scrub (p : Bool) (d : SNum) (a : SNum) : exec (.scrub p d a) s = execScrub p d a s := rfl
@[simp] theorem exec_cassign (p : Bool) (d : SNum) (a : SNum) (b : SNum) : exec (.cassign p d a b) s = execCassign p d a b s := rfl
@[simp] theorem exec_splitMergeEarly (w : Nat) (a : Nat) (b : Nat) : exec (.splitMergeEarly w a b) s = execSplitMergeEarly w a b s := rfl
@[simp] theorem exec_loadReturn (w : Nat) (id : Nat) : exec (.loadReturn w id) s = execLoadReturn w id s := rfl
@[simp] theorem exec_mwaitWake (w : Nat) (sp : Nat) : exec (.mwaitWake w sp) s = execMwaitWake w sp s := rfl
@[simp] theorem exec_spawnBinTimer (core : Nat) (bin : Nat) : exec (.spawnBinTimer core bin) s = execSpawnBinTimer core bin s := rfl
@[simp] theorem exec_spawnBinLaunch (core : Nat) (bin : Nat) : exec (.spawnBinLaunch core bin) s = execSpawnBinLaunch core bin s := rfl
@[simp] theorem exec_slotDrainDone (w : Nat) : exec (.slotDrainDone w) s = execSlotDrainDone w s := rfl
@[simp] theorem exec_localityDecay (core : Nat) : exec (.localityDecay core) s = execLocalityDecay core s := rfl
@[simp] theorem exec_starvationIssue (w : Nat) (sp : Nat) : exec (.starvationIssue w sp) s = execStarvationIssue w sp s := rfl
@[simp] theorem exec_laneCopy (op : Nat) : exec (.laneCopy op) s = execLaneCopy op s := rfl
@[simp] theorem exec_requestElement (op : Nat) (im : Nat) : exec (.requestElement op im) s = execRequestElement op im s := rfl
@[simp] theorem exec_requestComplete (op : Nat) : exec (.requestComplete op) s = execRequestComplete op s := rfl
@[simp] theorem exec_remoteSourceRead (op : Nat) : exec (.remoteSourceRead op) s = execRemoteSourceRead op s := rfl
@[simp] theorem exec_remotePutArrival (m : PutMsg) : exec (.remotePutArrival m) s = execRemotePutArrival m s := rfl
@[simp] theorem exec_remoteGetArrival (m : GetMsg) : exec (.remoteGetArrival m) s = execRemoteGetArrival m s := rfl
@[simp] theorem exec_rgetDataReturn (op : Nat) (r : GetReply) : exec (.rgetDataReturn op r) s = execRgetDataReturn op r s := rfl
@[simp] theorem exec_remoteHoldTimeout (held : Nat) : exec (.remoteHoldTimeout held) s = execRemoteHoldTimeout held s := rfl
@[simp] theorem exec_sendArrival (m : SendMsg) : exec (.sendArrival m) s = execSendArrival m s := rfl
@[simp] theorem exec_sendDeferAdmit (held : Nat) : exec (.sendDeferAdmit held) s = execSendDeferAdmit held s := rfl
@[simp] theorem exec_sendStatus (op : Nat) (status : Nat) : exec (.sendStatus op status) s = execSendStatus op status s := rfl
@[simp] theorem exec_sendUnreachable (op : Nat) : exec (.sendUnreachable op) s = execSendUnreachable op s := rfl
@[simp] theorem exec_combinerContribution (src : BitVec 128) (hdr : BitVec 256) (payload : List Byte) (bad : Bool) : exec (.combinerContribution src hdr payload bad) s = execCombinerContribution src hdr payload bad s := rfl
@[simp] theorem exec_combinerTimeout (group : Nat) (seq : Nat) : exec (.combinerTimeout group seq) s = execCombinerTimeout group seq s := rfl
@[simp] theorem exec_combineResult (op : Nat) (hdr : BitVec 256) (payload : List Byte) : exec (.combineResult op hdr payload) s = execCombineResult op hdr payload s := rfl
@[simp] theorem exec_passGroupLaunch (core : Nat) (group : Nat) : exec (.passGroupLaunch core group) s = execPassGroupLaunch core group s := rfl
@[simp] theorem exec_passExecute (core : Nat) (group : Nat) (err : List PassErr) : exec (.passExecute core group err) s = execPassExecute core group err s := rfl
@[simp] theorem exec_passDrain (core : Nat) (group : Nat) : exec (.passDrain core group) s = execPassDrain core group s := rfl
@[simp] theorem exec_slotLoad (core : Nat) (slot : Nat) : exec (.slotLoad core slot) s = execSlotLoad core slot s := rfl
@[simp] theorem exec_eccUncorrectable (site : EccSite) : exec (.eccUncorrectable site) s = execEccUncorrectable site s := rfl
@[simp] theorem exec_hangDetect (ctx : Nat) : exec (.hangDetect ctx) s = execHangDetect ctx s := rfl
@[simp] theorem exec_refusalLogFlush (pav : Nat) : exec (.refusalLogFlush pav) s = execRefusalLogFlush pav s := rfl
@[simp] theorem exec_faultTimeout (tag : Nat) : exec (.faultTimeout tag) s = execFaultTimeout tag s := rfl
@[simp] theorem exec_gangDispatch (lseq : Nat) (gang : Nat) (cluster : Nat) : exec (.gangDispatch lseq gang cluster) s = execGangDispatch lseq gang cluster s := rfl
@[simp] theorem exec_launchReady (ctx : Nat) (queue : Nat) : exec (.launchReady ctx queue) s = execLaunchReady ctx queue s := rfl
@[simp] theorem exec_launchStart (lseq : Nat) : exec (.launchStart lseq) s = execLaunchStart lseq s := rfl
@[simp] theorem exec_launchComplete (lseq : Nat) : exec (.launchComplete lseq) s = execLaunchComplete lseq s := rfl
@[simp] theorem exec_auditRun (lseq : Nat) (block : Nat) (core : Nat) : exec (.auditRun lseq block core) s = execAuditRun lseq block core s := rfl
@[simp] theorem exec_auditCompare (lseq : Nat) (block : Nat) : exec (.auditCompare lseq block) s = execAuditCompare lseq block s := rfl
@[simp] theorem exec_quantumExpiry (pav : Nat) : exec (.quantumExpiry pav) s = execQuantumExpiry pav s := rfl
@[simp] theorem exec_preemptDeadline (cluster : Nat) : exec (.preemptDeadline cluster) s = execPreemptDeadline cluster s := rfl
@[simp] theorem exec_splitRelease (w : Nat) (sp : Nat) : exec (.splitRelease w sp) s = execSplitRelease w sp s := rfl
@[simp] theorem exec_gangSave (gang : Nat) : exec (.gangSave gang) s = execGangSave gang s := rfl
@[simp] theorem exec_saveTimeout (gang : Nat) : exec (.saveTimeout gang) s = execSaveTimeout gang s := rfl
@[simp] theorem exec_gangRestore (gang : Nat) (cluster : Nat) : exec (.gangRestore gang cluster) s = execGangRestore gang cluster s := rfl
@[simp] theorem exec_clusterLend (cluster : Nat) (pav : Nat) : exec (.clusterLend cluster pav) s = execClusterLend cluster pav s := rfl
@[simp] theorem exec_clusterReclaim (cluster : Nat) : exec (.clusterReclaim cluster) s = execClusterReclaim cluster s := rfl
@[simp] theorem exec_budgetWindow : exec .budgetWindow s = execBudgetWindow s := rfl
@[simp] theorem exec_hostRmaRead (ses : Nat) (va : Nat) (len : Nat) : exec (.hostRmaRead ses va len) s = execHostRmaRead ses va len s := rfl
@[simp] theorem exec_hostRmaWrite (ses : Nat) (va : Nat) (data : List Byte) : exec (.hostRmaWrite ses va data) s = execHostRmaWrite ses va data s := rfl
@[simp] theorem exec_sessionOpen (role : Role) (pav : Nat) (ctx : Nat) : exec (.sessionOpen role pav ctx) s = execSessionOpen role pav ctx s := rfl
@[simp] theorem exec_launch (ses : Nat) (hdr : BitVec 256) (body : List Byte) : exec (.launch ses hdr body) s = execLaunch ses hdr body s := rfl
@[simp] theorem exec_copy (ses : Nat) (hdr : BitVec 256) (body : List Byte) : exec (.copy ses hdr body) s = execCopy ses hdr body s := rfl
@[simp] theorem exec_signal (ses : Nat) (hdr : BitVec 256) (body : List Byte) : exec (.signal ses hdr body) s = execSignal ses hdr body s := rfl
@[simp] theorem exec_wait (ses : Nat) (hdr : BitVec 256) (body : List Byte) : exec (.wait ses hdr body) s = execWait ses hdr body s := rfl
@[simp] theorem exec_fenceCmd (ses : Nat) (hdr : BitVec 256) (body : List Byte) : exec (.fenceCmd ses hdr body) s = execFenceCmd ses hdr body s := rfl
@[simp] theorem exec_ctxcreate (ses : Nat) (hdr : BitVec 256) (body : List Byte) : exec (.ctxcreate ses hdr body) s = execCtxcreate ses hdr body s := rfl
@[simp] theorem exec_ctxdestroy (ses : Nat) (hdr : BitVec 256) (body : List Byte) : exec (.ctxdestroy ses hdr body) s = execCtxdestroy ses hdr body s := rfl
@[simp] theorem exec_migrate (ses : Nat) (hdr : BitVec 256) (body : List Byte) : exec (.migrate ses hdr body) s = execMigrate ses hdr body s := rfl
@[simp] theorem exec_map (ses : Nat) (hdr : BitVec 256) (body : List Byte) : exec (.map ses hdr body) s = execMap ses hdr body s := rfl
@[simp] theorem exec_unmap (ses : Nat) (hdr : BitVec 256) (body : List Byte) : exec (.unmap ses hdr body) s = execUnmap ses hdr body s := rfl
@[simp] theorem exec_faultreply (ses : Nat) (hdr : BitVec 256) (body : List Byte) : exec (.faultreply ses hdr body) s = execFaultreply ses hdr body s := rfl
@[simp] theorem exec_dcdadd (ses : Nat) (hdr : BitVec 256) (body : List Byte) : exec (.dcdadd ses hdr body) s = execDcdadd ses hdr body s := rfl
@[simp] theorem exec_dcdrel (ses : Nat) (hdr : BitVec 256) (body : List Byte) : exec (.dcdrel ses hdr body) s = execDcdrel ses hdr body s := rfl
@[simp] theorem exec_writePvcfg (ses : Nat) (hdr : BitVec 256) (body : List Byte) : exec (.writePvcfg ses hdr body) s = execWritePvcfg ses hdr body s := rfl
@[simp] theorem exec_writePvcol (ses : Nat) (hdr : BitVec 256) (body : List Byte) : exec (.writePvcol ses hdr body) s = execWritePvcol ses hdr body s := rfl
@[simp] theorem exec_setBudgets (ses : Nat) (hdr : BitVec 256) (body : List Byte) : exec (.setBudgets ses hdr body) s = execSetBudgets ses hdr body s := rfl
@[simp] theorem exec_readInService (ses : Nat) (hdr : BitVec 256) (body : List Byte) : exec (.readInService ses hdr body) s = execReadInService ses hdr body s := rfl
@[simp] theorem exec_pavilionImageUpdate (ses : Nat) (hdr : BitVec 256) (body : List Byte) : exec (.pavilionImageUpdate ses hdr body) s = execPavilionImageUpdate ses hdr body s := rfl
@[simp] theorem exec_clusterQuarantine (ses : Nat) (hdr : BitVec 256) (body : List Byte) : exec (.clusterQuarantine ses hdr body) s = execClusterQuarantine ses hdr body s := rfl
@[simp] theorem exec_sectorRetirement (ses : Nat) (hdr : BitVec 256) (body : List Byte) : exec (.sectorRetirement ses hdr body) s = execSectorRetirement ses hdr body s := rfl
@[simp] theorem exec_ethernetReset (ses : Nat) (hdr : BitVec 256) (body : List Byte) : exec (.ethernetReset ses hdr body) s = execEthernetReset ses hdr body s := rfl
@[simp] theorem exec_ethernetRemoval (ses : Nat) (hdr : BitVec 256) (body : List Byte) : exec (.ethernetRemoval ses hdr body) s = execEthernetRemoval ses hdr body s := rfl
@[simp] theorem exec_cxlReset (ses : Nat) (hdr : BitVec 256) (body : List Byte) : exec (.cxlReset ses hdr body) s = execCxlReset ses hdr body s := rfl
@[simp] theorem exec_cxlRemoval (ses : Nat) (hdr : BitVec 256) (body : List Byte) : exec (.cxlRemoval ses hdr body) s = execCxlRemoval ses hdr body s := rfl
@[simp] theorem exec_cxlResetTimeout (port : Nat) : exec (.cxlResetTimeout port) s = execCxlResetTimeout port s := rfl
@[simp] theorem exec_returnCore (ses : Nat) (hdr : BitVec 256) (body : List Byte) : exec (.returnCore ses hdr body) s = execReturnCore ses hdr body s := rfl
@[simp] theorem exec_returnCluster (ses : Nat) (hdr : BitVec 256) (body : List Byte) : exec (.returnCluster ses hdr body) s = execReturnCluster ses hdr body s := rfl
@[simp] theorem exec_returnPage (ses : Nat) (hdr : BitVec 256) (body : List Byte) : exec (.returnPage ses hdr body) s = execReturnPage ses hdr body s := rfl
@[simp] theorem exec_raiseFuseTackRoom (ses : Nat) (hdr : BitVec 256) (body : List Byte) : exec (.raiseFuseTackRoom ses hdr body) s = execRaiseFuseTackRoom ses hdr body s := rfl
@[simp] theorem exec_raiseFusePavilion (ses : Nat) (hdr : BitVec 256) (body : List Byte) : exec (.raiseFusePavilion ses hdr body) s = execRaiseFusePavilion ses hdr body s := rfl
@[simp] theorem exec_warmReset (ses : Nat) (hdr : BitVec 256) (body : List Byte) : exec (.warmReset ses hdr body) s = execWarmReset ses hdr body s := rfl
@[simp] theorem exec_watchdogReset : exec .watchdogReset s = execWatchdogReset s := rfl
@[simp] theorem exec_resumeScrub (ses : Nat) (hdr : BitVec 256) (body : List Byte) : exec (.resumeScrub ses hdr body) s = execResumeScrub ses hdr body s := rfl
@[simp] theorem exec_loadEvictionSchedule (ses : Nat) (hdr : BitVec 256) (body : List Byte) : exec (.loadEvictionSchedule ses hdr body) s = execLoadEvictionSchedule ses hdr body s := rfl
@[simp] theorem exec_quarantineThreshold (ses : Nat) (hdr : BitVec 256) (body : List Byte) : exec (.quarantineThreshold ses hdr body) s = execQuarantineThreshold ses hdr body s := rfl
@[simp] theorem exec_coldReset : exec .coldReset s = execColdReset s := rfl
@[simp] theorem exec_deriveKey (requester : Nat) (purpose : BitVec 32) (context : BitVec 256) (version : BitVec 32) : exec (.deriveKey requester purpose context version) s = execDeriveKey requester purpose context version s := rfl
@[simp] theorem exec_getVersion (ep : Nat) : exec (.getVersion ep) s = execGetVersion ep s := rfl
@[simp] theorem exec_getCapabilities (ep : Nat) : exec (.getCapabilities ep) s = execGetCapabilities ep s := rfl
@[simp] theorem exec_negotiateAlgorithms (ep : Nat) (algs : SpdmAlgs) : exec (.negotiateAlgorithms ep algs) s = execNegotiateAlgorithms ep algs s := rfl
@[simp] theorem exec_getDigests (ep : Nat) : exec (.getDigests ep) s = execGetDigests ep s := rfl
@[simp] theorem exec_getCertificate (ep : Nat) (slot : Nat) (off : Nat) (len : Nat) : exec (.getCertificate ep slot off len) s = execGetCertificate ep slot off len s := rfl
@[simp] theorem exec_challenge (ep : Nat) (nonce : BitVec 256) : exec (.challenge ep nonce) s = execChallenge ep nonce s := rfl
@[simp] theorem exec_getMeasurements (ep : Nat) (index : Nat) (signed : Bool) : exec (.getMeasurements ep index signed) s = execGetMeasurements ep index signed s := rfl
@[simp] theorem exec_keyExchange (ep : Nat) (pav : Nat) (ctx : Nat) (who : SpdmWho) (mutualAuth : Bool) (certDigest : BitVec 384) : exec (.keyExchange ep pav ctx who mutualAuth certDigest) s = execKeyExchange ep pav ctx who mutualAuth certDigest s := rfl
@[simp] theorem exec_finish (ep : Nat) (verified : Bool) : exec (.finish ep verified) s = execFinish ep verified s := rfl
@[simp] theorem exec_endSession (ep : Nat) : exec (.endSession ep) s = execEndSession ep s := rfl
@[simp] theorem exec_keyload (ep : Nat) (secured : Bool) (ctx : Nat) (kind : Nat) (key : BitVec 256) : exec (.keyload ep secured ctx kind key) s = execKeyload ep secured ctx kind key s := rfl
@[simp] theorem exec_grant (ep : Nat) (secured : Bool) (ctx : Nat) (slot : Nat) (meas : BitVec 384) (budget : BitVec 32) (life : Nat) : exec (.grant ep secured ctx slot meas budget life) s = execGrant ep secured ctx slot meas budget life s := rfl
@[simp] theorem exec_migrationStateReceive (mig : Nat) (data : List Byte) : exec (.migrationStateReceive mig data) s = execMigrationStateReceive mig data s := rfl
@[simp] theorem exec_prepared (mig : Nat) : exec (.prepared mig) s = execPrepared mig s := rfl
@[simp] theorem exec_commit (mig : Nat) : exec (.commit mig) s = execCommit mig s := rfl
@[simp] theorem exec_refused (mig : Nat) (asNone : Bool) : exec (.refused mig asNone) s = execRefused mig asNone s := rfl
@[simp] theorem exec_outcome (mig : Nat) : exec (.outcome mig) s = execOutcome mig s := rfl
@[simp] theorem exec_migrationSilence (mig : Nat) : exec (.migrationSilence mig) s = execMigrationSilence mig s := rfl
@[simp] theorem exec_migrationOutcomePoll (mig : Nat) : exec (.migrationOutcomePoll mig) s = execMigrationOutcomePoll mig s := rfl
@[simp] theorem exec_migrationSourceLoss (mig : Nat) : exec (.migrationSourceLoss mig) s = execMigrationSourceLoss mig s := rfl
@[simp] theorem exec_scrubChunk (job : Nat) : exec (.scrubChunk job) s = execScrubChunk job s := rfl
@[simp] theorem exec_grantExpiry (ctx : Nat) (slot : Nat) : exec (.grantExpiry ctx slot) s = execGrantExpiry ctx slot s := rfl
@[simp] theorem exec_firmwareLoad (image : FwImage) : exec (.firmwareLoad image) s = execFirmwareLoad image s := rfl
@[simp] theorem exec_ideReestablished (port : Nat) : exec (.ideReestablished port) s = execIdeReestablished port s := rfl
@[simp] theorem exec_imageSignatureVerified (pav : Nat) : exec (.imageSignatureVerified pav) s = execImageSignatureVerified pav s := rfl

end Sys2Proof.Machine
end

