-- ==== Sys2Proof/Laws/Completion.lean ====
section
/-! SUPPORT. From the checks at issue to an instruction's own effect. -/

namespace Sys2Proof.Machine

/-- An instruction whose checks at issue pass acts. -/
theorem State.Ready.issue {s : State} {i : Instr} (h : s.Ready i) : s.issueCheck i = none := by
  simp [State.issueCheck, h.operands, h.mask, h.priv, h.loads, h.poison]

theorem word_ok {i : Instr} {s t : State} {f : State → Eff State} (h : s.Ready i) (hf : f s = .ok t) :
    word i s f = .next t := by
  simp [word, h.issue, hf]

theorem word_error {i : Instr} {s : State} {f : State → Eff State} {e : Stop} (h : s.Ready i)
    (hf : f s = .error e) : word i s f = .next (s.stopped e (s.readLabel i) i.sp) := by
  simp [word, h.issue, hf]

theorem wordMarked_ok {i : Instr} {s t : State} {x y : Bool} {f : State → Eff State} (h : s.Ready i)
    (hf : f (s.mark x y (globalAtomic i)) = .ok t) : wordMarked i s x y f = .next t := by
  simp [wordMarked, h.issue, hf]

/-- An instruction completes where its effect does. -/
theorem completes_word {i : Instr} {s t : State} {f : State → Eff State} {P : State → Prop}
    (he : exec i s = word i s f) (h : s.Ready i) (hf : f s = .ok t) (hp : P t) : Completes i s P :=
  ⟨t, he.trans (word_ok h hf), hp⟩

theorem completes_marked {i : Instr} {s t : State} {x y : Bool} {f : State → Eff State} {P : State → Prop}
    (he : exec i s = wordMarked i s x y f) (h : s.Ready i) (hf : f (s.mark x y (globalAtomic i)) = .ok t) (hp : P t) :
    Completes i s P :=
  ⟨t, he.trans (wordMarked_ok h hf), hp⟩

end Sys2Proof.Machine
end

