-- ==== Sys2Proof/Laws/Sparse.lean ====
section
/-! SUPPORT. Laws of the sparse tables and of memory: read after write, and the canonical form that every write
keeps. -/

namespace Sys2Proof

variable {V : Type}

/-! ## Lists of entries -/

theorem Sparse.look_erase_same (k : Nat) (es : List (Nat × V)) : Sparse.look k (Sparse.erase k es) = none := by
  induction es with
  | nil => rfl
  | cons e t ih =>
    obtain ⟨j, v⟩ := e
    simp only [Sparse.erase]
    split
    · exact ih
    · simp [Sparse.look, *]

theorem Sparse.look_erase_other {k a : Nat} (h : a ≠ k) (es : List (Nat × V)) :
    Sparse.look a (Sparse.erase k es) = Sparse.look a es := by
  induction es with
  | nil => rfl
  | cons e t ih =>
    obtain ⟨j, v⟩ := e
    simp only [Sparse.erase]
    split
    · simp only [Sparse.look]
      rw [if_neg (by omega), ih]
    · simp only [Sparse.look, ih]

theorem Sparse.look_insert_same (k : Nat) (v : V) (es : List (Nat × V)) (h : Sparse.look k es = none) :
    Sparse.look k (Sparse.insert k v es) = some v := by
  induction es with
  | nil => simp [Sparse.insert, Sparse.look]
  | cons e t ih =>
    obtain ⟨j, w⟩ := e
    simp only [Sparse.insert]
    split
    · simp [Sparse.look]
    · simp only [Sparse.look] at h ⊢
      split at h
      · simp at h
      · rw [if_neg ‹_›, ih h]

theorem Sparse.look_insert_other {k a : Nat} (h : a ≠ k) (v : V) (es : List (Nat × V)) :
    Sparse.look a (Sparse.insert k v es) = Sparse.look a es := by
  induction es with
  | nil => simp [Sparse.insert, Sparse.look, h.symm]
  | cons e t ih =>
    obtain ⟨j, w⟩ := e
    simp only [Sparse.insert]
    split
    · simp [Sparse.look, h.symm]
    · simp only [Sparse.look, ih]

theorem Sparse.erase_erase (k : Nat) (es : List (Nat × V)) :
    Sparse.erase k (Sparse.erase k es) = Sparse.erase k es := by
  induction es with
  | nil => rfl
  | cons e t ih =>
    obtain ⟨j, v⟩ := e
    simp only [Sparse.erase]
    split
    · exact ih
    · simp [Sparse.erase, *]

theorem Sparse.erase_insert (k : Nat) (v : V) (es : List (Nat × V)) :
    Sparse.erase k (Sparse.insert k v es) = Sparse.erase k es := by
  induction es with
  | nil => simp [Sparse.insert, Sparse.erase]
  | cons e t ih =>
    obtain ⟨j, w⟩ := e
    simp only [Sparse.insert]
    split
    · simp [Sparse.erase]
    · simp only [Sparse.erase, ih]

theorem Sparse.mem_erase {k : Nat} {e : Nat × V} {es : List (Nat × V)} (h : e ∈ Sparse.erase k es) :
    e ∈ es ∧ e.1 ≠ k := by
  induction es with
  | nil => simp [Sparse.erase] at h
  | cons x t ih =>
    obtain ⟨j, v⟩ := x
    simp only [Sparse.erase] at h
    split at h
    · exact ⟨List.mem_cons_of_mem _ (ih h).1, (ih h).2⟩
    · rcases List.mem_cons.mp h with rfl | h
      · exact ⟨List.mem_cons_self, ‹_›⟩
      · exact ⟨List.mem_cons_of_mem _ (ih h).1, (ih h).2⟩

theorem Sparse.mem_insert {k : Nat} {v : V} {e : Nat × V} {es : List (Nat × V)} (h : e ∈ Sparse.insert k v es) :
    e = (k, v) ∨ e ∈ es := by
  induction es with
  | nil => simpa [Sparse.insert] using h
  | cons x t ih =>
    obtain ⟨j, w⟩ := x
    simp only [Sparse.insert] at h
    split at h
    · simpa using h
    · rcases List.mem_cons.mp h with rfl | h
      · exact Or.inr List.mem_cons_self
      · rcases ih h with h | h
        · exact Or.inl h
        · exact Or.inr (List.mem_cons_of_mem _ h)

/-- Keys strictly rising. -/
abbrev Sparse.rising (es : List (Nat × V)) : Prop := (es.map Prod.fst).Pairwise (· < ·)

theorem Sparse.rising_erase {k : Nat} {es : List (Nat × V)} (h : Sparse.rising es) :
    Sparse.rising (Sparse.erase k es) := by
  induction es with
  | nil => exact h
  | cons x t ih =>
    obtain ⟨j, v⟩ := x
    simp only [Sparse.rising, List.map_cons, List.pairwise_cons] at h
    simp only [Sparse.erase]
    split
    · exact ih h.2
    · simp only [Sparse.rising, List.map_cons, List.pairwise_cons]
      refine ⟨fun a ha => ?_, ih h.2⟩
      obtain ⟨e, he, rfl⟩ := List.mem_map.mp ha
      exact h.1 _ (List.mem_map_of_mem (Sparse.mem_erase he).1)

theorem Sparse.rising_insert {k : Nat} {v : V} {es : List (Nat × V)} (h : Sparse.rising es)
    (hk : ∀ e ∈ es, e.1 ≠ k) : Sparse.rising (Sparse.insert k v es) := by
  induction es with
  | nil => simp [Sparse.insert, Sparse.rising]
  | cons x t ih =>
    obtain ⟨j, w⟩ := x
    have hj : j ≠ k := hk (j, w) List.mem_cons_self
    have h' := h
    simp only [Sparse.rising, List.map_cons, List.pairwise_cons] at h'
    simp only [Sparse.insert]
    split
    · rename_i hlt
      simp only [Sparse.rising, List.map_cons, List.pairwise_cons]
      refine ⟨fun a ha => ?_, h'.1, h'.2⟩
      rcases List.mem_cons.mp ha with rfl | ha
      · exact hlt
      · exact Nat.lt_trans hlt (h'.1 _ ha)
    · rename_i hlt
      simp only [Sparse.rising, List.map_cons, List.pairwise_cons]
      refine ⟨fun a ha => ?_, ih h'.2 fun e he => hk e (List.mem_cons_of_mem _ he)⟩
      obtain ⟨e, he, rfl⟩ := List.mem_map.mp ha
      rcases Sparse.mem_insert he with rfl | he
      · show j < k
        omega
      · exact h'.1 _ (List.mem_map_of_mem he)

/-! ## Tables -/

@[simp] theorem Sparse.get_empty (d : V) (k : Nat) : (Sparse.empty : Sparse V).get d k = d := rfl

@[simp] theorem Sparse.get_set_same [DecidableEq V] (m : Sparse V) (d : V) (k : Nat) (v : V) :
    (m.set d k v).get d k = v := by
  unfold Sparse.set Sparse.get
  split
  · rw [Sparse.look_erase_same]; simp [*]
  · rw [Sparse.look_insert_same _ _ _ (Sparse.look_erase_same _ _)]; rfl

theorem Sparse.get_set_other [DecidableEq V] (m : Sparse V) (d : V) {k a : Nat} (v : V) (h : a ≠ k) :
    (m.set d k v).get d a = m.get d a := by
  unfold Sparse.set Sparse.get
  split
  · rw [Sparse.look_erase_other h]
  · rw [Sparse.look_insert_other h, Sparse.look_erase_other h]

theorem Sparse.get_set [DecidableEq V] (m : Sparse V) (d : V) (k a : Nat) (v : V) :
    (m.set d k v).get d a = if a = k then v else m.get d a := by
  split
  · subst a; exact m.get_set_same d k v
  · exact m.get_set_other d v ‹_›

@[simp] theorem Sparse.set_set [DecidableEq V] (m : Sparse V) (d : V) (k : Nat) (v w : V) :
    (m.set d k v).set d k w = m.set d k w := by
  unfold Sparse.set
  split <;> split <;> simp [Sparse.erase_erase, Sparse.erase_insert]

/-- A write keeps the canonical form. -/
theorem Sparse.wf_set [DecidableEq V] (m : Sparse V) (d : V) (k : Nat) (v : V) (h : m.wf d = true) :
    (m.set d k v).wf d = true := by
  simp only [Sparse.wf, Bool.and_eq_true, decide_eq_true_eq, List.all_eq_true] at h ⊢
  unfold Sparse.set
  split
  · exact ⟨Sparse.rising_erase h.1, fun e he => h.2 e (Sparse.mem_erase he).1⟩
  · rename_i hv
    refine ⟨Sparse.rising_insert (Sparse.rising_erase h.1) fun e he => (Sparse.mem_erase he).2, fun e he => ?_⟩
    rcases Sparse.mem_insert he with rfl | he
    · simpa using hv
    · exact h.2 e (Sparse.mem_erase he).1

end Sys2Proof

namespace Sys2Proof.Machine

/-! ## Memory (09 R154, 10 R174) -/

@[simp] theorem Memory.read_write_same (m : Memory) (a : Nat) (b : Byte) : (m.write a b).read a = b := by
  unfold Memory.write Memory.read
  split
  · rw [Sparse.look_erase_same]; simp [*]
  · rw [Sparse.look_insert_same _ _ _ (Sparse.look_erase_same _ _)]; rfl

theorem Memory.read_write_other (m : Memory) {a k : Nat} (b : Byte) (h : a ≠ k) :
    (m.write k b).read a = m.read a := by
  unfold Memory.write Memory.read
  split
  · rw [Sparse.look_erase_other h]
  · rw [Sparse.look_insert_other h, Sparse.look_erase_other h]

/-- Every write keeps memory's canonical form. -/
theorem Memory.wf_write (m : Memory) (a : Nat) (b : Byte) (h : m.wf = true) : (m.write a b).wf = true := by
  simp only [Memory.wf, Bool.and_eq_true, decide_eq_true_eq, List.all_eq_true] at h ⊢
  unfold Memory.write
  split
  · exact ⟨Sparse.rising_erase h.1, fun e he => h.2 e (Sparse.mem_erase he).1⟩
  · rename_i hv
    refine ⟨Sparse.rising_insert (Sparse.rising_erase h.1) fun e he => (Sparse.mem_erase he).2, fun e he => ?_⟩
    rcases Sparse.mem_insert he with rfl | he
    · simpa using hv
    · exact h.2 e (Sparse.mem_erase he).1

/-- Memory after reset is in canonical form. -/
theorem State.reset_mem_wf : State.reset.mem.wf = true := rfl

end Sys2Proof.Machine
end

