-- ==== Sys2Proof/Laws/Keys.lean ====
section
/-! SUPPORT. What ends of `kzero` waits can do. -/

namespace Sys2Proof.Laws
open Sys2Proof.Machine

/-- `t` is `s` but for its warps and for key slots that are empty in `t`. -/
def OnlyKeys (s t : State) : Prop :=
  (∃ ws ks, t = { s with warps := ws, tack := { s.tack with slots := ks } }) ∧
    ∀ k, t.keySlot k = s.keySlot k ∨ t.keySlot k = KeySlot.blank

theorem OnlyKeys.refl (s : State) : OnlyKeys s s := ⟨⟨s.warps, s.tack.slots, rfl⟩, fun _ => .inl rfl⟩

theorem OnlyKeys.trans {s t u : State} (h : OnlyKeys s t) (g : OnlyKeys t u) : OnlyKeys s u := by
  obtain ⟨⟨ws, ks, rfl⟩, hk⟩ := h
  obtain ⟨⟨ws', ks', rfl⟩, gk⟩ := g
  refine ⟨⟨ws', ks', rfl⟩, fun k => ?_⟩
  obtain e | e := gk k
  · exact (hk k).imp e.trans e.trans
  · exact .inr e

theorem onlyKeys_foldl {α : Type} (f : State → α → State) (h : ∀ s a, OnlyKeys s (f s a)) (xs : List α) (s : State) :
    OnlyKeys s (xs.foldl f s) := by
  induction xs generalizing s with
  | nil => exact OnlyKeys.refl s
  | cons a t ih => exact (h s a).trans (ih _)

/-- Emptying key slots. -/
theorem zeroKeys_onlyKeys (f n pav : Nat) (s : State) : OnlyKeys s (zeroKeys f n pav s) := by
  refine onlyKeys_foldl _ (fun s k => ?_) _ _
  split
  · exact .refl s
  · refine ⟨⟨s.warps, _, rfl⟩, fun j => ?_⟩
    show (s.tack.slots.set KeySlot.blank k KeySlot.blank).get KeySlot.blank j = _ ∨ _
    by_cases e : j = k
    · subst e; right; exact Sparse.get_set_same _ _ _ _
    · left; exact Sparse.get_set_other _ _ _ e

/-- A wait that ends changes only its warp. -/
theorem finishWait_warps (s : State) : ∃ ws, s.finishWait = { s with warps := ws } := ⟨_, rfl⟩

/-- The ends of `kzero` waits change warps, and empty key slots; nothing else. -/
theorem settleKzero_onlyKeys (s : State) : OnlyKeys s (settleKzero s) := by
  refine onlyKeys_foldl _ (fun s e => onlyKeys_foldl _ (fun s p => ?_) _ _) _ _
  split
  · split
    · exact .refl s
    · rename_i f n u _ _
      let s' : State := { s with cur := e.1, curSplit := p.1 }
      obtain ⟨⟨ws, ks, h⟩, hk⟩ := zeroKeys_onlyKeys f n s'.ctx.pav s'
      obtain ⟨ws', g⟩ := finishWait_warps (zeroKeys f n s'.ctx.pav s')
      refine ⟨⟨ws', ks, ?_⟩, fun k => ?_⟩
      · show State.asWarp _ _ _ _ = _
        rw [State.asWarp]
        change { (zeroKeys f n s'.ctx.pav s').finishWait with cur := s.cur, curSplit := s.curSplit } = _
        rw [g, h]
      · have := hk k
        show (State.asWarp _ _ _ _).keySlot k = _ ∨ (State.asWarp _ _ _ _).keySlot k = _
        rw [State.asWarp]
        change ({ (zeroKeys f n s'.ctx.pav s').finishWait with cur := s.cur, curSplit := s.curSplit } : State).keySlot k = _ ∨
          ({ (zeroKeys f n s'.ctx.pav s').finishWait with cur := s.cur, curSplit := s.curSplit } : State).keySlot k = _
        rw [g]
        exact this
  · exact .refl s

/-- With no `kzero` that waits, nothing changes. -/
theorem settleKzero_none (s : State)
    (h : ∀ e ∈ s.warps.entries, ∀ p ∈ e.2.liveSplits, ∀ f n u, p.2.st ≠ .swait (.kzero f n u)) : settleKzero s = s := by
  have inner (k : Nat) : ∀ (ps : List (Nat × Split)) (t : State), (∀ p ∈ ps, ∀ f n u, p.2.st ≠ .swait (.kzero f n u)) →
      ps.foldl (fun s p =>
        match p.2.st with
        | .swait (.kzero f n upto) =>
          if s.slotsBusy f n upto then s else s.asWarp k p.1 fun s => (zeroKeys f n s.ctx.pav s).finishWait
        | _ => s) t = t := by
    intro ps
    induction ps with
    | nil => intro t _; rfl
    | cons p ps ihp =>
      intro t hp
      rw [List.foldl_cons]
      have hh := hp p (by simp)
      split
      · rename_i f n u hst
        exact absurd hst (hh f n u)
      · exact ihp t fun q hq => hp q (by simp [hq])
  have outer : ∀ (xs : List (Nat × Warp)) (t : State),
      (∀ e ∈ xs, ∀ p ∈ e.2.liveSplits, ∀ f n u, p.2.st ≠ .swait (.kzero f n u)) →
      xs.foldl (fun s e => e.2.liveSplits.foldl (fun s p =>
        match p.2.st with
        | .swait (.kzero f n upto) =>
          if s.slotsBusy f n upto then s else s.asWarp e.1 p.1 fun s => (zeroKeys f n s.ctx.pav s).finishWait
        | _ => s) s) t = t := by
    intro xs
    induction xs with
    | nil => intro t _; rfl
    | cons e es ih =>
      intro t hx
      rw [List.foldl_cons, inner e.1 _ _ (hx e (by simp))]
      exact ih t fun e' he => hx e' (by simp [he])
  exact outer _ s h

end Sys2Proof.Laws
end

