-- ==== Sys2Proof/Laws/State.lean ====
section
/-! SUPPORT. One lemma a field of `State` for each update of it, and reading back what an update wrote. -/

namespace Sys2Proof.Machine

variable (s : State)

/-! ## `setWarpAt` -/

@[simp] theorem State.setWarpAt_part (k : Nat) (w : Warp) : (s.setWarpAt k w).part = s.part := rfl
@[simp] theorem State.setWarpAt_boot (k : Nat) (w : Warp) : (s.setWarpAt k w).boot = s.boot := rfl
@[simp] theorem State.setWarpAt_cycle (k : Nat) (w : Warp) : (s.setWarpAt k w).cycle = s.cycle := rfl
@[simp] theorem State.setWarpAt_cur (k : Nat) (w : Warp) : (s.setWarpAt k w).cur = s.cur := rfl
@[simp] theorem State.setWarpAt_curSplit (k : Nat) (w : Warp) : (s.setWarpAt k w).curSplit = s.curSplit := rfl
@[simp] theorem State.setWarpAt_mem (k : Nat) (w : Warp) : (s.setWarpAt k w).mem = s.mem := rfl
@[simp] theorem State.setWarpAt_phys (k : Nat) (w : Warp) : (s.setWarpAt k w).phys = s.phys := rfl
@[simp] theorem State.setWarpAt_hist (k : Nat) (w : Warp) : (s.setWarpAt k w).hist = s.hist := rfl
@[simp] theorem State.setWarpAt_blocks (k : Nat) (w : Warp) : (s.setWarpAt k w).blocks = s.blocks := rfl
@[simp] theorem State.setWarpAt_gangs (k : Nat) (w : Warp) : (s.setWarpAt k w).gangs = s.gangs := rfl
@[simp] theorem State.setWarpAt_launches (k : Nat) (w : Warp) : (s.setWarpAt k w).launches = s.launches := rfl
@[simp] theorem State.setWarpAt_ctxs (k : Nat) (w : Warp) : (s.setWarpAt k w).ctxs = s.ctxs := rfl
@[simp] theorem State.setWarpAt_pavs (k : Nat) (w : Warp) : (s.setWarpAt k w).pavs = s.pavs := rfl
@[simp] theorem State.setWarpAt_cores (k : Nat) (w : Warp) : (s.setWarpAt k w).cores = s.cores := rfl
@[simp] theorem State.setWarpAt_clusters (k : Nat) (w : Warp) : (s.setWarpAt k w).clusters = s.clusters := rfl
@[simp] theorem State.setWarpAt_dieTlb (k : Nat) (w : Warp) : (s.setWarpAt k w).dieTlb = s.dieTlb := rfl
@[simp] theorem State.setWarpAt_ops (k : Nat) (w : Warp) : (s.setWarpAt k w).ops = s.ops := rfl
@[simp] theorem State.setWarpAt_held (k : Nat) (w : Warp) : (s.setWarpAt k w).held = s.held := rfl
@[simp] theorem State.setWarpAt_rounds (k : Nat) (w : Warp) : (s.setWarpAt k w).rounds = s.rounds := rfl
@[simp] theorem State.setWarpAt_faults (k : Nat) (w : Warp) : (s.setWarpAt k w).faults = s.faults := rfl
@[simp] theorem State.setWarpAt_waiting (k : Nat) (w : Warp) : (s.setWarpAt k w).waiting = s.waiting := rfl
@[simp] theorem State.setWarpAt_sessions (k : Nat) (w : Warp) : (s.setWarpAt k w).sessions = s.sessions := rfl
@[simp] theorem State.setWarpAt_tack (k : Nat) (w : Warp) : (s.setWarpAt k w).tack = s.tack := rfl
@[simp] theorem State.setWarpAt_outbox (k : Nat) (w : Warp) : (s.setWarpAt k w).outbox = s.outbox := rfl
@[simp] theorem State.setWarpAt_late (k : Nat) (w : Warp) : (s.setWarpAt k w).late = s.late := rfl
@[simp] theorem State.setWarpAt_lseq (k : Nat) (w : Warp) : (s.setWarpAt k w).lseq = s.lseq := rfl
@[simp] theorem State.setWarpAt_nextId (k : Nat) (w : Warp) : (s.setWarpAt k w).nextId = s.nextId := rfl
@[simp] theorem State.setWarpAt_windowStart (k : Nat) (w : Warp) : (s.setWarpAt k w).windowStart = s.windowStart := rfl
@[simp] theorem State.setWarpAt_free (k : Nat) (w : Warp) : (s.setWarpAt k w).free = s.free := rfl
@[simp] theorem State.setWarpAt_choices (k : Nat) (w : Warp) : (s.setWarpAt k w).choices = s.choices := rfl
@[simp] theorem State.setWarpAt_arrival (k : Nat) (w : Warp) : (s.setWarpAt k w).arrival = s.arrival := rfl
@[simp] theorem State.setWarpAt_agenda (k : Nat) (w : Warp) : (s.setWarpAt k w).agenda = s.agenda := rfl

/-! ## `setWarp` -/

@[simp] theorem State.setWarp_part (w : Warp) : (s.setWarp w).part = s.part := rfl
@[simp] theorem State.setWarp_boot (w : Warp) : (s.setWarp w).boot = s.boot := rfl
@[simp] theorem State.setWarp_cycle (w : Warp) : (s.setWarp w).cycle = s.cycle := rfl
@[simp] theorem State.setWarp_cur (w : Warp) : (s.setWarp w).cur = s.cur := rfl
@[simp] theorem State.setWarp_curSplit (w : Warp) : (s.setWarp w).curSplit = s.curSplit := rfl
@[simp] theorem State.setWarp_mem (w : Warp) : (s.setWarp w).mem = s.mem := rfl
@[simp] theorem State.setWarp_phys (w : Warp) : (s.setWarp w).phys = s.phys := rfl
@[simp] theorem State.setWarp_hist (w : Warp) : (s.setWarp w).hist = s.hist := rfl
@[simp] theorem State.setWarp_blocks (w : Warp) : (s.setWarp w).blocks = s.blocks := rfl
@[simp] theorem State.setWarp_gangs (w : Warp) : (s.setWarp w).gangs = s.gangs := rfl
@[simp] theorem State.setWarp_launches (w : Warp) : (s.setWarp w).launches = s.launches := rfl
@[simp] theorem State.setWarp_ctxs (w : Warp) : (s.setWarp w).ctxs = s.ctxs := rfl
@[simp] theorem State.setWarp_pavs (w : Warp) : (s.setWarp w).pavs = s.pavs := rfl
@[simp] theorem State.setWarp_cores (w : Warp) : (s.setWarp w).cores = s.cores := rfl
@[simp] theorem State.setWarp_clusters (w : Warp) : (s.setWarp w).clusters = s.clusters := rfl
@[simp] theorem State.setWarp_dieTlb (w : Warp) : (s.setWarp w).dieTlb = s.dieTlb := rfl
@[simp] theorem State.setWarp_ops (w : Warp) : (s.setWarp w).ops = s.ops := rfl
@[simp] theorem State.setWarp_held (w : Warp) : (s.setWarp w).held = s.held := rfl
@[simp] theorem State.setWarp_rounds (w : Warp) : (s.setWarp w).rounds = s.rounds := rfl
@[simp] theorem State.setWarp_faults (w : Warp) : (s.setWarp w).faults = s.faults := rfl
@[simp] theorem State.setWarp_waiting (w : Warp) : (s.setWarp w).waiting = s.waiting := rfl
@[simp] theorem State.setWarp_sessions (w : Warp) : (s.setWarp w).sessions = s.sessions := rfl
@[simp] theorem State.setWarp_tack (w : Warp) : (s.setWarp w).tack = s.tack := rfl
@[simp] theorem State.setWarp_outbox (w : Warp) : (s.setWarp w).outbox = s.outbox := rfl
@[simp] theorem State.setWarp_late (w : Warp) : (s.setWarp w).late = s.late := rfl
@[simp] theorem State.setWarp_lseq (w : Warp) : (s.setWarp w).lseq = s.lseq := rfl
@[simp] theorem State.setWarp_nextId (w : Warp) : (s.setWarp w).nextId = s.nextId := rfl
@[simp] theorem State.setWarp_windowStart (w : Warp) : (s.setWarp w).windowStart = s.windowStart := rfl
@[simp] theorem State.setWarp_free (w : Warp) : (s.setWarp w).free = s.free := rfl
@[simp] theorem State.setWarp_choices (w : Warp) : (s.setWarp w).choices = s.choices := rfl
@[simp] theorem State.setWarp_arrival (w : Warp) : (s.setWarp w).arrival = s.arrival := rfl
@[simp] theorem State.setWarp_agenda (w : Warp) : (s.setWarp w).agenda = s.agenda := rfl

/-! ## `setSplit` -/

@[simp] theorem State.setSplit_part (x : Split) : (s.setSplit x).part = s.part := rfl
@[simp] theorem State.setSplit_boot (x : Split) : (s.setSplit x).boot = s.boot := rfl
@[simp] theorem State.setSplit_cycle (x : Split) : (s.setSplit x).cycle = s.cycle := rfl
@[simp] theorem State.setSplit_cur (x : Split) : (s.setSplit x).cur = s.cur := rfl
@[simp] theorem State.setSplit_curSplit (x : Split) : (s.setSplit x).curSplit = s.curSplit := rfl
@[simp] theorem State.setSplit_mem (x : Split) : (s.setSplit x).mem = s.mem := rfl
@[simp] theorem State.setSplit_phys (x : Split) : (s.setSplit x).phys = s.phys := rfl
@[simp] theorem State.setSplit_hist (x : Split) : (s.setSplit x).hist = s.hist := rfl
@[simp] theorem State.setSplit_blocks (x : Split) : (s.setSplit x).blocks = s.blocks := rfl
@[simp] theorem State.setSplit_gangs (x : Split) : (s.setSplit x).gangs = s.gangs := rfl
@[simp] theorem State.setSplit_launches (x : Split) : (s.setSplit x).launches = s.launches := rfl
@[simp] theorem State.setSplit_ctxs (x : Split) : (s.setSplit x).ctxs = s.ctxs := rfl
@[simp] theorem State.setSplit_pavs (x : Split) : (s.setSplit x).pavs = s.pavs := rfl
@[simp] theorem State.setSplit_cores (x : Split) : (s.setSplit x).cores = s.cores := rfl
@[simp] theorem State.setSplit_clusters (x : Split) : (s.setSplit x).clusters = s.clusters := rfl
@[simp] theorem State.setSplit_dieTlb (x : Split) : (s.setSplit x).dieTlb = s.dieTlb := rfl
@[simp] theorem State.setSplit_ops (x : Split) : (s.setSplit x).ops = s.ops := rfl
@[simp] theorem State.setSplit_held (x : Split) : (s.setSplit x).held = s.held := rfl
@[simp] theorem State.setSplit_rounds (x : Split) : (s.setSplit x).rounds = s.rounds := rfl
@[simp] theorem State.setSplit_faults (x : Split) : (s.setSplit x).faults = s.faults := rfl
@[simp] theorem State.setSplit_waiting (x : Split) : (s.setSplit x).waiting = s.waiting := rfl
@[simp] theorem State.setSplit_sessions (x : Split) : (s.setSplit x).sessions = s.sessions := rfl
@[simp] theorem State.setSplit_tack (x : Split) : (s.setSplit x).tack = s.tack := rfl
@[simp] theorem State.setSplit_outbox (x : Split) : (s.setSplit x).outbox = s.outbox := rfl
@[simp] theorem State.setSplit_late (x : Split) : (s.setSplit x).late = s.late := rfl
@[simp] theorem State.setSplit_lseq (x : Split) : (s.setSplit x).lseq = s.lseq := rfl
@[simp] theorem State.setSplit_nextId (x : Split) : (s.setSplit x).nextId = s.nextId := rfl
@[simp] theorem State.setSplit_windowStart (x : Split) : (s.setSplit x).windowStart = s.windowStart := rfl
@[simp] theorem State.setSplit_free (x : Split) : (s.setSplit x).free = s.free := rfl
@[simp] theorem State.setSplit_choices (x : Split) : (s.setSplit x).choices = s.choices := rfl
@[simp] theorem State.setSplit_arrival (x : Split) : (s.setSplit x).arrival = s.arrival := rfl
@[simp] theorem State.setSplit_agenda (x : Split) : (s.setSplit x).agenda = s.agenda := rfl

/-! ## `setBlockAt` -/

@[simp] theorem State.setBlockAt_part (b : Nat) (x : Block) : (s.setBlockAt b x).part = s.part := rfl
@[simp] theorem State.setBlockAt_boot (b : Nat) (x : Block) : (s.setBlockAt b x).boot = s.boot := rfl
@[simp] theorem State.setBlockAt_cycle (b : Nat) (x : Block) : (s.setBlockAt b x).cycle = s.cycle := rfl
@[simp] theorem State.setBlockAt_cur (b : Nat) (x : Block) : (s.setBlockAt b x).cur = s.cur := rfl
@[simp] theorem State.setBlockAt_curSplit (b : Nat) (x : Block) : (s.setBlockAt b x).curSplit = s.curSplit := rfl
@[simp] theorem State.setBlockAt_mem (b : Nat) (x : Block) : (s.setBlockAt b x).mem = s.mem := rfl
@[simp] theorem State.setBlockAt_phys (b : Nat) (x : Block) : (s.setBlockAt b x).phys = s.phys := rfl
@[simp] theorem State.setBlockAt_hist (b : Nat) (x : Block) : (s.setBlockAt b x).hist = s.hist := rfl
@[simp] theorem State.setBlockAt_warps (b : Nat) (x : Block) : (s.setBlockAt b x).warps = s.warps := rfl
@[simp] theorem State.setBlockAt_gangs (b : Nat) (x : Block) : (s.setBlockAt b x).gangs = s.gangs := rfl
@[simp] theorem State.setBlockAt_launches (b : Nat) (x : Block) : (s.setBlockAt b x).launches = s.launches := rfl
@[simp] theorem State.setBlockAt_ctxs (b : Nat) (x : Block) : (s.setBlockAt b x).ctxs = s.ctxs := rfl
@[simp] theorem State.setBlockAt_pavs (b : Nat) (x : Block) : (s.setBlockAt b x).pavs = s.pavs := rfl
@[simp] theorem State.setBlockAt_cores (b : Nat) (x : Block) : (s.setBlockAt b x).cores = s.cores := rfl
@[simp] theorem State.setBlockAt_clusters (b : Nat) (x : Block) : (s.setBlockAt b x).clusters = s.clusters := rfl
@[simp] theorem State.setBlockAt_dieTlb (b : Nat) (x : Block) : (s.setBlockAt b x).dieTlb = s.dieTlb := rfl
@[simp] theorem State.setBlockAt_ops (b : Nat) (x : Block) : (s.setBlockAt b x).ops = s.ops := rfl
@[simp] theorem State.setBlockAt_held (b : Nat) (x : Block) : (s.setBlockAt b x).held = s.held := rfl
@[simp] theorem State.setBlockAt_rounds (b : Nat) (x : Block) : (s.setBlockAt b x).rounds = s.rounds := rfl
@[simp] theorem State.setBlockAt_faults (b : Nat) (x : Block) : (s.setBlockAt b x).faults = s.faults := rfl
@[simp] theorem State.setBlockAt_waiting (b : Nat) (x : Block) : (s.setBlockAt b x).waiting = s.waiting := rfl
@[simp] theorem State.setBlockAt_sessions (b : Nat) (x : Block) : (s.setBlockAt b x).sessions = s.sessions := rfl
@[simp] theorem State.setBlockAt_tack (b : Nat) (x : Block) : (s.setBlockAt b x).tack = s.tack := rfl
@[simp] theorem State.setBlockAt_outbox (b : Nat) (x : Block) : (s.setBlockAt b x).outbox = s.outbox := rfl
@[simp] theorem State.setBlockAt_late (b : Nat) (x : Block) : (s.setBlockAt b x).late = s.late := rfl
@[simp] theorem State.setBlockAt_lseq (b : Nat) (x : Block) : (s.setBlockAt b x).lseq = s.lseq := rfl
@[simp] theorem State.setBlockAt_nextId (b : Nat) (x : Block) : (s.setBlockAt b x).nextId = s.nextId := rfl
@[simp] theorem State.setBlockAt_windowStart (b : Nat) (x : Block) : (s.setBlockAt b x).windowStart = s.windowStart := rfl
@[simp] theorem State.setBlockAt_free (b : Nat) (x : Block) : (s.setBlockAt b x).free = s.free := rfl
@[simp] theorem State.setBlockAt_choices (b : Nat) (x : Block) : (s.setBlockAt b x).choices = s.choices := rfl
@[simp] theorem State.setBlockAt_arrival (b : Nat) (x : Block) : (s.setBlockAt b x).arrival = s.arrival := rfl
@[simp] theorem State.setBlockAt_agenda (b : Nat) (x : Block) : (s.setBlockAt b x).agenda = s.agenda := rfl

/-! ## `setGangAt` -/

@[simp] theorem State.setGangAt_part (g : Nat) (x : Gang) : (s.setGangAt g x).part = s.part := rfl
@[simp] theorem State.setGangAt_boot (g : Nat) (x : Gang) : (s.setGangAt g x).boot = s.boot := rfl
@[simp] theorem State.setGangAt_cycle (g : Nat) (x : Gang) : (s.setGangAt g x).cycle = s.cycle := rfl
@[simp] theorem State.setGangAt_cur (g : Nat) (x : Gang) : (s.setGangAt g x).cur = s.cur := rfl
@[simp] theorem State.setGangAt_curSplit (g : Nat) (x : Gang) : (s.setGangAt g x).curSplit = s.curSplit := rfl
@[simp] theorem State.setGangAt_mem (g : Nat) (x : Gang) : (s.setGangAt g x).mem = s.mem := rfl
@[simp] theorem State.setGangAt_phys (g : Nat) (x : Gang) : (s.setGangAt g x).phys = s.phys := rfl
@[simp] theorem State.setGangAt_hist (g : Nat) (x : Gang) : (s.setGangAt g x).hist = s.hist := rfl
@[simp] theorem State.setGangAt_warps (g : Nat) (x : Gang) : (s.setGangAt g x).warps = s.warps := rfl
@[simp] theorem State.setGangAt_blocks (g : Nat) (x : Gang) : (s.setGangAt g x).blocks = s.blocks := rfl
@[simp] theorem State.setGangAt_launches (g : Nat) (x : Gang) : (s.setGangAt g x).launches = s.launches := rfl
@[simp] theorem State.setGangAt_ctxs (g : Nat) (x : Gang) : (s.setGangAt g x).ctxs = s.ctxs := rfl
@[simp] theorem State.setGangAt_pavs (g : Nat) (x : Gang) : (s.setGangAt g x).pavs = s.pavs := rfl
@[simp] theorem State.setGangAt_cores (g : Nat) (x : Gang) : (s.setGangAt g x).cores = s.cores := rfl
@[simp] theorem State.setGangAt_clusters (g : Nat) (x : Gang) : (s.setGangAt g x).clusters = s.clusters := rfl
@[simp] theorem State.setGangAt_dieTlb (g : Nat) (x : Gang) : (s.setGangAt g x).dieTlb = s.dieTlb := rfl
@[simp] theorem State.setGangAt_ops (g : Nat) (x : Gang) : (s.setGangAt g x).ops = s.ops := rfl
@[simp] theorem State.setGangAt_held (g : Nat) (x : Gang) : (s.setGangAt g x).held = s.held := rfl
@[simp] theorem State.setGangAt_rounds (g : Nat) (x : Gang) : (s.setGangAt g x).rounds = s.rounds := rfl
@[simp] theorem State.setGangAt_faults (g : Nat) (x : Gang) : (s.setGangAt g x).faults = s.faults := rfl
@[simp] theorem State.setGangAt_waiting (g : Nat) (x : Gang) : (s.setGangAt g x).waiting = s.waiting := rfl
@[simp] theorem State.setGangAt_sessions (g : Nat) (x : Gang) : (s.setGangAt g x).sessions = s.sessions := rfl
@[simp] theorem State.setGangAt_tack (g : Nat) (x : Gang) : (s.setGangAt g x).tack = s.tack := rfl
@[simp] theorem State.setGangAt_outbox (g : Nat) (x : Gang) : (s.setGangAt g x).outbox = s.outbox := rfl
@[simp] theorem State.setGangAt_late (g : Nat) (x : Gang) : (s.setGangAt g x).late = s.late := rfl
@[simp] theorem State.setGangAt_lseq (g : Nat) (x : Gang) : (s.setGangAt g x).lseq = s.lseq := rfl
@[simp] theorem State.setGangAt_nextId (g : Nat) (x : Gang) : (s.setGangAt g x).nextId = s.nextId := rfl
@[simp] theorem State.setGangAt_windowStart (g : Nat) (x : Gang) : (s.setGangAt g x).windowStart = s.windowStart := rfl
@[simp] theorem State.setGangAt_free (g : Nat) (x : Gang) : (s.setGangAt g x).free = s.free := rfl
@[simp] theorem State.setGangAt_choices (g : Nat) (x : Gang) : (s.setGangAt g x).choices = s.choices := rfl
@[simp] theorem State.setGangAt_arrival (g : Nat) (x : Gang) : (s.setGangAt g x).arrival = s.arrival := rfl
@[simp] theorem State.setGangAt_agenda (g : Nat) (x : Gang) : (s.setGangAt g x).agenda = s.agenda := rfl

/-! ## `setLaunchAt` -/

@[simp] theorem State.setLaunchAt_part (l : Nat) (x : Launch) : (s.setLaunchAt l x).part = s.part := rfl
@[simp] theorem State.setLaunchAt_boot (l : Nat) (x : Launch) : (s.setLaunchAt l x).boot = s.boot := rfl
@[simp] theorem State.setLaunchAt_cycle (l : Nat) (x : Launch) : (s.setLaunchAt l x).cycle = s.cycle := rfl
@[simp] theorem State.setLaunchAt_cur (l : Nat) (x : Launch) : (s.setLaunchAt l x).cur = s.cur := rfl
@[simp] theorem State.setLaunchAt_curSplit (l : Nat) (x : Launch) : (s.setLaunchAt l x).curSplit = s.curSplit := rfl
@[simp] theorem State.setLaunchAt_mem (l : Nat) (x : Launch) : (s.setLaunchAt l x).mem = s.mem := rfl
@[simp] theorem State.setLaunchAt_phys (l : Nat) (x : Launch) : (s.setLaunchAt l x).phys = s.phys := rfl
@[simp] theorem State.setLaunchAt_hist (l : Nat) (x : Launch) : (s.setLaunchAt l x).hist = s.hist := rfl
@[simp] theorem State.setLaunchAt_warps (l : Nat) (x : Launch) : (s.setLaunchAt l x).warps = s.warps := rfl
@[simp] theorem State.setLaunchAt_blocks (l : Nat) (x : Launch) : (s.setLaunchAt l x).blocks = s.blocks := rfl
@[simp] theorem State.setLaunchAt_gangs (l : Nat) (x : Launch) : (s.setLaunchAt l x).gangs = s.gangs := rfl
@[simp] theorem State.setLaunchAt_ctxs (l : Nat) (x : Launch) : (s.setLaunchAt l x).ctxs = s.ctxs := rfl
@[simp] theorem State.setLaunchAt_pavs (l : Nat) (x : Launch) : (s.setLaunchAt l x).pavs = s.pavs := rfl
@[simp] theorem State.setLaunchAt_cores (l : Nat) (x : Launch) : (s.setLaunchAt l x).cores = s.cores := rfl
@[simp] theorem State.setLaunchAt_clusters (l : Nat) (x : Launch) : (s.setLaunchAt l x).clusters = s.clusters := rfl
@[simp] theorem State.setLaunchAt_dieTlb (l : Nat) (x : Launch) : (s.setLaunchAt l x).dieTlb = s.dieTlb := rfl
@[simp] theorem State.setLaunchAt_ops (l : Nat) (x : Launch) : (s.setLaunchAt l x).ops = s.ops := rfl
@[simp] theorem State.setLaunchAt_held (l : Nat) (x : Launch) : (s.setLaunchAt l x).held = s.held := rfl
@[simp] theorem State.setLaunchAt_rounds (l : Nat) (x : Launch) : (s.setLaunchAt l x).rounds = s.rounds := rfl
@[simp] theorem State.setLaunchAt_faults (l : Nat) (x : Launch) : (s.setLaunchAt l x).faults = s.faults := rfl
@[simp] theorem State.setLaunchAt_waiting (l : Nat) (x : Launch) : (s.setLaunchAt l x).waiting = s.waiting := rfl
@[simp] theorem State.setLaunchAt_sessions (l : Nat) (x : Launch) : (s.setLaunchAt l x).sessions = s.sessions := rfl
@[simp] theorem State.setLaunchAt_tack (l : Nat) (x : Launch) : (s.setLaunchAt l x).tack = s.tack := rfl
@[simp] theorem State.setLaunchAt_outbox (l : Nat) (x : Launch) : (s.setLaunchAt l x).outbox = s.outbox := rfl
@[simp] theorem State.setLaunchAt_late (l : Nat) (x : Launch) : (s.setLaunchAt l x).late = s.late := rfl
@[simp] theorem State.setLaunchAt_lseq (l : Nat) (x : Launch) : (s.setLaunchAt l x).lseq = s.lseq := rfl
@[simp] theorem State.setLaunchAt_nextId (l : Nat) (x : Launch) : (s.setLaunchAt l x).nextId = s.nextId := rfl
@[simp] theorem State.setLaunchAt_windowStart (l : Nat) (x : Launch) : (s.setLaunchAt l x).windowStart = s.windowStart := rfl
@[simp] theorem State.setLaunchAt_free (l : Nat) (x : Launch) : (s.setLaunchAt l x).free = s.free := rfl
@[simp] theorem State.setLaunchAt_choices (l : Nat) (x : Launch) : (s.setLaunchAt l x).choices = s.choices := rfl
@[simp] theorem State.setLaunchAt_arrival (l : Nat) (x : Launch) : (s.setLaunchAt l x).arrival = s.arrival := rfl
@[simp] theorem State.setLaunchAt_agenda (l : Nat) (x : Launch) : (s.setLaunchAt l x).agenda = s.agenda := rfl

/-! ## `setCtxAt` -/

@[simp] theorem State.setCtxAt_part (c : Nat) (x : Ctx) : (s.setCtxAt c x).part = s.part := rfl
@[simp] theorem State.setCtxAt_boot (c : Nat) (x : Ctx) : (s.setCtxAt c x).boot = s.boot := rfl
@[simp] theorem State.setCtxAt_cycle (c : Nat) (x : Ctx) : (s.setCtxAt c x).cycle = s.cycle := rfl
@[simp] theorem State.setCtxAt_cur (c : Nat) (x : Ctx) : (s.setCtxAt c x).cur = s.cur := rfl
@[simp] theorem State.setCtxAt_curSplit (c : Nat) (x : Ctx) : (s.setCtxAt c x).curSplit = s.curSplit := rfl
@[simp] theorem State.setCtxAt_mem (c : Nat) (x : Ctx) : (s.setCtxAt c x).mem = s.mem := rfl
@[simp] theorem State.setCtxAt_phys (c : Nat) (x : Ctx) : (s.setCtxAt c x).phys = s.phys := rfl
@[simp] theorem State.setCtxAt_hist (c : Nat) (x : Ctx) : (s.setCtxAt c x).hist = s.hist := rfl
@[simp] theorem State.setCtxAt_warps (c : Nat) (x : Ctx) : (s.setCtxAt c x).warps = s.warps := rfl
@[simp] theorem State.setCtxAt_blocks (c : Nat) (x : Ctx) : (s.setCtxAt c x).blocks = s.blocks := rfl
@[simp] theorem State.setCtxAt_gangs (c : Nat) (x : Ctx) : (s.setCtxAt c x).gangs = s.gangs := rfl
@[simp] theorem State.setCtxAt_launches (c : Nat) (x : Ctx) : (s.setCtxAt c x).launches = s.launches := rfl
@[simp] theorem State.setCtxAt_pavs (c : Nat) (x : Ctx) : (s.setCtxAt c x).pavs = s.pavs := rfl
@[simp] theorem State.setCtxAt_cores (c : Nat) (x : Ctx) : (s.setCtxAt c x).cores = s.cores := rfl
@[simp] theorem State.setCtxAt_clusters (c : Nat) (x : Ctx) : (s.setCtxAt c x).clusters = s.clusters := rfl
@[simp] theorem State.setCtxAt_dieTlb (c : Nat) (x : Ctx) : (s.setCtxAt c x).dieTlb = s.dieTlb := rfl
@[simp] theorem State.setCtxAt_ops (c : Nat) (x : Ctx) : (s.setCtxAt c x).ops = s.ops := rfl
@[simp] theorem State.setCtxAt_held (c : Nat) (x : Ctx) : (s.setCtxAt c x).held = s.held := rfl
@[simp] theorem State.setCtxAt_rounds (c : Nat) (x : Ctx) : (s.setCtxAt c x).rounds = s.rounds := rfl
@[simp] theorem State.setCtxAt_faults (c : Nat) (x : Ctx) : (s.setCtxAt c x).faults = s.faults := rfl
@[simp] theorem State.setCtxAt_waiting (c : Nat) (x : Ctx) : (s.setCtxAt c x).waiting = s.waiting := rfl
@[simp] theorem State.setCtxAt_sessions (c : Nat) (x : Ctx) : (s.setCtxAt c x).sessions = s.sessions := rfl
@[simp] theorem State.setCtxAt_tack (c : Nat) (x : Ctx) : (s.setCtxAt c x).tack = s.tack := rfl
@[simp] theorem State.setCtxAt_outbox (c : Nat) (x : Ctx) : (s.setCtxAt c x).outbox = s.outbox := rfl
@[simp] theorem State.setCtxAt_late (c : Nat) (x : Ctx) : (s.setCtxAt c x).late = s.late := rfl
@[simp] theorem State.setCtxAt_lseq (c : Nat) (x : Ctx) : (s.setCtxAt c x).lseq = s.lseq := rfl
@[simp] theorem State.setCtxAt_nextId (c : Nat) (x : Ctx) : (s.setCtxAt c x).nextId = s.nextId := rfl
@[simp] theorem State.setCtxAt_windowStart (c : Nat) (x : Ctx) : (s.setCtxAt c x).windowStart = s.windowStart := rfl
@[simp] theorem State.setCtxAt_free (c : Nat) (x : Ctx) : (s.setCtxAt c x).free = s.free := rfl
@[simp] theorem State.setCtxAt_choices (c : Nat) (x : Ctx) : (s.setCtxAt c x).choices = s.choices := rfl
@[simp] theorem State.setCtxAt_arrival (c : Nat) (x : Ctx) : (s.setCtxAt c x).arrival = s.arrival := rfl
@[simp] theorem State.setCtxAt_agenda (c : Nat) (x : Ctx) : (s.setCtxAt c x).agenda = s.agenda := rfl

/-! ## `setPavAt` -/

@[simp] theorem State.setPavAt_part (p : Nat) (x : Pav) : (s.setPavAt p x).part = s.part := rfl
@[simp] theorem State.setPavAt_boot (p : Nat) (x : Pav) : (s.setPavAt p x).boot = s.boot := rfl
@[simp] theorem State.setPavAt_cycle (p : Nat) (x : Pav) : (s.setPavAt p x).cycle = s.cycle := rfl
@[simp] theorem State.setPavAt_cur (p : Nat) (x : Pav) : (s.setPavAt p x).cur = s.cur := rfl
@[simp] theorem State.setPavAt_curSplit (p : Nat) (x : Pav) : (s.setPavAt p x).curSplit = s.curSplit := rfl
@[simp] theorem State.setPavAt_mem (p : Nat) (x : Pav) : (s.setPavAt p x).mem = s.mem := rfl
@[simp] theorem State.setPavAt_phys (p : Nat) (x : Pav) : (s.setPavAt p x).phys = s.phys := rfl
@[simp] theorem State.setPavAt_hist (p : Nat) (x : Pav) : (s.setPavAt p x).hist = s.hist := rfl
@[simp] theorem State.setPavAt_warps (p : Nat) (x : Pav) : (s.setPavAt p x).warps = s.warps := rfl
@[simp] theorem State.setPavAt_blocks (p : Nat) (x : Pav) : (s.setPavAt p x).blocks = s.blocks := rfl
@[simp] theorem State.setPavAt_gangs (p : Nat) (x : Pav) : (s.setPavAt p x).gangs = s.gangs := rfl
@[simp] theorem State.setPavAt_launches (p : Nat) (x : Pav) : (s.setPavAt p x).launches = s.launches := rfl
@[simp] theorem State.setPavAt_ctxs (p : Nat) (x : Pav) : (s.setPavAt p x).ctxs = s.ctxs := rfl
@[simp] theorem State.setPavAt_cores (p : Nat) (x : Pav) : (s.setPavAt p x).cores = s.cores := rfl
@[simp] theorem State.setPavAt_clusters (p : Nat) (x : Pav) : (s.setPavAt p x).clusters = s.clusters := rfl
@[simp] theorem State.setPavAt_dieTlb (p : Nat) (x : Pav) : (s.setPavAt p x).dieTlb = s.dieTlb := rfl
@[simp] theorem State.setPavAt_ops (p : Nat) (x : Pav) : (s.setPavAt p x).ops = s.ops := rfl
@[simp] theorem State.setPavAt_held (p : Nat) (x : Pav) : (s.setPavAt p x).held = s.held := rfl
@[simp] theorem State.setPavAt_rounds (p : Nat) (x : Pav) : (s.setPavAt p x).rounds = s.rounds := rfl
@[simp] theorem State.setPavAt_faults (p : Nat) (x : Pav) : (s.setPavAt p x).faults = s.faults := rfl
@[simp] theorem State.setPavAt_waiting (p : Nat) (x : Pav) : (s.setPavAt p x).waiting = s.waiting := rfl
@[simp] theorem State.setPavAt_sessions (p : Nat) (x : Pav) : (s.setPavAt p x).sessions = s.sessions := rfl
@[simp] theorem State.setPavAt_tack (p : Nat) (x : Pav) : (s.setPavAt p x).tack = s.tack := rfl
@[simp] theorem State.setPavAt_outbox (p : Nat) (x : Pav) : (s.setPavAt p x).outbox = s.outbox := rfl
@[simp] theorem State.setPavAt_late (p : Nat) (x : Pav) : (s.setPavAt p x).late = s.late := rfl
@[simp] theorem State.setPavAt_lseq (p : Nat) (x : Pav) : (s.setPavAt p x).lseq = s.lseq := rfl
@[simp] theorem State.setPavAt_nextId (p : Nat) (x : Pav) : (s.setPavAt p x).nextId = s.nextId := rfl
@[simp] theorem State.setPavAt_windowStart (p : Nat) (x : Pav) : (s.setPavAt p x).windowStart = s.windowStart := rfl
@[simp] theorem State.setPavAt_free (p : Nat) (x : Pav) : (s.setPavAt p x).free = s.free := rfl
@[simp] theorem State.setPavAt_choices (p : Nat) (x : Pav) : (s.setPavAt p x).choices = s.choices := rfl
@[simp] theorem State.setPavAt_arrival (p : Nat) (x : Pav) : (s.setPavAt p x).arrival = s.arrival := rfl
@[simp] theorem State.setPavAt_agenda (p : Nat) (x : Pav) : (s.setPavAt p x).agenda = s.agenda := rfl

/-! ## `setCoreAt` -/

@[simp] theorem State.setCoreAt_part (c : Nat) (x : Core) : (s.setCoreAt c x).part = s.part := rfl
@[simp] theorem State.setCoreAt_boot (c : Nat) (x : Core) : (s.setCoreAt c x).boot = s.boot := rfl
@[simp] theorem State.setCoreAt_cycle (c : Nat) (x : Core) : (s.setCoreAt c x).cycle = s.cycle := rfl
@[simp] theorem State.setCoreAt_cur (c : Nat) (x : Core) : (s.setCoreAt c x).cur = s.cur := rfl
@[simp] theorem State.setCoreAt_curSplit (c : Nat) (x : Core) : (s.setCoreAt c x).curSplit = s.curSplit := rfl
@[simp] theorem State.setCoreAt_mem (c : Nat) (x : Core) : (s.setCoreAt c x).mem = s.mem := rfl
@[simp] theorem State.setCoreAt_phys (c : Nat) (x : Core) : (s.setCoreAt c x).phys = s.phys := rfl
@[simp] theorem State.setCoreAt_hist (c : Nat) (x : Core) : (s.setCoreAt c x).hist = s.hist := rfl
@[simp] theorem State.setCoreAt_warps (c : Nat) (x : Core) : (s.setCoreAt c x).warps = s.warps := rfl
@[simp] theorem State.setCoreAt_blocks (c : Nat) (x : Core) : (s.setCoreAt c x).blocks = s.blocks := rfl
@[simp] theorem State.setCoreAt_gangs (c : Nat) (x : Core) : (s.setCoreAt c x).gangs = s.gangs := rfl
@[simp] theorem State.setCoreAt_launches (c : Nat) (x : Core) : (s.setCoreAt c x).launches = s.launches := rfl
@[simp] theorem State.setCoreAt_ctxs (c : Nat) (x : Core) : (s.setCoreAt c x).ctxs = s.ctxs := rfl
@[simp] theorem State.setCoreAt_pavs (c : Nat) (x : Core) : (s.setCoreAt c x).pavs = s.pavs := rfl
@[simp] theorem State.setCoreAt_clusters (c : Nat) (x : Core) : (s.setCoreAt c x).clusters = s.clusters := rfl
@[simp] theorem State.setCoreAt_dieTlb (c : Nat) (x : Core) : (s.setCoreAt c x).dieTlb = s.dieTlb := rfl
@[simp] theorem State.setCoreAt_ops (c : Nat) (x : Core) : (s.setCoreAt c x).ops = s.ops := rfl
@[simp] theorem State.setCoreAt_held (c : Nat) (x : Core) : (s.setCoreAt c x).held = s.held := rfl
@[simp] theorem State.setCoreAt_rounds (c : Nat) (x : Core) : (s.setCoreAt c x).rounds = s.rounds := rfl
@[simp] theorem State.setCoreAt_faults (c : Nat) (x : Core) : (s.setCoreAt c x).faults = s.faults := rfl
@[simp] theorem State.setCoreAt_waiting (c : Nat) (x : Core) : (s.setCoreAt c x).waiting = s.waiting := rfl
@[simp] theorem State.setCoreAt_sessions (c : Nat) (x : Core) : (s.setCoreAt c x).sessions = s.sessions := rfl
@[simp] theorem State.setCoreAt_tack (c : Nat) (x : Core) : (s.setCoreAt c x).tack = s.tack := rfl
@[simp] theorem State.setCoreAt_outbox (c : Nat) (x : Core) : (s.setCoreAt c x).outbox = s.outbox := rfl
@[simp] theorem State.setCoreAt_late (c : Nat) (x : Core) : (s.setCoreAt c x).late = s.late := rfl
@[simp] theorem State.setCoreAt_lseq (c : Nat) (x : Core) : (s.setCoreAt c x).lseq = s.lseq := rfl
@[simp] theorem State.setCoreAt_nextId (c : Nat) (x : Core) : (s.setCoreAt c x).nextId = s.nextId := rfl
@[simp] theorem State.setCoreAt_windowStart (c : Nat) (x : Core) : (s.setCoreAt c x).windowStart = s.windowStart := rfl
@[simp] theorem State.setCoreAt_free (c : Nat) (x : Core) : (s.setCoreAt c x).free = s.free := rfl
@[simp] theorem State.setCoreAt_choices (c : Nat) (x : Core) : (s.setCoreAt c x).choices = s.choices := rfl
@[simp] theorem State.setCoreAt_arrival (c : Nat) (x : Core) : (s.setCoreAt c x).arrival = s.arrival := rfl
@[simp] theorem State.setCoreAt_agenda (c : Nat) (x : Core) : (s.setCoreAt c x).agenda = s.agenda := rfl

/-! ## `setClusterAt` -/

@[simp] theorem State.setClusterAt_part (c : Nat) (x : Cluster) : (s.setClusterAt c x).part = s.part := rfl
@[simp] theorem State.setClusterAt_boot (c : Nat) (x : Cluster) : (s.setClusterAt c x).boot = s.boot := rfl
@[simp] theorem State.setClusterAt_cycle (c : Nat) (x : Cluster) : (s.setClusterAt c x).cycle = s.cycle := rfl
@[simp] theorem State.setClusterAt_cur (c : Nat) (x : Cluster) : (s.setClusterAt c x).cur = s.cur := rfl
@[simp] theorem State.setClusterAt_curSplit (c : Nat) (x : Cluster) : (s.setClusterAt c x).curSplit = s.curSplit := rfl
@[simp] theorem State.setClusterAt_mem (c : Nat) (x : Cluster) : (s.setClusterAt c x).mem = s.mem := rfl
@[simp] theorem State.setClusterAt_phys (c : Nat) (x : Cluster) : (s.setClusterAt c x).phys = s.phys := rfl
@[simp] theorem State.setClusterAt_hist (c : Nat) (x : Cluster) : (s.setClusterAt c x).hist = s.hist := rfl
@[simp] theorem State.setClusterAt_warps (c : Nat) (x : Cluster) : (s.setClusterAt c x).warps = s.warps := rfl
@[simp] theorem State.setClusterAt_blocks (c : Nat) (x : Cluster) : (s.setClusterAt c x).blocks = s.blocks := rfl
@[simp] theorem State.setClusterAt_gangs (c : Nat) (x : Cluster) : (s.setClusterAt c x).gangs = s.gangs := rfl
@[simp] theorem State.setClusterAt_launches (c : Nat) (x : Cluster) : (s.setClusterAt c x).launches = s.launches := rfl
@[simp] theorem State.setClusterAt_ctxs (c : Nat) (x : Cluster) : (s.setClusterAt c x).ctxs = s.ctxs := rfl
@[simp] theorem State.setClusterAt_pavs (c : Nat) (x : Cluster) : (s.setClusterAt c x).pavs = s.pavs := rfl
@[simp] theorem State.setClusterAt_cores (c : Nat) (x : Cluster) : (s.setClusterAt c x).cores = s.cores := rfl
@[simp] theorem State.setClusterAt_dieTlb (c : Nat) (x : Cluster) : (s.setClusterAt c x).dieTlb = s.dieTlb := rfl
@[simp] theorem State.setClusterAt_ops (c : Nat) (x : Cluster) : (s.setClusterAt c x).ops = s.ops := rfl
@[simp] theorem State.setClusterAt_held (c : Nat) (x : Cluster) : (s.setClusterAt c x).held = s.held := rfl
@[simp] theorem State.setClusterAt_rounds (c : Nat) (x : Cluster) : (s.setClusterAt c x).rounds = s.rounds := rfl
@[simp] theorem State.setClusterAt_faults (c : Nat) (x : Cluster) : (s.setClusterAt c x).faults = s.faults := rfl
@[simp] theorem State.setClusterAt_waiting (c : Nat) (x : Cluster) : (s.setClusterAt c x).waiting = s.waiting := rfl
@[simp] theorem State.setClusterAt_sessions (c : Nat) (x : Cluster) : (s.setClusterAt c x).sessions = s.sessions := rfl
@[simp] theorem State.setClusterAt_tack (c : Nat) (x : Cluster) : (s.setClusterAt c x).tack = s.tack := rfl
@[simp] theorem State.setClusterAt_outbox (c : Nat) (x : Cluster) : (s.setClusterAt c x).outbox = s.outbox := rfl
@[simp] theorem State.setClusterAt_late (c : Nat) (x : Cluster) : (s.setClusterAt c x).late = s.late := rfl
@[simp] theorem State.setClusterAt_lseq (c : Nat) (x : Cluster) : (s.setClusterAt c x).lseq = s.lseq := rfl
@[simp] theorem State.setClusterAt_nextId (c : Nat) (x : Cluster) : (s.setClusterAt c x).nextId = s.nextId := rfl
@[simp] theorem State.setClusterAt_windowStart (c : Nat) (x : Cluster) : (s.setClusterAt c x).windowStart = s.windowStart := rfl
@[simp] theorem State.setClusterAt_free (c : Nat) (x : Cluster) : (s.setClusterAt c x).free = s.free := rfl
@[simp] theorem State.setClusterAt_choices (c : Nat) (x : Cluster) : (s.setClusterAt c x).choices = s.choices := rfl
@[simp] theorem State.setClusterAt_arrival (c : Nat) (x : Cluster) : (s.setClusterAt c x).arrival = s.arrival := rfl
@[simp] theorem State.setClusterAt_agenda (c : Nat) (x : Cluster) : (s.setClusterAt c x).agenda = s.agenda := rfl

/-! ## `send` -/

@[simp] theorem State.send_part (m : Msg) : (s.send m).part = s.part := rfl
@[simp] theorem State.send_boot (m : Msg) : (s.send m).boot = s.boot := rfl
@[simp] theorem State.send_cycle (m : Msg) : (s.send m).cycle = s.cycle := rfl
@[simp] theorem State.send_cur (m : Msg) : (s.send m).cur = s.cur := rfl
@[simp] theorem State.send_curSplit (m : Msg) : (s.send m).curSplit = s.curSplit := rfl
@[simp] theorem State.send_mem (m : Msg) : (s.send m).mem = s.mem := rfl
@[simp] theorem State.send_phys (m : Msg) : (s.send m).phys = s.phys := rfl
@[simp] theorem State.send_hist (m : Msg) : (s.send m).hist = s.hist := rfl
@[simp] theorem State.send_warps (m : Msg) : (s.send m).warps = s.warps := rfl
@[simp] theorem State.send_blocks (m : Msg) : (s.send m).blocks = s.blocks := rfl
@[simp] theorem State.send_gangs (m : Msg) : (s.send m).gangs = s.gangs := rfl
@[simp] theorem State.send_launches (m : Msg) : (s.send m).launches = s.launches := rfl
@[simp] theorem State.send_ctxs (m : Msg) : (s.send m).ctxs = s.ctxs := rfl
@[simp] theorem State.send_pavs (m : Msg) : (s.send m).pavs = s.pavs := rfl
@[simp] theorem State.send_cores (m : Msg) : (s.send m).cores = s.cores := rfl
@[simp] theorem State.send_clusters (m : Msg) : (s.send m).clusters = s.clusters := rfl
@[simp] theorem State.send_dieTlb (m : Msg) : (s.send m).dieTlb = s.dieTlb := rfl
@[simp] theorem State.send_ops (m : Msg) : (s.send m).ops = s.ops := rfl
@[simp] theorem State.send_held (m : Msg) : (s.send m).held = s.held := rfl
@[simp] theorem State.send_rounds (m : Msg) : (s.send m).rounds = s.rounds := rfl
@[simp] theorem State.send_faults (m : Msg) : (s.send m).faults = s.faults := rfl
@[simp] theorem State.send_waiting (m : Msg) : (s.send m).waiting = s.waiting := rfl
@[simp] theorem State.send_sessions (m : Msg) : (s.send m).sessions = s.sessions := rfl
@[simp] theorem State.send_tack (m : Msg) : (s.send m).tack = s.tack := rfl
@[simp] theorem State.send_late (m : Msg) : (s.send m).late = s.late := rfl
@[simp] theorem State.send_lseq (m : Msg) : (s.send m).lseq = s.lseq := rfl
@[simp] theorem State.send_nextId (m : Msg) : (s.send m).nextId = s.nextId := rfl
@[simp] theorem State.send_windowStart (m : Msg) : (s.send m).windowStart = s.windowStart := rfl
@[simp] theorem State.send_free (m : Msg) : (s.send m).free = s.free := rfl
@[simp] theorem State.send_choices (m : Msg) : (s.send m).choices = s.choices := rfl
@[simp] theorem State.send_arrival (m : Msg) : (s.send m).arrival = s.arrival := rfl
@[simp] theorem State.send_agenda (m : Msg) : (s.send m).agenda = s.agenda := rfl

/-! ## Reading back -/

@[simp] theorem State.warpAt_setWarpAt_same (k : Nat) (x : Warp) : (s.setWarpAt k x).warpAt k = x := by simp [State.warpAt, State.setWarpAt]
theorem State.warpAt_setWarpAt_other {k j : Nat} (x : Warp) (h : j ≠ k) : (s.setWarpAt k x).warpAt j = s.warpAt j := by
  simp [State.warpAt, State.setWarpAt, Sparse.get_set_other _ _ _ h]
@[simp] theorem State.setWarpAt_setWarpAt (k : Nat) (x y : Warp) : (s.setWarpAt k x).setWarpAt k y = s.setWarpAt k y := by
  simp [State.setWarpAt]
@[simp] theorem State.blockAt_setWarpAt (k j : Nat) (x : Warp) : (s.setWarpAt k x).blockAt j = s.blockAt j := rfl
@[simp] theorem State.gangAt_setWarpAt (k j : Nat) (x : Warp) : (s.setWarpAt k x).gangAt j = s.gangAt j := rfl
@[simp] theorem State.launchAt_setWarpAt (k j : Nat) (x : Warp) : (s.setWarpAt k x).launchAt j = s.launchAt j := rfl
@[simp] theorem State.ctxAt_setWarpAt (k j : Nat) (x : Warp) : (s.setWarpAt k x).ctxAt j = s.ctxAt j := rfl
@[simp] theorem State.pavAt_setWarpAt (k j : Nat) (x : Warp) : (s.setWarpAt k x).pavAt j = s.pavAt j := rfl
@[simp] theorem State.coreAt_setWarpAt (k j : Nat) (x : Warp) : (s.setWarpAt k x).coreAt j = s.coreAt j := rfl
@[simp] theorem State.clusterAt_setWarpAt (k j : Nat) (x : Warp) : (s.setWarpAt k x).clusterAt j = s.clusterAt j := rfl
@[simp] theorem State.blockAt_setBlockAt_same (k : Nat) (x : Block) : (s.setBlockAt k x).blockAt k = x := by simp [State.blockAt, State.setBlockAt]
theorem State.blockAt_setBlockAt_other {k j : Nat} (x : Block) (h : j ≠ k) : (s.setBlockAt k x).blockAt j = s.blockAt j := by
  simp [State.blockAt, State.setBlockAt, Sparse.get_set_other _ _ _ h]
@[simp] theorem State.setBlockAt_setBlockAt (k : Nat) (x y : Block) : (s.setBlockAt k x).setBlockAt k y = s.setBlockAt k y := by
  simp [State.setBlockAt]
@[simp] theorem State.warpAt_setBlockAt (k j : Nat) (x : Block) : (s.setBlockAt k x).warpAt j = s.warpAt j := rfl
@[simp] theorem State.gangAt_setBlockAt (k j : Nat) (x : Block) : (s.setBlockAt k x).gangAt j = s.gangAt j := rfl
@[simp] theorem State.launchAt_setBlockAt (k j : Nat) (x : Block) : (s.setBlockAt k x).launchAt j = s.launchAt j := rfl
@[simp] theorem State.ctxAt_setBlockAt (k j : Nat) (x : Block) : (s.setBlockAt k x).ctxAt j = s.ctxAt j := rfl
@[simp] theorem State.pavAt_setBlockAt (k j : Nat) (x : Block) : (s.setBlockAt k x).pavAt j = s.pavAt j := rfl
@[simp] theorem State.coreAt_setBlockAt (k j : Nat) (x : Block) : (s.setBlockAt k x).coreAt j = s.coreAt j := rfl
@[simp] theorem State.clusterAt_setBlockAt (k j : Nat) (x : Block) : (s.setBlockAt k x).clusterAt j = s.clusterAt j := rfl
@[simp] theorem State.gangAt_setGangAt_same (k : Nat) (x : Gang) : (s.setGangAt k x).gangAt k = x := by simp [State.gangAt, State.setGangAt]
theorem State.gangAt_setGangAt_other {k j : Nat} (x : Gang) (h : j ≠ k) : (s.setGangAt k x).gangAt j = s.gangAt j := by
  simp [State.gangAt, State.setGangAt, Sparse.get_set_other _ _ _ h]
@[simp] theorem State.setGangAt_setGangAt (k : Nat) (x y : Gang) : (s.setGangAt k x).setGangAt k y = s.setGangAt k y := by
  simp [State.setGangAt]
@[simp] theorem State.warpAt_setGangAt (k j : Nat) (x : Gang) : (s.setGangAt k x).warpAt j = s.warpAt j := rfl
@[simp] theorem State.blockAt_setGangAt (k j : Nat) (x : Gang) : (s.setGangAt k x).blockAt j = s.blockAt j := rfl
@[simp] theorem State.launchAt_setGangAt (k j : Nat) (x : Gang) : (s.setGangAt k x).launchAt j = s.launchAt j := rfl
@[simp] theorem State.ctxAt_setGangAt (k j : Nat) (x : Gang) : (s.setGangAt k x).ctxAt j = s.ctxAt j := rfl
@[simp] theorem State.pavAt_setGangAt (k j : Nat) (x : Gang) : (s.setGangAt k x).pavAt j = s.pavAt j := rfl
@[simp] theorem State.coreAt_setGangAt (k j : Nat) (x : Gang) : (s.setGangAt k x).coreAt j = s.coreAt j := rfl
@[simp] theorem State.clusterAt_setGangAt (k j : Nat) (x : Gang) : (s.setGangAt k x).clusterAt j = s.clusterAt j := rfl
@[simp] theorem State.launchAt_setLaunchAt_same (k : Nat) (x : Launch) : (s.setLaunchAt k x).launchAt k = x := by simp [State.launchAt, State.setLaunchAt]
theorem State.launchAt_setLaunchAt_other {k j : Nat} (x : Launch) (h : j ≠ k) : (s.setLaunchAt k x).launchAt j = s.launchAt j := by
  simp [State.launchAt, State.setLaunchAt, Sparse.get_set_other _ _ _ h]
@[simp] theorem State.setLaunchAt_setLaunchAt (k : Nat) (x y : Launch) : (s.setLaunchAt k x).setLaunchAt k y = s.setLaunchAt k y := by
  simp [State.setLaunchAt]
@[simp] theorem State.warpAt_setLaunchAt (k j : Nat) (x : Launch) : (s.setLaunchAt k x).warpAt j = s.warpAt j := rfl
@[simp] theorem State.blockAt_setLaunchAt (k j : Nat) (x : Launch) : (s.setLaunchAt k x).blockAt j = s.blockAt j := rfl
@[simp] theorem State.gangAt_setLaunchAt (k j : Nat) (x : Launch) : (s.setLaunchAt k x).gangAt j = s.gangAt j := rfl
@[simp] theorem State.ctxAt_setLaunchAt (k j : Nat) (x : Launch) : (s.setLaunchAt k x).ctxAt j = s.ctxAt j := rfl
@[simp] theorem State.pavAt_setLaunchAt (k j : Nat) (x : Launch) : (s.setLaunchAt k x).pavAt j = s.pavAt j := rfl
@[simp] theorem State.coreAt_setLaunchAt (k j : Nat) (x : Launch) : (s.setLaunchAt k x).coreAt j = s.coreAt j := rfl
@[simp] theorem State.clusterAt_setLaunchAt (k j : Nat) (x : Launch) : (s.setLaunchAt k x).clusterAt j = s.clusterAt j := rfl
@[simp] theorem State.ctxAt_setCtxAt_same (k : Nat) (x : Ctx) : (s.setCtxAt k x).ctxAt k = x := by simp [State.ctxAt, State.setCtxAt]
theorem State.ctxAt_setCtxAt_other {k j : Nat} (x : Ctx) (h : j ≠ k) : (s.setCtxAt k x).ctxAt j = s.ctxAt j := by
  simp [State.ctxAt, State.setCtxAt, Sparse.get_set_other _ _ _ h]
@[simp] theorem State.setCtxAt_setCtxAt (k : Nat) (x y : Ctx) : (s.setCtxAt k x).setCtxAt k y = s.setCtxAt k y := by
  simp [State.setCtxAt]
@[simp] theorem State.warpAt_setCtxAt (k j : Nat) (x : Ctx) : (s.setCtxAt k x).warpAt j = s.warpAt j := rfl
@[simp] theorem State.blockAt_setCtxAt (k j : Nat) (x : Ctx) : (s.setCtxAt k x).blockAt j = s.blockAt j := rfl
@[simp] theorem State.gangAt_setCtxAt (k j : Nat) (x : Ctx) : (s.setCtxAt k x).gangAt j = s.gangAt j := rfl
@[simp] theorem State.launchAt_setCtxAt (k j : Nat) (x : Ctx) : (s.setCtxAt k x).launchAt j = s.launchAt j := rfl
@[simp] theorem State.pavAt_setCtxAt (k j : Nat) (x : Ctx) : (s.setCtxAt k x).pavAt j = s.pavAt j := rfl
@[simp] theorem State.coreAt_setCtxAt (k j : Nat) (x : Ctx) : (s.setCtxAt k x).coreAt j = s.coreAt j := rfl
@[simp] theorem State.clusterAt_setCtxAt (k j : Nat) (x : Ctx) : (s.setCtxAt k x).clusterAt j = s.clusterAt j := rfl
@[simp] theorem State.pavAt_setPavAt_same (k : Nat) (x : Pav) : (s.setPavAt k x).pavAt k = x := by simp [State.pavAt, State.setPavAt]
theorem State.pavAt_setPavAt_other {k j : Nat} (x : Pav) (h : j ≠ k) : (s.setPavAt k x).pavAt j = s.pavAt j := by
  simp [State.pavAt, State.setPavAt, Sparse.get_set_other _ _ _ h]
@[simp] theorem State.setPavAt_setPavAt (k : Nat) (x y : Pav) : (s.setPavAt k x).setPavAt k y = s.setPavAt k y := by
  simp [State.setPavAt]
@[simp] theorem State.warpAt_setPavAt (k j : Nat) (x : Pav) : (s.setPavAt k x).warpAt j = s.warpAt j := rfl
@[simp] theorem State.blockAt_setPavAt (k j : Nat) (x : Pav) : (s.setPavAt k x).blockAt j = s.blockAt j := rfl
@[simp] theorem State.gangAt_setPavAt (k j : Nat) (x : Pav) : (s.setPavAt k x).gangAt j = s.gangAt j := rfl
@[simp] theorem State.launchAt_setPavAt (k j : Nat) (x : Pav) : (s.setPavAt k x).launchAt j = s.launchAt j := rfl
@[simp] theorem State.ctxAt_setPavAt (k j : Nat) (x : Pav) : (s.setPavAt k x).ctxAt j = s.ctxAt j := rfl
@[simp] theorem State.coreAt_setPavAt (k j : Nat) (x : Pav) : (s.setPavAt k x).coreAt j = s.coreAt j := rfl
@[simp] theorem State.clusterAt_setPavAt (k j : Nat) (x : Pav) : (s.setPavAt k x).clusterAt j = s.clusterAt j := rfl
@[simp] theorem State.coreAt_setCoreAt_same (k : Nat) (x : Core) : (s.setCoreAt k x).coreAt k = x := by simp [State.coreAt, State.setCoreAt]
theorem State.coreAt_setCoreAt_other {k j : Nat} (x : Core) (h : j ≠ k) : (s.setCoreAt k x).coreAt j = s.coreAt j := by
  simp [State.coreAt, State.setCoreAt, Sparse.get_set_other _ _ _ h]
@[simp] theorem State.setCoreAt_setCoreAt (k : Nat) (x y : Core) : (s.setCoreAt k x).setCoreAt k y = s.setCoreAt k y := by
  simp [State.setCoreAt]
@[simp] theorem State.warpAt_setCoreAt (k j : Nat) (x : Core) : (s.setCoreAt k x).warpAt j = s.warpAt j := rfl
@[simp] theorem State.blockAt_setCoreAt (k j : Nat) (x : Core) : (s.setCoreAt k x).blockAt j = s.blockAt j := rfl
@[simp] theorem State.gangAt_setCoreAt (k j : Nat) (x : Core) : (s.setCoreAt k x).gangAt j = s.gangAt j := rfl
@[simp] theorem State.launchAt_setCoreAt (k j : Nat) (x : Core) : (s.setCoreAt k x).launchAt j = s.launchAt j := rfl
@[simp] theorem State.ctxAt_setCoreAt (k j : Nat) (x : Core) : (s.setCoreAt k x).ctxAt j = s.ctxAt j := rfl
@[simp] theorem State.pavAt_setCoreAt (k j : Nat) (x : Core) : (s.setCoreAt k x).pavAt j = s.pavAt j := rfl
@[simp] theorem State.clusterAt_setCoreAt (k j : Nat) (x : Core) : (s.setCoreAt k x).clusterAt j = s.clusterAt j := rfl
@[simp] theorem State.clusterAt_setClusterAt_same (k : Nat) (x : Cluster) : (s.setClusterAt k x).clusterAt k = x := by simp [State.clusterAt, State.setClusterAt]
theorem State.clusterAt_setClusterAt_other {k j : Nat} (x : Cluster) (h : j ≠ k) : (s.setClusterAt k x).clusterAt j = s.clusterAt j := by
  simp [State.clusterAt, State.setClusterAt, Sparse.get_set_other _ _ _ h]
@[simp] theorem State.setClusterAt_setClusterAt (k : Nat) (x y : Cluster) : (s.setClusterAt k x).setClusterAt k y = s.setClusterAt k y := by
  simp [State.setClusterAt]
@[simp] theorem State.warpAt_setClusterAt (k j : Nat) (x : Cluster) : (s.setClusterAt k x).warpAt j = s.warpAt j := rfl
@[simp] theorem State.blockAt_setClusterAt (k j : Nat) (x : Cluster) : (s.setClusterAt k x).blockAt j = s.blockAt j := rfl
@[simp] theorem State.gangAt_setClusterAt (k j : Nat) (x : Cluster) : (s.setClusterAt k x).gangAt j = s.gangAt j := rfl
@[simp] theorem State.launchAt_setClusterAt (k j : Nat) (x : Cluster) : (s.setClusterAt k x).launchAt j = s.launchAt j := rfl
@[simp] theorem State.ctxAt_setClusterAt (k j : Nat) (x : Cluster) : (s.setClusterAt k x).ctxAt j = s.ctxAt j := rfl
@[simp] theorem State.pavAt_setClusterAt (k j : Nat) (x : Cluster) : (s.setClusterAt k x).pavAt j = s.pavAt j := rfl
@[simp] theorem State.coreAt_setClusterAt (k j : Nat) (x : Cluster) : (s.setClusterAt k x).coreAt j = s.coreAt j := rfl

/-! ## The warp and the split that issue -/

@[simp] theorem State.warp_setWarp (w : Warp) : (s.setWarp w).warp = w := s.warpAt_setWarpAt_same s.cur w
@[simp] theorem State.setWarp_setWarp (v w : Warp) : (s.setWarp v).setWarp w = s.setWarp w :=
  s.setWarpAt_setWarpAt s.cur v w
@[simp] theorem Warp.split_setSplit_same (w : Warp) (i : Nat) (x : Split) : (w.setSplit i x).split i = x := by
  simp [Warp.split, Warp.setSplit]
theorem Warp.split_setSplit_other (w : Warp) {i j : Nat} (x : Split) (h : j ≠ i) :
    (w.setSplit i x).split j = w.split j := by
  simp [Warp.split, Warp.setSplit, Sparse.get_set_other _ _ _ h]
@[simp] theorem Warp.setSplit_setSplit (w : Warp) (i : Nat) (x y : Split) :
    (w.setSplit i x).setSplit i y = w.setSplit i y := by simp [Warp.setSplit]
@[simp] theorem State.split_setSplit (x : Split) : (s.setSplit x).split = x := by
  simp [State.split, State.setSplit]
@[simp] theorem State.warp_setSplit (x : Split) : (s.setSplit x).warp = s.warp.setSplit s.curSplit x := by
  simp [State.setSplit]
@[simp] theorem State.setSplit_setSplit (x y : Split) : (s.setSplit x).setSplit y = s.setSplit y := by
  simp [State.setSplit]
@[simp] theorem State.setSplit_setWarp (x : Split) (w : Warp) : (s.setSplit x).setWarp w = s.setWarp w := by
  simp [State.setSplit]
theorem State.split_setWarp (w : Warp) : (s.setWarp w).split = w.split s.curSplit := by simp [State.split]
theorem State.setSplit_eq (x : Split) : s.setSplit x = s.setWarp (s.warp.setSplit s.curSplit x) := rfl
theorem State.warpAt_setWarp_other {w : Warp} {k : Nat} (h : k ≠ s.cur) : (s.setWarp w).warpAt k = s.warpAt k :=
  s.warpAt_setWarpAt_other w h
@[simp] theorem Warp.setSplit_st (w : Warp) (i : Nat) (x : Split) : (w.setSplit i x).st = w.st := rfl
@[simp] theorem Warp.setSplit_uid (w : Warp) (i : Nat) (x : Split) : (w.setSplit i x).uid = w.uid := rfl
@[simp] theorem Warp.setSplit_ctx (w : Warp) (i : Nat) (x : Split) : (w.setSplit i x).ctx = w.ctx := rfl
@[simp] theorem Warp.setSplit_lseq (w : Warp) (i : Nat) (x : Split) : (w.setSplit i x).lseq = w.lseq := rfl
@[simp] theorem Warp.setSplit_block (w : Warp) (i : Nat) (x : Split) : (w.setSplit i x).block = w.block := rfl
@[simp] theorem Warp.setSplit_vr (w : Warp) (i : Nat) (x : Split) : (w.setSplit i x).vr = w.vr := rfl
@[simp] theorem Warp.setSplit_spawned (w : Warp) (i : Nat) (x : Split) : (w.setSplit i x).spawned = w.spawned := rfl
@[simp] theorem Warp.setSplit_lanes0 (w : Warp) (i : Nat) (x : Split) : (w.setSplit i x).lanes0 = w.lanes0 := rfl
@[simp] theorem Warp.setSplit_wid (w : Warp) (i : Nat) (x : Split) : (w.setSplit i x).wid = w.wid := rfl
@[simp] theorem Warp.setSplit_sregs (w : Warp) (i : Nat) (x : Split) : (w.setSplit i x).sregs = w.sregs := rfl
@[simp] theorem Warp.setSplit_vregs (w : Warp) (i : Nat) (x : Split) : (w.setSplit i x).vregs = w.vregs := rfl
@[simp] theorem Warp.setSplit_ltab (w : Warp) (i : Nat) (x : Split) : (w.setSplit i x).ltab = w.ltab := rfl
@[simp] theorem Warp.setSplit_flags (w : Warp) (i : Nat) (x : Split) : (w.setSplit i x).flags = w.flags := rfl
@[simp] theorem Warp.setSplit_flbl (w : Warp) (i : Nat) (x : Split) : (w.setSplit i x).flbl = w.flbl := rfl
@[simp] theorem Warp.setSplit_coarsen (w : Warp) (i : Nat) (x : Split) : (w.setSplit i x).coarsen = w.coarsen := rfl
@[simp] theorem Warp.setSplit_stack (w : Warp) (i : Nat) (x : Split) : (w.setSplit i x).stack = w.stack := rfl
@[simp] theorem Warp.setSplit_spill (w : Warp) (i : Nat) (x : Split) : (w.setSplit i x).spill = w.spill := rfl
@[simp] theorem Warp.setSplit_loads (w : Warp) (i : Nat) (x : Split) : (w.setSplit i x).loads = w.loads := rfl
@[simp] theorem Warp.setSplit_openCopies (w : Warp) (i : Nat) (x : Split) : (w.setSplit i x).openCopies = w.openCopies := rfl
@[simp] theorem Warp.setSplit_batches (w : Warp) (i : Nat) (x : Split) : (w.setSplit i x).batches = w.batches := rfl
@[simp] theorem Warp.setSplit_lastBatch (w : Warp) (i : Nat) (x : Split) : (w.setSplit i x).lastBatch = w.lastBatch := rfl
@[simp] theorem Warp.setSplit_batchHb (w : Warp) (i : Nat) (x : Split) : (w.setSplit i x).batchHb = w.batchHb := rfl
@[simp] theorem Warp.setSplit_unfold (w : Warp) (i : Nat) (x : Split) : (w.setSplit i x).unfold = w.unfold := rfl
@[simp] theorem Warp.setSplit_unfoldLbl (w : Warp) (i : Nat) (x : Split) : (w.setSplit i x).unfoldLbl = w.unfoldLbl := rfl
@[simp] theorem Warp.setSplit_abase (w : Warp) (i : Nat) (x : Split) : (w.setSplit i x).abase = w.abase := rfl
@[simp] theorem Warp.setSplit_astr (w : Warp) (i : Nat) (x : Split) : (w.setSplit i x).astr = w.astr := rfl
@[simp] theorem Warp.setSplit_aLbl (w : Warp) (i : Nat) (x : Split) : (w.setSplit i x).aLbl = w.aLbl := rfl
@[simp] theorem Warp.setSplit_mstat (w : Warp) (i : Nat) (x : Split) : (w.setSplit i x).mstat = w.mstat := rfl
@[simp] theorem Warp.setSplit_mslbl (w : Warp) (i : Nat) (x : Split) : (w.setSplit i x).mslbl = w.mslbl := rfl
@[simp] theorem Warp.setSplit_chkcnt (w : Warp) (i : Nat) (x : Split) : (w.setSplit i x).chkcnt = w.chkcnt := rfl
@[simp] theorem Warp.setSplit_priv (w : Warp) (i : Nat) (x : Split) : (w.setSplit i x).priv = w.priv := rfl
@[simp] theorem Warp.setSplit_privLbl (w : Warp) (i : Nat) (x : Split) : (w.setSplit i x).privLbl = w.privLbl := rfl
@[simp] theorem Warp.setSplit_privPoison (w : Warp) (i : Nat) (x : Split) : (w.setSplit i x).privPoison = w.privPoison := rfl
@[simp] theorem Warp.setSplit_poisonS (w : Warp) (i : Nat) (x : Split) : (w.setSplit i x).poisonS = w.poisonS := rfl
@[simp] theorem Warp.setSplit_poisonV (w : Warp) (i : Nat) (x : Split) : (w.setSplit i x).poisonV = w.poisonV := rfl
@[simp] theorem Warp.setSplit_lost (w : Warp) (i : Nat) (x : Split) : (w.setSplit i x).lost = w.lost := rfl
@[simp] theorem Warp.setSplit_lastSplit (w : Warp) (i : Nat) (x : Split) : (w.setSplit i x).lastSplit = w.lastSplit := rfl
@[simp] theorem Warp.setSplit_hb (w : Warp) (i : Nat) (x : Split) : (w.setSplit i x).hb = w.hb := rfl
@[simp] theorem Warp.setSplit_acq (w : Warp) (i : Nat) (x : Split) : (w.setSplit i x).acq = w.acq := rfl
@[simp] theorem Warp.setSplit_rel (w : Warp) (i : Nat) (x : Split) : (w.setSplit i x).rel = w.rel := rfl
@[simp] theorem Warp.setSplit_hbBase (w : Warp) (i : Nat) (x : Split) : (w.setSplit i x).hbBase = w.hbBase := rfl
@[simp] theorem Warp.setSplit_tileHb (w : Warp) (i : Nat) (x : Split) : (w.setSplit i x).tileHb = w.tileHb := rfl
@[simp] theorem State.blockAt_setWarp (w : Warp) (j : Nat) : (s.setWarp w).blockAt j = s.blockAt j := rfl
@[simp] theorem State.blockAt_setSplit (x : Split) (j : Nat) : (s.setSplit x).blockAt j = s.blockAt j := rfl
@[simp] theorem State.gangAt_setWarp (w : Warp) (j : Nat) : (s.setWarp w).gangAt j = s.gangAt j := rfl
@[simp] theorem State.gangAt_setSplit (x : Split) (j : Nat) : (s.setSplit x).gangAt j = s.gangAt j := rfl
@[simp] theorem State.launchAt_setWarp (w : Warp) (j : Nat) : (s.setWarp w).launchAt j = s.launchAt j := rfl
@[simp] theorem State.launchAt_setSplit (x : Split) (j : Nat) : (s.setSplit x).launchAt j = s.launchAt j := rfl
@[simp] theorem State.ctxAt_setWarp (w : Warp) (j : Nat) : (s.setWarp w).ctxAt j = s.ctxAt j := rfl
@[simp] theorem State.ctxAt_setSplit (x : Split) (j : Nat) : (s.setSplit x).ctxAt j = s.ctxAt j := rfl
@[simp] theorem State.pavAt_setWarp (w : Warp) (j : Nat) : (s.setWarp w).pavAt j = s.pavAt j := rfl
@[simp] theorem State.pavAt_setSplit (x : Split) (j : Nat) : (s.setSplit x).pavAt j = s.pavAt j := rfl
@[simp] theorem State.coreAt_setWarp (w : Warp) (j : Nat) : (s.setWarp w).coreAt j = s.coreAt j := rfl
@[simp] theorem State.coreAt_setSplit (x : Split) (j : Nat) : (s.setSplit x).coreAt j = s.coreAt j := rfl
@[simp] theorem State.clusterAt_setWarp (w : Warp) (j : Nat) : (s.setWarp w).clusterAt j = s.clusterAt j := rfl
@[simp] theorem State.clusterAt_setSplit (x : Split) (j : Nat) : (s.setSplit x).clusterAt j = s.clusterAt j := rfl

end Sys2Proof.Machine
end

