-- ==== Sys2Proof/Laws/Labels.lean ====
section
/-! SUPPORT. What `lookup_or_insert` does to a warp's label table (02 R19), and what every write through it keeps. -/

namespace Sys2Proof.Machine

theorem Warp.entry_zero (w : Warp) (own : Label) : w.entry own 0 = some 0#16 := rfl
theorem Warp.entry_fifteen (w : Warp) (own : Label) : w.entry own 15 = some own := rfl

/-- An entry of the table after a free one has been filled. -/
theorem Warp.entry_fill (w : Warp) (own l : Label) {i : Nat} (h1 : 1 ≤ i) (h2 : i ≤ 14) (j : Nat) :
    ({ w with ltab := w.ltab.set none i (some l) } : Warp).entry own j = if j = i then some l else w.entry own j := by
  unfold Warp.entry
  by_cases hj : j = i
  · subst hj
    rw [if_neg (by omega), if_neg (by omega), if_pos rfl]
    exact Sparse.get_set_same ..
  · simp [hj, Sparse.get_set_other]

theorem labelSize_zero : labelSize 0#16 = 0 := by decide

/-- The entry that is found dominates, where one of those tried does. -/
theorem Warp.smallestDom_spec (w : Warp) (own l : Label) (is : List Nat) (best : Option Nat)
    (hb : ∀ j, best = some j → j < 16 ∧ ∃ e, w.entry own j = some e ∧ Label.dom e l = true)
    (hi : ∀ i ∈ is, i < 16) (h15 : best = none → 15 ∈ is) (hown : Label.dom own l = true) :
    w.smallestDom own l is best < 16 ∧
      ∃ e, w.entry own (w.smallestDom own l is best) = some e ∧ Label.dom e l = true := by
  induction is generalizing best with
  | nil =>
    cases best with
    | none => simp at h15
    | some j => simpa [Warp.smallestDom] using hb j rfl
  | cons i t ih =>
    have ht : ∀ i ∈ t, i < 16 := fun a ha => hi a (List.mem_cons_of_mem _ ha)
    have hi16 := hi i List.mem_cons_self
    unfold Warp.smallestDom
    cases he : w.entry own i with
    | none =>
      refine ih best hb ht fun hn => ?_
      rcases List.mem_cons.mp (h15 hn) with h | h
      · rw [← h, Warp.entry_fifteen] at he; simp at he
      · exact h
    | some e =>
      by_cases hd : Label.dom e l = true
      · have new : ∀ j, some i = some j → j < 16 ∧ ∃ e, w.entry own j = some e ∧ Label.dom e l = true := by
          rintro j ⟨⟩; exact ⟨hi16, e, he, hd⟩
        simp only [hd, if_true]
        cases best with
        | none => exact ih (some i) new ht (by simp)
        | some j =>
          simp only
          split
          · exact ih (some i) new ht (by simp)
          · exact ih (some j) hb ht (by simp)
      · simp only [hd]
        refine ih best hb ht fun hn => ?_
        rcases List.mem_cons.mp (h15 hn) with h | h
        · rw [← h, Warp.entry_fifteen] at he
          cases he
          exact absurd hown hd
        · exact h

theorem Label.dom_self (l : Label) : Label.dom l l = true := by
  simp [Label.dom]

/-- The table's only change is at an entry filled; else COARSEN counts. -/
theorem Warp.intern_rest (w : Warp) (own l : Label) :
    (w.intern own l).2 = { w with ltab := (w.intern own l).2.ltab, coarsen := (w.intern own l).2.coarsen } := by
  unfold Warp.intern
  split
  · rfl
  · split <;> rfl

theorem Warp.intern_entries (w : Warp) (own l : Label) (i : Nat) (x : Label) (h : w.entry own i = some x) :
    (w.intern own l).2.entry own i = some x := by
  unfold Warp.intern
  split
  · exact h
  · split
    · rename_i j hj
      have hp := List.find?_some hj
      have hm := List.mem_of_find?_eq_some hj
      simp only [List.mem_range'_1] at hm
      simp only
      rw [Warp.entry_fill w own l hm.1 (by omega)]
      split
      · subst i
        unfold Warp.entry at h
        rw [if_neg (by omega), if_neg (by omega)] at h
        simp only [decide_eq_true_eq] at hp
        rw [hp] at h
        simp at h
      · exact h
    · exact h

/-- Where the table has room, the index stands for the label itself (R19 steps 1 and 2). -/
theorem Warp.intern_exact (w : Warp) (own l : Label)
    (h : (∃ j < 16, w.entry own j = some l) ∨ ∃ j, 1 ≤ j ∧ j ≤ 14 ∧ w.ltab.get none j = none) :
    (w.intern own l).2.entry own (w.intern own l).1.toNat = some l := by
  unfold Warp.intern
  split
  · rename_i i hi
    have hp := List.find?_some hi
    have hm := List.mem_of_find?_eq_some hi
    simp only [List.mem_range] at hm
    simp only [decide_eq_true_eq] at hp
    simp only [BitVec.toNat_ofNat, Nat.reducePow, Nat.mod_eq_of_lt hm]
    exact hp
  · rename_i hn
    split
    · rename_i j hj
      have hm := List.mem_of_find?_eq_some hj
      simp only [List.mem_range'_1] at hm
      simp only [BitVec.toNat_ofNat, Nat.reducePow]
      rw [Nat.mod_eq_of_lt (by omega), Warp.entry_fill w own l hm.1 (by omega), if_pos rfl]
    · rename_i hf
      rw [List.find?_eq_none] at hn hf
      rcases h with ⟨j, hj, he⟩ | ⟨j, h1, h2, he⟩
      · exact absurd (by simpa using he) (hn j (List.mem_range.mpr hj))
      · exact absurd (by simpa using he) (hf j (by simp [List.mem_range'_1]; omega))

/-- The index stands for a label that dominates (R19 step 3). -/
theorem Warp.intern_dom (w : Warp) (own l : Label) (h : Label.dom own l = true) :
    ∃ e, (w.intern own l).2.entry own (w.intern own l).1.toNat = some e ∧ Label.dom e l = true := by
  by_cases hr : (∃ j < 16, w.entry own j = some l) ∨ ∃ j, 1 ≤ j ∧ j ≤ 14 ∧ w.ltab.get none j = none
  · exact ⟨l, w.intern_exact own l hr, Label.dom_self l⟩
  · unfold Warp.intern
    split
    · rename_i i hi
      have hp := List.find?_some hi
      have hm := List.mem_of_find?_eq_some hi
      simp only [List.mem_range] at hm
      simp only [decide_eq_true_eq] at hp
      exact absurd (Or.inl ⟨i, hm, hp⟩) hr
    · split
      · rename_i j hj
        have hp := List.find?_some hj
        have hm := List.mem_of_find?_eq_some hj
        simp only [List.mem_range'_1] at hm
        simp only [decide_eq_true_eq] at hp
        exact absurd (Or.inr ⟨j, hm.1, by omega, hp⟩) hr
      · obtain ⟨hlt, e, he, hd⟩ := w.smallestDom_spec own l (List.range 16) none (by simp)
          (fun i hi => List.mem_range.mp hi) (fun _ => by simp) h
        refine ⟨e, ?_, hd⟩
        simp only [BitVec.toNat_ofNat, Nat.reducePow, Nat.mod_eq_of_lt hlt]
        exact he

/-- A label that the table holds leaves the warp unchanged (R19 step 1). -/
theorem Warp.intern_held (w : Warp) (own l : Label) (h : ∃ j < 16, w.entry own j = some l) :
    (w.intern own l).2 = w := by
  obtain ⟨j, hj, he⟩ := h
  unfold Warp.intern
  split
  · rfl
  · rename_i hn
    rw [List.find?_eq_none] at hn
    exact absurd (by simpa using he) (hn j (List.mem_range.mpr hj))

theorem Warp.label_of_entry {w : Warp} {own l : Label} {i : LIdx} (h : w.entry own i.toNat = some l) :
    w.label own i = l := by simp [Warp.label, h]

end Sys2Proof.Machine
end

