-- ==== Sys2Proof/Laws/Writes.lean ====
section
/-! SUPPORT. What the shared operations on registers, flags and the PC do: one lemma an operation. -/

namespace Sys2Proof.Machine

variable (s : State)

/-! ## Completion (02 R11) -/

theorem State.advance_eq (p : Bool) : s.advance p = s.setSplit { s.split with
    pc := s.nextPc p, safe := s.safePoint p s.maskWord, last := s.cycle, declined := [], heldOn := [] } := rfl

theorem State.jump_eq (p : Bool) (pc : BitVec 57) : s.jump p pc = s.setSplit { s.split with
    pc := pc, safe := s.safePoint p s.maskWord, last := s.cycle, declined := [], heldOn := [] } := rfl

theorem State.warp_complete (p : Bool) (m : Option (BitVec 32)) (pc : BitVec 57) :
    (s.complete p m pc).warp = s.warp.setSplit s.curSplit { s.split with
      pc := pc, safe := s.safePoint p m, last := s.cycle, declined := [], heldOn := [] } := by
  simp [State.complete]

/-- A change of the warp that issues, its splits apart, and then a completion. -/
theorem complete_setWarp {s : State} {w : Warp} {p : Bool} {m : Option (BitVec 32)} {pc : BitVec 57}
    (hs : w.splits = s.warp.splits) :
    OnlyWarp s ((s.setWarp w).complete p m pc) ∧ GoesTo s ((s.setWarp w).complete p m pc) pc ∧
      ((s.setWarp w).complete p m pc).warp = { w with splits := ((s.setWarp w).complete p m pc).warp.splits } := by
  have hsp : (s.setWarp w).split = s.split := by
    simp [State.split, Warp.split, hs]
  refine ⟨?_, ⟨?_, fun i hi => ?_⟩, ?_⟩
  · unfold OnlyWarp State.complete
    simp [State.setSplit_eq]
  · rw [State.complete, State.split_setSplit, hsp]; rfl
  · rw [State.warp_complete]
    simp only [State.warp_setWarp, State.setWarp_curSplit]
    rw [Warp.split_setSplit_other _ _ hi]
    simp [Warp.split, hs]
  · rw [State.warp_complete]
    simp [Warp.setSplit]

/-- The same for `advance`. -/
theorem advance_setWarp {s : State} {w : Warp} {p : Bool} (hs : w.splits = s.warp.splits) :
    OnlyWarp s ((s.setWarp w).advance p) ∧ GoesTo s ((s.setWarp w).advance p) (s.nextPc p) ∧
      ((s.setWarp w).advance p).warp = { w with splits := ((s.setWarp w).advance p).warp.splits } := by
  have h : (s.setWarp w).nextPc p = s.nextPc p := by simp [State.nextPc, State.split, Warp.split, hs]
  unfold State.advance
  rw [h]
  exact complete_setWarp hs

theorem complete_goes (p : Bool) (m : Option (BitVec 32)) (pc : BitVec 57) : GoesOnly s (s.complete p m pc) pc := by
  refine ⟨?_, ⟨?_, fun i hi => ?_⟩, ?_⟩
  · simp [OnlyWarp, State.complete, State.setSplit_eq]
  · simp [State.complete]
  · simp only [State.warp_complete]
    rw [Warp.split_setSplit_other _ _ hi]
  · simp [State.warp_complete, Warp.setSplit]

theorem advance_goes (p : Bool) : GoesOnly s (s.advance p) (s.nextPc p) := complete_goes s p _ _

theorem jump_goes (p : Bool) (pc : BitVec 57) : GoesOnly s (s.jump p pc) pc := complete_goes s p _ _

/-! ## `lookup_or_insert` in the warp that issues -/

theorem State.intern_warp (l : Label) : (s.intern l).2 = s.setWarp (s.warp.intern s.owners l).2 := rfl
theorem State.intern_fst (l : Label) : (s.intern l).1 = (s.warp.intern s.owners l).1 := rfl

theorem Warp.entry_congr {v w : Warp} (h : v.ltab = w.ltab) (own : Label) (i : Nat) :
    v.entry own i = w.entry own i := by simp [Warp.entry, h]

theorem Warp.label_congr {v w : Warp} (h : v.ltab = w.ltab) (own : Label) (i : LIdx) :
    v.label own i = w.label own i := by simp [Warp.label, Warp.entry_congr h]

/-- The owner set follows the warp's context alone. -/
theorem State.owners_setWarp {w : Warp} (h : w.ctx = s.warp.ctx) : (s.setWarp w).owners = s.owners := by
  simp [State.owners, State.ctx, h]

theorem Warp.intern_ctx (w : Warp) (own l : Label) : (w.intern own l).2.ctx = w.ctx := by
  rw [w.intern_rest]
theorem Warp.intern_splits (w : Warp) (own l : Label) : (w.intern own l).2.splits = w.splits := by
  rw [w.intern_rest]
theorem Warp.intern_sregs (w : Warp) (own l : Label) : (w.intern own l).2.sregs = w.sregs := by
  rw [w.intern_rest]
theorem Warp.intern_vregs (w : Warp) (own l : Label) : (w.intern own l).2.vregs = w.vregs := by
  rw [w.intern_rest]
theorem Warp.intern_flags (w : Warp) (own l : Label) : (w.intern own l).2.flags = w.flags := by
  rw [w.intern_rest]
theorem Warp.intern_flbl (w : Warp) (own l : Label) : (w.intern own l).2.flbl = w.flbl := by
  rw [w.intern_rest]

/-! ## The warp that `setS` and `setFlags` leave -/

/-- The warp after S[d] is written. -/
def Warp.putS (w : Warp) (own : Label) (d : SNum) (v : Word) (l : Label) : Warp :=
  if d = 0 then w
  else
    let r := w.intern own l
    { r.2 with sregs := r.2.sregs.set SReg.zero d.toNat ⟨v, r.1⟩, poisonS := r.2.poisonS.set false d.toNat false }

theorem State.setS_warp (d : SNum) (v : Word) (l : Label) :
    d ≠ 0 → s.setS d v l = s.setWarp (s.warp.putS s.owners d v l) := by
  intro h
  unfold State.setS Warp.putS
  rw [if_neg h, if_neg h]
  simp [State.intern_warp, State.intern_fst]

/-- The warp after flags are set. -/
def Warp.putFlags (w : Warp) (own : Label) (f : BitVec 32) (l : Label) : Warp :=
  let w := { w with flags := w.flags ||| f }
  let r := w.intern own (w.label own w.flbl ||| l)
  { r.2 with flbl := r.1 }

theorem State.setFlags_warp (f : BitVec 32) (l : Label) :
    s.setFlags f l = s.setWarp (s.warp.putFlags s.owners f l) := by
  simp only [State.setFlags, State.intern_warp, State.intern_fst, Warp.putFlags, State.label, State.warp_setWarp,
    State.setWarp_setWarp, State.owners_setWarp s (w := { s.warp with flags := s.warp.flags ||| f }) rfl]

theorem Warp.putS_rest (w : Warp) (own : Label) (d : SNum) (v : Word) (l : Label) :
    w.putS own d v l = { w with sregs := (w.putS own d v l).sregs, poisonS := (w.putS own d v l).poisonS, ltab := (w.putS own d v l).ltab, coarsen := (w.putS own d v l).coarsen } := by
  unfold Warp.putS
  split
  · rfl
  · simp only
    rw [w.intern_rest]

theorem Warp.putS_entries (w : Warp) (own : Label) (d : SNum) (v : Word) (l : Label) (i : Nat) (x : Label)
    (h : w.entry own i = some x) : (w.putS own d v l).entry own i = some x := by
  unfold Warp.putS
  split
  · exact h
  · exact w.intern_entries own l i x h

theorem Warp.putFlags_rest (w : Warp) (own : Label) (f : BitVec 32) (l : Label) :
    w.putFlags own f l = { w with flags := w.flags ||| f, flbl := (w.putFlags own f l).flbl, ltab := (w.putFlags own f l).ltab, coarsen := (w.putFlags own f l).coarsen } := by
  unfold Warp.putFlags
  simp only
  rw [Warp.intern_rest]

theorem Warp.putFlags_entries (w : Warp) (own : Label) (f : BitVec 32) (l : Label) (i : Nat) (x : Label)
    (h : w.entry own i = some x) : (w.putFlags own f l).entry own i = some x :=
  Warp.intern_entries { w with flags := w.flags ||| f } own _ i x h

/-- The label of FLBL after flags are set. -/
theorem Warp.putFlags_flbl (w : Warp) (own : Label) (f : BitVec 32) (l : Label) :
    ((∃ j < 16, w.entry own j = some (w.label own w.flbl ||| l)) →
      (w.putFlags own f l).label own (w.putFlags own f l).flbl = w.label own w.flbl ||| l) ∧
    (Label.dom own (w.label own w.flbl ||| l) = true →
      Label.dom ((w.putFlags own f l).label own (w.putFlags own f l).flbl) (w.label own w.flbl ||| l) = true) := by
  let v : Warp := { w with flags := w.flags ||| f }
  constructor
  · intro h
    exact Warp.label_of_entry (Warp.intern_exact v own _ (Or.inl h))
  · intro h
    obtain ⟨e, he, hd⟩ := Warp.intern_dom v own (w.label own w.flbl ||| l) h
    have : (w.putFlags own f l).label own (w.putFlags own f l).flbl = e := Warp.label_of_entry he
    rw [this]
    exact hd

theorem Warp.label_kept {v w : Warp} {own l : Label} (h : ∀ i x, v.entry own i = some x → w.entry own i = some x)
    (i : LIdx) (hl : v.entry own i.toNat = some l) : w.label own i = l :=
  Warp.label_of_entry (h _ _ hl)

theorem SNum.toNat_inj {a b : SNum} (h : a ≠ b) : a.toNat ≠ b.toNat := fun e => h (BitVec.eq_of_toNat_eq e)

theorem Warp.putS_entry (w : Warp) (own : Label) (d : SNum) (v : Word) (l : Label) (h : d ≠ 0) :
    (w.putS own d v l).sregs.get SReg.zero d.toNat = ⟨v, (w.intern own l).1⟩ := by
  unfold Warp.putS
  rw [if_neg h]
  simp

theorem Warp.putS_other (w : Warp) (own : Label) (d : SNum) (v : Word) (l : Label) (r : SNum) (h : r ≠ d) :
    (w.putS own d v l).sregs.get SReg.zero r.toNat = w.sregs.get SReg.zero r.toNat := by
  unfold Warp.putS
  split
  · rfl
  · simp only
    rw [Sparse.get_set_other _ _ _ (SNum.toNat_inj h), w.intern_sregs]

/-- The label of a register just written. -/
theorem Warp.putS_label (w : Warp) (own : Label) (d : SNum) (v : Word) (l : Label) (h : d ≠ 0) :
    (((∃ j < 16, w.entry own j = some l) ∨ ∃ j, 1 ≤ j ∧ j ≤ 14 ∧ w.ltab.get none j = none) →
      (w.putS own d v l).entry own (w.intern own l).1.toNat = some l) ∧
    (Label.dom own l = true → ∃ e, (w.putS own d v l).entry own (w.intern own l).1.toNat = some e ∧
      Label.dom e l = true) := by
  unfold Warp.putS
  rw [if_neg h]
  exact ⟨fun hr => w.intern_exact own l hr, fun hd => w.intern_dom own l hd⟩

/-- What a completion leaves of a warp. -/
theorem State.label_of_warp {s t : State} {v : Warp} (hw : t.warp = { v with splits := t.warp.splits })
    (ho : t.owners = s.owners) (i : LIdx) : t.label i = v.label s.owners i := by
  unfold State.label
  rw [ho, hw]
  exact Warp.label_congr rfl _ _

theorem State.owners_of_only {s t : State} (h : OnlyWarp s t) (hc : t.warp.ctx = s.warp.ctx) :
    t.owners = s.owners := by
  rw [h]
  exact s.owners_setWarp hc

/-- Writing a scalar register, then completing (02 R10, R11, R19). -/
theorem writesScalar_complete (p : Bool) (m : Option (BitVec 32)) (pc : BitVec 57) (d : SNum) (v : Word) (l : Label) :
    WritesScalar s ((s.setS d v l).complete p m pc) pc d v l none := by
  by_cases hd : d = 0
  · subst hd
    have e : s.setS 0 v l = s := by simp [State.setS]
    rw [e]
    have g := complete_goes s p m pc
    refine ⟨g.only, g.next, by simp, by simp, by simp, fun _ => ?_, fun r _ => ?_, fun i x h => ?_, ?_, ?_, ?_⟩
    · rw [g.rest]
    · rw [g.rest]
    · rw [g.rest]; exact h
    · rw [g.rest]; simp
    · simp only [Option.isNone_none, if_true]; rw [g.rest]
    · rw [g.rest]
  · rw [s.setS_warp d v l hd]
    have hp := Warp.putS_rest s.warp s.owners d v l
    obtain ⟨h1, h2, h3⟩ := complete_setWarp (s := s) (w := s.warp.putS s.owners d v l) (p := p) (m := m) (pc := pc)
      (by rw [hp])
    generalize (s.setWarp (s.warp.putS s.owners d v l)).complete p m pc = t at *
    have hc : t.warp.ctx = s.warp.ctx := by rw [h3, hp]
    have ho := State.owners_of_only h1 hc
    have hreg : ∀ r : SNum, t.warp.sregs.get SReg.zero r.toNat = (s.warp.putS s.owners d v l).sregs.get SReg.zero r.toNat := by
      intro r; rw [h3]
    have hlab : t.slbl d = (s.warp.putS s.owners d v l).label s.owners (s.warp.intern s.owners l).1 := by
      unfold State.slbl
      rw [if_neg hd, hreg, Warp.putS_entry _ _ _ _ _ hd]
      exact State.label_of_warp h3 ho _
    refine ⟨h1, h2, fun _ => ?_, fun _ hr => ?_, fun _ hr => ?_, fun h => absurd h hd, fun r hr => ?_, fun i x h => ?_,
      ?_, ?_, ?_⟩
    · unfold State.sreg
      rw [if_neg hd, hreg, Warp.putS_entry _ _ _ _ _ hd]
    · rw [hlab]
      exact Warp.label_of_entry ((Warp.putS_label _ _ _ _ _ hd).1 hr)
    · obtain ⟨e, he, hdom⟩ := (Warp.putS_label s.warp s.owners d v l hd).2 hr
      rw [hlab, Warp.label_of_entry he]
      exact hdom
    · rw [hreg, Warp.putS_other _ _ _ _ _ _ hr]
    · rw [h3]
      exact Warp.putS_entries _ _ _ _ _ _ _ h
    · rw [h3, hp]; simp
    · simp only [Option.isNone_none, if_true]; rw [h3, hp]
    · rw [h3]
      simp only
      rw [hp]

theorem State.setS_split (d : SNum) (v : Word) (l : Label) : (s.setS d v l).split = s.split := by
  by_cases hd : d = 0
  · simp [State.setS, hd]
  · rw [s.setS_warp d v l hd, State.split_setWarp, State.split, Warp.split, Warp.putS_rest]
    rfl

theorem State.setS_curSplit (d : SNum) (v : Word) (l : Label) : (s.setS d v l).curSplit = s.curSplit := by
  by_cases hd : d = 0
  · simp [State.setS, hd]
  · rw [s.setS_warp d v l hd]
    rfl

theorem writesScalar_setS (p : Bool) (d : SNum) (v : Word) (l : Label) :
    WritesScalar s ((s.setS d v l).advance p) (s.nextPc p) d v l none := by
  have h : (s.setS d v l).nextPc p = s.nextPc p := by simp [State.nextPc, State.setS_split]
  unfold State.advance
  rw [h]
  exact writesScalar_complete s p _ _ d v l

theorem writesScalar_jump (p : Bool) (pc : BitVec 57) (d : SNum) (v : Word) (l : Label) :
    WritesScalar s ((s.setS d v l).jump p pc) pc d v l none := writesScalar_complete s p _ pc d v l

/-- Writing a scalar register and setting flags, then completing (04 R65). -/
theorem writesScalar_setFlags (p : Bool) (d : SNum) (v : Word) (l : Label) (f : BitVec 32) :
    WritesScalar s (((s.setS d v l).setFlags f l).advance p) (s.nextPc p) d v l (some f) := by
  have hw : (s.setS d v l).setFlags f l = s.setWarp ((s.warp.putS s.owners d v l).putFlags s.owners f l) := by
    by_cases hd : d = 0
    · subst hd
      simp [State.setS, Warp.putS, State.setFlags_warp]
    · rw [s.setS_warp d v l hd, State.setFlags_warp]
      simp only [State.warp_setWarp, State.setWarp_setWarp]
      rw [State.owners_setWarp]
      rw [Warp.putS_rest]
  rw [hw]
  have hp := Warp.putS_rest s.warp s.owners d v l
  generalize hv : s.warp.putS s.owners d v l = w1 at *
  have hf := Warp.putFlags_rest w1 s.owners f l
  obtain ⟨h1, h2, h3⟩ := advance_setWarp (s := s) (w := w1.putFlags s.owners f l) (p := p) (by rw [hf, hp])
  generalize (s.setWarp (w1.putFlags s.owners f l)).advance p = t at *
  have hc : t.warp.ctx = s.warp.ctx := by rw [h3, hf, hp]
  have ho := State.owners_of_only h1 hc
  have hsr : t.warp.sregs = w1.sregs := by rw [h3, hf]
  have hent : ∀ i x, w1.entry s.owners i = some x → t.warp.entry s.owners i = some x := by
    intro i x h
    rw [h3]
    exact Warp.putFlags_entries _ _ _ _ _ _ h
  have hent0 : ∀ i x, s.warp.entry s.owners i = some x → w1.entry s.owners i = some x := by
    intro i x h
    rw [← hv]
    exact Warp.putS_entries _ _ _ _ _ _ _ h
  refine ⟨h1, h2, fun hd => ?_, fun hd hr => ?_, fun hd hr => ?_, fun h => ?_, fun r hr => ?_, fun i x h => ?_, ?_, ?_, ?_⟩
  · unfold State.sreg
    rw [if_neg hd, hsr, ← hv, Warp.putS_entry _ _ _ _ _ hd]
  · unfold State.slbl
    rw [if_neg hd, hsr, ← hv, Warp.putS_entry _ _ _ _ _ hd]
    have := (Warp.putS_label s.warp s.owners d v l hd).1 hr
    rw [hv] at this
    unfold State.label
    rw [ho]
    exact Warp.label_of_entry (hent _ _ this)
  · obtain ⟨e, he, hdom⟩ := (Warp.putS_label s.warp s.owners d v l hd).2 hr
    rw [hv] at he
    unfold State.slbl State.label
    rw [if_neg hd, hsr, ← hv, Warp.putS_entry _ _ _ _ _ hd, ho, Warp.label_of_entry (hent _ _ he)]
    exact hdom
  · rw [hsr, ← hv]
    simp [Warp.putS, h]
  · rw [hsr, ← hv, Warp.putS_other _ _ _ _ _ _ hr]
  · exact hent _ _ (hent0 _ _ h)
  · rw [h3, hf, hp]; simp
  · simp only [Option.isNone_some, Bool.false_eq_true, if_false]
    intro hu
    have hfl : w1.flbl = s.warp.flbl := by rw [hp]
    obtain ⟨x, hx⟩ := Option.isSome_iff_exists.mp hu
    have hx1 := hent0 _ _ hx
    have hl : w1.label s.owners w1.flbl = s.label s.warp.flbl := by
      rw [hfl, Warp.label_of_entry hx1]
      exact (Warp.label_of_entry hx).symm
    have key := Warp.putFlags_flbl w1 s.owners f l
    rw [hl] at key
    have ht : t.label t.warp.flbl = (w1.putFlags s.owners f l).label s.owners (w1.putFlags s.owners f l).flbl := by
      have : t.warp.flbl = (w1.putFlags s.owners f l).flbl := by rw [h3]
      rw [this]
      exact State.label_of_warp h3 ho _
    refine ⟨fun ⟨j, hj, he⟩ => ?_, fun hd => ?_⟩
    · rw [ht]; exact key.1 ⟨j, hj, hent0 _ _ he⟩
    · rw [ht]; exact key.2 hd
  · rw [h3]
    simp only
    rw [hf]
    simp only
    rw [hp]

end Sys2Proof.Machine
end

