-- ==== Sys2Proof/Laws/Lanes.lean ====
section
/-! SUPPORT. What a lane-wise write does (05 R92, 07 R119, R132, R133). -/

namespace Sys2Proof.Machine

/-- The warp after an element is written in a lane. -/
def Warp.putV (w : Warp) (own : Label) (wide : Bool) (r l v : Nat) (lb : Label) : Warp :=
  let i := w.intern own lb
  let a : Warp := { i.2 with
    vregs := i.2.vregs.set VLane.zero (vkey r l) ⟨BitVec.ofNat 32 v, i.1⟩
    poisonV := i.2.poisonV.set false (vkey r l) false }
  if wide then
    { a with
      vregs := a.vregs.set VLane.zero (vkey (r + 1) l) ⟨BitVec.ofNat 32 (v / 2 ^ 32), i.1⟩
      poisonV := a.poisonV.set false (vkey (r + 1) l) false }
  else a

theorem State.setV_warp (s : State) (wide : Bool) (r l v : Nat) (lb : Label) :
    s.setV wide r l v lb = s.setWarp (s.warp.putV s.owners wide r l v lb) := by
  unfold State.setV Warp.putV State.putLane
  cases wide <;> simp [State.intern_warp, State.intern_fst]

theorem Warp.putV_rest (w : Warp) (own : Label) (wide : Bool) (r l v : Nat) (lb : Label) :
    w.putV own wide r l v lb = { w with vregs := (w.putV own wide r l v lb).vregs, poisonV := (w.putV own wide r l v lb).poisonV, ltab := (w.putV own wide r l v lb).ltab, coarsen := (w.putV own wide r l v lb).coarsen } := by
  cases wide
  all_goals
    simp only [Warp.putV, Bool.false_eq_true, if_false, if_true]
    rw [w.intern_rest]

theorem Warp.putV_ltab (w : Warp) (own : Label) (wide : Bool) (r l v : Nat) (lb : Label) :
    (w.putV own wide r l v lb).ltab = (w.intern own lb).2.ltab := by
  cases wide <;> rfl

theorem vkey_inj {r q l m : Nat} (hl : l < 32) (hm : m < 32) (h : vkey r l = vkey q m) : r = q ∧ l = m := by
  simp only [vkey] at h
  omega

theorem Warp.putV_get (w : Warp) (own : Label) (wide : Bool) (r l v : Nat) (lb : Label) (q m : Nat) (hl : l < 32)
    (hm : m < 32) :
    (w.putV own wide r l v lb).vregs.get VLane.zero (vkey q m) =
      if m = l ∧ q = r then ⟨BitVec.ofNat 32 v, (w.intern own lb).1⟩
      else if m = l ∧ wide = true ∧ q = r + 1 then ⟨BitVec.ofNat 32 (v / 2 ^ 32), (w.intern own lb).1⟩
      else w.vregs.get VLane.zero (vkey q m) := by
  have inj : ∀ a b : Nat, vkey a m = vkey b l ↔ m = l ∧ a = b := fun a b =>
    ⟨fun h => ⟨(vkey_inj hm hl h).2, (vkey_inj hm hl h).1⟩, fun ⟨h, k⟩ => by rw [h, k]⟩
  cases wide
  · simp only [Warp.putV, Bool.false_eq_true, if_false, Sparse.get_set, inj, w.intern_vregs, false_and, and_false]
  · simp only [Warp.putV, if_true, Sparse.get_set, inj, w.intern_vregs, true_and]
    by_cases h1 : m = l ∧ q = r
    · simp [h1]
    · by_cases h2 : m = l ∧ q = r + 1
      · simp [h2]
      · simp [h1, h2]

/-- The warp after elements are written in several lanes, in order. -/
def Warp.putVs (w : Warp) (own : Label) (wide : Bool) (r : Nat) (v : Nat → Nat) (lb : Nat → Label) :
    List Nat → Warp
  | [] => w
  | l :: t => (w.putV own wide r l (v l) (lb l)).putVs own wide r v lb t

theorem State.putVs_warp (s : State) (wide : Bool) (r : Nat) (v : Nat → Nat) (lb : Nat → Label) (ls : List Nat)
    (w : Warp) (hw : w.ctx = s.warp.ctx) :
    ls.foldl (fun s l => s.setV wide r l (v l) (lb l)) (s.setWarp w) =
      s.setWarp (w.putVs s.owners wide r v lb ls) := by
  induction ls generalizing w with
  | nil => rfl
  | cons l t ih =>
    simp only [List.foldl_cons, Warp.putVs]
    rw [State.setV_warp, State.warp_setWarp, State.setWarp_setWarp, s.owners_setWarp hw]
    apply ih
    rw [Warp.putV_rest]
    exact hw

theorem State.setWarp_fold (s : State) (wide : Bool) (r : Nat) (v : Nat → Nat) (lb : Nat → Label) (l : Nat)
    (ls : List Nat) :
    (l :: ls).foldl (fun s l => s.setV wide r l (v l) (lb l)) s =
      s.setWarp (s.warp.putVs s.owners wide r v lb (l :: ls)) := by
  simp only [List.foldl_cons, Warp.putVs]
  rw [State.setV_warp, s.putVs_warp]
  rw [Warp.putV_rest]

theorem Warp.putVs_rest (w : Warp) (own : Label) (wide : Bool) (r : Nat) (v : Nat → Nat) (lb : Nat → Label)
    (ls : List Nat) :
    w.putVs own wide r v lb ls = { w with vregs := (w.putVs own wide r v lb ls).vregs, poisonV := (w.putVs own wide r v lb ls).poisonV, ltab := (w.putVs own wide r v lb ls).ltab, coarsen := (w.putVs own wide r v lb ls).coarsen } := by
  induction ls generalizing w with
  | nil => rfl
  | cons l t ih =>
    simp only [Warp.putVs]
    rw [ih]
    simp only
    rw [Warp.putV_rest]

theorem Warp.putV_entries (w : Warp) (own : Label) (wide : Bool) (r l v : Nat) (lb : Label) (i : Nat) (x : Label)
    (h : w.entry own i = some x) : (w.putV own wide r l v lb).entry own i = some x := by
  rw [Warp.entry_congr (Warp.putV_ltab w own wide r l v lb)]
  exact w.intern_entries own lb i x h

theorem Warp.putVs_entries (w : Warp) (own : Label) (wide : Bool) (r : Nat) (v : Nat → Nat) (lb : Nat → Label)
    (ls : List Nat) (i : Nat) (x : Label) (h : w.entry own i = some x) :
    (w.putVs own wide r v lb ls).entry own i = some x := by
  induction ls generalizing w with
  | nil => exact h
  | cons l t ih => exact ih _ (w.putV_entries own wide r l (v l) (lb l) i x h)

theorem Warp.putVs_other (w : Warp) (own : Label) (wide : Bool) (r : Nat) (v : Nat → Nat) (lb : Nat → Label)
    (ls : List Nat) (hls : ∀ l ∈ ls, l < 32) (q m : Nat) (hm : m < 32)
    (h : ¬(m ∈ ls ∧ (q = r ∨ (wide = true ∧ q = r + 1)))) :
    (w.putVs own wide r v lb ls).vregs.get VLane.zero (vkey q m) = w.vregs.get VLane.zero (vkey q m) := by
  induction ls generalizing w with
  | nil => rfl
  | cons l t ih =>
    simp only [Warp.putVs]
    rw [ih _ (fun a ha => hls a (List.mem_cons_of_mem _ ha)) fun hh => h ⟨List.mem_cons_of_mem _ hh.1, hh.2⟩,
      w.putV_get _ _ _ _ _ _ _ _ (hls l List.mem_cons_self) hm]
    by_cases hml : m = l
    · subst hml
      have h' : ¬(q = r ∨ (wide = true ∧ q = r + 1)) := fun k => h ⟨List.mem_cons_self, k⟩
      have h1 : ¬ q = r := fun k => h' (Or.inl k)
      have h2 : ¬(wide = true ∧ q = r + 1) := fun k => h' (Or.inr k)
      simp [h1, h2]
    · simp [hml]

/-- What a lane that is written holds, and what its index stands for. -/
theorem Warp.putVs_get (w : Warp) (own : Label) (wide : Bool) (r : Nat) (v : Nat → Nat) (lb : Nat → Label)
    (ls : List Nat) (hls : ∀ l ∈ ls, l < 32) (hnd : ls.Nodup) (l : Nat) (hl : l ∈ ls) :
    ∃ i : LIdx,
      (w.putVs own wide r v lb ls).vregs.get VLane.zero (vkey r l) = ⟨BitVec.ofNat 32 (v l), i⟩ ∧
      (wide = true →
        (w.putVs own wide r v lb ls).vregs.get VLane.zero (vkey (r + 1) l) = ⟨BitVec.ofNat 32 (v l / 2 ^ 32), i⟩) ∧
      ((∃ j < 16, w.entry own j = some (lb l)) →
        (w.putVs own wide r v lb ls).entry own i.toNat = some (lb l)) ∧
      (Label.dom own (lb l) = true →
        ∃ e, (w.putVs own wide r v lb ls).entry own i.toNat = some e ∧ Label.dom e (lb l) = true) := by
  induction ls generalizing w with
  | nil => simp at hl
  | cons m t ih =>
    have ht : ∀ a ∈ t, a < 32 := fun a ha => hls a (List.mem_cons_of_mem _ ha)
    have hm := hls m List.mem_cons_self
    rw [List.nodup_cons] at hnd
    by_cases hlt : l ∈ t
    · obtain ⟨i, h1, h2, h3, h4⟩ := ih (w.putV own wide r m (v m) (lb m)) ht hnd.2 hlt
      refine ⟨i, h1, h2, fun ⟨j, hj, he⟩ => h3 ⟨j, hj, Warp.putV_entries _ _ _ _ _ _ _ _ _ he⟩, h4⟩
    · have hlm : l = m := (List.mem_cons.mp hl).resolve_right hlt
      subst hlm
      have keep : ∀ q, (w.putVs own wide r v lb (l :: t)).vregs.get VLane.zero (vkey q l) =
          (w.putV own wide r l (v l) (lb l)).vregs.get VLane.zero (vkey q l) := fun q =>
        Warp.putVs_other _ own wide r v lb t ht q l hm fun h => hlt h.1
      have ent : ∀ i x, (w.intern own (lb l)).2.entry own i = some x →
          (w.putVs own wide r v lb (l :: t)).entry own i = some x := by
        intro i x h
        refine Warp.putVs_entries (w.putV own wide r l (v l) (lb l)) own wide r v lb t i x ?_
        rw [Warp.entry_congr (Warp.putV_ltab w own wide r l (v l) (lb l))]
        exact h
      refine ⟨(w.intern own (lb l)).1, ?_, fun hw => ?_, fun h => ?_, fun h => ?_⟩
      · rw [keep, w.putV_get _ _ _ _ _ _ _ _ hm hm]; simp
      · rw [keep, w.putV_get _ _ _ _ _ _ _ _ hm hm]; simp [hw]
      · exact ent _ _ (w.intern_exact own _ (Or.inl h))
      · obtain ⟨e, he, hd⟩ := w.intern_dom own _ h
        exact ⟨e, ent _ _ he, hd⟩

theorem lanesOf_lt {m : BitVec 32} {l : Nat} (h : l ∈ lanesOf m) : l < 32 :=
  List.mem_range.mp (List.mem_filter.mp h).1

theorem State.lanes_lt {s : State} {l : Nat} (h : l ∈ s.lanes) : l < 32 := lanesOf_lt (List.mem_filter.mp h).1

theorem State.lanes_nodup (s : State) : s.lanes.Nodup := (List.nodup_range.filter _).filter _

theorem BitVec.pair_value (v : Nat) :
    (BitVec.ofNat 32 v).toNat + 2 ^ 32 * (BitVec.ofNat 32 (v / 2 ^ 32)).toNat = v % 2 ^ 64 := by
  simp only [BitVec.toNat_ofNat]
  omega

/-- Lane-wise writes followed by whatever keeps the lanes and the table's entries, then a completion. -/
theorem writesLanes_of {s t : State} {pc : BitVec 57} {wide : Bool} {d : VNum} {v : Nat → Nat} {lb : Nat → Label} {ls : List Nat}
    {f : Option (BitVec 32)} {w : Warp} (hls : ∀ l ∈ ls, l < 32) (hnd : ls.Nodup) (h1 : OnlyWarp s t)
    (h2 : GoesTo s t pc) (h3 : t.warp = { w with splits := t.warp.splits })
    (hv : w.vregs = (s.warp.putVs s.owners wide d.toNat v lb ls).vregs)
    (he : ∀ i x, (s.warp.putVs s.owners wide d.toNat v lb ls).entry s.owners i = some x →
      w.entry s.owners i = some x)
    (hrest : w = { s.warp with vregs := w.vregs, poisonV := w.poisonV, ltab := w.ltab, coarsen := w.coarsen, flags := w.flags, flbl := w.flbl })
    (hf : w.flags = s.warp.flags ||| f.getD 0)
    (hl : if f.isNone then w.flbl = s.warp.flbl
      else InUse s s.warp.flbl →
        ((∃ j < 16, s.warp.entry s.owners j = some (s.label s.warp.flbl ||| joinLabels (ls.map lb))) →
          w.label s.owners w.flbl = s.label s.warp.flbl ||| joinLabels (ls.map lb)) ∧
        (Label.dom s.owners (s.label s.warp.flbl ||| joinLabels (ls.map lb)) = true →
          Label.dom (w.label s.owners w.flbl) (s.label s.warp.flbl ||| joinLabels (ls.map lb)) = true)) :
    WritesLanes s t pc wide d ls v lb f := by
  have hc : t.warp.ctx = s.warp.ctx := by rw [h3, hrest]
  have ho := State.owners_of_only h1 hc
  have hvl : ∀ r l, t.vlane r l = (s.warp.putVs s.owners wide d.toNat v lb ls).vregs.get VLane.zero (vkey r l) := by
    intro r l
    unfold State.vlane
    rw [h3, ← hv]
  have hlab : ∀ i x, (s.warp.putVs s.owners wide d.toNat v lb ls).entry s.owners i.toNat = some x →
      t.label i = x := by
    intro i x h
    rw [State.label_of_warp h3 ho]
    exact Warp.label_of_entry (he _ _ h)
  refine ⟨h1, h2, fun l hl => ?_, fun l hl r hr => ?_, fun r l hl hn => ?_, fun i x h => ?_, ?_, ?_, ?_⟩
  · obtain ⟨i, g1, g2, -, -⟩ := Warp.putVs_get s.warp s.owners wide d.toNat v lb ls hls hnd l hl
    unfold State.velt
    cases wide
    · simp only [Bool.false_eq_true, if_false]
      rw [hvl, g1]
      simp
    · simp only [if_true]
      rw [hvl, hvl, g1, g2 rfl]
      exact BitVec.pair_value (v l)
  · obtain ⟨i, g1, g2, g3, g4⟩ := Warp.putVs_get s.warp s.owners wide d.toNat v lb ls hls hnd l hl
    have hi : (t.vlane r l).lbl = i := by
      rcases hr with rfl | ⟨hw, rfl⟩
      · rw [hvl, g1]
      · rw [hvl, g2 hw]
    rw [hi]
    refine ⟨fun h => hlab _ _ (g3 h), fun h => ?_⟩
    obtain ⟨e, h5, h6⟩ := g4 h
    rw [hlab _ _ h5]
    exact h6
  · rw [hvl, Warp.putVs_other _ _ _ _ _ _ _ hls _ _ hl hn]
    rfl
  · rw [h3]
    exact he _ _ (Warp.putVs_entries _ _ _ _ _ _ _ _ _ h)
  · rw [h3]; exact hf
  · cases f with
    | none => simp only [Option.isNone_none, if_true] at hl ⊢; rw [h3]; exact hl
    | some f =>
      simp only [Option.isNone_some, Bool.false_eq_true, if_false] at hl ⊢
      intro hu
      have hfl : t.label t.warp.flbl = w.label s.owners w.flbl := by
        have : t.warp.flbl = w.flbl := by rw [h3]
        rw [this]
        exact State.label_of_warp h3 ho _
      unfold Stands
      rw [hfl]
      exact hl hu
  · rw [h3]
    simp only
    rw [hrest]

/-- Lane-wise writes, then a completion: the effect of R132 without flags. -/
theorem writesLanes_fold (s : State) (p wide : Bool) (d : VNum) (v : Nat → Nat) (lb : Nat → Label) (ls : List Nat)
    (hls : ∀ l ∈ ls, l < 32) (hnd : ls.Nodup) :
    WritesLanes s ((ls.foldl (fun s l => s.setV wide d.toNat l (v l) (lb l)) s).advance p) (s.nextPc p) wide d ls v lb none := by
  cases ls with
  | nil =>
    have g := advance_goes s p
    refine writesLanes_of (w := s.warp) hls hnd g.only g.next g.rest rfl (fun _ _ h => h) rfl (by simp) ?_
    simp
  | cons l t =>
    rw [s.setWarp_fold]
    have hp := Warp.putVs_rest s.warp s.owners wide d.toNat v lb (l :: t)
    obtain ⟨h1, h2, h3⟩ := advance_setWarp (s := s) (w := s.warp.putVs s.owners wide d.toNat v lb (l :: t)) (p := p)
      (by rw [hp])
    refine writesLanes_of hls hnd h1 h2 h3 rfl (fun _ _ h => h) ?_ (by rw [hp]; simp) ?_
    · rw [hp]
    · simp only [Option.isNone_none, if_true]
      rw [hp]

/-- The same with flags set afterwards (R133). -/
theorem writesLanes_flags (s : State) (p wide : Bool) (d : VNum) (v : Nat → Nat) (lb : Nat → Label) (ls : List Nat)
    (f : BitVec 32) (hls : ∀ l ∈ ls, l < 32) (hnd : ls.Nodup) :
    WritesLanes s (((ls.foldl (fun s l => s.setV wide d.toNat l (v l) (lb l)) s).setFlags f
      (joinLabels (ls.map lb))).advance p) (s.nextPc p) wide d ls v lb (some f) := by
  have hw : (ls.foldl (fun s l => s.setV wide d.toNat l (v l) (lb l)) s).setFlags f (joinLabels (ls.map lb)) =
      s.setWarp ((s.warp.putVs s.owners wide d.toNat v lb ls).putFlags s.owners f (joinLabels (ls.map lb))) := by
    cases ls with
    | nil => exact s.setFlags_warp f _
    | cons l t =>
      rw [s.setWarp_fold, State.setFlags_warp, State.warp_setWarp, State.setWarp_setWarp, State.owners_setWarp]
      rw [Warp.putVs_rest]
  rw [hw]
  have hp := Warp.putVs_rest s.warp s.owners wide d.toNat v lb ls
  have he := Warp.putVs_entries s.warp s.owners wide d.toNat v lb ls
  generalize hg : s.warp.putVs s.owners wide d.toNat v lb ls = w1 at *
  have hq := Warp.putFlags_rest w1 s.owners f (joinLabels (ls.map lb))
  obtain ⟨h1, h2, h3⟩ := advance_setWarp (s := s) (w := w1.putFlags s.owners f (joinLabels (ls.map lb))) (p := p)
    (by rw [hq, hp])
  refine writesLanes_of hls hnd h1 h2 h3 (by rw [hq, hg]) (fun i x h => ?_) ?_ (by rw [hq, hp]; simp) ?_
  · rw [hg] at h
    exact Warp.putFlags_entries _ _ _ _ _ _ h
  · rw [hq]
    simp only
    rw [hp]
  · simp only [Option.isNone_some, Bool.false_eq_true, if_false]
    intro hu
    obtain ⟨x, hx⟩ := Option.isSome_iff_exists.mp hu
    have hfl : w1.flbl = s.warp.flbl := by rw [hp]
    have hl : w1.label s.owners w1.flbl = s.label s.warp.flbl := by
      rw [hfl, Warp.label_of_entry (he _ _ hx)]
      exact (Warp.label_of_entry hx).symm
    have key := Warp.putFlags_flbl w1 s.owners f (joinLabels (ls.map lb))
    rw [hl] at key
    exact ⟨fun ⟨j, hj, h⟩ => key.1 ⟨j, hj, he _ _ h⟩, key.2⟩

end Sys2Proof.Machine
end

