-- ==== Sys2Proof/Laws/Reads.lean ====
section
/-! SUPPORT. What reads may return of bytes that nothing has written. -/

namespace Sys2Proof.Machine

/-- Of a byte without a history every read returns what memory holds. -/
theorem Hist.byteOf_unwritten {h : Hist} {x : Nat} (hx : h.byte x = none) (cur : Byte) (w : Option Nat) :
    h.byteOf x cur w = cur := by simp [Hist.byteOf, hx]

/-- Its value set is that one value (10 R183). -/
theorem Hist.values_unwritten {h : Hist} {x : Nat} (hx : h.byte x = none) (cur : Byte) (seen : List Nat) :
    h.values x cur seen = [(none, cur)] := by simp [Hist.values, hx]

/-- A load of any width is one access there (10 R175). -/
theorem Hist.wide_unwritten {h : Hist} {x : Nat} (hx : h.byte x = none) (n : Nat) : h.wide x n = true := by
  simp [Hist.wide, hx]

end Sys2Proof.Machine
end

