-- ==== Sys2Proof/Laws/Stack.lean ====
section
/-! SUPPORT. What the operations on the reconvergence stack and on the warp's private area can do. -/

namespace Sys2Proof.Machine

/-- Popping removes the newest entry equal to `e`, in the core or spilled. -/
theorem Warp.popEntry_entries (w : Warp) (e : Entry) : (w.popEntry e).entries = w.entries.erase e := by
  unfold Warp.popEntry Warp.entries
  by_cases h : e ∈ w.stack <;> simp [h, List.erase_append]

/-- Swapping replaces the newest entry equal to `e`, in the core or spilled. -/
theorem Warp.swapEntry_entries (w : Warp) (e f : Entry) : (w.swapEntry e f).entries = w.entries.replace e f := by
  unfold Warp.swapEntry Warp.entries
  by_cases h : e ∈ w.stack <;> simp [h, List.replace_append]

/-- With no pick left and no page declined, every page of the area is mapped. -/
theorem State.areaMeets_calm {s : State} (hc : s.choices = []) (hd : s.split.declined = []) (kind n : Nat) :
    s.areaMeets kind n = (.ok n s.owners, s) := by
  simp [State.areaMeets, State.pick, hc, hd]

/-- With no pick left, no page declined and no poison in the area, a spill or refill completes and changes nothing. -/
theorem State.stackAccess_calm {s : State} (hc : s.choices = []) (hd : s.split.declined = [])
    (hp : ∀ a, s.warp.privPoison.get false a = false) (kind i : Nat) : s.stackAccess kind i = .ok s := by
  simp [State.stackAccess, State.areaMeets_calm hc hd, hp]

/-- A refill that meets poison halts the warp (16 R273). -/
theorem State.stackAccess_poison {s : State} (hc : s.choices = []) (hd : s.split.declined = []) {i : Nat}
    (hp : s.warp.privPoison.get false ((32 * s.ctx.privBytes + 32 * i) / 64) = true) :
    s.stackAccess 0 i = .error (.halt .poison) := by
  simp [State.stackAccess, State.areaMeets_calm hc hd, hp]

/-- A pick changes the picks that are left, and nothing else. -/
theorem State.pick_snd (s : State) (n : Nat) : (s.pick n).2 = { s with choices := (s.pick n).2.choices } := by
  unfold State.pick
  split
  · rfl
  · split <;> rfl

/-- An access to the area takes a pick at most. -/
theorem State.areaMeets_snd (s : State) (kind n : Nat) :
    (s.areaMeets kind n).2 = { s with choices := (s.areaMeets kind n).2.choices } := by
  have h := s.pick_snd 5
  unfold State.areaMeets
  split
  · rfl
  · dsimp only
    split <;> exact h

/-- A spill or refill that completes takes a pick at most. -/
theorem State.stackAccess_ok {s r : State} {kind i : Nat} (h : s.stackAccess kind i = .ok r) :
    r = { s with choices := r.choices } := by
  have hm := s.areaMeets_snd kind ((32 * s.ctx.privBytes + 32 * i) / 2 ^ 16)
  unfold State.stackAccess at h
  dsimp only at h
  split at h
  · split at h <;> cases h
    exact hm
  all_goals cases h

/-- With no pick left, no page declined and no poison in the area, every entry is within reach. -/
theorem State.reach_calm {s : State} (hc : s.choices = []) (hd : s.split.declined = [])
    (hp : ∀ a, s.warp.privPoison.get false a = false) (e : Entry) : s.reach e = .ok s := by
  unfold State.reach
  simp only [State.stackAccess_calm hc hd hp]
  split
  · rfl
  · split <;> rfl

/-- An entry in the core is within reach. -/
theorem State.reach_core {s : State} {e : Entry} (h : e ∈ s.warp.stack) : s.reach e = .ok s := by
  simp [State.reach, h]

/-- An entry that is spilled and not in the core takes a refill. -/
theorem State.reach_spilled {s : State} {e : Entry} (hn : e ∉ s.warp.stack) (hs : e ∈ s.warp.spill) :
    ∃ i, s.reach e = s.stackAccess 0 i := by
  unfold State.reach
  simp only [List.contains_iff_mem, hn, if_false]
  cases hf : s.warp.spill.findIdx? (· == e) with
  | none => rw [List.findIdx?_eq_none_iff] at hf; have := hf e hs; simp at this
  | some i => exact ⟨_, rfl⟩

/-- A spill or refill that meets a page without a leaf faults on a page of the address space. -/
theorem State.stackAccess_fault {s : State} {kind i pick : Nat} {left : List Nat} (hd : s.split.declined = [])
    (hc : s.choices = pick :: left) (h : pick % 5 = 1) :
    ∃ p, p ≠ waitPage ∧ s.stackAccess kind i = .error (.after left (.refill p kind)) := by
  refine ⟨s.areaPage ((32 * s.ctx.privBytes + 32 * i) / 2 ^ 16), ?_, ?_⟩
  · unfold State.areaPage waitPage
    have := Nat.mod_lt (Config.areaPage s.warp.uid + (32 * s.ctx.privBytes + 32 * i) / 2 ^ 16) (show 0 < 2 ^ 41 by decide)
    omega
  · simp [State.stackAccess, State.areaMeets, State.pick, hd, hc, h]

/-- A spill or refill on another context's page is refused. -/
theorem State.stackAccess_refused {s : State} {kind i pick : Nat} {left : List Nat} (hd : s.split.declined = [])
    (hc : s.choices = pick :: left) (h : pick % 5 = 2) :
    s.stackAccess kind i = .error (.after left (.refusedStack 0)) := by
  simp [State.stackAccess, State.areaMeets, State.pick, hd, hc, h]

/-- A push that completes puts its entry before the others. -/
theorem State.push_entries {s r : State} {e : Entry} (h : s.push e = .ok r) : r.warp.entries = e :: s.warp.entries := by
  unfold State.push at h
  simp only at h
  split at h
  · cases h; simp [State.warp, State.warpAt, State.setWarp, State.setWarpAt, Warp.entries]
  · split at h
    · simp at h
    · cases ha : s.stackAccess 1 s.warp.spill.length with
      | error x => simp [ha, bind, Except.bind] at h
      | ok q =>
        have hq := State.stackAccess_ok ha
        simp [ha, bind, Except.bind, pure, Except.pure] at h
        rw [← h]
        simp [State.warp, State.warpAt, State.setWarp, State.setWarpAt, Warp.entries, ← List.append_assoc,
          List.take_append_drop]

/-- With no pick left and no page declined, an access to pages of the area meets each mapped and changes nothing. -/
theorem State.areaAll_calm {s : State} (hc : s.choices = []) (hd : s.split.declined = []) (kind : Nat) (ns : List Nat) :
    s.areaAll kind ns = (ns.map fun n => (n, .ok n s.owners), s) := by
  induction ns with
  | nil => rfl
  | cons n t ih => simp [State.areaAll, State.areaMeets_calm hc hd, ih]

end Sys2Proof.Machine
end

