-- ==== Sys2Proof/Laws/Vector.lean ====
section
/-! SUPPORT. What the lane-wise effect of 07 R132 and R133 does. -/

namespace Sys2Proof.Machine

/-- The flags that the lanes' results set. -/
def laneFlags (v : Nat → Res) (ls : List Nat) (f : FlagBits) : FlagBits := ls.foldl (fun f l => f ||| (v l).2) f

theorem putLanes_eq (t : ETy) (d : VNum) (v : Nat → Res) (lb : Nat → Label) (ls : List Nat) (s : State)
    (f : FlagBits) (a : Label) :
    putLanes t d v lb ls s f a =
      (ls.foldl (fun s l => s.setV t.wide d.toNat l (laneForm t (v l).1) (lb l)) s, laneFlags v ls f,
        (ls.map lb).foldl (· ||| ·) a) := by
  induction ls generalizing s f a with
  | nil => rfl
  | cons l r ih =>
    simp only [putLanes, ih, List.foldl_cons, List.map_cons, laneFlags]

/-- The effect of R132: each participating lane holds its value under its label; FLAGS and FLBL follow where the
instruction names flags (R133). -/
theorem writesLanes_vecEffect (p : Bool) (t : ETy) (d : VNum) (named : Bool) (v : Nat → Res) (lb : Nat → Label)
    (s : State) :
    WritesLanes s (vecEffect p t d named v lb s) (s.nextPc p) t.wide d s.lanes (fun l => laneForm t (v l).1)
      (fun l => s.pcl ||| s.guardLbl ||| lb l) (if named then some (laneFlags v s.lanes 0#32) else none) := by
  unfold vecEffect
  simp only [putLanes_eq]
  cases named
  · exact writesLanes_fold s p t.wide d _ _ s.lanes (fun _ h => State.lanes_lt h) s.lanes_nodup
  · exact writesLanes_flags s p t.wide d _ _ s.lanes _ (fun _ h => State.lanes_lt h) s.lanes_nodup

end Sys2Proof.Machine
end

