-- ==== Sys2Proof/Tests/Slice0.lean ====
section
/-! SUPPORT. Tests: words written bit by bit from the spec's encoding tables, an ill-formed term for each check of
`Instr.illFormed`, single steps with results taken by hand from the spec, and for each statement a state and operands
that meet the hypotheses of its clauses. -/

set_option Elab.async false

namespace Sys2Proof.Tests

open Machine

/-! ## Decoding (03 R33, R34, R46 to R58) -/

/-- Each word decodes to its instruction. -/
def reads (xs : List (BitVec 32 × Instr)) : Bool := xs.all fun x =>
  match decode x.1 with
  | .ok i => i == x.2
  | .error _ => false

theorem test_control_words : reads [
    (0b0_00000001_100001_00000000000000101#32, .braZ false 33 5),
    (0b1_00000010_100001_11111111111111111#32, .braNz true 33 0x1FFFF),
    (0b0_00000011_001001_10001000101110000#32, .brd false 9 70000),
    (0b0_00000100_111110_00000000000000001#32, .call false 62 1),
    (0b0_00000101_000000_010001_000000_00000#32, .jmpi false 17),
    (0b0_00000101_000000_010001_000000_00001#32, .ret false 17),
    (0b0_00000110_0000011_0000000000010010#32, .sread false 3 0x012),
    (0b0_00000110_0000011_1000000000010000#32, .sreadClr false 3 0x010),
    (0b0_00000111_0000011_0000000000000101#32, .swid false 3 5),
    (0b0_00001000_1100100_0000000000000000#32, .vwid false 100 0),
    (0b0_00001001_0000000_1000100_101010_000#32, .spawn false 68 42),
    (0b0_00001010_0000000_1010101111001101#32, .trap false 0xABCD),
    (0b0_00001011_0000011_0000000000001001#32, .bar false 3 9),
    (0b0_00001100_0000011_0000000000001110#32, .barg false 3 14),
    (0b0_00001111_0000000_0000000000000000#32, .nop false),
    (0b0_00001111_0000001_0000000000000000#32, .join false),
    (0b0_00001111_0000010_0000000000000000#32, .exit),
    (0b1_00001111_0000011_0000000000000000#32, .yield true)] = true := by decide +kernel

theorem test_scalar_words : reads [
    (0b0_00010000_000011_010001_101010_00000#32, .sadd false 3 17 42),
    (0b0_00010001_000011_010001_101010_00000#32, .ssub false 3 17 42),
    (0b0_00010010_000011_010001_101010_00000#32, .smul false 3 17 42),
    (0b0_00010011_000011_010001_101010_00000#32, .smulh false 3 17 42),
    (0b0_00010100_000011_010001_101010_00000#32, .sdiv false 3 17 42),
    (0b0_00010101_000011_010001_101010_00000#32, .srem false 3 17 42),
    (0b0_00010110_000011_010001_101010_00000#32, .sand false 3 17 42),
    (0b0_00010111_000011_010001_101010_00000#32, .sor false 3 17 42),
    (0b0_00011000_000011_010001_101010_00000#32, .sxor false 3 17 42),
    (0b0_00011001_000011_010001_101010_00000#32, .sshl false 3 17 42),
    (0b0_00011010_000011_010001_101010_00000#32, .sshr false 3 17 42),
    (0b0_00011011_000011_010001_101010_00000#32, .ssra false 3 17 42),
    (0b0_00011100_000011_010001_101010_00000#32, .srot false 3 17 42),
    (0b0_00011101_000011_010001_101010_00000#32, .smin false 3 17 42),
    (0b0_00011110_000011_010001_101010_00000#32, .smax false 3 17 42),
    (0b0_00011111_000011_010001_101010_00100#32, .scmp false 3 17 42 .gt),
    (0b0_00100000_000011_010001_101010_00000#32, .ssel false 3 17 42),
    (0b0_00100001_0000011_1000000000000001#32, .smovi false 3 0x8001),
    (0b0_00100010_0000011_1000000000000001#32, .smovh false 3 0x8001),
    (0b0_00100011_0000011_1111111111111111#32, .saddi false 3 0xFFFF),
    (0b0_00100100_000011_010001_000000_00000#32, .spopc false 3 17),
    (0b0_00100101_000011_010001_000000_00000#32, .sclz false 3 17),
    (0b0_00100110_000011_010001_000000_00000#32, .sctz false 3 17),
    (0b0_00100111_000011_010001_000000_00000#32, .sbrev false 3 17),
    (0b0_00101000_000011_010001_101010_00000#32, .sbfx false 3 17 42),
    (0b0_00101001_000011_010001_101010_00000#32, .sbfi false 3 17 42),
    (0b0_00101010_000011_010001_101010_00101#32, .sld false 3 17 42 .i16),
    (0b0_00101011_000011_010001_101010_00010#32, .sst false 3 17 42 .b32),
    (0b0_00101100_0000011_0000000000000111#32, .sldc false 3 7)] = true := by decide +kernel

theorem test_label_words : reads [
    (0b0_00110000_000000_010001_000000_00000#32, .mode false 17),
    (0b0_00110001_0000000_0000000010100011#32, .modei false 0x00A3),
    (0b0_00110010_000011_010001_000000_00000#32, .lget false 3 17),
    (0b0_00110011_1100100_1000010_0000000_00#32, .lgetV false 100 66),
    (0b0_00110100_000011_010001_101010_00000#32, .ljoin false 3 17 42),
    (0b0_00110101_1100100_1000010_101010_000#32, .ljoinV false 100 66 42),
    (0b0_00110110_000011_010001_101010_00000#32, .lchk false 3 17 42),
    (0b0_00110111_0000000_0000000000000000#32, .ltcompact false),
    (0b0_00111000_1100100_1000010_101010_000#32, .dcls false 100 66 42),
    (0b0_00111001_000011_010001_101010_00000#32, .dclsS false 3 17 42)] = true := by decide +kernel

theorem test_vector_words : reads [
    (0b0_01000000_1100100_1000010_0001001_00#32, .vadd false 100 66 9),
    (0b0_01000001_1100100_1000010_0001001_00#32, .vsub false 100 66 9),
    (0b0_01000010_1100100_1000010_0001001_00#32, .vmul false 100 66 9),
    (0b0_01000011_1100100_1000010_0001001_00#32, .vmulh false 100 66 9),
    (0b0_01000100_1100100_1000010_0001001_00#32, .vmad false 100 66 9),
    (0b0_01000101_1100100_1000010_0001001_00#32, .vfma false 100 66 9),
    (0b0_01000110_1100100_1000010_0001001_00#32, .vmin false 100 66 9),
    (0b0_01000111_1100100_1000010_0001001_00#32, .vmax false 100 66 9),
    (0b0_01001000_1100100_1000010_0000000_00#32, .vabs false 100 66),
    (0b0_01001001_1100100_1000010_0000000_00#32, .vneg false 100 66),
    (0b0_01001010_1100100_1000010_0001001_00#32, .vdiv false 100 66 9),
    (0b0_01001011_1100100_1000010_0000000_00#32, .vsqrt false 100 66),
    (0b0_01001100_1100100_1000010_0000000_00#32, .vrcp false 100 66),
    (0b0_01001101_1100100_1000010_0000000_00#32, .vrsq false 100 66),
    (0b0_01001110_1100100_1000010_0000000_00#32, .vexp2 false 100 66),
    (0b0_01001111_1100100_1000010_0000000_00#32, .vlog2 false 100 66),
    (0b0_01010000_1100100_1000010_0000000_00#32, .vsin false 100 66),
    (0b0_01010001_1100100_1000010_0000000_00#32, .vcos false 100 66),
    (0b0_01010010_1100100_1000010_0001010_00#32, .vcvt false 100 66 .f32),
    (0b0_01010011_1100100_1000010_0001001_00#32, .vand false 100 66 9),
    (0b0_01010100_1100100_1000010_0001001_00#32, .vor false 100 66 9),
    (0b0_01010101_1100100_1000010_0001001_00#32, .vxor false 100 66 9),
    (0b0_01010110_1100100_1000010_0000000_00#32, .vnot false 100 66),
    (0b0_01010111_1100100_1000010_0001001_00#32, .vshl false 100 66 9),
    (0b0_01011000_1100100_1000010_0001001_00#32, .vshr false 100 66 9),
    (0b0_01011001_1100100_1000010_0001001_00#32, .vsra false 100 66 9),
    (0b0_01011010_1100100_1000010_0001001_00#32, .vbfx false 100 66 9),
    (0b0_01011011_1100100_1000010_0001001_00#32, .vbfi false 100 66 9),
    (0b0_01011100_1100100_1000010_0000000_00#32, .vpopc false 100 66),
    (0b0_01011101_1100100_1000010_0000000_00#32, .vclz false 100 66),
    (0b0_01011110_1100100_1000010_0000000_00#32, .vbrev false 100 66),
    (0b0_01011111_1_000011_1000010_0001001_11#32, .vcmp false 3 66 9 .ord),
    (0b0_01100000_1100100_1000010_101010_000#32, .vsel false 100 66 42),
    (0b0_01100001_1100100_1000010_0000000_00#32, .vmov false 100 66),
    (0b0_01100010_1100100_0000000_101010_000#32, .vmovs false 100 42),
    (0b0_01100011_1100100_0111111111111111#32, .vmovi false 100 0x7FFF)] = true := by decide +kernel

theorem test_modular_words : reads [
    (0b0_01101000_1100100_1000010_101010_000#32, .vqadd false 100 66 42),
    (0b0_01101001_1100100_1000010_101010_000#32, .vqsub false 100 66 42),
    (0b0_01101010_1100100_1000010_101010_000#32, .vqmul false 100 66 42),
    (0b0_01101011_1100100_1000010_101010_000#32, .vqbfly false 100 66 42),
    (0b0_01101100_1100100_1000010_101010_000#32, .vqbflyi false 100 66 42)] = true := by decide +kernel

theorem test_cross_lane_words : reads [
    (0b0_01110000_1100100_1000010_0001001_11#32, .vshfl false 100 66 9 .down),
    (0b0_01110001_1100100_1000010_101010_001#32, .vshflS false 100 66 42 .xor),
    (0b0_01110010_0000011_1000010_0000000_00#32, .vballot false 3 66),
    (0b0_01110011_0000011_1000010_0000101_00#32, .vred false 3 66 .xor),
    (0b0_01110100_1100100_1000010_0000001_01#32, .vscan false 100 66 .min true),
    (0b0_01110101_1100100_1000010_101010_000#32, .vbcast false 100 66 42),
    (0b0_01110110_1100100_1000010_101010_000#32, .vbxch false 100 66 42),
    (0b0_01110111_1100100_1000010_0000000_00#32, .vmatch false 100 66)] = true := by decide +kernel

theorem test_memory_words : reads [
    (0b0_10000000_1100100_000011_1000010_100#32, .vld false 100 3 66 .i8),
    (0b0_10000001_1100100_000011_1000010_001#32, .vst false 100 3 66 .b16),
    (0b0_10000010_1100100_000011_1000010_000#32, .vldAcqB32 false 100 3 66 .warp),
    (0b0_10000011_1100100_000011_1000010_001#32, .vldAcqB64 false 100 3 66 .block),
    (0b0_10000100_1100100_000011_1000010_010#32, .vstRelB32 false 100 3 66 .gang),
    (0b0_10000101_1100100_000011_1000010_011#32, .vstRelB64 false 100 3 66 .die),
    (0b0_10000110_1100100_000011_1000010_100#32, .vldScB32 false 100 3 66 .dev),
    (0b0_10000111_1100100_000011_1000010_101#32, .vldScB64 false 100 3 66 .sys),
    (0b0_10001000_1100100_000011_1000010_000#32, .vstScB32 false 100 3 66 .warp),
    (0b0_10001001_1100100_000011_1000010_101#32, .vstScB64 false 100 3 66 .sys),
    (0b0_10001010_1100100_000011_1000010_011#32, .vlds false 100 3 66 .b64),
    (0b0_10001011_1100100_000011_1000010_000#32, .vsts false 100 3 66 .b8),
    (0b0_10001100_1100100_000011_1000010_000#32, .vldp false 100 3 66 .n8),
    (0b0_10001101_1100100_000011_1000010_011#32, .vstp false 100 3 66 .b64),
    (0b0_10001110_000000_010001_101010_00010#32, .sprf false 17 42 .llc),
    (0b0_10001111_0000010_0000000000000101#32, .fence false .rel .sys),
    (0b0_10010000_000011_010001_101010_00001#32, .mwait false 3 17 42 .ne),
    (0b0_10010001_000000_010001_101010_00010#32, .rhint false 17 42 .stream)] = true := by decide +kernel

theorem test_atomic_words : reads [
    (0b0_10100000_1100100_000011_1000010_111#32, .vatomB32 false 100 3 66 .cas),
    (0b0_10100001_1100100_000011_1000010_110#32, .vatomB64 false 100 3 66 .exch),
    (0b0_10100010_1100100_000011_1000010_000#32, .vratomB32 false 100 3 66 .add),
    (0b0_10100011_1100100_000011_1000010_101#32, .vratomB64 false 100 3 66 .xor),
    (0b0_10100100_000011_010001_101010_01001#32, .satom false 3 17 42 true .min),
    (0b0_10100101_000000_010001_101010_00000#32, .boinit false 17 42),
    (0b0_10100110_000011_010001_101010_00000#32, .boarr false 3 17 42),
    (0b0_10100111_000011_010001_101010_00000#32, .bowait false 3 17 42),
    (0b0_10101000_000000_010001_101010_00000#32, .boexp false 17 42)] = true := by decide +kernel

theorem test_copy_words : reads [
    (0b0_10110000_1100100_1000010_0000000_10#32, .vcpy false 100 66 .b128),
    (0b0_10110001_000011_000000_000000_00000#32, .cbatch false 3),
    (0b0_10110010_000000_010001_000000_00000#32, .cwait false 17),
    (0b0_10110011_000000_010001_000000_00000#32, .kick false 17),
    (0b0_10110100_000000_010001_101010_00000#32, .rput false 17 42),
    (0b0_10110101_000000_010001_101010_00000#32, .rget false 17 42)] = true := by decide +kernel

theorem test_matrix_words : reads [
    (0b0_11000000_000000_010001_101010_00011#32, .mldb false 17 42 3),
    (0b0_11000001_0000010_0000000000000000#32, .mfree false 2),
    (0b0_11000010_000000_010001_000000_00000#32, .munf false 17),
    (0b0_11000011_0000000_1000010_0000000_00#32, .mmq false 66),
    (0b0_11000100_000000_010001_101010_00000#32, .mscaleA false 17 42),
    (0b0_11000100_000000_010001_101010_00001#32, .mscaleB false 17 42),
    (0b0_11000101_000011_000000_000000_00001#32, .mstat false 3 true),
    (0b0_11000110_000011_000000_000000_00000#32, .mchk false 3 false)] = true := by decide +kernel

theorem test_fabric_words : reads [
    (0b0_11100000_000011_010001_101010_00000#32, .fopen false 3 17 42),
    (0b0_11100001_000000_010001_000000_00000#32, .fclose false 17),
    (0b0_11100010_000000_010001_101010_00000#32, .fsend false 17 42),
    (0b0_11100010_000000_010001_101010_00001#32, .fsendDefer false 17 42),
    (0b0_11100011_000000_010001_101010_00011#32, .fcomb false 17 42 .rescale)] = true := by decide +kernel

theorem test_privileged_words : reads [
    (0b0_11110000_0000000_0000000000000000#32, .eret),
    (0b0_11110001_000000_010001_101010_00010#32, .tlbinv false 17 42 .dev),
    (0b0_11110010_000000_010001_101010_00001#32, .cinv false 17 42 .l2),
    (0b0_11110011_000000_010001_101010_00000#32, .kzero false 17 42),
    (0b0_11110100_000011_010001_000000_00000#32, .kstat false 3 17),
    (0b0_11110101_000011_010001_000000_00000#32, .scrub false 3 17),
    (0b0_11110110_000011_010001_101010_00000#32, .cassign false 3 17 42)] = true := by decide +kernel
/-! ## Well-formedness: a term that each check refuses -/

theorem test_ill_formed : ([
    (.sread false 3 0x00B#12, .sreadNumber), (.sreadClr false 3 0x003#12, .sreadClear), (.swid false 3 0#16, .widField),
    (.swid false 3 6#16, .widField), (.vwid false 3 6#16, .widField), (.spawn false 6 3, .quadAlign),
    (.vldAcqB64 false 5 3 4 .dev, .pairAlign), (.vld false 5 3 4 .b64, .pairAlign), (.vatomB64 false 6 3 4 .cas, .quadAlign),
    (.vqadd false 4 6 0, .modulusReg), (.vqbfly false 4 6 63, .modulusReg), (.vqbfly false 6 6 5, .quadAlign),
    (.vqmul false 4 7 5, .pairAlign), (.vcvt false 4 6 .q64, .cvtType), (.vratomB32 false 4 3 4 .cas, .reducingCas),
    (.satom false 63 3 4 true .cas, .casScalar), (.vcpy false 4 7 .b32, .pairAlign)] : List (Instr × IllFormed)).all
      (fun x => x.1.illFormed = some x.2 && !x.1.wf) = true := by decide +kernel

/-- Well-formed neighbours at the ends of the ranges. -/
theorem test_well_formed : ([.sread false 3 0x015#12, .sreadClr false 3 0x010#12, .swid false 3 5#16, .vwid false 3 0#16,
    .spawn false 124 3, .vqadd false 4 6 62, .satom false 62 3 4 true .cas, .vcvt false 4 6 .f64] : List Instr).all
      Instr.wf = true := by decide +kernel

/-! ## Small states -/

/-- The machine with a warp of 32 lanes about to issue at 0x1_0000 (log 8). -/
def base : State := placeWord State.reset 0

/-- A state with a scalar register of the warp set. -/
def setR (r : SNum) (v : Word) (s : State) : State :=
  s.setWarp { s.warp with sregs := s.warp.sregs.set SReg.zero r.toNat ⟨v, (s.warp.sregs.get SReg.zero r.toNat).lbl⟩ }

/-- A state with the label of a scalar register set. -/
def setL (r : SNum) (l : LIdx) (s : State) : State :=
  s.setWarp { s.warp with sregs := s.warp.sregs.set SReg.zero r.toNat ⟨(s.warp.sregs.get SReg.zero r.toNat).val, l⟩ }

/-- A state with one lane of a vector register set. -/
def setV (r l : Nat) (v : Lane) (s : State) : State :=
  s.setWarp { s.warp with vregs := s.warp.vregs.set VLane.zero (vkey r l) ⟨v, 0⟩ }

/-- A state whose split is changed. -/
def onSplit (f : Split → Split) (s : State) : State := s.setWarp (s.warp.setSplit s.curSplit (f s.split))

/-- A state with a MODE. -/
def inMode (m : BitVec 32) (s : State) : State := onSplit (fun x => { x with mode := m }) s

/-- A state with an execute mask. -/
def inLanes (m : BitVec 32) (s : State) : State := onSplit (fun x => { x with exec := m }) s

/-- A state whose warp is changed. -/
def onWarp (f : Warp → Warp) (s : State) : State := s.setWarp (f s.warp)

/-- A state whose context is changed. -/
def onCtx (f : Ctx → Ctx) (s : State) : State := s.setCtxAt 0 (f (s.ctxAt 0))

/-- The checks at issue as one test. -/
def ready (s : State) (i : Instr) : Bool :=
  s.operandsOk i && (s.maskCheck i).isNone && s.privOk i && !s.scoreboarded i && !s.readsPoison i

/-- What the test says. -/
theorem ready_of {s : State} {i : Instr} (h : ready s i = true) : s.Ready i := by
  simp only [ready, Bool.and_eq_true, Option.isNone_iff_eq_none, Bool.not_eq_true'] at h
  exact ⟨h.1.1.1.1, h.1.1.1.2, h.1.1.2, h.1.2, h.2⟩

/-- All of several instructions pass their checks at issue. -/
theorem all_ready {s : State} {is : List Instr} (h : is.all (ready s) = true) : ∀ i ∈ is, s.Ready i :=
  fun i hi => ready_of (List.all_eq_true.mp h i hi)

/-- There is room on the stack in the core, as a number. -/
theorem room_of {s : State} {l : Label} {n : Nat}
    (h : s.warp.stack.length + (n + (if Label.dom s.pcl l then 0 else 1)) ≤ 16) : StackRoom s l n := .inl h

/-- An effect that is a state. -/
theorem ok_of {x : Eff State} (h : x.toOption.isSome = true) : ∃ t, x = .ok t := by
  cases x with
  | ok t => exact ⟨t, rfl⟩
  | error e => simp [Except.toOption] at h

/-- One instruction or event answers a next state for which a test holds. -/
def gives (i : Instr) (s : State) (f : State → Bool) : Bool :=
  match exec i s with
  | .next t => f t
  | _ => false

/-- The value of a scalar register after one instruction. -/
def after (i : Instr) (s : State) (r : SNum) : Option Word :=
  match exec i s with
  | .next t => some (t.sreg r)
  | _ => none

/-- The flags after one instruction. -/
def flagsAfter (i : Instr) (s : State) : Option (BitVec 32) :=
  match exec i s with
  | .next t => some t.warp.flags
  | _ => none

/-- A lane of a vector register after one instruction. -/
def laneAfter (i : Instr) (s : State) (r l : Nat) : Option Lane :=
  match exec i s with
  | .next t => some (t.vlane r l).val
  | _ => none

/-- The base state with bytes of physical memory set. -/
def inMem (a : Nat) (bs : List Byte) (s : State) : State := { s with mem := poke s.mem a bs }

/-- The base state with the flags of its leaf at 0x1_0000 changed. -/
def withLeaf (n : Nat) : State := inMem 0x50010 (leBytes 16 n) base

/-- The launch made pure. -/
def pureLaunch (s : State) : State :=
  s.setLaunchAt 1 { s.launchAt 1 with hdr := (s.launchAt 1).hdr ||| BitVec.ofNat 1024 (2 ^ 278) }

/-- A leaf at 0x1_0000 that needs no key: V, LEAF, KS 2, RD, W, X; CEIL and CLR the owner set. -/
def openLeaf : Nat := 6 * 2 ^ 16 + 0x77 + 0xFFFF * 2 ^ 96 + 0xFFFF * 2 ^ 112

/-- The base state over that leaf. -/
def plain : State := withLeaf openLeaf

/-- Page 6 held by no one, or retired. -/
def onPhys (f : Phys → Phys) (s : State) : State := { s with phys := f s.phys }

/-- The base state with an address in S1, and 0 in S2. -/
def addr (v : Word) : State := setR 1 v base

/-- The page of the data not held by the context. -/
def refusedPage (v : Word) : State := onPhys (fun p => { p with owners := p.owners.set .unowned 6 .unowned }) (addr v)

/-- Nothing is recorded as written. -/
theorem unwritten_of {s : State} {k n : Nat} (h : s.hist.bytes.entries = []) : Unwritten s k n := by
  intro i _
  rw [h]
  rfl

/-- The base state with bytes of the block's scratchpad set. -/
def inPad (off : Nat) (bs : List Byte) (s : State) : State :=
  s.setBlockAt 1 { s.block with mem := ⟨poke s.block.mem.entries off bs⟩ }

/-- Where nothing is recorded as written, a read returns what memory holds. -/
theorem picks_unwritten {s : State} {k n : Nat} {bs : List Byte} {rule : Nat → Option Nat → Prop} (h : Unwritten s k n)
    (hp : Picks s k n bs rule) : bs = s.bytesAt k n := by
  obtain ⟨hl, -, hb⟩ := hp
  apply List.ext_getElem?
  intro i
  by_cases hi : i < n
  · obtain ⟨w, hw, -⟩ := hb i hi
    rw [hw, Hist.byteOf_unwritten (h i hi)]
    simp [State.bytesAt, hi]
  · rw [List.getElem?_eq_none (by omega), List.getElem?_eq_none (by simp [State.bytesAt]; omega)]

/-- So does an engine's. -/
theorem engine_unwritten {s : State} {seen : List Nat} {k n : Nat} {bs : List Byte} (h : Unwritten s k n)
    (hr : EngineReads s seen k n bs) : bs = s.bytesAt k n := by
  obtain ⟨hl, hp⟩ := hr
  apply List.ext_getElem?
  intro i
  by_cases hi : i < n
  · have h0 : (8 * (i / 8), min 8 (n - 8 * (i / 8))) ∈ pieces n := by
      simp only [pieces, cut, List.mem_map, List.mem_range]
      exact ⟨i / 8, by omega, rfl⟩
    have hq := picks_unwritten (fun j hj => by
      rw [show k + 8 * (i / 8) + j = k + (8 * (i / 8) + j) by omega]; exact h _ (by omega)) (hp _ _ h0)
    have := congrArg (fun xs => xs[i % 8]?) hq
    simp only [List.getElem?_take, List.getElem?_drop] at this
    rw [show 8 * (i / 8) + i % 8 = i by omega, if_pos (by omega)] at this
    rw [this]
    have e : i % 8 < min 8 (n - 8 * (i / 8)) := by omega
    simp [State.bytesAt, hi, e, show k + 8 * (i / 8) + i % 8 = k + i by omega]
  · rw [List.getElem?_eq_none (by omega), List.getElem?_eq_none (by simp [State.bytesAt]; omega)]

/-- A descriptor that lies in the block's scratchpad. -/
theorem describes_of {s : State} {v : BitVec 32} {n k : Nat}
    (h : v.toNat % n = 0 ∧ (s.checkSp s.warp.block v n true).key = some k ∧ s.heldBy k = [] ∧ s.poisoned k = false ∧
      s.poisoned (k + n - 1) = false ∧ s.hist.bytes.entries = []) :
    Describes s v n (leNat (s.bytesAt k n)) (s.granLbl k ||| s.granLbl (k + n - 1)) := by
  obtain ⟨h1, h2, h3, h4, h5, h6⟩ := h
  refine ⟨h1, ?_⟩
  cases hc : s.checkSp s.warp.block v n true with
  | ok key ceil =>
    rw [hc] at h2
    cases h2
    exact ⟨k, ceil, rfl, h3, h4, h5, fun bs hr => by rw [engine_unwritten (unwritten_of h6) hr], rfl⟩
  | trap _ _ _ => rw [hc] at h2; cases h2
  | fault _ _ => rw [hc] at h2; cases h2
  | refused _ => rw [hc] at h2; cases h2

/-- An operation 9 of the block's warp. -/
def op (k : OpKind) : Op :=
  { id := 9, ctx := 0, priv := false, core := 0, block := 1, lseq := 1, wkey := 0, uid := 1, lane := 0, kind := k, hb := [],
    done := [], since := 0, owns := [], reads := [], tiles := [], waits := [], declined := [], wrote := [], bad := false }

/-- The base state with that operation in flight. -/
def inFlight (k : OpKind) (s : State) : State := { s with ops := [op k] }

/-- A command's header. -/
def hdr (cmd ctx q tag n : Nat) : BitVec 256 :=
  BitVec.ofNat 256 (2 ^ 248 + cmd * 2 ^ 240 + ctx * 2 ^ 216 + q * 2 ^ 212 + tag * 2 ^ 160 + n * 2 ^ 128)

/-- A state with an operator session 50, a runtime session 51 and a tenant session 52 of context 0. -/
def hosted (s : State) : State :=
  { s with sessions := ⟨[(50, ⟨true, .operator, 0, 0⟩), (51, ⟨true, .runtime, 0, 0⟩), (52, ⟨true, .tenant, 0, 0⟩)]⟩ }

/-- A command arrives. -/
theorem arrives_of {s : State} {ses : Nat} {h : BitVec 256} {body : List Byte} {cmd : Nat}
    (a : (s.session ses).isOpen = true ∧ s.updating (s.session ses).pav = false ∧ s.behind ses (heldFor h) = false ∧ hCmd h = cmd ∧
      hdrBad h body = false) : Arrives s ses h body cmd := ⟨a.1, a.2.1, a.2.2.1, a.2.2.2.1, a.2.2.2.2⟩

/-- A command names a context that its session serves. -/
theorem serves_of {s : State} {ses : Nat} {h : BitVec 256} {body : List Byte} {cmd : Nat}
    (a : ((s.session ses).isOpen = true ∧ s.updating (s.session ses).pav = false ∧ s.behind ses (heldFor h) = false ∧ hCmd h = cmd ∧
      hdrBad h body = false) ∧ s.serves (s.session ses) (hCtx h) = true ∧ (s.ctxAt (hCtx h)).overBudget 1 body.length = false ∧
      hQueue h ≤ fieldOf (s.ctxAt (hCtx h)).sched 44 4 ∧ s.leaving (hCtx h) = none ∧ (s.ctxAt (hCtx h)).held = false) :
    Serves s ses h body cmd := ⟨arrives_of a.1, a.2.1, a.2.2.1, a.2.2.2.1, a.2.2.2.2.1, a.2.2.2.2.2⟩

/-! ## Witnesses: encoding and the step -/

theorem witness_DecodeOfEncodeIsTheInstruction :
    (Instr.satom true 62 3 4 true .cas).isWord = true ∧ (Instr.satom true 62 3 4 true .cas).illFormed = none := by decide

theorem witness_EncodeOfDecodeIsTheWord : decode 0x04800848#32 = .ok (.spawn false 4 9) := by decide +kernel

theorem witness_StepRunsTheDecodedInstruction :
    (let s := State.reset.withFetchWord 32 0x07800000
     s.agenda = .issue 0 0 :: [] ∧ s.boot = .running ∧ canIssue { s with agenda := [] } 0 0 = true ∧
      fetch (prepare { s with agenda := [] } 0 0) = .word 0x07800000#32 ∧ decode 0x07800000#32 = .ok (.nop false)) ∧
    (let s := { State.reset with agenda := [.issue 0 0] }
     s.boot = .running ∧ canIssue { s with agenda := [] } 0 0 = false) ∧
    (let s := { onSplit (fun x => { x with pc := 0x20000 }) base with agenda := [.issue 0 0] }
     s.boot = .running ∧ canIssue { s with agenda := [] } 0 0 = true ∧
      (match fetch (prepare { s with agenda := [] } 0 0) with | .stop _ => true | _ => false) = true) ∧
    (let s := State.reset.withFetchWord 32 0x3C000000
     s.agenda = .issue 0 0 :: [] ∧ canIssue { s with agenda := [] } 0 0 = true ∧
      fetch (prepare { s with agenda := [] } 0 0) = .word 0x3C000000#32 ∧ decode 0x3C000000#32 = .error .major) ∧
    (let s := { State.reset with agenda := [.event .budgetWindow] }
     s.agenda = .event .budgetWindow :: [] ∧ s.boot = .running ∧ Instr.isWord .budgetWindow = false) ∧
    (let s := { State.reset with agenda := [.arrive ⟨1, true, false, none⟩ (.commit 1)] }
     s.agenda = .arrive ⟨1, true, false, none⟩ (.commit 1) :: [] ∧ s.boot = .running ∧
      Instr.isWord (.commit 1) = false) := by decide +kernel

/-! ## Witnesses: labels and scalar instructions -/

/-- A warp whose label table is full: L1 to L14 hold 14 single owners. -/
def fullTable (w : Warp) : Warp :=
  { w with ltab := ⟨(List.range 14).map fun i => (i + 1, some (BitVec.ofNat 16 (2 ^ i)))⟩ }

theorem witness_LookupOrInsertFollowsItsOrder :
    (∃ j < 16, Warp.blank.entry 0xFFFF#16 j = some 0xFFFF#16) ∧
    ((∀ j < 16, Warp.blank.entry 0xFFFF#16 j ≠ some 3#16) ∧ ∃ j, 1 ≤ j ∧ j ≤ 14 ∧ Warp.blank.ltab.get none j = none) ∧
    ((∀ j < 16, (fullTable Warp.blank).entry 0xFFFF#16 j ≠ some 3#16) ∧
      (∀ j < 15, 1 ≤ j → (fullTable Warp.blank).ltab.get none j ≠ none) ∧ Label.dom 0xFFFF#16 3#16 = true) :=
  ⟨by decide +kernel, ⟨by decide +kernel, 1, by decide, by decide, by decide +kernel⟩, by decide +kernel⟩

/-- Step 2, step 3 and the tie of step 3 go to the lowest index (02 R19). -/
theorem test_intern : (Warp.blank.intern 0xFFFF#16 3#16).1 = 1#4 ∧
    ((fullTable Warp.blank).intern 0xFFFF#16 3#16).1 = 15#4 ∧ ((fullTable Warp.blank).intern 0xFFFF#16 3#16).2.coarsen = 1 ∧
    ((fullTable Warp.blank).intern 0xFFFF#16 4#16).1 = 3#4 := by decide +kernel

theorem witness_DeliveryWrapsOrSaturates : (false && true) = false ∧ (true && false) = false := by decide

theorem witness_ScalarArithmeticDeliversItsRow : ∀ i ∈ [Instr.sadd false 3 1 2, .ssub false 3 1 2, .smul false 3 1 2,
    .smulh false 3 1 2, .sdiv false 3 1 2, .srem false 3 1 2, .sand false 3 1 2, .sor false 3 1 2, .sxor false 3 1 2,
    .sshl false 3 1 2, .sshr false 3 1 2, .ssra false 3 1 2, .srot false 3 1 2, .smin false 3 1 2, .smax false 3 1 2,
    .saddi false 3 0xFFFF#16], base.Ready i := all_ready (by decide +kernel)

theorem witness_ScalarBitInstructionsGiveTheirBits : ∀ i ∈ [Instr.spopc false 3 1, .sclz false 3 1, .sctz false 3 1,
    .sbrev false 3 1, .sbfx false 3 1 2, .sbfi false 3 1 2], base.Ready i := all_ready (by decide +kernel)

theorem witness_ScalarCompareSelectAndConstants : ∀ i ∈ [Instr.scmp false 3 1 2 .eq, .scmp false 3 1 2 .ge, .ssel false 3 1 2,
    .smovi false 3 0x8000#16, .smovh false 3 1#16, .sldc false 3 0#16], base.Ready i := all_ready (by decide +kernel)

/-- 04 R66 under I8 with SAT: 100 + 100 is 127 with ISAT; under N8 without SAT it is 200. -/
theorem test_sadd : let s := setR 1 100 (setR 2 100 base)
    after (.sadd false 3 1 2) (inMode 0x01#32 s) 3 = some 127 ∧ flagsAfter (.sadd false 3 1 2) (inMode 0x01#32 s) = some 1 ∧
    after (.sadd false 3 1 2) (inMode 0x40#32 s) 3 = some 200 := by decide +kernel

/-- 04 R66: the quotient of the least I64 number by -1 wraps; a division by 0 gives all ones and IDIVZ. -/
theorem test_sdiv : let s := setR 1 0x8000000000000000#64 (setR 2 (-1) base)
    after (.sdiv false 3 1 2) (inMode 0x30#32 s) 3 = some 0x8000000000000000#64 ∧
    after (.sdiv false 3 1 2) (inMode 0x31#32 s) 3 = some 0x7FFFFFFFFFFFFFFF#64 ∧
    after (.sdiv false 3 1 4) (inMode 0x30#32 s) 3 = some (-1) ∧ flagsAfter (.sdiv false 3 1 4) s = some 2 := by decide +kernel

/-- 04 R66: `srem` by 0 is the dividend, `ssra` fills from bit w - 1 even under an N type. -/
theorem test_srem_ssra : after (.srem false 3 1 4) (setR 1 7 base) 3 = some 7 ∧
    after (.ssra false 3 1 2) (inMode 0x40#32 (setR 1 0x80 (setR 2 1 base))) 3 = some 0xC0 := by decide +kernel

/-- 04 R68: a field of length 4 from bit 61, of which one bit lies above bit 63. -/
theorem test_sbfx : let s := setR 1 0xE000000000000000#64 (setR 2 (0x400 + 61) base)
    after (.sbfx false 3 1 2) s 3 = some 7 ∧ after (.sbfi false 4 1 2) (setR 1 7 s) 4 = some 0xE000000000000000#64 := by
  decide +kernel

/-- 04 R71: `smovh` shifts in 16 bits. -/
theorem test_smovh : after (.smovh false 3 0xBEEF#16) (setR 3 0xDEAD base) 3 = some 0xDEADBEEF#64 := by decide +kernel

/-- 02 R10: S0 discards what is written to it. -/
theorem test_s0 : after (.smovi false 0 5#16) base 0 = some 0 := by decide +kernel

/-! ## Witnesses: mode, labels and declassification -/

theorem witness_ModeWritesAndRaises :
    (base.Ready (.mode false 1) ∧ fieldOf (0x31#16) 4 4 ≤ 12 ∧ fieldOf (0x31#16) 1 3 ≤ 4 ∧
      StackRoom (setL 1 15 base) ((setL 1 15 base).slbl 1) 0) ∧
    ((setR 1 0xD0 base).Ready (.mode false 1) ∧ ¬fieldOf (((setR 1 0xD0 base).sreg 1).setWidth 16) 4 4 ≤ 12) ∧
    base.Ready (.modei false 0xC8#16) ∧ (base.Ready (.modei false 0xD0#16) ∧ ¬fieldOf (0xD0#16) 4 4 ≤ 12) :=
  ⟨⟨ready_of (by decide +kernel), by decide, by decide, room_of (by decide +kernel)⟩,
    ⟨ready_of (by decide +kernel), by decide +kernel⟩,
    ready_of (by decide +kernel), ready_of (by decide +kernel), by decide +kernel⟩

/-- A stack entry as `mode` pushes it on a label that the pc label does not dominate (04 R84). -/
theorem test_mode_raises : gives (.mode false 1) (setR 1 0x20 (setL 1 15 base)) (fun t =>
    t.warp.entries = [.raise 0xFFFFFFFF#32 0x30#32 0] ∧ t.split.mode = 0x20#32 ∧ t.pcl = 0xFFFF#16) = true := by
  decide +kernel

theorem witness_LabelInstructionsReadAndJoin : ∀ i ∈ [Instr.lget false 3 1, .lgetV false 4 5, .ljoin false 3 1 2,
    .ljoinV false 4 5 2, .lchk false 3 1 2], base.Ready i := all_ready (by decide +kernel)

/-- 04 R86, R87: `ljoin` ignores owners outside the owner set; `lchk` asks for every owner. -/
theorem test_ljoin_lchk : let s := onCtx (fun c => { c with owners := 3#16 }) (setR 2 0xFFFD base)
    gives (.ljoin false 3 1 2) s (fun t => t.slbl 3 = 1#16) = true ∧
    after (.lchk false 4 3 2) (setL 3 15 base) 4 = some 0 ∧ after (.lchk false 4 3 2) base 4 = some 1 := by decide +kernel

/-- One load pending: V4, lane 0. -/
def loading (s : State) : State := onWarp (fun w => { w with loads := [⟨7, 4, false, [⟨0, 0x55, 0, none⟩], none⟩] }) s

/-- A second split that waits at a barrier. -/
def besideBar (s : State) : State := onWarp (fun w => w.setSplit 1 { w.split 0 with st := .swait (.bar 3 0) }) s

theorem witness_LtcompactFreesUnreferencedEntries :
    (base.Ready (.ltcompact false) ∧ base.warp.loads = [] ∧ base.warp.liveSplits.any (fun e => e.2.willWrite) = false) ∧
    ((loading base).Ready (.ltcompact false) ∧ (loading base).warp.loads ≠ []) ∧
    ((besideBar base).Ready (.ltcompact false) ∧ (besideBar base).warp.liveSplits.any (fun e => e.2.willWrite) = true) :=
  ⟨⟨ready_of (by decide +kernel), by decide +kernel⟩, ⟨ready_of (by decide +kernel), by decide +kernel⟩,
    ready_of (by decide +kernel), by decide +kernel⟩

/-- A grant of owner 2, budget 1. -/
def granted (s : State) : State :=
  { s with tack := { s.tack with grants := [⟨0, 2, s.launch.meas, 1, s.cycle + 1⟩] } }

/-- The split waits for the Tack Room's reply to a `dcls.s` into S3 of the owners {2}, whose turn is next. -/
def asking (s : State) : State :=
  { onSplit (fun x => { x with st := .swait (.dcls 4#16 3 false [(0, 7, 0#16)] 0) }) s with agenda := [.reply 0 0] }

theorem witness_DeclassificationNeedsLiveGrants :
    (base.Ready (.dclsS false 3 1 2) ∧ base.block.audit = false ∧ ((base.sreg 2).setWidth 16 : Label) = 0) ∧
    (let s := granted (setR 2 4 base)
     s.Ready (.dclsS false 3 1 2) ∧ s.Ready (.dcls false 4 5 2) ∧ s.lanes ≠ [] ∧ (s.sreg 2).setWidth 16 ≠ (0 : Label) ∧
      s.choices.headD 0 % 2 = 0 ∧ Label.dom s.owners ((s.sreg 2).setWidth 16) = true ∧
      ∃ x ∈ s.tack.grants, x.ctx = s.warp.ctx ∧ x.slot = 2 ∧ x.meas = s.launch.meas ∧ x.budget ≠ 0 ∧ s.cycle < x.expiry) ∧
    (base.Ready (.dcls false 4 8 2) ∧ base.lanes ≠ [] ∧ base.Ready (.vmov false 4 8)) ∧
    (let s := base
     s.Ready (.dcls false 4 5 2) ∧ s.lanes ≠ [] ∧ s.operandsOk (.vmov false 4 5) = false) ∧
    ((inLanes 0 base).Ready (.dcls false 4 5 2) ∧ (inLanes 0 base).lanes = []) ∧
    (let s := onCtx (fun c => { c with owners := 3#16 }) (setR 2 4 base)
     s.Ready (.dclsS false 3 1 2) ∧ Label.dom s.owners ((s.sreg 2).setWidth 16) = false) ∧
    (let s := setR 2 4 base
     s.Ready (.dclsS false 3 1 2) ∧ s.Ready (.dcls false 4 5 2) ∧ (s.sreg 2).setWidth 16 ≠ (0 : Label) ∧
      Label.dom s.owners ((s.sreg 2).setWidth 16) = true ∧ s.tack.grants = []) ∧
    (let s := { setR 2 4 base with choices := [1] }
     s.Ready (.dclsS false 3 1 2) ∧ s.Ready (.dcls false 4 5 2) ∧ s.choices.headD 0 % 2 ≠ 0) ∧
    (let s := asking (granted base)
     (s.warpAt 0).st = .run ∧ (s.warpAt 0).liveSplits.length = 1 ∧ s.split.st = .swait (.dcls 4#16 3 false [(0, 7, 0#16)] 0) ∧
      s.split.eh = false ∧ (onCtx (fun c => { c with handler := 0x40000 }) s).ctx.handler ≠ 0) ∧
    (∃ t, (granted (setR 2 4 base)).spend 4#16 0 = .ok t) ∧ (∃ t, ({ asking (granted base) with agenda := [] } : State).spend 4#16 0 = .ok t) ∧
    (match ({ asking base with agenda := [] } : State).spend 4#16 0 with | .error _ => true | _ => false) = true :=
  ⟨⟨ready_of (by decide +kernel), by decide +kernel⟩, ⟨ready_of (by decide +kernel), ready_of (by decide +kernel),
    by decide +kernel⟩, ⟨ready_of (by decide +kernel), by decide +kernel, ready_of (by decide +kernel)⟩,
    ⟨ready_of (by decide +kernel), by decide +kernel⟩, ⟨ready_of (by decide +kernel), by decide +kernel⟩,
    ⟨ready_of (by decide +kernel), by decide +kernel⟩, ⟨ready_of (by decide +kernel), ready_of (by decide +kernel), by decide +kernel⟩,
    ⟨ready_of (by decide +kernel), ready_of (by decide +kernel), by decide +kernel⟩, by decide +kernel,
    ok_of (by decide +kernel), ok_of (by decide +kernel), by decide +kernel⟩

/-- 04 R89: a grant's budget is spent, and a second `dcls.s` traps LBL_DCLS. -/
theorem test_dcls : gives (.dclsS false 3 1 2) (granted (setR 2 4 (setL 1 15 base))) (fun t =>
    t.slbl 3 = 0xFFFB#16 ∧ t.tack.grants.map Grant.budget = [0] ∧ t.split.pc = 0x10004) = true := by decide +kernel

/-! ## Witnesses: control -/

theorem witness_BranchesCallsAndJumpsSetThePc :
    (∀ i ∈ [Instr.braZ false 1 0x1FFFF, .braNz false 1 5, .call false 1 5, .jmpi false 1, .ret false 1], base.Ready i) ∧
    StackRoom base (base.slbl 1) 0 ∧ ((base.sreg 1).toNat % 4 = 0 ∧ (base.sreg 1).toNat < 2 ^ 57) ∧
    ((setR 1 2 base).Ready (.jmpi false 1) ∧ ((setR 1 2 base).sreg 1).toNat % 4 ≠ 0) ∧
    ((setR 1 (2 ^ 57) base).Ready (.ret false 1) ∧ 2 ^ 57 ≤ ((setR 1 (2 ^ 57) base).sreg 1).toNat) :=
  ⟨all_ready (by decide +kernel), room_of (by decide +kernel), by decide +kernel,
    ⟨ready_of (by decide +kernel), by decide +kernel⟩, ready_of (by decide +kernel), by decide +kernel⟩

/-- 04 R75: a branch back by one word, taken. 04 R77: `call` writes the address of the next instruction. -/
theorem test_bra_call : gives (.braZ false 1 0x1FFFF) base (fun t => t.split.pc = 0xFFFC) = true ∧
    gives (.call false 1 4) base (fun t => t.split.pc = 0x10010 && t.sreg 1 == 0x10004) = true := by decide +kernel

/-- A warp with four splits of eight lanes. -/
def fourSplits : State :=
  onWarp (fun w => (List.range 4).foldl (fun (w : Warp) i =>
    w.setSplit i { w.split 0 with exec := BitVec.ofNat 32 (255 * 256 ^ i) }) w) base

theorem witness_BrdDividesTheSplit :
    (base.Ready (.brd false 1 4) ∧ base.split.exec &&& (base.sreg 1).setWidth 32 = 0 ∧ StackRoom base (base.slbl 1) 0) ∧
    (let s := setR 1 0xF0 base
     s.Ready (.brd false 1 4) ∧ s.split.exec &&& (s.sreg 1).setWidth 32 ≠ 0 ∧ s.split.exec &&& ~~~((s.sreg 1).setWidth 32) ≠ 0 ∧
      s.split.st ≠ .gone ∧ StackRoom s (s.slbl 1) 1 ∧ (s.warp.split 1).st = .gone ∧ ∀ j < 1, (s.warp.split j).st ≠ .gone) ∧
    (let s := setR 1 0xF0 fourSplits
     s.Ready (.brd false 1 4) ∧ s.split.exec &&& (s.sreg 1).setWidth 32 ≠ 0 ∧ s.split.exec &&& ~~~((s.sreg 1).setWidth 32) ≠ 0 ∧
      ∀ i < 4, (s.warp.split i).st ≠ .gone) :=
  ⟨⟨ready_of (by decide +kernel), by decide +kernel, room_of (by decide +kernel)⟩,
    ⟨ready_of (by decide +kernel), by decide +kernel, by decide +kernel, by decide +kernel, room_of (by decide +kernel),
      by decide +kernel, by decide +kernel⟩,
    ⟨ready_of (by decide +kernel), by decide +kernel, by decide +kernel, by decide +kernel⟩⟩

/-- 05 R98: the taken lanes go to the target, the others fall through in a second split. -/
theorem test_brd : gives (.brd false 1 4) (setR 1 0xF0 base) (fun t =>
    t.split.pc = 0x10010 && t.split.exec == 0xF0#32 && (t.warp.split 1).exec == 0xFFFFFF0F#32 &&
      (t.warp.split 1).pc == 0x10004) = true := by decide +kernel

/-- The base state with one stack entry. -/
def stacked (e : Entry) : State := onWarp (fun w => { w with stack := [e] }) base

/-- The same with the entry spilled, and picks for what its page meets. -/
def spilled (e : Entry) (picks : List Nat) : State :=
  { onWarp (fun w => { w with spill := [e] }) base with choices := picks }

theorem witness_JoinRefills :
    (let e := Entry.raise 0xFFFFFFFF#32 0x31#32 1
     (spilled e [1]).Ready (.join false) ∧ (spilled e [1]).warp.top (spilled e [1]).split.exec = some e ∧
      e ∉ (spilled e [1]).warp.stack ∧ (spilled e [1]).split.declined = [] ∧ (spilled e [1]).choices = 1 :: []) ∧
    (let e := Entry.raise 0xFFFFFFFF#32 0x31#32 1
     (spilled e [2]).Ready (.join false) ∧ (spilled e [2]).warp.top (spilled e [2]).split.exec = some e ∧
      e ∉ (spilled e [2]).warp.stack ∧ (spilled e [2]).split.declined = [] ∧ (spilled e [2]).choices = 2 :: []) ∧
    (let e := Entry.raise 0xFFFFFFFF#32 0x31#32 1
     (spilled e []).Ready (.join false) ∧ (spilled e []).warp.top (spilled e []).split.exec = some e ∧
      AreaReads (spilled e [])) :=
  ⟨⟨ready_of (by decide +kernel), by decide +kernel⟩, ⟨ready_of (by decide +kernel), by decide +kernel⟩,
    ready_of (by decide +kernel), by decide +kernel, ⟨by decide +kernel, by decide +kernel⟩, fun _ => rfl⟩

/-- 05 R103: a push onto 16 entries spills the outermost; one onto 128 spilled entries halts the warp. -/
theorem test_spill : let e := Entry.raise 0xFFFFFFFF#32 0x30#32 0
    let f := Entry.raise 0xFFFFFFFF#32 0x31#32 0
    gives (.braZ false 1 1) (setL 1 15 (onWarp (fun w => { w with stack := List.replicate 15 e ++ [f] }) base))
      (fun t => t.warp.stack.length = 16 && t.warp.spill == [f]) = true ∧
    gives (.braZ false 1 1) (setL 1 15 (onWarp (fun w => { w with stack := List.replicate 16 e, spill := List.replicate 128 f }) base))
      (fun t => t.warp.st == .halt) = true := by decide +kernel

/-- A divergence at whose `join`, at 0x2_0000, the first split has arrived. -/
def lastEntry : Entry := .diverge 0xFFFFFFFF#32 0x31#32 1 (some 0x20000) none

/-- Under that entry split 1 waits, and split 0 comes with the lanes `m`. -/
def joining (m : BitVec 32) : State := onWarp (fun w =>
  { (w.setSplit 1 { w.split 0 with exec := ~~~m, st := .jwait }).setSplit 0 { w.split 0 with exec := m } with
    stack := [lastEntry] }) base

theorem witness_JoinEndsTheInnermostEntry :
    base.warp.spill = [] ∧ (∀ e, (stacked e).warp.spill = []) ∧
    (base.Ready (.join false) ∧ base.warp.top base.split.exec = none) ∧
    (let e := Entry.raise 0xFFFFFFFF#32 0x31#32 1
     (stacked e).Ready (.join false) ∧ (stacked e).warp.top (stacked e).split.exec = some e) ∧
    (let e := Entry.diverge 0xFFFFFFFF#32 0x31#32 1 none none
     let s := inLanes 0xFFFF#32 (stacked e)
     s.Ready (.join false) ∧ s.warp.top s.split.exec = some e ∧ (0xFFFFFFFF#32).getLsbD 31 = true ∧
      s.split.exec.getLsbD 31 = false ∧ ∀ x ∈ s.warp.splits.entries, x.2.st = .jwait → x.2.exec.getLsbD 31 = false) ∧
    (let s := joining 0xFFFF0000#32
     s.Ready (.join false) ∧ s.warp.top s.split.exec = some lastEntry ∧ s.warp.splits.wf Split.blank = true ∧
      s.split.st = .ready ∧
      s.warp.splits.entries.filter (fun y => y.1 ≠ s.curSplit && y.2.st == .jwait && s.warp.top y.2.exec == some lastEntry) =
        [(1, s.warp.split 1)] ∧
      (∀ l < 32, s.split.exec.getLsbD l = true ∨ (s.warp.split 1).exec.getLsbD l = true) ∧
      s.split.exec.getLsbD 0 = false ∧ (s.warp.split 1).exec.getLsbD 0 = true) ∧
    (let e := Entry.diverge 0xFFFFFFFF#32 0x31#32 1 none none
     let s := stacked e
     s.Ready (.join false) ∧ s.warp.top s.split.exec = some e ∧ 0xFFFFFFFF#32 &&& ~~~s.split.exec = 0 ∧
      ∀ x ∈ s.warp.splits.entries, x.1 ≠ s.curSplit → x.2.st ≠ .jwait) ∧
    (let e := Entry.serial 0xFFFFFFFF#32 0xFFFF0000#32 0x30000 0x31#32 1 none none false
     let s := inLanes 0xFFFF#32 (stacked e)
     s.Ready (.join false) ∧ s.warp.top s.split.exec = some e ∧ 0xFFFF0000#32 &&& 0xFFFFFFFF#32 ≠ 0) ∧
    (let e := Entry.serial 0xFFFFFFFF#32 0xFFFF0000#32 0x30000 0x31#32 1 (some 0x20000) none true
     (stacked e).Ready (.join false) ∧ (stacked e).warp.top (stacked e).split.exec = some e) ∧
    (let e := Entry.serial 0xFFFF#32 0xFFFF0000#32 0x30000 0x31#32 1 none none false
     let s := inLanes 0xFFFF#32 (stacked e)
     s.Ready (.join false) ∧ s.warp.top s.split.exec = some e ∧ 0xFFFF0000#32 &&& 0xFFFF#32 = 0) := by
  refine ⟨?_, fun _ => rfl, ⟨ready_of ?_, ?_⟩, ⟨ready_of ?_, ?_⟩, ⟨ready_of ?_, ?_⟩, ⟨ready_of ?_, ?_⟩, ⟨ready_of ?_, ?_⟩,
    ⟨ready_of ?_, ?_⟩, ⟨ready_of ?_, ?_⟩, ⟨ready_of ?_, ?_⟩⟩ <;> decide +kernel

/-- 05 R100: the last of two splits to arrive merges with the other, which holds the lowest lane and goes on. -/
theorem test_join_merge : gives (.join false) (joining 0xFFFF0000#32) (fun t =>
    (t.warp.split 1).exec == 0xFFFFFFFF#32 && (t.warp.split 1).pc == 0x20004 && (t.warp.split 1).mode == 0x31#32 &&
      (t.warp.split 0).st == .gone && t.warp.entries == []) = true := by decide +kernel

/-- 05 R100: a serial entry in phase 1 sends the split down its pending path. -/
theorem test_join_serial :
    gives (.join false) (inLanes 0xFFFF#32 (stacked (.serial 0xFFFFFFFF#32 0xFFFF0000#32 0x30000 0x31#32 0 none none false)))
      (fun t => t.split.pc = 0x30000 && t.split.exec == 0xFFFF0000#32 && t.split.mode == 0x31#32 &&
        t.warp.entries == [.serial 0xFFFFFFFF#32 0xFFFF0000#32 0x30000 0x31#32 0 (some 0x10000) none true]) = true := by
  decide +kernel

/-- A second warp of the block, with one split. -/
def twoWarps : State := base.setWarpAt 1 { base.warp with uid := 2 }

theorem witness_HintsAdvanceAndExitEndsTheSplit :
    (∀ i ∈ [Instr.nop false, .yield false, .sprf false 1 2 .llc, .rhint false 1 2 .evict, .exit], base.Ready i) ∧
    (∀ i < 4, i ≠ base.curSplit → (base.warp.split i).st = .gone) ∧ base.warp.splits.wf Split.blank = true ∧
    (let s := onWarp (fun w => { w with loads := [⟨7, 4, false, [], some 0x10000⟩] }) base
     s.Ready .exit ∧ ∃ x ∈ s.warp.loads, x.poison ≠ none) ∧
    (∃ e ∈ (onSplit (fun x => { x with yielded := [(1, 0)] }) twoWarps).split.yielded, twoWarps.readyAt e.1 e.2 = true) ∧
    twoWarps.issueCycle twoWarps.cur < twoWarps.cycle + 16 :=
  ⟨all_ready (by decide +kernel), by decide +kernel, by decide +kernel, ⟨ready_of (by decide +kernel), by decide +kernel⟩,
    by decide +kernel, by decide +kernel⟩

/-- 05 R107: a split that yields does not issue while the other warp's split waits for its opportunity. -/
theorem test_yield : gives (.yield false) twoWarps (fun t =>
    t.split.yielded == [(1, 0)] && !canIssue { t with cycle := t.cycle + 1 } 0 0 && canIssue { t with cycle := t.cycle + 16 } 0 0) =
    true := by decide +kernel

/-- 05 R104: with its last split the warp ends; its lanes leave the masks. -/
theorem test_exit : gives .exit (stacked (.raise 0xFFFFFFFF#32 0x30#32 0)) (fun t => t.warp.st = .drain && t.warp.entries == []) =
    true := by decide +kernel

/-- The base state privileged, and in handler state after a trap with a cause. -/
def handling (c : BitVec 8) : State :=
  onSplit (fun x => { x with priv := true, eh := true, epc := 0x10040, ecause := c, emode := 0x31#32, elbl := 1 }) base

theorem witness_SpecialRegistersReadAndClear :
    (∀ i ∈ [Instr.sread false 3 0x000#12, .sread false 3 0x00A#12, .sread false 3 0x010#12, .sread false 3 0x015#12,
      .sreadClr false 3 0x001#12, .sreadClr false 3 0x002#12, .swid false 3 5#16, .vwid false 4 0#16], base.Ready i) ∧
    base.split.priv = false ∧ (∀ i ∈ [Instr.sread false 3 0x010#12, .sread false 3 0x015#12], (handling 1).Ready i) ∧
    ((handling 1).Ready (.sreadClr false 3 0x010#12) ∧ (handling 1).split.priv = true ∧ (handling 1).split.eh = true ∧
      (handling 1).split.ecause.toNat ≠ Cause.trapi.code) ∧
    (let s := onSplit (fun x => { x with eh := false }) (handling 1)
     s.Ready (.sreadClr false 3 0x010#12) ∧ s.split.priv = true ∧ s.split.eh = false) ∧
    ((handling (BitVec.ofNat 8 Cause.trapi.code)).Ready (.sreadClr false 3 0x010#12) ∧
      (handling (BitVec.ofNat 8 Cause.trapi.code)).split.ecause.toNat = Cause.trapi.code) :=
  ⟨all_ready (by decide +kernel), by decide +kernel, all_ready (by decide +kernel), ⟨ready_of (by decide +kernel), by decide +kernel⟩,
    ⟨ready_of (by decide +kernel), by decide +kernel⟩, ready_of (by decide +kernel), by decide +kernel⟩

/-- 04 R82: EPC moves past a 4-byte instruction. -/
theorem test_sread_clr_epc : gives (.sreadClr false 3 0x010#12) (handling 1) (fun t =>
    t.sreg 3 == 0x10040 && t.split.epc == 0x10044) = true := by decide +kernel

/-! ## Witnesses: traps -/

/-- The base state with a handler. -/
def handled : State := onCtx (fun c => { c with handler := 0x40000 }) base

theorem witness_TrapEntersTheHandler :
    (handled.split.eh = false ∧ handled.ctx.handler ≠ 0) ∧ handled.Ready (.trap false 0xFFFF#16) :=
  ⟨by decide +kernel, ready_of (by decide +kernel)⟩

theorem witness_TrapInHandlerStateHaltsTheWarp : base.ctx.handler = 0 ∧ base.block.audit = false ∧ (handling 1).split.eh = true ∧
    base.warp.ctx < 256 ∧ base.block.vcore < 1024 ∧ (base.ctx.mapOf 0x10008).1 < 2 ^ 16 := by
  decide +kernel

theorem witness_EretRestoresWhatTheTrapSaved :
    ((handling 1).Ready .eret ∧ (handling 1).split.eh = true) ∧
    (let s := onSplit (fun x => { x with eh := false }) (handling 1)
     s.Ready .eret ∧ s.split.eh = false) ∧ (base.operandsOk .eret = true ∧ base.split.priv = false) :=
  ⟨⟨ready_of (by decide +kernel), by decide +kernel⟩, ⟨ready_of (by decide +kernel), by decide +kernel⟩, by decide +kernel⟩

/-- 04 R81, 02 R28, R29: `trap` saves the address of the next instruction, and `eret` returns there. -/
theorem test_trap_eret : gives (.trap false 7#16) handled (fun t =>
    t.split.pc == 0x40000 && t.split.epc == 0x10004 && t.split.ecause == BitVec.ofNat 8 Cause.trapi.code &&
      gives .eret t (fun u => u.split.pc == 0x10004 && u.split.priv == false && u.split.mode == 0x30#32)) = true := by
  decide +kernel

theorem witness_ChecksAtIssueStandBeforeEveryWord :
    (Instr.vqadd false 4 6 1).isWord = true ∧ (inMode 0x30#32 base).operandsOk (.vqadd false 4 6 1) = false ∧
    ((Instr.tlbinv false 1 2 .core).isWord = true ∧ base.operandsOk (.tlbinv false 1 2 .core) = true ∧
      base.maskCheck (.tlbinv false 1 2 .core) = none ∧ base.privOk (.tlbinv false 1 2 .core) = false) ∧
    (let s := onSplit (fun x => { x with pc := 0x1FFFC }) base
     s.operandsOk (.nop true) = true ∧ (s.maskCheck (.nop true)).isSome = true) ∧
    ((loading base).privOk (.vmov false 4 6) = true ∧ (loading base).scoreboarded (.vmov false 4 6) = true) ∧
    (let s := onWarp (fun w => { w with poisonS := w.poisonS.set false 1 true }) base
     s.scoreboarded (.sadd false 3 1 2) = false ∧ s.readsPoison (.sadd false 3 1 2) = true) := by decide +kernel

/-! ## Witnesses: barriers -/

/-- The other warp waits at barrier 5 of the block, or of the gang. -/
def arrivedAt (gang : Bool) : State := twoWarps.setWarpAt 1 (twoWarps.warp.setSplit 0 { twoWarps.split with
  st := .swait (if gang then .barg 7 5 else .bar 7 5) })

/-- A warp at a barrier, and its block's gang. -/
def sound (s : State) : Bool :=
  s.warps.wf Warp.blank && s.warps.entries.all (fun e => e.2.splits.wf Split.blank) && (s.gangAt s.block.gang).blocks.Nodup &&
    (s.gangAt s.block.gang).blocks.contains s.warp.block && s.warp.live && s.split.st == .ready

theorem witness_BarriersWaitForEveryLiveWarp :
    (∀ i ∈ [Instr.bar false 3 15, .barg false 3 0], twoWarps.Ready i) ∧ twoWarps.block.abandoned = false ∧ sound twoWarps = true ∧
    (∃ e ∈ twoWarps.warpsOf 1, ∃ x ∈ e.2.liveSplits, (e.1, x.1) ≠ (twoWarps.cur, twoWarps.curSplit) ∧
      x.2.atBar false 15 = false) ∧
    (∃ e ∈ twoWarps.gangWarps 1, ∃ x ∈ e.2.liveSplits, (e.1, x.1) ≠ (twoWarps.cur, twoWarps.curSplit) ∧
      x.2.atBar true 0 = false) ∧ twoWarps.block.gang = 1 ∧
    (∀ i ∈ [Instr.bar false 3 15, .barg false 3 0], base.Ready i) ∧ base.warpsOf 1 = [(base.cur, base.warp)] ∧
    base.gangWarps 1 = [(base.cur, base.warp)] ∧ base.warp.liveSplits = [(base.curSplit, base.split)] ∧
    sound base = true ∧ (∀ c ∈ (base.gangAt 1).blocks, (base.blockAt c).abandoned = false) ∧
    (∀ g ∈ [true, false], sound (arrivedAt g) = true ∧
      (∀ e ∈ (if g then (arrivedAt g).gangWarps 1 else (arrivedAt g).warpsOf 1), ∀ x ∈ e.2.liveSplits, (e.1, x.1) = (0, 0) ∨
        x.2.atBar g 5 = true)) ∧
    ((arrivedAt false).Ready (.bar false 3 5) ∧ (arrivedAt true).Ready (.barg false 3 5)) ∧
    (let s := base.setBlockAt 1 { base.block with abandoned := true }
     (∀ i ∈ [Instr.bar false 3 15, .barg false 3 0], s.Ready i) ∧ s.block.abandoned = true ∧ sound s = true ∧
      ∃ c ∈ (s.gangAt 1).blocks, (s.blockAt c).abandoned = true) :=
  ⟨all_ready (by decide +kernel), by decide +kernel, by decide +kernel, by decide +kernel, by decide +kernel, by decide +kernel,
    all_ready (by decide +kernel), by decide +kernel, by decide +kernel, by decide +kernel, by decide +kernel, by decide +kernel,
    by decide +kernel, ⟨ready_of (by decide +kernel), ready_of (by decide +kernel)⟩, all_ready (by decide +kernel), by decide +kernel⟩

/-- 05 R105: with the last arrival both warps go on, each with its own S[d] 0. -/
theorem test_bar_last : gives (.bar false 3 5) (setR 3 9 (arrivedAt false)) (fun t =>
    t.sreg 3 == 0 && t.split.pc == 0x10004 && ((t.warpAt 1).split 0).st == .ready && ((t.warpAt 1).split 0).pc == 0x10004) = true := by
  decide +kernel

/-- 05 R105: a warp alone in its block passes its barrier at once, with status 0. -/
theorem test_bar : gives (.bar false 3 2) (setR 3 9 base) (fun t => t.sreg 3 == 0 && t.split.pc == 0x10004) = true ∧
    gives (.bar false 3 2) twoWarps (fun t => t.split.st == .swait (.bar 3 2)) = true := by decide +kernel

/-! ## Witnesses: vector instructions -/

/-- The binary vector instructions on V4, V8, V12. -/
def binary : List Instr := [.vadd false 4 8 12, .vsub false 4 8 12, .vmul false 4 8 12, .vmin false 4 8 12, .vmax false 4 8 12,
  .vabs false 4 8, .vneg false 4 8, .vdiv false 4 8 12]

theorem witness_VectorIntegerArithmetic :
    (ETy.i8.int = true ∧ ETy.i8.width < 32) ∧ ETy.f32.float = true ∧
    ((inMode 0x70#32 base).ty.int = true ∧ ∀ i ∈ binary ++ [.vmulh false 4 8 12, .vmad false 4 8 12], (inMode 0x70#32 base).Ready i) ∧
    ((inMode 0x01#32 base).ty.int = true ∧ ∀ i ∈ binary ++ [.vmulh false 4 8 12, .vmad false 4 8 12], (inMode 0x01#32 base).Ready i) :=
  ⟨by decide, by decide, ⟨by decide +kernel, all_ready (by decide +kernel)⟩, by decide +kernel, all_ready (by decide +kernel)⟩

theorem witness_VectorFloatArithmetic :
    ((inMode 0xB0#32 base).ty.float = true ∧
      ∀ i ∈ binary ++ [.vfma false 4 8 12, .vsqrt false 4 8], (inMode 0xB0#32 base).Ready i) ∧
    ((inMode 0x82#32 base).ty.float = true ∧
      ∀ i ∈ binary ++ [.vfma false 4 8 12, .vsqrt false 4 8], (inMode 0x82#32 base).Ready i) ∧
    (∀ t ∈ [ETy.f16, .bf16, .f32, .f64], t.float = true ∧ 2 ^ t.width - 1 < 2 ^ t.width) ∧
    ((∃ v, FVal.nan v ∈ [decodeF f32 0x7F800001]) ∧ decodeF f32 0x7F800000 = .inf false ∧ decodeF f32 0xFF800000 = .inf true ∧
      finite (decodeF f32 0x80000000) = true ∧ negOf (decodeF f32 0x80000000) = true) :=
  ⟨⟨by decide +kernel, all_ready (by decide +kernel)⟩, ⟨by decide +kernel, all_ready (by decide +kernel)⟩, by decide,
    ⟨true, by decide⟩, by decide +kernel⟩

theorem witness_VectorFunctionsComplete : ((inMode 0xA0#32 base).ty.float = true ∧
    ∀ i ∈ [Instr.vrcp false 4 8, .vrsq false 4 8, .vexp2 false 4 8, .vlog2 false 4 8, .vsin false 4 8, .vcos false 4 8],
      (inMode 0xA0#32 base).Ready i) ∧
    (numOf (decodeF f32 0) = 0 ∧ 0 < numOf (decodeF f32 0x3F800000) ∧ numOf (decodeF f32 0x3F800000) = 1 ∧
      numOf (decodeF f32 0xBF800000) < 0 ∧ numOf (decodeF f32 0x40400000) = 3) := by
  have h0 : decodeF f32 0 = .fin false 0 (-149) := by decide
  have h1 : decodeF f32 0x3F800000 = .fin false 8388608 (-23) := by decide
  have h2 : decodeF f32 0xBF800000 = .fin true 8388608 (-23) := by decide
  have h3 : decodeF f32 0x40400000 = .fin false 12582912 (-22) := by decide
  refine ⟨⟨by decide +kernel, all_ready (by decide +kernel)⟩, ?_⟩
  rw [h0, h1, h2, h3]
  norm_num [numOf]

theorem witness_VectorBitsShiftsAndFields : (inMode 0x40#32 base).ty ≠ .q64 ∧
    ∀ i ∈ [Instr.vand false 4 8 12, .vor false 4 8 12, .vxor false 4 8 12, .vnot false 4 8, .vshl false 4 8 12, .vshr false 4 8 12,
      .vsra false 4 8 12, .vpopc false 4 8, .vclz false 4 8, .vbrev false 4 8, .vbfx false 4 8 12, .vbfi false 4 8 12],
      (inMode 0x40#32 base).Ready i := ⟨by decide +kernel, all_ready (by decide +kernel)⟩

theorem witness_VectorConvertCompareAndMove :
    (∀ i ∈ [Instr.vcvt false 4 8 .f16, .vcmp false 3 4 8 .un, .vsel false 4 8 3, .vmov false 4 8, .vmovs false 4 3,
      .vmovi false 4 0xFFFF#16], (inMode 0xA0#32 base).Ready i) ∧
    (inMode 0xA0#32 base).ty.float = true ∧ (inMode 0xA0#32 base).lanes ≠ [] ∧
    (inMode 0x30#32 base).Ready (.vcmp false 3 4 8 .lt) ∧ (inMode 0x30#32 base).ty.float = false ∧
    (let s := inLanes 0 (inMode 0xA0#32 base)
     s.Ready (.vcmp false 3 4 8 .un) ∧ s.ty.float = true ∧ s.lanes = []) ∧
    (ETy.f64 ≠ .q64 ∧ ETy.i8 ≠ .q64 ∧ ETy.f64 ≠ .i8 ∧ ETy.f64.float = true ∧ ETy.i8.int = true) :=
  ⟨all_ready (by decide +kernel), by decide +kernel, by decide +kernel, ready_of (by decide +kernel), by decide +kernel,
    ⟨ready_of (by decide +kernel), by decide +kernel⟩, by decide⟩

theorem witness_CrossLaneInstructions :
    (∀ i ∈ [Instr.vshfl false 4 8 12 .down, .vshflS false 4 8 3 .idx, .vbcast false 4 8 3, .vballot false 3 8, .vred false 3 8 .add,
      .vscan false 4 8 .max true], base.Ready i) ∧ base.lanes ≠ [] ∧
    (∀ i ∈ [Instr.vbxch false 4 8 3, .vmatch false 4 8], (inMode 0x20#32 base).Ready i) ∧
    (inMode 0x20#32 base).ty.width = 32 ∧
    (let s := inLanes 0 base
     s.Ready (.vred false 3 8 .add) ∧ s.lanes = []) ∧
    (base.ty.int = true ∧ (inMode 0xA8#32 base).ty.float = true ∧ (inMode 0xA8#32 base).rnd ≤ 4) :=
  ⟨all_ready (by decide +kernel), by decide +kernel, all_ready (by decide +kernel), by decide +kernel,
    ⟨ready_of (by decide +kernel), by decide +kernel⟩, by decide +kernel⟩

/-- A warp of the modular type with the modulus 97 and its constant in S10 and S11. -/
def modular : State := inMode 0xC0#32 (setR 10 97 (setR 11 168 base))

theorem witness_ModularInstructionsReduce :
    (∀ i ∈ [Instr.vqadd false 4 8 10, .vqsub false 4 8 10, .vqmul false 4 8 10, .vqbfly false 4 8 10, .vqbflyi false 4 8 10],
      modular.Ready i) ∧ (∀ r ∈ [4, 6, 8], r + 1 < 128) ∧
    (97 % 2 = 1 ∧ 3 ≤ 97 ∧ 97 < 2 ^ 62 ∧ (modular.sreg 11).toNat = 2 ^ (2 * bitLen 97) / 97) ∧
    ¬((modular.sreg 12).toNat % 2 = 1) ∧ modular.warp.flbl = 0 ∧ modular.lanes ≠ [] :=
  ⟨all_ready (by decide +kernel), by decide, by decide +kernel, by decide +kernel, by decide +kernel, by decide +kernel⟩

/-! ## Vector instructions, one step (06, 07) -/

/-- 07 R135 under I8: 100 + 100 saturates to 127; without SAT it wraps to -56, sign-extended (R119). -/
theorem test_vadd : let s := setV 8 0 100 (setV 12 0 100 base)
    laneAfter (.vadd false 4 8 12) (inMode 0x01#32 s) 4 0 = some 127 ∧
    laneAfter (.vadd false 4 8 12) (inMode 0x00#32 s) 4 0 = some 0xFFFFFFC8#32 := by decide +kernel

/-- 06 R122 to R125: binary32 1 + 2^-24 is 1 to nearest even and the next number upward; 1 / 0 is an infinity. -/
theorem test_f32 : let s := inMode 0xA0#32 (setV 8 0 0x3F800000#32 (setV 12 0 0x33800000#32 base))
    laneAfter (.vadd false 4 8 12) s 4 0 = some 0x3F800000#32 ∧
    laneAfter (.vdiv false 4 8 16) s 4 0 = some 0x7F800000#32 ∧
    laneAfter (.vmul false 4 8 12) s 4 0 = some 0x33800000#32 := by decide +kernel

/-- 06 R125: the fused product is rounded once. (1 + 2^-12)^2 - 1 is 2^-11 + 2^-24. -/
theorem test_vfma : laneAfter (.vfma false 4 8 8) (inMode 0xA0#32 (setV 8 0 0x3F800800#32 (setV 4 0 0xBF800000#32 base))) 4 0 =
    some 0x3A000400#32 := by decide +kernel

/-- 07 R140: binary32 1.5 to I32 rounds to 2, to even. -/
theorem test_vcvt : laneAfter (.vcvt false 4 8 .i32) (inMode 0xA0#32 (setV 8 0 0x3FC00000#32 base)) 4 0 = some 2 ∧
    laneAfter (.vcvt false 4 8 .f16) (inMode 0xA0#32 (setV 8 0 0x3FC00000#32 base)) 4 0 = some 0x3E00#32 := by decide +kernel

/-- 07 R146, R147: the sum over 32 lanes of 1, and the ballot of the lanes with nonzero elements. -/
theorem test_vred : let s := inMode 0x20#32 ((List.range 32).foldl (fun s l => setV 8 l 1 s) base)
    after (.vred false 3 8 .add) s 3 = some 32 ∧ after (.vballot false 3 8) s 3 = some 0xFFFFFFFF#64 := by decide +kernel

/-- 07 R144: products modulo 97; a pair of lanes holds an element. -/
theorem test_vqmul : laneAfter (.vqmul false 4 8 10) (setV 4 0 96 (setV 8 0 95 modular)) 4 0 = some 2 := by decide +kernel

/-! ## Witnesses: memory -/

/-- An ordinary page: WT = 0, under the context's memory key in slot 1. -/
def dataLeaf : Nat := openLeaf - 4 + 2 ^ 88

theorem witness_AccessChecksFollowTheirOrder :
    let a : Word := 0x1FFF8
    (0x1FFFC#64).toNat % 8 ≠ 0 ∧ (2 ^ 57 ≤ (0x200000000000000#64).toNat) ∧ (a.toNat % 8 = 0 ∧ a.toNat < 2 ^ 57) ∧
    (withLeaf (openLeaf + 2 ^ 48)).translate 0 0 a.toNat = .malformed ∧
    plain.translate 0 0 0x20000 = .absent ∧
    (let s := onSplit (fun x => { x with declined := [2] }) plain
     s.translate s.coreNo s.warp.ctx 0x20000 = .absent ∧ s.split.declined.contains (0x20000 / 2 ^ 16) = true) ∧
    (plain.split.declined.contains 2 = false) ∧
    (let e := BitVec.ofNat 128 (openLeaf + 8)
     (withLeaf (openLeaf + 8)).translate 0 0 a.toNat = .leaf e ∧ ¬((withLeaf (openLeaf + 8)).split.priv = true ∨ bitOf e 3 = false)) ∧
    (let e := BitVec.ofNat 128 openLeaf
     let s := pureLaunch plain
     s.translate s.coreNo s.warp.ctx a.toNat = .leaf e ∧ s.launch.pure = true ∧ bitOf e 4 = true ∧ bitOf e 10 = false) ∧
    (let e := BitVec.ofNat 128 (openLeaf + 2 ^ 10)
     let s := pureLaunch (withLeaf (openLeaf + 2 ^ 10))
     s.translate s.coreNo s.warp.ctx a.toNat = .leaf e ∧ s.launch.pure = true ∧ bitOf e 10 = true) ∧
    (let e := BitVec.ofNat 128 dataLeaf
     let s := withLeaf dataLeaf
     s.translate s.coreNo s.warp.ctx a.toNat = .leaf e ∧ bitOf e 2 = false ∧ fieldOf e 88 8 = 1 ∧ s.ctx.mslot = 1 ∧
      (s.keySlot 1).used = true ∧ (s.keySlot 1).dead = false ∧ (s.keySlot 1).kind = 2 ∧ (s.keySlot 1).ctx = s.warp.ctx ∧
      s.portsAt 0x6FFF8 = []) ∧
    (let s := withLeaf (dataLeaf + 2 ^ 88)
     s.translate s.coreNo s.warp.ctx a.toNat = .leaf (BitVec.ofNat 128 (dataLeaf + 2 ^ 88)) ∧
      fieldOf (BitVec.ofNat 128 (dataLeaf + 2 ^ 88)) 88 8 = 2 ∧ (s.keySlot 2).used = false) ∧
    (let s := onPhys (fun p => { p with extents := [(2, 0x60000, 0x10000)], cxlWait := ⟨[(2, some 9)]⟩ }) plain
     s.translate s.coreNo s.warp.ctx a.toNat = .leaf (BitVec.ofNat 128 openLeaf) ∧ 2 ∈ s.portsAt 0x6FFF8 ∧
      (s.phys.cxlWait.get none 2).isSome = true) ∧
    (let e := BitVec.ofNat 128 openLeaf
     let s := plain
     s.translate s.coreNo s.warp.ctx a.toNat = .leaf e ∧ bitOf e 3 = false ∧ bitOf e 4 = true ∧ bitOf e 5 = true ∧
      bitOf e 6 = true ∧ bitOf e 10 = false ∧ s.launch.pure = false ∧ bitOf e 2 = true ∧ s.phys.extents = [] ∧
      s.phys.owners.get .unowned 6 = .ctx s.warp.ctx ∧ s.phys.retired.get false 6 = false ∧
      Label.dom s.owners (s.granLbl 0x6FFF8) = true) ∧
    (let s := onPhys (fun p => { p with owners := p.owners.set .unowned 6 (.pool 0) }) plain
     s.translate s.coreNo s.warp.ctx a.toNat = .leaf (BitVec.ofNat 128 openLeaf) ∧ s.phys.owners.get .unowned 6 ≠ .ctx s.warp.ctx) ∧
    (let s := onPhys (fun p => { p with retired := p.retired.set false 6 true }) plain
     s.translate s.coreNo s.warp.ctx a.toNat = .leaf (BitVec.ofNat 128 openLeaf) ∧
      s.phys.owners.get .unowned 6 = .ctx s.warp.ctx ∧ s.phys.retired.get false 6 = true) ∧
    (let s := onCtx (fun c => { c with owners := 1#16 }) (onPhys (fun p =>
        { p with grans := p.grans.set Gran.initial (0x6FFF8 / 64) ⟨2, false⟩ }) plain)
     s.translate s.coreNo s.warp.ctx a.toNat = .leaf (BitVec.ofNat 128 openLeaf) ∧ Label.dom s.owners (s.granLbl 0x6FFF8) = false) := by
  decide +kernel

/-- 11 R191, 09 R171: a misaligned address traps before one that is out of range; a page that is not mapped is a
replayable fault on it. -/
theorem test_memChk : base.memChk .load 0x200000000000004#64 8 = .trap .align 0x200000000000004#64 true ∧
    base.memChk .store 0x20008 8 = .fault 2 1 ∧ base.memChk .load 0x1FFF8 8 = .ok 0x6FFF8 0xFFFF#16 := by decide +kernel

/-- Memory behind 0x1_0100 with a granule under {0} of fixed label, of ceiling ∅. -/
def lowCeil : State := setL 1 1 (setR 1 0x10100 (onWarp (fun w => { w with ltab := ⟨[(1, some 1#16)]⟩ })
  (withLeaf (6 * 2 ^ 16 + 0x73 + 1 * 2 ^ 88 + 0xFFFF * 2 ^ 112))))

theorem witness_ScalarLoadsAndStores :
    (let s := addr 0x1FFFE
     s.Ready (.sld false 3 1 2 .i16) ∧ (∃ c, s.memChk .load (s.sreg 1 + s.sreg 2) 2 = .ok 0x6FFFE c) ∧ s.heldBy 0x6FFFE = [] ∧
      s.poisoned 0x6FFFE = false) ∧
    (let s := refusedPage 0x10100
     s.Ready (.sld false 3 1 2 .b64) ∧ s.memChk .load (s.sreg 1 + s.sreg 2) 8 = .refused 0 ∧
      s.Ready (.sst false 3 1 2 .b64) ∧ s.memChk .store (s.sreg 1 + s.sreg 2) 8 = .refused 0) ∧
    (let s := addr 0x10101
     s.Ready (.sld false 3 1 2 .b32) ∧ s.memChk .load (s.sreg 1 + s.sreg 2) 4 = .trap .align 0x10101 true ∧
      s.Ready (.sst false 3 1 2 .b32) ∧ s.memChk .store (s.sreg 1 + s.sreg 2) 4 = .trap .align 0x10101 true) ∧
    (let s := addr 0x20000
     s.Ready (.sld false 3 1 2 .n8) ∧ 2 ≠ waitPage ∧ s.memChk .load (s.sreg 1 + s.sreg 2) 1 = .fault 2 0) ∧
    (let s := addr 0x1FFF8
     s.Ready (.sst false 3 1 2 .b64) ∧ s.block.audit = false ∧ s.memChk .store (s.sreg 1 + s.sreg 2) 8 = .ok 0x6FFF8 0xFFFF#16 ∧
      s.accepts 0x6FFF8 0xFFFF#16 (s.slbl 3 ||| (s.slbl 1 ||| s.slbl 2 ||| s.pcl)) = true ∧ s.heldStore 0x6FFF8 = []) ∧
    (let s := lowCeil
     s.Ready (.sst false 3 1 2 .b8) ∧ s.memChk .store (s.sreg 1 + s.sreg 2) 1 = .ok 0x60100 0#16 ∧
      s.accepts 0x60100 0#16 (s.slbl 3 ||| (s.slbl 1 ||| s.slbl 2 ||| s.pcl)) = false) :=
  ⟨⟨ready_of (by decide +kernel), ⟨0xFFFF#16, by decide +kernel⟩, by decide +kernel⟩,
    ⟨ready_of (by decide +kernel), by decide +kernel, ready_of (by decide +kernel), by decide +kernel⟩,
    ⟨ready_of (by decide +kernel), by decide +kernel, ready_of (by decide +kernel), by decide +kernel⟩,
    ⟨ready_of (by decide +kernel), by decide +kernel⟩, ⟨ready_of (by decide +kernel), by decide +kernel⟩,
    ready_of (by decide +kernel), by decide +kernel⟩

/-- 11 R192: a byte with bit 7 set, sign-extended; 11 R191: a page that is not the context's gives all ones. -/
theorem test_sld : after (.sld false 3 1 2 .i8) (inMem 0x60100 [0x80] (addr 0x10100)) 3 = some 0xFFFFFFFFFFFFFF80#64 ∧
    after (.sld false 3 1 2 .b32) (refusedPage 0x10100) 3 = some 0xFFFFFFFFFFFFFFFF#64 := by decide +kernel

/-- 11 R193: a store of 2 bytes is little-endian. -/
theorem test_sst : gives (.sst false 3 1 2 .b16) (setR 3 0xABCD1234 (addr 0x10100)) (fun t =>
    t.byteAt 0x60100 == 0x34 && t.byteAt 0x60101 == 0x12 && t.byteAt 0x60102 == 0) = true := by decide +kernel

/-- A load of V4 outstanding. -/
def outstanding : State := onWarp (fun w => { w with loads := [⟨7, 4, true, [⟨0, 0x1122334455667788#64, 0, none⟩, ⟨31, 1, 0, some ⟨0x60100, 8, false, 5⟩⟩], none⟩] }) base

theorem witness_LaneLoadsIssueAndReturn :
    (∀ i ∈ [Instr.vld false 4 1 8 .b64, .vldAcqB32 false 4 1 8 .gang, .vldAcqB64 false 4 1 8 .sys, .vldScB32 false 4 1 8 .dev,
      .vldScB64 false 4 1 8 .gang, .vlds false 4 2 8 .n16], (addr 0x1FFF8).Ready i) ∧
    (let s := addr 0x1FFF8
     let mem (n l : Nat) : Chk := s.memChk .load (s.sreg 1 + (s.vlane 8 l).val.signExtend 64) n
     let pad (l : Nat) : Chk := s.spChk (s.sreg 2 + (s.vlane 8 l).val.signExtend 64) 2 true
     (∀ n ∈ [4, 8], s.waitStop false (s.lanes.map (mem n)) = none ∧ s.meetsPoison (s.lanes.map (mem n)) = false) ∧
     s.waitStop false (s.lanes.map pad) = none ∧ s.meetsPoison (s.lanes.map pad) = false) ∧
    (let s := onPhys (fun p => { p with poison := p.poison.set false (0x60100 / 64) true }) (addr 0x10100)
     let mem (l : Nat) : Chk := s.memChk .load (s.sreg 1 + (s.vlane 8 l).val.signExtend 64) 8
     s.Ready (.vld false 4 1 8 .b64) ∧ s.waitStop false (s.lanes.map mem) = none ∧ s.meetsPoison (s.lanes.map mem) = true) ∧
    (let s := addr 0x1FFFC
     s.Ready (.vld false 4 1 8 .b64) ∧
      FirstTrap s (fun l => s.memChk .load (s.sreg 1 + (s.vlane 8 l).val.signExtend 64) 8) .align 0x1FFFC true) ∧
    (((outstanding.warpAt 0).loads.find? (fun y => y.id = 7)).all (fun x => (x.lanes.map PLane.lane).Nodup &&
      x.lanes.all (fun e => e.lane < 32) && x.reg < 128 && x.poison.isNone) = true ∧
      ((outstanding.warpAt 0).loads.find? fun y => y.id = 7).isSome = true ∧ outstanding.laterWrites 5 0x60100 = []) ∧
    (let s := onWarp (fun w => { w with loads := [⟨7, 4, false, [⟨0, 0x55, 0, none⟩], some 0x10000⟩] }) base
     ((s.warpAt 0).loads.find? fun y => y.id = 7) = some ⟨7, 4, false, [⟨0, 0x55, 0, none⟩], some 0x10000⟩ ∧
      (s.warpAt 0).live = true) :=
  ⟨all_ready (by decide +kernel), by decide +kernel, ⟨ready_of (by decide +kernel), by decide +kernel⟩,
    ⟨ready_of (by decide +kernel), 0, by decide +kernel⟩, by decide +kernel, by decide +kernel⟩

/-- 11 R192: the pair of a 64-bit element takes its low word first. -/
theorem test_load_return : gives (.loadReturn 0 7) outstanding (fun t =>
    (t.vlane 4 0).val == 0x55667788 && (t.vlane 5 0).val == 0x11223344 && (t.vlane 4 31).val == 1 && t.warp.loads == []) =
    true := by decide +kernel

theorem witness_LaneStoresWriteTheirBytes :
    let s := addr 0x1FFF8
    let mem (n l : Nat) : Chk := s.labelChk (s.vlbl (n == 8) 4 l ||| (s.slbl 1 ||| s.label (s.vlane 8 l).lbl) ||| s.pcl |||
      s.guardLbl) (s.sreg 1 + (s.vlane 8 l).val.signExtend 64) (s.memChk .store (s.sreg 1 + (s.vlane 8 l).val.signExtend 64) n)
    (∀ i ∈ [Instr.vst false 4 1 8 .b64, .vstRelB32 false 4 1 8 .gang, .vstRelB64 false 4 1 8 .dev, .vstScB32 false 4 1 8 .sys,
      .vstScB64 false 4 1 8 .gang, .vsts false 4 2 8 .b8], s.Ready i) ∧ s.block.audit = false ∧
    s.accessStop false true (s.lanes.map (mem 8)) = none ∧ s.accessStop false true (s.lanes.map (mem 4)) = none ∧
    s.warps.entries.all (fun e => e.2.liveSplits.all fun p => !p.2.waiting) = true ∧
    s.accessStop false true (s.lanes.map fun l => s.spChk (s.sreg 2 + (s.vlane 8 l).val.signExtend 64) 1 true) = none ∧
    (∃ l ∈ (addr 0x1FFFC).lanes, (addr 0x1FFFC).memChk .store ((addr 0x1FFFC).sreg 1 + ((addr 0x1FFFC).vlane 8 l).val.signExtend 64) 8 =
      .trap .align 0x1FFFC true) :=
  ⟨all_ready (by decide +kernel), by decide +kernel, by decide +kernel, by decide +kernel, by decide +kernel, by decide +kernel, 0,
    by decide +kernel⟩

/-- No split waits at a barrier object. -/
theorem witness_LaneStoresWriteTheirBytes_objs : ∀ x, (addr 0x1FFF8).waitedObjs x = [] := fun _ => rfl

/-- 11 R193: where lanes meet, the highest lane's element stands. -/
theorem test_vst : gives (.vst false 4 1 8 .b32) (setV 4 31 0xCAFE (setV 4 0 7 (addr 0x10100))) (fun t =>
    t.byteAt 0x60100 == 0xFE && t.byteAt 0x60101 == 0xCA) = true := by decide +kernel

theorem witness_PrivateMemoryIsPerLane :
    (let s := setR 1 248 base
     s.Ready (.vldp false 4 1 8 .b64) ∧ s.Ready (.vstp false 4 1 8 .b64) ∧
      (∀ l ∈ s.lanes, (s.sreg 1 + (s.vlane 8 l).val.signExtend 64).toNat % 8 = 0 ∧
        (s.sreg 1 + (s.vlane 8 l).val.signExtend 64).toNat % 2 ^ 32 + 8 ≤ s.ctx.privBytes) ∧ s.warp.privPoison = .empty ∧ AreaMapped s) ∧
    (AreaMapped (setR 1 250 base) ∧ AreaMapped (setR 1 256 base)) ∧
    (let s := setR 1 250 base
     s.Ready (.vstp false 4 1 8 .b64) ∧ (s.sreg 1 + (s.vlane 8 0).val.signExtend 64).toNat % 8 ≠ 0) ∧
    (let s := setR 1 256 base
     s.Ready (.vstp false 4 1 8 .b64) ∧ (s.sreg 1 + (s.vlane 8 0).val.signExtend 64).toNat % 8 = 0 ∧
      s.ctx.privBytes < (s.sreg 1 + (s.vlane 8 0).val.signExtend 64).toNat % 2 ^ 32 + 8) :=
  ⟨⟨ready_of (by decide +kernel), ready_of (by decide +kernel), by decide +kernel, by decide +kernel, ⟨by decide +kernel, by decide +kernel⟩⟩,
    ⟨⟨by decide +kernel, by decide +kernel⟩, by decide +kernel, by decide +kernel⟩,
    ⟨ready_of (by decide +kernel), by decide +kernel⟩, ready_of (by decide +kernel), by decide +kernel⟩

/-- 16 R269: a refused private load gives all ones and leaves a log entry. -/
theorem test_vldp_refused : gives (.vldp false 4 1 8 .b32) { inLanes 1#32 base with choices := [2] } (fun t =>
    (t.warp.loads.map fun x => x.lanes.map PLane.val) == [[BitVec.allOnes 64]] && (t.pavAt t.ctx.pav).log.length = 1) = true := by
  decide +kernel

/-- A warp whose lanes 0 and 1 name one word and lane 2 another. -/
def atoms : State := inLanes 7#32 (setV 8 2 8 (addr 0x10100))

theorem witness_AtomicsActInLaneOrder :
    let s := atoms
    let chk (n l : Nat) : Chk := s.labelChk (s.vlbl (n == 8) 4 l ||| s.vlbl (n == 8) (4 + n / 4) l ||| (s.slbl 1 |||
      s.label (s.vlane 8 l).lbl ||| s.pcl ||| s.guardLbl)) (s.sreg 1 + (s.vlane 8 l).val.signExtend 64)
      (s.memChk .atomic (s.sreg 1 + (s.vlane 8 l).val.signExtend 64) n)
    s.block.audit = false ∧
    (∀ i ∈ [Instr.vatomB32 false 4 1 8 .cas, .vatomB64 false 4 1 8 .add, .vratomB32 false 4 1 8 .max, .vratomB64 false 4 1 8 .xor],
      s.Ready i) ∧ s.accessStop true true (s.lanes.map (chk 4)) = none ∧ s.accessStop true true (s.lanes.map (chk 8)) = none ∧
    (∀ l ∈ s.lanes, (chk 8 l).key.isSome = true) ∧ s.hist.bytes.entries = [] ∧
    (s.Ready (.satom false 3 1 5 true .cas) ∧ s.memChk .atomic (s.sreg 1) 8 = .ok 0x60100 0xFFFF#16 ∧
      s.accepts 0x60100 0xFFFF#16 (s.slbl 5 ||| s.slbl 4 ||| s.slbl 1 ||| s.pcl) = true ∧ s.heldStore 0x60100 = [] ∧
      s.poisoned 0x60100 = false) ∧
    (let s := { base with hist := { base.hist with
       bytes := ⟨[(0x60100, ⟨0, [(5, 9)], none, none⟩)]⟩, ao := ⟨[(0x60100, some 5)]⟩ } }
     s.hist.ao.get none 0x60100 = some 5 ∧
      (s.hist.values 0x60100 (s.byteAt 0x60100) [5]).all (fun x => x.1 == some 5 || x.1.isNone) = true) :=
  ⟨by decide +kernel, all_ready (by decide +kernel), by decide +kernel, by decide +kernel, by decide +kernel, by decide +kernel,
    ⟨ready_of (by decide +kernel), by decide +kernel⟩, by decide +kernel⟩

/-- 11 R200: two lanes add 5 and 6 to one word: the first sees 0, the second 5. -/
theorem test_vatom : gives (.vatomB32 false 4 1 8 .add) (setV 4 0 5 (setV 4 1 6 atoms)) (fun t =>
    (t.vlane 4 0).val == 0 && (t.vlane 4 1).val == 5 && t.byteAt 0x60100 == 11) = true := by decide +kernel
/-! ## Witnesses: barrier objects, fences, waits -/

/-- A barrier object at offset 0x40: PEND -1, CNT 1, INIT 2, phase 0xFFFF, mode 0. -/
def object : Nat := 2 ^ 48 - 1 + 2 ^ 64 + 2 * 2 ^ 80 + 0xFFFF * 2 ^ 96

/-- A warp with the object's address in S1 and a value in S2. -/
def atObject (n : Nat) (v : Word) : State := inPad 0x40 (leBytes 16 n) (setR 2 v (addr 0x40))

theorem witness_BarrierObjectsCountTheirPhases :
    (∃ ceil, (atObject object 1).spChk ((((atObject object 1).sreg 1).setWidth 32).setWidth 64) 16 false =
      .ok (scratchKey 1 0x40) ceil) ∧ 0x40 < 2 ^ 22 ∧ (atObject object 1).split.st = .ready ∧
    (∀ i ∈ [Instr.boinit false 1 2, .boarr false 3 1 2, .boexp false 1 2, .bowait false 3 1 2], (atObject object 1).Ready i) ∧
    ((atObject object 1).heldStore (scratchKey 1 0x40) = [] ∧ (atObject object 1).heldBy (scratchKey 1 0x40) = []) ∧
    (fieldOf (1#64) 17 2 ≠ 3 ∧ fieldOf (1#64) 19 45 = 0 ∧ ((atObject object 1).blockAt 1).objs.length < 32) ∧
    ((atObject 0 (2 ^ 63)).Ready (.boinit false 1 2) ∧ fieldOf ((atObject 0 (2 ^ 63)).sreg 2) 19 45 ≠ 0 ∧
      (atObject 0 (2 ^ 63)).objPeer 1 = false) ∧
    (-(2 ^ 47 : Int) ≤ sextNat 48 (fieldOf ((atObject object 1).objAt 1 0x40) 0 48) + sextNat 48 ((atObject object 1).sreg 2).toNat ∧
      sextNat 48 (fieldOf ((atObject object 1).objAt 1 0x40) 0 48) + sextNat 48 ((atObject object 1).sreg 2).toNat < 2 ^ 47) ∧
    ((atObject (2 ^ 47 - 1) 1).Ready (.boexp false 1 2) ∧ (atObject (2 ^ 47 - 1) 1).objPeer 1 = false ∧
      ¬sextNat 48 (fieldOf ((atObject (2 ^ 47 - 1) 1).objAt 1 0x40) 0 48) + sextNat 48 ((atObject (2 ^ 47 - 1) 1).sreg 2).toNat < 2 ^ 47) ∧
    ((atObject object 1).warp.live = true ∧ (atObject object 1).boWaiters 1 0x40 = []) ∧
    (fieldOf ((atObject object 1).objAt 1 0x40) 96 16 ≠ 1 ∧ fieldOf ((atObject object 1).objAt 1 0x40) 112 1 = 0 ∧
      fieldOf ((atObject object 0xFFFF).objAt 1 0x40) 96 16 = 0xFFFF ∧
      fieldOf ((atObject (object + 2 ^ 112) 1).objAt 1 0x40) 112 1 = 1 ∧
      (((atObject object 1).setBlockAt 1 { (atObject object 1).block with abandoned := true }).blockAt 1).abandoned = true) :=
  ⟨⟨0xFFFF#16, by decide +kernel⟩, by decide, by decide +kernel, all_ready (by decide +kernel), by decide +kernel,
    by decide +kernel, ⟨ready_of (by decide +kernel), by decide +kernel⟩, by decide +kernel,
    ⟨ready_of (by decide +kernel), by decide +kernel⟩, by decide +kernel, by decide +kernel⟩

/-- 11 R205: the last arrival, with PEND back at 0, ends phase 0xFFFF; phase 0 begins with CNT 2. -/
theorem test_boarr : gives (.boarr false 3 1 2) (atObject object 1) (fun t =>
    t.sreg 3 == 0xFFFF && fieldOf (t.objAt 1 0x40) 96 16 == 0 && fieldOf (t.objAt 1 0x40) 64 16 == 2 &&
      fieldOf (t.objAt 1 0x40) 0 48 == 0) = true := by decide +kernel

/-- A split that waits for the value at 0x1_0100 to reach 5. -/
def waiting : State := onSplit (fun x => { x with st := .swait (.mwait 3 0x10100 5 .ge 0) }) base

theorem witness_FencesOrderAndMwaitWaits :
    (addr 0x10100).Ready (.fence false .both .gang) ∧
    (let s := inMem 0x60100 [5] (setR 2 5 (addr 0x10100))
     s.Ready (.mwait false 3 1 2 .ge) ∧ s.memChk .load (s.sreg 1) 8 = .ok 0x60100 0xFFFF#16 ∧ s.heldBy 0x60100 = [] ∧
      s.poisoned 0x60100 = false ∧ (s.sreg 2).toNat ≤ leNat (s.bytesAt 0x60100 8)) ∧
    (let s := setR 2 5 (addr 0x10100)
     s.Ready (.mwait false 3 1 2 .eq) ∧ s.memChk .load (s.sreg 1) 8 = .ok 0x60100 0xFFFF#16 ∧
      BitVec.ofNat 64 (leNat (s.bytesAt 0x60100 8)) ≠ s.sreg 2) ∧
    (let s := inMem 0x60100 [5] waiting
     (s.warpAt 0).st = .run ∧ ({ s with cur := 0, curSplit := 0 } : State).split.st = .swait (.mwait 3 0x10100 5 .ge 0) ∧
      ({ s with cur := 0, curSplit := 0 } : State).memChk .load 0x10100 8 = .ok 0x60100 0xFFFF#16 ∧
      ({ s with cur := 0, curSplit := 0 } : State).heldBy 0x60100 = [] ∧ s.poisoned 0x60100 = false ∧
      waitHolds .ge (BitVec.ofNat 64 (leNat (s.bytesAt 0x60100 8))) 5 = true) ∧
    waitHolds .ge (BitVec.ofNat 64 (leNat (waiting.bytesAt 0x60100 8))) 5 = false ∧
    (let s := onSplit (fun x => { x with st := .swait (.mwait 3 0x20000 5 .ge 0) }) base
     (s.warpAt 0).st = .run ∧ s.memChk .load 0x20000 8 = .fault 2 0 ∧ 2 ≠ waitPage) :=
  ⟨ready_of (by decide +kernel), ⟨ready_of (by decide +kernel), by decide +kernel⟩,
    ⟨ready_of (by decide +kernel), by decide +kernel⟩, by decide +kernel, by decide +kernel, by decide +kernel⟩

/-- 11 R197: the value that ends the wait is the result, and the split goes on at the next word. -/
theorem test_mwait : gives (.mwaitWake 0 0) (inMem 0x60100 [5] waiting) (fun t =>
    t.sreg 3 == 5 && t.split.pc == 0x10004 && t.split.st == .ready) = true := by decide +kernel

/-! ## Witnesses: spawned threads -/

/-- The base state with an entry address in S1, a spawn timer, and `n` threads of it in bin 0. -/
def spawning (n : Nat) (e : Word) (s : State) : State :=
  let s := s.setLaunchAt 1 { s.launchAt 1 with hdr := (s.launchAt 1).hdr ||| BitVec.ofNat 1024 (3 * 2 ^ 288) }
  (setR 1 e s).setCoreAt 0 { Core.reset with bins := ⟨if n = 0 then [] else
    [(0, ⟨1, 0x30000, List.replicate n ⟨0, (0, 0), 0, (0, 0), 0⟩, 0, false⟩)]⟩ }

/-- Every bin of the core holds a thread of another address. -/
def fullBins (s : State) : State := s.setCoreAt 0 { Core.reset with bins :=
  ⟨(List.range 8).map fun i => (i, ⟨1, 0x40000, [⟨0, (0, 0), 0, (0, 0), 0⟩], 0, false⟩)⟩ }

theorem witness_SpawnDepositsItsThreads :
    ((spawning 0 0x30002 base).Ready (.spawn false 4 1) ∧ ((spawning 0 0x30002 base).sreg 1).toNat % 4 ≠ 0) ∧
    ((spawning 0 (2 ^ 57) base).Ready (.spawn false 4 1) ∧ ((spawning 0 (2 ^ 57) base).sreg 1).toNat % 4 = 0 ∧
      2 ^ 57 ≤ ((spawning 0 (2 ^ 57) base).sreg 1).toNat) ∧
    (let s := spawning 7 0x30000 (inLanes 0xFFFFFF#32 base)
     s.Ready (.spawn false 4 1) ∧ (s.sreg 1).toNat % 4 = 0 ∧ (s.sreg 1).toNat < 2 ^ 57 ∧
      s.binFor s.coreNo s.warp.block ((s.sreg 1).setWidth 57) = some 0 ∧
      (s.launchAt (s.blockAt s.warp.block).lseq).sptmr ≠ 0 ∧
      ((s.coreAt s.coreNo).bins.get Bin.blank 0).threads.length + s.lanes.length < 32) ∧
    (let s := spawning 8 0x30000 (inLanes 0xFFFFFF#32 base)
     s.Ready (.spawn false 4 1) ∧ s.binFor s.coreNo s.warp.block ((s.sreg 1).setWidth 57) = some 0 ∧ s.lanes ≠ [] ∧
      ((s.coreAt s.coreNo).bins.get Bin.blank 0).threads.length + s.lanes.length = 32 ∧ s.freeSlot s.coreNo = some 1 ∧ s.warp.st = .run) ∧
    (let s := fullBins (spawning 0 0x30000 base)
     s.Ready (.spawn false 4 1) ∧ (s.sreg 1).toNat % 4 = 0 ∧ (s.sreg 1).toNat < 2 ^ 57 ∧
      s.binFor s.coreNo s.warp.block ((s.sreg 1).setWidth 57) = none) :=
  ⟨⟨ready_of (by decide +kernel), by decide +kernel⟩, ⟨ready_of (by decide +kernel), by decide +kernel⟩,
    ⟨ready_of (by decide +kernel), by decide +kernel⟩, ⟨ready_of (by decide +kernel), by decide +kernel⟩,
    ready_of (by decide +kernel), by decide +kernel⟩

/-- 05 R108, R109: the 32nd thread launches a warp in slot 1, whose lane 8 is the first thread of this `spawn`. -/
theorem test_spawn : gives (.spawn false 4 1) (setV 4 0 0xAB (spawning 8 0x30000 (inLanes 0xFFFFFF#32 base))) (fun t =>
    (t.warpAt 1).st == .run && ((t.warpAt 1).split 0).pc == 0x30000 && ((t.warpAt 1).split 0).exec == 0xFFFFFFFF#32 &&
      ((t.warpAt 1).vregs.get VLane.zero (vkey 0 8)).val == 0xAB) = true := by decide +kernel

/-- Two splits at one place under one diverge entry. -/
def twoHalves : State := onWarp (fun w =>
  { (w.setSplit 0 { w.split 0 with exec := 0xFFFF#32 }).setSplit 1 { w.split 0 with exec := 0xFFFF0000#32 } with
    stack := [.diverge 0xFFFFFFFF#32 0x30#32 0 none none] }) base

theorem witness_WarpAndArrayEventsAct :
    (let s := { spawning 31 0x30000 base with cycle := 192 }
     let x := (s.coreAt 0).bins.get Bin.blank 0
     (s.launchAt (s.blockAt x.block).lseq).sptmr ≠ 0 ∧ x.since + 64 * (s.launchAt (s.blockAt x.block).lseq).sptmr ≤ s.cycle ∧
      x.threads ≠ [] ∧ x.threads.length ≤ 32 ∧ s.freeSlot 0 = some 1 ∧
      ∀ m < 32, ∀ e ∈ (s.warpAt (32 * 0 + m)).liveSplits, e.2.st = .ready) ∧
    ((((base.setCoreAt 0 { Core.reset with bins := ⟨[(7, ⟨1, 0, [⟨0, (0, 0), 0, (0, 0), 0⟩], 0, true⟩)]⟩ }).coreAt 0).bins.get
      Bin.blank 7).due = true) ∧
    (let k := twoHalves.warpAt 0
     k.st = .run ∧ (k.split 0).st = .ready ∧
      k.split 1 = { k.split 0 with exec := (k.split 1).exec, safe := (k.split 1).safe, last := (k.split 1).last,
                                   declined := (k.split 1).declined, heldOn := (k.split 1).heldOn } ∧
      k.top (k.split 0).exec = some (.diverge 0xFFFFFFFF#32 0x30#32 0 none none) ∧
      k.top (k.split 1).exec = k.top (k.split 0).exec) ∧
    (let s := onWarp (fun w => { w with st := .drain }) base
     (s.warpAt 0).st = .drain ∧ s.pending 0 = false) ∧
    (let s := onWarp (fun w => { w with st := .halt }) base
     (s.warpAt 0).st = .halt) ∧
    (let s := onWarp (fun w => { w with st := .drain, loads := [⟨7, 4, false, [⟨0, 0x55, 0, none⟩], none⟩] }) base
     (s.warpAt 0).st = .drain ∧ s.pending 0 = true) ∧
    base.cycle % 1024 = 0 ∧
    (let s := { twoWarps with cycle := 4096 }
     canIssue s 0 0 = true ∧ (1, 0) ∈ s.splitsOf (scheduler 0) ∧ s.candidate 1 0 = true ∧
      ((s.warpAt 1).split 0).last + 4096 ≤ s.issueCycle 1 ∧ s.firstStarved (scheduler 0) = some (0, 0)) ∧
    (inFlight (.copy []) base).opAt 9 = some (op (.copy [])) ∧
    (base.blockAt 1).live = true ∧ (base.warpAt 0).st ≠ .free ∧
    (let s := base.setCoreAt 0 { Core.reset with bslots := ⟨[(3, { BSlot.blank with st := .ready })]⟩ }
     (s.bslotAt 0 3).st = .ready ∧ (s.bslotAt 0 3).freeing = false ∧ ∀ g ∈ (s.coreAt 0).groups, g.slot ≠ 3) := by
  decide +kernel

/-- 05 R101: the two halves become one split of 32 lanes. -/
theorem test_split_merge : gives (.splitMergeEarly 0 0 1) twoHalves (fun t => t.split.exec == 0xFFFFFFFF#32 &&
    (t.warp.split 1).st == .gone) = true := by decide +kernel

/-! ## Witnesses: copies -/

/-- Lane 0 copies from 0x1_0100 to scratchpad 0x100. -/
def copying : State := inLanes 1#32 (setV 4 0 0x100 (setV 5 0 0x40000000#32 (setV 8 0 0x10100 base)))

/-- A bulk load of `n` elements of 8 bytes from 0x1_0100 to scratchpad 0x100 under a bound of 1: object at 0x40. -/
def request (n : Nat) : Nat :=
  1 + 3 * 2 ^ 3 + 0x10100 * 2 ^ 64 + 0x100 * 2 ^ 128 + 0x40 * 2 ^ 160 + 8 * 2 ^ 256 + n * 2 ^ 304 + 1 * 2 ^ 768

/-- A warp with a batch of two open copies closed, and the number 1 in S1. -/
def batched : State := onWarp (fun w => { w with batches := [⟨1, [5, 6]⟩], lastBatch := 1 }) (addr 1)

theorem witness_CopiesMoveTheirBytes :
    (copying.Ready (.vcpy false 4 8 .b64) ∧ firstStop ((copying.cpyLanes 4 8 8).map CpyLane.verdict) = none ∧
      (∀ x ∈ copying.cpyLanes 4 8 8, x.src.key = some 0x60100) ∧ copying.heldBy 0x60100 = [] ∧
      copying.warp.openCopies.length + (copying.warp.batches.map fun b => b.copies.length).sum < 64) ∧
    (let x : LaneElt := { lane := 0, dst := some (scratchKey 1 0x100), va := none, data := List.replicate 8 7, bad := false, c := 0 }
     let s := inFlight (.copy [x]) base
     s.opAt 9 = some (op (.copy [x])) ∧ (op (.copy [x])).reads = [] ∧ s.claimed 9 [scratchKey 1 0x100] = false ∧ (s.blockAt 1).audit = false ∧ x.data.length = 8) ∧
    (base.Ready (.cbatch false 3) ∧ base.split.st = .ready ∧ (∀ e ∈ base.warp.liveSplits, e.1 = base.curSplit) ∧
      base.warp.batches.length < 16) ∧
    (let s := onWarp (fun w => { w with batches := (List.range 16).map fun i => ⟨i, [i]⟩, openCopies := [40] }) base
     s.Ready (.cbatch false 3) ∧ 16 ≤ s.warp.batches.length ∧ s.warp.openCopies ≠ []) ∧
    (batched.Ready (.cwait false 1) ∧ (∀ b ∈ batched.warp.batches, b.num ≤ min (batched.sreg 1).toNat batched.warp.lastBatch.toNat) ∧
      ∀ b ∈ (setR 1 0 batched).warp.batches, min ((setR 1 0 batched).sreg 1).toNat batched.warp.lastBatch.toNat < b.num) ∧
    (let s := inPad 0x80 (leBytes 128 (request 2)) (addr 0x80)
     s.Ready (.kick false 1) ∧ Describes s ((s.sreg 1).setWidth 32) 128 (leNat (s.bytesAt (scratchKey 1 0x80) 128)) 0 ∧
      s.kickStop ((s.sreg 1).setWidth 32) (BitVec.ofNat 1024 (leNat (s.bytesAt (scratchKey 1 0x80) 128))) = none ∧
      s.requests s.coreNo < 64) ∧
    reqMalformed (BitVec.ofNat 1024 (request 0)) = true ∧
    (let x := BitVec.ofNat 1024 (request 2)
     let s := inFlight (.request x 0x80 0 { ReqProg.start with moved := [0] }) base
     s.opAt 9 = some (op (.request x 0x80 0 { ReqProg.start with moved := [0] })) ∧ 1 < reqCount x ∧
      s.owned 9 (s.elemKeys (op (.request x 0x80 0 { ReqProg.start with moved := [0] })) x 1) = false ∧ reqStore x = false ∧
      reqFan x = false ∧ (s.checkSp 1 (reqSaddr x + BitVec.ofNat 32 (1 * 8)) 8 true).key = some (scratchKey 1 0x108) ∧
      (s.checkSp 1 (reqBobj x) 16 false).key = some (scratchKey 1 0x40) ∧ reqOob x 1 = true) ∧
    (let x := BitVec.ofNat 1024 (request 1)
     let s := inFlight (.request x 0x80 0 ReqProg.start) base
     1 = reqCount x ∧ reqOob x 0 = false ∧ reqAddr x 0 = some 0x10100 ∧
      s.checkVa 0 0 false (s.launchAt 1).pure [] .load 0x10100 = .ok 0x60100 0xFFFF#16 ∧
      Label.dom (s.ctxAt 0).owners (s.granLbl 0x60100) = true ∧ s.poisoned 0x60100 = false) ∧
    (let x := BitVec.ofNat 1024 (request 1)
     let s := inFlight (.request x 0x80 0 { ReqProg.start with moved := [0] }) base
     reqCount x ≤ 1 ∧ (s.checkSp 1 (BitVec.ofNat 32 (0x80 + 0x78)) 8 true).key = some (scratchKey 1 0xF8) ∧
      scratchKey 1 0x40 + 16 ≤ scratchKey 1 0xF8) := by
  refine ⟨⟨ready_of ?_, ?_⟩, ?_, ⟨ready_of ?_, ?_⟩, ⟨ready_of ?_, ?_⟩, ⟨ready_of ?_, ?_⟩,
    ⟨ready_of ?_, describes_of ?_, ?_⟩, ?_, ?_, ?_, ?_⟩ <;> decide +kernel

/-- 13 R218: an element out of bounds reads as zeros; the last element in bounds moves its 8 bytes. -/
theorem test_request : gives (.requestElement 9 0) (inMem 0x60100 [0x5A]
    (inFlight (.request (BitVec.ofNat 1024 (request 1)) 0x80 0 ReqProg.start) base)) (fun t => t.byteAt (scratchKey 1 0x100) == 0x5A) =
    true := by decide +kernel
/-! ## Witnesses: remote operations -/

/-- A channel to peer 0 under the key in slot 2: a ring of two entries of 64 bytes at 0x1_0200, its counters at 0x1_0300
and 0x1_0308. -/
def chanDesc : Nat := 5 * 2 ^ 16 + 2 * 2 ^ 24 + 1 * 2 ^ 32 + 0x10200 * 2 ^ 64 + 0x10300 * 2 ^ 128 + 0x10308 * 2 ^ 192

/-- A context with peer 0, a device, peer 1, a combiner, a channel key in slot 2, and channels 1 and 2 to them under ∅. -/
def linked (s : State) : State :=
  let s := onCtx (fun c => { c with
    peers := [BitVec.ofNat 256 (7 * 2 ^ 128 + 3 * 2 ^ 120 + 1 * 2 ^ 118 + 0xFFFF * 2 ^ 96),
      BitVec.ofNat 256 (8 * 2 ^ 128 + 2 * 2 ^ 118 + 0xFFFF * 2 ^ 96 + 2 * 2 ^ 80)]
    chans := ⟨[(1, { Chan.blank with used := true, opened := true, desc := BitVec.ofNat 512 chanDesc, cl := 0 }),
      (2, { Chan.blank with used := true, opened := true, desc := BitVec.ofNat 512 (1 + 2 * 2 ^ 24), cl := 0 })]⟩ }) s
  { s with tack := { s.tack with slots := s.tack.slots.set KeySlot.blank 2 ⟨true, 4, 0, 0, false, 0, 0⟩ } }

/-- A warp with a handle in S1 and the address of a descriptor in S2, which lies at 0x80 of its scratchpad. -/
def withDesc (h : Word) (n : Nat) (s : State) : State := inPad 0x80 (leBytes 64 n) (setR 1 h (setR 2 0x80 s))

/-- The same with the handle labelled {0}. -/
def tainted (h : Word) (n : Nat) (s : State) : State :=
  setL 1 1 (onWarp (fun w => { w with ltab := ⟨[(1, some 1#16)]⟩ }) (withDesc h n s))

/-- 8 bytes of scratchpad 0x100 to 0x1_0100 of the peer, stamp at 0x1_0120. -/
def putDesc : Nat := 0x4000000000000100 + 0x10100 * 2 ^ 64 + 8 * 2 ^ 128 + 0x10120 * 2 ^ 256 + 77 * 2 ^ 320

/-- 8 bytes of 0x1_0100 as one message, status at 0x1_0140. -/
def sendDesc : Nat := 0x10100 + 8 * 2 ^ 64 + 9 * 2 ^ 96 + 0x10140 * 2 ^ 192

/-- One I32 of 0x1_0100 contributed, the result to 0x1_0110, the stamp to 0x1_0140. -/
def combDesc : Nat := 0x10100 + 0x10110 * 2 ^ 64 + 0x10140 * 2 ^ 128 + 3 * 2 ^ 192 + 1 * 2 ^ 320 + 4 * 2 ^ 352 + 1 * 2 ^ 368

/-- The descriptor's bytes are what S2 describes. -/
def descAt (s : State) : Nat := leNat (s.bytesAt (scratchKey 1 0x80) 64)

theorem witness_RemoteInstructionsStartOperations :
    (let s := withDesc 3 putDesc (linked base)
     (∀ i ∈ [Instr.rput false 1 2, .fsend false 1 2, .fsendDefer false 1 2, .fcomb false 1 2 .sum, .rget false 1 2], s.Ready i) ∧
      Describes s ((s.sreg 2).setWidth 32) 64 (descAt s) 0 ∧ s.openChan 1 1 = none ∧ s.openChan 1 2 = none) ∧
    (let s := withDesc 1 putDesc (linked base)
     let x := BitVec.ofNat 512 (descAt s)
     Describes s ((s.sreg 2).setWidth 32) 64 (descAt s) 0 ∧ s.openChan 1 1 = some (1, s.chanAt 0 1) ∧ s.Ready (.rput false 1 2) ∧
      remMalformed x true = false ∧ s.localStop (s.rangeChk .load (remLaddr x) 8 (remLen x)) [] (remBo x) (remBobj x) = none ∧
      Label.dom (s.chanAt 0 1).cl (s.srcLabel (s.rangeChk .load (remLaddr x) 8 (remLen x)) ||| (0 ||| s.slbl 1 ||| s.slbl 2 ||| s.pcl)) = true ∧
      (s.rangeChk .load (remLaddr x) 8 (remLen x)).map Chk.key = [some (scratchKey 1 0x100)] ∧ s.heldBy (scratchKey 1 0x100) = [] ∧
      s.remotes s.coreNo < 64) ∧
    (let s := tainted 1 putDesc (linked base)
     s.Ready (.rput false 1 2) ∧ Label.dom (s.chanAt 0 1).cl (s.slbl 1) = false) ∧
    (let s := withDesc 1 (0x10100 + 0x10100 * 2 ^ 64 + 8 * 2 ^ 128 + 0x10140 * 2 ^ 256) (linked base)
     let x := BitVec.ofNat 512 (descAt s)
     let ds := s.rangeAt .store (remLaddr x) 8 (remLen x)
     let st := s.rangeAt .store (remStaddr x) 8 8
     s.Ready (.rget false 1 2) ∧ Describes s ((s.sreg 2).setWidth 32) 64 (descAt s) 0 ∧
      remMalformed x false = false ∧ s.localStop [] ((ds ++ st).map Prod.snd) (remBo x) (remBobj x) = none ∧
      s.acceptStop ((s.chanAt 0 1).cl ||| (0 ||| s.slbl 1 ||| s.slbl 2 ||| s.pcl)) (ds ++ st) = none) ∧
    (let s := withDesc 1 sendDesc (linked base)
     let x := BitVec.ofNat 512 (descAt s)
     let cs := s.rangeChk .load (BitVec.ofNat 64 (fieldOf x 0 64)) 8 (fieldOf x 64 32)
     let st := s.copyChk .store (BitVec.ofNat 64 (fieldOf x 192 64)) 8
     s.Ready (.fsendDefer false 1 2) ∧ sendMalformed x (s.chanAt 0 1) = false ∧
      s.localStop cs [st] (bitOf x 160) (sendBobj x) = none ∧ cs.map Chk.key = [some 0x60100] ∧ s.heldBy 0x60100 = []) ∧
    (let s := withDesc 2 combDesc (linked base)
     let x := BitVec.ofNat 512 (descAt s)
     let e := combBytes (fieldOf x 384 4)
     let len := combLen (combCode .sum) (fieldOf x 384 4) (fieldOf x 368 16)
     let cs := s.rangeChk .load (BitVec.ofNat 64 (fieldOf x 0 64)) (stepOf (BitVec.ofNat 64 (fieldOf x 0 64)) e) len
     let ds := s.rangeAt .store (BitVec.ofNat 64 (fieldOf x 64 64)) (stepOf (BitVec.ofNat 64 (fieldOf x 64 64)) e) len
     let st := s.rangeAt .store (BitVec.ofNat 64 (fieldOf x 128 64)) 8 8
     s.Ready (.fcomb false 1 2 .sum) ∧ Describes s ((s.sreg 2).setWidth 32) 64 (descAt s) 0 ∧
      s.openChan 1 2 = some (2, s.chanAt 0 2) ∧ combMalformed x .sum = false ∧
      s.localStop cs ((ds ++ st).map Prod.snd) false 0 = none ∧ cs.map Chk.key = [some 0x60100] ∧
      s.acceptStop ((s.chanAt 0 2).cl ||| (s.srcLabel cs ||| (0 ||| s.slbl 1 ||| s.slbl 2 ||| s.pcl))) (ds ++ st) = none) ∧
    (let s := tainted 2 combDesc (linked base)
     s.Ready (.fcomb false 1 2 .sum) ∧ Label.dom (s.chanAt 0 2).cl (s.slbl 1) = false) ∧
    (let s := withDesc 0 chanDesc (linked base)
     let x := BitVec.ofNat 512 (descAt s)
     s.Ready (.fopen false 3 2 1) ∧ Describes s ((s.sreg 2).setWidth 32) 64 (descAt s) 0 ∧ (s.chanAt s.warp.ctx 3).used = false ∧
      s.chanBad x = false ∧ Label.dom (BitVec.ofNat 16 (fieldOf (s.ctx.peer (fieldOf x 0 16)) 96 16)) ((s.sreg 1).setWidth 16) = true ∧
      Label.dom s.owners ((s.sreg 1).setWidth 16) = true ∧ Label.dom ((s.sreg 1).setWidth 16) (0 ||| s.slbl 2 ||| s.slbl 1 ||| s.pcl) = true ∧
      s.held = []) ∧
    (let s := tainted 0 chanDesc (linked base)
     s.Ready (.fopen false 3 2 1) ∧ Label.dom ((s.sreg 1).setWidth 16) (s.slbl 1) = false) ∧
    (let s := setR 1 1 (linked base)
     s.Ready (.fclose false 1) ∧ (s.chanAt s.warp.ctx (s.sreg 1).toNat).opened = true ∧
      (s.chanAt s.warp.ctx (s.sreg 1).toNat).ops = [] ∧ (s.chanAt s.warp.ctx (s.sreg 1).toNat).far = false) ∧
    (let s := setR 1 3 (linked base)
     s.Ready (.fclose false 1) ∧ (s.chanAt s.warp.ctx (s.sreg 1).toNat).opened = false) := by
  refine ⟨⟨all_ready ?_, describes_of ?_, ?_⟩, ⟨describes_of ?_, ?_, ready_of ?_, ?_⟩, ⟨ready_of ?_, ?_⟩,
    ⟨ready_of ?_, describes_of ?_, ?_⟩, ⟨ready_of ?_, ?_⟩, ⟨ready_of ?_, describes_of ?_, ?_⟩, ⟨ready_of ?_, ?_⟩,
    ⟨ready_of ?_, describes_of ?_, ?_⟩, ⟨ready_of ?_, ?_⟩, ⟨ready_of ?_, ?_⟩, ⟨ready_of ?_, ?_⟩⟩ <;> decide +kernel

/-- 19 R321: the lowest free handle is 3, and the channel's label is the low bits of the operand. -/
theorem test_fopen : gives (.fopen false 3 2 1) (withDesc 9 chanDesc (linked base)) (fun t =>
    t.sreg 3 == 3 && (t.chanAt 0 3).cl == 9 && (t.chanAt 0 3).opened) = true := by decide +kernel

/-- The channels' key is gone. -/
def dropKey (s : State) : State := s.setKeySlot 2 KeySlot.blank

theorem witness_RemoteOperationsEnd :
    (let o : OpKind := .put (BitVec.ofNat 512 putDesc) 1 0 (some [1, 2, 3, 4, 5, 6, 7, 8]) [] []
     (inFlight o (linked base)).opAt 9 = some (op o)) ∧
    (let o : OpKind := .send (BitVec.ofNat 512 sendDesc) 1 0 0 true (some [1]) [] [] (some 0x60140)
     (inFlight o (linked base)).opAt 9 = some (op o) ∧ (op o).reads = [] ∧
      (linked base).slotOk (fieldOf ((linked base).chanAt 0 1).desc 24 8) 4 0 = true ∧
      (inFlight o (dropKey (linked base))).opAt 9 = some (op o) ∧
      (dropKey (linked base)).slotOk (fieldOf ((linked base).chanAt 0 1).desc 24 8) 4 0 = false ∧
      (inFlight o (dropKey (linked base))).claimed 9 [0x60140] = false ∧ ((dropKey (linked base)).chanAt 0 1).opened = true) ∧
    (let o : OpKind := .comb (BitVec.ofNat 512 combDesc) 2 .sum 0 (some [1, 2, 3, 4]) false true [some 0x60110] (some 0x60140)
     (inFlight o (linked base)).opAt 9 = some (op o)) ∧
    (let o : OpKind := .get (BitVec.ofNat 512 putDesc) 1 0 [some 0x60100] (some 0x60140)
     (inFlight o (linked base)).opAt 9 = some (op o) ∧ (inFlight o (linked base)).claimed 9 [0x60100, 0x60140] = false ∧
      remBo (BitVec.ofNat 512 putDesc) = false) ∧
    (let o : OpKind := .send (BitVec.ofNat 512 sendDesc) 1 0 0 true none [] [] (some 0x60140)
     let s := { inFlight o (linked base) with cycle := 2 ^ 26 }
     s.opAt 9 = some (op o) ∧ (op o).since + 2 ^ 26 ≤ s.cycle ∧ s.claimed 9 [0x60140] = false ∧ (s.chanAt 0 1).opened = true) ∧
    (let o : OpKind := .comb (BitVec.ofNat 512 combDesc) 2 .sum 0 none false true [some 0x60110] (some 0x60140)
     (inFlight o (linked base)).opAt 9 = some (op o) ∧ (inFlight o (linked base)).claimed 9 [0x60110, 0x60140] = false) := by
  decide +kernel

/-- 20 R349: a send on a channel whose key is gone fails with status 4, and nothing leaves. -/
theorem test_send_no_key : gives (.remoteSourceRead 9) (inFlight (.send (BitVec.ofNat 512 sendDesc) 1 0 0 true (some [1]) [] []
    (some 0x60140)) (dropKey (linked base))) (fun t =>
      leNat (t.bytesAt 0x60140 8) == 2 ^ 63 + 4 && t.ops == [] && t.outbox.isEmpty && (t.chanAt 0 1).failed == [0]) = true := by
  decide +kernel

/-- 19 R324: status 1 where the message was written, else the code with bit 63. -/
theorem test_send_status : gives (.sendStatus 9 3) (inFlight (.send (BitVec.ofNat 512 sendDesc) 1 0 0 true none [] [] (some 0x60140))
    (linked base)) (fun t => leNat (t.bytesAt 0x60140 8) == 0x8000000000000003 && t.ops == []) = true := by decide +kernel

/-- 19 R327: the result is written where the frame is a RESULT, and the stamp after it. -/
theorem test_combine_result : gives (.combineResult 9 (BitVec.ofNat 256 (2 ^ 244)) [0x11, 0x22, 0x33, 0x44])
    (inFlight (.comb (BitVec.ofNat 512 combDesc) 2 .sum 0 none false false [some 0x60110] (some 0x60140)) (linked base))
    (fun t => t.byteAt 0x60110 == 0x11 && t.byteAt 0x60113 == 0x44 && leNat (t.bytesAt 0x60140 8) == 3) = true := by decide +kernel

/-- A put of 8 bytes that arrives over the channel to peer 0. -/
def arrived : PutMsg := ⟨0, 7, 3, 5, 0x10100, 0x10120, 77, [1, 2, 3, 4, 5, 6, 7, 8], [], []⟩

/-- A get of 8 bytes. -/
def asked : GetMsg := ⟨0, 7, 3, 5, 0x10100, 8, 2⟩

/-- A send of 8 bytes to channel 1 with a sequence number. -/
def sent (q : Nat) (defer : Bool) : SendMsg := ⟨0, 7, 3, 5, 1, q, 8, 9, [1, 2, 3, 4, 5, 6, 7, 8], [], [], defer, 4, []⟩

/-- Something held since the cycle 0, at cycle 2^26. -/
def holding (k : HeldKind) (ring : Bool) (s : State) : State :=
  { s with held := [⟨3, k, [], 0, ring, false⟩], cycle := 2 ^ 26 }

/-- A send finds its ring. -/
theorem admits_of {s : State} {ds : List Nat} {m : SendMsg} {head tail : Nat}
    (h : ((s.chanAt m.ctx m.pch).opened = true ∧ peerKind (s.chanPeer m.ctx (s.chanAt m.ctx m.pch)) = 1 ∧
      peerAddr (s.chanPeer m.ctx (s.chanAt m.ctx m.pch)) = m.srcAddr ∧
      peerCtx (s.chanPeer m.ctx (s.chanAt m.ctx m.pch)) = m.srcCtx ∧ (s.chanAt m.ctx m.pch).pch = m.handle) ∧
      s.farChk m.ctx ds .load (s.chanAt m.ctx m.pch).headAt = .ok head 0xFFFF#16 ∧
      (s.farChk m.ctx ds .store (s.chanAt m.ctx m.pch).tailAt = .ok tail 0xFFFF#16 ∧
        s.accepts tail 0xFFFF#16 (s.chanAt m.ctx m.pch).cl = true) ∧
      m.payload.length + 8 ≤ (s.chanAt m.ctx m.pch).entry ∧
      ((s.farChks m.ctx ds ((s.chanAt m.ctx m.pch).ring + m.seq % (s.chanAt m.ctx m.pch).slots * (s.chanAt m.ctx m.pch).entry)
        (m.payload.length + 8)).all fun c => match c.2 with
          | .ok k ceil => s.accepts k ceil (s.chanAt m.ctx m.pch).cl
          | _ => false) = true) : Admits s ds m head tail := by
  obtain ⟨⟨h1, h2, h3, h4, h5⟩, h6, h7, h8, h9⟩ := h
  refine ⟨h1, h2, h3, h4, h5, ⟨_, h6⟩, ⟨_, h7⟩, h8, fun c hc => ?_⟩
  have := List.all_eq_true.mp h9 c hc
  split at this
  · exact ⟨_, _, by assumption, this⟩
  · cases this

/-- A round of group 4, sequence 1, of two ranks, in which rank 0 has contributed one I32. -/
def halfRound : Round :=
  ⟨4, 1, 0, frameHdr 0 0 0 0 4 2 0 1 1 0, [(0, 7, [5, 0, 0, 0])], none⟩

/-- The round ended with a failure. -/
def endedRound : Round := { halfRound with outcome := some (frameHdr 2 0 0 2 4 2 0 1 1 0, []) }

theorem witness_PeersAndCombinersAreServed :
    (let s := linked base
     (s.ctxAt 0).live = true ∧ s.answering 0 7 3 5 = some (1, s.chanAt 0 1) ∧
      s.farChk 0 [] .store 0x10120 = .ok 0x60120 0xFFFF#16 ∧ s.accepts 0x60120 0xFFFF#16 (s.chanAt 0 1).cl = true ∧
      (∀ c ∈ s.farChks 0 [] 0x10100 8, c.2.page = none) ∧
      ∀ c ∈ (cut 8 8).map fun p => (p, s.farChk 0 [] .load (0x10100 + p.1)), c.2.page = none) ∧
    ((base.ctxAt 0).live = true ∧ base.answering 0 7 3 5 = none) ∧
    (Admits (linked base) [] (sent 1 false) 0x60308 0x60300 ∧ (sent 1 false).gone = [] ∧
      (sent 1 false).seq < leNat ((linked base).bytesAt 0x60308 8) + ((linked base).chanAt 0 1).slots) ∧
    (Admits (linked base) [] (sent 2 true) 0x60308 0x60300 ∧
      leNat ((linked base).bytesAt 0x60308 8) + ((linked base).chanAt 0 1).slots ≤ (sent 2 true).seq) ∧
    (base.chanAt 0 1).opened = false ∧
    (let h : Held := ⟨3, .send (sent 1 true), [], 0, true, false⟩
     let s := holding (.send (sent 1 true)) true (linked base)
     (s.held.find? fun x => x.id = 3) = some h ∧ Admits s [] (sent 1 true) 0x60308 0x60300) ∧
    (let s := holding (.get asked) false base
     (s.held.find? fun x => x.id = 3) = some ⟨3, .get asked, [], 0, false, false⟩ ∧ 0 + 2 ^ 26 ≤ s.cycle ∧
      s.answering 0 7 3 5 = none) ∧
    (let s := holding (.put arrived) false base
     s.farChk 0 [] .store arrived.staddr = .ok 0x60120 0xFFFF#16 ∧ s.accepts 0x60120 0xFFFF#16 0 = true ∧
      s.answering 0 7 3 5 = none) ∧
    (let s := holding (.put { arrived with ctx := 9 }) false base
     (s.ctxAt 9).live = false ∧ s.answering 9 7 3 5 = none) ∧
    (TailPasses (linked base) (sent 0 false) 1) ∧
    (let h := frameHdr 0 0 0 0 4 2 1 1 1 0
     let s := { base with rounds := [halfRound] }
     fieldOf h 248 8 = 1 ∧ fieldOf h 244 4 = 0 ∧ fieldOf h 232 4 = 0 ∧ 1 < fieldOf h 192 16 ∧
      (base.rounds.find? fun x => x.group = fieldOf h 208 16 && x.seq = fieldOf h 128 32) = none ∧
      (s.rounds.find? fun x => x.group = fieldOf h 208 16 && x.seq = fieldOf h 128 32) = some halfRound ∧
      (∀ p ∈ halfRound.parts, p.1 ≠ fieldOf h 176 16) ∧
      (∀ x ∈ [(240, 4), (236, 4), (160, 16), (192, 16), (64, 64)], fieldOf h x.1 x.2 = fieldOf halfRound.hdr x.1 x.2) ∧
      (∀ k < 2, ∃ p ∈ halfRound.parts ++ [(1, 7, [6, 0, 0, 0])], p.1 = k) ∧
      fieldOf (frameHdr 0 1 0 0 4 2 1 1 1 0) 240 4 ≠ fieldOf halfRound.hdr 240 4 ∧
      fieldOf (frameHdr 0 0 0 4 4 2 1 1 1 0) 232 4 = 4 ∧
      (({ base with rounds := [endedRound] } : State).rounds.find? fun x => x.group = fieldOf h 208 16 && x.seq = fieldOf h 128 32) =
        some endedRound ∧ endedRound.outcome.isSome = true ∧
      ∃ p ∈ halfRound.parts, p.1 = fieldOf (frameHdr 0 0 0 0 4 2 0 1 1 0) 176 16) := by
  refine ⟨?_, ?_, ⟨admits_of ?_, ?_⟩, ⟨admits_of ?_, ?_⟩, ?_, ⟨?_, admits_of ?_⟩, ?_, ?_, ?_, ⟨?_, ?_⟩, ?_⟩ <;> decide +kernel

/-- 13 R223: the payload, then the stamp. 19 R324: LEN, TAG and the payload in the ring's entry, then the tail. -/
theorem test_arrivals : gives (.remotePutArrival arrived) (linked base) (fun t =>
      t.byteAt 0x60107 == 8 && leNat (t.bytesAt 0x60120 8) == 77) = true ∧
    gives (.sendArrival (sent 0 false)) (linked base) (fun t =>
      leNat (t.bytesAt 0x60200 4) == 8 && leNat (t.bytesAt 0x60204 4) == 9 && t.byteAt 0x6020F == 8 &&
        leNat (t.bytesAt 0x60300 8) == 1) = true := by decide +kernel

/-- 19 R326: a round's rank that comes again changes nothing; of an ended round it gets the outcome again. -/
theorem test_combiner_again :
    gives (.combinerContribution 8 (frameHdr 0 0 0 0 4 2 0 1 1 0) [9, 0, 0, 0] false) { base with rounds := [halfRound] }
      (fun t => t.outbox.isEmpty && t.rounds == [halfRound]) = true ∧
    gives (.combinerContribution 8 (frameHdr 0 0 0 0 4 2 0 1 1 0) [9, 0, 0, 0] false) { base with rounds := [endedRound] }
      (fun t => t.outbox.length == 1 && t.rounds == [endedRound]) = true := by decide +kernel

/-- 19 R326: the second rank's contribution ends the round with the sum 11. -/
theorem test_combiner : gives (.combinerContribution 8 (frameHdr 0 0 0 0 4 2 1 1 1 0) [6, 0, 0, 0] false)
    { base with rounds := [halfRound] } (fun t => t.outbox.map (fun m => match m with
      | .frame _ _ y _ => leNat y
      | _ => 0) == [11, 11]) = true := by decide +kernel
/-! ## Witnesses: the matrix engine -/

/-- A B-load descriptor of one K group of 8 by 8 planes at address 0. -/
def loadDesc : Nat := 8 * 2 ^ 172 + 8 * 2 ^ 176 + 2 ^ 184

/-- A slot of the block, READY with that load. -/
def readySlot : BSlot := { BSlot.blank with st := .ready, owner := 1, desc := BitVec.ofNat 512 loadDesc }

/-- The base state with slots of core 0. -/
def withSlots (xs : List (Nat × BSlot)) (s : State) : State := s.setCoreAt 0 { s.coreAt 0 with bslots := ⟨xs⟩ }

/-- A second live block, which owns slot 2. -/
def foreign (s : State) : State :=
  withSlots [(2, { readySlot with owner := 2 })] (s.setBlockAt 2 { s.block with num := 1 })

/-- Quarter 0 of the warp, on slot 0, its tile at the start of the accumulator window. -/
def quarter : Quarter :=
  { id := 1, wkey := 0, uid := 1, block := 1, q := 0, acc := 0x200000, row0 := 0, zero := false, c := 0, pc := 0x10000,
    unfold := unfoldReset, unfoldLbl := 0, abase := 0, astr := 0, aLbl := 0, hb := [], seen := [], tiles := [], rows := [] }

/-- Its group, of name 2, with its plaintext. -/
def group : Group :=
  { id := 2, block := 1, slot := 0, g := 0, opened := 0, closed := false, launched := false, quarters := [quarter],
    desc := BitVec.ofNat 512 loadDesc, plain := some [], slotLbl := 0, scales := .empty, results := none }

/-- The base state with groups of core 0; names from 7 on are free. -/
def withGroups (gs : List Group) (s : State) : State :=
  { s.setCoreAt 0 { s.coreAt 0 with groups := gs } with nextId := 7 }

/-- The parameters of quarter 0 in V4: tile, row, group, slot. -/
def params (s : State) : State := inLanes 0xFF#32 (setV 4 0 0x200000 s)

theorem witness_MatrixInstructionsAct :
    (let s := withDesc 0 (loadDesc + 5 * 2 ^ 168) base
     let s := { s with part := .olL4 }
     s.Ready (.mldb false 1 2 3) ∧ DescribesOwn s ((s.sreg 1 + s.sreg 2).setWidth 32) 64 (descAt s) 0 ∧
      bMode (BitVec.ofNat 512 (descAt s)) = 5) ∧
    (let s := foreign (withDesc 0 loadDesc base)
     s.Ready (.mldb false 1 2 2) ∧ DescribesOwn s ((s.sreg 1 + s.sreg 2).setWidth 32) 64 (descAt s) 0 ∧
      bMalformed (BitVec.ofNat 512 (descAt s)) = false ∧ s.foreignSlot (s.bslotAt s.coreNo 2) = true ∧
      s.foreignSlot (s.bslotAt s.coreNo 3) = false ∧ (s.bslotAt s.coreNo 3).st ≠ .loading ∧ s.Ready (.mfree false 2)) ∧
    bMalformed (BitVec.ofNat 512 (loadDesc + 2 ^ 192 * 2 ^ 64)) = true ∧
    (let s := withGroups [group] (withSlots [(0, readySlot), (1, readySlot), (2, { readySlot with st := .loading })] base)
     s.Ready (.mfree false 0) ∧ (s.bslotAt s.coreNo 0).st ≠ .empty ∧ (s.bslotAt s.coreNo 0).owner = s.warp.block ∧
      (∃ g ∈ (s.coreAt s.coreNo).groups, g.slot = 0) ∧ (∀ g ∈ (s.coreAt s.coreNo).groups, g.slot ≠ 1) ∧
      (s.bslotAt s.coreNo 1).st ≠ .loading ∧ (s.bslotAt s.coreNo 2).st = .loading ∧
      (s.bslotAt s.coreNo 3).st = .empty) ∧
    (let s := inPad 0x80 (leBytes 16 unfoldReset.toNat) (addr 0x80)
     s.Ready (.munf false 1) ∧ DescribesOwn s ((s.sreg 1).setWidth 32) 16 (leNat (s.bytesAt (scratchKey 1 0x80) 16)) 0 ∧
      ufBad (BitVec.ofNat 128 (leNat (s.bytesAt (scratchKey 1 0x80) 16))) = false ∧ ufBad 0 = true) ∧
    (let s := setR 2 0xFFFF (addr 0x40)
     s.Ready (.mscaleA false 1 2) ∧ fieldOf (s.sreg 2) 16 48 = 0 ∧ ((s.sreg 1).setWidth 32).toNat % 4 = 0 ∧
      bitOf ((s.sreg 1).setWidth 32) 26 = false) ∧
    (fieldOf (0x10000#64) 16 48 ≠ 0 ∧ (0x41#32).toNat % 4 ≠ 0) ∧
    (let s := withSlots [(1, readySlot)] (setR 2 1 (addr 0x100))
     s.Ready (.mscaleB false 1 2) ∧ fieldOf (s.sreg 2) 2 62 = 0 ∧ (s.bslotAt s.coreNo 1).st ≠ .empty ∧
      (s.bslotAt s.coreNo 1).owner = s.warp.block ∧ (s.bslotAt s.coreNo 0).st = .empty ∧ ((s.sreg 1).setWidth 32).toNat % 4 = 0 ∧
      (s.checkSp s.warp.block ((s.sreg 1).setWidth 32) (256 * bKg (s.bslotAt s.coreNo 1).desc) true).key =
        some (scratchKey 1 0x100) ∧
      ∀ j < 256, s.heldBy (scratchKey 1 0x100 + j) = [] ∧ s.poisoned (scratchKey 1 0x100 + j) = false) ∧
    (let s := params (withSlots [(0, readySlot)] base)
     s.Ready (.mmq false 4) ∧ s.quarterFail 4 0 = none ∧ (s.bslotAt s.coreNo 0).st ≠ .poisoned ∧
      (s.coreAt s.coreNo).groups = [] ∧ s.rowsHeld 4 [0] = [] ∧ OwnNames s s.coreNo ∧
      (params base).Ready (.mmq false 4) ∧ (params base).quarterFail 4 0 = some 3) ∧
    (let s := params (withSlots [(0, { readySlot with st := .poisoned })] base)
     s.Ready (.mmq false 4) ∧ s.quarterFail 4 0 = none ∧ (s.bslotAt s.coreNo 0).st = .poisoned) ∧
    (let s := withSlots [(1, readySlot)] (setR 2 1 (addr 0x4000100))
     s.Ready (.mscaleB false 1 2) ∧ bitOf ((s.sreg 1).setWidth 32) 26 = true ∧ (0x4000100#32).toNat % 4 = 0 ∧
      (addr 0x102).Ready (.mscaleB false 1 2) ∧ ((addr 0x102).sreg 1).toNat % 4 ≠ 0) ∧
    ((∀ i ∈ [Instr.mstat false 3 false, .mstat false 3 true, .mchk false 3 false, .mchk false 3 true], base.Ready i) ∧
      base.passPending base.warp.uid = false) ∧
    ((∀ i ∈ [Instr.mstat false 3 true, .mchk false 3 false], (withGroups [group] base).Ready i) ∧
      (withGroups [group] base).passPending base.warp.uid = true) := by
  refine ⟨⟨ready_of ?_, ⟨?_, describes_of ?_⟩, ?_⟩, ⟨ready_of ?_, ⟨?_, describes_of ?_⟩, ?_, ?_, ?_, ?_, ready_of ?_⟩, ?_,
    ⟨ready_of ?_, ?_⟩, ⟨ready_of ?_, ⟨?_, describes_of ?_⟩, ?_⟩, ⟨ready_of ?_, ?_⟩, ?_, ⟨ready_of ?_, ?_⟩,
    ⟨ready_of ?_, ?_, ?_, ?_, ?_, ⟨?_, ?_⟩, ready_of ?_, ?_⟩, ⟨ready_of ?_, ?_⟩,
    ⟨ready_of ?_, ?_, ?_, ready_of ?_, ?_⟩, ⟨all_ready ?_, ?_⟩, ⟨all_ready ?_, ?_⟩⟩ <;> decide +kernel

/-- 15 R261: the quarter is handed to the engine under its slot and K group. -/
theorem test_mmq : gives (.mmq false 4) (params (withSlots [(0, readySlot)] base)) (fun t =>
    (t.coreAt 0).groups.map (fun g => (g.slot, g.g, g.quarters.map Quarter.acc)) == [(0, 0, [0x200000])]) = true := by
  decide +kernel

/-- The rows of a quarter lie in memory that nothing has poisoned. -/
theorem rowsReady_of {s : State} {g : Group} {q : Quarter}
    (ha : ((List.range 8).all fun i => (match sliceAddr q.unfold (groupBytes g.desc) (q.row0 + i) (bG0 g.desc + g.g) with
      | some o => (List.range (groupBytes g.desc)).all fun j => !s.poisoned (scratchKey q.block o + j)
      | none => true) && match scaleAddr q.unfold g.desc q.abase q.astr (q.row0 + i) (bG0 g.desc + g.g) with
        | some o => !s.poisoned (scratchKey q.block o)
        | none => true) = true) : RowsReady s g q := by
  intro i hi o
  have h := List.all_eq_true.mp ha i (List.mem_range.mpr hi)
  rw [Bool.and_eq_true] at h
  constructor <;> intro ho
  · have h1 := h.1
    rw [ho] at h1
    exact fun j hj => by simpa using List.all_eq_true.mp h1 j (List.mem_range.mpr hj)
  · have h2 := h.2
    rw [ho] at h2
    simpa using h2

/-- A launched pass, and one that has its results. -/
def launched : Group := { group with launched := true }
/-- One update element, -5. -/
def computed : Group := { launched with results := some [⟨[[-5]], 0, 0⟩] }

/-- A slot that loads from a page without a tensor mark. -/
def loadingSlot (n : Nat) : State := withSlots [(0, { readySlot with st := .loading, desc := BitVec.ofNat 512 n })] base

theorem rows_of_launched : RowsReady (withGroups [launched] base) launched quarter :=
  rowsReady_of (by decide +kernel)

theorem witness_MatrixPassesCompute :
    (((loadingSlot 0).bslotAt 0 0).st = .loading ∧
      (portLoad 0 0 (bLoad ((loadingSlot 0).bslotAt 0 0).desc) [] (loadingSlot 0)).1.1 = some []) ∧
    (let s := loadingSlot (loadDesc + 0x10000)
     (s.bslotAt 0 0).st = .loading ∧ (portLoad 0 0 (bLoad (s.bslotAt 0 0).desc) [] s).1 = (none, none, none) ∧
      (s.bslotAt 0 0).freeing = false ∧ (s.coreAt 0).groups = []) ∧
    (OwnNames { withGroups [group] base with cycle := 4 } 0 ∧ group.launched = false ∧ group.plain.isSome = true ∧
      group.opened + 4 ≤ 4) ∧
    (((withGroups [launched] base).coreAt 0).groups.find? (fun y => y.launched && y.results.isNone) = some launched ∧
      launched.quarters ≠ [] ∧ RowsReady (withGroups [launched] base) launched quarter) ∧
    (((withGroups [computed] base).coreAt 0).groups.find? (fun y => y.id = 2) = some computed ∧
      (withGroups [computed] base).drainWaits 0 quarter = false ∧
      quarter.acc + 64 * (8 * accBytesOf computed.desc) ≤ 2 ^ 48) :=
  ⟨by decide +kernel, by decide +kernel, ⟨⟨by decide +kernel, by decide +kernel⟩, by decide +kernel⟩,
    ⟨by decide +kernel, by decide +kernel, rows_of_launched⟩, by decide +kernel⟩

/-- 14 R238: an accumulator of 32 bits takes the update -5 in two's complement, and stops at its largest value. -/
theorem test_accumulate : accumulate (BitVec.ofNat 512 loadDesc) false 0 [-5] = (0xFFFFFFFB, 0#8) ∧
    accumulate (BitVec.ofNat 512 loadDesc) false 0x7FFFFFFF [1] = (0x7FFFFFFF, mxSat) := by decide +kernel

/-- 14 R234, 06 R126: with 8 planes, plane 0 carries the sign: 0b1000_0001 is -127. -/
theorem test_planes : npVal 8 (fun j => if j = 0 ∨ j = 7 then 1 else 0) 0 = -127 := by decide +kernel
/-! ## Witnesses: privileged instructions -/

/-- A privileged warp of a privileged launch, over a page that only it may touch. -/
def privd (s : State) : State :=
  let s := inMem 0x50010 (leBytes 16 (openLeaf + 8)) (onSplit (fun x => { x with priv := true }) s)
  s.setLaunchAt 1 { s.launchAt 1 with hdr := (s.launchAt 1).hdr ||| BitVec.ofNat 1024 (2 ^ 280) }

/-- An extent of kind 3: page 6. -/
def page6 : Nat := 0x60000 + 1 * 2 ^ 64 + 3 * 2 ^ 124

/-- An extent of kind 1: core 3. -/
def core3 : Nat := 3 * 2 ^ 96 + 2 ^ 124

/-- A scrub descriptor of the first extent. -/
def scrubDesc : List Byte := leBytes 64 (2 ^ 256) ++ leBytes 16 page6

/-- A state with scrub jobs. -/
def withJobs (js : List (Nat × Job)) (s : State) : State := { s with tack := { s.tack with jobs := ⟨js⟩ } }

/-- A warp with the address of that descriptor in S1. -/
def scrubbing : State := inMem 0x60100 scrubDesc (privd (addr 0x10100))

/-- A warp with the address of an extent in S1, and an operand in S2. -/
def assigning (v : Word) (e : Nat) : State := inMem 0x60100 (leBytes 16 e) (privd (setR 2 v (addr 0x10100)))

/-- What a virtual address reads as. -/
theorem reads_of {s : State} {va : Word} {n : Nat} {bs : List Byte} (hl : bs.length = n) (hh : s.hist.bytes.entries = [])
    (ha : ((List.range (n / 8)).all fun i => match s.memChk .load (va + BitVec.ofNat 64 (8 * i)) 8 with
      | .ok k _ => (s.heldBy k == []) && !s.poisoned k && ((bs.drop (8 * i)).take 8 == s.bytesAt k 8)
      | _ => false) = true) : ReadsVirtual s va n bs := by
  refine ⟨hl, fun i hi => ?_⟩
  have h := List.all_eq_true.mp ha i (List.mem_range.mpr hi)
  split at h
  · rename_i k ceil hk
    simp only [Bool.and_eq_true, beq_iff_eq, Bool.not_eq_true'] at h
    exact ⟨k, ceil, hk, h.1.1, h.1.2, fun ys ⟨_, _, hp⟩ => (picks_unwritten (unwritten_of hh) hp).trans h.2.symm⟩
  · cases h

/-- B slot 0 of core 0 loads under weight key slot 2, with S1 = 2 and S2 = 1. -/
def portBusy : State :=
  let s := (privd (setR 2 1 (addr 2))).setKeySlot 2 ⟨true, 1, 0, 0, false, 0, 0⟩
  s.setBslotAt 0 0 { BSlot.blank with st := .loading, owner := 1, desc := BitVec.ofNat 512 (2 * 2 ^ 160) }

theorem witness_PrivilegedInstructionsAct :
    (let s := privd (addr 0x10000)
     (∀ i ∈ [Instr.tlbinv false 1 2 .dev, .cinv false 1 2 .llc], s.Ready i) ∧ bitOf (s.sreg 1) 63 = false ∧
      s.byIndex s.ctx.pav (fieldOf (s.sreg 1) 57 6) = some 0 ∧ fieldOf (s.sreg 1) 0 57 % 2 ^ 16 = 0 ∧ (s.sreg 2).toNat % 2 ^ 16 = 0) ∧
    (let s := privd (addr (2 ^ 63))
     s.Ready (.tlbinv false 1 2 .core) ∧ bitOf (s.sreg 1) 63 = true) ∧
    (let s := privd (setR 2 255 (addr 1))
     s.Ready (.kzero false 1 2) ∧ (s.sreg 2).toNat ≠ 0 ∧ (s.sreg 1).toNat + (s.sreg 2).toNat ≤ 256 ∧ (s.sreg 1).toNat ≠ 0 ∧
      (∀ k < 256, (s.keySlot k).used = true → (s.keySlot k).pav = s.ctx.pav) ∧ s.slotsBusy 1 255 s.nextId = false) ∧
    (portBusy.Ready (.kzero false 1 2) ∧ portBusy.sreg 1 = 2 ∧ portBusy.sreg 2 = 1 ∧ portBusy.slotsBusy 2 1 portBusy.nextId = true ∧
      ∀ k < 256, (portBusy.keySlot k).used = true → (portBusy.keySlot k).pav = portBusy.ctx.pav) ∧
    (let s := privd (addr 0)
     s.Ready (.kzero false 1 2) ∧ (s.sreg 2).toNat = 0 ∧ (setR 2 1 s).Ready (.kzero false 1 2) ∧ ((setR 2 1 s).sreg 1).toNat = 0) ∧
    ((privd (addr 1)).Ready (.kstat false 3 1) ∧ ((privd (addr 1)).keySlot 1).kind < 8 ∧ ((privd (addr 1)).keySlot 1).ctx < 256 ∧
      ((privd (addr 1)).keySlot 1).svn < 2 ^ 16) ∧
    ((privd (addr 0x10F)).Ready (.kstat false 3 1) ∧ ((privd (addr 0x10F)).job 15).ckpt < 2 ^ 40) ∧
    (privd (addr 0x110)).Ready (.kstat false 3 1) ∧
    (scrubbing.Ready (.scrub false 3 1) ∧ (scrubbing.sreg 1).toNat % 64 = 0 ∧ fieldOf (jobHeader scrubDesc) 256 8 = 1 ∧
      ReadsVirtual scrubbing (scrubbing.sreg 1) 80 scrubDesc ∧ scrubbing.privPages (scrubbing.sreg 1) 80 = true ∧
      headerBad (jobHeader scrubDesc) = false ∧
      jobExtents scrubDesc = [BitVec.ofNat 128 page6] ∧ extBad (BitVec.ofNat 128 page6) = false ∧
      scrubbing.extReach scrubbing.ctx.pav (BitVec.ofNat 128 page6) = true ∧ (∀ j < 16, (scrubbing.job j).st = .free) ∧
      scrubbing.scrubbing (BitVec.ofNat 128 page6) = false) ∧
    (inMem 0x50010 (leBytes 16 openLeaf) scrubbing).privPages 0x10100 80 = false ∧
    headerBad (jobHeader (leBytes 64 (2 ^ 256 + 1))) = true ∧
    (let s := withJobs [(2, { Job.blank with st := .held, digest := sha3_384 scrubDesc })] scrubbing
     (s.job 2).st = .held ∧ (s.job 2).digest = sha3_384 scrubDesc ∧ ∀ k < 2, (s.job k).st ≠ .held) ∧
    (let s := withJobs [(2, { Job.blank with st := .run, desc := scrubDesc })] scrubbing
     (∀ j < 16, (s.job j).st ≠ .held) ∧ s.scrubbing (BitVec.ofNat 128 page6) = true) ∧
    (let s := withJobs ((List.range 16).map fun j => (j, { Job.blank with st := .run })) scrubbing
     (∀ j < 16, (s.job j).st ≠ .free ∧ (s.job j).st ≠ .done) ∧ s.scrubbing (BitVec.ofNat 128 page6) = false) ∧
    (let e := page6
     let s := assigning 0 e
     s.Ready (.cassign false 3 1 2) ∧ (s.sreg 1).toNat % 16 = 0 ∧ ReadsVirtual s (s.sreg 1) 16 (leBytes 16 e) ∧
      fieldOf (s.sreg 2) 9 55 = 0 ∧ extBad (BitVec.ofNat 128 e) = false ∧ s.extReach s.ctx.pav (BitVec.ofNat 128 e) = true ∧
      bitOf (s.sreg 2) 8 = false ∧ (s.ctxAt 0).live = true ∧ (s.ctxAt 0).pav = s.ctx.pav ∧ (s.ctxAt 5).live = false ∧
      s.scrubbing (BitVec.ofNat 128 e) = false ∧ s.resourceInUse (BitVec.ofNat 128 e) (some 0) = false ∧
      s.resourceInUse (BitVec.ofNat 128 e) none = true ∧
      (withJobs [(2, { Job.blank with st := .run, desc := scrubDesc })] s).scrubbing (BitVec.ofNat 128 e) = true ∧
      s.extReach s.ctx.pav (BitVec.ofNat 128 (e + 0x10000)) = false ∧ extBad 0 = true) ∧
    (let s := assigning 0 core3
     let e := BitVec.ofNat 128 core3
     s.Ready (.cassign false 3 1 2) ∧ ReadsVirtual s (s.sreg 1) 16 (leBytes 16 core3) ∧ extBad e = false ∧ extKind e = 1 ∧
      s.extReach s.ctx.pav e = true ∧ s.scrubbing e = false ∧ s.resourceInUse e (some 0) = false ∧
      ∀ g ∈ s.gangsOn (extCore e / 4), g.2.ctx = 0) ∧
    (let s := withJobs [(3, { Job.blank with st := .run, desc := leBytes 64 (2 ^ 256) ++ leBytes 16 (2 ^ 124) })] base
     chunkAt (jobExtents (s.job 3).desc) 0 = some (BitVec.ofNat 128 (2 ^ 124), 0) ∧ (s.warpAt (32 * 0 + 0)).st ≠ .free) ∧
    (let s := withJobs [(3, { Job.blank with st := .run, desc := scrubDesc })] base
     (s.job 3).st = .run ∧ (s.job 3).issuer = none ∧
      chunkAt (jobExtents (s.job 3).desc) (s.job 3).ckpt = some (BitVec.ofNat 128 page6, 0)) := by
  refine ⟨⟨all_ready ?_, ?_⟩, ⟨ready_of ?_, ?_⟩, ⟨ready_of ?_, ?_⟩, ⟨ready_of ?_, ?_⟩, ⟨ready_of ?_, ?_, ready_of ?_, ?_⟩,
    ⟨ready_of ?_, ?_⟩, ⟨ready_of ?_, ?_⟩, ready_of ?_, ⟨ready_of ?_, ?_, ?_, reads_of ?_ ?_ ?_, ?_⟩, ?_, ?_, ⟨?_, rfl, ?_⟩, ?_, ?_,
    ⟨ready_of ?_, ?_, reads_of ?_ ?_ ?_, ?_⟩, ⟨ready_of ?_, reads_of ?_ ?_ ?_, ?_⟩, ?_, ?_⟩ <;>
    decide +kernel

/-- 20 R350: a word of kind 2, context 0, version 0 in use. 20 R356: the page goes to the pool. -/
theorem test_kstat_cassign : after (.kstat false 3 1) (privd (addr 1)) 3 = some 0xA000000000000000#64 ∧
    gives (.cassign false 3 1 2) (inMem 0x60100 (leBytes 16 (0x70000 + 1 * 2 ^ 64 + 3 * 2 ^ 124)) (onPhys (fun p =>
      { p with owners := p.owners.set .unowned 7 (.gone 0) }) (privd (setR 2 0x100 (addr 0x10100))))) (fun t =>
      t.sreg 3 == 0 && t.phys.owners.get .unowned 7 == .pool 0) = true := by decide +kernel

/-! ## Witnesses: faults, hangs, the refusal log -/

/-- A parked warp with one fault pending, one cycle past its context's fault timeout. -/
def parked : State :=
  let s := onCtx (fun c => { c with faultTmo := 1 }) (onWarp (fun w => { w with st := .park }) (hosted base))
  { s with faults := [⟨4, 0, 2, 0, .warp 0 1 0, 0, false, false⟩], cycle := 2 ^ 16 + 1 }

/-- The body of a FAULTREPLY for page 2. -/
def replyBody (n : Nat) : List Byte := leBytes 8 0x20000 ++ leBytes 8 n

/-- A warp that has waited at a barrier for 2^16 cycles, in a context that counts them as a hang. -/
def hung : State :=
  let s := onSplit (fun x => { x with st := .swait (.bar 3 0) }) base
  { onCtx (fun c => { c with hangThr := 1, handler := 0x40000 }) s with cycle := 2 ^ 16 }

theorem witness_FaultsAndHangsEnd :
    (let f : PFault := ⟨4, 0, 2, 0, .warp 0 1 0, 0, false, false⟩
     (parked.faults.find? fun x => x.tag = f.tag && !x.ok && !x.no) = some f ∧ (parked.warpAt 0).uid = 1 ∧
      (parked.warpAt 0).st = .park ∧ (parked.ctxAt 0).faultTmo ≠ 0 ∧ 0 + (parked.ctxAt 0).faultTmo * 2 ^ 16 < parked.cycle) ∧
    (Serves parked 52 (hdr 10 0 0 4 16) (replyBody 1) 10 ∧ (replyBody 1).length = 16 ∧ zeros (replyBody 1) 9 7 = true ∧
      (parked.faults.find? fun x => x.ctx = 0 && x.tag = (hTag (hdr 10 0 0 4 16)).toNat &&
        x.page * 2 ^ 16 = bodyAt (replyBody 1) 0 8 && !x.ok && !x.no) = some ⟨4, 0, 2, 0, .warp 0 1 0, 0, false, false⟩ ∧
      (parked.ctxAt 0).overBudget 2 64 = false ∧ bodyAt (replyBody 1) 8 1 = 1 ∧ bodyAt (replyBody 2) 8 1 = 2) ∧
    (hung.warpsIn 0 = [(0, hung.warp)] ∧ hung.warp.liveSplits = [(0, hung.split)] ∧ hung.split.waiting = true ∧
      hung.split.eh = false ∧ (hung.ctxAt 0).handler ≠ 0 ∧ hung.hangCounter 0 = some (2 ^ 16) ∧ (hung.ctxAt 0).live = true ∧
      (hung.ctxAt 0).hangThr ≠ 0 ∧ (hung.ctxAt 0).hangThr * 2 ^ 16 ≤ 2 ^ 16) ∧
    (let s := hosted (base.setPavAt 0 { Pav.reset with log := [7] })
     (s.pavAt 0).log ≠ [] ∧ s.hasRuntime 0 = true ∧ (s.pavAt 0).logSince + 2 ^ 20 ≤ { s with cycle := 2 ^ 20 : State }.cycle) :=
  ⟨by decide +kernel, ⟨serves_of (by decide +kernel), by decide +kernel⟩, by decide +kernel, by decide +kernel⟩

/-- 16 R278: the split takes trap HANG, cause 14, with its wait's kind. -/
theorem test_hang : gives (.hangDetect 0) hung (fun t => t.split.ecause == 14 && t.split.einfo == 1 && t.split.pc == 0x40000) =
    true := by decide +kernel
/-! ## Witnesses: launches and audits -/

/-- PVCFG of Pavilion 0: enabled, clusters 0 and 1, lending and borrowing. -/
def cfg0 : Word := 0x0010_1004_0700_0100#64

/-- A machine with Pavilion 0 over clusters 0 and 1 and context 0 of weight 1, quantum 1 and 4 gangs, which holds the
quantum. -/
def served (s : State) : State :=
  let s := onCtx (fun c => { c with sched := BitVec.ofNat 64 (1 + 1 * 2 ^ 8 + 15 * 2 ^ 44 + 4 * 2 ^ 48) }) (hosted s)
  s.setPavAt 0 { Pav.reset with cfg := cfg0, holder := some 0, qlen := some 1024 }

/-- The same with no gang, and launch 1 as given at the head of queue 0. -/
def queued (f : Launch → Launch) : State :=
  let s := { served base with warps := .empty, blocks := .empty, gangs := .empty }
  let s := s.setLaunchAt 1 (f { s.launchAt 1 with ready := false, started := false, liveGangs := 0, nextGang := 0 })
  onCtx (fun c => { c with queues := ⟨[(0, ⟨[.launch 1], 0, []⟩)]⟩ }) s

/-- The launch started. -/
def started : State := queued fun l => { l with ready := true, started := true }

/-- A run of block 0. -/
def run (core d : Nat) : AuditRun := ⟨0, core, 0, BitVec.ofNat 64 d, 0, true⟩

/-- The launch ended, with the audit of block 0 pending after some runs. -/
def audited (rs : List AuditRun) : State := onCtx (fun c => { c with queues := .empty })
  (queued fun l => { l with ready := true, started := true, ended := true, nextGang := 1, pending := [0], selected := [0], runs := rs })

/-- Pavilion 0 disabled. -/
def closed (s : State) : State := s.setPavAt 0 { s.pavAt 0 with cfg := 0 }

theorem witness_LaunchesAndAuditsRun :
    (let s := queued id
     (s.ctxAt 0).live = true ∧ (s.ctxAt 0).held = false ∧ (s.queueAt 0 0).cmds = [.launch 1] ∧ (s.launchAt 1).ready = false ∧
      (s.launchAt 1).waits = []) ∧
    (let s := queued fun l => { l with waits := [(0x10100, 5)] }
     (s.launchAt 1).waits = [(0x10100, 5)] ∧ s.sigChk 0 (.queue 0 0) .load 0x10100 = .ok 0x60100 0xFFFF#16 ∧
      s.hist.bytes.entries = []) ∧
    (let l := (queued fun l => { l with ready := true }).launchAt 1
     l.known = true ∧ l.ready = true ∧ l.started = false ∧ l.ended = false) ∧
    (let u := started.settleClusters
     let l := u.launchAt 1
     l.toDispatch = true ∧ l.discarded = [] ∧ 0 = l.nextGang ∧ 0 < l.gangs ∧ (u.ctxAt l.ctx).held = false ∧
      u.clusterFor 0 l.ctx 0 = true ∧ u.mayFill 0 l.ctx 0 = true ∧ (u.gangsOf l.ctx).length < (u.ctxAt l.ctx).saveg ∧
      u.dispatchTurn 1 = true ∧ u.place 0 1 ((l.gangBlocks 0).map Prod.snd) = some [(0, 0)] ∧ l.gangBlocks 0 = [(0, 0)] ∧
      l.w1 = 0 ∧ l.lanes 0 0 ≠ 0 ∧ u.freeSlot 0 = some 0) ∧
    (let s := queued fun l => { l with ready := true, started := true, nextGang := 1 }
     let l := s.launchAt 1
     l.known = true ∧ l.started = true ∧ l.ended = false ∧ l.gangs ≤ l.nextGang ∧ l.discarded = [] ∧ l.liveGangs = 0 ∧
      s.ops = [] ∧ (s.queueAt l.ctx l.queue).cmds = [.launch 1] ∧ l.cmpl = none ∧ s.leaving l.ctx = none ∧
      (s.pavAt (s.ctxAt l.ctx).pav).image = none) ∧
    (let s := audited [run 0 7]
     let l := s.launchAt 1
     l.ended = true ∧ l.closed = false ∧ 0 ∈ l.pending ∧ s.auditing 1 0 = false ∧ l.runsOf 0 = [run 0 7] ∧
      (closed s).auditCores 0 [run 0 7] = [] ∧ 5 ∈ s.auditCores 0 [run 0 7] ∧ (s.ctxAt l.ctx).held = false ∧
      s.clusterFor 0 l.ctx (5 / 4) = true ∧ s.mayFill 0 l.ctx (5 / 4) = true ∧ 1 ≤ s.room 5 1 ∧ s.savedGangs l.ctx = [] ∧
      (s.gangsOf l.ctx).length < (s.ctxAt l.ctx).saveg ∧ s.readyLaunches l.ctx = []) ∧
    (let l := (audited [run 0 7, run 5 7]).launchAt 1
     0 ∈ l.pending ∧ l.runsOf 0 = [run 0 7, run 5 7] ∧ (run 0 7).agrees (run 5 7) = true ∧ (run 0 7).agrees (run 5 8) = false ∧
      (closed (audited [run 0 7, run 5 8])).auditCores 0 [run 0 7, run 5 8] = []) ∧
    (let s := audited [run 0 7, run 5 8, run 6 7]
     0 ∈ (s.launchAt 1).pending ∧ (s.launchAt 1).runsOf 0 = [run 0 7, run 5 8, run 6 7] ∧ (run 6 7).agrees (run 5 8) = false ∧
      (run 6 7).agrees (run 0 7) = true ∧ (run 6 8).agrees (run 5 8) = true ∧ (run 6 9).agrees (run 5 8) = false ∧
      (run 6 9).agrees (run 0 7) = false ∧ (run 0 7).core ≠ (run 5 8).core ∧ (run 6 7).core ≠ (run 5 8).core ∧
      (run 6 7).core ≠ (run 0 7).core ∧ (∀ n ∈ [0, 5, 6], (s.coreAt n).susp.toNat + 16 < s.phys.threshold) ∧ (s.coreAt 5).susp.toNat + 16 < s.phys.threshold ∧ s.phys.threshold ≤ 255) := by
  refine ⟨?_, ?_, ?_, ?_, ?_, ?_, ?_, ?_⟩ <;> decide +kernel

/-- 17 R300, 05 R94: the gang goes to core 0 of cluster 0; its one warp has 32 lanes at the launch's entry. -/
theorem test_dispatch : gives (.gangDispatch 1 0 0) started (fun t =>
    ((t.warpAt 0).split 0).exec == 0xFFFFFFFF#32 && ((t.warpAt 0).split 0).pc == 0x10000 && (t.launchAt 1).liveGangs == 1) = true := by
  decide +kernel

/-- 16 R288: the core of the minority gains 16 points. -/
theorem test_vote : gives (.auditCompare 1 0) (audited [run 0 7, run 5 8, run 6 7]) (fun t =>
    (t.coreAt 5).susp == 16 && (t.coreAt 0).susp == 0 && (t.launchAt 1).passed == 1) = true := by decide +kernel

/-! ## Witnesses: gangs, quanta and clusters -/

/-- The gang on its cluster, the holder's quantum used up. -/
def held : State := { served base with cycle := 2000 }

/-- Its warp stopped at a safe point with no register live, in a gang that is being saved. -/
def stopping (s : State) : State :=
  let s := onSplit (fun x => { x with safe := some 0 }) s
  s.setGangAt 1 { s.gangAt 1 with preempt := some (0, 100) }

/-- A drain of context 0 on cluster 0, due. -/
def draining (s : State) : State := s.setClusterAt 0 { Cluster.reset with pre := [⟨0, [1], 1000, true, none⟩] }

/-- The launch marked restartable. -/
def rstrt (s : State) : State :=
  s.setLaunchAt 1 { s.launchAt 1 with hdr := (s.launchAt 1).hdr ||| BitVec.ofNat 1024 (2 ^ 279) }

/-- The gang saved, with its warp. -/
def saved : State :=
  let s := { held with warps := .empty }
  s.setGangAt 1 { s.gangAt 1 with saved := true, warps := [(0, { base.warp with st := .saved })] }

/-- Pavilion 1 over cluster 2, and a context 1 of it with a launch ready. -/
def neighbour (s : State) : State :=
  let s := s.setPavAt 1 { Pav.reset with cfg := 0x0010_1004_0700_0202#64 }
  let s := s.setCtxAt 1 { Ctx.blank with live := true, pav := 1, sched := BitVec.ofNat 64 (1 + 4 * 2 ^ 48),
                                         queues := ⟨[(0, ⟨[.launch 9], 0, []⟩)]⟩ }
  s.setLaunchAt 9 { s.launchAt 1 with ctx := 1, nextGang := 0, liveGangs := 0 }

/-- A warp of two splits of 16 lanes. -/
def twoSplits : State := onWarp (fun w =>
  (w.setSplit 0 { w.split 0 with exec := 0xFFFF#32 }).setSplit 1 { w.split 0 with exec := 0xFFFF0000#32 }) base

/-- No gang on any cluster, at cycle 2^18. -/
def idle : State := { served base with gangs := .empty, blocks := .empty, warps := .empty, cycle := 2 ^ 18 }

theorem witness_GangsAreScheduled :
    (let u := (queued fun l => { l with ready := true }).settleClusters.refreshIdle 0
     let u := { u with cycle := 2000 }
     (u.settleClusters.refreshIdle 0).quantumDue 0 = true ∧ (chargeQuantum 0 (u.settleClusters.refreshIdle 0)).nextHolder 0 = some 0 ∧
      ((u.settleClusters.refreshIdle 0).pavAt 0).holder = some 0 ∧ ((u.settleClusters.refreshIdle 0).ctxAt 0).weight ≠ 0 ∧
      ((u.settleClusters.refreshIdle 0).pavAt 0).qlen.isSome = true) ∧
    (let u := ({ queued (fun l => { l with ready := true, started := true, nextGang := 1 }) with cycle := 2000 } :
        State).settleClusters.refreshIdle 0
     u.quantumDue 0 = true ∧ (u.pavAt 0).holder = some 0 ∧ (chargeQuantum 0 u).nextHolder 0 = none) ∧
    (let u := (draining held).settleClusters
     (u.clusterAt 0).pre = [⟨0, [1], 1000, true, none⟩] ∧ 1000 ≤ u.cycle ∧
      (u.gangsOn 0).filter (fun e => [1].contains e.1) = [(1, u.gangAt 1)] ∧ (u.gangAt 1).preempt = none ∧ u.mayDiscard 1 = false) ∧
    (let u := (draining (rstrt held)).settleClusters
     (∀ b ∈ (u.gangAt 1).blocks, (u.blockAt b).audit = false ∧ (u.blockAt b).noDiscard = false) ∧
      (u.launchAt (u.gangAt 1).lseq).rstrt = true ∧ u.inKzero (u.gangAt 1).blocks = false ∧ (u.clusterAt 0).pre = [⟨0, [1], 1000, true, none⟩]) ∧
    (let s := { stopping twoSplits with cycle := 4096 }
     let k := s.warpAt 0
     (s.gangAt (s.blockAt k.block).gang).preempt = some (0, 100) ∧ max (k.split 0).last 0 + 4096 ≤ s.cycle ∧ k.st = .run ∧
      (k.split 0).st = .ready ∧ (k.split 0).safe.isSome = true ∧ (1, k.split 1) ∈ k.liveSplits ∧ (k.split 1).safe = none ∧
      s.stopMask 0 (k.split 1) = none) ∧
    (stopping held).canSave 1 = true ∧
    (let s := { (stopping held).setWarp base.warp with cycle := 2 ^ 26 + 100 }
     (s.gangAt 1).preempt = some (0, 100) ∧ 100 + 2 ^ 26 ≤ s.cycle ∧ (s.gangAt 1).blocks = [1] ∧ s.warpKeys [1] = [0] ∧
      (s.blockAt 1).live = true ∧ (s.blockAt 1).gang = 1 ∧ s.binsOf 1 = [] ∧ (s.blockAt 1).objs = [] ∧ (s.warpAt 0).st = .run ∧
      (s.warpAt 0).block = 1 ∧ s.stoppedAll 0 = false) ∧
    (let u := saved.settleClusters
     let x := u.gangAt 1
     x.live = true ∧ x.saved = true ∧ (u.ctxAt x.ctx).held = false ∧ u.clusterFor 0 x.ctx 0 = true ∧ u.mayFill 0 x.ctx 0 = true ∧
      (∀ y ∈ u.savedGangs x.ctx, savedBefore y.2 x = false) ∧ u.place 0 x.lseq x.blocks = some [(1, 0)] ∧
      u.fits x [(1, 0)] = true ∧ x.blocks.Nodup ∧ x.warps = [(0, { base.warp with st := .saved })] ∧ u.freeSlot 0 = some 0) ∧
    (let u := (neighbour idle).settleClusters
     u.lender 0 = some 0 ∧ (u.pavAt 0).lend = true ∧ fieldOf (u.pavAt 0).cfg 32 8 ≠ 0 ∧ (u.clusterAt 0).lent = none ∧
      (u.clusterAt 0).quar = false ∧ u.gangsOn 0 = [] ∧
      (u.clusterAt 0).idleSince + fieldOf (u.pavAt 0).cfg 32 8 * 2 ^ 16 ≤ u.cycle ∧ u.partWaiting 0 = false ∧
      (turnsFrom 0).find? (fun q => (u.pavAt q).en && (u.pavAt q).borrow && u.partWaiting q) = some 1) ∧
    (let s := (neighbour idle).setClusterAt 2 { Cluster.reset with lent := some 0 }
     let u := s.settleClusters
     u.lender 2 = some 1 ∧ (u.clusterAt 2).lent = some 0 ∧ (u.clusterAt 2).reclaim = false ∧ u.partWaiting 1 = true ∧
      ∀ j < u.part.clusters, u.ownsCluster 1 j = true → (u.clusterAt j).lent = none → (u.clusterAt j).quar = false →
        u.gangsOn j ≠ []) := by
  refine ⟨?_, ?_, ?_, ?_, ?_, ?_, ?_, ?_, ?_, ?_⟩ <;> decide +kernel

/-- 17 R296: the holder is charged 1024 cycles over weight 1, with 16 fraction bits. -/
theorem test_quantum : gives (.quantumExpiry 0) ({ queued (fun l => { l with ready := true }) with cycle := 2000 }) (fun t =>
    (t.ctxAt 0).vt == 1024 * 65536 && (t.pavAt 0).qstart == 2000) = true := by decide +kernel
/-! ## Witnesses: the host's commands -/

/-- The base state served by the host, over a leaf that lets data be read and written. -/
def front : State := let s := served plain; s.setPavAt 0 { s.pavAt 0 with code := some ⟨[], 0, []⟩ }

/-- A LAUNCH body: a header of 128 bytes, and nothing else. -/
def launchBody (h : BitVec 1024) : List Byte := leBytes 128 h.toNat ++ leBytes 216 0

/-- The body of two or three words. -/
def words (ws : List Nat) : List Byte := (ws.map (leBytes 8)).flatten

theorem witness_HostCommandsAct :
    ((0 : Nat) < 16 ∧ front.sessionsOf 0 < 64 ∧ (front.pavAt 0).enabled = true ∧ (front.pavAt 0).en = true ∧
      State.reset.hasRuntime 0 = false ∧ State.reset.sessionsOf 0 < 64) ∧
    (let h := (base.launchAt 1).hdr
     let audit := h ||| BitVec.ofNat 1024 (2 ^ 272)
     Serves front 52 (hdr 1 0 0 7 4) (leBytes 4 0) 1 ∧ launchBodyBad (leBytes 4 0) = true ∧
     Serves front 52 (hdr 1 0 0 7 344) (launchBody h) 1 ∧ Serves { front with part := .olL4 } 52 (hdr 1 0 0 7 344) (launchBody audit) 1 ∧
     launchBodyBad (launchBody h) = false ∧ launchBodyBad (launchBody audit) = false ∧ fieldOf audit 272 6 ≠ 0 ∧
     BitVec.ofNat 1024 (bodyAt (launchBody audit) 0 128) = audit ∧ front.part = .olX8 ∧ launchBad audit false = true ∧
     launchBad h false = false ∧ (front.queueAt 0 0).cmds = [] ∧ bodyAt (launchBody h) 0x80 1 = 0) ∧
    (let b := words [0x10100, 0x10200, 16]
     Serves front 52 (hdr 2 0 0 7 24) b 2 ∧ b.length = 24 ∧ front.hostCopyOf 0 0 = none ∧
      bodyAt b 16 8 ≠ 0 ∧ Serves front 52 (hdr 2 0 0 7 24) (words [0x10100, 0x10200, 0]) 2) ∧
    (let b := words [0x10100, 1, 5]
     Serves front 52 (hdr 3 0 0 7 24) b 3 ∧ b.length = 24 ∧ bodyAt b 8 1 ≤ 1 ∧ zeros b 9 7 = true ∧ sigBad (bodyAt b 0 8) = false ∧
      front.faults = [] ∧ front.checkVa farCore 0 true false [] .store 0x10100 = .ok 0x60100 0xFFFF#16 ∧
      front.hist.bytes.entries = [] ∧ front.hist.ao.get none 0x60100 = none) ∧
    (let s := inMem 0x60100 [6] front
     let b (n : Nat) := words [0x10100, n]
     Serves s 52 (hdr 4 0 0 7 16) (b 6) 4 ∧ Serves s 52 (hdr 4 0 0 7 16) (b 7) 4 ∧ sigBad (bodyAt (b 6) 0 8) = false ∧
      s.checkVa farCore 0 true false [] .load 0x10100 = .ok 0x60100 0xFFFF#16 ∧ leNat (s.bytesAt 0x60100 8) = 6 ∧ s.faults = [] ∧
      (s.queueAt 0 0).cmds = [] ∧ s.hist.bytes.entries = []) ∧
    (Serves front 52 (hdr 5 0 0 7 0) [] 5 ∧ (front.queueAt 0 0).cmds = []) ∧
    (front.rmaCtx 52 = some 0 ∧ (front.ctxAt 0).overBudget 0 16 = false ∧ (front.ctxAt 0).overBudget 1 16 = false ∧
      front.rmaChks 0 .load 0x10100 8 = [((0, 8), .ok 0x60100 0xFFFF#16)] ∧ front.granLbl 0x60100 = 0 ∧
      front.hist.bytes.entries = [] ∧
      ({ front with phys := { front.phys with grans := front.phys.grans.set Gran.initial 0x1804 ⟨1, false⟩ } } : State).granLbl
        0x60100 ≠ 0) ∧
    (let s := onCtx (fun c => { c with budget := [0, 1, 0], spent := [0, 4096, 0] }) front
     Arrives s 52 (hdr 1 0 0 7 4) (leBytes 4 0) 1 ∧ s.serves (s.session 52) 0 = true ∧ (s.ctxAt 0).overBudget 1 4 = true ∧
      s.serves (s.session 52) 1 = false ∧ (front.session 52).isOpen = true ∧ s.updating 0 = false ∧
      Arrives s 52 (hdr 1 1 0 7 4) (leBytes 4 0) 1 ∧
      (s.keep 52 0 (.fenceCmd 52 (hdr 5 0 0 7 0) [])).behind 52 (heldFor (hdr 1 0 0 7 4)) = true ∧
      (s.keep 52 0 (.fenceCmd 52 (hdr 5 0 0 7 0) [])).behind 52 (heldFor (hdr 1 1 0 7 4)) = false) ∧
    rmaWaits (front.rmaChks 0 .load 0x10100 8) = false ∧ rmaWaits (front.rmaChks 0 .store 0x10100 8) = false ∧
    ({ front with cycle := 2 ^ 20, windowStart := 0 } : State).windowStart + 2 ^ 20 ≤ 2 ^ 20 := by
  refine ⟨?_, ⟨serves_of ?_, ?_, serves_of ?_, serves_of ?_, ?_⟩, ⟨serves_of ?_, ?_, ?_, ?_, serves_of ?_⟩, ⟨serves_of ?_, ?_⟩,
    ⟨serves_of ?_, serves_of ?_, ?_⟩, ⟨serves_of ?_, ?_⟩, ?_,
    ⟨arrives_of ?_, ?_, ?_, ?_, ?_, ?_, arrives_of ?_, ?_⟩, ?_, ?_, ?_⟩ <;> decide +kernel

/-- 19 R317: SIGNAL adds 5 at 0x1_0100 and replies. -/
theorem test_signal : gives (.signal 52 (hdr 3 0 0 7 24) (words [0x10100, 1, 5])) (inMem 0x60100 [6] front) (fun t =>
    t.byteAt 0x60100 == 11 && t.outbox.length == front.outbox.length + 1) = true := by decide +kernel

/-- 19 R318: host RMA reads the public bytes. -/
theorem test_host_rma : gives (.hostRmaRead 52 0x10100 2) (inMem 0x60100 [6, 7] front) (fun t =>
    t.outbox.getLast? == some (.rmaData 52 0x10100 [6, 7] false)) = true := by decide +kernel

/-! ## Witnesses: contexts and pages -/

/-- PVCFG such that Pavilion 0 has no context. -/
def vacant : State := { front with ctxs := .empty }

/-- A CTXCREATE body: the schedule, weight 1, a quantum, one gang. -/
def createBody (q gangs : Nat) : List Byte := leBytes 8 (1 + q * 2 ^ 8 + gangs * 2 ^ 48) ++ leBytes 0xB30 0

/-- A MAP body of one small page at 0x2_0000 with a leaf over a page. -/
def mapBody (g lblm : Nat) : List Byte :=
  leBytes 8 0x20000 ++ leBytes 4 1 ++ leBytes 4 lblm ++ leBytes 16 (g * 2 ^ 16 + 0x77) ++ (if lblm = 1 then leBytes 8 3 else [])

/-- Page 9 held by Pavilion 0, and page 10 by another context; the page at 0x1_0000 mapped under handle 7. -/
def pages : State :=
  let s := onPhys (fun p => { p with owners := (p.owners.set .unowned 9 (.pool 0)).set .unowned 10 (.ctx 3) }) front
  (onCtx (fun c => { c with maps := ⟨[(7, some ⟨0x10000, [0]⟩)]⟩ }) s).setCtxAt 3 { Ctx.blank with live := true }

theorem witness_ContextsAreMadeAndMapped :
    (let b := createBody 0 1
     let live := vacant.ctxs.entries.filter fun e => e.2.live
     Arrives vacant 51 (hdr 6 0 0 7 4) (leBytes 4 0) 6 ∧ (vacant.session 51).role = .runtime ∧ createBad (leBytes 4 0) = true ∧
      Arrives vacant 51 (hdr 6 0 0 7 0xB38) b 6 ∧ createBad b = false ∧
      vacant.createStat 0 (BitVec.ofNat 64 (bodyAt b 0 8)) = .ok ∧ vacant.createStat 0 (BitVec.ofNat 64 (bodyAt (createBody 0 0) 0 8)) ≠ .ok ∧
      createBad (createBody 0 0) = false ∧ lowestFree 256 (live.map Prod.fst) = some 0 ∧
      lowestFree 64 ((live.filter fun e => e.2.pav = 0).map fun e => e.2.pidx) = some 0 ∧ vacant.emptySlot = some 2) ∧
    Serves front 51 (hdr 7 0 0 7 0) [] 7 ∧
    (Serves pages 51 (hdr 9 0 0 7 32) (mapBody 9 0) 9 ∧ pages.mapStat 0 (mapBody 9 0) = .ok ∧
      pages.mapStat 0 (mapBody 10 0) = .inuse ∧ (pages.ctxAt 0).freeMap = some 1 ∧ (pages.ctxAt 0).overBudget 2 64 = false ∧
      (mapCmd (mapBody 9 0)).n = 1 ∧ (mapCmd (mapBody 9 0)).size = 0 ∧ (mapCmd (mapBody 9 0)).lblm = 0 ∧
      (mapCmd (mapBody 9 0)).leaves = [BitVec.ofNat 128 (9 * 2 ^ 16 + 0x77)] ∧
      Serves pages 51 (hdr 9 0 0 7 40) (mapBody 9 1) 9 ∧ pages.mapStat 0 (mapBody 9 1) = .ok ∧ (mapCmd (mapBody 9 1)).lblm = 1) ∧
    (let b := leBytes 8 0x10000 ++ leBytes 8 1
     Serves front 51 (hdr 13 0 0 7 16) b 13 ∧ b.length = 16 ∧ zeros b 0xD 3 = true ∧ bodyAt b 0xC 1 = 0 ∧ bodyAt b 8 4 = 1 ∧
      bodyAt b 0 8 % pageBytes 0 = 0 ∧ bodyAt b 0 8 + pageBytes 0 ≤ 2 ^ 57 ∧ (front.ctxAt 0).overBudget 2 64 = false ∧
      front.launches.entries.all (fun l => l.2.pending = []) = true ∧ Serves front 51 (hdr 13 0 0 7 4) (leBytes 4 0) 13 ∧
      (leBytes 4 0).length ≠ 16) ∧
    (let b (n : Nat) := words [1, n, 0x10000]
     dcdExtent (b 0x7000_0000) = some (1, 0x7000_0000, 0x10000) ∧ Serves pages 51 (hdr 11 0 0 7 24) (b 0x7000_0000) 11 ∧
      Serves pages 51 (hdr 14 0 0 7 24) (b 0x7000_0000) 14 ∧ pages.mapped 0x7000_0000 0x10000 = false ∧
      pages.mapped 0x60000 0x10000 = true ∧ dcdExtent (b 0x60000) = some (1, 0x60000, 0x10000) ∧
      Serves pages 51 (hdr 14 0 0 7 24) (b 0x60000) 14) := by
  refine ⟨⟨arrives_of ?_, ?_, ?_, arrives_of ?_, ?_⟩, serves_of ?_, ⟨serves_of ?_, ?_, ?_, ?_, ?_, ?_, ?_, ?_, ?_, serves_of ?_, ?_⟩,
    ⟨serves_of ?_, ?_, ?_, ?_, ?_, ?_, ?_, ?_, ?_, serves_of ?_, ?_⟩, ⟨?_, serves_of ?_, serves_of ?_, ?_, ?_, ?_, serves_of ?_⟩⟩ <;>
    decide +kernel

/-- 19 R316, 20 R333: CTXCREATE answers context 0, index 0 and the memory key's slot. -/
theorem test_ctxcreate : gives (.ctxcreate 51 (hdr 6 0 0 7 0xB38) (createBody 0 1)) vacant (fun t =>
    (t.ctxAt 0).live && (t.ctxAt 0).mslot == 2 && (t.keySlot 2).kind == 2) = true := by decide +kernel

/-- 09 R168: a MAP of a page that another context holds replies INUSE. -/
theorem test_map_inuse : gives (.map 51 (hdr 9 0 0 7 32) (mapBody 10 0)) pages (fun t =>
    t.phys.owners == pages.phys.owners && t.outbox.length == 1) = true := by decide +kernel
/-! ## Witnesses: management -/

/-- A management message is one of the operator's. -/
theorem manages_of {s : State} {ses : Nat} {h : BitVec 256} {body : List Byte} {sub : Nat} {fs : List (Nat × Nat)}
    (a : ((s.session ses).isOpen = true ∧ s.updating (s.session ses).pav = false ∧ s.behind ses (heldFor h) = false ∧ hCmd h = 0xC ∧
      hdrBad h body = false) ∧ (s.session ses).role = .operator ∧ bodyAt body 0 2 = sub ∧ onlyFields body ((0, 2) :: fs) = true) :
    Manages s ses h body sub fs := ⟨arrives_of a.1, a.2.1, a.2.2.1, a.2.2.2⟩

/-- A management body: SUB, two words of 32 bits, and a tail. -/
def mg (sub k m : Nat) (tail : List Byte) : List Byte := leBytes 8 sub ++ leBytes 4 k ++ leBytes 4 m ++ tail

/-- Its header. -/
def mh (b : List Byte) : BitVec 256 := hdr 0xC 0 0 7 b.length

/-- An eviction schedule of one entry: 2^32 bytes never evicted, and one whose reserved bits are set. -/
def entry (bad : Nat) : List Byte := leBytes 32 (bad * 2 ^ 250 + 2 ^ 240 + 2 ^ 32 * 2 ^ 64)

/-- An image update of Pavilion 3, under way. -/
def updatingState : State := front.setPavAt 3 { front.pavAt 3 with image := some ⟨[1], 5, [2]⟩ }

/-- The CXL port 2 in reset since cycle 9. -/
def inReset : State := onPhys (fun p => { p with cxlWait := ⟨[(2, some 9)]⟩, extents := [(2, 0x7000_0000, 0x10000)] }) front

/-- Core 5 quarantined with 70 points, and job 1 held. -/
def repaired : State :=
  let s := front.setCoreAt 5 { Core.reset with quar := true, susp := 70 }
  { s with tack := { s.tack with jobs := ⟨[(1, ⟨.held, 3, [], 0, none, []⟩)]⟩ } }

/-- The messages of maintenance KIND 2 to 7. -/
theorem ports : ∀ k < 8, 2 ≤ k →
    let b := mg 5 k 2 []
    (((front.session 50).isOpen = true ∧ front.updating (front.session 50).pav = false ∧ front.behind 50 (heldFor (mh b)) = false ∧ hCmd (mh b) = 0xC ∧
      hdrBad (mh b) b = false) ∧ (front.session 50).role = .operator ∧ bodyAt b 0 2 = 5 ∧
      onlyFields b [(0, 2), (8, 1), (12, 4)] = true) ∧ bodyAt b 8 1 = k ∧ bodyAt b 12 4 = 2 := by decide +kernel

/-- Pavilion 0 with no context, beside an enabled Pavilion 1 over the same clusters, both of colour 1. -/
def crowded : State :=
  let s := vacant.setPavAt 0 { vacant.pavAt 0 with col := 1 }
  s.setPavAt 1 { Pav.reset with cfg := cfg0, col := 1 }

theorem witness_ManagementMessagesAct :
    (let en := cfg0.toNat
     Manages front 50 (mh (mg 1 0 0 (leBytes 8 en))) (mg 1 0 0 (leBytes 8 en)) 1 [(8, 1), (16, 8)] ∧
      Manages vacant 50 (mh (mg 1 0 0 (leBytes 8 en))) (mg 1 0 0 (leBytes 8 en)) 1 [(8, 1), (16, 8)] ∧
      front.contextsOf 0 ≠ [] ∧ vacant.contextsOf 0 = [] ∧ fieldOf cfg0 8 8 < vacant.part.clusters ∧
      fieldOf cfg0 0 8 ≤ fieldOf cfg0 8 8 ∧ (∀ x < 16, x ≠ 0 → (vacant.pavAt x).en = false) ∧
      vacant.part.clusters ≤ fieldOf 0xFF00#64 8 8 ∧ (bitOf 0x04000001#64 26 = true ∧
        fieldOf 0x04000001#64 8 8 < fieldOf 0x04000001#64 0 8) ∧
      ((crowded.pavAt 1).en = true ∧ fieldOf cfg0 0 8 ≤ fieldOf (crowded.pavAt 1).cfg 8 8 ∧
        fieldOf (crowded.pavAt 1).cfg 0 8 ≤ fieldOf cfg0 8 8) ∧ crowded.contextsOf 0 = [] ∧
      (crowded.pavAt 0).col &&& (crowded.pavAt 1).col ≠ 0 ∧
      Manages crowded 50 (mh (mg 1 0 0 (leBytes 8 en))) (mg 1 0 0 (leBytes 8 en)) 1 [(8, 1), (16, 8)]) ∧
    (let b := mg 2 0 0 (leBytes 8 3)
     Manages front 50 (mh b) b 2 [(8, 1), (16, 8)] ∧ Manages vacant 50 (mh b) b 2 [(8, 1), (16, 8)] ∧
      Manages crowded 50 (mh b) b 2 [(8, 1), (16, 8)] ∧ 3 &&& (crowded.pavAt 1).col ≠ 0) ∧
    (let b (c : Nat) := mg 3 c 9 (leBytes 8 0)
     Manages front 50 (mh (b 0)) (b 0) 3 [(8, 1), (12, 12)] ∧ (front.ctxAt 0).live = true ∧
      Manages front 50 (mh (b 1)) (b 1) 3 [(8, 1), (12, 12)] ∧ (front.ctxAt 1).live = false) ∧
    Manages front 50 (mh (mg 4 0 0 [])) (mg 4 0 0 []) 4 [] ∧
    (let b := mg 5 1 3 [1, 2, 3]
     Manages front 50 (mh b) b 5 [(8, 1), (12, 4), (16, b.length - 16)] ∧ 16 ≤ b.length ∧ bodyAt b 8 1 = 1 ∧ bodyAt b 12 4 < 16 ∧
      front.updating 3 = false) ∧
    ((updatingState.pavAt 3).image = some ⟨[1], 5, [2]⟩ ∧ updatingState.tack.fusePav ≤ 5 ∧
      (Config.sigVerifies [1] [2] = true ∨ Config.sigVerifies [1] [2] = false)) ∧
    (let b (k m : Nat) := mg 5 k m []
     (∀ k < 8, 2 ≤ k → Manages front 50 (mh (b k 2)) (b k 2) 5 [(8, 1), (12, 4)] ∧ bodyAt (b k 2) 8 1 = k ∧ bodyAt (b k 2) 12 4 = 2) ∧
      2 < front.part.clusters ∧ front.held = [] ∧ front.launches.entries.all (fun l => !l.2.signalling) = true ∧
      Manages front 50 (mh (b 2 999)) (b 2 999) 5 [(8, 1), (12, 4)] ∧ front.part.clusters ≤ bodyAt (b 2 999) 12 4) ∧
    (inReset.phys.cxlWait.get none 2 = some 9 ∧ inReset.held = [] ∧ inReset.launches.entries.all (fun l => !l.2.signalling) = true ∧
      inReset.phys.decoders = [] ∧ (2, 0x70000000, 0x10000) ∈ inReset.phys.extents ∧ inReset.cycle ≤ 9 + 2 ^ 26 ∧
      9 + 2 ^ 26 ≤ ({ inReset with cycle := 2 ^ 27 } : State).cycle) ∧
    (let b (k m : Nat) := mg 6 k 0 (leBytes 8 m)
     Manages repaired 50 (mh (b 1 5)) (b 1 5) 6 [(8, 1), (16, 8)] ∧ bodyAt (b 1 5) 8 1 = 1 ∧ bodyAt (b 1 5) 16 8 < repaired.part.cores ∧
      (repaired.coreAt 5).quar = true ∧ Manages repaired 50 (mh (b 2 5)) (b 2 5) 6 [(8, 1), (16, 8)] ∧
      bodyAt (b 2 5) 8 1 = 2 ∧ bodyAt (b 2 5) 16 8 < repaired.part.clusters ∧
      Manages repaired 50 (mh (b 3 0x90000)) (b 3 0x90000) 6 [(8, 1), (16, 8)] ∧ bodyAt (b 3 0x90000) 8 1 = 3 ∧
      bodyAt (b 3 0x90000) 16 8 % 2 ^ 16 = 0 ∧ bodyAt (b 3 0x90000) 16 8 < 2 ^ 46 ∧ repaired.pageScrubbed 9 = false) ∧
    (let b (k : Nat) := mg 7 k 4 []
     Manages front 50 (mh (b 0)) (b 0) 7 [(8, 1), (12, 4)] ∧ bodyAt (b 0) 8 1 = 0 ∧
      Manages front 50 (mh (b 1)) (b 1) 7 [(8, 1), (12, 4)] ∧ bodyAt (b 1) 8 1 = 1) ∧
    (let b := mg 9 1 0 []
     Manages repaired 50 (mh b) b 9 [(8, 1)] ∧ bodyAt b 8 1 < 16 ∧ (repaired.job (bodyAt b 8 1)).st = .held) ∧
    (let b (x : Nat) := mg 10 (2 ^ 16) 0 (entry x)
     Manages front 50 (mh (b 0)) (b 0) 10 [(8, 1), (10, 2), (16, 32 * bodyAt (b 0) 10 2)] ∧ bodyAt (b 0) 10 2 = 1 ∧
      scheduleBad (BitVec.ofNat 256 (bodyAt (b 0) 16 32)) = false ∧ scheduleBad (BitVec.ofNat 256 (bodyAt (b 1) 16 32)) = true ∧
      Manages front 50 (mh (b 1)) (b 1) 10 [(8, 1), (10, 2), (16, 32 * bodyAt (b 1) 10 2)]) ∧
    (let b (n : Nat) := mg 11 n 0 []
     Manages front 50 (mh (b 16)) (b 16) 11 [(8, 1)] ∧ bodyAt (b 16) 8 1 = 16 ∧
      Manages front 50 (mh (b 15)) (b 15) 11 [(8, 1)] ∧ bodyAt (b 15) 8 1 = 15) := by
  refine ⟨⟨manages_of ?_, manages_of ?_, ?_, ?_, ?_, ?_, ?_, ?_, ?_, ?_, ?_, ?_, manages_of ?_⟩,
    ⟨manages_of ?_, manages_of ?_, manages_of ?_, ?_⟩, ⟨manages_of ?_, ?_, manages_of ?_, ?_⟩, manages_of ?_,
    ⟨manages_of ?_, ?_⟩, ⟨?_, ?_, by cases Config.sigVerifies [1] [2] <;> simp⟩,
    ⟨fun k hk h2 => ⟨manages_of (ports k hk h2).1, (ports k hk h2).2⟩, ?_, ?_, ?_, manages_of ?_, ?_⟩, ?_,
    ⟨manages_of ?_, ?_, ?_, ?_, manages_of ?_, ?_, ?_, manages_of ?_, ?_⟩, ⟨manages_of ?_, ?_, manages_of ?_, ?_⟩,
    ⟨manages_of ?_, ?_⟩, ⟨manages_of ?_, ?_, ?_, ?_, manages_of ?_⟩, ⟨manages_of ?_, ?_, manages_of ?_, ?_⟩⟩ <;> decide +kernel

/-- A list of keys from `b` on, each with a value. -/
theorem look_run {V : Type} (v : V) (n : Nat) : ∀ b i : Nat, i < n →
    Sparse.look (b + i) ((List.range' b n).map fun k => (k, v)) = some v := by
  induction n with
  | zero => omega
  | succ n ih =>
    intro b i hi
    simp only [List.range'_succ, List.map_cons, Sparse.look]
    split
    · rfl
    · have h := ih (b + 1) (i - 1) (by omega)
      rwa [show b + 1 + (i - 1) = b + i by omega] at h

/-- Every granule of page 9 scrubbed. -/
theorem witness_ManagementMessagesAct_page :
    (onPhys (fun p => { p with scrubbed := ⟨(List.range' 9216 1024).map fun k => (k, true)⟩ }) front).pageScrubbed 9 = true := by
  rw [State.pageScrubbed, List.all_eq_true]
  intro i hi
  have h := look_run true 1024 9216 i (List.mem_range.mp hi)
  simp only [onPhys, Sparse.get, show 1024 * 9 = 9216 from rfl, h, Option.getD_some]

/-- 17 R290: WRITE_PVCFG of a Pavilion with a context replies INUSE. -/
theorem test_write_pvcfg : (let b := mg 1 0 0 (leBytes 8 cfg0.toNat)
    gives (.writePvcfg 50 (mh b) b) front (fun t => (t.pavAt 0).cfg == cfg0 && t.outbox.length == 1)) = true := by decide +kernel

/-- 16 R288: a threshold of 16. -/
theorem test_threshold : (let b := mg 11 16 0 []
    gives (.quarantineThreshold 50 (mh b) b) front (fun t => t.phys.threshold == 16)) = true := by decide +kernel
/-! ## Witnesses: resets -/

/-- Firmware is needed: the image of the Tack Room is below its fuse. -/
def unbooted : State := { front with boot := .needFirmware, tack := { front.tack with fuseTack := 4 } }

theorem witness_ResetsEndWhatTheyMust :
    (let b := mg 8 0 0 []
     Manages front 50 (mh b) b 8 []) ∧
    front.tack.fuseTack ≤ front.tackImage.version ∧ unbooted.tackImage.version < unbooted.tack.fuseTack ∧
    (Config.sigVerifies front.tackImage.bytes front.tackImage.sig = true ∨
      Config.sigVerifies front.tackImage.bytes front.tackImage.sig = false) ∧
    unbooted.boot = .needFirmware ∧
    (let s := { unbooted with tack := { unbooted.tack with fuseTack := 0 } }
     s.boot = .needFirmware ∧ s.tack.fuseTack ≤ Config.imageVersion [1] ∧
      (Config.sigVerifies [1] [2] = true ∨ Config.sigVerifies [1] [2] = false)) := by
  refine ⟨manages_of ?_, ?_, ?_, Bool.eq_false_or_eq_true _, ?_, ?_, Nat.zero_le _, Bool.eq_false_or_eq_true _⟩ <;>
    decide +kernel

/-- 20 R345: a warm reset ends the contexts and keeps memory. -/
theorem test_watchdog : (let t := warm (fun _ => true) (inMem 0x60100 [6] front)
    t.ctxs == .empty && t.byteAt 0x60100 == 6 && t.phys.owners.get .unowned 6 == .pool 0) = true := by decide +kernel

/-! ## Witnesses: attestation and grants -/

/-- Endpoint 0 as given; context 0 has owner 3, whose certificate has digest 9. -/
def spoken (x : Endpoint) : State :=
  let s := onCtx (fun c => { c with owners := 8, certs := [0, 0, 0, 9] }) front
  { s with tack := { s.tack with eps := ⟨[(0, x)]⟩ } }

/-- An endpoint with its algorithms agreed, and one whose session is secured for owner 3 of context 0. -/
def agreed : Endpoint := { Endpoint.blank with version := true, caps := true, algs := true }

/-- The session's. -/
def owner3 : Endpoint := { agreed with owner := some 3, keyed := true, secured := true }

/-- The secured session, over 16 grants of the owner that live. -/
def fullGrants : State :=
  let s := spoken owner3
  { s with tack := { s.tack with grants := (List.range 16).map fun n => ⟨0, 3, BitVec.ofNat 384 n, 1, 2 ^ 20⟩ } }

/-- The tenant's session of context 0, keyed, and the session with a device. -/
def tenant0 : Endpoint := { agreed with keyed := true }

/-- A secured session with the device that a context leaves or comes from. -/
def peerEp : Endpoint := { agreed with keyed := true, secured := true, device := true }

theorem witness_TackRoomAnswers :
    ((front.pavAt 0).version = 0 ∧ front.tack.version = 0) ∧
    ((spoken Endpoint.blank).ep 0).version = false ∧ ((spoken agreed).ep 0).version = true ∧
    ((spoken Endpoint.blank).ep 0).caps = false ∧ ((spoken agreed).ep 0).caps = true ∧
    ((spoken Endpoint.blank).ep 0).algs = false ∧ ((spoken agreed).ep 0).algs = true ∧ 0 ≤ Config.certChain.length ∧
    (spoken agreed).tack.sigCounter < 2 ^ 40 ∧
    ¬(({ front with tack := { front.tack with sigCounter := 2 ^ 40, eps := ⟨[(0, agreed)]⟩ } } : State).tack.sigCounter < 2 ^ 40) ∧
    ((spoken agreed).ep 0).keyed = false ∧ ((spoken tenant0).ep 0).keyed = true ∧ ((spoken tenant0).ep 0).device = false ∧
    (((spoken agreed).ctxAt 0).live = true ∧ ((spoken agreed).ctxAt 0).pav = 0 ∧
      bitOf ((spoken agreed).ctxAt 0).owners 3 = true ∧ ((spoken agreed).ctxAt 0).certs.getD 3 0 = 9 ∧
      ((spoken agreed).ctxAt 0).certs.getD 3 0 ≠ 8) ∧
    ((spoken { owner3 with secured := false }).ep 0).keyed = true ∧ ((spoken { owner3 with secured := false }).ep 0).secured = false ∧
    (((spoken owner3).ep 0).secured = true ∧ ((spoken owner3).ep 0).ctx = 0 ∧ ((spoken owner3).ep 0).owner = some 3 ∧
      (spoken owner3).emptySlot = some 2 ∧ (spoken owner3).tack.grants = []) ∧
    (((spoken peerEp).ep 0).secured = true ∧ ((spoken peerEp).ep 0).owner = none ∧ ((spoken owner3).ep 0).owner ≠ some 4) ∧
    (fullGrants.tack.grants.filter fun g => g.ctx = 0 && g.slot = 3 && fullGrants.cycle < g.expiry).length = 16 ∧
    (fullGrants.tack.grants.all fun g => g.meas ≠ 99) = true ∧ (fullGrants.tack.grants.any fun g => g.meas = 7) = true := by
  refine ⟨?_, ?_, ?_, ?_, ?_, ?_, ?_, Nat.zero_le _, ?_⟩
  all_goals decide +kernel

/-- A migration whose source is the endpoint 0. -/
theorem witness_TackRoomAnswers_end :
    (let s := spoken peerEp
     let s := { s with tack := { s.tack with migIn := ⟨[(1, some ⟨.prepared, 0, 0, false, none⟩)]⟩ } }
     (s.ep 0).secured = true ∧ (s.ep 0).device = true ∧
      s.tack.migIn.get none 1 = some ⟨.prepared, 0, 0, false, none⟩) := by decide +kernel

/-- 20 R341: a grant of the owner's session. -/
theorem test_grant : gives (.grant 0 true 0 3 5 1 2) (spoken owner3) (fun t =>
    t.tack.grants == [⟨0, 3, 5, 1, (spoken owner3).cycle + 2 * 65536⟩]) = true := by decide +kernel

/-! ## Witnesses: migration -/

/-- The header and body of a MIGRATE of context 0. -/
def mig : BitVec 256 := hdr 8 0 0 7 32

/-- No gang. -/
def quiet : State := { front with gangs := .empty, blocks := .empty, warps := .empty }

/-- What a session with the destination says of it: no older, or older. -/
def peer (v : Nat) : MigPeer := ⟨v, v, 5⟩

/-- Migration 1 of context 0 from its source. -/
def leaves (asked : Nat) : MigOut := ⟨0, 51, mig, 0, 1, .sent, some (peer 0), 4, 9, asked, []⟩

/-- The same before its state leaves, with no session yet. -/
def saving : MigOut := { leaves 0 with st := .saving, peer := none, slot := 0 }

/-- The source in one of these states. -/
def source (y : MigOut) : State := { quiet with tack := { quiet.tack with migOut := ⟨[(1, some y)]⟩ }, cycle := 2 ^ 31 }

/-- A message comes in such a way. -/
def via (a : Arrival) (s : State) : State := { s with arrival := a }

/-- A message comes in a secured session. -/
def inSession : Arrival := ⟨1, true, false, none⟩

/-- A secured session with the source as endpoint 1, in which a message comes; endpoint 0 has none. -/
def joined (s : State) : State := via inSession { s with tack := { s.tack with eps := ⟨[(1, peerEp)]⟩ } }

/-- The destination of migration 1. -/
def dest (y : MigIn) : State := joined { quiet with tack := { quiet.tack with migIn := ⟨[(1, some y)]⟩ }, cycle := 2 ^ 31 }

/-- A moved context of Pavilion 0. -/
def moved : MovedState := ⟨0, front.ctxAt 0, [], [], [9], [], [], []⟩

/-- The session with the destination is there. -/
def met (s : State) : State := via ⟨0, false, false, some (peer 0)⟩ s

/-- The source's image is newer than its destination's. -/
def upgraded : State := met { quiet with tack := { quiet.tack with version := 1 } }

theorem witness_MigrationMovesOnce_source :
    (Serves quiet 51 mig (leBytes 32 (2 ^ 128)) 8 ∧ bodyAt (leBytes 32 (2 ^ 128)) 16 1 < 16 ∧
      zeros (leBytes 32 (2 ^ 128)) 17 15 = true ∧ Serves quiet 51 mig (leBytes 32 (2 ^ 132)) 8 ∧
      16 ≤ bodyAt (leBytes 32 (2 ^ 132)) 16 1 ∧ quiet.gangsOf 0 = [] ∧ quiet.ops = [] ∧ quiet.emptySlot = some 2 ∧
      quiet.tack.version ≤ (peer 0).tackVersion ∧ (quiet.pavAt 0).version ≤ (peer 0).pavVersion ∧
      quiet.arrival.peer = none) ∧
    (Serves (met quiet) 51 mig (leBytes 32 (2 ^ 128)) 8 ∧ (met quiet).arrival.peer = some (peer 0) ∧
      (met quiet).gangsOf 0 = [] ∧ (met quiet).ops = [] ∧ (met quiet).emptySlot = some 2) ∧
    (Serves upgraded 51 mig (leBytes 32 (2 ^ 128)) 8 ∧ upgraded.gangsOf 0 = [] ∧ upgraded.ops = [] ∧
      ¬upgraded.tack.version ≤ (peer 0).tackVersion ∧ upgraded.arrival.peer = some (peer 0)) ∧
    (Serves front 51 mig (leBytes 32 0) 8 ∧ front.gangsOf 0 = [(1, front.gangAt 1)] ∧ (front.gangAt 1).saved = false ∧
      (front.gangAt 1).preempt = none ∧ (front.gangAt 1).blocks = [1] ∧ (front.blockAt 1).audit = false) ∧
    ((met (source saving)).leaving 0 = some (1, saving) ∧ saving.st = .saving ∧ saving.peer = none ∧ saving.ses = 51 ∧
      saving.hdr = mig ∧ (met (source saving)).allSaved 0 = true ∧ (met (source saving)).emptySlot = some 2 ∧
      (met (source saving)).arrival.peer = some (peer 0)) ∧
    ((source (leaves 0)).sentMig 1 = some (leaves 0) ∧ (source (leaves 0)).arrival.secured = false ∧
      (joined (source (leaves 0))).sentMig 1 = some (leaves 0) ∧ (joined (source (leaves 0))).arrival.secured = true ∧ (leaves 0).queued = [] ∧ (leaves 0).asked = 0 ∧
      (leaves 0).since + 2 ^ 30 ≤ (source (leaves 0)).cycle) ∧
    ((joined (source (leaves 7))).sentMig 1 = some (leaves 7) ∧ (joined (source (leaves 7))).arrival.secured = true ∧
      (source (leaves 7)).sentMig 1 = some (leaves 7) ∧ (leaves 7).asked ≠ 0 ∧ (leaves 7).queued = [] ∧
      (leaves 7).asked + 2 ^ 26 ≤ (source (leaves 7)).cycle) := by
  refine ⟨⟨serves_of ?_, ?_, ?_, serves_of ?_, ?_⟩, ⟨serves_of ?_, ?_⟩, ⟨serves_of ?_, ?_⟩, ⟨serves_of ?_, ?_⟩, ?_, ?_, ?_⟩ <;> decide +kernel

theorem witness_MigrationMovesOnce_destination :
    (let s := joined quiet
     s.tack.migIn.get none 1 = none ∧ s.arrival = ⟨1, true, false, none⟩ ∧ (s.ep 1).secured = true ∧ (s.ep 1).device = true ∧
      ((via ⟨1, true, true, none⟩ s).ep 1).secured = true ∧ ((via ⟨0, true, false, none⟩ s).ep 0).secured = false ∧
      (openState (s.ep 1).key [] = none ∨ ∃ m, openState (s.ep 1).key [] = some m)) ∧
    (pages.canReceive moved = true ∧ pages.canReceive { moved with pages := [10] } = false ∧
      lowestFree 256 ((pages.ctxs.entries.filter fun e => e.2.live).map Prod.fst) = some 1 ∧
      lowestFree 64 (((pages.ctxs.entries.filter fun e => e.2.live).filter fun e => e.2.pav = moved.pav).map fun e => e.2.pidx) =
        some 1) ∧
    (∀ y ∈ [(⟨.holding [1] 5, 0, 1, false, none⟩ : MigIn), ⟨.prepared, 0, 1, false, none⟩, ⟨.prepared, 0, 1, false, some 9⟩,
        ⟨.active, 0, 1, false, none⟩, ⟨.ended, 0, 1, false, none⟩],
      (dest y).tack.migIn.get none 1 = some y ∧ y.closed = false ∧ (dest y).arrival = ⟨1, true, false, none⟩ ∧ ((dest y).ep 1).secured = true ∧ ((dest y).ep 1).device = true ∧
        ((dest y).ep 0).secured = false ∧ 9 + 2 ^ 26 ≤ (dest y).cycle) := by
  refine ⟨⟨?_, ?_, ?_, ?_, ?_, ?_, by cases openState ((joined quiet).ep 1).key [] <;> simp⟩, ?_, ?_⟩ <;> decide +kernel

/-- Every queue of the context is empty. -/
theorem witness_MigrationMovesOnce_queues : (∀ q, (upgraded.queueAt 0 q).cmds = []) ∧
    (∀ q, ((source (leaves 0)).queueAt 0 q).cmds = []) ∧ ∀ q, ((dest ⟨.prepared, 0, 1, false, none⟩).queueAt 0 q).cmds = [] :=
  ⟨fun _ => rfl, fun _ => rfl, fun _ => rfl⟩

/-- 20 R342: on PREPARED the context is gone and COMMIT is sent. -/
theorem test_prepared : gives (.prepared 1) (joined (source (leaves 0))) (fun t =>
    !(t.ctxAt 0).live && t.outbox.contains (.mig 1 .commit)) = true := by decide +kernel

/-- 20 R342: a confirmation outside a secured session is answered BADCMD. -/
theorem test_unsecured : gives (.prepared 1) (source (leaves 0)) (fun t =>
    (t.ctxAt 0).live && t.outbox == [.mig 1 .badcmd]) = true := by decide +kernel

/-! ## Witnesses: memory -/

theorem witness_MemoryStaysCanonical :
    Memory.wf (poke State.reset.mem 5 [1, 2]) = true ∧ ∃ n : Memory, Memory.wf n = true ∧
      ∀ k, (poke State.reset.mem 5 [1, 2]).read k = n.read k := ⟨by decide +kernel, _, by decide +kernel, fun _ => rfl⟩

/-- 05 R94: the step of a warp in the base state runs its word. -/
theorem witness_EveryStepKeepsMemoryCanonical : Memory.wf base.mem = true ∧
    (match step base with | .next _ => true | _ => false) = true := by decide +kernel
end Sys2Proof.Tests
end

section

namespace Sys2Proof

variable {V : Type}

/-! ## A table in canonical form is determined by what its keys read as -/

theorem Sparse.mem_of_look {k : Nat} {v : V} {es : List (Nat × V)} (h : Sparse.look k es = some v) : (k, v) ∈ es := by
  induction es with
  | nil => simp [Sparse.look] at h
  | cons e t ih =>
    obtain ⟨j, w⟩ := e
    simp only [Sparse.look] at h
    split at h
    · simp_all
    · exact List.mem_cons_of_mem _ (ih h)

/-- In a list of rising keys, the entry of a key is the one that stands there. -/
theorem Sparse.look_eq_some_iff {k : Nat} {v : V} {es : List (Nat × V)} (hes : Sparse.rising es) :
    Sparse.look k es = some v ↔ (k, v) ∈ es := by
  refine ⟨Sparse.mem_of_look, fun h => ?_⟩
  induction es with
  | nil => simp at h
  | cons e t ih =>
    obtain ⟨j, w⟩ := e
    simp only [Sparse.rising, List.map_cons, List.pairwise_cons] at hes
    obtain ⟨hj, ht⟩ := hes
    simp only [Sparse.look]
    rcases List.mem_cons.mp h with heq | hmem
    · simp_all
    · have hlt : j < k := hj k (List.mem_map_of_mem hmem)
      rw [if_neg (by omega), ih ht hmem]

/-- Two lists of rising keys with the same entry at every key are equal. -/
theorem Sparse.eq_of_look_eq {es fs : List (Nat × V)} (he : Sparse.rising es) (hf : Sparse.rising fs)
    (h : ∀ k, Sparse.look k es = Sparse.look k fs) : es = fs := by
  have hmem : ∀ e, e ∈ es ↔ e ∈ fs := fun e => by
    rw [← Sparse.look_eq_some_iff he, ← Sparse.look_eq_some_iff hf, h]
  have he' : es.Pairwise (·.1 < ·.1) := List.pairwise_map.mp he
  have hf' : fs.Pairwise (·.1 < ·.1) := List.pairwise_map.mp hf
  have hne : ∀ {a b : Nat × V}, a.1 < b.1 → a ≠ b := fun hab heq => absurd (heq ▸ hab) (lt_irrefl _)
  exact ((List.perm_ext_iff_of_nodup (he'.imp hne) (hf'.imp hne)).mpr hmem).eq_of_pairwise
    (fun _ _ _ _ hab hba => absurd hab (lt_asymm hba)) he' hf'

end Sys2Proof

namespace Sys2Proof.Machine

/-! ## Memory in canonical form (log 3) -/

theorem Memory.wf_iff (m : Memory) : m.wf = true ↔ Sparse.rising m ∧ ∀ c ∈ m, c.2 ≠ Memory.initial := by
  simp [Memory.wf, Sparse.rising]

/-- In canonical form no entry holds the value of an unlisted address, so what an address reads as says whether it is
listed. -/
theorem Memory.look_eq_of_wf {m : Memory} (h : m.wf = true) (k : Nat) :
    Sparse.look k m = if m.read k = Memory.initial then none else some (m.read k) := by
  unfold Memory.read
  cases hl : Sparse.look k m with
  | none => simp
  | some v =>
    have hv : v ≠ Memory.initial := ((Memory.wf_iff m).mp h).2 _ (Sparse.mem_of_look hl)
    simp [hv]

/-- Two memories in canonical form that read alike are equal. -/
theorem Memory.eq_of_read_eq {m n : Memory} (hm : m.wf = true) (hn : n.wf = true) (h : ∀ k, m.read k = n.read k) :
    m = n :=
  Sparse.eq_of_look_eq ((Memory.wf_iff m).mp hm).1 ((Memory.wf_iff n).mp hn).1 fun k => by
    rw [Memory.look_eq_of_wf hm, Memory.look_eq_of_wf hn, h]

/-- Settles O59, from the laws of reads and writes and the extensionality of memory in canonical form. -/
theorem memoryStaysCanonical : Obligations.MemoryStaysCanonical := by
  unfold Obligations.MemoryStaysCanonical
  exact ⟨State.reset_mem_wf, fun m a b hm => ⟨Memory.wf_write m a b hm, Memory.read_write_same m a b,
    fun _ hk => Memory.read_write_other m b hk, fun _ hn h => Memory.eq_of_read_eq hm hn h⟩⟩

end Sys2Proof.Machine
end

section

namespace Sys2Proof.Machine

/-! ## What every step keeps

Every function of the model that returns a state has a lemma `<its name>_keeps`, proved from those of the functions it
calls, in the order of the model's files; `exec_keeps`, `turn_keeps` and `step_keeps` collect them. Only two functions
write memory: `State.setByte`, a byte at a time, and `scrubPage`, which drops the cells of a page. -/

/-- `t` is the same part as `s`, and its memory is canonical where that of `s` is. -/
structure Keeps (s t : State) : Prop where
  part : t.part = s.part
  wf : s.mem.wf = true → t.mem.wf = true

/-- What an effect leaves where it succeeds is kept. -/
structure EffKeeps (s : State) (e : Eff State) : Prop where
  of_ok : ∀ t, e = .ok t → Keeps s t

/-- The next state of an outcome is kept. -/
structure OutKeeps (s : State) (o : Host.Outcome State Fault Refusal) : Prop where
  of_next : ∀ t, o = .next t → Keeps s t

theorem Keeps.refl (s : State) : Keeps s s := ⟨rfl, id⟩

theorem Keeps.trans {s t u : State} (h : Keeps s t) (k : Keeps t u) : Keeps s u :=
  ⟨k.part.trans h.part, fun w => k.wf (h.wf w)⟩

/-- A state that differs in neither field is kept. -/
theorem Keeps.of_same {s t : State} (hp : t.part = s.part) (hm : t.mem = s.mem) : Keeps s t :=
  ⟨hp, fun h => hm ▸ h⟩

/-- What is kept of a state that differs in neither field is kept. -/
theorem Keeps.after {s t u : State} (h : Keeps t u) (hp : t.part = s.part) (hm : t.mem = s.mem) : Keeps s u :=
  (Keeps.of_same hp hm).trans h

theorem Keeps.ite {s a b : State} {c : Prop} [Decidable c] (h : Keeps s a) (k : Keeps s b) :
    Keeps s (if c then a else b) := by
  split
  · exact h
  · exact k

theorem foldl_keeps {α : Type} {f : State → α → State} (h : ∀ s x, Keeps s (f s x)) (s : State) (xs : List α) :
    Keeps s (xs.foldl f s) := by
  induction xs generalizing s with
  | nil => exact .refl s
  | cons x t ih => exact (h s x).trans (ih _)

/-- A fold whose accumulator holds the state as its last part. -/
theorem foldl_snd_keeps {α β : Type} {f : β × State → α → β × State} (h : ∀ r x, Keeps r.2 (f r x).2) (b : β)
    (s : State) (xs : List α) : Keeps s (xs.foldl f (b, s)).2 := by
  suffices hr : ∀ r : β × State, Keeps r.2 (xs.foldl f r).2 from hr (b, s)
  induction xs with
  | nil => exact fun r => .refl r.2
  | cons x t ih => exact fun r => (h r x).trans (ih _)

theorem foldl_snd_snd_keeps {α β γ : Type} {f : β × γ × State → α → β × γ × State}
    (h : ∀ r x, Keeps r.2.2 (f r x).2.2) (b : β) (c : γ) (s : State) (xs : List α) :
    Keeps s (xs.foldl f (b, c, s)).2.2 := by
  suffices hr : ∀ r : β × γ × State, Keeps r.2.2 (xs.foldl f r).2.2 from hr (b, c, s)
  induction xs with
  | nil => exact fun r => .refl r.2.2
  | cons x t ih => exact fun r => (h r x).trans (ih _)

/-- The bind of effects, by cases. -/
theorem Eff.bind_eq {α β : Type} (e : Eff α) (f : α → Eff β) :
    (e >>= f) = match e with | .ok a => f a | .error x => .error x := by
  cases e <;> rfl

theorem Eff.pure_eq {α : Type} (a : α) : (pure a : Eff α) = .ok a := rfl

theorem EffKeeps.ok {s t : State} (h : Keeps s t) : EffKeeps s (.ok t) := ⟨by rintro u ⟨⟩; exact h⟩

theorem EffKeeps.error (s : State) (e : Stop) : EffKeeps s (.error e) := ⟨nofun⟩

theorem OutKeeps.next {s t : State} (h : Keeps s t) : OutKeeps s (.next t) := ⟨by rintro u ⟨⟩; exact h⟩

theorem OutKeeps.ite {s : State} {a b : Host.Outcome State Fault Refusal} {c : Prop} [Decidable c] (h : OutKeeps s a)
    (k : OutKeeps s b) : OutKeeps s (if c then a else b) := by
  split
  · exact h
  · exact k

theorem Keeps.effKeeps {s t : State} {e : Eff State} (h : Keeps s t) (k : EffKeeps t e) : EffKeeps s e :=
  ⟨fun u hu => h.trans (k.of_ok u hu)⟩

theorem Keeps.outKeeps {s t : State} {o : Host.Outcome State Fault Refusal} (h : Keeps s t) (k : OutKeeps t o) :
    OutKeeps s o :=
  ⟨fun u hu => h.trans (k.of_next u hu)⟩

theorem OutKeeps.after {s t : State} {o : Host.Outcome State Fault Refusal} (h : OutKeeps t o) (hp : t.part = s.part)
    (hm : t.mem = s.mem) : OutKeeps s o :=
  (Keeps.of_same hp hm).outKeeps h

/-- A fold of effects, each of which keeps what it leaves. -/
theorem foldlM_keeps {α : Type} {f : State → α → Eff State} (h : ∀ s x, EffKeeps s (f s x)) (s : State) (xs : List α) :
    EffKeeps s (xs.foldlM f s) := by
  induction xs generalizing s with
  | nil => exact .ok (.refl s)
  | cons x xs ih =>
    rw [List.foldlM_cons, Eff.bind_eq]
    cases hf : f s x with
    | error e => exact .error s e
    | ok u => exact ((h s x).of_ok u hf).effKeeps (ih u)

/-! ## The state's operations -/

theorem State.setWarpAt_keeps (s : State) (k w) : Keeps s (s.setWarpAt k w) :=
  .of_same rfl rfl

theorem State.setWarp_keeps (s : State) (w) : Keeps s (s.setWarp w) :=
  s.setWarpAt_keeps ..

theorem State.setSplit_keeps (s : State) (x) : Keeps s (s.setSplit x) :=
  s.setWarp_keeps ..

theorem State.setBlockAt_keeps (s : State) (b x) : Keeps s (s.setBlockAt b x) :=
  .of_same rfl rfl

theorem State.setGangAt_keeps (s : State) (g x) : Keeps s (s.setGangAt g x) :=
  .of_same rfl rfl

theorem State.setLaunchAt_keeps (s : State) (l x) : Keeps s (s.setLaunchAt l x) :=
  .of_same rfl rfl

theorem State.setCtxAt_keeps (s : State) (c x) : Keeps s (s.setCtxAt c x) :=
  .of_same rfl rfl

theorem State.touch_keeps (s : State) (c) : Keeps s (s.touch c) :=
  s.setCtxAt_keeps ..

theorem State.setPavAt_keeps (s : State) (p x) : Keeps s (s.setPavAt p x) :=
  .of_same rfl rfl

theorem State.setCoreAt_keeps (s : State) (c x) : Keeps s (s.setCoreAt c x) :=
  .of_same rfl rfl

theorem State.setClusterAt_keeps (s : State) (c x) : Keeps s (s.setClusterAt c x) :=
  .of_same rfl rfl

theorem State.fresh_keeps (s : State) : Keeps s s.fresh.2 := by
  unfold State.fresh
  grind [Keeps]

theorem State.pick_keeps (s : State) (n) : Keeps s (s.pick n).2 := by
  unfold State.pick
  grind [Keeps]

theorem State.freeWord_keeps (s : State) : Keeps s s.freeWord.2 := by
  unfold State.freeWord
  grind [Keeps]

theorem State.send_keeps (s : State) (m) : Keeps s (s.send m) :=
  .of_same rfl rfl

theorem State.report_keeps (s : State) (p m) : Keeps s (s.report p m) := by
  unfold State.report
  split
  · exact .of_same rfl rfl
  · exact s.send_keeps ..

theorem State.intern_keeps (s : State) (l) : Keeps s (s.intern l).2 := by
  unfold State.intern
  grind [Keeps, State.setWarp_keeps]

theorem State.setS_keeps (s : State) (d v l) : Keeps s (s.setS d v l) := by
  unfold State.setS
  grind [Keeps, State.setWarp_keeps, State.intern_keeps]

theorem State.putLane_keeps (s : State) (r l v i) : Keeps s (s.putLane r l v i) :=
  s.setWarp_keeps ..

theorem State.setV_keeps (s : State) (wide r l v lb) : Keeps s (s.setV wide r l v lb) := by
  unfold State.setV
  grind [Keeps, State.intern_keeps, State.putLane_keeps]

theorem State.setByte_keeps (s : State) (k b) : Keeps s (s.setByte k b) := by
  unfold State.setByte
  split
  · exact ⟨rfl, s.mem.wf_write k b⟩
  · exact s.setBlockAt_keeps ..

theorem State.setBytes_keeps (s : State) (k bs) : Keeps s (s.setBytes k bs) := by
  induction bs generalizing s k with
  | nil => exact .refl s
  | cons b t ih => exact (s.setByte_keeps k b).trans (ih ..)

theorem State.joinGran_keeps (s : State) (k c) : Keeps s (s.joinGran k c) := by
  simp only [State.joinGran]
  split
  · split
    · exact .of_same rfl rfl
    · exact .refl s
  · split
    · exact .refl s
    · exact s.setBlockAt_keeps ..

theorem State.setPoison_keeps (s : State) (k b) : Keeps s (s.setPoison k b) := by
  simp only [State.setPoison]
  split
  · exact .of_same rfl rfl
  · exact s.setBlockAt_keeps ..

theorem State.clearCovered_keeps (s : State) (written) : Keeps s (s.clearCovered written) := by
  unfold State.clearCovered
  grind [Keeps, State.setPoison_keeps, foldl_keeps]

theorem State.fillTlb_keeps (s : State) (cap t x) : Keeps s (s.fillTlb cap t x).2 := by
  unfold State.fillTlb
  grind [Keeps, State.pick_keeps]

theorem State.cache_keeps (s : State) (core c va) : Keeps s (s.cache core c va) := by
  unfold State.cache
  grind [Keeps, State.setCoreAt_keeps, State.fillTlb_keeps]

theorem State.cacheAll_keeps (s : State) (vas) : Keeps s (s.cacheAll vas) :=
  foldl_keeps (fun s _ => s.cache_keeps ..) ..

theorem State.learn_keeps (s : State) (ls ids) : Keeps s (s.learn ls ids) :=
  s.setWarp_keeps ..

theorem State.scEnter_keeps (s : State) (ls sc) : Keeps s (s.scEnter ls sc) := by
  unfold State.scEnter
  split
  · exact .refl s
  · exact s.learn_keeps ..

theorem State.scLeave_keeps (s : State) (ls sc) : Keeps s (s.scLeave ls sc) := by
  unfold State.scLeave
  split
  · exact .refl s
  · exact .of_same rfl rfl

theorem State.pickByte_keeps (s : State) (seen home x) : Keeps s (s.pickByte seen home x).2 := by
  unfold State.pickByte
  grind [Keeps, State.pick_keeps]

theorem State.pickBytes_keeps (s : State) (k n) {rule : State → Nat → Option Nat × State}
    (h : ∀ s x, Keeps s (rule s x).2) : Keeps s (s.pickBytes k n rule).2.2 := by
  unfold State.pickBytes
  split
  · exact h s k
  · exact foldl_snd_snd_keeps (fun r i => h r.2.2 (k + i)) ..

/-- A pick that needs no choice leaves the state. -/
theorem State.pickBytes_pure_keeps (s : State) (k n) (rule : State → Nat → Option Nat) :
    Keeps s (s.pickBytes k n fun s x => (rule s x, s)).2.2 :=
  s.pickBytes_keeps k n fun s _ => .refl s

theorem State.choose_keeps (s : State) (seen home k n) : Keeps s (s.choose seen home k n).2.2 :=
  s.pickBytes_keeps k n fun s x => s.pickByte_keeps seen home x

theorem State.visit_keeps (s : State) (seen k n) : Keeps s (s.visit seen k n) :=
  .of_same rfl rfl

theorem State.leave_keeps (s : State) (k n) : Keeps s (s.leave k n) :=
  .of_same rfl rfl

theorem State.drainDie_keeps (n) (s : State) : Keeps s (State.drainDie n s) := by
  induction n generalizing s with
  | zero => exact .refl s
  | succ n ih =>
    unfold State.drainDie
    grind [Keeps, State.pick_keeps]

theorem State.enterDie_keeps (s : State) (seen own all k n) : Keeps s (s.enterDie seen own all k n) := by
  unfold State.enterDie
  grind [Keeps, State.drainDie_keeps]

theorem State.threadRead_keeps (s : State) (ls home k n) : Keeps s (s.threadRead ls home k n).2.2 := by
  have hvisit := s.visit_keeps (s.warp.seenAll ls) k n
  simp only [State.threadRead]
  split
  · exact (hvisit.trans (State.enterDie_keeps ..)).trans (State.pickBytes_pure_keeps ..)
  · exact hvisit.trans (State.choose_keeps ..)

theorem State.pendWrite_keeps (s : State) (id k n) : Keeps s (s.pendWrite id k n) := by
  unfold State.pendWrite
  split
  · exact .of_same rfl rfl
  · exact .refl s

theorem State.gather_keeps (s : State) (ls) : Keeps s (s.gather ls) := by
  unfold State.gather
  split
  · exact .refl s
  · exact s.learn_keeps ..

theorem State.learnTile_keeps (s : State) (ls k) : Keeps s (s.learnTile ls k) := by
  unfold State.learnTile
  grind [Keeps, State.learn_keeps]

theorem State.readFrom_keeps (s : State) (ls acq ws) : Keeps s (s.readFrom ls acq ws) := by
  unfold State.readFrom
  grind [Keeps, State.setWarp_keeps, State.learn_keeps]

theorem State.readEvent_keeps (s : State) (ls k n acq sc) : Keeps s (s.readEvent ls k n acq sc).2 := by
  unfold State.readEvent
  grind [Keeps, State.scEnter_keeps, State.scLeave_keeps, State.threadRead_keeps, State.gather_keeps,
    State.learnTile_keeps, State.readFrom_keeps]

theorem State.stampRead_keeps (s : State) (ls k) : Keeps s (s.stampRead ls k).2 := by
  unfold State.stampRead
  grind [Keeps, State.learn_keeps, State.threadRead_keeps, State.gather_keeps, State.learnTile_keeps,
    State.readFrom_keeps]

theorem State.writeEvent_keeps (s : State) (ls k bs rel sc atomic more) :
    Keeps s (s.writeEvent ls k bs rel sc atomic more) := by
  unfold State.writeEvent
  grind [Keeps, State.fresh_keeps, State.setBytes_keeps, State.learn_keeps, State.scEnter_keeps, State.scLeave_keeps,
    State.visit_keeps, State.pendWrite_keeps, State.gather_keeps, State.learnTile_keeps]

theorem State.pickAtomic_keeps (s : State) (seen x) : Keeps s (s.pickAtomic seen x).2 := by
  unfold State.pickAtomic
  grind [Keeps, State.pick_keeps, State.pickByte_keeps]

theorem State.atomicValue_keeps (s : State) (seen k n) : Keeps s (s.atomicValue seen k n).2.2 :=
  s.pickBytes_keeps k n fun s x => s.pickAtomic_keeps seen x

theorem State.atomicRead_keeps (s : State) (ls k n) : Keeps s (s.atomicRead ls k n).2.2 := by
  have hvisit := ((s.gather_keeps ls).trans (State.learnTile_keeps _ ls k)).trans
    (State.visit_keeps _ (((s.gather ls).learnTile ls k).warp.seenAll ls) k n)
  refine hvisit.trans (.trans ?_ (State.setWarp_keeps ..))
  split
  · exact (State.enterDie_keeps ..).trans (State.pickBytes_pure_keeps ..)
  · exact State.atomicValue_keeps ..

theorem State.engineWrite_keeps (s : State) (p hb k bs stamp) : Keeps s (s.engineWrite p hb k bs stamp).2 := by
  unfold State.engineWrite
  grind [Keeps, State.fresh_keeps, State.setBytes_keeps, State.leave_keeps]

theorem State.remoteAtomic_keeps (s : State) (hb k bs more) : Keeps s (s.remoteAtomic hb k bs more) := by
  unfold State.remoteAtomic
  grind [Keeps, State.fresh_keeps, State.setBytes_keeps, State.leave_keeps]

theorem State.logRefusal_keeps (s : State) (c vcore wslot kind why lseq) :
    Keeps s (s.logRefusal c vcore wslot kind why lseq) :=
  (s.setPavAt_keeps ..).trans (State.setCtxAt_keeps ..)

theorem State.refuse_keeps (s : State) (kind why) : Keeps s (s.refuse kind why) :=
  s.logRefusal_keeps ..

theorem State.writeRecord_keeps (s : State) (c r) : Keeps s (s.writeRecord c r) :=
  (s.setCtxAt_keeps ..).trans (State.report_keeps ..)

theorem State.asWarp_keeps (s : State) (k i) {f : State → State} (h : ∀ s, Keeps s (f s)) : Keeps s (s.asWarp k i f) :=
  have hf := h { s with cur := k, curSplit := i }
  ⟨hf.part, hf.wf⟩

theorem State.complete_keeps (s : State) (p m pc) : Keeps s (s.complete p m pc) :=
  s.setSplit_keeps ..

theorem State.advance_keeps (s : State) (p) : Keeps s (s.advance p) :=
  s.complete_keeps ..

theorem State.jump_keeps (s : State) (p pc) : Keeps s (s.jump p pc) :=
  s.complete_keeps ..

theorem State.await_keeps (s : State) (w p ops) : Keeps s (s.await w p ops) :=
  s.setSplit_keeps ..

theorem State.finishWait_keeps (s : State) : Keeps s s.finishWait := by
  unfold State.finishWait
  grind [Keeps, State.setSplit_keeps, State.complete_keeps]

theorem State.releaseSplit_keeps (s : State) (k i status lbl ids) : Keeps s (s.releaseSplit k i status lbl ids) := by
  unfold State.releaseSplit
  grind [Keeps, State.setS_keeps, State.learn_keeps, State.asWarp_keeps, State.finishWait_keeps]

theorem State.completeBar_keeps (s : State) (ws gang n status) : Keeps s (s.completeBar ws gang n status) :=
  foldl_keeps (fun s _ => s.releaseSplit_keeps ..) ..

theorem State.settleBars_keeps (s : State) (b) : Keeps s (s.settleBars b) := by
  unfold State.settleBars
  extract_lets step
  have hstep (gang) (s : State) (n) : Keeps s (step gang s n) := by
    grind [Keeps, State.completeBar_keeps]
  exact (foldl_keeps (hstep false) s _).trans (foldl_keeps (hstep true) _ _)

theorem State.releaseBo_keeps (s : State) (k i v) : Keeps s (s.releaseBo k i v) := by
  unfold State.releaseBo
  grind [Keeps, State.setS_keeps, State.learn_keeps, State.gather_keeps, State.refuse_keeps, State.asWarp_keeps,
    State.finishWait_keeps]

theorem State.settleObj_keeps (s : State) (b off) : Keeps s (s.settleObj b off) := by
  refine foldl_keeps (fun s w => ?_) s _
  split
  · exact s.releaseBo_keeps ..
  · split
    · exact s.releaseBo_keeps ..
    · exact .refl s

theorem State.settleStored_keeps (s : State) (keys) : Keeps s (s.settleStored keys) :=
  foldl_keeps (fun s b => foldl_keeps (fun s o => s.settleObj_keeps b o) s _) s _

theorem State.putObj_keeps (s : State) (b off o) : Keeps s (s.putObj b off o) := by
  unfold State.putObj
  grind [Keeps, State.setBytes_keeps]

theorem State.abandonObjs_keeps (s : State) (b) : Keeps s (s.abandonObjs b) := by
  unfold State.abandonObjs
  grind [Keeps, State.settleObj_keeps, State.putObj_keeps, foldl_keeps]

theorem State.freeSlots_keeps (s : State) (b) : Keeps s (s.freeSlots b) :=
  s.setCoreAt_keeps ..

theorem State.leftCluster_keeps (s : State) (k) : Keeps s (s.leftCluster k) :=
  s.setClusterAt_keeps ..

theorem State.settleBlock_keeps (s : State) (b) : Keeps s (s.settleBlock b) := by
  unfold State.settleBlock
  grind [Keeps, State.setBlockAt_keeps, State.setGangAt_keeps, State.setLaunchAt_keeps, State.releaseBo_keeps,
    State.freeSlots_keeps, State.leftCluster_keeps, foldl_keeps]

theorem State.settle_keeps (s : State) (b) : Keeps s (s.settle b) := by
  unfold State.settle
  grind [Keeps, State.settleBars_keeps, State.settleBlock_keeps]

theorem State.haltWarp_keeps (s : State) (k pc c einfo pcause page) :
    Keeps s (s.haltWarp k pc c einfo pcause page) := by
  unfold State.haltWarp
  grind [Keeps, State.setWarpAt_keeps, State.setBlockAt_keeps, State.setLaunchAt_keeps, State.touch_keeps,
    State.writeRecord_keeps, State.abandonObjs_keeps, State.settle_keeps]

theorem State.takeTrap_keeps (s : State) (c einfo ops epc len8 page) :
    Keeps s (s.takeTrap c einfo ops epc len8 page) := by
  unfold State.takeTrap
  grind [Keeps, State.setSplit_keeps, State.intern_keeps, State.haltWarp_keeps]

theorem State.eretTo_keeps (s : State) : Keeps s s.eretTo :=
  s.setSplit_keeps ..

theorem State.parkWarp_keeps (s : State) (pages) : Keeps s (s.parkWarp pages) := by
  unfold State.parkWarp
  grind [Keeps, State.setWarp_keeps, State.fresh_keeps, State.report_keeps, foldl_keeps]

theorem State.areaMeets_keeps (s : State) (kind n) : Keeps s (s.areaMeets kind n).2 := by
  unfold State.areaMeets
  grind [Keeps, State.pick_keeps]

theorem State.stackAccess_keeps (s : State) (kind i) : EffKeeps s (s.stackAccess kind i) := by
  unfold State.stackAccess
  grind [EffKeeps, Keeps, State.areaMeets_keeps]

theorem State.awaitRefill_keeps (s : State) : Keeps s s.awaitRefill :=
  s.setSplit_keeps ..

theorem State.stopped_keeps (s : State) (st ops len8) : Keeps s (s.stopped st ops len8) := by
  induction st generalizing s with
  | trap c e p => exact s.takeTrap_keeps ..
  | halt c => exact s.haltWarp_keeps ..
  | park ps => exact s.parkWarp_keeps ..
  | hold ids => exact s.setSplit_keeps ..
  | refill p k => exact s.awaitRefill_keeps.trans (State.parkWarp_keeps ..)
  | refusedStack w => exact (s.refuse_keeps ..).trans (State.haltWarp_keeps ..)
  | after left e ih => rw [State.stopped]; exact .after (ih _) rfl rfl

/-! ## Operands -/

theorem State.earlyTrap_keeps (s : State) (i c einfo page) : Keeps s (s.earlyTrap i c einfo page) :=
  s.takeTrap_keeps ..

theorem State.maskCheck_keeps (s : State) (i) : ∀ t, s.maskCheck i = some t → Keeps s t := by
  unfold State.maskCheck
  grind [Keeps, State.refuse_keeps, State.haltWarp_keeps, State.parkWarp_keeps, State.earlyTrap_keeps]

theorem State.issueCheck_keeps (s : State) (i) : ∀ t, s.issueCheck i = some t → Keeps s t := by
  unfold State.issueCheck
  grind [Keeps, State.haltWarp_keeps, State.earlyTrap_keeps, → State.maskCheck_keeps]

theorem word_keeps {i : Instr} {s : State} {f : State → Eff State} (h : ∀ s, EffKeeps s (f s)) :
    OutKeeps s (word i s f) := by
  have hf := h s
  unfold word
  grind [OutKeeps, EffKeeps, Keeps, State.issueCheck_keeps, State.stopped_keeps]

theorem State.mark_keeps (s : State) (discard audit atomic) : Keeps s (s.mark discard audit atomic) := by
  unfold State.mark
  split
  · exact s.setBlockAt_keeps ..
  · exact .refl s

theorem wordMarked_keeps {i : Instr} {s : State} {x y : Bool} {f : State → Eff State} (h : ∀ s, EffKeeps s (f s)) :
    OutKeeps s (wordMarked i s x y f) := by
  have hf := h (s.mark x y (globalAtomic i))
  unfold wordMarked
  grind [OutKeeps, EffKeeps, Keeps, State.issueCheck_keeps, State.mark_keeps, State.stopped_keeps]

/-! ## Flags -/

theorem State.setFlags_keeps (s : State) (bits l) : Keeps s (s.setFlags bits l) := by
  unfold State.setFlags
  grind [Keeps, State.setWarp_keeps, State.intern_keeps]

/-! ## Control flow and barriers -/

theorem State.push_keeps (s : State) (e) : EffKeeps s (s.push e) := by
  unfold State.push
  grind [EffKeeps, Keeps, Eff.bind_eq, Eff.pure_eq, State.setWarp_keeps, State.stackAccess_keeps]

theorem State.reach_keeps (s : State) (e) : EffKeeps s (s.reach e) := by
  unfold State.reach
  grind [EffKeeps, Keeps, State.stackAccess_keeps]

theorem State.raise_keeps (s : State) (l) : EffKeeps s (s.raise l) := by
  unfold State.raise
  grind [EffKeeps, Keeps, Eff.bind_eq, Eff.pure_eq, State.setSplit_keeps, State.intern_keeps, State.push_keeps]

theorem uniform_keeps (s : State) (p l taken o) : EffKeeps s (uniform p l taken o s) := by
  unfold uniform
  grind [EffKeeps, Keeps, Eff.bind_eq, Eff.pure_eq, State.advance_keeps, State.jump_keeps, State.raise_keeps]

theorem execBraZ_keeps (s : State) (p c o) : OutKeeps s (execBraZ p c o s) :=
  word_keeps fun _ => uniform_keeps ..

theorem execBraNz_keeps (s : State) (p c o) : OutKeeps s (execBraNz p c o s) :=
  word_keeps fun _ => uniform_keeps ..

theorem divide_keeps (s : State) (p t f o) : EffKeeps s (divide p t f o s) := by
  unfold divide
  grind [EffKeeps, Keeps, Eff.bind_eq, Eff.pure_eq, State.setWarp_keeps, State.setSplit_keeps, State.complete_keeps,
    State.push_keeps]

theorem execBrd_keeps (s : State) (p c o) : OutKeeps s (execBrd p c o s) :=
  word_keeps fun s => by grind [EffKeeps, Keeps, Eff.bind_eq, State.raise_keeps, uniform_keeps, divide_keeps]

theorem execCall_keeps (s : State) (p c o) : OutKeeps s (execCall p c o s) :=
  word_keeps fun s => .ok ((s.setS_keeps ..).trans (State.jump_keeps ..))

theorem jumpTo_keeps (s : State) (p a) : EffKeeps s (jumpTo p a s) := by
  unfold jumpTo
  grind [EffKeeps, Keeps, Eff.bind_eq, Eff.pure_eq, State.jump_keeps, State.raise_keeps]

theorem execJmpi_keeps (s : State) (p a) : OutKeeps s (execJmpi p a s) :=
  word_keeps fun _ => jumpTo_keeps ..

theorem execRet_keeps (s : State) (p a) : OutKeeps s (execRet p a s) :=
  word_keeps fun _ => jumpTo_keeps ..

theorem State.mergeAt_keeps (s : State) (e) : Keeps s (s.mergeAt e) := by
  unfold State.mergeAt
  grind [Keeps, State.setWarp_keeps]

theorem State.settleJoin_keeps (s : State) : Keeps s s.settleJoin := by
  unfold State.settleJoin
  grind [Keeps, State.mergeAt_keeps, foldl_keeps]

theorem joinEntry_keeps (s : State) (p e) : Keeps s (joinEntry p e s) := by
  unfold joinEntry
  grind [Keeps, State.setWarp_keeps, State.setSplit_keeps, State.advance_keeps, State.jump_keeps, State.mergeAt_keeps]

theorem joinAt_keeps (s : State) (p) : EffKeeps s (joinAt p s) := by
  unfold joinAt
  grind [EffKeeps, Keeps, Eff.bind_eq, Eff.pure_eq, State.advance_keeps, State.reach_keeps, joinEntry_keeps]

theorem execJoin_keeps (s : State) (p) : OutKeeps s (execJoin p s) :=
  word_keeps fun _ => joinAt_keeps ..

theorem endSplit_keeps (s : State) : Keeps s (endSplit s) := by
  unfold endSplit
  grind [Keeps, State.setWarp_keeps, State.settle_keeps, State.haltWarp_keeps, State.settleJoin_keeps]

theorem State.reachMerged_keeps (s : State) : EffKeeps s s.reachMerged :=
  foldlM_keeps (fun s e => s.reach_keeps e) s _

theorem execExit_keeps (s : State) : OutKeeps s (execExit s) :=
  word_keeps fun s => by grind [EffKeeps, Keeps, Eff.bind_eq, Eff.pure_eq, endSplit_keeps, State.reachMerged_keeps]

theorem execNop_keeps (s : State) (p) : OutKeeps s (execNop p s) :=
  word_keeps fun s => .ok (s.advance_keeps ..)

theorem execYield_keeps (s : State) (p) : OutKeeps s (execYield p s) :=
  word_keeps fun s => by grind [EffKeeps, Keeps, State.setSplit_keeps, State.advance_keeps]

theorem execTrap_keeps (s : State) (p n) : OutKeeps s (execTrap p n s) :=
  word_keeps fun s => .ok ((s.advance_keeps ..).trans (State.takeTrap_keeps ..))

theorem execSread_keeps (s : State) (p d n) : OutKeeps s (execSread p d n s) :=
  word_keeps fun s => by
    split
    · exact .error ..
    · exact .ok ((s.setS_keeps ..).trans (State.advance_keeps ..))

theorem State.clearSpecial_keeps (s : State) (n) : Keeps s (s.clearSpecial n) := by
  unfold State.clearSpecial
  split
  · exact s.setWarp_keeps ..
  · exact s.setWarp_keeps ..
  · exact s.setSplit_keeps ..
  · exact .refl s

theorem execSreadClr_keeps (s : State) (p d n) : OutKeeps s (execSreadClr p d n s) :=
  word_keeps fun s => by
    dsimp only
    split
    · exact .error ..
    · split
      · exact .error ..
      · exact .ok (((s.setS_keeps ..).trans (State.clearSpecial_keeps ..)).trans (State.advance_keeps ..))

theorem execSwid_keeps (s : State) (p d n) : OutKeeps s (execSwid p d n s) :=
  word_keeps fun s => .ok ((s.setS_keeps ..).trans (State.advance_keeps ..))

theorem execVwid_keeps (s : State) (p d n) : OutKeeps s (execVwid p d n s) :=
  word_keeps fun _ => .ok ((foldl_keeps (fun s _ => s.setV_keeps ..) ..).trans (State.advance_keeps ..))

theorem execBar_keeps (s : State) (p d n) : OutKeeps s (execBar p d n s) :=
  word_keeps fun s => by grind [EffKeeps, Keeps, State.await_keeps, State.settleBars_keeps]

theorem execBarg_keeps (s : State) (p d n) : OutKeeps s (execBarg p d n s) :=
  wordMarked_keeps fun s => by grind [EffKeeps, Keeps, State.await_keeps, State.settleBars_keeps]

theorem putDeposit_keeps (s : State) (l t) : Keeps s (putDeposit s l t) := by
  unfold putDeposit
  grind [Keeps, State.setV_keeps]

theorem launchInto_keeps (s : State) (k x) : Keeps s (launchInto s k x) := by
  unfold launchInto
  grind [Keeps, State.setWarpAt_keeps, State.setSplit_keeps, State.fresh_keeps, State.intern_keeps,
    State.asWarp_keeps, putDeposit_keeps, foldl_keeps]

theorem tryLaunch_keeps (s : State) (core i) : Keeps s (tryLaunch s core i) := by
  unfold tryLaunch
  grind [Keeps, State.setCoreAt_keeps, launchInto_keeps]

theorem depositAll_keeps (core block e ts) (s : State) : Keeps s (depositAll core block e ts s).2 := by
  induction ts generalizing s with
  | nil => exact .refl s
  | cons t rest ih =>
    unfold depositAll
    grind [Keeps, State.setCoreAt_keeps, tryLaunch_keeps]

theorem afterSpawn_keeps (s : State) (core block e) : Keeps s (afterSpawn core block e s) := by
  unfold afterSpawn
  grind [Keeps, tryLaunch_keeps]

theorem spawnPass_keeps (s : State) (core) : Keeps s (spawnPass core s) := by
  unfold spawnPass
  grind [Keeps, State.setSplit_keeps, State.asWarp_keeps, State.finishWait_keeps, depositAll_keeps, afterSpawn_keeps,
    foldl_keeps]

theorem settleSpawns_keeps (s : State) (core) : Keeps s (settleSpawns core s) :=
  foldl_keeps (fun _ _ => spawnPass_keeps ..) ..

theorem execSpawn_keeps (s : State) (p a b) : OutKeeps s (execSpawn p a b s) :=
  word_keeps fun s => by grind [EffKeeps, Keeps, State.advance_keeps, State.await_keeps, depositAll_keeps,
    afterSpawn_keeps]

/-! ## Scalar instructions -/

theorem scalarAlu_keeps (s : State) (p d x y l saturates named e) :
    Keeps s (scalarAlu p d x y l saturates named e s) := by
  unfold scalarAlu
  grind [Keeps, State.setS_keeps, State.advance_keeps, State.setFlags_keeps]

theorem scalarAlu2_keeps (s : State) (p d a b saturates named e) :
    Keeps s (scalarAlu2 p d a b saturates named e s) :=
  scalarAlu_keeps ..

theorem execSadd_keeps (s : State) (p d a b) : OutKeeps s (execSadd p d a b s) :=
  word_keeps fun _ => .ok (scalarAlu2_keeps ..)

theorem execSsub_keeps (s : State) (p d a b) : OutKeeps s (execSsub p d a b s) :=
  word_keeps fun _ => .ok (scalarAlu2_keeps ..)

theorem execSmul_keeps (s : State) (p d a b) : OutKeeps s (execSmul p d a b s) :=
  word_keeps fun _ => .ok (scalarAlu2_keeps ..)

theorem execSmulh_keeps (s : State) (p d a b) : OutKeeps s (execSmulh p d a b s) :=
  word_keeps fun _ => .ok (scalarAlu2_keeps ..)

theorem execSdiv_keeps (s : State) (p d a b) : OutKeeps s (execSdiv p d a b s) :=
  word_keeps fun _ => .ok (scalarAlu2_keeps ..)

theorem execSrem_keeps (s : State) (p d a b) : OutKeeps s (execSrem p d a b s) :=
  word_keeps fun _ => .ok (scalarAlu2_keeps ..)

theorem execSand_keeps (s : State) (p d a b) : OutKeeps s (execSand p d a b s) :=
  word_keeps fun _ => .ok (scalarAlu2_keeps ..)

theorem execSor_keeps (s : State) (p d a b) : OutKeeps s (execSor p d a b s) :=
  word_keeps fun _ => .ok (scalarAlu2_keeps ..)

theorem execSxor_keeps (s : State) (p d a b) : OutKeeps s (execSxor p d a b s) :=
  word_keeps fun _ => .ok (scalarAlu2_keeps ..)

theorem execSshl_keeps (s : State) (p d a b) : OutKeeps s (execSshl p d a b s) :=
  word_keeps fun _ => .ok (scalarAlu2_keeps ..)

theorem execSshr_keeps (s : State) (p d a b) : OutKeeps s (execSshr p d a b s) :=
  word_keeps fun _ => .ok (scalarAlu2_keeps ..)

theorem execSsra_keeps (s : State) (p d a b) : OutKeeps s (execSsra p d a b s) :=
  word_keeps fun _ => .ok (scalarAlu2_keeps ..)

theorem execSrot_keeps (s : State) (p d a b) : OutKeeps s (execSrot p d a b s) :=
  word_keeps fun _ => .ok (scalarAlu2_keeps ..)

theorem execSmin_keeps (s : State) (p d a b) : OutKeeps s (execSmin p d a b s) :=
  word_keeps fun _ => .ok (scalarAlu2_keeps ..)

theorem execSmax_keeps (s : State) (p d a b) : OutKeeps s (execSmax p d a b s) :=
  word_keeps fun _ => .ok (scalarAlu2_keeps ..)

theorem execSaddi_keeps (s : State) (p d i) : OutKeeps s (execSaddi p d i s) :=
  word_keeps fun _ => .ok (scalarAlu_keeps ..)

theorem putScalar_keeps (s : State) (p d v l) : Keeps s (putScalar p d v l s) :=
  (s.setS_keeps ..).trans (State.advance_keeps ..)

theorem execScmp_keeps (s : State) (p d a b c) : OutKeeps s (execScmp p d a b c s) :=
  word_keeps fun _ => .ok (putScalar_keeps ..)

theorem execSsel_keeps (s : State) (p d a b) : OutKeeps s (execSsel p d a b s) :=
  word_keeps fun _ => .ok (putScalar_keeps ..)

theorem execSmovi_keeps (s : State) (p d i) : OutKeeps s (execSmovi p d i s) :=
  word_keeps fun _ => .ok (putScalar_keeps ..)

theorem execSmovh_keeps (s : State) (p d i) : OutKeeps s (execSmovh p d i s) :=
  word_keeps fun _ => .ok (putScalar_keeps ..)

theorem scalarBits_keeps (s : State) (p d a f) : Keeps s (scalarBits p d a f s) :=
  putScalar_keeps ..

theorem execSpopc_keeps (s : State) (p d a) : OutKeeps s (execSpopc p d a s) :=
  word_keeps fun _ => .ok (scalarBits_keeps ..)

theorem execSclz_keeps (s : State) (p d a) : OutKeeps s (execSclz p d a s) :=
  word_keeps fun _ => .ok (scalarBits_keeps ..)

theorem execSctz_keeps (s : State) (p d a) : OutKeeps s (execSctz p d a s) :=
  word_keeps fun _ => .ok (scalarBits_keeps ..)

theorem execSbrev_keeps (s : State) (p d a) : OutKeeps s (execSbrev p d a s) :=
  word_keeps fun _ => .ok (scalarBits_keeps ..)

theorem execSbfx_keeps (s : State) (p d a b) : OutKeeps s (execSbfx p d a b s) :=
  word_keeps fun _ => .ok (putScalar_keeps ..)

theorem execSbfi_keeps (s : State) (p d a b) : OutKeeps s (execSbfi p d a b s) :=
  word_keeps fun _ => .ok (putScalar_keeps ..)

theorem execSldc_keeps (s : State) (p d n) : OutKeeps s (execSldc p d n s) :=
  word_keeps fun _ => .ok (putScalar_keeps ..)

/-! ## Memory access -/

theorem State.refuseFirst_keeps (s : State) (kind cs) : Keeps s (s.refuseFirst kind cs) := by
  unfold State.refuseFirst
  split
  · exact s.refuse_keeps ..
  · exact .refl s

theorem State.pendLoad_keeps (s : State) (d pair bad vals) : Keeps s (s.pendLoad d pair bad vals) := by
  unfold State.pendLoad
  grind [Keeps, foldl_snd_keeps, State.intern_keeps, State.fresh_keeps, State.setWarp_keeps]

theorem State.nameRead_keeps (s : State) (l k n signed plain) : Keeps s (s.nameRead l k n signed plain).2 := by
  unfold State.nameRead
  grind [Keeps, State.fresh_keeps, State.learn_keeps]

theorem readLanes_keeps (n signed acq sc lb cs) (s : State) : Keeps s (readLanes n signed acq sc lb cs s).2 := by
  induction cs generalizing s with
  | nil => exact .refl s
  | cons c t ih =>
    unfold readLanes
    grind [Keeps, State.readEvent_keeps, State.nameRead_keeps]

theorem loadEffect_keeps (s : State) (p d n signed acq sc chk lb) :
    EffKeeps s (loadEffect p d n signed acq sc chk lb s) := by
  unfold loadEffect
  grind [EffKeeps, Keeps, State.advance_keeps, State.refuseFirst_keeps, State.pendLoad_keeps, readLanes_keeps]

theorem State.digest_keeps (s : State) (b va v) : Keeps s (s.digest b va v) := by
  simp only [State.digest]
  split
  · exact s.setBlockAt_keeps ..
  · exact .refl s

theorem writeLanes_keeps (rel sc xs) (s : State) : Keeps s (writeLanes rel sc xs s) := by
  induction xs generalizing s with
  | nil => exact .refl s
  | cons x t ih =>
    unfold writeLanes
    grind [Keeps, State.digest_keeps, State.writeEvent_keeps, State.joinGran_keeps]

theorem storeEffect_keeps (s : State) (p rel sc xs) : EffKeeps s (storeEffect p rel sc xs s) := by
  unfold storeEffect
  grind [EffKeeps, Keeps, State.clearCovered_keeps, State.advance_keeps, State.settleStored_keeps,
    State.refuseFirst_keeps, writeLanes_keeps]

theorem State.areaAll_keeps (s : State) (kind ns) : Keeps s (s.areaAll kind ns).2 := by
  induction ns generalizing s with
  | nil => exact .refl s
  | cons n t ih => exact (s.areaMeets_keeps kind n).trans (ih _)

theorem State.privChks_keeps (s : State) (kind b o n) : Keeps s (s.privChks kind b o n).2 := by
  unfold State.privChks
  grind [Keeps, State.areaAll_keeps]

theorem privLoad_keeps (s : State) (p d b o n signed) : EffKeeps s (privLoad p d b o n signed s) := by
  unfold privLoad
  grind [EffKeeps, Keeps, State.advance_keeps, State.refuseFirst_keeps, State.pendLoad_keeps, State.privChks_keeps]

theorem privStore_keeps (s : State) (p v b o n) : EffKeeps s (privStore p v b o n s) := by
  unfold privStore
  grind [EffKeeps, Keeps, State.setWarp_keeps, State.advance_keeps, State.refuseFirst_keeps, State.privChks_keeps]

/-! ## Labels and modes -/

theorem execMode_keeps (s : State) (p a) : OutKeeps s (execMode p a s) :=
  word_keeps fun s => by grind [EffKeeps, Keeps, Eff.bind_eq, Eff.pure_eq, State.setSplit_keeps, State.advance_keeps,
    State.raise_keeps]

theorem execModei_keeps (s : State) (p v) : OutKeeps s (execModei p v s) :=
  word_keeps fun s => by
    split
    · exact .error ..
    · exact .ok ((s.setSplit_keeps ..).trans (State.advance_keeps ..))

theorem execLget_keeps (s : State) (p d a) : OutKeeps s (execLget p d a s) :=
  word_keeps fun s => .ok ((s.setS_keeps ..).trans (State.advance_keeps ..))

theorem execLgetV_keeps (s : State) (p d a) : OutKeeps s (execLgetV p d a s) :=
  word_keeps fun s => by grind [EffKeeps, Keeps, State.setV_keeps, State.advance_keeps, foldl_keeps]

theorem execLjoin_keeps (s : State) (p d a b) : OutKeeps s (execLjoin p d a b s) :=
  word_keeps fun s => .ok ((s.setS_keeps ..).trans (State.advance_keeps ..))

theorem execLjoinV_keeps (s : State) (p d a b) : OutKeeps s (execLjoinV p d a b s) :=
  word_keeps fun _ => .ok ((foldl_keeps (fun r _ => r.setV_keeps ..) ..).trans (State.advance_keeps ..))

theorem execLchk_keeps (s : State) (p d a b) : OutKeeps s (execLchk p d a b s) :=
  word_keeps fun s => .ok ((s.setS_keeps ..).trans (State.advance_keeps ..))

theorem execLtcompact_keeps (s : State) (p) : OutKeeps s (execLtcompact p s) :=
  word_keeps fun s => by
    split
    · exact .ok (s.await_keeps ..)
    · exact .ok ((s.setWarp_keeps ..).trans (State.advance_keeps ..))

theorem State.spend_keeps (s : State) (g w) : EffKeeps s (s.spend g w) := by
  simp only [State.spend]
  split
  · exact .error ..
  · split
    · exact .ok (.refl s)
    · split
      · exact .ok (.of_same rfl rfl)
      · exact .error ..

/-! ## Loads, stores and fences -/

theorem execSld_keeps (s : State) (p d a b w) : OutKeeps s (execSld p d a b w s) :=
  word_keeps fun s => by grind [EffKeeps, Keeps, State.setS_keeps, State.readEvent_keeps, State.advance_keeps,
    State.refuseFirst_keeps]

theorem execSst_keeps (s : State) (p d a b w) : OutKeeps s (execSst p d a b w s) :=
  wordMarked_keeps fun s => by grind [EffKeeps, Keeps, State.joinGran_keeps, State.writeEvent_keeps,
    State.advance_keeps, State.refuseFirst_keeps, State.digest_keeps]

theorem globalLoad_keeps (s : State) (p d b o n signed acq sc) :
    EffKeeps s (globalLoad p d b o n signed acq sc s) :=
  loadEffect_keeps ..

theorem globalStore_keeps (s : State) (p v b o n rel sc) : EffKeeps s (globalStore p v b o n rel sc s) :=
  storeEffect_keeps ..

theorem execVld_keeps (s : State) (p d b o w) : OutKeeps s (execVld p d b o w s) :=
  word_keeps fun _ => globalLoad_keeps ..

theorem execVst_keeps (s : State) (p d b o w) : OutKeeps s (execVst p d b o w s) :=
  wordMarked_keeps fun _ => globalStore_keeps ..

theorem execVldAcqB32_keeps (s : State) (p d b o c) : OutKeeps s (execVldAcqB32 p d b o c s) :=
  word_keeps fun _ => globalLoad_keeps ..

theorem execVldAcqB64_keeps (s : State) (p d b o c) : OutKeeps s (execVldAcqB64 p d b o c s) :=
  word_keeps fun _ => globalLoad_keeps ..

theorem execVstRelB32_keeps (s : State) (p d b o c) : OutKeeps s (execVstRelB32 p d b o c s) :=
  wordMarked_keeps fun _ => globalStore_keeps ..

theorem execVstRelB64_keeps (s : State) (p d b o c) : OutKeeps s (execVstRelB64 p d b o c s) :=
  wordMarked_keeps fun _ => globalStore_keeps ..

theorem execVldScB32_keeps (s : State) (p d b o c) : OutKeeps s (execVldScB32 p d b o c s) :=
  word_keeps fun _ => globalLoad_keeps ..

theorem execVldScB64_keeps (s : State) (p d b o c) : OutKeeps s (execVldScB64 p d b o c s) :=
  word_keeps fun _ => globalLoad_keeps ..

theorem execVstScB32_keeps (s : State) (p d b o c) : OutKeeps s (execVstScB32 p d b o c s) :=
  wordMarked_keeps fun _ => globalStore_keeps ..

theorem execVstScB64_keeps (s : State) (p d b o c) : OutKeeps s (execVstScB64 p d b o c s) :=
  wordMarked_keeps fun _ => globalStore_keeps ..

theorem execVlds_keeps (s : State) (p d b o w) : OutKeeps s (execVlds p d b o w s) :=
  wordMarked_keeps fun _ => loadEffect_keeps ..

theorem execVsts_keeps (s : State) (p d b o w) : OutKeeps s (execVsts p d b o w s) :=
  wordMarked_keeps fun _ => storeEffect_keeps ..

theorem execVldp_keeps (s : State) (p d b o w) : OutKeeps s (execVldp p d b o w s) :=
  word_keeps fun _ => privLoad_keeps ..

theorem execVstp_keeps (s : State) (p d b o w) : OutKeeps s (execVstp p d b o w s) :=
  word_keeps fun _ => privStore_keeps ..

theorem fenceLane_keeps (s : State) (k c l) : Keeps s (fenceLane k c s l) := by
  unfold fenceLane
  grind [Keeps, State.setWarp_keeps, State.learn_keeps, State.scEnter_keeps, State.scLeave_keeps]

theorem execFence_keeps (s : State) (p k c) : OutKeeps s (execFence p k c s) :=
  word_keeps fun s => by grind [EffKeeps, Keeps, State.learn_keeps, State.advance_keeps, fenceLane_keeps, foldl_keeps]

theorem mwaitEnd_keeps (s : State) (d k c rhs lbl t) (h : mwaitEnd d k c rhs lbl s = some t) : Keeps s t := by
  unfold mwaitEnd at h
  grind [Keeps, State.setS_keeps, State.stampRead_keeps]

theorem execMwait_keeps (s : State) (p d a b c) : OutKeeps s (execMwait p d a b c s) :=
  word_keeps fun s => by grind [EffKeeps, Keeps, State.setS_keeps, State.advance_keeps, State.await_keeps,
    State.refuseFirst_keeps, → mwaitEnd_keeps]

theorem State.unwait_keeps (s : State) : Keeps s s.unwait :=
  s.setSplit_keeps ..

theorem pollOf_keeps (s : State) : ∀ t, pollOf s = some t → Keeps s t := by
  unfold pollOf
  grind [Keeps, Option.map_eq_some_iff, State.setSplit_keeps, State.setS_keeps, State.refuse_keeps,
    State.finishWait_keeps, State.haltWarp_keeps, State.takeTrap_keeps, State.parkWarp_keeps, → mwaitEnd_keeps,
    State.unwait_keeps]

theorem execMwaitWake_keeps (s : State) (w sp) : OutKeeps s (execMwaitWake w sp s) := by
  refine .next (s.asWarp_keeps w sp fun s => ?_)
  split
  · cases hp : pollOf s with
    | none => exact .refl s
    | some u => exact pollOf_keeps s u hp
  · exact .refl s

theorem execSprf_keeps (s : State) (p a b l) : OutKeeps s (execSprf p a b l s) :=
  word_keeps fun s => .ok (s.advance_keeps ..)

theorem execRhint_keeps (s : State) (p a b h) : OutKeeps s (execRhint p a b h s) :=
  word_keeps fun s => .ok (s.advance_keeps ..)

theorem settleCompact_keeps (s : State) (w) : Keeps s (settleCompact w s) := by
  unfold settleCompact
  grind [Keeps, State.setWarp_keeps, State.asWarp_keeps, State.finishWait_keeps, foldl_keeps]

theorem State.pickLater_keeps (s : State) (r old) : Keeps s (s.pickLater r old).2.2 := by
  unfold State.pickLater
  split
  · exact s.pick_keeps _
  · exact foldl_snd_snd_keeps (fun t i => t.2.2.pick_keeps _) ..

theorem State.landRead_keeps (s : State) (y) : Keeps s (s.landRead y).2.2 := by
  unfold State.landRead
  grind [Keeps, State.intern_keeps, State.readFrom_keeps, State.pickLater_keeps]

theorem landLoad_keeps (s : State) (x) : Keeps s (landLoad x s) := by
  unfold landLoad
  grind [Keeps, State.putLane_keeps, State.landRead_keeps, foldl_keeps]

theorem execLoadReturn_keeps (s : State) (w id) : OutKeeps s (execLoadReturn w id s) := by
  unfold execLoadReturn
  grind [OutKeeps, Keeps, State.setWarpAt_keeps, State.asWarp_keeps, State.haltWarp_keeps, settleCompact_keeps,
    landLoad_keeps]

/-! ## Fetch and issue -/

theorem illegal_keeps (s : State) (w) : Keeps s (illegal w s) := s.takeTrap_keeps ..

theorem fetch_keeps (s t : State) (h : fetch s = .stop t) : Keeps s t := by
  unfold fetch at h
  grind [Keeps, State.takeTrap_keeps, State.parkWarp_keeps, State.refuse_keeps, State.haltWarp_keeps]

theorem State.opportunity_keeps (s : State) (k sp) : Keeps s (s.opportunity k sp) :=
  .of_same rfl rfl

theorem prepare_keeps (s : State) (k sp) : Keeps s (prepare s k sp) := by
  unfold prepare
  grind [Keeps, State.setWarp_keeps, State.touch_keeps, State.setCoreAt_keeps, State.cache_keeps,
    State.opportunity_keeps]

theorem State.latch_keeps (s : State) (w) : Keeps s (s.latch w) :=
  s.setSplit_keeps ..

theorem State.throughL1_keeps (s : State) (x) : Keeps s (s.throughL1 x) := by
  unfold State.throughL1
  grind [Keeps, State.setWarp_keeps, State.setCoreAt_keeps, State.pick_keeps]

theorem State.fill_keeps (s : State) (i) : Keeps s (s.fill i) := by
  unfold State.fill
  split
  · exact .refl s
  · exact (foldl_keeps (fun s x => s.throughL1_keeps ..) ..).trans (State.cacheAll_keeps ..)

/-! ## Vector arithmetic -/

theorem putLanes_keeps (t d v lb ls) (s : State) (fl l) : Keeps s (putLanes t d v lb ls s fl l).1 := by
  induction ls generalizing s fl l with
  | nil => exact .refl s
  | cons l rest ih => exact (s.setV_keeps ..).trans (ih ..)

theorem vecEffect_keeps (s : State) (p t d named v lb) : Keeps s (vecEffect p t d named v lb s) := by
  unfold vecEffect
  grind [Keeps, State.advance_keeps, State.setFlags_keeps, putLanes_keeps]

theorem vec1_keeps (s : State) (p d a named f) : Keeps s (vec1 p d a named f s) :=
  vecEffect_keeps ..

theorem vec2_keeps (s : State) (p d a b named f) : Keeps s (vec2 p d a b named f s) :=
  vecEffect_keeps ..

theorem vec3_keeps (s : State) (p d a b named f) : Keeps s (vec3 p d a b named f s) :=
  vecEffect_keeps ..

theorem execVadd_keeps (s : State) (p d a b) : OutKeeps s (execVadd p d a b s) :=
  word_keeps fun _ => .ok (vec2_keeps ..)

theorem execVsub_keeps (s : State) (p d a b) : OutKeeps s (execVsub p d a b s) :=
  word_keeps fun _ => .ok (vec2_keeps ..)

theorem execVmul_keeps (s : State) (p d a b) : OutKeeps s (execVmul p d a b s) :=
  word_keeps fun _ => .ok (vec2_keeps ..)

theorem execVmulh_keeps (s : State) (p d a b) : OutKeeps s (execVmulh p d a b s) :=
  word_keeps fun _ => .ok (vec2_keeps ..)

theorem execVmad_keeps (s : State) (p d a b) : OutKeeps s (execVmad p d a b s) :=
  word_keeps fun _ => .ok (vec3_keeps ..)

theorem execVfma_keeps (s : State) (p d a b) : OutKeeps s (execVfma p d a b s) :=
  word_keeps fun _ => .ok (vec3_keeps ..)

theorem execVmin_keeps (s : State) (p d a b) : OutKeeps s (execVmin p d a b s) :=
  word_keeps fun _ => .ok (vec2_keeps ..)

theorem execVmax_keeps (s : State) (p d a b) : OutKeeps s (execVmax p d a b s) :=
  word_keeps fun _ => .ok (vec2_keeps ..)

theorem execVabs_keeps (s : State) (p d a) : OutKeeps s (execVabs p d a s) :=
  word_keeps fun _ => .ok (vec1_keeps ..)

theorem execVneg_keeps (s : State) (p d a) : OutKeeps s (execVneg p d a s) :=
  word_keeps fun _ => .ok (vec1_keeps ..)

theorem execVdiv_keeps (s : State) (p d a b) : OutKeeps s (execVdiv p d a b s) :=
  word_keeps fun _ => .ok (vec2_keeps ..)

theorem execVsqrt_keeps (s : State) (p d a) : OutKeeps s (execVsqrt p d a s) :=
  word_keeps fun _ => .ok (vec1_keeps ..)

theorem execVrcp_keeps (s : State) (p d a) : OutKeeps s (execVrcp p d a s) :=
  word_keeps fun _ => .ok (vec1_keeps ..)

theorem execVrsq_keeps (s : State) (p d a) : OutKeeps s (execVrsq p d a s) :=
  word_keeps fun _ => .ok (vec1_keeps ..)

theorem execVexp2_keeps (s : State) (p d a) : OutKeeps s (execVexp2 p d a s) :=
  word_keeps fun _ => .ok (vec1_keeps ..)

theorem execVlog2_keeps (s : State) (p d a) : OutKeeps s (execVlog2 p d a s) :=
  word_keeps fun _ => .ok (vec1_keeps ..)

theorem execVsin_keeps (s : State) (p d a) : OutKeeps s (execVsin p d a s) :=
  word_keeps fun _ => .ok (vec1_keeps ..)

theorem execVcos_keeps (s : State) (p d a) : OutKeeps s (execVcos p d a s) :=
  word_keeps fun _ => .ok (vec1_keeps ..)

theorem execVcvt_keeps (s : State) (p d a t') : OutKeeps s (execVcvt p d a t' s) :=
  word_keeps fun _ => .ok (vecEffect_keeps ..)

theorem execVand_keeps (s : State) (p d a b) : OutKeeps s (execVand p d a b s) :=
  word_keeps fun _ => .ok (vec2_keeps ..)

theorem execVor_keeps (s : State) (p d a b) : OutKeeps s (execVor p d a b s) :=
  word_keeps fun _ => .ok (vec2_keeps ..)

theorem execVxor_keeps (s : State) (p d a b) : OutKeeps s (execVxor p d a b s) :=
  word_keeps fun _ => .ok (vec2_keeps ..)

theorem execVnot_keeps (s : State) (p d a) : OutKeeps s (execVnot p d a s) :=
  word_keeps fun _ => .ok (vec1_keeps ..)

theorem execVshl_keeps (s : State) (p d a b) : OutKeeps s (execVshl p d a b s) :=
  word_keeps fun _ => .ok (vec2_keeps ..)

theorem execVshr_keeps (s : State) (p d a b) : OutKeeps s (execVshr p d a b s) :=
  word_keeps fun _ => .ok (vec2_keeps ..)

theorem execVsra_keeps (s : State) (p d a b) : OutKeeps s (execVsra p d a b s) :=
  word_keeps fun _ => .ok (vec2_keeps ..)

theorem execVbfx_keeps (s : State) (p d a b) : OutKeeps s (execVbfx p d a b s) :=
  word_keeps fun _ => .ok (vecEffect_keeps ..)

theorem execVbfi_keeps (s : State) (p d a b) : OutKeeps s (execVbfi p d a b s) :=
  word_keeps fun _ => .ok (vecEffect_keeps ..)

theorem execVpopc_keeps (s : State) (p d a) : OutKeeps s (execVpopc p d a s) :=
  word_keeps fun _ => .ok (vec1_keeps ..)

theorem execVclz_keeps (s : State) (p d a) : OutKeeps s (execVclz p d a s) :=
  word_keeps fun _ => .ok (vec1_keeps ..)

theorem execVbrev_keeps (s : State) (p d a) : OutKeeps s (execVbrev p d a s) :=
  word_keeps fun _ => .ok (vec1_keeps ..)

theorem execVcmp_keeps (s : State) (p d a b c) : OutKeeps s (execVcmp p d a b c s) :=
  word_keeps fun s => by grind [EffKeeps, Keeps, State.setS_keeps, State.advance_keeps, State.setFlags_keeps]

theorem execVsel_keeps (s : State) (p d a b) : OutKeeps s (execVsel p d a b s) :=
  word_keeps fun _ => .ok (vecEffect_keeps ..)

theorem execVmov_keeps (s : State) (p d a) : OutKeeps s (execVmov p d a s) :=
  word_keeps fun _ => .ok (vec1_keeps ..)

theorem execVmovs_keeps (s : State) (p d b) : OutKeeps s (execVmovs p d b s) :=
  word_keeps fun _ => .ok (vecEffect_keeps ..)

theorem execVmovi_keeps (s : State) (p d i) : OutKeeps s (execVmovi p d i s) :=
  word_keeps fun _ => .ok (vecEffect_keeps ..)

/-! ## Declassification -/

theorem State.putLowered_keeps (s : State) (d vec vals) : Keeps s (s.putLowered d vec vals) := by
  unfold State.putLowered
  grind [Keeps, State.setS_keeps, State.setV_keeps, foldl_keeps]

theorem askTack_keeps (s : State) (p o d vec vals w ops) : EffKeeps s (askTack p o d vec vals w ops s) := by
  unfold askTack
  grind [EffKeeps, Keeps, Eff.bind_eq, Eff.pure_eq, State.pick_keeps, State.advance_keeps, State.await_keeps,
    State.spend_keeps, State.putLowered_keeps]

theorem dclsMove_keeps (s : State) (p d a w) : EffKeeps s (dclsMove p d a w s) := by
  simp only [dclsMove]
  split
  · exact .error ..
  · split
    · exact .error ..
    · split
      · exact .error ..
      · exact .ok (vec1_keeps ..)

theorem execDcls_keeps (s : State) (p d a g) : OutKeeps s (execDcls p d a g s) :=
  wordMarked_keeps fun s => by
    dsimp only
    split
    · exact .ok (s.advance_keeps ..)
    · split
      · exact dclsMove_keeps ..
      · exact askTack_keeps ..

theorem execDclsS_keeps (s : State) (p d a g) : OutKeeps s (execDclsS p d a g s) :=
  wordMarked_keeps fun s => by
    dsimp only
    split
    · exact .ok ((s.setS_keeps ..).trans (State.advance_keeps ..))
    · exact askTack_keeps ..

theorem tackReply_keeps (s : State) : Keeps s (tackReply s) := by
  unfold tackReply
  grind [EffKeeps, Keeps, State.setSplit_keeps, State.finishWait_keeps, State.takeTrap_keeps, State.spend_keeps,
    State.putLowered_keeps]

/-! ## Atomics and barrier objects -/

theorem atomLanes_keeps (o t n g drop evt xs before) (s : State) :
    Keeps s (atomLanes o t n g drop evt xs before s).2 := by
  induction xs generalizing s before with
  | nil => exact .refl s
  | cons x rest ih =>
    unfold atomLanes
    grind [Keeps, State.atomicRead_keeps, State.writeEvent_keeps, State.joinGran_keeps]

theorem atomEffect_keeps (s : State) (p write v b o n op) : EffKeeps s (atomEffect p write v b o n op s) := by
  unfold atomEffect
  grind [EffKeeps, Keeps, State.setV_keeps, State.advance_keeps, State.refuseFirst_keeps, atomLanes_keeps,
    foldl_keeps]

theorem execVatomB32_keeps (s : State) (p d b o x) : OutKeeps s (execVatomB32 p d b o x s) :=
  wordMarked_keeps fun _ => atomEffect_keeps ..

theorem execVatomB64_keeps (s : State) (p d b o x) : OutKeeps s (execVatomB64 p d b o x s) :=
  wordMarked_keeps fun _ => atomEffect_keeps ..

theorem execVratomB32_keeps (s : State) (p d b o x) : OutKeeps s (execVratomB32 p d b o x s) :=
  wordMarked_keeps fun _ => atomEffect_keeps ..

theorem execVratomB64_keeps (s : State) (p d b o x) : OutKeeps s (execVratomB64 p d b o x s) :=
  wordMarked_keeps fun _ => atomEffect_keeps ..

theorem execSatom_keeps (s : State) (p d a b w o) : OutKeeps s (execSatom p d a b w o s) :=
  wordMarked_keeps fun s => by grind [EffKeeps, Keeps, State.setS_keeps, State.advance_keeps, State.refuseFirst_keeps,
    atomLanes_keeps]

theorem updateObj_keeps (s : State) (b off o c check) : Keeps s (updateObj b off o c check s) := by
  unfold updateObj
  extract_lets ph o₁ o₂ s₁ next x s₂
  have h₁ : Keeps s s₁ := (s.putObj_keeps ..).trans (State.joinGran_keeps ..)
  have h₂ : Keeps s₁ s₂ := by
    unfold s₂
    split
    · exact .refl s₁
    · exact s₁.setBlockAt_keeps ..
  exact (h₁.trans h₂).trans (State.settleObj_keeps ..)

theorem arriveHb_keeps (s : State) (b off ids) : Keeps s (arriveHb b off ids s) :=
  s.setBlockAt_keeps ..

theorem byteArrival_keeps (s : State) (b off n c hb) : Keeps s (byteArrival b off n c hb s) :=
  (arriveHb_keeps ..).trans (updateObj_keeps ..)

theorem execBoinit_keeps (s : State) (p a b) : OutKeeps s (execBoinit p a b s) :=
  wordMarked_keeps fun s => by
    dsimp only
    split
    · exact .error ..
    · split
      · exact .error ..
      · split
        · split
          · exact .error ..
          · split
            · exact .error ..
            · exact .ok ((((s.setBlockAt_keeps ..).trans (updateObj_keeps ..)).trans (State.gather_keeps ..)).trans
                (State.advance_keeps ..))
        · exact .ok ((s.refuseFirst_keeps ..).trans (State.advance_keeps ..))

theorem objUpdate_keeps (s : State) (p d a b) : EffKeeps s (objUpdate p d a b s) := by
  unfold objUpdate
  extract_lets -underBinder va r c
  clear_value r
  split
  · exact .error ..
  · split
    · next k ceil _ =>
      split
      extract_lets -underBinder o
      split
      · exact .error ..
      · split
        · exact .error ..
        · extract_lets -underBinder s₁ s₂ s₃ v
          have h₁ : Keeps s s₁ := s.gather_keeps ..
          have h₂ : Keeps s₁ s₂ := by
            unfold s₂
            split
            · exact arriveHb_keeps ..
            · exact .refl s₁
          have h₃ : Keeps s₂ s₃ := updateObj_keeps ..
          refine .ok (((h₁.trans h₂).trans (h₃.trans ?_)).trans (State.advance_keeps ..))
          split
          · exact s₃.setS_keeps ..
          · exact .refl s₃
    · extract_lets s₁
      have h₁ : Keeps s s₁ := s.refuseFirst_keeps ..
      refine .ok ((h₁.trans ?_).trans (State.advance_keeps ..))
      split
      · exact s₁.setS_keeps ..
      · exact .refl s₁

theorem execBoarr_keeps (s : State) (p d a b) : OutKeeps s (execBoarr p d a b s) :=
  wordMarked_keeps fun _ => objUpdate_keeps ..

theorem execBoexp_keeps (s : State) (p a b) : OutKeeps s (execBoexp p a b s) :=
  wordMarked_keeps fun _ => objUpdate_keeps ..

theorem execBowait_keeps (s : State) (p d a b) : OutKeeps s (execBowait p d a b s) :=
  wordMarked_keeps fun s => by grind [EffKeeps, Keeps, State.setS_keeps, State.advance_keeps, State.await_keeps,
    State.settleObj_keeps, State.refuseFirst_keeps]

/-! ## Operations in flight -/

theorem State.retire_keeps (s : State) (page) : Keeps s (s.retire page) := by
  unfold State.retire
  grind [Keeps, State.send_keeps, foldl_keeps]

theorem State.enterPoison_keeps (s : State) (k) : Keeps s (s.enterPoison k) := by
  unfold State.enterPoison
  grind [Keeps, State.setPoison_keeps, State.retire_keeps]

theorem State.engineRead_keeps (s : State) (seen k n) : Keeps s (s.engineRead seen k n).2 := by
  unfold State.engineRead
  grind [Keeps, State.choose_keeps, State.leave_keeps, foldl_snd_keeps]

theorem State.engineStore_keeps (s : State) (q hb k bs c bad) : Keeps s (s.engineStore q hb k bs c bad).2 := by
  unfold State.engineStore
  grind [Keeps, State.joinGran_keeps, State.engineWrite_keeps, State.settleStored_keeps, State.enterPoison_keeps,
    foldl_snd_keeps]

theorem State.cacheRange_keeps (s : State) (x n) : Keeps s (s.cacheRange x n) := by
  unfold State.cacheRange
  split
  · exact s.cacheAll_keeps ..
  · exact .refl s

theorem State.stampStore_keeps (s : State) (q ids k v c) : Keeps s (s.stampStore q ids k v c) := by
  unfold State.stampStore
  grind [Keeps, State.joinGran_keeps, State.clearCovered_keeps, State.engineWrite_keeps, State.settleStored_keeps]

theorem State.digestCopy_keeps (s : State) (b va bs) : Keeps s (s.digestCopy b va bs) :=
  foldl_keeps (fun s _ => s.digest_keeps ..) ..

theorem State.refuseEngine_keeps (s : State) (kind why) : Keeps s (s.refuseEngine kind why) :=
  s.logRefusal_keeps ..

theorem State.refuseOp_keeps (s : State) (o kind why) : Keeps s (s.refuseOp o kind why) :=
  s.logRefusal_keeps ..

theorem State.offer_keeps (s : State) (who c vcore page kind runtime) :
    Keeps s (s.offer who c vcore page kind runtime) := by
  unfold State.offer
  grind [Keeps, State.fresh_keeps, State.report_keeps]

theorem State.setOp_keeps (s : State) (o) : Keeps s (s.setOp o) :=
  .of_same rfl rfl

theorem State.startOp_keeps (s : State) (o) : Keeps s (s.startOp o) :=
  .after (foldl_keeps (fun s n => s.leave_keeps (128 * n) 128) ..) rfl rfl

theorem State.newOp_keeps (s : State) (ls kind owns reads tiles) : Keeps s (s.newOp ls kind owns reads tiles).2 := by
  unfold State.newOp
  grind [Keeps, State.fresh_keeps, State.startOp_keeps]

theorem State.readFor_keeps (s : State) (id ids) : Keeps s (s.readFor id ids) := by
  unfold State.readFor
  grind [Keeps, State.engineRead_keeps, State.setOp_keeps, foldl_snd_keeps]

theorem State.wakeReads_keeps (s : State) (ids) : Keeps s (s.wakeReads ids) := by
  unfold State.wakeReads
  grind [Keeps, State.readFor_keeps, foldl_keeps]

theorem State.letGo_keeps (s : State) (id ids) : Keeps s (s.letGo id ids) := by
  unfold State.letGo
  grind [Keeps, State.setSplit_keeps, State.learn_keeps, State.asWarp_keeps, foldl_keeps]

theorem closeBatch_keeps (s : State) (d) : Keeps s (closeBatch d s) :=
  (s.setWarp_keeps ..).trans (State.setS_keeps ..)

theorem settleCopies_keeps (s : State) (k) : Keeps s (settleCopies k s) := by
  unfold settleCopies
  grind [Keeps, State.learn_keeps, State.asWarp_keeps, State.finishWait_keeps, closeBatch_keeps, foldl_keeps]

theorem State.endChan_keeps (s : State) (c h id) : Keeps s (s.endChan c h id) :=
  s.setCtxAt_keeps ..

theorem State.noteTiles_keeps (s : State) (o ks) : Keeps s (s.noteTiles o ks) := by
  simp only [State.noteTiles]
  split
  · exact .refl s
  · exact s.setWarpAt_keeps ..

theorem State.opMoved_keeps (s : State) (o ids) : Keeps s (s.opMoved o ids) :=
  ((s.setOp_keeps ..).trans (State.letGo_keeps ..)).trans (State.wakeReads_keeps ..)

theorem State.finishOp_keeps (s : State) (o) : Keeps s (s.finishOp o) := by
  unfold State.finishOp
  grind [Keeps, State.setWarpAt_keeps, State.touch_keeps, State.wakeReads_keeps, State.letGo_keeps,
    settleCopies_keeps, State.endChan_keeps]

theorem State.countBytes_keeps (s : State) (o a n c) : Keeps s (s.countBytes o a n c) := by
  unfold State.countBytes
  split
  · exact byteArrival_keeps ..
  · exact .refl s

/-! ## Copies and request engines -/

theorem readSources_keeps (n seen xs) (s : State) : Keeps s (readSources n seen xs s).2 := by
  induction xs generalizing s with
  | nil => exact .refl s
  | cons x t ih =>
    unfold readSources
    grind [Keeps, State.engineRead_keeps]

theorem execVcpy_keeps (s : State) (p d a w) : OutKeeps s (execVcpy p d a w s) := by
  unfold execVcpy
  extract_lets -underBinder n dsts srcs peers
  refine wordMarked_keeps fun s => ?_
  extract_lets -underBinder xs
  split
  · exact .error ..
  · extract_lets -underBinder held
    split
    · exact .error ..
    · split
      · exact .error ..
      · refine .ok ?_
        grind [Keeps, State.setWarp_keeps, State.cacheAll_keeps, State.advance_keeps, State.refuseEngine_keeps,
          State.newOp_keeps, readSources_keeps]

theorem landLanes_keeps (o drop xs ids) (s : State) : Keeps s (landLanes o drop xs ids s).2 := by
  induction xs generalizing s ids with
  | nil => exact .refl s
  | cons x t ih =>
    unfold landLanes
    grind [Keeps, State.digestCopy_keeps, State.engineStore_keeps, State.joinGran_keeps]

theorem execLaneCopy_keeps (s : State) (id) : OutKeeps s (execLaneCopy id s) := by
  unfold execLaneCopy
  grind [OutKeeps, Keeps, State.clearCovered_keeps, State.readFor_keeps, State.noteTiles_keeps, State.opMoved_keeps,
    State.finishOp_keeps, landLanes_keeps]

theorem execCbatch_keeps (s : State) (p d) : OutKeeps s (execCbatch p d s) :=
  word_keeps fun s => by
    split
    · exact .ok (s.await_keeps ..)
    · exact .ok (((closeBatch_keeps ..).trans (State.advance_keeps ..)).trans (settleCopies_keeps ..))

theorem execCwait_keeps (s : State) (p a) : OutKeeps s (execCwait p a s) :=
  word_keeps fun s => .ok ((s.await_keeps ..).trans (settleCopies_keeps ..))

/-- A descriptor's read keeps what it leaves. -/
theorem State.readDescAt_keeps (s : State) (a n) {v l t} (h : s.readDescAt a n = .ok v l t) : Keeps s t := by
  unfold State.readDescAt at h
  grind [Keeps, State.engineRead_keeps]

theorem State.readDesc_keeps (s : State) (a n) {v l t} (h : s.readDesc a n = .ok v l t) : Keeps s t :=
  s.readDescAt_keeps _ _ h

theorem absentDesc_keeps (s : State) (p kind) : Keeps s (absentDesc p kind s) :=
  (s.refuseEngine_keeps ..).trans (State.advance_keeps ..)

theorem execKick_keeps (s : State) (p a) : OutKeeps s (execKick p a s) := by
  unfold execKick
  extract_lets -underBinder y peer
  refine wordMarked_keeps fun s => ?_
  split
  · exact .error ..
  · exact .ok (absentDesc_keeps ..)
  · next h =>
    have hs := s.readDesc_keeps _ _ h
    dsimp only
    split
    · exact .error ..
    · split
      · exact .error ..
      · exact .ok ((hs.trans (State.newOp_keeps ..)).trans (State.advance_keeps ..))

theorem State.countElem_keeps (s : State) (o x lreq landed) : Keeps s (s.countElem o x lreq landed) := by
  unfold State.countElem
  grind [Keeps, State.countBytes_keeps, foldl_keeps]

/-- An element that lands in a window. -/
theorem State.moveElem_land_keeps (s : State) (o store lreq e a sp declined) {bs c bad t}
    (h : s.moveElem o store lreq e a sp declined = .land bs c bad t) : Keeps s t := by
  unfold State.moveElem at h
  grind [Keeps, State.engineRead_keeps]

/-- An element that a store brings to memory. -/
theorem State.moveElem_store_keeps (s : State) (o store lreq e a sp declined) {k bs c bad t}
    (h : s.moveElem o store lreq e a sp declined = .store k bs c bad t) : Keeps s t := by
  unfold State.moveElem at h
  grind [Keeps, State.engineRead_keeps]

theorem State.landAll_keeps (s : State) (o ks bs c bad) : Keeps s (s.landAll o ks bs c bad).2 := by
  unfold State.landAll
  grind [Keeps, State.engineStore_keeps, foldl_snd_keeps]

theorem State.refuseOnce_keeps (s : State) (o g why) : Keeps s (s.refuseOnce o g why).2 := by
  unfold State.refuseOnce
  grind [Keeps, State.refuseOp_keeps]

theorem elemDone_keeps (s : State) (o x addr lreq g ids wrote) : Keeps s (elemDone o x addr lreq g ids wrote s) := by
  unfold elemDone
  grind [Keeps, State.clearCovered_keeps, State.opMoved_keeps, State.countElem_keeps, State.refuseOnce_keeps]

theorem moveRequest_keeps (s : State) (o x addr lreq g i) : Keeps s (moveRequest o x addr lreq g i s) := by
  unfold moveRequest
  grind [Keeps, State.cache_keeps, State.digest_keeps, State.engineStore_keeps, State.offer_keeps, State.setOp_keeps,
    State.landAll_keeps, State.refuseOnce_keeps, elemDone_keeps, → State.moveElem_land_keeps,
    → State.moveElem_store_keeps]

/-! ## Modular arithmetic -/

theorem putPairs_keeps (d v lb ls) (s : State) : Keeps s (putPairs d v lb ls s) := by
  induction ls generalizing s with
  | nil => exact .refl s
  | cons l rest ih => exact (foldl_keeps (fun s x => s.setV_keeps ..) ..).trans (ih _)

theorem modEffect_keeps (s : State) (p d b pairs outs f) : Keeps s (modEffect p d b pairs outs f s) := by
  unfold modEffect
  grind [Keeps, State.advance_keeps, State.setFlags_keeps, putPairs_keeps]

theorem mod2_keeps (s : State) (p d a b f) : Keeps s (mod2 p d a b f s) :=
  modEffect_keeps ..

theorem execVqadd_keeps (s : State) (p d a b) : OutKeeps s (execVqadd p d a b s) :=
  word_keeps fun _ => .ok (mod2_keeps ..)

theorem execVqsub_keeps (s : State) (p d a b) : OutKeeps s (execVqsub p d a b s) :=
  word_keeps fun _ => .ok (mod2_keeps ..)

theorem execVqmul_keeps (s : State) (p d a b) : OutKeeps s (execVqmul p d a b s) :=
  word_keeps fun _ => .ok (mod2_keeps ..)

theorem butterfly_keeps (s : State) (p d a b f) : Keeps s (butterfly p d a b f s) :=
  modEffect_keeps ..

theorem execVqbfly_keeps (s : State) (p d a b) : OutKeeps s (execVqbfly p d a b s) :=
  word_keeps fun _ => .ok (butterfly_keeps ..)

theorem execVqbflyi_keeps (s : State) (p d a b) : OutKeeps s (execVqbflyi p d a b s) :=
  word_keeps fun _ => .ok (butterfly_keeps ..)

/-! ## Privileged instructions -/

theorem execEret_keeps (s : State) : OutKeeps s (execEret s) :=
  word_keeps fun s => by
    split
    · exact .error ..
    · exact .ok (s.eretTo_keeps)

theorem State.dropCores_keeps (s : State) (f c lo n) : Keeps s (s.dropCores f c lo n) := by
  unfold State.dropCores
  grind [Keeps, State.setCoreAt_keeps, foldl_keeps]

theorem State.dropDies_keeps (s : State) (f c lo n) : Keeps s (s.dropDies f c lo n) :=
  foldl_keeps (fun s d => by exact .of_same rfl rfl) ..

theorem execTlbinv_keeps (s : State) (p a b r) : OutKeeps s (execTlbinv p a b r s) :=
  word_keeps fun s => by grind [EffKeeps, Keeps, State.advance_keeps, State.dropCores_keeps, State.dropDies_keeps]

theorem State.dropLines_keeps (s : State) (pav pages) : Keeps s (s.dropLines pav pages) := by
  unfold State.dropLines
  grind [Keeps, State.setCoreAt_keeps, foldl_keeps]

theorem execCinv_keeps (s : State) (p a b l) : OutKeeps s (execCinv p a b l s) :=
  word_keeps fun s => by grind [EffKeeps, Keeps, State.advance_keeps, State.dropLines_keeps]

theorem State.setKeySlot_keeps (s : State) (k x) : Keeps s (s.setKeySlot k x) :=
  .of_same rfl rfl

theorem State.fillSlot_keeps (s : State) (k kind c pav key) : Keeps s (s.fillSlot k kind c pav key) :=
  s.setKeySlot_keeps ..

theorem State.drawSlot_keeps (s : State) (k kind c pav) : Keeps s (s.drawSlot k kind c pav) := by
  unfold State.drawSlot
  grind [Keeps, State.fillSlot_keeps]

theorem zeroKeys_keeps (s : State) (f n pav) : Keeps s (zeroKeys f n pav s) := by
  unfold zeroKeys
  grind [Keeps, State.setKeySlot_keeps, foldl_keeps]

theorem settleKzero_keeps (s : State) : Keeps s (settleKzero s) := by
  unfold settleKzero
  grind [Keeps, State.asWarp_keeps, State.finishWait_keeps, zeroKeys_keeps, foldl_keeps]

theorem execKzero_keeps (s : State) (p a b) : OutKeeps s (execKzero p a b s) :=
  word_keeps fun s => by
    dsimp only
    split
    · exact .error ..
    · split
      · exact .error ..
      · split
        · exact .ok (s.await_keeps ..)
        · exact .ok ((zeroKeys_keeps ..).trans (State.advance_keeps ..))

theorem State.setJob_keeps (s : State) (j x) : Keeps s (s.setJob j x) :=
  .of_same rfl rfl

theorem execKstat_keeps (s : State) (p d a) : OutKeeps s (execKstat p d a s) :=
  word_keeps fun s => by
    dsimp only
    split
    · exact .ok ((s.setS_keeps ..).trans (State.advance_keeps ..))
    · split
      · exact .ok ((s.setS_keeps ..).trans (State.advance_keeps ..))
      · exact .error ..

theorem State.readVirtual_keeps (s : State) (align va n) {r} (h : s.readVirtual align va n = .ok r) : Keeps s r.2 := by
  unfold State.readVirtual at h
  grind [Keeps, State.refuseFirst_keeps, State.readEvent_keeps, foldl_snd_keeps]

theorem startScrub_keeps (s : State) (desc) : Keeps s (startScrub desc s).2 := by
  unfold startScrub
  grind [Keeps, State.setJob_keeps]

theorem execScrub_keeps (s : State) (p d a) : OutKeeps s (execScrub p d a s) :=
  word_keeps fun s => by grind [EffKeeps, Keeps, Eff.bind_eq, → State.readVirtual_keeps, State.cacheAll_keeps,
    startScrub_keeps, State.setS_keeps, State.advance_keeps]

/-! ## The matrix engine -/

theorem State.setBslotAt_keeps (s : State) (core n x) : Keeps s (s.setBslotAt core n x) :=
  s.setCoreAt_keeps ..

theorem State.mapGroups_keeps (s : State) (core f) : Keeps s (s.mapGroups core f) :=
  s.setCoreAt_keeps ..

/-- A descriptor's read from the warp's own window. -/
theorem State.readOwn_keeps (s : State) (a n) {v l t} (h : s.readOwn a n = .ok v l t) : Keeps s t := by
  unfold State.readOwn at h
  grind [→ State.readDescAt_keeps]

/-- A read of the stationary load port. -/
theorem State.portRead_keeps (s : State) (core n va len) {bs l t} (h : s.portRead core n va len = .ok bs l t) :
    Keeps s t := by
  unfold State.portRead at h
  grind [Keeps, State.cache_keeps, State.engineRead_keeps]

theorem State.closeGroups_keeps (s : State) (core n) : Keeps s (s.closeGroups core n) := by
  unfold State.closeGroups
  grind [Keeps, State.mapGroups_keeps]

theorem State.settleSlots_keeps (s : State) (core) : Keeps s (s.settleSlots core) := by
  unfold State.settleSlots
  grind [Keeps, State.setBslotAt_keeps, foldl_keeps]

theorem execMldb_keeps (s : State) (p a b n) : OutKeeps s (execMldb p a b n s) :=
  word_keeps fun s => by grind [EffKeeps, Keeps, State.intern_keeps, State.advance_keeps, State.setBslotAt_keeps,
    State.closeGroups_keeps, → State.readOwn_keeps]

theorem execMfree_keeps (s : State) (p n) : OutKeeps s (execMfree p n s) :=
  word_keeps fun s => by grind [EffKeeps, Keeps, State.advance_keeps, State.setBslotAt_keeps, State.closeGroups_keeps,
    State.settleSlots_keeps]

theorem portLoad_keeps (core n ms acc) (s : State) : Keeps s (portLoad core n ms acc s).2 := by
  induction ms generalizing s acc with
  | nil =>
    show Keeps s s
    exact .refl s
  | cons m t ih =>
    show Keeps s (match s.portRead core n _ 512 with
      | .waits _ => _
      | .fails _ => _
      | .ok _ _ _ => _ : (Option (List Byte) × Option Nat × Option Nat) × State).2
    split
    · exact .refl s
    · exact .refl s
    · next h₁ =>
      have hs₁ := s.portRead_keeps _ _ _ _ h₁
      split
      · exact .refl s
      · exact .refl s
      · next h₂ =>
        have hs₂ := hs₁.trans (State.portRead_keeps _ _ _ _ _ h₂)
        dsimp only
        split
        · exact hs₂.trans (State.setBslotAt_keeps ..)
        · split
          · exact hs₂.trans (State.setBslotAt_keeps ..)
          · exact (hs₂.trans (State.setBslotAt_keeps ..)).trans (ih ..)

theorem State.dropQuarters_keeps (s : State) (core ids) : Keeps s (s.dropQuarters core ids) := by
  unfold State.dropQuarters
  grind [Keeps, State.touch_keeps, State.mapGroups_keeps, foldl_keeps]

theorem mstatEnd_keeps (s : State) (d clr) : Keeps s (mstatEnd d clr s) := by
  unfold mstatEnd
  grind [Keeps, State.setWarp_keeps, State.setS_keeps]

theorem mchkEnd_keeps (s : State) (d clr) : Keeps s (mchkEnd d clr s) := by
  unfold mchkEnd
  grind [Keeps, State.setWarp_keeps, State.setS_keeps]

theorem settleStats_keeps (s : State) (core) : Keeps s (settleStats core s) := by
  unfold settleStats
  grind [Keeps, State.asWarp_keeps, State.finishWait_keeps, mstatEnd_keeps, mchkEnd_keeps, foldl_keeps]

theorem State.haltQuarter_keeps (s : State) (c q) : Keeps s (s.haltQuarter c q) := by
  simp only [State.haltQuarter]
  split
  · exact s.haltWarp_keeps ..
  · exact .refl s

theorem State.discard_keeps (s : State) (core c qs halts) : Keeps s (s.discard core c qs halts) := by
  unfold State.discard
  grind [Keeps, State.letGo_keeps, State.settleSlots_keeps, State.dropQuarters_keeps, settleStats_keeps,
    State.haltQuarter_keeps, foldl_keeps]

theorem settleLoading_keeps (s : State) (core slot) : Keeps s (settleLoading core slot s) := by
  unfold settleLoading
  grind [Keeps, State.setGangAt_keeps]

theorem execSlotLoad_keeps (s : State) (core slot) : OutKeeps s (execSlotLoad core slot s) := by
  unfold execSlotLoad
  grind [OutKeeps, Keeps, State.touch_keeps, State.logRefusal_keeps, State.offer_keeps, settleKzero_keeps,
    State.setBslotAt_keeps, State.mapGroups_keeps, State.settleSlots_keeps, portLoad_keeps, State.discard_keeps,
    settleLoading_keeps]

theorem execMunf_keeps (s : State) (p a) : OutKeeps s (execMunf p a s) :=
  word_keeps fun s => by grind [EffKeeps, Keeps, State.setWarp_keeps, State.intern_keeps, State.advance_keeps,
    → State.readOwn_keeps]

theorem execMscaleA_keeps (s : State) (p a b) : OutKeeps s (execMscaleA p a b s) :=
  word_keeps fun s => by grind [EffKeeps, Keeps, State.setWarp_keeps, State.intern_keeps, State.advance_keeps]

theorem execMscaleB_keeps (s : State) (p a b) : OutKeeps s (execMscaleB p a b s) :=
  word_keeps fun s => by
    extract_lets -underBinder n x v len
    split
    · exact .error ..
    · split
      · exact .error ..
      · split
        · exact .error ..
        · split
          · dsimp only
            split
            · exact .error ..
            · split
              · exact .error ..
              · exact .ok (((((s.engineRead_keeps ..).trans (State.intern_keeps ..)).trans
                  (State.closeGroups_keeps ..)).trans (State.setBslotAt_keeps ..)).trans
                  ((State.mapGroups_keeps ..).trans (State.advance_keeps ..)))
          · exact .error ..

theorem joinGroup_keeps (s : State) (slot g q) : Keeps s (joinGroup s slot g q) := by
  unfold joinGroup
  grind [Keeps, State.fresh_keeps, State.mapGroups_keeps]

theorem issueQuarter_keeps (s : State) (a q) : Keeps s (issueQuarter a s q) := by
  unfold issueQuarter
  grind [Keeps, State.fresh_keeps, joinGroup_keeps]

theorem execMmq_keeps (s : State) (p a) : OutKeeps s (execMmq p a s) :=
  word_keeps fun s => by grind [EffKeeps, Keeps, State.advance_keeps, issueQuarter_keeps, foldl_keeps]

theorem execPassGroupLaunch_keeps (s : State) (core group) : OutKeeps s (execPassGroupLaunch core group s) := by
  unfold execPassGroupLaunch
  grind [OutKeeps, Keeps, State.mapGroups_keeps]

theorem fetchRows_keeps (g q ms) (s : State) : Keeps s (fetchRows g q ms s).2 := by
  induction ms generalizing s with
  | nil => exact .refl s
  | cons m t ih =>
    unfold fetchRows
    extract_lets -underBinder gk gb grans read e c rest
    have hread (o n dflt) (s : State) : Keeps s (read o n dflt s).2 := by
      unfold read
      split
      · exact .refl s
      · exact s.engineRead_keeps ..
    exact ((hread ..).trans (hread ..)).trans (ih _)

theorem fetchAll_keeps (g qs) (s : State) : Keeps s (fetchAll g qs s).2 := by
  induction qs generalizing s with
  | nil => exact .refl s
  | cons q t ih => exact (fetchRows_keeps ..).trans (ih _)

theorem State.countCorrected_keeps (s : State) (qs) : Keeps s (s.countCorrected qs) := by
  unfold State.countCorrected
  grind [Keeps, State.setWarpAt_keeps, foldl_keeps]

theorem execPassExecute_keeps (s : State) (core group err) : OutKeeps s (execPassExecute core group err s) := by
  unfold execPassExecute
  grind [OutKeeps, Keeps, State.mapGroups_keeps, State.haltQuarter_keeps, State.discard_keeps, fetchAll_keeps,
    State.countCorrected_keeps, foldl_keeps]

theorem drainTile_keeps (s : State) (g q r core) : Keeps s (drainTile g q r core s).2.2 :=
  foldl_snd_snd_keeps (fun x i => by exact x.2.2.engineStore_keeps ..) ..

theorem State.noteDrain_keeps (s : State) (q lbl flags ids) : Keeps s (s.noteDrain q lbl flags ids) := by
  unfold State.noteDrain
  grind [Keeps, State.setWarp_keeps, State.intern_keeps, State.asWarp_keeps]

theorem execPassDrain_keeps (s : State) (core group) : OutKeeps s (execPassDrain core group s) := by
  unfold execPassDrain
  grind [OutKeeps, Keeps, State.letGo_keeps, State.settleSlots_keeps, State.dropQuarters_keeps, settleStats_keeps,
    drainTile_keeps, State.noteDrain_keeps, foldl_keeps]

theorem execMstat_keeps (s : State) (p d c) : OutKeeps s (execMstat p d c s) :=
  word_keeps fun s => by
    split
    · exact .ok (s.await_keeps ..)
    · exact .ok ((mstatEnd_keeps ..).trans (State.advance_keeps ..))

theorem execMchk_keeps (s : State) (p d c) : OutKeeps s (execMchk p d c s) :=
  word_keeps fun s => by
    split
    · exact .ok (s.await_keeps ..)
    · exact .ok ((mchkEnd_keeps ..).trans (State.advance_keeps ..))

/-! ## Remote operations and channels -/

theorem State.setChan_keeps (s : State) (c h x) : Keeps s (s.setChan c h x) :=
  s.setCtxAt_keeps ..

theorem readRange_keeps (seen) (xs : List ((Nat × Nat) × Chk)) (s : State) : Keeps s (readRange seen xs s).2 := by
  induction xs generalizing s with
  | nil => exact .refl s
  | cons x t ih =>
    unfold readRange
    grind [Keeps, State.engineRead_keeps]

theorem State.issueOp_keeps (s : State) (h kind owns reads) : Keeps s (s.issueOp h kind owns reads).2 := by
  unfold State.issueOp
  grind [Keeps, State.newOp_keeps, State.setChan_keeps]

theorem State.refuseLocal_keeps (s : State) (cs) : Keeps s (s.refuseLocal cs) := by
  unfold State.refuseLocal
  split
  · exact s.refuseEngine_keeps ..
  · exact .refl s

theorem execRput_keeps (s : State) (p a b) : OutKeeps s (execRput p a b s) :=
  wordMarked_keeps fun s => by grind [EffKeeps, Keeps, State.advance_keeps, State.cacheRange_keeps, absentDesc_keeps,
    readRange_keeps, State.issueOp_keeps, State.refuseLocal_keeps, → State.readDesc_keeps]

theorem execRget_keeps (s : State) (p a b) : OutKeeps s (execRget p a b s) := by
  unfold execRget
  refine wordMarked_keeps fun s => ?_
  grind [EffKeeps, Keeps, State.send_keeps, State.advance_keeps, State.cacheRange_keeps, absentDesc_keeps,
    State.issueOp_keeps, State.refuseLocal_keeps, → State.readDesc_keeps]

theorem sendEffect_keeps (s : State) (i p a b defer) : EffKeeps s (sendEffect i p a b defer s) := by
  unfold sendEffect
  grind [EffKeeps, Keeps, State.advance_keeps, State.cacheRange_keeps, absentDesc_keeps, State.setChan_keeps,
    readRange_keeps, State.issueOp_keeps, State.refuseLocal_keeps, → State.readDesc_keeps]

theorem execFsend_keeps (s : State) (p a b) : OutKeeps s (execFsend p a b s) :=
  wordMarked_keeps fun _ => sendEffect_keeps ..

theorem execFsendDefer_keeps (s : State) (p a b) : OutKeeps s (execFsendDefer p a b s) :=
  wordMarked_keeps fun _ => sendEffect_keeps ..

theorem execFcomb_keeps (s : State) (p a b o) : OutKeeps s (execFcomb p a b o s) :=
  wordMarked_keeps fun s => by grind [EffKeeps, Keeps, State.advance_keeps, State.cacheRange_keeps, absentDesc_keeps,
    readRange_keeps, State.issueOp_keeps, State.refuseLocal_keeps, → State.readDesc_keeps]

theorem State.stampOp_keeps (s : State) (o stamp v c) : Keeps s (s.stampOp o stamp v c) := by
  unfold State.stampOp
  split
  · exact s.stampStore_keeps ..
  · exact .refl s

theorem State.statusOp_keeps (s : State) (o h stamp v) : Keeps s (s.statusOp o h stamp v) :=
  (s.stampOp_keeps ..).trans (State.finishOp_keeps ..)

theorem State.loseSend_keeps (s : State) (o h q stamp) : Keeps s (s.loseSend o h q stamp) :=
  (s.setChan_keeps ..).trans (State.statusOp_keeps ..)

theorem execRemoteSourceRead_keeps (s : State) (id) : OutKeeps s (execRemoteSourceRead id s) := by
  unfold execRemoteSourceRead
  grind [OutKeeps, Keeps, State.send_keeps, State.setOp_keeps, State.readFor_keeps, State.finishOp_keeps,
    State.countBytes_keeps, State.setChan_keeps, State.loseSend_keeps]

theorem landRange_keeps (o c bs bad gone) (xs : List ((Nat × Nat) × Option Nat)) (r) (s : State) :
    Keeps s (landRange o c bs bad gone xs r s).2 := by
  induction xs generalizing r s with
  | nil => exact .refl s
  | cons x t ih =>
    unfold landRange
    grind [Keeps, State.engineStore_keeps]

theorem execRgetDataReturn_keeps (s : State) (id r) : OutKeeps s (execRgetDataReturn id r s) := by
  unfold execRgetDataReturn
  grind [OutKeeps, Keeps, State.clearCovered_keeps, State.finishOp_keeps, State.countBytes_keeps, State.stampOp_keeps,
    landRange_keeps]

theorem execSendStatus_keeps (s : State) (id status) : OutKeeps s (execSendStatus id status s) := by
  unfold execSendStatus
  split
  · exact .next (.refl s)
  · split
    · split
      · exact .next (.refl s)
      · exact .next (s.statusOp_keeps ..)
    · exact .next (.refl s)

theorem execSendUnreachable_keeps (s : State) (id) : OutKeeps s (execSendUnreachable id s) := by
  unfold execSendUnreachable
  split
  · exact .next (.refl s)
  · split
    · split
      · exact .next (.refl s)
      · exact .next (s.loseSend_keeps ..)
    · exact .next (.refl s)

theorem execCombineResult_keeps (s : State) (id hdr payload) : OutKeeps s (execCombineResult id hdr payload s) := by
  unfold execCombineResult
  grind [OutKeeps, Keeps, State.clearCovered_keeps, State.finishOp_keeps, State.stampOp_keeps, landRange_keeps]

theorem State.refuseFar_keeps (s : State) (c why) : Keeps s (s.refuseFar c why) :=
  s.logRefusal_keeps ..

theorem State.hold_keeps (s : State) (h c pages) : Keeps s (s.hold h c pages) :=
  .after (foldl_keeps (fun s _ => s.offer_keeps ..) ..) rfl rfl

theorem landFar_keeps (cl bs bad gone) (xs : List ((Nat × Nat) × Chk)) (s : State) :
    Keeps s (landFar cl bs bad gone xs s).2 := by
  induction xs generalizing s with
  | nil => exact .refl s
  | cons x t ih =>
    unfold landFar
    grind [Keeps, State.engineStore_keeps]

theorem State.refuseFarOpt_keeps (s : State) (c w) : Keeps s (s.refuseFarOpt c w) := by
  unfold State.refuseFarOpt
  split
  · exact s.refuseFar_keeps ..
  · exact .refl s

theorem State.stampFar_keeps (s : State) (cl r v ids) : Keeps s (s.stampFar cl r v ids) := by
  unfold State.stampFar
  split
  · split
    · exact s.stampStore_keeps ..
    · exact .refl s
  · exact .refl s

theorem State.refuseAccess_keeps (s : State) (c w r) : Keeps s (s.refuseAccess c w r) :=
  s.refuseFarOpt_keeps ..

theorem attemptPut_keeps (s : State) (h m) : Keeps s (attemptPut h m s) := by
  unfold attemptPut
  grind [Keeps, State.clearCovered_keeps, landFar_keeps, State.stampFar_keeps, State.refuseAccess_keeps,
    State.hold_keeps]

theorem readFar_keeps (c cl declined va) (ps : List (Nat × Nat)) (s : State) :
    Keeps s (readFar c cl declined va ps s).2 := by
  induction ps generalizing s with
  | nil => exact .refl s
  | cons p t ih =>
    unfold readFar
    grind [Keeps, State.engineRead_keeps]

theorem attemptGet_keeps (s : State) (h m) : Keeps s (attemptGet h m s) := by
  unfold attemptGet
  grind [Keeps, State.send_keeps, State.refuseFarOpt_keeps, readFar_keeps, State.hold_keeps]

theorem State.endSend_keeps (s : State) (c hn r q ids) : Keeps s (s.endSend c hn r q ids) := by
  unfold State.endSend
  grind [Keeps, State.setChan_keeps, State.stampFar_keeps]

theorem State.missSend_keeps (s : State) (m) : Keeps s (s.missSend m) := by
  simp only [State.missSend]
  split
  · exact .refl s
  · exact s.setCtxAt_keeps ..

theorem State.passOver_keeps (s : State) (c hn qs) : Keeps s (s.passOver c hn qs) :=
  s.setChan_keeps ..

theorem attemptSend_keeps (s : State) (h m) : Keeps s (attemptSend h m s) := by
  unfold attemptSend
  grind [Keeps, State.send_keeps, State.clearCovered_keeps, landFar_keeps, State.refuseAccess_keeps,
    State.endSend_keeps, State.missSend_keeps, State.passOver_keeps, State.hold_keeps]

theorem attempt_keeps (s : State) (h) : Keeps s (attempt h s) := by
  unfold attempt
  split
  · split
    · exact attemptPut_keeps ..
    · split
      · exact .refl s
      · exact s.hold_keeps ..
  · split
    · exact attemptGet_keeps ..
    · exact s.hold_keeps ..
  · exact attemptSend_keeps ..

theorem arrive_keeps (s : State) (k) : Keeps s (arrive k s) := by
  unfold arrive
  grind [Keeps, State.fresh_keeps, attempt_keeps]

theorem retryHeld_keeps (s : State) (h) : Keeps s (retryHeld h s) :=
  .after (attempt_keeps ..) rfl rfl

theorem retryAll_keeps (s : State) : Keeps s (retryAll s) := by
  unfold retryAll
  grind [Keeps, retryHeld_keeps, foldl_keeps]

theorem execRemotePutArrival_keeps (s : State) (m) : OutKeeps s (execRemotePutArrival m s) :=
  .next (arrive_keeps ..)

theorem execRemoteGetArrival_keeps (s : State) (m) : OutKeeps s (execRemoteGetArrival m s) :=
  .next (arrive_keeps ..)

theorem execSendArrival_keeps (s : State) (m) : OutKeeps s (execSendArrival m s) :=
  .next (arrive_keeps ..)

theorem execSendDeferAdmit_keeps (s : State) (id) : OutKeeps s (execSendDeferAdmit id s) := by
  unfold execSendDeferAdmit
  grind [OutKeeps, Keeps, retryHeld_keeps]

theorem execRemoteHoldTimeout_keeps (s : State) (id) : OutKeeps s (execRemoteHoldTimeout id s) := by
  unfold execRemoteHoldTimeout
  grind [OutKeeps, Keeps, retryHeld_keeps]

theorem Round.finish_keeps (s : State) (r kind fcode payload) : Keeps s (Round.finish r kind fcode payload s) :=
  .after (foldl_keeps (fun s _ => s.send_keeps ..) ..) rfl rfl

theorem execCombinerContribution_keeps (s : State) (src hdr payload bad) :
    OutKeeps s (execCombinerContribution src hdr payload bad s) := by
  unfold execCombinerContribution
  grind [OutKeeps, Keeps, State.send_keeps, Round.finish_keeps]

theorem execCombinerTimeout_keeps (s : State) (group seq) : OutKeeps s (execCombinerTimeout group seq s) := by
  unfold execCombinerTimeout
  grind [OutKeeps, Keeps, Round.finish_keeps]

theorem State.freeHandle_keeps (s : State) (c) : Keeps s (s.freeHandle c).2 := by
  unfold State.freeHandle
  grind [Keeps, State.pick_keeps]

theorem State.takeMissed_keeps (s : State) (c h) : Keeps s (s.takeMissed c h) :=
  (s.setCtxAt_keeps ..).trans (State.passOver_keeps ..)

theorem execFopen_keeps (s : State) (p d a b) : OutKeeps s (execFopen p d a b s) :=
  wordMarked_keeps fun s => by grind [EffKeeps, Keeps, State.setS_keeps, State.advance_keeps,
    State.refuseEngine_keeps, State.setChan_keeps, retryAll_keeps, State.freeHandle_keeps, State.takeMissed_keeps,
    → State.readDesc_keeps]

theorem execFclose_keeps (s : State) (p a) : OutKeeps s (execFclose p a s) :=
  word_keeps fun s => by
    dsimp only
    split
    · exact .error ..
    · exact .ok ((s.setChan_keeps ..).trans (State.advance_keeps ..))

/-! ## Contexts with work -/

theorem State.setQueue_keeps (s : State) (c q x) : Keeps s (s.setQueue c q x) :=
  s.setCtxAt_keeps ..

theorem State.refreshIdle_keeps (s : State) (p) : Keeps s (s.refreshIdle p) := by
  unfold State.refreshIdle
  grind [Keeps, State.setCtxAt_keeps, foldl_keeps]

/-! ## Queues, signals and host copies -/

theorem State.answer_keeps (s : State) (ses h x body) : Keeps s (s.answer ses h x body) :=
  s.send_keeps ..

theorem State.dropFaults_keeps (s : State) (who) : Keeps s (s.dropFaults who) :=
  .of_same rfl rfl

theorem State.signalRecord_keeps (s : State) (c lseq e va) : Keeps s (s.signalRecord c lseq e va) :=
  s.writeRecord_keeps ..

theorem State.setSignalling_keeps (s : State) (lseq b) : Keeps s (s.setSignalling lseq b) :=
  s.setLaunchAt_keeps ..

/-- The state that a read or a write of a signal's word leaves. -/
def SigOut.state : SigOut → State
  | .waits s => s
  | .fails _ s => s
  | .ok _ _ s => s

theorem readSignal_keeps (s : State) (c who runtime seen va) :
    Keeps s (readSignal c who runtime seen va s).state := by
  unfold readSignal
  split
  · exact .refl s
  · exact s.offer_keeps ..
  · exact s.logRefusal_keeps ..
  · exact (s.leave_keeps ..).trans (State.choose_keeps ..)

theorem writeSignal_keeps (s : State) (c who runtime hb va add v) :
    Keeps s (writeSignal c who runtime hb va add v s).state := by
  unfold writeSignal
  split
  · exact .refl s
  · exact s.offer_keeps ..
  · exact s.logRefusal_keeps ..
  · exact (((s.leave_keeps ..).trans (State.atomicValue_keeps ..)).trans (State.remoteAtomic_keeps ..)).trans
      (State.joinGran_keeps ..)

theorem testWaits_keeps (c who runtime) (ws : List (Word × Word)) (seen) (s : State) :
    Keeps s (testWaits c who runtime ws seen s).state := by
  induction ws generalizing seen s with
  | nil => exact .refl s
  | cons w t ih =>
    unfold testWaits
    have h := readSignal_keeps s c who runtime seen w.1
    split
    · next hr =>
      rw [hr] at h
      split
      · exact h.trans (ih ..)
      · exact h
    · exact h

theorem completeSignal_keeps (s : State) (lseq) : Keeps s (completeSignal lseq s) := by
  unfold completeSignal
  grind [Keeps, SigOut.state, writeSignal_keeps, State.dropFaults_keeps, State.signalRecord_keeps,
    State.setSignalling_keeps]

theorem retrySignals_keeps (s : State) : Keeps s (retrySignals s) := by
  unfold retrySignals
  grind [Keeps, completeSignal_keeps, foldl_keeps]

theorem State.popQueue_keeps (s : State) (c q ids) : Keeps s (s.popQueue c q ids) :=
  (s.setQueue_keeps ..).trans (State.dropFaults_keeps ..)

theorem finishLaunch_keeps (s : State) (lseq status) : Keeps s (finishLaunch lseq status s) := by
  unfold finishLaunch
  grind [Keeps, State.setLaunchAt_keeps, State.report_keeps, completeSignal_keeps, State.popQueue_keeps]

theorem startCopy_keeps (s : State) (c q ses hdr src dst len) : Keeps s (startCopy c q ses hdr src dst len s) := by
  unfold startCopy
  grind [Keeps, State.fresh_keeps, State.startOp_keeps]

theorem queueStep_keeps (s : State) (c q) : Keeps s (queueStep c q s).2 := by
  unfold queueStep
  grind [Keeps, SigOut.state, readSignal_keeps, writeSignal_keeps, testWaits_keeps, State.setLaunchAt_keeps,
    State.answer_keeps, State.dropFaults_keeps, State.popQueue_keeps, finishLaunch_keeps, startCopy_keeps]

theorem runQueue_keeps (c q n) (s : State) : Keeps s (runQueue c q n s) := by
  induction n generalizing s with
  | zero => exact .refl s
  | succ n ih =>
    unfold runQueue
    extract_lets r
    have h : Keeps s r.2 := queueStep_keeps ..
    split
    · exact h.trans (ih ..)
    · exact h

theorem settleQueue_keeps (s : State) (c q) : Keeps s (settleQueue c q s) := by
  unfold settleQueue
  grind [Keeps, State.refreshIdle_keeps, runQueue_keeps]

theorem execLaunchReady_keeps (s : State) (c q) : OutKeeps s (execLaunchReady c q s) :=
  .next (settleQueue_keeps ..)

theorem refuseHost_keeps (s : State) (o g why) : Keeps s (refuseHost o g why s).2 := by
  unfold refuseHost
  grind [Keeps, State.logRefusal_keeps]

theorem landHost_keeps (s : State) (o g i dst bs c bad) : Keeps s (landHost o g i dst bs c bad s).st := by
  unfold landHost
  split
  · split
    · exact s.engineStore_keeps ..
    · exact .refl s
  · exact refuseHost_keeps ..
  · exact .refl s
  · exact .refl s

theorem moveHost_keeps (s : State) (o ses hdr q src dst len g i) :
    Keeps s (moveHost o ses hdr q src dst len g i s) := by
  unfold moveHost
  grind [Keeps, State.clearCovered_keeps, State.engineRead_keeps, State.offer_keeps, State.setOp_keeps,
    State.opMoved_keeps, refuseHost_keeps, landHost_keeps]

theorem execRequestElement_keeps (s : State) (id i) : OutKeeps s (execRequestElement id i s) := by
  unfold execRequestElement
  split
  · exact .next (.refl s)
  · split
    · exact .ite (.next (.refl s)) (.next (moveRequest_keeps ..))
    · exact .ite (.next (.refl s)) (.next (moveHost_keeps ..))
    · exact .next (.refl s)

theorem State.requestStatus_keeps (s : State) (o addr lreq g) : Keeps s (s.requestStatus o addr lreq g).2 := by
  unfold State.requestStatus
  grind [Keeps, State.engineStore_keeps]

theorem execRequestComplete_keeps (s : State) (id) : OutKeeps s (execRequestComplete id s) := by
  unfold execRequestComplete
  grind [OutKeeps, Keeps, State.finishOp_keeps, State.countElem_keeps, State.answer_keeps, State.popQueue_keeps,
    settleQueue_keeps, State.requestStatus_keeps]

/-! ## Events of warps and slots -/

theorem execSplitMergeEarly_keeps (s : State) (w a b) : OutKeeps s (execSplitMergeEarly w a b s) := by
  simp only [execSplitMergeEarly]
  split
  · exact .next (.refl s)
  · exact .next (s.setWarpAt_keeps ..)

theorem execSpawnBinTimer_keeps (s : State) (core bin) : OutKeeps s (execSpawnBinTimer core bin s) := by
  unfold execSpawnBinTimer
  grind [OutKeeps, Keeps, tryLaunch_keeps, settleSpawns_keeps]

theorem execSpawnBinLaunch_keeps (s : State) (core bin) : OutKeeps s (execSpawnBinLaunch core bin s) := by
  unfold execSpawnBinLaunch
  grind [OutKeeps, Keeps, tryLaunch_keeps, settleSpawns_keeps]

theorem execSlotDrainDone_keeps (s : State) (w) : OutKeeps s (execSlotDrainDone w s) := by
  simp only [execSlotDrainDone]
  split
  · exact .next (s.setWarpAt_keeps ..)
  · split
    · exact .next (s.setWarpAt_keeps ..)
    · exact .next (.refl s)

theorem execLocalityDecay_keeps (s : State) (core) : OutKeeps s (execLocalityDecay core s) := by
  unfold execLocalityDecay
  grind [OutKeeps, Keeps, State.setWarpAt_keeps, foldl_keeps]

theorem execStarvationIssue_keeps (s : State) (w sp) : OutKeeps s (execStarvationIssue w sp s) := by
  unfold execStarvationIssue
  split
  · exact .next (.of_same rfl rfl)
  · exact .next (.refl s)

theorem poisonSlot_keeps (s : State) (core slot) : Keeps s (poisonSlot core slot s) := by
  unfold poisonSlot
  grind [Keeps, State.setBslotAt_keeps, State.discard_keeps]

theorem execEccUncorrectable_keeps (s : State) (site) : OutKeeps s (execEccUncorrectable site s) := by
  simp only [execEccUncorrectable]
  split
  · exact .next ((s.enterPoison_keeps ..).trans (State.enterPoison_keeps ..))
  · exact .next (s.enterPoison_keeps ..)
  · split
    · exact .next (s.setPoison_keeps ..)
    · exact .next (.refl s)
  · split
    · exact .next (.refl s)
    · exact .next (s.setWarpAt_keeps ..)
  · split
    · exact .next (.refl s)
    · exact .next (s.setWarpAt_keeps ..)
  · exact .next (poisonSlot_keeps ..)
  · split
    · exact .next (s.setOp_keeps ..)
    · exact .next (.refl s)
  · split
    · exact .next (.refl s)
    · exact .next (s.setWarpAt_keeps ..)

/-! ## Clusters and the ends of pre-emptions -/

theorem State.putBlock_keeps (s : State) (id core l b) : Keeps s (s.putBlock id core l b) :=
  s.setBlockAt_keeps ..

theorem State.takeCore_keeps (s : State) (core c) : Keeps s (s.takeCore core c) := by
  simp only [State.takeCore]
  split
  · exact .refl s
  · exact s.setCoreAt_keeps ..

theorem State.markLeft_keeps (s : State) (k) : Keeps s (s.markLeft k) :=
  s.setClusterAt_keeps ..

theorem State.settleClusters_keeps (s : State) : Keeps s s.settleClusters := by
  unfold State.settleClusters
  grind [Keeps, State.setCtxAt_keeps, State.setClusterAt_keeps, State.markLeft_keeps, foldl_keeps]

/-! ## The source side of a migration -/

theorem State.setLeaving_keeps (s : State) (i m) : Keeps s (s.setLeaving i m) :=
  .of_same rfl rfl

theorem settleMigration_keeps (s : State) (c) : Keeps s (settleMigration c s) := by
  unfold settleMigration
  grind [Keeps, State.send_keeps, State.drawSlot_keeps, State.setLeaving_keeps]

/-! ## Preemption -/

theorem State.forgetFaults_keeps (s : State) (bs) : Keeps s (s.forgetFaults bs) :=
  .of_same rfl rfl

theorem State.clearBlocks_keeps (s : State) (bs) : Keeps s (s.clearBlocks bs) := by
  unfold State.clearBlocks
  grind [Keeps, State.setWarpAt_keeps, State.setCoreAt_keeps, settleKzero_keeps, State.dropQuarters_keeps,
    State.forgetFaults_keeps, foldl_keeps]

theorem dropGang_keeps (s : State) (g) : Keeps s (dropGang g s) := by
  unfold dropGang
  grind [Keeps, State.setBlockAt_keeps, State.setGangAt_keeps, State.leftCluster_keeps, State.finishOp_keeps,
    State.clearBlocks_keeps, foldl_keeps]

theorem discardGang_keeps (s : State) (g) : Keeps s (discardGang g s) := by
  unfold discardGang
  grind [Keeps, State.setLaunchAt_keeps, dropGang_keeps]

theorem discardOrSave_keeps (s : State) (deadline g) : Keeps s (discardOrSave deadline s g) := by
  simp only [discardOrSave]
  split
  · exact discardGang_keeps ..
  · split
    · exact .refl s
    · exact s.setGangAt_keeps ..

theorem preemptGangs_keeps (s : State) (k c d gs) : Keeps s (preemptGangs k c d gs s) := by
  unfold preemptGangs
  grind [Keeps, State.setClusterAt_keeps, discardOrSave_keeps, foldl_keeps]

theorem preemptCluster_keeps (s : State) (k c d) : Keeps s (preemptCluster k c d s) :=
  preemptGangs_keeps ..

theorem preemptOthers_keeps (s : State) (k d keep) : Keeps s (preemptOthers k d keep s) :=
  foldl_keeps (fun _ _ => preemptCluster_keeps ..) ..

theorem evictCore_keeps (s : State) (core d keep) : Keeps s (evictCore core d keep s) := by
  unfold evictCore
  grind [Keeps, discardGang_keeps, preemptGangs_keeps, foldl_keeps]

theorem execPreemptDeadline_keeps (s : State) (k) : OutKeeps s (execPreemptDeadline k s) := by
  unfold execPreemptDeadline
  grind [OutKeeps, Keeps, State.setClusterAt_keeps, State.settleClusters_keeps, discardOrSave_keeps, foldl_keeps]

theorem execSplitRelease_keeps (s : State) (w sp) : OutKeeps s (execSplitRelease w sp s) := by
  simp only [execSplitRelease]
  split
  · exact .next (.refl s)
  · split
    · exact .next (s.setWarpAt_keeps ..)
    · exact .next (.refl s)

theorem saveGang_keeps (s : State) (g) : Keeps s (saveGang g s) := by
  unfold saveGang
  grind [Keeps, State.setBlockAt_keeps, State.setGangAt_keeps, State.leftCluster_keeps, State.settleClusters_keeps,
    State.clearBlocks_keeps, foldl_keeps]

theorem execGangSave_keeps (s : State) (g) : OutKeeps s (execGangSave g s) := by
  unfold execGangSave
  split
  · exact .next ((saveGang_keeps ..).trans (settleMigration_keeps ..))
  · exact .next (.refl s)

theorem haltUnstopped_keeps (s : State) (k) : Keeps s (haltUnstopped s k) := by
  unfold haltUnstopped
  grind [Keeps, State.haltWarp_keeps]

theorem execSaveTimeout_keeps (s : State) (g) : OutKeeps s (execSaveTimeout g s) := by
  unfold execSaveTimeout
  grind [OutKeeps, Keeps, State.settleClusters_keeps, settleMigration_keeps, saveGang_keeps, haltUnstopped_keeps,
    foldl_keeps]

theorem claimCluster_keeps (s : State) (p c k n bs) : Keeps s (claimCluster p c k n bs s) := by
  unfold claimCluster
  split
  · exact preemptOthers_keeps ..
  · exact .refl s

theorem restoreWarp_keeps (s : State) (wait core w) : Keeps s (restoreWarp wait s core w) := by
  simp only [restoreWarp]
  split
  · exact .refl s
  · exact s.setWarpAt_keeps ..

theorem restoreBin_keeps (s : State) (core b) : Keeps s (restoreBin s core b) := by
  unfold restoreBin
  grind [Keeps, State.setCoreAt_keeps]

theorem restoreRequest_keeps (s : State) (r) : Keeps s (restoreRequest s r) := by
  unfold restoreRequest
  grind [Keeps, State.fresh_keeps, State.startOp_keeps]

theorem restoreGang_keeps (s : State) (g k places) : Keeps s (restoreGang g k places s) := by
  unfold restoreGang
  grind [Keeps, State.setGangAt_keeps, State.setBslotAt_keeps, State.putBlock_keeps, State.takeCore_keeps,
    restoreWarp_keeps, restoreBin_keeps, restoreRequest_keeps, foldl_keeps]

theorem execGangRestore_keeps (s : State) (g k) : OutKeeps s (execGangRestore g k s) := by
  unfold execGangRestore
  grind [OutKeeps, Keeps, State.settleClusters_keeps, claimCluster_keeps, restoreGang_keeps]

theorem grantQuantum_keeps (s : State) (p) : Keeps s (grantQuantum p s) := by
  unfold grantQuantum
  grind [Keeps, State.setCtxAt_keeps, State.setPavAt_keeps, State.send_keeps]

theorem chargeQuantum_keeps (s : State) (p) : Keeps s (chargeQuantum p s) := by
  simp only [chargeQuantum]
  split
  · exact .refl s
  · split
    · exact .refl s
    · exact s.setCtxAt_keeps ..

theorem execQuantumExpiry_keeps (s : State) (p) : OutKeeps s (execQuantumExpiry p s) := by
  unfold execQuantumExpiry
  grind [OutKeeps, Keeps, State.refreshIdle_keeps, State.settleClusters_keeps, preemptCluster_keeps,
    grantQuantum_keeps, chargeQuantum_keeps, foldl_keeps]

theorem execClusterLend_keeps (s : State) (k p) : OutKeeps s (execClusterLend k p s) := by
  unfold execClusterLend
  grind [OutKeeps, Keeps, State.setClusterAt_keeps, State.settleClusters_keeps]

theorem execClusterReclaim_keeps (s : State) (k) : OutKeeps s (execClusterReclaim k s) := by
  unfold execClusterReclaim
  grind [OutKeeps, Keeps, State.setClusterAt_keeps, State.settleClusters_keeps, preemptOthers_keeps]

/-! ## Cores and pages of a context -/

theorem State.giveResource_keeps (s : State) (e o) : Keeps s (s.giveResource e o) := by
  unfold State.giveResource
  split
  · exact s.setCoreAt_keeps ..
  · exact .of_same rfl rfl
  · exact .refl s

theorem State.countAssigned_keeps (s : State) (e) : Keeps s (s.countAssigned e) := by
  unfold State.countAssigned
  grind [Keeps, State.setJob_keeps, foldl_keeps]

theorem assignResource_keeps (s : State) (e b) : Keeps s (assignResource e b s).2 := by
  unfold assignResource
  grind [Keeps, State.giveResource_keeps, State.countAssigned_keeps]

theorem execCassign_keeps (s : State) (p d a b) : OutKeeps s (execCassign p d a b s) :=
  word_keeps fun s => by grind [EffKeeps, Keeps, Eff.bind_eq, State.setS_keeps, State.cacheAll_keeps,
    State.advance_keeps, evictCore_keeps, assignResource_keeps, → State.readVirtual_keeps]

/-! ## Launches -/

theorem State.dropTranslations_keeps (s : State) (c lo n) : Keeps s (s.dropTranslations c lo n) :=
  (s.dropCores_keeps ..).trans (State.dropDies_keeps ..)

theorem State.setFrz_keeps (s : State) (k b) : Keeps s (s.setFrz k b) := by
  unfold State.setFrz
  grind [Keeps, State.setBytes_keeps]

theorem freezeInputs_keeps (s : State) (lseq) : Keeps s (freezeInputs lseq s) := by
  unfold freezeInputs
  grind [Keeps, State.setLaunchAt_keeps, State.dropTranslations_keeps, State.setFrz_keeps, foldl_keeps]

theorem execLaunchStart_keeps (s : State) (lseq) : OutKeeps s (execLaunchStart lseq s) := by
  unfold execLaunchStart
  grind [OutKeeps, Keeps, State.setLaunchAt_keeps, freezeInputs_keeps]

theorem launchWarps_keeps (s : State) (id) : Keeps s (launchWarps id s) := by
  unfold launchWarps
  grind [Keeps, State.setWarpAt_keeps, State.fresh_keeps, foldl_keeps]

theorem newBlock_keeps (s : State) (lseq gang rank num core vcore audit) :
    Keeps s (newBlock lseq gang rank num core vcore audit s).2 := by
  unfold newBlock
  grind [Keeps, State.fresh_keeps, State.putBlock_keeps, State.takeCore_keeps]

theorem dispatchGang_keeps (s : State) (lseq g k places) : Keeps s (dispatchGang lseq g k places s) := by
  unfold dispatchGang
  grind [Keeps, State.setGangAt_keeps, State.setLaunchAt_keeps, State.setCtxAt_keeps, State.fresh_keeps,
    launchWarps_keeps, newBlock_keeps, foldl_keeps, foldl_snd_keeps]

theorem execGangDispatch_keeps (s : State) (lseq g k) : OutKeeps s (execGangDispatch lseq g k s) := by
  unfold execGangDispatch
  grind [OutKeeps, Keeps, State.settleClusters_keeps, claimCluster_keeps, dispatchGang_keeps]

theorem closeLaunch_keeps (s : State) (lseq) : Keeps s (closeLaunch lseq s) := by
  unfold closeLaunch
  grind [Keeps, State.setLaunchAt_keeps, State.report_keeps, State.dropTranslations_keeps, State.setFrz_keeps,
    foldl_keeps]

theorem execLaunchComplete_keeps (s : State) (lseq) : OutKeeps s (execLaunchComplete lseq s) := by
  unfold execLaunchComplete
  grind [OutKeeps, Keeps, finishLaunch_keeps, settleQueue_keeps, settleMigration_keeps, closeLaunch_keeps]

theorem endAudit_keeps (s : State) (lseq b f) : Keeps s (endAudit lseq b f s) :=
  (s.setLaunchAt_keeps ..).trans (closeLaunch_keeps ..)

theorem startAudit_keeps (s : State) (lseq b core first) : Keeps s (startAudit lseq b core first s) := by
  unfold startAudit
  grind [Keeps, State.setGangAt_keeps, State.fresh_keeps, launchWarps_keeps, newBlock_keeps]

theorem execAuditRun_keeps (s : State) (lseq b core) : OutKeeps s (execAuditRun lseq b core s) := by
  simp only [execAuditRun]
  split
  · exact .next (.refl s)
  · split
    · exact .next (endAudit_keeps ..)
    · split
      · exact .next (.refl s)
      · split
        · exact .next (startAudit_keeps ..)
        · exact .next (.refl s)

theorem quarantineCore_keeps (s : State) (core) : Keeps s (quarantineCore core s) := by
  unfold quarantineCore
  grind [Keeps, State.setCoreAt_keeps, evictCore_keeps]

theorem addPoints_keeps (s : State) (n core) : Keeps s (addPoints n s core) := by
  unfold addPoints
  grind [Keeps, State.setCoreAt_keeps, quarantineCore_keeps]

theorem addAgreement_keeps (s : State) (core) : Keeps s (addAgreement s core) :=
  s.setCoreAt_keeps ..

theorem execAuditCompare_keeps (s : State) (lseq b) : OutKeeps s (execAuditCompare lseq b s) := by
  unfold execAuditCompare
  grind [OutKeeps, Keeps, endAudit_keeps, addPoints_keeps, addAgreement_keeps]

/-! ## Page faults -/

theorem State.setFault_keeps (s : State) (f) : Keeps s (s.setFault f) :=
  .of_same rfl rfl

theorem State.dropFault_keeps (s : State) (f) : Keeps s (s.dropFault f) :=
  .of_same rfl rfl

theorem State.countReplay_keeps (s : State) (c) : Keeps s (s.countReplay c) :=
  s.setCtxAt_keeps ..

theorem State.unpark_keeps (s : State) (k sp declined) : Keeps s (s.unpark k sp declined) :=
  s.setWarpAt_keeps ..

theorem settleWarpFault_keeps (s : State) (k uid sp) : Keeps s (settleWarpFault k uid sp s) := by
  simp only [settleWarpFault]
  split
  · exact s.dropFaults_keeps ..
  · split
    · exact (s.dropFaults_keeps ..).trans (State.unpark_keeps ..)
    · split
      · exact ((s.dropFaults_keeps ..).trans (State.unpark_keeps ..)).trans (State.countReplay_keeps ..)
      · exact .refl s

theorem answerFault_keeps (s : State) (f ok) : Keeps s (answerFault f ok s) := by
  unfold answerFault
  grind [Keeps, State.setOp_keeps, retryHeld_keeps, completeSignal_keeps, settleQueue_keeps, State.setFault_keeps,
    State.dropFault_keeps, State.countReplay_keeps, settleWarpFault_keeps]

theorem execFaultTimeout_keeps (s : State) (tag) : OutKeeps s (execFaultTimeout tag s) := by
  unfold execFaultTimeout
  grind [OutKeeps, Keeps, answerFault_keeps]

theorem unwait_keeps (s : State) (p) : Keeps s (unwait s p) :=
  s.setWarpAt_keeps ..

theorem hangSplit_keeps (s : State) (p) : Keeps s (hangSplit s p) := by
  unfold hangSplit
  grind [Keeps, State.writeRecord_keeps, State.asWarp_keeps, State.takeTrap_keeps]

theorem execHangDetect_keeps (s : State) (c) : OutKeeps s (execHangDetect c s) := by
  unfold execHangDetect
  grind [OutKeeps, Keeps, State.touch_keeps, State.report_keeps, unwait_keeps, hangSplit_keeps, foldl_keeps]

theorem execRefusalLogFlush_keeps (s : State) (p) : OutKeeps s (execRefusalLogFlush p s) := by
  simp only [execRefusalLogFlush]
  split
  · exact .next (.refl s)
  · exact .next ((s.setPavAt_keeps ..).trans (State.report_keeps ..))

/-! ## Commands of a context -/

theorem execSessionOpen_keeps (s : State) (role p c) : OutKeeps s (execSessionOpen role p c s) := by
  unfold execSessionOpen
  grind [OutKeeps, Keeps, State.fresh_keeps]

theorem State.charge_keeps (s : State) (c i n) : Keeps s (s.charge c i n) := by
  simp only [State.charge]
  split
  · exact s.setCtxAt_keeps ..
  · exact .refl s

theorem State.keep_keeps (s : State) (ses c i) : Keeps s (s.keep ses c i) :=
  .of_same rfl rfl

theorem State.release_keeps (s : State) : Keeps s s.release :=
  .of_same rfl rfl

/-- A command is answered, kept for later, or met by its effect `f`. -/
theorem command_keeps {s : State} {i ses h body cmd f} (hf : ∀ x, Keeps s (f x s)) :
    Keeps s (command i ses h body cmd s f) := by
  unfold command
  have ha (x) : Keeps s (s.answer ses h x []) := s.answer_keeps ..
  exact .ite (.refl s) (.ite (s.keep_keeps ..) (.ite (.ite (.refl s) (ha _)) (.ite (ha _) (hf _))))

theorem ctxCommand_keeps {s : State} {i ses h body cmd f} (hf : ∀ c t, Keeps s t → Keeps s (f c t)) :
    Keeps s (ctxCommand i ses h body cmd s f) := by
  unfold ctxCommand
  have ha (x) : Keeps s (s.answer ses h x []) := s.answer_keeps ..
  refine command_keeps fun _ => .ite (ha _) (.ite (s.keep_keeps ..) (.ite (ha _) ?_))
  extract_lets t
  have hc : Keeps s t := s.charge_keeps ..
  split
  · exact hc.trans (State.setLeaving_keeps ..)
  · exact hf _ _ hc

theorem enqueue_keeps (s : State) (c q x) : Keeps s (enqueue c q x s) :=
  (s.setQueue_keeps ..).trans (settleQueue_keeps ..)

theorem execLaunch_keeps (s : State) (ses h body) : OutKeeps s (execLaunch ses h body s) := by
  unfold execLaunch
  refine .next (ctxCommand_keeps fun c t ht => ?_)
  grind [Keeps, State.setLaunchAt_keeps, State.answer_keeps, enqueue_keeps]

theorem execCopy_keeps (s : State) (ses h body) : OutKeeps s (execCopy ses h body s) := by
  unfold execCopy
  refine .next (ctxCommand_keeps fun c t ht => ?_)
  grind [Keeps, State.answer_keeps, enqueue_keeps]

theorem execSignal_keeps (s : State) (ses h body) : OutKeeps s (execSignal ses h body s) := by
  unfold execSignal
  refine .next (ctxCommand_keeps fun c t ht => ?_)
  grind [Keeps, State.answer_keeps, enqueue_keeps]

theorem execWait_keeps (s : State) (ses h body) : OutKeeps s (execWait ses h body s) := by
  unfold execWait
  refine .next (ctxCommand_keeps fun c t ht => ?_)
  grind [Keeps, State.answer_keeps, enqueue_keeps]

theorem execFenceCmd_keeps (s : State) (ses h body) : OutKeeps s (execFenceCmd ses h body s) := by
  unfold execFenceCmd
  refine .next (ctxCommand_keeps fun c t ht => ?_)
  grind [Keeps, State.answer_keeps, enqueue_keeps]

theorem State.givePrios_keeps (s : State) (c) : Keeps s (s.givePrios c) := by
  unfold State.givePrios
  grind [Keeps, State.pick_keeps, State.setQueue_keeps, foldl_keeps]

theorem execCtxcreate_keeps (s : State) (ses h body) : OutKeeps s (execCtxcreate ses h body s) := by
  unfold execCtxcreate
  refine .next (command_keeps fun x => ?_)
  grind [Keeps, State.setCtxAt_keeps, State.drawSlot_keeps, State.answer_keeps, State.givePrios_keeps]

theorem State.orphan_keeps (s : State) (c) : Keeps s (s.orphan c) :=
  .of_same rfl rfl

theorem State.forgetCtx_keeps (s : State) (c) : Keeps s (s.forgetCtx c) :=
  .of_same rfl rfl

theorem destroyContext_keeps (s : State) (c) : Keeps s (destroyContext c s) := by
  unfold destroyContext
  grind [Keeps, State.setCtxAt_keeps, State.setPavAt_keeps, State.settleClusters_keeps, dropGang_keeps,
    State.dropTranslations_keeps, State.orphan_keeps, State.forgetCtx_keeps, foldl_keeps]

theorem execCtxdestroy_keeps (s : State) (ses h body) : OutKeeps s (execCtxdestroy ses h body s) := by
  unfold execCtxdestroy
  refine .next (ctxCommand_keeps fun c t ht => ?_)
  grind [Keeps, State.answer_keeps, destroyContext_keeps]

theorem install_keeps (va e) (levels : List (Nat × Nat × Option Nat)) (table) (s : State) :
    Keeps s (install va e levels table s) := by
  induction levels generalizing table s with
  | nil => exact .refl s
  | cons x rest ih =>
    unfold install
    grind [Keeps, State.fresh_keeps, State.setBytes_keeps]

theorem State.unmapLeaf_keeps (s : State) (c va) : Keeps s (s.unmapLeaf c va) := by
  unfold State.unmapLeaf
  grind [Keeps, State.setBytes_keeps]

theorem State.takePage_keeps (s : State) (c g) : Keeps s (s.takePage c g) := by
  simp only [State.takePage]
  split
  · exact .of_same rfl rfl
  · exact .refl s

theorem State.mapGran_keeps (s : State) (g r) : Keeps s (s.mapGran g r) :=
  .of_same rfl rfl

theorem State.rekey_keeps (s : State) (g old new) : Keeps s (s.rekey g old new) := by
  unfold State.rekey
  grind [Keeps, State.pick_keeps, State.setBytes_keeps, foldl_keeps]

theorem State.enterPage_keeps (s : State) (e g) : Keeps s (s.enterPage e g) := by
  unfold State.enterPage
  grind [Keeps, State.rekey_keeps]

theorem mapPage_keeps (s : State) (c x e) : Keeps s (mapPage c x s e) := by
  unfold mapPage
  grind [Keeps, install_keeps, State.takePage_keeps, State.mapGran_keeps, State.enterPage_keeps, foldl_keeps]

theorem doMap_keeps (s : State) (c i x) : Keeps s (doMap c i x s) := by
  unfold doMap
  grind [Keeps, State.setCtxAt_keeps, mapPage_keeps, foldl_keeps]

theorem execMap_keeps (s : State) (ses h body) : OutKeeps s (execMap ses h body s) := by
  unfold execMap
  refine .next (ctxCommand_keeps fun c t ht => ?_)
  grind [Keeps, State.answer_keeps, State.charge_keeps, State.keep_keeps, doMap_keeps]

theorem skipAudits_keeps (s : State) (c vs) : Keeps s (skipAudits c vs s) := by
  unfold skipAudits
  grind [Keeps, State.setLaunchAt_keeps, closeLaunch_keeps, foldl_keeps]

theorem execUnmap_keeps (s : State) (ses h body) : OutKeeps s (execUnmap ses h body s) := by
  unfold execUnmap
  refine .next (ctxCommand_keeps fun c t ht => ?_)
  grind [Keeps, State.setCtxAt_keeps, State.answer_keeps, State.charge_keeps, State.keep_keeps, State.unmapLeaf_keeps,
    skipAudits_keeps, foldl_keeps]

theorem execFaultreply_keeps (s : State) (ses h body) : OutKeeps s (execFaultreply ses h body s) := by
  unfold execFaultreply
  refine .next (ctxCommand_keeps fun c t ht => ?_)
  grind [Keeps, State.answer_keeps, answerFault_keeps, State.charge_keeps, State.keep_keeps]

theorem execDcdadd_keeps (s : State) (ses h body) : OutKeeps s (execDcdadd ses h body s) := by
  unfold execDcdadd
  refine .next (ctxCommand_keeps fun c t ht => ?_)
  grind [Keeps, State.answer_keeps]

theorem execDcdrel_keeps (s : State) (ses h body) : OutKeeps s (execDcdrel ses h body s) := by
  unfold execDcdrel
  refine .next (ctxCommand_keeps fun c t ht => ?_)
  grind [Keeps, State.answer_keeps]

theorem rmaRead_keeps (xs : List ((Nat × Nat) × Chk)) (s : State) : Keeps s (rmaRead xs s).2 := by
  induction xs generalizing s with
  | nil => exact .refl s
  | cons x t ih =>
    unfold rmaRead
    grind [Keeps, State.engineRead_keeps]

theorem execHostRmaRead_keeps (s : State) (ses va len) : OutKeeps s (execHostRmaRead ses va len s) := by
  unfold execHostRmaRead
  grind [OutKeeps, Keeps, State.send_keeps, State.refuseFarOpt_keeps, State.charge_keeps, State.keep_keeps,
    rmaRead_keeps]

theorem execHostRmaWrite_keeps (s : State) (ses va data) : OutKeeps s (execHostRmaWrite ses va data s) := by
  unfold execHostRmaWrite
  grind [OutKeeps, Keeps, State.clearCovered_keeps, landFar_keeps, State.refuseFarOpt_keeps, State.charge_keeps,
    State.keep_keeps]

/-! ## Cross-lane instructions -/

theorem execVshfl_keeps (s : State) (p d a b m) : OutKeeps s (execVshfl p d a b m s) :=
  word_keeps fun _ => .ok (vecEffect_keeps ..)

theorem execVshflS_keeps (s : State) (p d a b m) : OutKeeps s (execVshflS p d a b m s) :=
  word_keeps fun _ => .ok (vecEffect_keeps ..)

theorem execVbcast_keeps (s : State) (p d a b) : OutKeeps s (execVbcast p d a b s) :=
  word_keeps fun _ => .ok (vecEffect_keeps ..)

theorem execVballot_keeps (s : State) (p d a) : OutKeeps s (execVballot p d a s) :=
  word_keeps fun s => .ok ((s.setS_keeps ..).trans (State.advance_keeps ..))

theorem execVred_keeps (s : State) (p d a o) : OutKeeps s (execVred p d a o s) :=
  word_keeps fun s => by grind [EffKeeps, Keeps, State.setS_keeps, State.advance_keeps, State.setFlags_keeps]

theorem execVscan_keeps (s : State) (p d a o e) : OutKeeps s (execVscan p d a o e s) :=
  word_keeps fun _ => .ok (vecEffect_keeps ..)

theorem execVbxch_keeps (s : State) (p d a b) : OutKeeps s (execVbxch p d a b s) :=
  word_keeps fun _ => .ok (vecEffect_keeps ..)

theorem execVmatch_keeps (s : State) (p d a) : OutKeeps s (execVmatch p d a s) :=
  word_keeps fun _ => .ok (vecEffect_keeps ..)

/-! ## Management commands -/

theorem mgmt_keeps {s : State} {i ses h body sub fs f} (hf : Keeps s (f s)) :
    Keeps s (mgmt i ses h body sub fs s f) := by
  unfold mgmt
  have ha (x) : Keeps s (s.answer ses h x []) := s.answer_keeps ..
  exact command_keeps fun _ => .ite (ha _) (.ite (ha _) (.ite (.refl s) (.ite (ha _) hf)))

theorem mgmtKind_keeps {s : State} {i ses h body sub lo hi kind fs f} (hf : Keeps s (f s)) :
    Keeps s (mgmtKind i ses h body sub lo hi kind fs s f) := by
  unfold mgmtKind
  have ha (x) : Keeps s (s.answer ses h x []) := s.answer_keeps ..
  exact command_keeps fun _ =>
    .ite (ha _) (.ite (ha _) (.ite (.refl s) (.ite (ha _) (.ite (.refl s) (.ite (ha _) hf)))))

theorem execWritePvcfg_keeps (s : State) (ses h body) : OutKeeps s (execWritePvcfg ses h body s) := by
  unfold execWritePvcfg
  refine .next (mgmt_keeps ?_)
  dsimp only
  split
  · exact s.answer_keeps ..
  · split
    · exact s.answer_keeps ..
    · split
      · exact s.answer_keeps ..
      · exact (s.setPavAt_keeps ..).trans (State.answer_keeps ..)

theorem execWritePvcol_keeps (s : State) (ses h body) : OutKeeps s (execWritePvcol ses h body s) := by
  unfold execWritePvcol
  refine .next (mgmt_keeps ?_)
  dsimp only
  split
  · exact s.answer_keeps ..
  · split
    · exact s.answer_keeps ..
    · split
      · exact s.answer_keeps ..
      · exact (s.setPavAt_keeps ..).trans (State.answer_keeps ..)

theorem execSetBudgets_keeps (s : State) (ses h body) : OutKeeps s (execSetBudgets ses h body s) := by
  unfold execSetBudgets
  refine .next (mgmt_keeps ?_)
  dsimp only
  split
  · exact s.answer_keeps ..
  · exact (s.setCtxAt_keeps ..).trans (State.answer_keeps ..)

theorem execBudgetWindow_keeps (s : State) : OutKeeps s (execBudgetWindow s) := by
  unfold execBudgetWindow
  grind [OutKeeps, Keeps, State.release_keeps]

theorem execQuarantineThreshold_keeps (s : State) (ses h body) :
    OutKeeps s (execQuarantineThreshold ses h body s) := by
  unfold execQuarantineThreshold
  refine .next (mgmt_keeps ?_)
  dsimp only
  split
  · exact s.answer_keeps ..
  · exact .after (State.answer_keeps ..) rfl rfl

theorem execLoadEvictionSchedule_keeps (s : State) (ses h body) :
    OutKeeps s (execLoadEvictionSchedule ses h body s) := by
  unfold execLoadEvictionSchedule
  refine .next (command_keeps fun x => ?_)
  dsimp only
  split
  · exact s.answer_keeps ..
  · split
    · split
      · exact .refl s
      · exact s.answer_keeps ..
    · split
      · exact s.answer_keeps ..
      · exact (s.setPavAt_keeps ..).trans (State.answer_keeps ..)

theorem execReadInService_keeps (s : State) (ses h body) : OutKeeps s (execReadInService ses h body s) :=
  .next (mgmt_keeps (s.answer_keeps ..))

theorem State.sendLate_keeps (s : State) (p) : Keeps s (s.sendLate p) :=
  .of_same rfl rfl

theorem execPavilionImageUpdate_keeps (s : State) (ses h body) :
    OutKeeps s (execPavilionImageUpdate ses h body s) := by
  unfold execPavilionImageUpdate
  refine .next (mgmtKind_keeps ?_)
  dsimp only
  split
  · exact s.answer_keeps ..
  · exact (s.setPavAt_keeps ..).trans (State.answer_keeps ..)

theorem execImageSignatureVerified_keeps (s : State) (p) : OutKeeps s (execImageSignatureVerified p s) := by
  simp only [execImageSignatureVerified]
  split
  · exact .next (.refl s)
  · exact .next (((s.setPavAt_keeps ..).trans (State.sendLate_keeps ..)).trans (State.release_keeps ..))

theorem execClusterQuarantine_keeps (s : State) (ses h body) : OutKeeps s (execClusterQuarantine ses h body s) := by
  unfold execClusterQuarantine
  refine .next (mgmtKind_keeps ?_)
  grind [Keeps, State.setClusterAt_keeps, State.answer_keeps, State.settleClusters_keeps, preemptOthers_keeps]

theorem execSectorRetirement_keeps (s : State) (ses h body) : OutKeeps s (execSectorRetirement ses h body s) :=
  .next (mgmtKind_keeps (.after (State.answer_keeps ..) rfl rfl))

theorem execEthernetReset_keeps (s : State) (ses h body) : OutKeeps s (execEthernetReset ses h body s) := by
  unfold execEthernetReset
  refine .next (mgmtKind_keeps ?_)
  dsimp only
  split
  · exact s.answer_keeps ..
  · exact .after (State.answer_keeps ..) rfl rfl

theorem execEthernetRemoval_keeps (s : State) (ses h body) : OutKeeps s (execEthernetRemoval ses h body s) := by
  unfold execEthernetRemoval
  refine .next (mgmtKind_keeps ?_)
  dsimp only
  split
  · exact s.answer_keeps ..
  · exact .after (State.answer_keeps ..) rfl rfl

theorem State.setPort_keeps (s : State) (p on wait) : Keeps s (s.setPort p on wait) :=
  .of_same rfl rfl

theorem execCxlReset_keeps (s : State) (ses h body) : OutKeeps s (execCxlReset ses h body s) := by
  unfold execCxlReset
  refine .next (mgmtKind_keeps ?_)
  dsimp only
  split
  · exact s.answer_keeps ..
  · exact (s.setPort_keeps ..).trans (State.answer_keeps ..)

theorem State.portSettled_keeps (s : State) : Keeps s s.portSettled :=
  ((retryAll_keeps ..).trans (retrySignals_keeps ..)).trans (State.release_keeps ..)

theorem removePort_keeps (s : State) (p) : Keeps s (removePort p s) := by
  unfold removePort
  grind [Keeps, State.pick_keeps, State.retire_keeps, State.setPort_keeps, State.portSettled_keeps, foldl_keeps]

theorem execCxlRemoval_keeps (s : State) (ses h body) : OutKeeps s (execCxlRemoval ses h body s) := by
  unfold execCxlRemoval
  refine .next (mgmtKind_keeps ?_)
  dsimp only
  split
  · exact s.answer_keeps ..
  · exact (removePort_keeps ..).trans (State.answer_keeps ..)

theorem execCxlResetTimeout_keeps (s : State) (p) : OutKeeps s (execCxlResetTimeout p s) := by
  unfold execCxlResetTimeout
  split
  · exact .next (.refl s)
  · split
    · exact .next (removePort_keeps ..)
    · exact .next (.refl s)

theorem execIdeReestablished_keeps (s : State) (p) : OutKeeps s (execIdeReestablished p s) := by
  unfold execIdeReestablished
  split
  · exact .next (.refl s)
  · split
    · exact .next ((s.setPort_keeps ..).trans (State.portSettled_keeps ..))
    · exact .next (.refl s)

theorem execReturnCore_keeps (s : State) (ses h body) : OutKeeps s (execReturnCore ses h body s) := by
  unfold execReturnCore
  refine .next (mgmtKind_keeps ?_)
  dsimp only
  split
  · exact s.answer_keeps ..
  · exact (s.setCoreAt_keeps ..).trans (State.answer_keeps ..)

theorem execReturnCluster_keeps (s : State) (ses h body) : OutKeeps s (execReturnCluster ses h body s) := by
  unfold execReturnCluster
  refine .next (mgmtKind_keeps ?_)
  dsimp only
  split
  · exact s.answer_keeps ..
  · exact (s.setClusterAt_keeps ..).trans (State.answer_keeps ..)

theorem execReturnPage_keeps (s : State) (ses h body) : OutKeeps s (execReturnPage ses h body s) := by
  unfold execReturnPage
  refine .next (mgmtKind_keeps ?_)
  dsimp only
  split
  · exact s.answer_keeps ..
  · exact .after (State.answer_keeps ..) rfl rfl

theorem execRaiseFuseTackRoom_keeps (s : State) (ses h body) : OutKeeps s (execRaiseFuseTackRoom ses h body s) :=
  .next (mgmtKind_keeps (.after (State.answer_keeps ..) rfl rfl))

theorem execRaiseFusePavilion_keeps (s : State) (ses h body) : OutKeeps s (execRaiseFusePavilion ses h body s) :=
  .next (mgmtKind_keeps (.after (State.answer_keeps ..) rfl rfl))

theorem execResumeScrub_keeps (s : State) (ses h body) : OutKeeps s (execResumeScrub ses h body s) := by
  unfold execResumeScrub
  refine .next (mgmt_keeps ?_)
  grind [Keeps, State.setJob_keeps, State.answer_keeps]

theorem State.restartAll_keeps (s : State) (core pav) : Keeps s (s.restartAll core pav) := by
  unfold State.restartAll
  grind [Keeps, State.setPavAt_keeps, State.setCoreAt_keeps, foldl_keeps]

theorem State.endAll_keeps (s : State) : Keeps s s.endAll :=
  .of_same rfl rfl

theorem State.train_keeps (s : State) : Keeps s s.train := by
  unfold State.train
  grind [Keeps, State.freeWord_keeps]

theorem warm_keeps (s : State) (ok) : Keeps s (warm ok s) := by
  unfold warm
  grind [Keeps, State.restartAll_keeps, State.endAll_keeps, State.train_keeps]

theorem execWarmReset_keeps (s : State) (ses h body) : OutKeeps s (execWarmReset ses h body s) :=
  .next (mgmt_keeps ((s.answer_keeps ..).trans (warm_keeps ..)))

theorem execWatchdogReset_keeps (s : State) : OutKeeps s (execWatchdogReset s) :=
  .next (warm_keeps ..)

theorem boot_keeps (s : State) (ok) : Keeps s (boot ok s) := by
  unfold boot
  grind [Keeps, State.restartAll_keeps, State.endAll_keeps, State.train_keeps]

theorem execColdReset_keeps (s : State) : OutKeeps s (execColdReset s) := by
  unfold execColdReset
  split
  · exact .next (boot_keeps ..)
  · exact .next (s.endAll_keeps.trans (.of_same rfl rfl))

theorem execFirmwareLoad_keeps (s : State) (m) : OutKeeps s (execFirmwareLoad m s) := by
  simp only [execFirmwareLoad]
  split
  · exact .next (.after (boot_keeps ..) rfl rfl)
  · exact .next (.refl s)

/-! ## The Tack Room -/

/-- Memory without some of its cells is canonical still. -/
theorem Memory.wf_filter {m : Memory} (p : Host.Cell → Bool) (h : m.wf = true) : Memory.wf (m.filter p) = true := by
  obtain ⟨hk, hv⟩ := (Memory.wf_iff m).mp h
  exact (Memory.wf_iff _).mpr ⟨hk.sublist (List.filter_sublist.map _), fun c hc => hv c (List.mem_of_mem_filter hc)⟩

theorem scrubPage_keeps (s : State) (page) : Keeps s (scrubPage page s) :=
  ⟨rfl, Memory.wf_filter _⟩

theorem scrubWindow_keeps (s : State) (id r) : Keeps s (scrubWindow id s r) := by
  unfold scrubWindow
  grind [Keeps, State.setBlockAt_keeps]

theorem scrubWindows_keeps (s : State) (core off) : Keeps s (scrubWindows core off s) := by
  unfold scrubWindows
  grind [Keeps, scrubWindow_keeps, foldl_keeps]

theorem pickSome_keeps (ks : List Nat) (s : State) : Keeps s (pickSome ks s).2 := by
  induction ks generalizing s with
  | nil => exact .refl s
  | cons k t ih => exact (s.pick_keeps 2).trans (ih ..)

theorem scrubRegs_keeps (s : State) (all k) : Keeps s (scrubRegs all s k) := by
  unfold scrubRegs
  grind [Keeps, State.setWarpAt_keeps, pickSome_keeps]

theorem scrubPool_keeps (s : State) (core off) : Keeps s (scrubPool core off s) := by
  unfold scrubPool
  grind [Keeps, scrubWindows_keeps, scrubRegs_keeps, foldl_keeps]

theorem scrubCore_keeps (s : State) (core) : Keeps s (scrubCore core s) := by
  unfold scrubCore
  grind [Keeps, State.setCoreAt_keeps, scrubRegs_keeps, foldl_keeps]

theorem scrubExtent_keeps (s : State) (e i) : Keeps s (scrubExtent e i s) := by
  unfold scrubExtent
  grind [Keeps, scrubPage_keeps, scrubWindows_keeps, scrubPool_keeps, scrubCore_keeps]

theorem writeProgress_keeps (s : State) (j) : Keeps s (writeProgress j s) := by
  simp only [writeProgress]
  split
  · exact .refl s
  · split
    · exact .refl s
    · split
      · exact s.stampStore_keeps ..
      · exact .refl s

theorem execScrubChunk_keeps (s : State) (j) : OutKeeps s (execScrubChunk j s) := by
  unfold execScrubChunk
  grind [OutKeeps, Keeps, State.setJob_keeps, scrubExtent_keeps, writeProgress_keeps]

theorem execDeriveKey_keeps (s : State) (r purpose context v) : OutKeeps s (execDeriveKey r purpose context v s) := by
  unfold execDeriveKey
  split
  · exact .next (s.send_keeps ..)
  · exact .next (s.send_keeps ..)

theorem State.setEp_keeps (s : State) (e x) : Keeps s (s.setEp e x) :=
  .of_same rfl rfl

theorem State.spdm_keeps (s : State) (e r) : Keeps s (s.spdm e r) :=
  s.send_keeps ..

theorem State.sign_keeps {s t : State} {m g} (h : s.sign m = some (g, t)) : Keeps s t := by
  unfold State.sign at h
  extract_lets n at h
  split at h
  · cases h
  · obtain ⟨-, rfl⟩ := Prod.mk.inj (Option.some.inj h)
    exact .of_same rfl rfl

theorem State.nonce_keeps (s : State) : Keeps s s.nonce.2 := by
  unfold State.nonce
  grind [Keeps]

theorem execGetVersion_keeps (s : State) (e) : OutKeeps s (execGetVersion e s) :=
  .next ((s.setEp_keeps ..).trans (State.spdm_keeps ..))

theorem execGetCapabilities_keeps (s : State) (e) : OutKeeps s (execGetCapabilities e s) := by
  simp only [execGetCapabilities]
  split
  · exact .next (s.spdm_keeps ..)
  · exact .next ((s.setEp_keeps ..).trans (State.spdm_keeps ..))

theorem execNegotiateAlgorithms_keeps (s : State) (e a) : OutKeeps s (execNegotiateAlgorithms e a s) := by
  simp only [execNegotiateAlgorithms]
  split
  · exact .next (s.spdm_keeps ..)
  · exact .next ((s.setEp_keeps ..).trans (State.spdm_keeps ..))

theorem execGetDigests_keeps (s : State) (e) : OutKeeps s (execGetDigests e s) := by
  simp only [execGetDigests]
  split
  · exact .next (s.spdm_keeps ..)
  · exact .next ((s.setEp_keeps ..).trans (State.spdm_keeps ..))

theorem execGetCertificate_keeps (s : State) (e slot off len) : OutKeeps s (execGetCertificate e slot off len s) := by
  simp only [execGetCertificate]
  split
  · exact .next (s.spdm_keeps ..)
  · exact .next ((s.setEp_keeps ..).trans (State.spdm_keeps ..))

theorem execChallenge_keeps (s : State) (e nonce) : OutKeeps s (execChallenge e nonce s) := by
  unfold execChallenge
  extract_lets x r
  have hr : Keeps s r.2 := s.nonce_keeps
  split
  · exact .next (s.spdm_keeps ..)
  · split
    · exact .next (s.spdm_keeps ..)
    · next hg =>
      exact .next (((hr.trans (State.sign_keeps hg)).trans (State.setEp_keeps ..)).trans (State.spdm_keeps ..))

theorem execGetMeasurements_keeps (s : State) (e i signed) : OutKeeps s (execGetMeasurements e i signed s) := by
  unfold execGetMeasurements
  extract_lets x bs
  split
  · exact .next (s.spdm_keeps ..)
  · split
    · exact .next (s.spdm_keeps ..)
    · split
      · exact .next (s.spdm_keeps ..)
      · next hg => exact .next ((State.sign_keeps hg).trans (State.spdm_keeps ..))

theorem execKeyExchange_keeps (s : State) (e p c who mutual_ d) :
    OutKeeps s (execKeyExchange e p c who mutual_ d s) := by
  unfold execKeyExchange
  extract_lets x r
  have hr : Keeps s r.2 := s.nonce_keeps
  split
  · exact .next (s.spdm_keeps ..)
  · split
    · exact .next (s.spdm_keeps ..)
    · next hg =>
      exact .next (((hr.trans (State.sign_keeps hg)).trans (State.setEp_keeps ..)).trans (State.spdm_keeps ..))

theorem execFinish_keeps (s : State) (e verified) : OutKeeps s (execFinish e verified s) := by
  simp only [execFinish]
  split
  · exact .next (s.spdm_keeps ..)
  · split
    · exact .next ((s.setEp_keeps ..).trans (State.spdm_keeps ..))
    · exact .next ((s.setEp_keeps ..).trans (State.spdm_keeps ..))

theorem execEndSession_keeps (s : State) (e) : OutKeeps s (execEndSession e s) := by
  unfold execEndSession
  grind [OutKeeps, Keeps, State.setEp_keeps, State.spdm_keeps]

theorem execKeyload_keeps (s : State) (e secured c kind key) : OutKeeps s (execKeyload e secured c kind key s) := by
  unfold execKeyload
  split
  · split
    · exact .next ((s.fillSlot_keeps ..).trans (State.spdm_keeps ..))
    · exact .next (s.spdm_keeps ..)
  · exact .next (s.spdm_keeps ..)

theorem State.setGrants_keeps (s : State) (gs) : Keeps s (s.setGrants gs) :=
  .of_same rfl rfl

theorem execGrant_keeps (s : State) (e secured c o m budget life) :
    OutKeeps s (execGrant e secured c o m budget life s) := by
  simp only [execGrant]
  split
  · exact .next (s.spdm_keeps ..)
  · split
    · exact .next ((s.setGrants_keeps ..).trans (State.spdm_keeps ..))
    · split
      · exact .next (s.spdm_keeps ..)
      · exact .next ((s.setGrants_keeps ..).trans (State.spdm_keeps ..))

theorem execGrantExpiry_keeps (s : State) (c o) : OutKeeps s (execGrantExpiry c o s) :=
  .next (s.setGrants_keeps ..)

/-! ## Migration -/

theorem beginSave_keeps (s : State) (d g) : Keeps s (beginSave d s g) := by
  simp only [beginSave]
  split
  · exact .refl s
  · exact s.setGangAt_keeps ..

theorem failHeld_keeps (s : State) (y) : Keeps s (failHeld y s) :=
  foldl_keeps (fun s _ => s.answer_keeps ..) ..

theorem restoreInPlace_keeps (s : State) (i y) : Keeps s (restoreInPlace i y s) := by
  unfold restoreInPlace
  grind [Keeps, State.setCtxAt_keeps, State.setKeySlot_keeps, State.answer_keeps, settleQueue_keeps,
    State.setLeaving_keeps, failHeld_keeps, foldl_keeps]

theorem meetPeer_keeps (s : State) (c) : Keeps s (meetPeer c s) := by
  unfold meetPeer
  split
  · split
    · exact settleMigration_keeps ..
    · split
      · exact (s.setLeaving_keeps ..).trans (settleMigration_keeps ..)
      · exact restoreInPlace_keeps ..
  · exact settleMigration_keeps ..

theorem startMigration_keeps (s : State) (ses h body c) : Keeps s (startMigration ses h body c s) := by
  unfold startMigration
  grind [Keeps, State.setCtxAt_keeps, State.fresh_keeps, State.send_keeps, State.setLeaving_keeps, dropGang_keeps,
    beginSave_keeps, meetPeer_keeps, foldl_keeps]

theorem execMigrate_keeps (s : State) (ses h body) : OutKeeps s (execMigrate ses h body s) := by
  unfold execMigrate
  grind [OutKeeps, Keeps, State.answer_keeps, ctxCommand_keeps, meetPeer_keeps, startMigration_keeps]

theorem zeroSlots_keeps (s : State) (c) : Keeps s (zeroSlots c s) :=
  .of_same rfl rfl

theorem State.rejectMig_keeps (s : State) (i) : Keeps s (s.rejectMig i) :=
  s.send_keeps ..

theorem execPrepared_keeps (s : State) (i) : OutKeeps s (execPrepared i s) := by
  unfold execPrepared
  grind [OutKeeps, Keeps, State.send_keeps, State.answer_keeps, State.setLeaving_keeps, destroyContext_keeps,
    failHeld_keeps, zeroSlots_keeps, State.rejectMig_keeps]

theorem execRefused_keeps (s : State) (i asNone) : OutKeeps s (execRefused i asNone s) := by
  unfold execRefused
  split
  · exact .next (.refl s)
  · split
    · exact .next (s.rejectMig_keeps ..)
    · split
      · exact .next (.refl s)
      · exact .next (restoreInPlace_keeps ..)

theorem askOutcome_keeps (s : State) (i y) : Keeps s (askOutcome i y s) :=
  ((s.setLeaving_keeps ..).trans (State.send_keeps ..)).trans (State.send_keeps ..)

theorem execMigrationSilence_keeps (s : State) (i) : OutKeeps s (execMigrationSilence i s) := by
  unfold execMigrationSilence
  split
  · exact .next (.refl s)
  · split
    · exact .next (askOutcome_keeps ..)
    · exact .next (.refl s)

theorem execMigrationOutcomePoll_keeps (s : State) (i) : OutKeeps s (execMigrationOutcomePoll i s) := by
  unfold execMigrationOutcomePoll
  split
  · exact .next (.refl s)
  · split
    · exact .next (askOutcome_keeps ..)
    · exact .next (.refl s)

theorem State.setArriving_keeps (s : State) (i m) : Keeps s (s.setArriving i m) :=
  .of_same rfl rfl

theorem receive_keeps (s : State) (c idx m) : Keeps s (receive c idx m s) := by
  unfold receive
  grind [Keeps, State.setBlockAt_keeps, State.setGangAt_keeps, State.setLaunchAt_keeps, State.setCtxAt_keeps,
    State.setKeySlot_keeps, State.setGrants_keeps, foldl_keeps]

theorem openHeld_keeps (s : State) (i y data key) : Keeps s (openHeld i y data key s) := by
  unfold openHeld
  grind [Keeps, State.send_keeps, State.setArriving_keeps, receive_keeps]

theorem execMigrationStateReceive_keeps (s : State) (i data) : OutKeeps s (execMigrationStateReceive i data s) := by
  unfold execMigrationStateReceive
  grind [OutKeeps, Keeps, State.rejectMig_keeps, State.setArriving_keeps, openHeld_keeps]

theorem activate_keeps (s : State) (c) : Keeps s (activate c s) := by
  unfold activate
  grind [Keeps, State.setCtxAt_keeps, settleQueue_keeps, foldl_keeps]

theorem execCommit_keeps (s : State) (i) : OutKeeps s (execCommit i s) := by
  unfold execCommit
  split
  · exact .next (.refl s)
  · split
    · exact .next (s.rejectMig_keeps ..)
    · split
      · exact .next (.refl s)
      · exact .next ((s.setArriving_keeps ..).trans (activate_keeps ..))
      · exact .next (s.setArriving_keeps ..)
      · exact .next (.refl s)

theorem execOutcome_keeps (s : State) (i) : OutKeeps s (execOutcome i s) := by
  simp only [execOutcome]
  split
  · exact .next (s.rejectMig_keeps ..)
  · split
    · exact .next ((s.setArriving_keeps ..).trans (State.send_keeps ..))
    · split
      · exact .next ((s.setArriving_keeps ..).trans (State.send_keeps ..))
      · exact .next ((s.setArriving_keeps ..).trans (State.send_keeps ..))
      · exact .next ((s.setArriving_keeps ..).trans (State.send_keeps ..))
      · exact .next (s.send_keeps ..)

theorem execMigrationSourceLoss_keeps (s : State) (i) : OutKeeps s (execMigrationSourceLoss i s) := by
  unfold execMigrationSourceLoss
  split
  · exact .next (.refl s)
  · split
    · exact .next (.refl s)
    · split
      · exact .next (s.setArriving_keeps ..)
      · split
        · exact .next ((s.setArriving_keeps ..).trans (activate_keeps ..))
        · exact .next (.refl s)

/-! ## Dispatch -/

/-- Every instruction, command and event keeps the part and canonical memory. -/
theorem exec_keeps (s : State) : ∀ i, OutKeeps s (exec i s)
  | .braZ .. => execBraZ_keeps ..
  | .braNz .. => execBraNz_keeps ..
  | .brd .. => execBrd_keeps ..
  | .call .. => execCall_keeps ..
  | .jmpi .. => execJmpi_keeps ..
  | .ret .. => execRet_keeps ..
  | .sread .. => execSread_keeps ..
  | .sreadClr .. => execSreadClr_keeps ..
  | .swid .. => execSwid_keeps ..
  | .vwid .. => execVwid_keeps ..
  | .spawn .. => execSpawn_keeps ..
  | .trap .. => execTrap_keeps ..
  | .bar .. => execBar_keeps ..
  | .barg .. => execBarg_keeps ..
  | .nop .. => execNop_keeps ..
  | .join .. => execJoin_keeps ..
  | .exit => execExit_keeps ..
  | .yield .. => execYield_keeps ..
  | .sadd .. => execSadd_keeps ..
  | .ssub .. => execSsub_keeps ..
  | .smul .. => execSmul_keeps ..
  | .smulh .. => execSmulh_keeps ..
  | .sdiv .. => execSdiv_keeps ..
  | .srem .. => execSrem_keeps ..
  | .sand .. => execSand_keeps ..
  | .sor .. => execSor_keeps ..
  | .sxor .. => execSxor_keeps ..
  | .sshl .. => execSshl_keeps ..
  | .sshr .. => execSshr_keeps ..
  | .ssra .. => execSsra_keeps ..
  | .srot .. => execSrot_keeps ..
  | .smin .. => execSmin_keeps ..
  | .smax .. => execSmax_keeps ..
  | .scmp .. => execScmp_keeps ..
  | .ssel .. => execSsel_keeps ..
  | .smovi .. => execSmovi_keeps ..
  | .smovh .. => execSmovh_keeps ..
  | .saddi .. => execSaddi_keeps ..
  | .spopc .. => execSpopc_keeps ..
  | .sclz .. => execSclz_keeps ..
  | .sctz .. => execSctz_keeps ..
  | .sbrev .. => execSbrev_keeps ..
  | .sbfx .. => execSbfx_keeps ..
  | .sbfi .. => execSbfi_keeps ..
  | .sld .. => execSld_keeps ..
  | .sst .. => execSst_keeps ..
  | .sldc .. => execSldc_keeps ..
  | .mode .. => execMode_keeps ..
  | .modei .. => execModei_keeps ..
  | .lget .. => execLget_keeps ..
  | .lgetV .. => execLgetV_keeps ..
  | .ljoin .. => execLjoin_keeps ..
  | .ljoinV .. => execLjoinV_keeps ..
  | .lchk .. => execLchk_keeps ..
  | .ltcompact .. => execLtcompact_keeps ..
  | .dcls .. => execDcls_keeps ..
  | .dclsS .. => execDclsS_keeps ..
  | .vadd .. => execVadd_keeps ..
  | .vsub .. => execVsub_keeps ..
  | .vmul .. => execVmul_keeps ..
  | .vmulh .. => execVmulh_keeps ..
  | .vmad .. => execVmad_keeps ..
  | .vfma .. => execVfma_keeps ..
  | .vmin .. => execVmin_keeps ..
  | .vmax .. => execVmax_keeps ..
  | .vabs .. => execVabs_keeps ..
  | .vneg .. => execVneg_keeps ..
  | .vdiv .. => execVdiv_keeps ..
  | .vsqrt .. => execVsqrt_keeps ..
  | .vrcp .. => execVrcp_keeps ..
  | .vrsq .. => execVrsq_keeps ..
  | .vexp2 .. => execVexp2_keeps ..
  | .vlog2 .. => execVlog2_keeps ..
  | .vsin .. => execVsin_keeps ..
  | .vcos .. => execVcos_keeps ..
  | .vcvt .. => execVcvt_keeps ..
  | .vand .. => execVand_keeps ..
  | .vor .. => execVor_keeps ..
  | .vxor .. => execVxor_keeps ..
  | .vnot .. => execVnot_keeps ..
  | .vshl .. => execVshl_keeps ..
  | .vshr .. => execVshr_keeps ..
  | .vsra .. => execVsra_keeps ..
  | .vbfx .. => execVbfx_keeps ..
  | .vbfi .. => execVbfi_keeps ..
  | .vpopc .. => execVpopc_keeps ..
  | .vclz .. => execVclz_keeps ..
  | .vbrev .. => execVbrev_keeps ..
  | .vcmp .. => execVcmp_keeps ..
  | .vsel .. => execVsel_keeps ..
  | .vmov .. => execVmov_keeps ..
  | .vmovs .. => execVmovs_keeps ..
  | .vmovi .. => execVmovi_keeps ..
  | .vqadd .. => execVqadd_keeps ..
  | .vqsub .. => execVqsub_keeps ..
  | .vqmul .. => execVqmul_keeps ..
  | .vqbfly .. => execVqbfly_keeps ..
  | .vqbflyi .. => execVqbflyi_keeps ..
  | .vshfl .. => execVshfl_keeps ..
  | .vshflS .. => execVshflS_keeps ..
  | .vballot .. => execVballot_keeps ..
  | .vred .. => execVred_keeps ..
  | .vscan .. => execVscan_keeps ..
  | .vbcast .. => execVbcast_keeps ..
  | .vbxch .. => execVbxch_keeps ..
  | .vmatch .. => execVmatch_keeps ..
  | .vld .. => execVld_keeps ..
  | .vst .. => execVst_keeps ..
  | .vldAcqB32 .. => execVldAcqB32_keeps ..
  | .vldAcqB64 .. => execVldAcqB64_keeps ..
  | .vstRelB32 .. => execVstRelB32_keeps ..
  | .vstRelB64 .. => execVstRelB64_keeps ..
  | .vldScB32 .. => execVldScB32_keeps ..
  | .vldScB64 .. => execVldScB64_keeps ..
  | .vstScB32 .. => execVstScB32_keeps ..
  | .vstScB64 .. => execVstScB64_keeps ..
  | .vlds .. => execVlds_keeps ..
  | .vsts .. => execVsts_keeps ..
  | .vldp .. => execVldp_keeps ..
  | .vstp .. => execVstp_keeps ..
  | .sprf .. => execSprf_keeps ..
  | .fence .. => execFence_keeps ..
  | .mwait .. => execMwait_keeps ..
  | .rhint .. => execRhint_keeps ..
  | .vatomB32 .. => execVatomB32_keeps ..
  | .vatomB64 .. => execVatomB64_keeps ..
  | .vratomB32 .. => execVratomB32_keeps ..
  | .vratomB64 .. => execVratomB64_keeps ..
  | .satom .. => execSatom_keeps ..
  | .boinit .. => execBoinit_keeps ..
  | .boarr .. => execBoarr_keeps ..
  | .bowait .. => execBowait_keeps ..
  | .boexp .. => execBoexp_keeps ..
  | .vcpy .. => execVcpy_keeps ..
  | .cbatch .. => execCbatch_keeps ..
  | .cwait .. => execCwait_keeps ..
  | .kick .. => execKick_keeps ..
  | .rput .. => execRput_keeps ..
  | .rget .. => execRget_keeps ..
  | .mldb .. => execMldb_keeps ..
  | .mfree .. => execMfree_keeps ..
  | .munf .. => execMunf_keeps ..
  | .mmq .. => execMmq_keeps ..
  | .mscaleA .. => execMscaleA_keeps ..
  | .mscaleB .. => execMscaleB_keeps ..
  | .mstat .. => execMstat_keeps ..
  | .mchk .. => execMchk_keeps ..
  | .fopen .. => execFopen_keeps ..
  | .fclose .. => execFclose_keeps ..
  | .fsend .. => execFsend_keeps ..
  | .fsendDefer .. => execFsendDefer_keeps ..
  | .fcomb .. => execFcomb_keeps ..
  | .eret => execEret_keeps ..
  | .tlbinv .. => execTlbinv_keeps ..
  | .cinv .. => execCinv_keeps ..
  | .kzero .. => execKzero_keeps ..
  | .kstat .. => execKstat_keeps ..
  | .scrub .. => execScrub_keeps ..
  | .cassign .. => execCassign_keeps ..
  | .splitMergeEarly .. => execSplitMergeEarly_keeps ..
  | .loadReturn .. => execLoadReturn_keeps ..
  | .mwaitWake .. => execMwaitWake_keeps ..
  | .spawnBinTimer .. => execSpawnBinTimer_keeps ..
  | .spawnBinLaunch .. => execSpawnBinLaunch_keeps ..
  | .slotDrainDone .. => execSlotDrainDone_keeps ..
  | .localityDecay .. => execLocalityDecay_keeps ..
  | .starvationIssue .. => execStarvationIssue_keeps ..
  | .laneCopy .. => execLaneCopy_keeps ..
  | .requestElement .. => execRequestElement_keeps ..
  | .requestComplete .. => execRequestComplete_keeps ..
  | .remoteSourceRead .. => execRemoteSourceRead_keeps ..
  | .remotePutArrival .. => execRemotePutArrival_keeps ..
  | .remoteGetArrival .. => execRemoteGetArrival_keeps ..
  | .rgetDataReturn .. => execRgetDataReturn_keeps ..
  | .remoteHoldTimeout .. => execRemoteHoldTimeout_keeps ..
  | .sendArrival .. => execSendArrival_keeps ..
  | .sendDeferAdmit .. => execSendDeferAdmit_keeps ..
  | .sendStatus .. => execSendStatus_keeps ..
  | .sendUnreachable .. => execSendUnreachable_keeps ..
  | .combinerContribution .. => execCombinerContribution_keeps ..
  | .combinerTimeout .. => execCombinerTimeout_keeps ..
  | .combineResult .. => execCombineResult_keeps ..
  | .passGroupLaunch .. => execPassGroupLaunch_keeps ..
  | .passExecute .. => execPassExecute_keeps ..
  | .passDrain .. => execPassDrain_keeps ..
  | .slotLoad .. => execSlotLoad_keeps ..
  | .eccUncorrectable .. => execEccUncorrectable_keeps ..
  | .hangDetect .. => execHangDetect_keeps ..
  | .refusalLogFlush .. => execRefusalLogFlush_keeps ..
  | .faultTimeout .. => execFaultTimeout_keeps ..
  | .gangDispatch .. => execGangDispatch_keeps ..
  | .launchReady .. => execLaunchReady_keeps ..
  | .launchStart .. => execLaunchStart_keeps ..
  | .launchComplete .. => execLaunchComplete_keeps ..
  | .auditRun .. => execAuditRun_keeps ..
  | .auditCompare .. => execAuditCompare_keeps ..
  | .quantumExpiry .. => execQuantumExpiry_keeps ..
  | .preemptDeadline .. => execPreemptDeadline_keeps ..
  | .splitRelease .. => execSplitRelease_keeps ..
  | .gangSave .. => execGangSave_keeps ..
  | .saveTimeout .. => execSaveTimeout_keeps ..
  | .gangRestore .. => execGangRestore_keeps ..
  | .clusterLend .. => execClusterLend_keeps ..
  | .clusterReclaim .. => execClusterReclaim_keeps ..
  | .budgetWindow => execBudgetWindow_keeps ..
  | .hostRmaRead .. => execHostRmaRead_keeps ..
  | .hostRmaWrite .. => execHostRmaWrite_keeps ..
  | .sessionOpen .. => execSessionOpen_keeps ..
  | .launch .. => execLaunch_keeps ..
  | .copy .. => execCopy_keeps ..
  | .signal .. => execSignal_keeps ..
  | .wait .. => execWait_keeps ..
  | .fenceCmd .. => execFenceCmd_keeps ..
  | .ctxcreate .. => execCtxcreate_keeps ..
  | .ctxdestroy .. => execCtxdestroy_keeps ..
  | .migrate .. => execMigrate_keeps ..
  | .map .. => execMap_keeps ..
  | .unmap .. => execUnmap_keeps ..
  | .faultreply .. => execFaultreply_keeps ..
  | .dcdadd .. => execDcdadd_keeps ..
  | .dcdrel .. => execDcdrel_keeps ..
  | .writePvcfg .. => execWritePvcfg_keeps ..
  | .writePvcol .. => execWritePvcol_keeps ..
  | .setBudgets .. => execSetBudgets_keeps ..
  | .readInService .. => execReadInService_keeps ..
  | .pavilionImageUpdate .. => execPavilionImageUpdate_keeps ..
  | .clusterQuarantine .. => execClusterQuarantine_keeps ..
  | .sectorRetirement .. => execSectorRetirement_keeps ..
  | .ethernetReset .. => execEthernetReset_keeps ..
  | .ethernetRemoval .. => execEthernetRemoval_keeps ..
  | .cxlReset .. => execCxlReset_keeps ..
  | .cxlRemoval .. => execCxlRemoval_keeps ..
  | .cxlResetTimeout .. => execCxlResetTimeout_keeps ..
  | .returnCore .. => execReturnCore_keeps ..
  | .returnCluster .. => execReturnCluster_keeps ..
  | .returnPage .. => execReturnPage_keeps ..
  | .raiseFuseTackRoom .. => execRaiseFuseTackRoom_keeps ..
  | .raiseFusePavilion .. => execRaiseFusePavilion_keeps ..
  | .warmReset .. => execWarmReset_keeps ..
  | .watchdogReset => execWatchdogReset_keeps ..
  | .resumeScrub .. => execResumeScrub_keeps ..
  | .loadEvictionSchedule .. => execLoadEvictionSchedule_keeps ..
  | .quarantineThreshold .. => execQuarantineThreshold_keeps ..
  | .coldReset => execColdReset_keeps ..
  | .deriveKey .. => execDeriveKey_keeps ..
  | .getVersion .. => execGetVersion_keeps ..
  | .getCapabilities .. => execGetCapabilities_keeps ..
  | .negotiateAlgorithms .. => execNegotiateAlgorithms_keeps ..
  | .getDigests .. => execGetDigests_keeps ..
  | .getCertificate .. => execGetCertificate_keeps ..
  | .challenge .. => execChallenge_keeps ..
  | .getMeasurements .. => execGetMeasurements_keeps ..
  | .keyExchange .. => execKeyExchange_keeps ..
  | .finish .. => execFinish_keeps ..
  | .endSession .. => execEndSession_keeps ..
  | .keyload .. => execKeyload_keeps ..
  | .grant .. => execGrant_keeps ..
  | .migrationStateReceive .. => execMigrationStateReceive_keeps ..
  | .prepared .. => execPrepared_keeps ..
  | .commit .. => execCommit_keeps ..
  | .refused .. => execRefused_keeps ..
  | .outcome .. => execOutcome_keeps ..
  | .migrationSilence .. => execMigrationSilence_keeps ..
  | .migrationOutcomePoll .. => execMigrationOutcomePoll_keeps ..
  | .migrationSourceLoss .. => execMigrationSourceLoss_keeps ..
  | .scrubChunk .. => execScrubChunk_keeps ..
  | .grantExpiry .. => execGrantExpiry_keeps ..
  | .firmwareLoad .. => execFirmwareLoad_keeps ..
  | .ideReestablished .. => execIdeReestablished_keeps ..
  | .imageSignatureVerified .. => execImageSignatureVerified_keeps ..

/-! ## The step -/

theorem issue_keeps (s : State) : OutKeeps s (issue s) := by
  unfold issue
  split
  · next hf => exact .next (fetch_keeps s _ hf)
  · next w _ =>
    split
    · exact ((s.latch_keeps w).trans (State.fill_keeps ..)).outKeeps (exec_keeps ..)
    · exact .next ((s.latch_keeps w).trans (illegal_keeps ..))

theorem reply_keeps (s : State) (w sp) : Keeps s (reply w sp s) := by
  unfold reply
  grind [Keeps, State.asWarp_keeps, settleCompact_keeps, tackReply_keeps, settleKzero_keeps]

theorem turn_keeps (s : State) (t) : OutKeeps s (turn t s) := by
  cases t with
  | issue w sp => exact .ite ((prepare_keeps ..).outKeeps (issue_keeps _)) (.next (.refl s))
  | event i => exact .ite (.next (.refl s)) (.after (exec_keeps ..) rfl rfl)
  | arrive a i => exact .ite (.next (.refl s)) (.after (exec_keeps ..) rfl rfl)
  | reply w sp => exact .next (reply_keeps ..)
  | advance n => exact .next (.of_same rfl rfl)

theorem step_keeps (s : State) : OutKeeps s (step s) := by
  unfold step
  split
  · exact .ite (.next (.of_same rfl rfl)) (.after (turn_keeps ..) rfl rfl)
  · exact turn_keeps ..

/-- Settles O60: the next state of every step is kept. -/
theorem everyStepKeepsMemoryCanonical : Obligations.EveryStepKeepsMemoryCanonical := by
  unfold Obligations.EveryStepKeepsMemoryCanonical
  intro s t hst hwf
  obtain ⟨hpart, hmem⟩ := (step_keeps s).of_next t hst
  exact ⟨hmem hwf, hpart⟩

end Sys2Proof.Machine
end

section

namespace Sys2Proof.Machine

/-! ## `lookup_or_insert`, one equation a step of it (02 R19) -/

theorem LIdx.toNat_ofNat {i : Nat} (h : i < 16) : (BitVec.ofNat 4 i).toNat = i := by
  rw [BitVec.toNat_ofNat, Nat.mod_eq_of_lt h]

/-- Step 1: the lowest of the entries that hold the label. -/
theorem Warp.intern_eq_of_held {w : Warp} {own l : Label} (h : ∃ j < 16, w.entry own j = some l) :
    ∃ i < 16, w.entry own i = some l ∧ (∀ j < i, w.entry own j ≠ some l) ∧
      w.intern own l = (BitVec.ofNat 4 i, w) := by
  obtain ⟨j, hj, he⟩ := h
  cases hf : (List.range 16).find? fun i => w.entry own i = some l with
  | none => exact absurd he (by simpa using List.find?_eq_none.mp hf j (List.mem_range.mpr hj))
  | some i =>
    obtain ⟨hi, hmem, hlow⟩ := List.find?_range_eq_some.mp hf
    exact ⟨i, List.mem_range.mp hmem, by simpa using hi, fun j hj => by simpa using hlow j hj,
      by simp [Warp.intern, hf]⟩

/-- A label that no entry holds is not found. -/
theorem Warp.find_entry_eq_none {w : Warp} {own l : Label} (h : ∀ j < 16, w.entry own j ≠ some l) :
    ((List.range 16).find? fun i => w.entry own i = some l) = none :=
  List.find?_eq_none.mpr fun j hj => by simpa using h j (List.mem_range.mp hj)

/-- Step 2: the lowest free entry of L1 to L14 takes the label. -/
theorem Warp.intern_eq_of_free {w : Warp} {own l : Label} (hn : ∀ j < 16, w.entry own j ≠ some l)
    (h : ∃ j, 1 ≤ j ∧ j ≤ 14 ∧ w.ltab.get none j = none) :
    ∃ i, 1 ≤ i ∧ i ≤ 14 ∧ w.ltab.get none i = none ∧ (∀ j, 1 ≤ j → j < i → w.ltab.get none j ≠ none) ∧
      w.intern own l = (BitVec.ofNat 4 i, { w with ltab := w.ltab.set none i (some l) }) := by
  obtain ⟨j, h1, h14, hj⟩ := h
  cases hf : (List.range' 1 14).find? fun i => w.ltab.get none i = none with
  | none => exact absurd hj (by simpa using List.find?_eq_none.mp hf j (List.mem_range'_1.mpr (by omega)))
  | some i =>
    obtain ⟨hi, hmem, hlow⟩ := List.find?_range'_eq_some.mp hf
    have hrange := List.mem_range'_1.mp hmem
    exact ⟨i, hrange.1, by omega, by simpa using hi, fun j h1 hj => by simpa using hlow j h1 hj,
      by simp [Warp.intern, Warp.find_entry_eq_none hn, hf]⟩

/-- Step 3: the table is full, and LBLCOARSEN counts. -/
theorem Warp.intern_eq_of_full {w : Warp} {own l : Label} (hn : ∀ j < 16, w.entry own j ≠ some l)
    (h : ∀ j, 1 ≤ j → j ≤ 14 → w.ltab.get none j ≠ none) :
    w.intern own l = (BitVec.ofNat 4 (w.smallestDom own l (List.range 16) none),
      { w with coarsen := if w.coarsen = 0xFFFFFFFF#32 then w.coarsen else w.coarsen + 1 }) := by
  have hf : ((List.range' 1 14).find? fun i => w.ltab.get none i = none) = none :=
    List.find?_eq_none.mpr fun j hj => by
      have hrange := List.mem_range'_1.mp hj
      simpa using h j hrange.1 (by omega)
  simp [Warp.intern, Warp.find_entry_eq_none hn, hf]

/-! ## The smallest entry that dominates (02 R19 step 3) -/

/-- The owners of an entry, those of the context where it is free. -/
def Warp.entrySize (w : Warp) (own : Label) (i : Nat) : Nat := labelSize ((w.entry own i).getD own)

theorem Warp.entrySize_of_entry {w : Warp} {own e : Label} {i : Nat} (h : w.entry own i = some e) :
    w.entrySize own i = labelSize e := by simp [Warp.entrySize, h]

/-- Entry `r` has fewer owners than entry `j`, or as many and no higher index. -/
def Warp.Precedes (w : Warp) (own : Label) (r j : Nat) : Prop :=
  w.entrySize own r < w.entrySize own j ∨ (w.entrySize own r = w.entrySize own j ∧ r ≤ j)

theorem Warp.Precedes.trans {w : Warp} {own : Label} {a b c : Nat} (h : w.Precedes own a b)
    (g : w.Precedes own b c) : w.Precedes own a c := by
  unfold Warp.Precedes at *
  omega

/-- The entry found precedes every one of those tried that dominates, and `best`, the one found before them. -/
theorem Warp.smallestDom_precedes (w : Warp) (own l : Label) (is : List Nat) (best : Option Nat)
    (hrise : is.Pairwise (· < ·)) (hbest : ∀ b, best = some b → ∀ i ∈ is, b < i) :
    (∀ b, best = some b → w.Precedes own (w.smallestDom own l is best) b) ∧
      ∀ j ∈ is, ∀ x, w.entry own j = some x → Label.dom x l = true →
        w.Precedes own (w.smallestDom own l is best) j := by
  induction is generalizing best with
  | nil => exact ⟨by rintro b rfl; exact .inr ⟨rfl, le_rfl⟩, by simp⟩
  | cons i t ih =>
    obtain ⟨hit, ht⟩ := List.pairwise_cons.mp hrise
    obtain ⟨hkeep, hkeepAll⟩ := ih best ht fun b hb a ha => hbest b hb a (List.mem_cons_of_mem _ ha)
    obtain ⟨htake, htakeAll⟩ := ih (some i) ht (by rintro b ⟨⟩; exact hit)
    unfold Warp.smallestDom
    cases he : w.entry own i with
    | none => exact ⟨hkeep, List.forall_mem_cons.mpr ⟨by simp [he], hkeepAll⟩⟩
    | some e =>
      by_cases hd : Label.dom e l = true
      · simp only [hd, if_true]
        cases best with
        | none => exact ⟨nofun, List.forall_mem_cons.mpr ⟨fun _ _ _ => htake i rfl, htakeAll⟩⟩
        | some b =>
          have hb : b < i := hbest b rfl i List.mem_cons_self
          have hsize : w.entrySize own b = labelSize ((w.entry own b).getD own) := rfl
          simp only [← hsize, ← w.entrySize_of_entry he]
          split
          · have hlt : w.Precedes own i b := .inl ‹_›
            exact ⟨by rintro _ ⟨⟩; exact (htake i rfl).trans hlt,
              List.forall_mem_cons.mpr ⟨fun _ _ _ => htake i rfl, htakeAll⟩⟩
          · have hle : w.Precedes own b i := by
              unfold Warp.Precedes
              omega
            exact ⟨hkeep, List.forall_mem_cons.mpr ⟨fun _ _ _ => (hkeep b rfl).trans hle, hkeepAll⟩⟩
      · simp only [hd]
        refine ⟨hkeep, List.forall_mem_cons.mpr ⟨fun x hx hdom => ?_, hkeepAll⟩⟩
        cases he.symm.trans hx
        exact absurd hdom hd

/-- Settles O5: each step of the lookup by its equation, the third by the entry that precedes all others that
dominate. -/
theorem lookupOrInsertFollowsItsOrder : Obligations.LookupOrInsertFollowsItsOrder := by
  unfold Obligations.LookupOrInsertFollowsItsOrder
  intro w own l
  refine ⟨fun h => ?_, fun hn h => ?_, fun hn h hown => ?_, w.intern_entries own l⟩
  · obtain ⟨i, hi, he, hlow, heq⟩ := Warp.intern_eq_of_held h
    rw [heq, LIdx.toNat_ofNat hi]
    exact ⟨rfl, he, hlow⟩
  · obtain ⟨i, h1, h14, hfree, hlow, heq⟩ := Warp.intern_eq_of_free hn h
    rw [heq, LIdx.toNat_ofNat (by omega)]
    exact ⟨h1, h14, hfree, hlow, rfl⟩
  · obtain ⟨hlt, e, he, hd⟩ := w.smallestDom_spec own l (List.range 16) none nofun
      (fun i hi => List.mem_range.mp hi) (fun _ => by simp) hown
    obtain ⟨-, hall⟩ := w.smallestDom_precedes own l (List.range 16) none List.pairwise_lt_range nofun
    rw [Warp.intern_eq_of_full hn h, LIdx.toNat_ofNat hlt]
    refine ⟨e, he, hd, fun j hj x hx hdom => ?_, rfl⟩
    have hpre := hall j (List.mem_range.mpr hj) x hx hdom
    rwa [Warp.Precedes, w.entrySize_of_entry he, w.entrySize_of_entry hx] at hpre

/-! ## S0 (02 R10) -/

/-- Settles O6: a write of S0 returns the state, and a read of it no register. -/
theorem s0ReadsZeroAndDiscardsWrites : Obligations.S0ReadsZeroAndDiscardsWrites := by
  unfold Obligations.S0ReadsZeroAndDiscardsWrites
  intro s v l
  exact ⟨if_pos rfl, if_pos rfl, if_pos rfl⟩

end Sys2Proof.Machine
end

section

namespace Sys2Proof.Machine

/-! ## Entering the handler (02 R28) -/

/-- A lookup and then a write of the split: what changes, and what the index found stands for (02 R19). -/
theorem State.setSplit_intern (s : State) (l : Label) (x : Split) :
    let t := (s.intern l).2.setSplit x
    OnlyWarp s t ∧ KeepsEntries s t ∧ Stands s t (s.intern l).1 l ∧
      (∀ i, i ≠ s.curSplit → t.warp.split i = s.warp.split i) ∧
      t.warp = { s.warp with ltab := t.warp.ltab, coarsen := t.warp.coarsen, splits := t.warp.splits } := by
  intro t
  have hstate : t = s.setWarp ((s.warp.intern s.owners l).2.setSplit s.curSplit x) := by
    simp [t, State.intern_warp, State.setSplit_eq]
  have hwarp : t.warp = (s.warp.intern s.owners l).2.setSplit s.curSplit x := by rw [hstate, State.warp_setWarp]
  have howners : t.owners = s.owners := by
    rw [hstate]
    exact s.owners_setWarp (Warp.intern_ctx ..)
  have hlabel {e : Label} (he : (s.warp.intern s.owners l).2.entry s.owners (s.intern l).1.toNat = some e) :
      t.label (s.intern l).1 = e := by
    rw [State.label, howners, hwarp]
    exact Warp.label_of_entry he
  refine ⟨by rw [OnlyWarp, hwarp]; exact hstate, fun i y h => ?_, ⟨fun h => ?_, fun h => ?_⟩, fun i hi => ?_, ?_⟩
  · rw [hwarp]
    exact Warp.intern_entries _ _ _ i y h
  · exact hlabel (s.warp.intern_exact s.owners l (.inl h))
  · obtain ⟨e, he, hd⟩ := s.warp.intern_dom s.owners l h
    rwa [hlabel he]
  · rw [hwarp, Warp.split_setSplit_other _ _ hi, Warp.split, Warp.intern_splits]
    rfl
  · rw [hwarp, Warp.setSplit, Warp.intern_rest]

/-- The split that issues as a trap leaves it at the handler, with the index `i` for its pc label. -/
def State.trapped (s : State) (i : LIdx) (c : Cause) (einfo : Word) (epc : BitVec 57) (len8 : Bool) : Split :=
  { s.split with
    epc := epc, ecause := BitVec.ofNat 8 c.code, einfo := einfo, emode := s.split.mode, elbl := s.split.pcl,
    epriv := s.split.priv, elen8 := len8, pcl := i, mode := 0x30#32, priv := true, eh := true, pc := s.handlerPc,
    safe := none, st := .ready, last := s.cycle, wmask := none, wlbl := 0, declined := [], heldOn := [] }

/-- A trap outside handler state, in a context with a handler: a lookup of the pc label, then a write of the split. -/
theorem State.takeTrap_eq_setSplit {s : State} (heh : s.split.eh = false) (hh : s.ctx.handler ≠ 0) (c : Cause)
    (einfo : Word) (ops : Label) (epc : BitVec 57) (len8 page : Bool) :
    s.takeTrap c einfo ops epc len8 page = (s.intern (s.pcl ||| ops)).2.setSplit
      (s.trapped (s.intern (s.pcl ||| ops)).1 c einfo epc len8) := by
  unfold State.takeTrap
  simp only [heh, hh, Bool.false_or, decide_false, Bool.false_eq_true, if_false]
  rfl

/-- It enters the handler. -/
theorem State.takeTrap_entersHandler {s : State} (heh : s.split.eh = false) (hh : s.ctx.handler ≠ 0) (c : Cause)
    (einfo : Word) (ops : Label) (epc : BitVec 57) (len8 page : Bool) :
    EntersHandler s (s.takeTrap c einfo ops epc len8 page) c einfo ops epc := by
  rw [State.takeTrap_eq_setSplit heh hh]
  have hsplit := State.split_setSplit (s.intern (s.pcl ||| ops)).2
    (s.trapped (s.intern (s.pcl ||| ops)).1 c einfo epc len8)
  obtain ⟨honly, hentries, hstands, hothers, hrest⟩ := s.setSplit_intern (s.pcl ||| ops)
    (s.trapped (s.intern (s.pcl ||| ops)).1 c einfo epc len8)
  exact {
    only := honly
    entries := hentries
    pcl := by rw [hsplit]; exact hstands
    others := hothers
    rest := hrest
    epc := congrArg Split.epc hsplit
    ecause := congrArg Split.ecause hsplit
    einfo := congrArg Split.einfo hsplit
    emode := congrArg Split.emode hsplit
    elbl := congrArg Split.elbl hsplit
    epriv := congrArg Split.epriv hsplit
    mode := congrArg Split.mode hsplit
    priv := congrArg Split.priv hsplit
    eh := congrArg Split.eh hsplit
    pc := congrArg Split.pc hsplit
    exec := (congrArg Split.exec hsplit).trans rfl
    ready := congrArg Split.st hsplit }

/-- An instruction that goes on and then traps into the handler: the trap is that of the state before, with the address
that it saves. -/
theorem EntersHandler.of_goesOnly {s u t : State} {pc epc : BitVec 57} {c : Cause} {einfo : Word} {ops : Label}
    (g : GoesOnly s u pc) (h : EntersHandler u t c einfo ops epc) : EntersHandler s t c einfo ops epc := by
  obtain ⟨honly, ⟨hsplit, hothers⟩, hrest⟩ := g
  have howners : u.owners = s.owners := State.owners_of_only honly (by rw [hrest])
  have hlabel : ∀ i, u.label i = s.label i := State.label_of_warp hrest howners
  have hentry : ∀ i, u.warp.entry u.owners i = s.warp.entry s.owners i := fun i => by
    rw [howners, hrest]; rfl
  have hpcl : u.pcl = s.pcl := by rw [State.pcl, hlabel, hsplit]; rfl
  have hctx : u.ctx = s.ctx := by rw [State.ctx, hrest, honly]; rfl
  have hcur : u.curSplit = s.curSplit := by rw [honly]; rfl
  exact {
    h with
    only := by rw [OnlyWarp]; conv => { lhs; rw [h.only, honly] }; simp
    entries := fun i l hl => by
      rw [← hentry i] at hl
      have ht := h.entries i l hl
      rwa [howners] at ht
    emode := by rw [h.emode, hsplit]
    elbl := by rw [h.elbl, hsplit]
    epriv := by rw [h.epriv, hsplit]
    pcl := by
      obtain ⟨hexact, hdom⟩ := h.pcl
      simp only [hentry, hpcl] at hexact hdom
      rw [howners] at hdom
      exact ⟨hexact, hdom⟩
    pc := by rw [h.pc, hctx]
    exec := by rw [h.exec, hsplit]
    others := fun i hi => by rw [h.others i (by rwa [hcur]), hothers i hi]
    rest := by rw [h.rest, hrest] }

/-- EINFO of `trap` holds its immediate in its low bits (04 R81). -/
theorem fieldOf_wordOf_trap (p : Bool) (n : Imm16) : fieldOf (wordOf (.trap p n)) 0 16 = n.toNat := by
  have hn := n.isLt
  have hword : encodeNat (.trap p n) = 0x05000000 + p.toNat * 0x80000000 + n.toNat := rfl
  simp only [fieldOf, wordOf, encode, hword, BitVec.toNat_setWidth, BitVec.toNat_ofNat]
  omega

/-- Settles O20: `trap` goes on to its next instruction before it traps. -/
theorem trapEntersTheHandler : Obligations.TrapEntersTheHandler := by
  unfold Obligations.TrapEntersTheHandler
  refine ⟨fun s c einfo ops epc len8 page heh hh => State.takeTrap_entersHandler heh hh c einfo ops epc len8 page,
    fun s p n hready heh hh => ?_⟩
  have hgoes := advance_goes s p
  have henters := EntersHandler.of_goesOnly hgoes <|
    State.takeTrap_entersHandler (by rw [hgoes.next.split, heh]) (by rw [State.ctx, hgoes.rest, hgoes.only]; exact hh)
      .trapi (wordOf (.trap p n)) 0#16 (s.nextPc p) p false
  exact completes_word (f := fun s => .ok ((s.advance p).takeTrap .trapi (wordOf (.trap p n)) 0#16 (s.nextPc p) p))
    rfl hready rfl ⟨henters, by rw [henters.einfo, fieldOf_wordOf_trap]⟩

/-! ## Returning from it (02 R29) -/

theorem State.maskCheck_eret (s : State) : s.maskCheck .eret = none := by
  have hsp : Instr.sp .eret = false := by decide
  simp [State.maskCheck, hsp]

/-- `eret` reads no register. -/
theorem State.readLabel_eret (s : State) : s.readLabel .eret = 0#16 := by
  have huses : s.uses .eret = {} := rfl
  simp [State.readLabel, huses, regsOf, joinLabels]

theorem State.warp_eretTo (s : State) : s.eretTo.warp = s.warp.setSplit s.curSplit { s.split with
    pc := s.split.epc, mode := s.split.emode, pcl := s.split.elbl, priv := s.split.epriv, eh := false, safe := none,
    last := s.cycle, declined := [], heldOn := [] } := s.warp_setSplit _

theorem State.split_eretTo (s : State) : s.eretTo.split = { s.split with
    pc := s.split.epc, mode := s.split.emode, pcl := s.split.elbl, priv := s.split.epriv, eh := false, safe := none,
    last := s.cycle, declined := [], heldOn := [] } := s.split_setSplit _

/-- Settles O22: the return itself, and the two traps by the check that stands before it. -/
theorem eretRestoresWhatTheTrapSaved : Obligations.EretRestoresWhatTheTrapSaved := by
  unfold Obligations.EretRestoresWhatTheTrapSaved
  intro s
  have hsp : Instr.sp .eret = false := by decide
  refine ⟨fun hready heh => ?_, fun hready heh => ?_, fun hops hpriv => ?_⟩
  · have hok : (if !s.split.eh then .error (.trap .ill (wordOf .eret)) else .ok s.eretTo : Eff State) =
        .ok s.eretTo := by simp [heh]
    refine completes_word (exec_eret s) hready hok ⟨by simp [OnlyWarp, State.eretTo, State.setSplit_eq], ?_⟩
    rw [State.split_eretTo]
    refine ⟨rfl, rfl, rfl, rfl, rfl, rfl, fun i hi => ?_, ?_⟩
    · rw [State.warp_eretTo, Warp.split_setSplit_other _ _ hi]
    · rw [State.warp_eretTo]; rfl
  · rw [exec_eret, execEret, word_error hready (e := .trap .ill (wordOf .eret)) (by simp [heh]),
      State.readLabel_eret, hsp]
    rfl
  · rw [exec_eret, execEret, word]
    simp [State.issueCheck, hops, State.maskCheck_eret, State.privOk, hpriv, State.earlyTrap, hsp]

end Sys2Proof.Machine
end

section

namespace Sys2Proof

theorem Sparse.mem_set {V : Type} [DecidableEq V] {m : Sparse V} {d v : V} {k : Nat} {e : Nat × V}
    (h : e ∈ (m.set d k v).entries) : e = (k, v) ∨ (e ∈ m.entries ∧ e.1 ≠ k) := by
  unfold Sparse.set at h
  split at h
  · exact .inr (Sparse.mem_erase h)
  · exact (Sparse.mem_insert h).imp_right Sparse.mem_erase

end Sys2Proof

namespace Sys2Proof.Machine

/-! ## What the ends of waits leave of a halted warp (02 R30, 16 R275)

A warp that halts is settled after: barriers complete, objects release their waits, its block may end. Each of these acts
as warps that are live, so none touches the halted one; and none touches an error record. -/

/-- Nothing that slot `k` lists is live. -/
def State.Stopped (s : State) (k : Nat) : Prop := ∀ e ∈ s.warps.entries, e.1 = k → e.2.live = false

/-- Where slot `k` is stopped in `s` it is so in `t`, which has the same warp there and the same error records. -/
structure Spares (k : Nat) (s t : State) : Prop where
  stopped : s.Stopped k → t.Stopped k
  warp : s.Stopped k → t.warpAt k = s.warpAt k
  records : s.Stopped k → ∀ c, (t.ctxAt c).records = (s.ctxAt c).records
  nfault : s.Stopped k → ∀ c, (t.ctxAt c).nfault = (s.ctxAt c).nfault

section
variable {k : Nat} {s t u : State}

theorem Spares.refl (k : Nat) (s : State) : Spares k s s := ⟨id, fun _ => rfl, fun _ _ => rfl, fun _ _ => rfl⟩

theorem Spares.trans (h : Spares k s t) (g : Spares k t u) : Spares k s u :=
  ⟨fun hs => g.stopped (h.stopped hs), fun hs => (g.warp (h.stopped hs)).trans (h.warp hs),
    fun hs c => (g.records (h.stopped hs) c).trans (h.records hs c),
    fun hs c => (g.nfault (h.stopped hs) c).trans (h.nfault hs c)⟩

/-- That slot `k` is stopped may be used to show that it is spared. -/
theorem Spares.of_stopped (h : s.Stopped k → Spares k s t) : Spares k s t :=
  ⟨fun hs => (h hs).stopped hs, fun hs => (h hs).warp hs, fun hs => (h hs).records hs, fun hs => (h hs).nfault hs⟩

/-- A state with the same warps and contexts. -/
theorem Spares.of_same (hw : t.warps = s.warps) (hc : t.ctxs = s.ctxs) : Spares k s t := by
  have hctx : ∀ c, t.ctxAt c = s.ctxAt c := fun c => by rw [State.ctxAt, hc]; rfl
  exact ⟨fun hs => by rwa [State.Stopped, hw], fun _ => by rw [State.warpAt, hw]; rfl, fun _ c => by rw [hctx],
    fun _ c => by rw [hctx]⟩

theorem foldl_spares {α : Type} {f : State → α → State} {xs : List α} (h : ∀ s, ∀ x ∈ xs, Spares k s (f s x))
    (s : State) : Spares k s (xs.foldl f s) := by
  induction xs generalizing s with
  | nil => exact .refl k s
  | cons x t ih =>
    exact (h s x List.mem_cons_self).trans (ih (fun s y hy => h s y (List.mem_cons_of_mem _ hy)) _)

end

section
variable (k : Nat) (s : State)

theorem State.setWarpAt_spares {j : Nat} (h : j ≠ k) (w : Warp) : Spares k s (s.setWarpAt j w) := by
  refine ⟨fun hs e he hk => ?_, fun _ => s.warpAt_setWarpAt_other w h.symm, fun _ _ => rfl, fun _ _ => rfl⟩
  rcases Sparse.mem_set he with rfl | ⟨he, -⟩
  · exact absurd hk h
  · exact hs e he hk

/-- A write of a context that leaves its records. -/
theorem State.setCtxAt_spares {c : Nat} {x : Ctx} (hr : x.records = (s.ctxAt c).records)
    (hn : x.nfault = (s.ctxAt c).nfault) : Spares k s (s.setCtxAt c x) := by
  refine ⟨id, fun _ => rfl, fun _ j => ?_, fun _ j => ?_⟩ <;> by_cases hj : j = c
  · rw [hj, s.ctxAt_setCtxAt_same, hr]
  · rw [s.ctxAt_setCtxAt_other x hj]
  · rw [hj, s.ctxAt_setCtxAt_same, hn]
  · rw [s.ctxAt_setCtxAt_other x hj]

theorem State.setBlockAt_spares (b : Nat) (x : Block) : Spares k s (s.setBlockAt b x) := .of_same rfl rfl

theorem State.setLaunchAt_spares (l : Nat) (x : Launch) : Spares k s (s.setLaunchAt l x) := .of_same rfl rfl

theorem State.setGangAt_spares (g : Nat) (x : Gang) : Spares k s (s.setGangAt g x) := .of_same rfl rfl

theorem State.setCoreAt_spares (c : Nat) (x : Core) : Spares k s (s.setCoreAt c x) := .of_same rfl rfl

theorem State.setClusterAt_spares (c : Nat) (x : Cluster) : Spares k s (s.setClusterAt c x) := .of_same rfl rfl

theorem State.setPavAt_spares (p : Nat) (x : Pav) : Spares k s (s.setPavAt p x) := .of_same rfl rfl

theorem State.setBytes_spares (a : Nat) (bs : List Byte) : Spares k s (s.setBytes a bs) := by
  induction bs generalizing s a with
  | nil => exact .refl k s
  | cons b t ih =>
    refine Spares.trans ?_ (ih (s.setByte a b) (a + 1))
    unfold State.setByte
    split <;> exact .of_same rfl rfl

end

/-! ### Acting as a warp -/

/-- `t` differs from `s` by acts of the warp in slot `j`: it acts yet, and every other slot is spared. -/
structure ActsAs (j : Nat) (s t : State) : Prop where
  cur : s.cur = j → t.cur = j
  spares : s.cur = j → ∀ k, j ≠ k → Spares k s t

section
variable {j : Nat} {s t u : State}

theorem ActsAs.refl (j : Nat) (s : State) : ActsAs j s s := ⟨id, fun _ k _ => .refl k s⟩

theorem ActsAs.trans (h : ActsAs j s t) (g : ActsAs j t u) : ActsAs j s u :=
  ⟨fun hj => g.cur (h.cur hj), fun hj k hk => (h.spares hj k hk).trans (g.spares (h.cur hj) k hk)⟩

theorem setWarp_actsAs (s : State) (w : Warp) : ActsAs j s (s.setWarp w) :=
  ⟨id, fun hj k hk => s.setWarpAt_spares k (hj ▸ hk) w⟩

theorem setS_actsAs (s : State) (d : SNum) (v : Word) (l : Label) : ActsAs j s (s.setS d v l) := by
  by_cases hd : d = 0
  · rw [State.setS, if_pos hd]
    exact .refl j s
  · rw [s.setS_warp d v l hd]
    exact setWarp_actsAs ..

theorem learn_actsAs (s : State) (ls ids : List Nat) : ActsAs j s (s.learn ls ids) := setWarp_actsAs ..

theorem gather_actsAs (s : State) (ls : List Nat) : ActsAs j s (s.gather ls) := by
  unfold State.gather
  split
  · exact .refl j s
  · exact learn_actsAs ..

theorem finishWait_actsAs (s : State) : ActsAs j s s.finishWait := (setWarp_actsAs ..).trans (setWarp_actsAs ..)

/-- A refusal counts in NREFUSE and in the Pavilion's log, and writes no error record (16 R270). -/
theorem refuse_actsAs (s : State) (kind why : Nat) : ActsAs j s (s.refuse kind why) := by
  refine ⟨id, fun _ k _ => ?_⟩
  unfold State.refuse State.logRefusal
  exact (s.setPavAt_spares k _ _).trans (State.setCtxAt_spares k _ rfl rfl)

/-- What is done as the warp in another slot spares this one. -/
theorem asWarp_spares {k : Nat} (s : State) (h : j ≠ k) (i : Nat) {f : State → State} (hf : ∀ s, ActsAs j s (f s)) :
    Spares k s (s.asWarp j i f) :=
  have hact := (hf { s with cur := j, curSplit := i }).spares rfl k h
  ⟨hact.stopped, hact.warp, hact.records, hact.nfault⟩

end

/-! ### Barriers and barrier objects -/

section
variable {k : Nat} (s : State)

theorem State.releaseSplit_spares {j : Nat} (h : j ≠ k) (i : Nat) (status : Word) (lbl : Label) (ids : List Nat) :
    Spares k s (s.releaseSplit j i status lbl ids) := by
  refine asWarp_spares s h i fun s => ActsAs.trans ?_ ((learn_actsAs ..).trans (finishWait_actsAs _))
  split
  · exact setS_actsAs ..
  · exact setS_actsAs ..
  · exact .refl j s

theorem State.completeBar_spares {ws : List (Nat × Warp)} (h : ∀ e ∈ ws, e.1 ≠ k) (gang : Bool) (n : Nat)
    (status : Word) : Spares k s (s.completeBar ws gang n status) := by
  refine foldl_spares (fun s p hp => s.releaseSplit_spares ?_ ..) s
  obtain ⟨ps, hps, hp⟩ := List.mem_flatten.mp hp
  obtain ⟨e, he, rfl⟩ := List.mem_map.mp hps
  obtain ⟨q, -, rfl⟩ := List.mem_map.mp hp
  exact h e he

/-- A stopped slot is none of a block's live warps. -/
theorem State.Stopped.ne_of_mem_warpsOf {s : State} (h : s.Stopped k) {b : Nat} {e : Nat × Warp}
    (he : e ∈ s.warpsOf b) : e.1 ≠ k := by
  rintro rfl
  obtain ⟨hmem, hlive⟩ := List.mem_filter.mp he
  simp [h e hmem rfl] at hlive

theorem State.Stopped.ne_of_mem_gangWarps {s : State} (h : s.Stopped k) {g : Nat} {e : Nat × Warp}
    (he : e ∈ s.gangWarps g) : e.1 ≠ k := by
  obtain ⟨ws, hws, he⟩ := List.mem_flatten.mp he
  obtain ⟨b, -, rfl⟩ := List.mem_map.mp hws
  exact h.ne_of_mem_warpsOf he

theorem State.settleBars_spares (b : Nat) : Spares k s (s.settleBars b) := by
  unfold State.settleBars
  extract_lets step
  have hstep (gang : Bool) (s : State) (n : Nat) : Spares k s (step gang s n) := by
    refine .of_stopped fun hs => ?_
    dsimp -zeta only [step]
    extract_lets ws ab any
    have hws : ∀ e ∈ ws, e.1 ≠ k := fun e he => by
      simp only [ws] at he
      split at he
      · exact hs.ne_of_mem_gangWarps he
      · exact hs.ne_of_mem_warpsOf he
    split
    · exact .refl k s
    · split
      · exact s.completeBar_spares hws ..
      · split
        · exact s.completeBar_spares hws ..
        · exact .refl k s
  exact (foldl_spares (fun s n _ => hstep false s n) s).trans (foldl_spares (fun s n _ => hstep true s n) _)

theorem State.releaseBo_spares {j : Nat} (h : j ≠ k) (i : Nat) (v : Option Word) : Spares k s (s.releaseBo j i v) := by
  refine asWarp_spares s h i fun s => ?_
  dsimp only
  split
  · refine ActsAs.trans ?_ (finishWait_actsAs _)
    split
    · split
      · exact (gather_actsAs ..).trans ((setS_actsAs ..).trans (learn_actsAs ..))
      · exact (gather_actsAs ..).trans (setS_actsAs ..)
    · exact (gather_actsAs ..).trans ((setS_actsAs ..).trans (refuse_actsAs ..))
  · exact .refl j s

/-- A stopped slot waits at no barrier object. -/
theorem State.Stopped.ne_of_mem_boWaiters {s : State} (h : s.Stopped k) {b off : Nat} {x : Nat × Nat × BitVec 16}
    (hx : x ∈ s.boWaiters b off) : x.1 ≠ k := by
  obtain ⟨xs, hxs, hx⟩ := List.mem_flatten.mp hx
  obtain ⟨e, he, rfl⟩ := List.mem_map.mp hxs
  obtain ⟨p, -, hp⟩ := List.mem_filterMap.mp hx
  rintro rfl
  split at hp
  · split at hp
    · rename_i hlive
      cases hp
      simp [h e he rfl] at hlive
    · cases hp
  · cases hp

theorem State.settleObj_spares (b off : Nat) : Spares k s (s.settleObj b off) := by
  refine .of_stopped fun hs => foldl_spares (fun s x hx => ?_) s
  have hne := hs.ne_of_mem_boWaiters hx
  split
  · exact s.releaseBo_spares hne ..
  · split
    · exact s.releaseBo_spares hne ..
    · exact .refl k s

theorem State.putObj_spares (b off : Nat) (o : BitVec 128) : Spares k s (s.putObj b off o) := by
  unfold State.putObj
  exact Spares.trans (t := { s with hist := s.hist.forget (scratchKey b off) 16 }) (.of_same rfl rfl)
    (State.setBytes_spares k ..)

theorem State.abandonObjs_spares (b : Nat) : Spares k s (s.abandonObjs b) :=
  (foldl_spares (fun s _ _ => s.putObj_spares b ..) s).trans (foldl_spares (fun s _ _ => s.settleObj_spares b _) _)

/-! ### The end of a block -/

/-- The waits on the objects of a block that ends complete as refused. -/
theorem State.refuseWaits_spares (b : Nat) (offs : List Nat) :
    Spares k s (offs.foldl (fun s off => (s.boWaiters b off).foldl (fun s w => s.releaseBo w.1 w.2.1 none) s) s) :=
  foldl_spares (fun s _ _ => .of_stopped fun hs =>
    foldl_spares (fun s _ hx => s.releaseBo_spares (hs.ne_of_mem_boWaiters hx) ..) s) s

theorem State.settleBlock_spares (b : Nat) : Spares k s (s.settleBlock b) := by
  unfold State.settleBlock
  extract_lets x s₁ s₂ y s₃ l run l' s₄ g s₅ m s₆
  split
  · exact .refl k s
  · have h₁ : Spares k s s₁ := s.refuseWaits_spares b _
    have h₂ : Spares k s₁ s₂ := s₁.setCoreAt_spares k ..
    have h₃ : Spares k s₂ s₃ := s₂.setBlockAt_spares k ..
    have h₄ : Spares k s₃ s₄ := s₃.setLaunchAt_spares k ..
    have h₅ : Spares k s₄ s₅ := s₄.setGangAt_spares k ..
    have h₆ : Spares k s₅ s₆ := s₅.setLaunchAt_spares k ..
    have hblock : Spares k s s₄ := h₁.trans (h₂.trans (h₃.trans h₄))
    split
    · exact hblock
    · exact hblock.trans (h₅.trans (h₆.trans (s₆.setClusterAt_spares k ..)))

theorem State.settle_spares (b : Nat) : Spares k s (s.settle b) :=
  (s.settleBars_spares b).trans (State.settleBlock_spares _ b)

theorem State.touch_spares (c : Nat) : Spares k s (s.touch c) := s.setCtxAt_spares k rfl rfl

end

/-! ## A halt -/

/-- A warp that has halted: none of its splits is left (02 R30). -/
def Warp.halted (w : Warp) : Warp :=
  { w with st := .halt, splits := ⟨w.splits.entries.map fun e => (e.1, { e.2 with st := .gone })⟩ }

theorem Warp.halted_split (w : Warp) (i : Nat) : (w.halted.split i).st = .gone := by
  have hlook (es : List (Nat × Split)) :
      ((Sparse.look i (es.map fun e => (e.1, { e.2 with st := .gone }))).getD Split.blank).st = .gone := by
    induction es with
    | nil => rfl
    | cons e t ih =>
      rw [List.map_cons, Sparse.look]
      split
      · rfl
      · exact ih
  exact hlook w.splits.entries

theorem State.stopped_setWarpAt_halted (s : State) (k : Nat) (w : Warp) : (s.setWarpAt k w.halted).Stopped k := by
  intro e he hk
  rcases Sparse.mem_set he with rfl | ⟨-, hne⟩
  · rfl
  · exact absurd hk hne

/-- The state of `haltWarp` once the error record is written; an audit run's halt writes none (16 R286). -/
def State.recorded (s : State) (k : Nat) (pc : BitVec 57) (c : Cause) (einfo : Word) (pcause : Nat) (page : Bool) :
    State :=
  if (s.blockAt (s.warpAt k).block).audit then s
  else s.writeRecord (s.warpAt k).ctx (s.record k pc c einfo page pcause)

/-- After the record is written and the warp has halted, the halt spares its slot and the error records. -/
theorem State.haltWarp_spares (s : State) (k : Nat) (pc : BitVec 57) (c : Cause) (einfo : Word) (pcause : Nat)
    (page : Bool) : Spares k ((s.recorded k pc c einfo pcause page).setWarpAt k (s.warpAt k).halted)
      (s.haltWarp k pc c einfo pcause page) := by
  unfold State.haltWarp
  extract_lets w b s₁ s₂ s₃ dead x s₄ l s₅ s₆
  have h₃ : Spares k s₂ s₃ := s₂.touch_spares w.ctx
  have h₄ : Spares k s₃ s₄ := s₃.setBlockAt_spares k b _
  have h₅ : Spares k s₄ s₅ := by
    unfold s₅
    split
    · exact .refl k s₄
    · exact s₄.setLaunchAt_spares k ..
  have h₆ : Spares k s₅ s₆ := by
    unfold s₆
    split
    · exact s₅.abandonObjs_spares b
    · exact .refl k s₅
  exact h₃.trans (h₄.trans (h₅.trans (h₆.trans (s₆.settle_spares b))))

/-- A halted warp stays halted, whatever its halt settles. -/
theorem State.warpAt_haltWarp (s : State) (k : Nat) (pc : BitVec 57) (c : Cause) (einfo : Word) (pcause : Nat)
    (page : Bool) : (s.haltWarp k pc c einfo pcause page).warpAt k = (s.warpAt k).halted := by
  rw [(s.haltWarp_spares k ..).warp (State.stopped_setWarpAt_halted _ k _), State.warpAt_setWarpAt_same]

/-! ## The error record (16 R279) -/

/-- A record is written last among those kept, and counts in NFAULT. -/
theorem State.ctxAt_writeRecord (s : State) (c : Nat) (r : BitVec 256) :
    ((s.writeRecord c r).ctxAt c).nfault = sat16 (s.ctxAt c).nfault ∧
      ((s.writeRecord c r).ctxAt c).records.getLast? = some r := by
  have hreport (u : State) (p : Nat) (m : Msg) : (u.report p m).ctxAt c = u.ctxAt c := by
    unfold State.report
    split <;> rfl
  unfold State.writeRecord
  rw [hreport, State.ctxAt_setCtxAt_same]
  refine ⟨rfl, ?_⟩
  rw [List.getLast?_drop]
  simp

/-- Outside an audit run the record of a halt is the context's newest. -/
theorem State.ctxAt_haltWarp {s : State} {k : Nat} (h : (s.blockAt (s.warpAt k).block).audit = false)
    (pc : BitVec 57) (c : Cause) (einfo : Word) (pcause : Nat) (page : Bool) :
    ((s.haltWarp k pc c einfo pcause page).ctxAt (s.warpAt k).ctx).nfault = sat16 (s.ctxAt (s.warpAt k).ctx).nfault ∧
      ((s.haltWarp k pc c einfo pcause page).ctxAt (s.warpAt k).ctx).records.getLast? =
        some (s.record k pc c einfo page pcause) := by
  have hspares := s.haltWarp_spares k pc c einfo pcause page
  have hstopped := State.stopped_setWarpAt_halted (s.recorded k pc c einfo pcause page) k (s.warpAt k)
  rw [hspares.nfault hstopped, hspares.records hstopped, State.ctxAt_setWarpAt, State.recorded, h]
  exact s.ctxAt_writeRecord ..

theorem fieldOf_lt {n : Nat} (x : BitVec n) (lo w : Nat) : fieldOf x lo w < 2 ^ w := Nat.mod_lt _ (Nat.two_pow_pos w)

/-- A field of a number that is cut to the width of the word it stands in. -/
theorem fieldOf_ofNat {n lo w : Nat} (h : lo + w ≤ n) (x : Nat) :
    fieldOf (BitVec.ofNat n x) lo w = x / 2 ^ lo % 2 ^ w := by
  have hn : 2 ^ n = 2 ^ lo * 2 ^ (n - lo) := by rw [← Nat.pow_add]; congr 1; omega
  rw [fieldOf, BitVec.toNat_ofNat, hn, Nat.mod_mul_right_div_self, Nat.mod_mod_of_dvd]
  exact Nat.pow_dvd_pow 2 (by omega)

theorem Cause.code_lt (c : Cause) : c.code < 2 ^ 8 := by cases c <;> decide

/-- The fields of an error record below those of the context: whether it is protected, the cause, and the cause that the
handler held. -/
theorem State.record_cause (s : State) (k : Nat) (pc : BitVec 57) (c : Cause) (einfo : Word) (page : Bool)
    {pcause : Nat} (hp : pcause < 2 ^ 8) :
    let r := s.record k pc c einfo page pcause
    fieldOf r 1 8 = c.code ∧ fieldOf r 9 8 = pcause ∧
      fieldOf r 0 1 = if (s.ctxAt (s.warpAt k).ctx).isProt then 1 else 0 := by
  have hc := c.code_lt
  have hprot : (if (s.ctxAt (s.warpAt k).ctx).isProt then 1 else 0) < 2 := by split <;> decide
  simp only [State.record]
  simp (disch := decide) only [fieldOf_ofNat]
  generalize (if (s.ctxAt (s.warpAt k).ctx).isProt then 0 else einfo.toNat) = e
  generalize (if (s.ctxAt (s.warpAt k).ctx).isProt then 1 else 0) = q at *
  exact ⟨by omega, by omega, by omega⟩

/-- Its other fields, where the numbers of the context, the core and the mapping fit theirs. -/
theorem State.record_rest (s : State) (k : Nat) (pc : BitVec 57) (c : Cause) (einfo : Word) (page : Bool)
    {pcause : Nat} (hp : pcause < 2 ^ 8) :
    let r := s.record k pc c einfo page pcause
    let w := s.warpAt k
    let x := s.ctxAt w.ctx
    let m := if page then x.mapOf einfo.toNat else (0, 0)
    w.ctx < 256 → (s.blockAt w.block).vcore < 1024 → m.1 < 2 ^ 16 →
      fieldOf r 17 8 = w.ctx ∧ fieldOf r 25 5 = k % 32 ∧ fieldOf r 30 10 = (s.blockAt w.block).vcore ∧
      fieldOf r 40 32 = w.lseq % 2 ^ 32 ∧
      BitVec.ofNat 32 (fieldOf r 72 32) = pc.setWidth 32 - BitVec.ofNat 32 (s.launchAt w.lseq).entry ∧
      fieldOf r 104 24 = m.2 % 2 ^ 24 ∧ fieldOf r 128 16 = m.1 ∧ fieldOf r 144 16 = x.nreplay.toNat ∧
      fieldOf r 160 16 = x.nrefuse.toNat ∧ fieldOf r 176 16 = (sat16 x.nfault).toNat ∧
      fieldOf r 192 64 = if x.isProt then 0 else einfo.toNat := by
  intro r w x m hctx hcore hmap
  have hc := c.code_lt
  have hreplay := x.nreplay.isLt
  have hrefuse := x.nrefuse.isLt
  have hfault := (sat16 x.nfault).isLt
  have hentry : (s.launchAt w.lseq).entry < 2 ^ 57 := fieldOf_lt ..
  have heinfo : (if x.isProt then 0 else einfo.toNat) < 2 ^ 64 := by
    split
    · decide
    · exact einfo.isLt
  have hprot : (if x.isProt then 1 else 0) < 2 := by split <;> decide
  have hr : r = BitVec.ofNat 256 ((if x.isProt then 0 else einfo.toNat) * 2 ^ 192 + (sat16 x.nfault).toNat * 2 ^ 176 +
      x.nrefuse.toNat * 2 ^ 160 + x.nreplay.toNat * 2 ^ 144 + m.1 * 2 ^ 128 + m.2 % 2 ^ 24 * 2 ^ 104 +
      (2 ^ 57 + pc.toNat - (s.launchAt w.lseq).entry) % 2 ^ 32 * 2 ^ 72 + w.lseq % 2 ^ 32 * 2 ^ 40 +
      (s.blockAt w.block).vcore * 2 ^ 30 + k % 32 * 2 ^ 25 + w.ctx * 2 ^ 17 + pcause * 2 ^ 9 + c.code * 2 +
      (if x.isProt then 1 else 0)) := rfl
  rw [hr]
  simp (disch := decide) only [fieldOf_ofNat]
  generalize (if x.isProt then 0 else einfo.toNat) = e at *
  generalize (if x.isProt then 1 else 0) = q at *
  refine ⟨?_, ?_, ?_, ?_, ?_, ?_, ?_, ?_, ?_, ?_, ?_⟩
  case refine_5 =>
    apply BitVec.eq_of_toNat_eq
    rw [BitVec.toNat_sub, BitVec.toNat_setWidth, BitVec.toNat_ofNat, BitVec.toNat_ofNat]
    omega
  all_goals omega

/-- Settles O21: a trap there is a halt, whose record nothing that the halt settles replaces. -/
theorem trapInHandlerStateHaltsTheWarp : Obligations.TrapInHandlerStateHaltsTheWarp := by
  unfold Obligations.TrapInHandlerStateHaltsTheWarp
  intro s c einfo ops epc len8 page hhalt t
  have ht : t = s.haltWarp s.cur epc c einfo (if s.split.eh then s.split.ecause.toNat else 0) page :=
    if_pos (by simpa using hhalt)
  have hp : (if s.split.eh then s.split.ecause.toNat else 0) < 2 ^ 8 := by
    split
    · exact s.split.ecause.isLt
    · decide
  rw [ht, State.warpAt_haltWarp]
  refine ⟨rfl, s.warp.halted_split, fun haudit => ?_⟩
  obtain ⟨hcount, hlast⟩ := State.ctxAt_haltWarp haudit epc c einfo
    (if s.split.eh then s.split.ecause.toNat else 0) page
  obtain ⟨hcode, hpcause, hprot⟩ := s.record_cause s.cur epc c einfo page hp
  exact ⟨hcount, _, hlast, hcode, hpcause, hprot, s.record_rest s.cur epc c einfo page hp⟩

end Sys2Proof.Machine
end

section

namespace Sys2Proof

/-! ## Codes (03 R45)

A code read is the code of its value; with `ofCode_code`, each value has one code. -/

theorem Cond.code_of_ofCode {k : Nat} {x : Cond} (h : Cond.ofCode k = some x) : k = x.code := by
  unfold Cond.ofCode at h
  split at h <;> cases h <;> rfl

theorem VCond.code_of_ofCode {k : Nat} {x : VCond} (h : VCond.ofCode k = some x) : k = x.code := by
  unfold VCond.ofCode at h
  split at h <;> cases h <;> rfl

theorem LdW.code_of_ofCode {k : Nat} {x : LdW} (h : LdW.ofCode k = some x) : k = x.code := by
  unfold LdW.ofCode at h
  split at h <;> cases h <;> rfl

theorem StW.code_of_ofCode {k : Nat} {x : StW} (h : StW.ofCode k = some x) : k = x.code := by
  unfold StW.ofCode at h
  split at h <;> cases h <;> rfl

theorem Scope.code_of_ofCode {k : Nat} {x : Scope} (h : Scope.ofCode k = some x) : k = x.code := by
  unfold Scope.ofCode at h
  split at h <;> cases h <;> rfl

theorem FenceK.code_of_ofCode {k : Nat} {x : FenceK} (h : FenceK.ofCode k = some x) : k = x.code := by
  unfold FenceK.ofCode at h
  split at h <;> cases h <;> rfl

theorem ShflM.code_of_ofCode {k : Nat} {x : ShflM} (h : ShflM.ofCode k = some x) : k = x.code := by
  unfold ShflM.ofCode at h
  split at h <;> cases h <;> rfl

theorem RedOp.code_of_ofCode {k : Nat} {x : RedOp} (h : RedOp.ofCode k = some x) : k = x.code := by
  unfold RedOp.ofCode at h
  split at h <;> cases h <;> rfl

theorem AtomOp.code_of_ofCode {k : Nat} {x : AtomOp} (h : AtomOp.ofCode k = some x) : k = x.code := by
  unfold AtomOp.ofCode at h
  split at h <;> cases h <;> rfl

theorem WaitC.code_of_ofCode {k : Nat} {x : WaitC} (h : WaitC.ofCode k = some x) : k = x.code := by
  unfold WaitC.ofCode at h
  split at h <;> cases h <;> rfl

theorem Level.code_of_ofCode {k : Nat} {x : Level} (h : Level.ofCode k = some x) : k = x.code := by
  unfold Level.ofCode at h
  split at h <;> cases h <;> rfl

theorem HintA.code_of_ofCode {k : Nat} {x : HintA} (h : HintA.ofCode k = some x) : k = x.code := by
  unfold HintA.ofCode at h
  split at h <;> cases h <;> rfl

theorem CpyW.code_of_ofCode {k : Nat} {x : CpyW} (h : CpyW.ofCode k = some x) : k = x.code := by
  unfold CpyW.ofCode at h
  split at h <;> cases h <;> rfl

theorem TlbS.code_of_ofCode {k : Nat} {x : TlbS} (h : TlbS.ofCode k = some x) : k = x.code := by
  unfold TlbS.ofCode at h
  split at h <;> cases h <;> rfl

theorem CombOp.code_of_ofCode {k : Nat} {x : CombOp} (h : CombOp.ofCode k = some x) : k = x.code := by
  unfold CombOp.ofCode at h
  split at h <;> cases h <;> rfl

theorem ETy.code_of_ofCode {k : Nat} {x : ETy} (h : ETy.ofCode k = some x) : k = x.code := by
  unfold ETy.ofCode at h
  split at h <;> cases h <;> rfl

/-! ## The fields of a word (03 R33) -/

namespace Dec

@[simp] theorem toNat_bv (n lo w : Nat) : (bv n lo w).toNat = fld n lo w := by
  simp [bv, fld]

@[simp] theorem toNat_bit (n lo : Nat) : (bit n lo).toNat = fld n lo 1 := by
  have h : fld n lo 1 < 2 := Nat.mod_lt _ (by decide)
  simp only [bit]
  generalize fld n lo 1 = x at *
  interval_cases x <;> rfl

/-- Two fields side by side are one. -/
theorem fld_add (n lo v w : Nat) : fld n lo (v + w) = fld n lo v + fld n (lo + v) w * 2 ^ v := by
  rw [fld, Nat.pow_add, Nat.mod_mul, Nat.div_div_eq_div_mul, ← Nat.pow_add, Nat.mul_comm (2 ^ v)]
  rfl

/-- A field from the value of its low `v` bits and that of the bits above them. -/
theorem fld_join {n lo k x y : Nat} (v : Nat) (hlow : fld n lo v = x) (hhigh : fld n (lo + v) (k - v) = y)
    (hv : v ≤ k := by decide) : fld n lo k = x + y * 2 ^ v := by
  rw [← Nat.add_sub_of_le hv, fld_add, hlow, hhigh]

/-- The low `v` bits of a field. -/
theorem fld_low {n lo k x : Nat} (v : Nat) (h : fld n lo k = x) (hv : v ≤ k := by decide) :
    fld n lo v = x % 2 ^ v := by
  rw [← h, fld, fld, Nat.mod_mod_of_dvd _ (Nat.pow_dvd_pow 2 hv)]

/-- The bits of a field from its bit `v` up. -/
theorem fld_high {n lo k x : Nat} (v : Nat) (h : fld n lo k = x) (hv : v ≤ k := by decide) :
    fld n (lo + v) (k - v) = x / 2 ^ v := by
  have hlow : fld n lo v < 2 ^ v := Nat.mod_lt _ (Nat.two_pow_pos v)
  rw [← h, fld_join v rfl rfl hv, Nat.add_mul_div_right _ _ (Nat.two_pow_pos v), Nat.div_eq_of_lt hlow, Nat.zero_add]

/-- The fields of the given widths from bit `lo` up, each in its place. -/
def fields (n : Nat) : Nat → List Nat → Nat
  | _, [] => 0
  | lo, w :: ws => fld n lo w * 2 ^ lo + fields n (lo + w) ws

theorem fields_eq (n lo : Nat) (ws : List Nat) : fields n lo ws = fld n lo ws.sum * 2 ^ lo := by
  induction ws generalizing lo with
  | nil => simp [fields, fld, Nat.mod_one]
  | cons w ws ih => rw [fields, ih, List.sum_cons, fld_add, Nat.pow_add]; ring

/-- A word is the sum of its fields, however they divide it. -/
theorem eq_fields {n : Nat} (hn : n < 2 ^ 32) (ws : List Nat) (hws : ws.sum = 32) : n = fields n 0 ws := by
  rw [fields_eq, hws, fld, Nat.pow_zero, Nat.div_one, Nat.mul_one, Nat.mod_eq_of_lt hn]

end Dec

open Dec

/-- Where `r` is an instruction, it is a word and its value is `n`. -/
structure Encodes (n : Nat) (r : Except DecodeErr Instr) : Prop where
  of_ok : ∀ i, r = .ok i → i.isWord = true ∧ encodeNat i = n

section

variable {n m : Nat} {i : Instr} {c : Prop} [Decidable c] {r r' : Except DecodeErr Instr}

theorem Encodes.ok (hw : i.isWord = true) (he : encodeNat i = n) : Encodes n (.ok i) :=
  ⟨by rintro _ ⟨⟩; exact ⟨hw, he⟩⟩

theorem Encodes.error (e : DecodeErr) : Encodes n (.error e) := ⟨nofun⟩

theorem Encodes.ite (h : c → Encodes n r) (h' : Encodes n r') : Encodes n (if c then r else r') := by
  split
  · exact h ‹_›
  · exact h'

theorem Encodes.zero (h : c → Encodes n r) : Encodes n (Dec.zero c r) := .ite h (.error _)

theorem Encodes.code {α : Type} {o : Option α} {k : α → Except DecodeErr Instr}
    (h : ∀ x, o = some x → Encodes n (k x)) : Encodes n (Dec.code o k) := by
  cases o with
  | none => exact .error _
  | some x => exact h x rfl

theorem Encodes.noSafePoint (h : fld n 31 1 = 0 → Encodes n (.ok i)) : Encodes n (Dec.noSafePoint n i) := by
  unfold Dec.noSafePoint
  split
  · exact .error _
  · next hp => exact h (by rw [← toNat_bit, Bool.eq_false_of_not_eq_true hp, Bool.toNat_false])

/-! ## The seven formats (03 R34)

One lemma a format: what its fields read as, operands or zero, adds up with the major's constant to the word. The last
two hypotheses speak of the instruction alone and follow by computing its word. -/

section

variable {d a b x : Nat} (hn : n < 2 ^ 32) (hm : fld n 23 8 = m)

include hn hm

theorem Encodes.sss (hd : fld n 17 6 = d) (ha : fld n 11 6 = a) (hb : fld n 5 6 = b) (hx : fld n 0 5 = x)
    (hw : i.isWord = true := by rfl)
    (he : encodeNat i = 0x800000 * m + fld n 31 1 * 0x80000000 + d * 0x20000 + a * 0x800 + b * 0x20 + x := by
      unfold encodeNat; simp only [toNat_bv, toNat_bit] <;> omega) : Encodes n (.ok i) := by
  have h := eq_fields hn [5, 6, 6, 6, 8, 1] rfl
  simp only [fields, Nat.reduceAdd, Nat.reducePow] at h
  exact .ok hw (by omega)

theorem Encodes.vvv (hd : fld n 16 7 = d) (ha : fld n 9 7 = a) (hb : fld n 2 7 = b) (hx : fld n 0 2 = x)
    (hw : i.isWord = true := by rfl)
    (he : encodeNat i = 0x800000 * m + fld n 31 1 * 0x80000000 + d * 0x10000 + a * 0x200 + b * 0x4 + x := by
      unfold encodeNat; simp only [toNat_bv, toNat_bit] <;> omega) : Encodes n (.ok i) := by
  have h := eq_fields hn [2, 7, 7, 7, 8, 1] rfl
  simp only [fields, Nat.reduceAdd, Nat.reducePow] at h
  exact .ok hw (by omega)

theorem Encodes.vvs (hd : fld n 16 7 = d) (ha : fld n 9 7 = a) (hb : fld n 3 6 = b) (hx : fld n 0 3 = x)
    (hw : i.isWord = true := by rfl)
    (he : encodeNat i = 0x800000 * m + fld n 31 1 * 0x80000000 + d * 0x10000 + a * 0x200 + b * 0x8 + x := by
      unfold encodeNat; simp only [toNat_bv, toNat_bit] <;> omega) : Encodes n (.ok i) := by
  have h := eq_fields hn [3, 6, 7, 7, 8, 1] rfl
  simp only [fields, Nat.reduceAdd, Nat.reducePow] at h
  exact .ok hw (by omega)

theorem Encodes.mem (hd : fld n 16 7 = d) (ha : fld n 10 6 = a) (hb : fld n 3 7 = b) (hx : fld n 0 3 = x)
    (hw : i.isWord = true := by rfl)
    (he : encodeNat i = 0x800000 * m + fld n 31 1 * 0x80000000 + d * 0x10000 + a * 0x400 + b * 0x8 + x := by
      unfold encodeNat; simp only [toNat_bv, toNat_bit] <;> omega) : Encodes n (.ok i) := by
  have h := eq_fields hn [3, 7, 6, 7, 8, 1] rfl
  simp only [fields, Nat.reduceAdd, Nat.reducePow] at h
  exact .ok hw (by omega)

theorem Encodes.br (ha : fld n 17 6 = a) (hx : fld n 0 17 = x) (hw : i.isWord = true := by rfl)
    (he : encodeNat i = 0x800000 * m + fld n 31 1 * 0x80000000 + a * 0x20000 + x := by
      unfold encodeNat; simp only [toNat_bv, toNat_bit] <;> omega) : Encodes n (.ok i) := by
  have h := eq_fields hn [17, 6, 8, 1] rfl
  simp only [fields, Nat.reduceAdd, Nat.reducePow] at h
  exact .ok hw (by omega)

/-- DI16 and SYS divide the word at the same places. -/
theorem Encodes.di16 (hd : fld n 16 7 = d) (hx : fld n 0 16 = x) (hw : i.isWord = true := by rfl)
    (he : encodeNat i = 0x800000 * m + fld n 31 1 * 0x80000000 + d * 0x10000 + x := by
      unfold encodeNat; simp only [toNat_bv, toNat_bit] <;> omega) : Encodes n (.ok i) := by
  have h := eq_fields hn [16, 7, 8, 1] rfl
  simp only [fields, Nat.reduceAdd, Nat.reducePow] at h
  exact .ok hw (by omega)

end

section

variable (hn : n < 2 ^ 32)

include hn

theorem fieldsControl_encodes : Encodes n (fieldsControl n (fld n 23 8)) := by
  unfold fieldsControl
  -- `braZ` to `call`
  iterate 4 refine .ite (fun hm => .br hn hm rfl rfl) ?_
  -- `jmpi`, `ret`
  refine .ite (fun hm => .ite (fun ⟨h, hd⟩ => .sss hn hm hd rfl (fld_high 5 h) (fld_low 5 h))
    (.ite (fun ⟨h, hd⟩ => .sss hn hm hd rfl (fld_high 5 h) (fld_low 5 h)) (.error _))) ?_
  -- `sread`, `sreadClr`
  refine .ite (fun hm => .ite (fun ⟨h, hd⟩ => .di16 hn hm (fld_join 6 rfl hd) (fld_join 12 rfl h))
    (.ite (fun ⟨h, hd⟩ => .di16 hn hm (fld_join 6 rfl hd) (fld_join 12 rfl h)) (.error _))) ?_
  -- `swid`, `vwid`, `spawn`, `trap`
  refine .ite (fun hm => .zero fun hd => .di16 hn hm (fld_join 6 rfl hd) rfl) ?_
  refine .ite (fun hm => .di16 hn hm rfl rfl) ?_
  refine .ite (fun hm => .zero fun ⟨hx, hd⟩ => .vvs hn hm hd rfl rfl hx) ?_
  refine .ite (fun hm => .zero fun hd => .di16 hn hm hd rfl) ?_
  -- `bar`, `barg`
  iterate 2 refine .ite (fun hm => .zero fun ⟨hx, hd⟩ => .di16 hn hm (fld_join 6 rfl hd) (fld_join 4 rfl hx)) ?_
  -- `nop`, `join`, `exit`, `yield`
  refine .ite (fun hm => .ite (fun h => .di16 hn hm (fld_high 16 h) (fld_low 16 h)) ?_) (.error _)
  refine .ite (fun h => .di16 hn hm (fld_high 16 h) (fld_low 16 h)) ?_
  refine .ite (fun h => .noSafePoint fun hp => .di16 hn hm (fld_high 16 h) (fld_low 16 h)) ?_
  exact .ite (fun h => .di16 hn hm (fld_high 16 h) (fld_low 16 h)) (.error _)

theorem fieldsScalar_encodes : Encodes n (fieldsScalar n (fld n 23 8)) := by
  unfold fieldsScalar
  -- `sadd` to `smax`, `scmp`, `ssel`
  iterate 15 refine .ite (fun hm => .zero fun hx => .sss hn hm rfl rfl rfl hx) ?_
  refine .ite (fun hm => .code fun _ hc => .sss hn hm rfl rfl rfl (Cond.code_of_ofCode hc)) ?_
  refine .ite (fun hm => .zero fun hx => .sss hn hm rfl rfl rfl hx) ?_
  -- `smovi`, `smovh`, `saddi`
  iterate 3 refine .ite (fun hm => .zero fun hd => .di16 hn hm (fld_join 6 rfl hd) rfl) ?_
  -- `spopc` to `sbrev`
  iterate 4 refine .ite (fun hm => .zero fun h => .sss hn hm rfl rfl (fld_high 5 h) (fld_low 5 h)) ?_
  -- `sbfx`, `sbfi`
  iterate 2 refine .ite (fun hm => .zero fun hx => .sss hn hm rfl rfl rfl hx) ?_
  -- `sld`, `sst`, `sldc`
  refine .ite (fun hm => .zero fun h => .code fun _ hc =>
    .sss hn hm rfl rfl rfl (fld_join 3 (LdW.code_of_ofCode hc) h)) ?_
  refine .ite (fun hm => .zero fun h => .code fun _ hc =>
    .sss hn hm rfl rfl rfl (fld_join 2 (StW.code_of_ofCode hc) h)) ?_
  exact .ite (fun hm => .zero fun hd => .di16 hn hm (fld_join 6 rfl hd) rfl) (.error _)

theorem fieldsLabel_encodes : Encodes n (fieldsLabel n (fld n 23 8)) := by
  unfold fieldsLabel
  -- `mode`, `modei`, `lget`, `lgetV`
  refine .ite (fun hm => .zero fun ⟨h, hd⟩ => .sss hn hm hd rfl (fld_high 5 h) (fld_low 5 h)) ?_
  refine .ite (fun hm => .zero fun hd => .di16 hn hm hd rfl) ?_
  refine .ite (fun hm => .zero fun h => .sss hn hm rfl rfl (fld_high 5 h) (fld_low 5 h)) ?_
  refine .ite (fun hm => .zero fun h => .vvv hn hm rfl rfl (fld_high 2 h) (fld_low 2 h)) ?_
  -- `ljoin`, `ljoinV`, `lchk`
  refine .ite (fun hm => .zero fun hx => .sss hn hm rfl rfl rfl hx) ?_
  refine .ite (fun hm => .zero fun hx => .vvs hn hm rfl rfl rfl hx) ?_
  refine .ite (fun hm => .zero fun hx => .sss hn hm rfl rfl rfl hx) ?_
  -- `ltcompact`, `dcls`, `dclsS`
  refine .ite (fun hm => .zero fun h => .di16 hn hm (fld_high 16 h) (fld_low 16 h)) ?_
  refine .ite (fun hm => .zero fun hx => .vvs hn hm rfl rfl rfl hx) ?_
  exact .ite (fun hm => .zero fun hx => .sss hn hm rfl rfl rfl hx) (.error _)

theorem fieldsVector_encodes : Encodes n (fieldsVector n (fld n 23 8)) := by
  unfold fieldsVector
  -- `vadd` to `vmax`, `vabs` and `vneg`, `vdiv`, `vsqrt` to `vcos`
  iterate 8 refine .ite (fun hm => .zero fun hx => .vvv hn hm rfl rfl rfl hx) ?_
  iterate 2 refine .ite (fun hm => .zero fun h => .vvv hn hm rfl rfl (fld_high 2 h) (fld_low 2 h)) ?_
  refine .ite (fun hm => .zero fun hx => .vvv hn hm rfl rfl rfl hx) ?_
  iterate 7 refine .ite (fun hm => .zero fun h => .vvv hn hm rfl rfl (fld_high 2 h) (fld_low 2 h)) ?_
  -- `vcvt`
  refine .ite (fun hm => .zero fun ⟨hx, h⟩ => .code fun _ hc =>
    .vvv hn hm rfl rfl (fld_join 4 (ETy.code_of_ofCode hc) h) hx) ?_
  -- `vand` to `vxor`, `vnot`, `vshl` to `vbfi`, `vpopc` to `vbrev`
  iterate 3 refine .ite (fun hm => .zero fun hx => .vvv hn hm rfl rfl rfl hx) ?_
  refine .ite (fun hm => .zero fun h => .vvv hn hm rfl rfl (fld_high 2 h) (fld_low 2 h)) ?_
  iterate 5 refine .ite (fun hm => .zero fun hx => .vvv hn hm rfl rfl rfl hx) ?_
  iterate 3 refine .ite (fun hm => .zero fun h => .vvv hn hm rfl rfl (fld_high 2 h) (fld_low 2 h)) ?_
  -- `vcmp`, whose condition has its high bit above the register that it writes
  refine .ite (fun hm => .code fun c hc => ?_) ?_
  · have hcode := VCond.code_of_ofCode hc
    have hlow : fld n 0 2 < 4 := Nat.mod_lt _ (by decide)
    exact .vvv hn hm (fld_join (y := fld n 22 1) 6 rfl rfl) rfl rfl rfl
  -- `vsel`, `vmov`, `vmovs`, `vmovi`
  refine .ite (fun hm => .zero fun hx => .vvs hn hm rfl rfl rfl hx) ?_
  refine .ite (fun hm => .zero fun h => .vvv hn hm rfl rfl (fld_high 2 h) (fld_low 2 h)) ?_
  refine .ite (fun hm => .zero fun ⟨hx, ha⟩ => .vvs hn hm rfl ha rfl hx) ?_
  exact .ite (fun hm => .di16 hn hm rfl rfl) (.error _)

theorem fieldsModular_encodes : Encodes n (fieldsModular n (fld n 23 8)) := by
  unfold fieldsModular
  iterate 5 refine .ite (fun hm => .zero fun hx => .vvs hn hm rfl rfl rfl hx) ?_
  exact .error _

theorem fieldsCross_encodes : Encodes n (fieldsCross n (fld n 23 8)) := by
  unfold fieldsCross
  -- `vshfl`, `vshflS`, `vballot`
  refine .ite (fun hm => .code fun _ hc => .vvv hn hm rfl rfl rfl (ShflM.code_of_ofCode hc)) ?_
  refine .ite (fun hm => .zero fun h => .code fun _ hc =>
    .vvs hn hm rfl rfl rfl (fld_join 2 (ShflM.code_of_ofCode hc) h)) ?_
  refine .ite (fun hm => .zero fun ⟨h, hd⟩ => .vvv hn hm (fld_join 6 rfl hd) rfl (fld_high 2 h) (fld_low 2 h)) ?_
  -- `vred`, `vscan`
  refine .ite (fun hm => .zero fun ⟨hx, h, hd⟩ => .code fun _ hc =>
    .vvv hn hm (fld_join 6 rfl hd) rfl (fld_join 3 (RedOp.code_of_ofCode hc) h) hx) ?_
  refine .ite (fun hm => .zero fun ⟨hx, h⟩ => .code fun _ hc =>
    .vvv hn hm rfl rfl (fld_join 3 (RedOp.code_of_ofCode hc) h) (fld_join 1 rfl hx)) ?_
  -- `vbcast`, `vbxch`, `vmatch`
  iterate 2 refine .ite (fun hm => .zero fun hx => .vvs hn hm rfl rfl rfl hx) ?_
  exact .ite (fun hm => .zero fun h => .vvv hn hm rfl rfl (fld_high 2 h) (fld_low 2 h)) (.error _)

theorem fieldsMemory_encodes : Encodes n (fieldsMemory n (fld n 23 8)) := by
  unfold fieldsMemory
  -- `vld`, `vst`, then the acquiring, releasing and SC forms
  refine .ite (fun hm => .code fun _ hc => .mem hn hm rfl rfl rfl (LdW.code_of_ofCode hc)) ?_
  refine .ite (fun hm => .zero fun h => .code fun _ hc =>
    .mem hn hm rfl rfl rfl (fld_join 2 (StW.code_of_ofCode hc) h)) ?_
  iterate 8 refine .ite (fun hm => .code fun _ hc => .mem hn hm rfl rfl rfl (Scope.code_of_ofCode hc)) ?_
  -- `vlds` and `vsts`, `vldp` and `vstp`
  iterate 2
    refine .ite (fun hm => .code fun _ hc => .mem hn hm rfl rfl rfl (LdW.code_of_ofCode hc)) ?_
    refine .ite (fun hm => .zero fun h => .code fun _ hc =>
      .mem hn hm rfl rfl rfl (fld_join 2 (StW.code_of_ofCode hc) h)) ?_
  -- `sprf`, `fence`, `mwait`, `rhint`
  refine .ite (fun hm => .zero fun hd => .code fun _ hc => .sss hn hm hd rfl rfl (Level.code_of_ofCode hc)) ?_
  refine .ite (fun hm => .zero fun ⟨hx, hd⟩ => .code fun _ hk => .code fun _ hc =>
    .di16 hn hm (fld_join 2 (FenceK.code_of_ofCode hk) hd) (fld_join 3 (Scope.code_of_ofCode hc) hx)) ?_
  refine .ite (fun hm => .code fun _ hc => .sss hn hm rfl rfl rfl (WaitC.code_of_ofCode hc)) ?_
  exact .ite (fun hm => .zero fun hd => .code fun _ hc => .sss hn hm hd rfl rfl (HintA.code_of_ofCode hc)) (.error _)

theorem fieldsAtomic_encodes : Encodes n (fieldsAtomic n (fld n 23 8)) := by
  unfold fieldsAtomic
  -- `vatom` and `vratom`, `satom`
  iterate 4 refine .ite (fun hm => .code fun _ hc => .mem hn hm rfl rfl rfl (AtomOp.code_of_ofCode hc)) ?_
  refine .ite (fun hm => .zero fun h => .code fun _ hc =>
    .sss hn hm rfl rfl rfl (fld_join 3 (AtomOp.code_of_ofCode hc) (fld_join (x := fld n 3 1) 1 rfl h))) ?_
  -- `boinit`, `boarr` and `bowait`, `boexp`
  refine .ite (fun hm => .zero fun ⟨hx, hd⟩ => .sss hn hm hd rfl rfl hx) ?_
  iterate 2 refine .ite (fun hm => .zero fun hx => .sss hn hm rfl rfl rfl hx) ?_
  exact .ite (fun hm => .zero fun ⟨hx, hd⟩ => .sss hn hm hd rfl rfl hx) (.error _)

theorem fieldsCopy_encodes : Encodes n (fieldsCopy n (fld n 23 8)) := by
  unfold fieldsCopy
  -- `vcpy`, `cbatch`
  refine .ite (fun hm => .zero fun hb => .code fun _ hc => .vvv hn hm rfl rfl hb (CpyW.code_of_ofCode hc)) ?_
  refine .ite (fun hm => .zero fun hx => .br hn hm rfl hx) ?_
  -- `cwait` and `kick`, `rput` and `rget`
  iterate 2 refine .ite (fun hm => .zero fun ⟨h, hd⟩ => .sss hn hm hd rfl (fld_high 5 h) (fld_low 5 h)) ?_
  iterate 2 refine .ite (fun hm => .zero fun ⟨hx, hd⟩ => .sss hn hm hd rfl rfl hx) ?_
  exact .error _

theorem fieldsMatrix_encodes : Encodes n (fieldsMatrix n (fld n 23 8)) := by
  unfold fieldsMatrix
  -- `mldb`, `mfree`, `munf`, `mmq`
  refine .ite (fun hm => .zero fun ⟨hx, hd⟩ => .sss hn hm hd rfl rfl (fld_join 2 rfl hx)) ?_
  refine .ite (fun hm => .zero fun ⟨hx, hd⟩ => .di16 hn hm (fld_join 2 rfl hd) hx) ?_
  refine .ite (fun hm => .zero fun ⟨h, hd⟩ => .sss hn hm hd rfl (fld_high 5 h) (fld_low 5 h)) ?_
  refine .ite (fun hm => .zero fun ⟨h, hd⟩ => .vvv hn hm hd rfl (fld_high 2 h) (fld_low 2 h)) ?_
  -- `mscaleA`, `mscaleB`
  refine .ite (fun hm => .ite (fun ⟨hx, hd⟩ => .sss hn hm hd rfl rfl hx)
    (.ite (fun ⟨hx, hd⟩ => .sss hn hm hd rfl rfl hx) (.error _))) ?_
  -- `mstat`, `mchk`
  iterate 2 refine .ite (fun hm => .zero fun hx => .br hn hm rfl (fld_join 1 rfl hx)) ?_
  exact .error _

theorem fieldsFabric_encodes : Encodes n (fieldsFabric n (fld n 23 8)) := by
  unfold fieldsFabric
  -- `fopen`, `fclose`
  refine .ite (fun hm => .zero fun hx => .sss hn hm rfl rfl rfl hx) ?_
  refine .ite (fun hm => .zero fun ⟨h, hd⟩ => .sss hn hm hd rfl (fld_high 5 h) (fld_low 5 h)) ?_
  -- `fsend`, `fsendDefer`, `fcomb`
  refine .ite (fun hm => .ite (fun ⟨hx, hd⟩ => .sss hn hm hd rfl rfl hx)
    (.ite (fun ⟨hx, hd⟩ => .sss hn hm hd rfl rfl hx) (.error _))) ?_
  exact .ite (fun hm => .zero fun ⟨hx, hd⟩ => .code fun _ hc =>
    .sss hn hm hd rfl rfl (fld_join 2 (CombOp.code_of_ofCode hc) hx)) (.error _)

theorem fieldsPriv_encodes : Encodes n (fieldsPriv n (fld n 23 8)) := by
  unfold fieldsPriv
  -- `eret`, `tlbinv`, `cinv`, `kzero`
  refine .ite (fun hm => .zero fun h => .noSafePoint fun hp => .di16 hn hm (fld_high 16 h) (fld_low 16 h)) ?_
  refine .ite (fun hm => .zero fun hd => .code fun _ hc => .sss hn hm hd rfl rfl (TlbS.code_of_ofCode hc)) ?_
  refine .ite (fun hm => .zero fun hd => .code fun _ hc => .sss hn hm hd rfl rfl (Level.code_of_ofCode hc)) ?_
  refine .ite (fun hm => .zero fun ⟨hx, hd⟩ => .sss hn hm hd rfl rfl hx) ?_
  -- `kstat` and `scrub`, `cassign`
  iterate 2 refine .ite (fun hm => .zero fun h => .sss hn hm rfl rfl (fld_high 5 h) (fld_low 5 h)) ?_
  exact .ite (fun hm => .zero fun hx => .sss hn hm rfl rfl rfl hx) (.error _)

/-- Whatever its major, a word whose fields are an instruction's is the word of that instruction. -/
theorem decodeFields_encodes : Encodes n (decodeFields n) := by
  unfold decodeFields
  exact .ite (fun _ => fieldsControl_encodes hn) <| .ite (fun _ => fieldsScalar_encodes hn) <|
    .ite (fun _ => fieldsLabel_encodes hn) <| .ite (fun _ => fieldsVector_encodes hn) <|
    .ite (fun _ => fieldsModular_encodes hn) <| .ite (fun _ => fieldsCross_encodes hn) <|
    .ite (fun _ => fieldsMemory_encodes hn) <| .ite (fun _ => fieldsAtomic_encodes hn) <|
    .ite (fun _ => fieldsCopy_encodes hn) <| .ite (fun _ => fieldsMatrix_encodes hn) <|
    .ite (fun _ => fieldsFabric_encodes hn) (fieldsPriv_encodes hn)

end

end

end Sys2Proof
end

section

namespace Sys2Proof

/-! ## Decoding, by the fields and then the limits of the operands (03 R62 step 3) -/

theorem decode_eq_ok_iff {w : BitVec 32} {i : Instr} :
    decode w = .ok i ↔ decodeFields w.toNat = .ok i ∧ i.illFormed = none := by
  unfold decode
  cases decodeFields w.toNat with
  | error e => simp
  | ok j => cases hj : j.illFormed <;> grind

end Sys2Proof

namespace Sys2Proof.Laws.Fields

/-- The family for every instruction; of a step that no word encodes it says nothing. -/
theorem statement : ∀ i, Statement i
  | .braZ p c o => braZ p c o
  | .braNz p c o => braNz p c o
  | .brd p c o => brd p c o
  | .call p c o => call p c o
  | .jmpi p a => jmpi p a
  | .ret p a => ret p a
  | .sread p d n => sread p d n
  | .sreadClr p d n => sreadClr p d n
  | .swid p d n => swid p d n
  | .vwid p d n => vwid p d n
  | .spawn p a b => spawn p a b
  | .trap p n => trap p n
  | .bar p d n => bar p d n
  | .barg p d n => barg p d n
  | .nop p => nop p
  | .join p => join p
  | .exit => exit
  | .yield p => yield p
  | .sadd p d a b => sadd p d a b
  | .ssub p d a b => ssub p d a b
  | .smul p d a b => smul p d a b
  | .smulh p d a b => smulh p d a b
  | .sdiv p d a b => sdiv p d a b
  | .srem p d a b => srem p d a b
  | .sand p d a b => sand p d a b
  | .sor p d a b => sor p d a b
  | .sxor p d a b => sxor p d a b
  | .sshl p d a b => sshl p d a b
  | .sshr p d a b => sshr p d a b
  | .ssra p d a b => ssra p d a b
  | .srot p d a b => srot p d a b
  | .smin p d a b => smin p d a b
  | .smax p d a b => smax p d a b
  | .scmp p d a b c => scmp p d a b c
  | .ssel p d a b => ssel p d a b
  | .smovi p d i => smovi p d i
  | .smovh p d i => smovh p d i
  | .saddi p d i => saddi p d i
  | .spopc p d a => spopc p d a
  | .sclz p d a => sclz p d a
  | .sctz p d a => sctz p d a
  | .sbrev p d a => sbrev p d a
  | .sbfx p d a b => sbfx p d a b
  | .sbfi p d a b => sbfi p d a b
  | .sld p d a b w => sld p d a b w
  | .sst p d a b w => sst p d a b w
  | .sldc p d n => sldc p d n
  | .mode p a => mode p a
  | .modei p i => modei p i
  | .lget p d a => lget p d a
  | .lgetV p d a => lgetV p d a
  | .ljoin p d a b => ljoin p d a b
  | .ljoinV p d a b => ljoinV p d a b
  | .lchk p d a b => lchk p d a b
  | .ltcompact p => ltcompact p
  | .dcls p d a g => dcls p d a g
  | .dclsS p d a g => dclsS p d a g
  | .vadd p d a b => vadd p d a b
  | .vsub p d a b => vsub p d a b
  | .vmul p d a b => vmul p d a b
  | .vmulh p d a b => vmulh p d a b
  | .vmad p d a b => vmad p d a b
  | .vfma p d a b => vfma p d a b
  | .vmin p d a b => vmin p d a b
  | .vmax p d a b => vmax p d a b
  | .vabs p d a => vabs p d a
  | .vneg p d a => vneg p d a
  | .vdiv p d a b => vdiv p d a b
  | .vsqrt p d a => vsqrt p d a
  | .vrcp p d a => vrcp p d a
  | .vrsq p d a => vrsq p d a
  | .vexp2 p d a => vexp2 p d a
  | .vlog2 p d a => vlog2 p d a
  | .vsin p d a => vsin p d a
  | .vcos p d a => vcos p d a
  | .vcvt p d a t => vcvt p d a t
  | .vand p d a b => vand p d a b
  | .vor p d a b => vor p d a b
  | .vxor p d a b => vxor p d a b
  | .vnot p d a => vnot p d a
  | .vshl p d a b => vshl p d a b
  | .vshr p d a b => vshr p d a b
  | .vsra p d a b => vsra p d a b
  | .vbfx p d a b => vbfx p d a b
  | .vbfi p d a b => vbfi p d a b
  | .vpopc p d a => vpopc p d a
  | .vclz p d a => vclz p d a
  | .vbrev p d a => vbrev p d a
  | .vcmp p d a b c => vcmp p d a b c
  | .vsel p d a b => vsel p d a b
  | .vmov p d a => vmov p d a
  | .vmovs p d b => vmovs p d b
  | .vmovi p d i => vmovi p d i
  | .vqadd p d a b => vqadd p d a b
  | .vqsub p d a b => vqsub p d a b
  | .vqmul p d a b => vqmul p d a b
  | .vqbfly p d a b => vqbfly p d a b
  | .vqbflyi p d a b => vqbflyi p d a b
  | .vshfl p d a b m => vshfl p d a b m
  | .vshflS p d a b m => vshflS p d a b m
  | .vballot p d a => vballot p d a
  | .vred p d a o => vred p d a o
  | .vscan p d a o e => vscan p d a o e
  | .vbcast p d a b => vbcast p d a b
  | .vbxch p d a b => vbxch p d a b
  | .vmatch p d a => vmatch p d a
  | .vld p d b o w => vld p d b o w
  | .vst p d b o w => vst p d b o w
  | .vldAcqB32 p d b o s => vldAcqB32 p d b o s
  | .vldAcqB64 p d b o s => vldAcqB64 p d b o s
  | .vstRelB32 p d b o s => vstRelB32 p d b o s
  | .vstRelB64 p d b o s => vstRelB64 p d b o s
  | .vldScB32 p d b o s => vldScB32 p d b o s
  | .vldScB64 p d b o s => vldScB64 p d b o s
  | .vstScB32 p d b o s => vstScB32 p d b o s
  | .vstScB64 p d b o s => vstScB64 p d b o s
  | .vlds p d b o w => vlds p d b o w
  | .vsts p d b o w => vsts p d b o w
  | .vldp p d b o w => vldp p d b o w
  | .vstp p d b o w => vstp p d b o w
  | .sprf p a b l => sprf p a b l
  | .fence p k s => fence p k s
  | .mwait p d a b c => mwait p d a b c
  | .rhint p a b h => rhint p a b h
  | .vatomB32 p d b o x => vatomB32 p d b o x
  | .vatomB64 p d b o x => vatomB64 p d b o x
  | .vratomB32 p d b o x => vratomB32 p d b o x
  | .vratomB64 p d b o x => vratomB64 p d b o x
  | .satom p d a b w o => satom p d a b w o
  | .boinit p a b => boinit p a b
  | .boarr p d a b => boarr p d a b
  | .bowait p d a b => bowait p d a b
  | .boexp p a b => boexp p a b
  | .vcpy p d a w => vcpy p d a w
  | .cbatch p d => cbatch p d
  | .cwait p a => cwait p a
  | .kick p a => kick p a
  | .rput p a b => rput p a b
  | .rget p a b => rget p a b
  | .mldb p a b n => mldb p a b n
  | .mfree p n => mfree p n
  | .munf p a => munf p a
  | .mmq p a => mmq p a
  | .mscaleA p a b => mscaleA p a b
  | .mscaleB p a b => mscaleB p a b
  | .mstat p d c => mstat p d c
  | .mchk p d c => mchk p d c
  | .fopen p d a b => fopen p d a b
  | .fclose p a => fclose p a
  | .fsend p a b => fsend p a b
  | .fsendDefer p a b => fsendDefer p a b
  | .fcomb p a b o => fcomb p a b o
  | .eret => eret
  | .tlbinv p a b s => tlbinv p a b s
  | .cinv p a b l => cinv p a b l
  | .kzero p a b => kzero p a b
  | .kstat p d a => kstat p d a
  | .scrub p d a => scrub p d a
  | .cassign p d a b => cassign p d a b
  | .splitMergeEarly .. | .loadReturn .. | .mwaitWake .. | .spawnBinTimer .. | .spawnBinLaunch .. | .slotDrainDone ..
  | .localityDecay .. | .starvationIssue .. | .laneCopy .. | .requestElement .. | .requestComplete ..
  | .remoteSourceRead .. | .remotePutArrival .. | .remoteGetArrival .. | .rgetDataReturn .. | .remoteHoldTimeout ..
  | .sendArrival .. | .sendDeferAdmit .. | .sendStatus .. | .sendUnreachable .. | .combinerContribution ..
  | .combinerTimeout .. | .combineResult .. | .passGroupLaunch .. | .passExecute .. | .passDrain .. | .slotLoad ..
  | .eccUncorrectable .. | .hangDetect .. | .refusalLogFlush .. | .faultTimeout .. | .gangDispatch ..
  | .launchReady .. | .launchStart .. | .launchComplete .. | .auditRun .. | .auditCompare .. | .quantumExpiry ..
  | .preemptDeadline .. | .splitRelease .. | .gangSave .. | .saveTimeout .. | .gangRestore .. | .clusterLend ..
  | .clusterReclaim .. | .budgetWindow .. | .hostRmaRead .. | .hostRmaWrite .. | .sessionOpen .. | .launch ..
  | .copy .. | .signal .. | .wait .. | .fenceCmd .. | .ctxcreate .. | .ctxdestroy .. | .migrate .. | .map ..
  | .unmap .. | .faultreply .. | .dcdadd .. | .dcdrel .. | .writePvcfg .. | .writePvcol .. | .setBudgets ..
  | .readInService .. | .pavilionImageUpdate .. | .clusterQuarantine .. | .sectorRetirement .. | .ethernetReset ..
  | .ethernetRemoval .. | .cxlReset .. | .cxlRemoval .. | .cxlResetTimeout .. | .returnCore .. | .returnCluster ..
  | .returnPage .. | .raiseFuseTackRoom .. | .raiseFusePavilion .. | .warmReset .. | .watchdogReset ..
  | .resumeScrub .. | .loadEvictionSchedule .. | .quarantineThreshold .. | .coldReset .. | .deriveKey ..
  | .getVersion .. | .getCapabilities .. | .negotiateAlgorithms .. | .getDigests .. | .getCertificate ..
  | .challenge .. | .getMeasurements .. | .keyExchange .. | .finish .. | .endSession .. | .keyload .. | .grant ..
  | .migrationStateReceive .. | .prepared .. | .commit .. | .refused .. | .outcome .. | .migrationSilence ..
  | .migrationOutcomePoll .. | .migrationSourceLoss .. | .scrubChunk .. | .grantExpiry .. | .firmwareLoad ..
  | .ideReestablished .. | .imageSignatureVerified .. =>
    fun h => absurd h Bool.false_ne_true

end Sys2Proof.Laws.Fields

namespace Sys2Proof

/-- Settles O2, from the family of the fields and the limits that a well-formed instruction meets. -/
theorem decodeOfEncodeIsTheInstruction : Obligations.DecodeOfEncodeIsTheInstruction := by
  unfold Obligations.DecodeOfEncodeIsTheInstruction
  intro i hword hwf
  obtain ⟨hlt, hfields⟩ := Laws.Fields.statement i hword
  rw [decode_eq_ok_iff, encode, BitVec.toNat_ofNat, Nat.mod_eq_of_lt hlt]
  exact ⟨hfields, hwf⟩

/-- Settles O3: each group's decoder reads every bit of the word, and the limits of the operands are its last check. -/
theorem encodeOfDecodeIsTheWord : Obligations.EncodeOfDecodeIsTheWord := by
  unfold Obligations.EncodeOfDecodeIsTheWord
  intro w i h
  obtain ⟨hfields, hwf⟩ := decode_eq_ok_iff.mp h
  obtain ⟨hword, hnat⟩ := (decodeFields_encodes w.isLt).of_ok i hfields
  exact ⟨hword, hwf, by rw [encode, hnat, BitVec.ofNat_toNat, BitVec.setWidth_eq]⟩

/-- Settles O1: the decoder computes on each word. -/
theorem sampleWordsDecode : Obligations.SampleWordsDecode := by
  unfold Obligations.SampleWordsDecode
  decide

end Sys2Proof
end

section

namespace Sys2Proof.Machine

/-! ## The checks at issue (03 R62, 05 R113, 16 R273) -/

section

variable {i : Instr} {s t : State}

theorem State.issueCheck_of_operands (h : s.operandsOk i = false) :
    s.issueCheck i = some (s.takeTrap .ill (wordOf i) 0#16 s.split.pc i.sp) := by
  simp [State.issueCheck, h, State.earlyTrap]

theorem State.issueCheck_of_mask (ho : s.operandsOk i = true) (h : s.maskCheck i = some t) :
    s.issueCheck i = some t := by
  simp [State.issueCheck, ho, h]

theorem State.issueCheck_of_priv (ho : s.operandsOk i = true) (hm : s.maskCheck i = none) (h : s.privOk i = false) :
    s.issueCheck i = some (s.takeTrap .priv (wordOf i) 0#16 s.split.pc i.sp) := by
  simp [State.issueCheck, ho, hm, h, State.earlyTrap]

theorem State.issueCheck_of_scoreboarded (ho : s.operandsOk i = true) (hm : s.maskCheck i = none)
    (hp : s.privOk i = true) (h : s.scoreboarded i = true) : s.issueCheck i = some s := by
  simp [State.issueCheck, ho, hm, hp, h]

theorem State.issueCheck_of_readsPoison (ho : s.operandsOk i = true) (hm : s.maskCheck i = none)
    (hp : s.privOk i = true) (hl : s.scoreboarded i = false) (h : s.readsPoison i = true) :
    s.issueCheck i = some (s.haltWarp s.cur s.split.pc .poison 0 0) := by
  simp [State.issueCheck, ho, hm, hp, hl, h]

theorem word_of_issueCheck {f : State → Eff State} (h : s.issueCheck i = some t) : word i s f = .next t := by
  simp [word, h]

theorem wordMarked_of_issueCheck {x y : Bool} {f : State → Eff State} (h : s.issueCheck i = some t) :
    wordMarked i s x y f = .next t := by
  simp [wordMarked, h]

/-- What the checks at issue answer stands before the effect of every instruction word: each is a `word`, or a
`wordMarked`, of which three look at their descriptors or addresses for the marks first. -/
theorem exec_of_issueCheck (hw : i.isWord = true) (h : s.issueCheck i = some t) : exec i s = .next t := by
  cases i
  case splitMergeEarly | loadReturn | mwaitWake | spawnBinTimer | spawnBinLaunch | slotDrainDone | localityDecay
    | starvationIssue | laneCopy | requestElement | requestComplete | remoteSourceRead | remotePutArrival
    | remoteGetArrival | rgetDataReturn | remoteHoldTimeout | sendArrival | sendDeferAdmit | sendStatus
    | sendUnreachable | combinerContribution | combinerTimeout | combineResult | passGroupLaunch | passExecute
    | passDrain | slotLoad | eccUncorrectable | hangDetect | refusalLogFlush | faultTimeout | gangDispatch
    | launchReady | launchStart | launchComplete | auditRun | auditCompare | quantumExpiry | preemptDeadline
    | splitRelease | gangSave | saveTimeout | gangRestore | clusterLend | clusterReclaim | budgetWindow | hostRmaRead
    | hostRmaWrite | sessionOpen | launch | copy | signal | wait | fenceCmd | ctxcreate | ctxdestroy | migrate | map
    | unmap | faultreply | dcdadd | dcdrel | writePvcfg | writePvcol | setBudgets | readInService
    | pavilionImageUpdate | clusterQuarantine | sectorRetirement | ethernetReset | ethernetRemoval | cxlReset
    | cxlRemoval | cxlResetTimeout | returnCore | returnCluster | returnPage | raiseFuseTackRoom | raiseFusePavilion
    | warmReset | watchdogReset | resumeScrub | loadEvictionSchedule | quarantineThreshold | coldReset | deriveKey
    | getVersion | getCapabilities | negotiateAlgorithms | getDigests | getCertificate | challenge | getMeasurements
    | keyExchange | finish | endSession | keyload | grant | migrationStateReceive | prepared | commit | refused
    | outcome | migrationSilence | migrationOutcomePoll | migrationSourceLoss | scrubChunk | grantExpiry
    | firmwareLoad | ideReestablished | imageSignatureVerified =>
    exact absurd hw Bool.false_ne_true
  case vcpy | kick | rget =>
    dsimp only [exec, execVcpy, execKick, execRget]
    exact wordMarked_of_issueCheck h
  case barg | sst | dcls | dclsS | vst | vstRelB32 | vstRelB64 | vstScB32 | vstScB64 | vlds | vsts | vatomB32 | vatomB64
    | vratomB32 | vratomB64 | satom | boinit | boarr | bowait | boexp | rput | fopen | fsend | fsendDefer | fcomb =>
    dsimp only [exec]
    exact wordMarked_of_issueCheck h
  case braZ | braNz | brd | call | jmpi | ret | sread | sreadClr | swid | vwid | spawn | trap | bar | nop | join | exit
    | yield | sadd | ssub | smul | smulh | sdiv | srem | sand | sor | sxor | sshl | sshr | ssra | srot | smin | smax
    | scmp | ssel | smovi | smovh | saddi | spopc | sclz | sctz | sbrev | sbfx | sbfi | sld | sldc | mode | modei
    | lget | lgetV | ljoin | ljoinV | lchk | ltcompact | vadd | vsub | vmul | vmulh | vmad | vfma | vmin | vmax | vabs
    | vneg | vdiv | vsqrt | vrcp | vrsq | vexp2 | vlog2 | vsin | vcos | vcvt | vand | vor | vxor | vnot | vshl | vshr
    | vsra | vbfx | vbfi | vpopc | vclz | vbrev | vcmp | vsel | vmov | vmovs | vmovi | vqadd | vqsub | vqmul | vqbfly
    | vqbflyi | vshfl | vshflS | vballot | vred | vscan | vbcast | vbxch | vmatch | vld | vldAcqB32 | vldAcqB64
    | vldScB32 | vldScB64 | vldp | vstp | sprf | fence | mwait | rhint | cbatch | cwait | mldb | mfree | munf | mmq
    | mscaleA | mscaleB | mstat | mchk | fclose | eret | tlbinv | cinv | kzero | kstat | scrub | cassign =>
    dsimp only [exec]
    exact word_of_issueCheck h

end

/-- Settles O23: each case of the statement is one of what the checks answer. -/
theorem checksAtIssueStandBeforeEveryWord : Obligations.ChecksAtIssueStandBeforeEveryWord := by
  unfold Obligations.ChecksAtIssueStandBeforeEveryWord
  intro i s hw
  exact ⟨fun ho => exec_of_issueCheck hw (State.issueCheck_of_operands ho),
    fun ho _ hm => exec_of_issueCheck hw (State.issueCheck_of_mask ho hm),
    fun ho hm hp => exec_of_issueCheck hw (State.issueCheck_of_priv ho hm hp),
    fun ho hm hp hl => exec_of_issueCheck hw (State.issueCheck_of_scoreboarded ho hm hp hl),
    fun ho hm hp hl hr => exec_of_issueCheck hw (State.issueCheck_of_readsPoison ho hm hp hl hr)⟩

end Sys2Proof.Machine
end

section

namespace Sys2Proof.Machine

/-! ## The step, a case of its turn (03 R62) -/

section

variable {s t : State} {rest : List Turn} {w sp : Nat} {word : BitVec 32} {i : Instr}

/-- Outside the wait for firmware a step takes the next turn of the agenda. -/
theorem step_eq_turn {u : Turn} (ha : s.agenda = u :: rest) (hb : s.boot = .running) :
    step s = turn u { s with agenda := rest } := by
  simp [step, ha, hb]

theorem turn_issue (h : canIssue s w sp = true) : turn (.issue w sp) s = issue (prepare s w sp) := if_pos h

theorem turn_issue_of_not_canIssue (h : canIssue s w sp = false) : turn (.issue w sp) s = .next s := by
  simp [turn, h]

theorem turn_event (h : i.isWord = false) : turn (.event i) s = exec i { s with arrival := .blank } := by
  simp [turn, h]

theorem turn_arrive (a : Arrival) (h : i.isWord = false) : turn (.arrive a i) s = exec i { s with arrival := a } := by
  simp [turn, h]

theorem issue_of_stop (hf : fetch s = .stop t) : issue s = .next t := by
  simp [issue, hf]

theorem issue_of_decode (hf : fetch s = .word word) (hd : decode word = .ok i) :
    issue s = exec i ((s.latch word).fill i) := by
  simp [issue, hf, hd]

theorem issue_of_illegal {e : DecodeErr} (hf : fetch s = .word word) (hd : decode word = .error e) :
    issue s = .next (illegal word (s.latch word)) := by
  simp [issue, hf, hd]

end

/-- Settles O4: a step is its turn, and a turn that issues is what its fetch and its decoding give. -/
theorem stepRunsTheDecodedInstruction : Obligations.StepRunsTheDecodedInstruction := by
  unfold Obligations.StepRunsTheDecodedInstruction
  refine ⟨fun s w sp rest word i ha hb hc hf hd => ?_, fun s t w sp rest word e ha hb => ⟨fun hc => ?_, fun hc =>
    ⟨fun hf => ?_, fun hf hd => ?_⟩⟩, fun s i rest ha hb hi => ?_, fun s a i rest ha hb hi => ?_⟩
  · rw [step_eq_turn ha hb, turn_issue hc, issue_of_decode hf hd]
  · rw [step_eq_turn ha hb, turn_issue_of_not_canIssue hc]
  · rw [step_eq_turn ha hb, turn_issue hc, issue_of_stop hf]
  · rw [step_eq_turn ha hb, turn_issue hc, issue_of_illegal hf hd]
  · rw [step_eq_turn ha hb, turn_event hi]
  · rw [step_eq_turn ha hb, turn_arrive a hi]

end Sys2Proof.Machine
end

section

namespace Sys2Proof.Machine

/-! ## The integer values of a width (04 R66) -/

theorem intWidth_cases (t : ETy) : intWidth t = 8 ∨ intWidth t = 16 ∨ intWidth t = 32 ∨ intWidth t = 64 := by
  cases t <;> decide

theorem intWidth_pos (t : ETy) : 0 < intWidth t := by
  rcases intWidth_cases t with h | h | h | h <;> omega

theorem coe_truncInt (w : Nat) (e : Int) : (truncInt w e : Int) = e % (2 : Int) ^ w := by
  rw [truncInt, Int.toNat_of_nonneg (Int.emod_nonneg _ (by positivity))]
  push_cast
  rfl

theorem truncInt_lt (w : Nat) (e : Int) : truncInt w e < 2 ^ w := by
  have h := Int.emod_lt_of_pos e (show (0 : Int) < (2 : Int) ^ w by positivity)
  rw [← coe_truncInt] at h
  exact_mod_cast h

/-- Twice the half of a power of two, among the naturals and among the integers. -/
theorem two_pow_half {w : Nat} (h : 0 < w) : (2 : Int) ^ w = 2 * (2 : Int) ^ (w - 1) := by
  rw [← pow_succ', Nat.sub_add_cancel h]

theorem sextNat_eq (w n : Nat) :
    sextNat w n = if ((n % 2 ^ w : Nat) : Int) < (2 : Int) ^ (w - 1) then ((n % 2 ^ w : Nat) : Int)
      else ((n % 2 ^ w : Nat) : Int) - (2 : Int) ^ w := by
  unfold sextNat
  refine if_congr ?_ (by push_cast; rfl) (by push_cast; rfl)
  exact_mod_cast Iff.rfl

/-- A value of two's complement is within its range. -/
theorem sextNat_range {w : Nat} (hw : 0 < w) (n : Nat) :
    -(2 : Int) ^ (w - 1) ≤ sextNat w n ∧ sextNat w n < (2 : Int) ^ (w - 1) := by
  have hlt : ((n % 2 ^ w : Nat) : Int) < (2 : Int) ^ w := by exact_mod_cast Nat.mod_lt n (Nat.two_pow_pos w)
  have hhalf := two_pow_half hw
  rw [sextNat_eq]
  split <;> omega

/-- The low bits of a value within the range of two's complement give it again. -/
theorem sextNat_truncInt {w : Nat} (hw : 0 < w) {e : Int} (hlo : -(2 : Int) ^ (w - 1) ≤ e)
    (hhi : e < (2 : Int) ^ (w - 1)) : sextNat w (truncInt w e) = e := by
  have hhalf := two_pow_half hw
  rw [sextNat_eq, Nat.mod_eq_of_lt (truncInt_lt w e), coe_truncInt]
  rcases lt_or_ge e 0 with hneg | hpos
  · have hmod : e % (2 : Int) ^ w = e + (2 : Int) ^ w := by
      rw [← Int.add_emod_right]
      exact Int.emod_eq_of_lt (by omega) (by omega)
    rw [hmod]
    split <;> omega
  · rw [Int.emod_eq_of_lt hpos (by omega)]
    split <;> omega

/-- The least value of a type at a width. -/
def minOf (t : ETy) (w : Nat) : Int := if t.unsigned then 0 else -(2 : Int) ^ (w - 1)

/-- The greatest value of a type at a width. -/
def maxOf (t : ETy) (w : Nat) : Int := if t.unsigned then (2 : Int) ^ w - 1 else (2 : Int) ^ (w - 1) - 1

theorem minOf_le_maxOf (t : ETy) (w : Nat) : minOf t w ≤ maxOf t w := by
  have hw : (0 : Int) < (2 : Int) ^ w := by positivity
  have hhalf : (0 : Int) < (2 : Int) ^ (w - 1) := by positivity
  unfold minOf maxOf
  split <;> omega

theorem valOf_range (t : ETy) {w : Nat} (hw : 0 < w) (n : Nat) : minOf t w ≤ valOf t w n ∧ valOf t w n ≤ maxOf t w := by
  have hlt : ((n % 2 ^ w : Nat) : Int) < (2 : Int) ^ w := by exact_mod_cast Nat.mod_lt n (Nat.two_pow_pos w)
  have hsext := sextNat_range hw n
  unfold minOf maxOf valOf
  split <;> omega

/-- The low bits of a value within a type's range give it again. -/
theorem valOf_truncInt (t : ETy) {w : Nat} (hw : 0 < w) {e : Int} (hlo : minOf t w ≤ e) (hhi : e ≤ maxOf t w) :
    valOf t w (truncInt w e) = e := by
  unfold minOf maxOf at *
  unfold valOf
  split
  · simp only [*, if_true] at hlo hhi
    rw [Nat.mod_eq_of_lt (truncInt_lt w e), coe_truncInt, Int.emod_eq_of_lt hlo (by omega)]
  · simp only [*] at hlo hhi
    exact sextNat_truncInt hw hlo (by simpa using hhi)

/-- Saturation clamps to the range. -/
theorem satInt_eq_clamp (t : ETy) (w : Nat) (e : Int) : satInt t w e = max (minOf t w) (min (maxOf t w) e) := by
  have h := minOf_le_maxOf t w
  have hmin : minOf t w = if t.unsigned then 0 else -((2 ^ (w - 1) : Nat) : Int) := by
    simp [minOf]
  have hmax : maxOf t w = if t.unsigned then ((2 ^ w : Nat) : Int) - 1 else ((2 ^ (w - 1) : Nat) : Int) - 1 := by
    simp [maxOf]
  unfold satInt
  rw [← hmin, ← hmax]
  dsimp only
  split
  · omega
  · split <;> omega

/-- What is delivered without saturation: the low bits. -/
theorem deliverInt_wraps (t : ETy) (w : Nat) {sat row : Bool} (h : (sat && row) = false) (e : Int) :
    deliverInt t w sat row e = (truncInt w e, 0#32) := by
  rw [deliverInt, if_neg (by simpa [Bool.and_comm] using h)]

/-- With saturation: the low bits of the value clamped, and ISAT where that differs. -/
theorem deliverInt_saturates (t : ETy) (w : Nat) (e : Int) :
    deliverInt t w true true e = (truncInt w (satInt t w e), flagIf (satInt t w e ≠ e) fISAT) := rfl

/-- Extension to 64 bits keeps the value, but that an N64 value reads as two's complement. -/
theorem toInt_extTo64 (t : ETy) (n : Nat) :
    (extTo64 t (intWidth t) n).toInt =
      if t.unsigned ∧ intWidth t = 64 then (BitVec.ofNat 64 n).toInt else valOf t (intWidth t) n := by
  split
  · next h =>
    obtain ⟨hu, hw⟩ := h
    have hval : valOf t 64 n = ((n % 2 ^ 64 : Nat) : Int) := by simp [valOf, hu]
    have heq : extTo64 t (intWidth t) n = BitVec.ofNat 64 n := by
      rw [extTo64, hw, hval, BitVec.ofInt_natCast]
      exact BitVec.eq_of_toNat_eq (by simp)
    rw [heq]
  · next h =>
    obtain ⟨hlo, hhi⟩ := valOf_range t (intWidth_pos t) n
    have hmin : -(2 : Int) ^ 63 ≤ minOf t (intWidth t) ∧ maxOf t (intWidth t) < (2 : Int) ^ 63 := by
      rcases intWidth_cases t with hw | hw | hw | hw <;> simp only [hw, and_true, Bool.not_eq_true] at h ⊢ <;>
        unfold minOf maxOf <;> split <;> simp_all
    rw [extTo64, BitVec.toInt_ofInt_eq_self (by decide) (by simpa using hmin.1.trans hlo)
      (by simpa using lt_of_le_of_lt hhi hmin.2)]

/-- Settles O7: the low bits of the exact result, or of the result clamped, which give the clamped value again. -/
theorem deliveryWrapsOrSaturates : Obligations.DeliveryWrapsOrSaturates := by
  unfold Obligations.DeliveryWrapsOrSaturates
  intro t e w lo hi
  have hsat : satInt t w e = max lo (min hi e) := satInt_eq_clamp t w e
  have hrange : lo ≤ hi := minOf_le_maxOf t w
  refine ⟨fun sat row h => ?_, ?_, ?_, fun n => toInt_extTo64 t n⟩
  · rw [deliverInt_wraps t w h]
    exact ⟨coe_truncInt w e, rfl⟩
  · rw [deliverInt_saturates, ← hsat]
    exact valOf_truncInt t (intWidth_pos t) (show lo ≤ _ by omega) (show _ ≤ hi by omega)
  · rw [deliverInt_saturates]
    have hiff : satInt t w e ≠ e ↔ ¬(lo ≤ e ∧ e ≤ hi) := by omega
    by_cases h : lo ≤ e ∧ e ≤ hi <;> simp [flagIf, hiff, h]

end Sys2Proof.Machine
end

section

namespace Sys2Proof.Machine

/-! ## What delivers an exact result (04 R66) -/

/-- The shared effect of R66 writes the delivered pattern, extended, and sets the flags that its row names. -/
theorem writesScalar_scalarAlu (p : Bool) (d : SNum) (x y : Nat) (l : Label) (saturates : Bool)
    (named : Option (SArgs → FlagBits)) (e : SArgs → Int) (s : State) :
    let r := sargs s.ty x y
    let v := deliverInt s.ty r.w s.sat saturates (e r)
    WritesScalar s (scalarAlu p d x y l saturates named e s) (s.nextPc p) d (extTo64 s.ty r.w v.1) l
      (named.map fun f => v.2 ||| f r) := by
  cases named with
  | none => exact writesScalar_setS ..
  | some f => exact writesScalar_setFlags ..

/-- An instruction whose effect is the shared one delivers its row's exact result. -/
theorem delivers_of_scalarAlu {i : Instr} {s : State} {f : State → Eff State} {p : Bool} {d : SNum} {x y : Nat}
    {l : Label} {saturates : Bool} {named : Option (SArgs → FlagBits)} {e : SArgs → Int}
    (hexec : exec i s = word i s f) (hf : f s = .ok (scalarAlu p d x y l saturates named e s)) :
    Delivers i s p d l saturates (named.map fun g => g (sargs s.ty x y)) (e (sargs s.ty x y)) := by
  intro hready
  refine completes_word hexec hready hf ?_
  have h := writesScalar_scalarAlu p d x y l saturates named e s
  cases named <;> exact h

theorem divZero_eq (r : SArgs) : divZero r = if r.b = 0 then fIDIVZ else 0#32 := by
  simp [divZero, flagIf]

/-- Settles O8: each row is the shared effect with its exact result. -/
theorem scalarArithmeticDeliversItsRow : Obligations.ScalarArithmeticDeliversItsRow := by
  unfold Obligations.ScalarArithmeticDeliversItsRow
  intro s p d a b imm w ua ub x y n l isat divz
  have hdivz : divz = some (divZero (sargs s.ty (s.sreg a).toNat (s.sreg b).toNat)) := by
    rw [divZero_eq]
    rfl
  refine ⟨?sadd, ?ssub, ?smul, ?smulh, ?sdiv, ?srem, ?sand, ?sor, ?sxor, ?sshl, ?sshr, ?ssra, ?srot, ?smin, ?smax,
    ?saddi⟩
  case sdiv =>
    rw [hdivz]
    exact (delivers_of_scalarAlu (exec_sdiv ..) rfl :)
  case srem =>
    rw [hdivz, ← Int.tmod_def]
    exact (delivers_of_scalarAlu (exec_srem ..) rfl :)
  case sadd => exact (delivers_of_scalarAlu (exec_sadd ..) rfl :)
  case ssub => exact (delivers_of_scalarAlu (exec_ssub ..) rfl :)
  case smul => exact (delivers_of_scalarAlu (exec_smul ..) rfl :)
  case smulh => exact (delivers_of_scalarAlu (exec_smulh ..) rfl :)
  case sand => exact (delivers_of_scalarAlu (exec_sand ..) rfl :)
  case sor => exact (delivers_of_scalarAlu (exec_sor ..) rfl :)
  case sxor => exact (delivers_of_scalarAlu (exec_sxor ..) rfl :)
  case sshl => exact (delivers_of_scalarAlu (exec_sshl ..) rfl :)
  case sshr => exact (delivers_of_scalarAlu (exec_sshr ..) rfl :)
  case ssra => exact (delivers_of_scalarAlu (exec_ssra ..) rfl :)
  case srot => exact (delivers_of_scalarAlu (exec_srot ..) rfl :)
  case smin => exact (delivers_of_scalarAlu (exec_smin ..) rfl :)
  case smax => exact (delivers_of_scalarAlu (exec_smax ..) rfl :)
  case saddi => exact (delivers_of_scalarAlu (exec_saddi ..) rfl :)

/-! ## What writes one value (04 R67 to R71, R74) -/

/-- An instruction whose effect is one write of a scalar register. -/
theorem puts_of_setS {i : Instr} {s : State} {f : State → Eff State} {p : Bool} {d : SNum} {v : Word} {l : Label}
    (hexec : exec i s = word i s f) (hf : f s = .ok ((s.setS d v l).advance p)) : Puts i s p d v l :=
  fun hready => completes_word hexec hready hf (writesScalar_setS ..)

/-- Settles O10: each is one write of its value. -/
theorem scalarCompareSelectAndConstants : Obligations.ScalarCompareSelectAndConstants := by
  unfold Obligations.ScalarCompareSelectAndConstants
  intro s p d a b imm w x y l
  have hcmp (c : Cond) : Puts (.scmp p d a b c) s p d (if condHolds c x y then 1 else 0) l :=
    puts_of_setS (exec_scmp ..) rfl
  refine ⟨?_, ?_, ?_, ?_, ?_, ?_, puts_of_setS (exec_ssel ..) rfl, puts_of_setS (exec_smovi ..) rfl,
    puts_of_setS (exec_smovh ..) rfl, puts_of_setS (exec_sldc ..) rfl⟩
  · simpa [condHolds] using hcmp .eq
  · simpa [condHolds] using hcmp .ne
  · simpa [condHolds] using hcmp .lt
  · simpa [condHolds] using hcmp .le
  · simpa [condHolds] using hcmp .gt
  · simpa [condHolds] using hcmp .ge

end Sys2Proof.Machine
end

section

namespace Sys2Proof.Machine

/-! ## Bits of a pattern (04 R67, R68) -/

/-- `popc` counts the 1 bits. -/
theorem popc_eq_length (k n : Nat) : popc k n = ((List.range k).filter fun i => n.testBit i).length := by
  induction k generalizing n with
  | zero => rfl
  | succ k ih =>
    have htail : ((List.range k).filter fun i => n.testBit (i + 1)) = (List.range k).filter fun i => (n / 2).testBit i :=
      List.filter_congr fun i _ => Nat.testBit_succ n i
    rw [popc, ih, List.range_succ_eq_map, List.filter_cons, List.filter_map, ← htail]
    rcases Nat.mod_two_eq_zero_or_one n with h | h <;> simp [Nat.testBit_zero, h, Function.comp_def, Nat.add_comm]

/-- Above the highest 1 bit there are `clzNat` zeros. -/
theorem clzNat_spec {w u : Nat} (hu : u < 2 ^ w) :
    clzNat w u ≤ w ∧ (∀ i, w - clzNat w u ≤ i → i < w → u.testBit i = false) ∧
      (clzNat w u < w → u.testBit (w - 1 - clzNat w u) = true) := by
  unfold clzNat
  split
  · next h => exact ⟨le_rfl, fun i _ _ => by simp [h], fun h => absurd h (by omega)⟩
  · next h =>
    have hlog : u.log2 < w := (Nat.log2_lt h).mpr hu
    refine ⟨by omega, fun i hi _ => ?_, fun _ => ?_⟩
    · exact Nat.testBit_lt_two_pow ((Nat.lt_log2_self).trans_le (Nat.pow_le_pow_right (by decide) (by omega)))
    · rw [show w - 1 - (w - 1 - u.log2) = u.log2 by omega]
      exact Nat.testBit_log2 h

/-- Below the lowest 1 bit there are `ctzNat` zeros. -/
theorem ctzNat_spec (w u : Nat) :
    ctzNat w u ≤ w ∧ (∀ i < ctzNat w u, u.testBit i = false) ∧ (ctzNat w u < w → u.testBit (ctzNat w u) = true) := by
  induction w generalizing u with
  | zero => simp [ctzNat]
  | succ k ih =>
    unfold ctzNat
    split
    · next h => exact ⟨by omega, by simp, fun _ => by simp [Nat.testBit_zero, h]⟩
    · next h =>
      obtain ⟨hle, hlow, hbit⟩ := ih (u / 2)
      refine ⟨by omega, fun i hi => ?_, fun hlt => ?_⟩
      · cases i with
        | zero => simp [Nat.testBit_zero, h]
        | succ i =>
          rw [Nat.testBit_succ]
          exact hlow i (by omega)
      · rw [Nat.add_comm, Nat.testBit_succ]
        exact hbit (by omega)

theorem revNat_lt (k u : Nat) : revNat k u < 2 ^ k := by
  induction k generalizing u with
  | zero => simp [revNat]
  | succ k ih =>
    have h := ih (u / 2)
    have h2 : u % 2 < 2 := Nat.mod_lt _ (by decide)
    have hmul : u % 2 * 2 ^ k ≤ 2 ^ k := by nlinarith
    rw [revNat, Nat.pow_succ]
    omega

/-- `revNat` reverses. -/
theorem testBit_revNat {k i : Nat} (u : Nat) (hi : i < k) : (revNat k u).testBit i = u.testBit (k - 1 - i) := by
  induction k generalizing u with
  | zero => omega
  | succ k ih =>
    rw [revNat, Nat.mul_comm, Nat.testBit_two_pow_mul_add _ (revNat_lt k (u / 2))]
    split
    · next h => rw [ih _ h, ← Nat.testBit_succ, show (k - 1 - i).succ = k + 1 - 1 - i by omega]
    · rw [show i - k = 0 by omega, show k + 1 - 1 - i = 0 by omega]
      simp [Nat.testBit_zero]

/-- Sign extension as a number is that of bit vectors. -/
theorem sextNat_eq_toInt (w n : Nat) : sextNat w n = (BitVec.ofNat w n).toInt := by
  rw [BitVec.toInt_eq_toNat_cond, BitVec.toNat_ofNat]
  unfold sextNat
  have hlt : n % 2 ^ w < 2 ^ w := Nat.mod_lt n (Nat.two_pow_pos w)
  cases w with
  | zero => simp [Nat.mod_one]
  | succ w =>
    have hhalf : 2 ^ (w + 1) = 2 * 2 ^ w := Nat.pow_succ'
    refine if_congr (by simp only [Nat.add_sub_cancel]; omega) (by push_cast; rfl) (by push_cast; rfl)

/-- The bits of an extracted field, those above it its sign where it is signed. -/
theorem getLsbD_bitField (signed : Bool) (u : Word) {pos len i : Nat} (hlen : len ≤ 64) (hi : i < 64) :
    (BitVec.ofInt 64 (bitField 64 signed u.toNat pos len)).getLsbD i =
      if i < len then u.getLsbD (pos + i) else signed && 0 < len && u.getLsbD (pos + len - 1) := by
  let f := u.toNat % 2 ^ 64 / 2 ^ pos % 2 ^ len
  have hf (j : Nat) : f.testBit j = (decide (j < len) && u.getLsbD (pos + j)) := by
    simp only [f, Nat.testBit_mod_two_pow, Nat.testBit_div_two_pow, Nat.mod_eq_of_lt u.isLt]
    rw [Nat.add_comm j pos]
    rfl
  rcases Nat.eq_zero_or_pos len with rfl | hpos
  · simp [bitField]
  cases signed with
  | false =>
    have h : bitField 64 false u.toNat pos len = (f : Int) := by simp [bitField, f, hpos.ne']
    rw [h, BitVec.ofInt_natCast, BitVec.getLsbD_ofNat, hf]
    simp [hi]
  | true =>
    have h : bitField 64 true u.toNat pos len = (BitVec.ofNat len f).toInt := by
      rw [← sextNat_eq_toInt]
      simp [bitField, f, hpos.ne']
    have hmsb : (BitVec.ofNat len f).msb = u.getLsbD (pos + len - 1) := by
      rw [BitVec.msb_eq_getLsbD_last, BitVec.getLsbD_ofNat, hf, Nat.add_sub_assoc hpos]
      simp [hpos]
    rw [h]
    change (BitVec.signExtend 64 (BitVec.ofNat len f)).getLsbD i = _
    rw [BitVec.getLsbD_signExtend, hmsb, BitVec.getLsbD_ofNat, hf]
    by_cases hil : i < len <;> simp [hi, hil, hpos]

/-- The bits of a register into which a field has been inserted. -/
theorem testBit_fieldInsert (d a : Nat) {pos len i : Nat} (hpos : pos < 64) (hi : i < 64) :
    (fieldInsert 64 d a pos len).testBit i = if pos ≤ i ∧ i < pos + len then a.testBit (i - pos) else d.testBit i := by
  have hform : fieldInsert 64 d a pos len = 2 ^ pos * (2 ^ min len (64 - pos) * (d / 2 ^ (pos + min len (64 - pos))) +
      a % 2 ^ min len (64 - pos)) + d % 2 ^ pos := by
    rw [fieldInsert, if_neg (by omega)]
    dsimp only
    rw [Nat.pow_add]
    ring
  have hlow : d % 2 ^ pos < 2 ^ pos := Nat.mod_lt _ (Nat.two_pow_pos _)
  have hmid : a % 2 ^ min len (64 - pos) < 2 ^ min len (64 - pos) := Nat.mod_lt _ (Nat.two_pow_pos _)
  rw [hform, Nat.testBit_two_pow_mul_add _ hlow, Nat.testBit_two_pow_mul_add _ hmid]
  simp only [Nat.testBit_mod_two_pow, Nat.testBit_div_two_pow]
  rcases Nat.lt_or_ge i pos with h | h
  · simp [h, Nat.not_le.mpr h]
  · simp only [Nat.not_lt.mpr h, if_false, h, true_and]
    rcases Nat.lt_or_ge i (pos + len) with h' | h'
    · simp [h', show i - pos < min len (64 - pos) by omega]
    · rw [if_neg (by omega), if_neg (by omega), show i - pos - min len (64 - pos) + (pos + min len (64 - pos)) = i by omega]

/-- Bits of the low part of a register. -/
theorem testBit_low (u : Word) (w i : Nat) : (u.toNat % 2 ^ w).testBit i = (decide (i < w) && u.getLsbD i) :=
  Nat.testBit_mod_two_pow ..

/-- Settles O9: each is one write of its value, whose bits the facts about patterns give. -/
theorem scalarBitInstructionsGiveTheirBits : Obligations.ScalarBitInstructionsGiveTheirBits := by
  unfold Obligations.ScalarBitInstructionsGiveTheirBits
  intro s p d a b w u pos len la
  have hlow : u.toNat % 2 ^ w < 2 ^ w := Nat.mod_lt _ (Nat.two_pow_pos w)
  have hbit {i : Nat} (hi : i < w) : (u.toNat % 2 ^ w).testBit i = u.getLsbD i := by
    rw [testBit_low, decide_eq_true hi, Bool.true_and]
  refine ⟨⟨popc w (u.toNat % 2 ^ w), ?_, puts_of_setS (exec_spopc ..) rfl⟩,
    ⟨clzNat w (u.toNat % 2 ^ w), ?_⟩, ⟨ctzNat w (u.toNat % 2 ^ w), ?_⟩,
    ⟨revNat w (u.toNat % 2 ^ w), revNat_lt .., fun i hi => ?_, puts_of_setS (exec_sbrev ..) rfl⟩,
    ⟨BitVec.ofInt 64 (bitField 64 (!s.ty.unsigned) u.toNat pos len), fun i hi => ?_, fun i hi hi64 => ?_,
      puts_of_setS (exec_sbfx ..) rfl⟩,
    ⟨BitVec.ofNat 64 (fieldInsert 64 (s.sreg d).toNat u.toNat pos len), fun i hi => ?_, puts_of_setS (exec_sbfi ..) rfl⟩⟩
  · rw [popc_eq_length]
    exact congrArg List.length (List.filter_congr fun i hi => hbit (List.mem_range.mp hi))
  · obtain ⟨hle, hzero, hone⟩ := clzNat_spec hlow
    exact ⟨hle, fun i hi hiw => (hbit hiw).symm.trans (hzero i hi hiw),
      fun hlt => (hbit (by omega)).symm.trans (hone hlt), puts_of_setS (exec_sclz ..) rfl⟩
  · obtain ⟨hle, hzero, hone⟩ := ctzNat_spec w (u.toNat % 2 ^ w)
    exact ⟨hle, fun i hi => (hbit (by omega)).symm.trans (hzero i hi), fun hlt => (hbit hlt).symm.trans (hone hlt),
      puts_of_setS (exec_sctz ..) rfl⟩
  · rw [testBit_revNat _ hi, hbit (by omega)]
  · rw [getLsbD_bitField _ _ (Nat.min_le_right ..) (by omega), if_pos hi]
  · rw [getLsbD_bitField _ _ (Nat.min_le_right ..) hi64, if_neg (by omega)]
  · have hpos : pos < 64 := Nat.mod_lt _ (by decide)
    rw [BitVec.getLsbD_ofNat, testBit_fieldInsert _ _ hpos hi]
    simp only [hi, decide_true, Bool.true_and]
    rfl

end Sys2Proof.Machine
end

section

namespace Sys2Proof.Machine

/-! ## What reads of a state do not see -/

section

variable (s : State)

@[simp] theorem State.owners_setSplit (x : Split) : (s.setSplit x).owners = s.owners := by
  simp [State.owners, State.ctx]

@[simp] theorem State.label_setSplit (x : Split) (i : LIdx) : (s.setSplit x).label i = s.label i := by
  rw [State.label, State.owners_setSplit, State.warp_setSplit]
  exact Warp.label_congr rfl ..

theorem State.split_setWarp_same {w : Warp} (h : w.splits = s.warp.splits) : (s.setWarp w).split = s.split := by
  simp [State.split, Warp.split, h]

theorem State.split_intern (l : Label) : (s.intern l).2.split = s.split := by
  rw [State.intern_warp]
  exact s.split_setWarp_same (Warp.intern_splits ..)

end

/-! ## Room on the stack (05 R103, 09 R167) -/

/-- The stack has room for `n` entries: in the core, or with the spills that they take. -/
def State.RoomFor (s : State) (n : Nat) : Prop :=
  s.warp.stack.length + n ≤ 16 ∨ s.warp.stack.length ≤ 16 ∧ s.warp.entries.length + n ≤ 144 ∧ AreaMapped s

theorem stackRoom_iff (s : State) (l : Label) (n : Nat) :
    StackRoom s l n ↔ s.RoomFor (n + if Label.dom s.pcl l then 0 else 1) := Iff.rfl

theorem State.RoomFor.congr {s t : State} {n : Nat} (h : s.RoomFor n) (hstack : t.warp.stack = s.warp.stack)
    (hspill : t.warp.spill = s.warp.spill) (hchoices : t.choices = s.choices)
    (hdeclined : t.split.declined = s.split.declined) : t.RoomFor n := by
  unfold State.RoomFor AreaMapped Warp.entries at *
  rwa [hstack, hspill, hchoices, hdeclined]

/-- A warp with other entries on its stack, and else as `v`. -/
def Warp.Restacks (v w : Warp) : Prop := w = { v with stack := w.stack, spill := w.spill }

/-- What a push that has room does: its entry comes first, and nothing else of the warp differs. -/
structure Pushes (s : State) (e : Entry) (n : Nat) (w : Warp) : Prop where
  eq : s.push e = .ok (s.setWarp w)
  entries : w.entries = e :: s.warp.entries
  restacks : s.warp.Restacks w
  room : (s.setWarp w).RoomFor n

theorem State.exists_pushes {s : State} {n : Nat} (h : s.RoomFor (n + 1)) (e : Entry) : ∃ w, Pushes s e n w := by
  have hmapped {w : Warp} (hw : w.splits = s.warp.splits) (ha : AreaMapped s) : AreaMapped (s.setWarp w) :=
    ⟨ha.1, by rw [s.split_setWarp_same hw]; exact ha.2⟩
  by_cases hlen : s.warp.stack.length < 16
  · refine ⟨{ s.warp with stack := e :: s.warp.stack }, by simp [State.push, hlen], by simp [Warp.entries], rfl, ?_⟩
    unfold State.RoomFor at h ⊢
    rw [State.warp_setWarp]
    simp only [Warp.entries, List.length_cons, List.length_append] at h ⊢
    rcases h with h | ⟨-, h, ha⟩
    · exact .inl (by omega)
    · exact .inr ⟨by omega, by omega, hmapped rfl ha⟩
  · obtain ⟨hle, hroom, ha⟩ : s.warp.stack.length ≤ 16 ∧ s.warp.entries.length + (n + 1) ≤ 144 ∧ AreaMapped s := by
      rcases h with h | h
      · omega
      · exact h
    have hspill : s.stackAccess 1 s.warp.spill.length = .ok s := by
      simp [State.stackAccess, State.areaMeets_calm ha.1 ha.2]
    simp only [Warp.entries, List.length_append] at hroom
    refine ⟨{ s.warp with stack := (e :: s.warp.stack).take 16, spill := (e :: s.warp.stack).drop 16 ++ s.warp.spill },
      ?_, ?_, rfl, .inr ⟨?_, ?_, hmapped rfl ha⟩⟩
    · rw [State.push]
      simp only [if_neg hlen, if_neg (show ¬128 ≤ s.warp.spill.length by omega), hspill]
      rfl
    · simp only [Warp.entries, ← List.append_assoc, List.take_append_drop, List.cons_append]
    · rw [State.warp_setWarp]
      simp
    · rw [State.warp_setWarp]
      simp only [Warp.entries, List.length_append, List.length_take, List.length_drop, List.length_cons]
      omega

/-! ## The raise of the pc label (02 R24) -/

/-- What the raise of R24 by a label does: `r` is `s` but for the pc label and the entry pushed for it. -/
structure Raised (s r : State) (l : Label) : Prop where
  setWarp : ∀ w, r.setWarp w = s.setWarp w
  entries : KeepsEntries s r
  split : r.split = { s.split with pcl := r.split.pcl }
  others : ∀ i, i ≠ s.curSplit → r.warp.split i = s.warp.split i
  label : RaisesPcl s r l
  stack : r.warp.entries = raisedEntries s l
  rest : r.warp = { s.warp with
    ltab := r.warp.ltab, coarsen := r.warp.coarsen, stack := r.warp.stack, spill := r.warp.spill,
    splits := r.warp.splits }

section

variable {s r : State} {l : Label} {n : Nat}

theorem Raised.curSplit (h : Raised s r l) : r.curSplit = s.curSplit := by
  rw [← r.setWarp_curSplit r.warp, h.setWarp, State.setWarp_curSplit]

theorem Raised.cycle (h : Raised s r l) : r.cycle = s.cycle := by
  rw [← r.setWarp_cycle r.warp, h.setWarp, State.setWarp_cycle]

theorem Raised.owners (h : Raised s r l) : r.owners = s.owners := by
  have hctx (c : Nat) : r.ctxAt c = s.ctxAt c := by
    rw [← r.ctxAt_setWarp r.warp, h.setWarp, State.ctxAt_setWarp]
  rw [State.owners, State.ctx, hctx, h.rest]
  rfl

/-- A label within the pc label raises nothing. -/
theorem Raised.refl (hd : Label.dom s.pcl l = true) : Raised s s l where
  setWarp := fun _ => rfl
  entries := fun _ _ h => h
  split := rfl
  others := fun _ _ => rfl
  label := ⟨fun _ => rfl, fun h => absurd hd (by simp [h])⟩
  stack := by simp [raisedEntries, hd]
  rest := rfl

/-- A label that is not raises the pc label, after its entry has been pushed. -/
theorem Raised.of_pushes {w : Warp} (hd : Label.dom s.pcl l = false)
    (hp : Pushes s (.raise s.split.exec s.split.mode s.split.pcl) n w) :
    let u := s.setWarp w
    let t := (u.intern (s.pcl ||| l)).2.setSplit
      { (u.intern (s.pcl ||| l)).2.split with pcl := (u.intern (s.pcl ||| l)).1 }
    Raised s t l := by
  intro u t
  have hw := hp.restacks
  have howners : u.owners = s.owners := s.owners_setWarp (by rw [hw])
  have husplit : u.split = s.split := s.split_setWarp_same (by rw [hw])
  have hentry (i : Nat) : u.warp.entry u.owners i = s.warp.entry s.owners i := by
    rw [howners, State.warp_setWarp]
    exact Warp.entry_congr (by rw [hw]) ..
  obtain ⟨honly, hkeeps, hstands, hothers, hrest⟩ := u.setSplit_intern (s.pcl ||| l)
    { (u.intern (s.pcl ||| l)).2.split with pcl := (u.intern (s.pcl ||| l)).1 }
  change OnlyWarp u t at honly
  change t.warp = _ at hrest
  have hsplit : t.split = { s.split with pcl := (u.intern (s.pcl ||| l)).1 } := by
    rw [← husplit, ← u.split_intern (s.pcl ||| l)]
    exact State.split_setSplit ..
  have hstack : t.warp.entries = w.entries := by
    rw [hrest, State.warp_setWarp]
    rfl
  refine ⟨fun v => ?_, fun i x h => ?_, by rw [hsplit], fun i hi => ?_, ⟨fun h => absurd h (by simp [hd]), fun _ => ?_⟩,
    ?_, ?_⟩
  · rw [honly, State.setWarp_setWarp, State.setWarp_setWarp]
  · rw [← hentry] at h
    have := hkeeps i x h
    rwa [howners] at this
  · rw [hothers i hi, State.warp_setWarp, Warp.split, hw]
    rfl
  · obtain ⟨hexact, hdom⟩ := hstands
    simp only [hentry] at hexact
    rw [howners] at hdom
    rw [hsplit]
    exact ⟨hexact, hdom⟩
  · rw [hstack, hp.entries, raisedEntries, hd]
    rfl
  · rw [hrest, State.warp_setWarp]
    simp only
    rw [hw]

/-- Where the stack has room, the raise is done and leaves room for the rest. -/
theorem State.exists_raised (h : StackRoom s l n) : ∃ r, s.raise l = .ok r ∧ Raised s r l ∧ r.RoomFor n := by
  rw [stackRoom_iff] at h
  unfold State.raise
  cases hd : Label.dom s.pcl l with
  | true =>
    simp only [hd, if_true] at h ⊢
    exact ⟨s, rfl, .refl hd, h⟩
  | false =>
    simp only [hd, Bool.false_eq_true, if_false] at h ⊢
    obtain ⟨w, hp⟩ := State.exists_pushes h (.raise s.split.exec s.split.mode s.split.pcl)
    refine ⟨_, by rw [hp.eq]; rfl, .of_pushes hd hp, ?_⟩
    refine hp.room.congr ?_ ?_ rfl ?_
    · rw [State.warp_setSplit, State.intern_warp, State.warp_setWarp, Warp.intern_rest]; rfl
    · rw [State.warp_setSplit, State.intern_warp, State.warp_setWarp, Warp.intern_rest]; rfl
    · rw [State.split_setSplit, State.split_intern]

/-- A raise, and then a completion at `pc` in MODE `mode`. -/
theorem Raised.branches (h : Raised s r l) {x : Split} {pc : BitVec 57} {mode : BitVec 32}
    (hx : x = { r.split with
      pc := pc, mode := mode, safe := x.safe, last := s.cycle, declined := [], heldOn := [] }) :
    Branches s (r.setSplit x) l pc mode := by
  have hwarp : (r.setSplit x).warp = r.warp.setSplit s.curSplit x := by rw [State.warp_setSplit, h.curSplit]
  refine ⟨?_, fun i y hi => ?_, ?_, fun i hi => ?_, ?_, ?_, ?_⟩
  · rw [OnlyWarp, State.setSplit_eq, h.setWarp, State.warp_setWarp]
  · rw [hwarp]
    exact h.entries i y hi
  · rw [State.split_setSplit, hx, h.split]
  · rw [hwarp, Warp.split_setSplit_other _ _ hi, h.others i hi]
  · have hpcl : x.pcl = r.split.pcl := by rw [hx]
    unfold RaisesPcl Stands
    rw [State.split_setSplit, State.label_setSplit, hpcl]
    exact h.label
  · rw [hwarp]
    exact h.stack
  · rw [hwarp, Warp.setSplit]
    conv => lhs; rw [h.rest]

end

end Sys2Proof.Machine
end

section

namespace Sys2Proof.Machine

/-! ## What a trap of an instruction's own needs of its word (02 R28, 03 R33) -/

theorem sp_of_encodeNat {i : Instr} {p : Bool} {c x : Nat}
    (h : encodeNat i = c + p.toNat * 0x80000000 + x) (hx : c + x < 0x80000000) : i.sp = p := by
  rw [Instr.sp, Dec.bit, Dec.fld, h]
  cases p <;> simp <;> omega

/-- An instruction that reads one scalar register, and is not lane-wise. -/
theorem State.readLabel_of_scalar {s : State} {i : Instr} {a : SNum} (h : s.uses i = { sr := [a] }) :
    s.readLabel i = s.slbl a := by
  simp [State.readLabel, h, regsOf, joinLabels]

/-- An instruction that reads no register. -/
theorem State.readLabel_of_none {s : State} {i : Instr} (h : s.uses i = {}) : s.readLabel i = 0#16 := by
  simp [State.readLabel, h, regsOf, joinLabels]

/-- An instruction whose effect is a trap takes it. -/
theorem exec_of_trap {i : Instr} {s : State} {f : State → Eff State} {p : Bool} {c : Cause} {e : Word} {page : Bool}
    {l : Label} (hexec : exec i s = word i s f) (hready : s.Ready i) (hf : f s = .error (.trap c e page))
    (hl : s.readLabel i = l) (hsp : i.sp = p) : exec i s = .next (s.takeTrap c e l s.split.pc p page) := by
  rw [hexec, word_error hready hf, hl, hsp]
  rfl

theorem modeOk_iff (v : BitVec 16) : modeOk v = true ↔ fieldOf v 4 4 ≤ 12 ∧ fieldOf v 1 3 ≤ 4 := by
  simp [modeOk]

/-! ## MODE (04 R84) -/

/-- `mode` with a legal value and room for its raise: the raise, then the write of MODE. -/
theorem completes_mode {s : State} {p : Bool} {a : SNum} {v : BitVec 16} (hready : s.Ready (.mode p a))
    (hv : (s.sreg a).setWidth 16 = v) (hlegal : modeOk v = true) (hroom : StackRoom s (s.slbl a) 0) :
    Completes (.mode p a) s fun t => Branches s t (s.slbl a) (s.nextPc p) (v.setWidth 32) := by
  obtain ⟨r, hr, hraised, -⟩ := State.exists_raised hroom
  have hf : (if !modeOk v then .error (.trap .ill (wordOf (.mode p a)))
      else do
        let r ← s.raise (s.slbl a)
        pure ((r.setSplit { r.split with mode := v.setWidth 32 }).advance p) : Eff State) =
      .ok ((r.setSplit { r.split with mode := v.setWidth 32 }).advance p) := by
    rw [hlegal, hr]
    rfl
  refine completes_word (exec_mode ..) hready (by rw [← hf, ← hv]) ?_
  rw [State.advance_eq, State.setSplit_setSplit]
  refine hraised.branches ?_
  rw [State.split_setSplit, State.nextPc, State.split_setSplit, hraised.split, State.setSplit_cycle, hraised.cycle]
  rfl

/-- Settles O11: a legal value is written after the raise, any other traps. -/
theorem modeWritesAndRaises : Obligations.ModeWritesAndRaises := by
  unfold Obligations.ModeWritesAndRaises
  intro s p a v x legal
  have hill {m : BitVec 16} (h : ¬legal m) : modeOk m = false :=
    Bool.eq_false_iff.mpr fun hm => h ((modeOk_iff m).mp hm)
  refine ⟨fun hready hlegal hroom => completes_mode hready rfl ((modeOk_iff x).mpr hlegal) hroom,
    fun hready hlegal => ?_, fun hready hlegal => ?_, fun hready hlegal => ?_⟩
  · refine exec_of_trap (exec_mode ..) hready ?_ (State.readLabel_of_scalar rfl) (sp_of_encodeNat rfl ?_)
    · have hx : modeOk ((s.sreg a).setWidth 16) = false := hill hlegal
      simp [hx]
    · have := a.isLt
      omega
  · have hok := (modeOk_iff v).mpr hlegal
    refine completes_word (t := (s.setSplit { s.split with mode := v.setWidth 32 }).advance p) (exec_modei ..) hready
      (by simp [hok]) ?_
    rw [State.advance_eq, State.setSplit_setSplit]
    refine ⟨by simp [OnlyWarp, State.setSplit_eq], ?_, fun i hi => ?_, ?_⟩
    · simp [State.nextPc]
    · rw [State.warp_setSplit, Warp.split_setSplit_other _ _ hi]
    · rw [State.warp_setSplit]
      rfl
  · refine exec_of_trap (exec_modei ..) hready ?_ (State.readLabel_of_none rfl) (sp_of_encodeNat rfl ?_)
    · simp [hill hlegal]
    · have := v.isLt
      omega

/-! ## Branches, calls and jumps (04 R75, R77, R78) -/

theorem Raised.branches_jump {s r : State} {l : Label} (h : Raised s r l) (p : Bool) (pc : BitVec 57) :
    Branches s (r.jump p pc) l pc s.split.mode := by
  rw [State.jump_eq]
  refine h.branches ?_
  rw [h.split, h.cycle]

theorem Raised.branches_advance {s r : State} {l : Label} (h : Raised s r l) (p : Bool) :
    Branches s (r.advance p) l (s.nextPc p) s.split.mode := by
  have hpc : r.nextPc p = s.nextPc p := by rw [State.nextPc, h.split]; rfl
  rw [State.advance_eq, hpc]
  refine h.branches ?_
  rw [h.split, h.cycle]

/-- A uniform branch with room for its raise. -/
theorem State.exists_uniform {s : State} {l : Label} (h : StackRoom s l 0) (p taken : Bool) (o : BitVec 17) :
    ∃ t, uniform p l taken o s = .ok t ∧
      Branches s t l (if taken then s.split.pc + 4 * o.signExtend 57 else s.nextPc p) s.split.mode := by
  obtain ⟨r, hr, hraised, -⟩ := State.exists_raised h
  cases taken with
  | true => exact ⟨r.jump p (s.target o), by rw [uniform, hr]; rfl, hraised.branches_jump p _⟩
  | false => exact ⟨r.advance p, by rw [uniform, hr]; rfl, hraised.branches_advance p⟩

/-- A jump to a legal address with room for its raise. -/
theorem State.exists_jumpTo {s : State} {a : SNum} (h : StackRoom s (s.slbl a) 0) (p : Bool)
    (halign : (s.sreg a).toNat % 4 = 0) (hrange : (s.sreg a).toNat < 2 ^ 57) :
    ∃ t, jumpTo p a s = .ok t ∧ Branches s t (s.slbl a) ((s.sreg a).setWidth 57) s.split.mode := by
  obtain ⟨r, hr, hraised, -⟩ := State.exists_raised h
  refine ⟨r.jump p ((s.sreg a).setWidth 57), ?_, hraised.branches_jump p _⟩
  rw [jumpTo]
  have h0 : fieldOf (s.sreg a) 0 2 = 0 := by rw [fieldOf]; omega
  have h57 : fieldOf (s.sreg a) 57 7 = 0 := by rw [fieldOf]; omega
  simp only [h0, h57, hr, ne_eq, not_true, if_false]
  rfl

/-- A jump to an address that is not a multiple of 4, or beyond 57 bits. -/
theorem State.jumpTo_of_illegal {s : State} {a : SNum} (p : Bool) :
    ((s.sreg a).toNat % 4 ≠ 0 → jumpTo p a s = .error (.trap .align (s.sreg a) true)) ∧
      ((s.sreg a).toNat % 4 = 0 → 2 ^ 57 ≤ (s.sreg a).toNat → jumpTo p a s = .error (.trap .prot (s.sreg a) true)) := by
  have hlt := (s.sreg a).isLt
  unfold jumpTo fieldOf
  refine ⟨fun h => ?_, fun h h57 => ?_⟩
  · rw [if_pos (by omega)]
  · rw [if_neg (by omega), if_pos (by omega)]

/-- Settles O15: each is a raise and a completion at its target. -/
theorem branchesCallsAndJumpsSetThePc : Obligations.BranchesCallsAndJumpsSetThePc := by
  unfold Obligations.BranchesCallsAndJumpsSetThePc
  intro s p c a o target v legal
  have hsp (i : Instr) (hi : i = .jmpi p a ∨ i = .ret p a) : i.sp = p := by
    have := a.isLt
    rcases hi with rfl | rfl <;> exact sp_of_encodeNat rfl (by omega)
  refine ⟨fun hready hroom => ?_, fun hready hroom => ?_, fun hready => ?_, fun hready ⟨h4, h57⟩ hroom => ?_,
    fun hready ⟨h4, h57⟩ hroom => ?_, fun i hi hready => ⟨fun h4 => ?_, fun h4 h57 => ?_⟩⟩
  · obtain ⟨t, ht, hb⟩ := State.exists_uniform hroom p (s.sreg c = 0) o
    exact completes_word (exec_braZ ..) hready ht (by simpa [target] using hb)
  · obtain ⟨t, ht, hb⟩ := State.exists_uniform hroom p (s.sreg c ≠ 0) o
    exact completes_word (exec_braNz ..) hready ht (by simpa [target] using hb)
  · exact completes_word (exec_call ..) hready rfl (writesScalar_jump ..)
  · obtain ⟨t, ht, hb⟩ := State.exists_jumpTo hroom p h4 h57
    exact completes_word (exec_jmpi ..) hready ht hb
  · obtain ⟨t, ht, hb⟩ := State.exists_jumpTo hroom p h4 h57
    exact completes_word (exec_ret ..) hready ht hb
  · have hf := (State.jumpTo_of_illegal p).1 h4
    rcases hi with rfl | rfl
    · exact exec_of_trap (exec_jmpi ..) hready hf (State.readLabel_of_scalar rfl) (hsp _ (.inl rfl))
    · exact exec_of_trap (exec_ret ..) hready hf (State.readLabel_of_scalar rfl) (hsp _ (.inr rfl))
  · have hf := (State.jumpTo_of_illegal p).2 h4 h57
    rcases hi with rfl | rfl
    · exact exec_of_trap (exec_jmpi ..) hready hf (State.readLabel_of_scalar rfl) (hsp _ (.inl rfl))
    · exact exec_of_trap (exec_ret ..) hready hf (State.readLabel_of_scalar rfl) (hsp _ (.inr rfl))

end Sys2Proof.Machine
end

section

namespace Sys2Proof.Machine

/-! ## A split divided (04 R76, 05 R98) -/

/-- The lowest free slot for a split, or none where all four are live. -/
theorem Warp.freeSplit_eq_some {w : Warp} {i : Nat} (hi : i < 4) (hgone : (w.split i).st = .gone)
    (hlow : ∀ j < i, (w.split j).st ≠ .gone) : w.freeSplit = some i := by
  rw [Warp.freeSplit, List.find?_range_eq_some]
  exact ⟨by simp [hgone], List.mem_range.mpr hi, fun j hj => by simpa using hlow j hj⟩

theorem Warp.freeSplit_spec {w : Warp} {i : Nat} (h : w.freeSplit = some i) : i < 4 ∧ (w.split i).st = .gone := by
  rw [Warp.freeSplit, List.find?_range_eq_some] at h
  exact ⟨List.mem_range.mp h.2.1, by simpa using h.1⟩

theorem Warp.freeSplit_eq_none {w : Warp} (h : ∀ i < 4, (w.split i).st ≠ .gone) : w.freeSplit = none := by
  rw [Warp.freeSplit, List.find?_eq_none]
  exact fun i hi => by simpa using h i (List.mem_range.mp hi)

/-- The split of `r` that goes to `pc` with the lanes `m`. -/
def State.diverted (r : State) (pc : BitVec 57) (m : BitVec 32) (safe : Option (BitVec 32)) : Split :=
  { r.split with pc := pc, safe := safe, last := r.cycle, declined := [], heldOn := [], exec := m }

section

variable {s r : State} {w v : Warp} {l : Label} {e : Entry} {p : Bool} {t f : BitVec 32} {o : BitVec 17}

/-- The split that a completion at `pc` after a push leaves, with other lanes. -/
theorem Pushes.complete_exec (hp : Pushes r e 0 w) (p : Bool) (m : Option (BitVec 32)) (pc : BitVec 57) (t : BitVec 32) :
    ∃ safe, ((r.setWarp w).complete p m pc).setSplit { ((r.setWarp w).complete p m pc).split with exec := t } =
      r.setWarp (w.setSplit r.curSplit (r.diverted pc t safe)) := by
  have hsplit : (r.setWarp w).split = r.split := r.split_setWarp_same (by rw [hp.restacks])
  refine ⟨(r.setWarp w).safePoint p m, ?_⟩
  rw [State.complete, State.split_setSplit, State.setSplit_setSplit, hsplit, State.setSplit_eq, State.setWarp_setWarp,
    State.warp_setWarp]
  rfl

/-- A division where slot `i` is free: the new split takes it. -/
theorem divide_of_free {i : Nat} (hfree : r.warp.freeSplit = some i)
    (hp : Pushes r (.diverge r.split.exec r.split.mode r.split.pcl none none) 0 w) :
    ∃ safe, let y := r.diverted (r.target o) t safe
      divide p t f o r =
        .ok (r.setWarp ((w.setSplit r.curSplit y).setSplit i { y with exec := f, pc := r.nextPc p })) := by
  obtain ⟨safe, hsafe⟩ := hp.complete_exec p (r.setWarp w).maskWord (r.target o) t
  refine ⟨safe, ?_⟩
  rw [divide]
  simp only [hfree, hp.eq]
  have hpure (x : State) : (pure x : Eff State) = .ok x := rfl
  simp only [Bind.bind, Except.bind, hpure, hsafe]
  simp [State.split_setWarp]

/-- A division where none is: the lanes that fall through wait in the entry. -/
theorem divide_of_full (hfull : r.warp.freeSplit = none)
    (hp : Pushes r (.serial r.split.exec f (r.nextPc p) r.split.mode r.split.pcl none none false) 0 w) :
    ∃ safe, divide p t f o r = .ok (r.setWarp (w.setSplit r.curSplit (r.diverted (r.target o) t safe))) := by
  obtain ⟨safe, hsafe⟩ := hp.complete_exec p (r.setWarp w).maskWord (r.target o) t
  refine ⟨safe, ?_⟩
  rw [divide]
  simp only [hfull, hp.eq]
  exact congrArg Except.ok hsafe

/-- After a raise and a push, a state whose warp differs in its splits alone: the entries on the stack, the split that
issues, and its pc label. -/
theorem Raised.divides (h : Raised s r l) (hp : Pushes r e 0 w) (hv : v = { w with splits := v.splits }) {pc : BitVec 57}
    {m : BitVec 32} {safe : Option (BitVec 32)} (hy : v.split s.curSplit = r.diverted pc m safe) :
    let t := r.setWarp v
    OnlyWarp s t ∧ KeepsEntries s t ∧ RaisesPcl s t l ∧
      t.split = { s.split with
        pc := pc, exec := m, pcl := t.split.pcl, safe := t.split.safe, last := s.cycle, declined := [], heldOn := [] } ∧
      t.split.pcl = r.split.pcl ∧ t.warp.entries = e :: raisedEntries s l := by
  intro t
  have hltab : v.ltab = r.warp.ltab := by rw [hv, hp.restacks]
  have hctx : v.ctx = r.warp.ctx := by rw [hv, hp.restacks]
  have htwarp : t.warp = v := State.warp_setWarp ..
  have htsplit : t.split = r.diverted pc m safe := by rw [State.split_setWarp, h.curSplit, hy]
  have htlabel (i : LIdx) : t.label i = r.label i := by
    rw [State.label, State.label, r.owners_setWarp hctx, htwarp]
    exact Warp.label_congr hltab ..
  have hpcl : t.split.pcl = r.split.pcl := by rw [htsplit]; rfl
  refine ⟨?_, fun i x hx => ?_, ?_, ?_, hpcl, ?_⟩
  · rw [OnlyWarp, htwarp, ← h.setWarp]
  · rw [htwarp, Warp.entry_congr hltab]
    exact h.entries i x hx
  · unfold RaisesPcl Stands
    rw [hpcl, htlabel]
    exact h.label
  · rw [htsplit, State.diverted, h.split, h.cycle]
  · have hentries : v.entries = w.entries := by rw [hv]; rfl
    rw [htwarp, hentries, hp.entries, h.stack]

end

/-- Settles O16: a uniform branch, or the raise, then the push of the entry and the division. -/
theorem brdDividesTheSplit : Obligations.BrdDividesTheSplit := by
  unfold Obligations.BrdDividesTheSplit
  intro s p c o hready taken falls target l
  let effect : Eff State :=
    if taken = 0 || falls = 0 then uniform p (s.slbl c) (falls = 0) o s
    else do
      let r ← s.raise (s.slbl c)
      divide p taken falls o r
  refine ⟨fun hnone hroom => ?_, fun htaken hfalls hlive hroom => ?_⟩
  · obtain ⟨t, ht, hb⟩ := State.exists_uniform hroom p (falls = 0) o
    have heffect : effect = .ok t := by rw [← ht]; exact if_pos (by simpa using hnone)
    exact completes_word (exec_brd ..) hready heffect (by simpa [target] using hb)
  · obtain ⟨r, hr, hraised, hroom1⟩ := State.exists_raised hroom
    have heffect : effect = divide p taken falls o r := by
      refine (if_neg (by simpa using ⟨htaken, hfalls⟩)).trans ?_
      rw [hr]
      rfl
    have hst (j : Nat) : (r.warp.split j).st = (s.warp.split j).st := by
      by_cases hj : j = s.curSplit
      · have hsplit : r.warp.split j = r.split := by rw [State.split, hraised.curSplit, hj]
        rw [hsplit, hraised.split, hj]
        rfl
      · rw [hraised.others j hj]
    have hx : r.split.exec = s.split.exec ∧ r.split.mode = s.split.mode ∧ r.nextPc p = s.nextPc p ∧
        r.target o = target := by
      unfold State.nextPc State.target
      rw [hraised.split]
      exact ⟨rfl, rfl, rfl, rfl⟩
    obtain ⟨hexec, hmode, hnext, htarget⟩ := hx
    have hslot {i : Nat} (hi : i < 4) (hgone : (s.warp.split i).st = .gone) (hlow : ∀ j < i, (s.warp.split j).st ≠ .gone) :
        r.warp.freeSplit = some i :=
      Warp.freeSplit_eq_some hi ((hst i).trans hgone) fun j hj => by rw [hst]; exact hlow j hj
    have hkept {e : Entry} {w : Warp} (hp : Pushes r e 0 w) {j : Nat} (hj : j ≠ s.curSplit) :
        w.split j = s.warp.split j := by
      rw [hp.restacks, ← hraised.others j hj]
      rfl
    cases hfree : r.warp.freeSplit with
    | some i =>
      obtain ⟨w, hp⟩ := State.exists_pushes hroom1 (.diverge r.split.exec r.split.mode r.split.pcl none none)
      obtain ⟨safe, hsafe⟩ := divide_of_free (t := taken) (f := falls) (p := p) (o := o) hfree hp
      have hi := Warp.freeSplit_spec hfree
      have hcur : s.curSplit ≠ i := fun h => hlive (by rw [State.split, h, ← hst]; exact hi.2)
      let y := r.diverted (r.target o) taken safe
      let v := (w.setSplit r.curSplit y).setSplit i { y with exec := falls, pc := r.nextPc p }
      have hy : v.split s.curSplit = y := by
        rw [Warp.split_setSplit_other _ _ hcur, hraised.curSplit, Warp.split_setSplit_same]
      have hcurrent : (r.setWarp v).split = y := by rw [State.split_setWarp, hraised.curSplit, hy]
      obtain ⟨honly, hkeeps, hraises, hsplit, hpcl, hentries⟩ := hraised.divides hp rfl hy
      refine completes_word (exec_brd ..) hready (heffect.trans hsafe)
        ⟨honly, hkeeps, hraises, by rw [hsplit, htarget], fun k hk hgone hlow => ?_, fun hall => ?_⟩
      · obtain rfl : i = k := Option.some.inj (hfree.symm.trans (hslot hk hgone hlow))
        refine ⟨?_, fun j hj hjcur => ?_, ?_⟩
        · rw [hcurrent, State.warp_setWarp, Warp.split_setSplit_same, hnext]
        · rw [State.warp_setWarp, Warp.split_setSplit_other _ _ hj, hraised.curSplit,
            Warp.split_setSplit_other _ _ hjcur]
          exact hkept hp hjcur
        · rw [hentries, hpcl, hexec, hmode]
      · exact absurd ((hst i).symm.trans hi.2) (hall i hi.1)
    | none =>
      obtain ⟨w, hp⟩ := State.exists_pushes hroom1
        (.serial r.split.exec falls (r.nextPc p) r.split.mode r.split.pcl none none false)
      obtain ⟨safe, hsafe⟩ := divide_of_full (t := taken) (f := falls) (p := p) (o := o) hfree hp
      obtain ⟨honly, hkeeps, hraises, hsplit, hpcl, hentries⟩ := hraised.divides hp rfl
        (v := w.setSplit r.curSplit (r.diverted (r.target o) taken safe))
        (by rw [hraised.curSplit, Warp.split_setSplit_same])
      refine completes_word (exec_brd ..) hready (heffect.trans hsafe)
        ⟨honly, hkeeps, hraises, by rw [hsplit, htarget], fun k hk hgone hlow => ?_, fun hall => ⟨fun j hj => ?_, ?_⟩⟩
      · rw [hslot hk hgone hlow] at hfree
        cases hfree
      · rw [State.warp_setWarp, hraised.curSplit, Warp.split_setSplit_other _ _ hj]
        exact hkept hp hj
      · rw [hentries, hpcl, hexec, hmode, hnext]

end Sys2Proof.Machine
end

section

namespace Sys2Proof.Machine

/-! ## Label instructions (04 R85 to R88) -/

theorem Label.dom_iff (own l : Label) : Label.dom own l = true ↔ l &&& ~~~own = 0#16 := by
  simp [Label.dom]

/-- An instruction that writes a value and its label in each participating lane. -/
theorem putsLanes_of_setV {i : Instr} {s : State} {f : State → Eff State} {p : Bool} {d : VNum} {v : Nat → Nat}
    {lb : Nat → Label} (hexec : exec i s = word i s f)
    (hf : f s = .ok ((s.lanes.foldl (fun r l => r.setV false d.toNat l (v l) (lb l)) s).advance p)) :
    PutsLanes i s p d v lb := fun hready =>
  completes_word hexec hready hf (writesLanes_fold s p false d v lb s.lanes (fun _ h => State.lanes_lt h) s.lanes_nodup)

/-- Settles O12: each instruction writes one register, or one register of every lane. -/
theorem labelInstructionsReadAndJoin : Obligations.LabelInstructionsReadAndJoin := by
  unfold Obligations.LabelInstructionsReadAndJoin
  intro s p d a b vd va la added g lv
  refine ⟨?lget, ?lgetV, ?ljoin, ?ljoinV, ?lchk⟩
  case lget => exact puts_of_setS (exec_lget ..) rfl
  case lgetV => exact putsLanes_of_setV (exec_lgetV ..) rfl
  case ljoin => exact puts_of_setS (exec_ljoin ..) rfl
  case ljoinV => exact putsLanes_of_setV (exec_ljoinV ..) rfl
  case lchk =>
    have hdom : (if la &&& ~~~((s.sreg b).setWidth 16) = 0#16 then (1 : Word) else 0) =
        if Label.dom ((s.sreg b).setWidth 16) la then 1 else 0 := if_congr (Label.dom_iff ..).symm rfl rfl
    rw [hdom]
    exact puts_of_setS (exec_lchk ..) rfl

/-! ## `ltcompact` (04 R88) -/

theorem Sparse.look_filter {V : Type} (q : Nat → Bool) (k : Nat) (l : List (Nat × V)) :
    Sparse.look k (l.filter fun e => q e.1) = if q k then Sparse.look k l else none := by
  induction l with
  | nil => simp [Sparse.look]
  | cons e t ih =>
    obtain ⟨j, v⟩ := e
    by_cases hj : j = k
    · subst hj
      cases hq : q j <;> simp [hq, Sparse.look, ih]
    · cases hq : q j <;> simp [hq, Sparse.look, ih, hj]

/-- The indices that R88 names. -/
theorem Warp.mem_referenced {w : Warp} {i : LIdx} :
    i ∈ w.referenced ↔ (∃ e ∈ w.sregs.entries, e.2.lbl = i) ∨ (∃ e ∈ w.vregs.entries, e.2.lbl = i) ∨
      (∃ e ∈ w.liveSplits, e.2.pcl = i ∨ e.2.elbl = i) ∨ (∃ e ∈ w.entries, e.pcl = i) ∨ w.flbl = i := by
  have hsplits : i ∈ (w.liveSplits.map fun e => [e.2.pcl, e.2.elbl]).flatten ↔
      ∃ e ∈ w.liveSplits, e.2.pcl = i ∨ e.2.elbl = i := by
    simp [List.mem_flatten, eq_comm]
  simp only [Warp.referenced, List.mem_append, List.mem_map, hsplits, List.mem_singleton, or_assoc, eq_comm]

/-- What the compaction leaves of an entry. -/
theorem Warp.ltab_compact (w : Warp) (i : Nat) :
    w.compact.ltab.get none i = if BitVec.ofNat 4 i ∈ w.referenced then w.ltab.get none i else none := by
  rw [Warp.compact, Sparse.get, Sparse.look_filter fun k => w.referenced.contains (BitVec.ofNat 4 k)]
  by_cases h : BitVec.ofNat 4 i ∈ w.referenced <;> simp [h, Sparse.get]

theorem Warp.writePending_iff {w : Warp} :
    w.writePending = true ↔ w.loads ≠ [] ∨ ∃ e ∈ w.liveSplits, e.2.willWrite = true := by
  simp [Warp.writePending]

/-- A split that waits at its instruction: nothing else of the warp differs (05 R102). -/
structure Waits (s t : State) (w : Wait) : Prop where
  only : OnlyWarp s t
  st : t.split.st = .swait w
  pc : t.split.pc = s.split.pc
  rest : t.warp = { s.warp with splits := t.warp.splits }

theorem State.await_waits (s : State) (w : Wait) (p : Bool) (ops : Label) : Waits s (s.await w p ops) w where
  only := by simp [OnlyWarp, State.await, State.setSplit_eq]
  st := by simp [State.await]
  pc := by simp [State.await]
  rest := by rw [State.await, State.warp_setSplit]; rfl

/-- Settles O13: where no register write is pending the table is filtered; else the split waits. -/
theorem ltcompactFreesUnreferencedEntries : Obligations.LtcompactFreesUnreferencedEntries := by
  unfold Obligations.LtcompactFreesUnreferencedEntries
  intro s p hready w pending named
  refine ⟨fun hnone => ?_, fun hpending => ?_⟩
  · have hcalm : ¬s.warp.writePending = true := fun h => hnone (Warp.writePending_iff.mp h)
    obtain ⟨honly, hgoes, hrest⟩ := advance_setWarp (s := s) (w := w.compact) (p := p) rfl
    have htab (i : Nat) : ((s.setWarp w.compact).advance p).warp.ltab.get none i =
        if BitVec.ofNat 4 i ∈ w.referenced then w.ltab.get none i else none := by
      rw [hrest]
      exact w.ltab_compact i
    refine completes_word (exec_ltcompact ..) hready (if_neg hcalm)
      ⟨honly, hgoes, fun i _ _ => ⟨fun h => ?_, fun h => ?_⟩, ?_⟩
    · rw [htab, if_pos (Warp.mem_referenced.mpr h)]
    · rw [htab, if_neg fun hmem => h (Warp.mem_referenced.mp hmem)]
    · rw [hrest]
      rfl
  · refine completes_word (exec_ltcompact ..) hready (if_pos (Warp.writePending_iff.mpr hpending)) ?_
    have h := s.await_waits .ltcompact p 0#16
    exact ⟨h.only, h.st, h.pc, h.rest⟩

end Sys2Proof.Machine
end

section

namespace Sys2Proof.Machine

/-! ## Special registers (04 R82, R83) -/

/-- An instruction that reads no register and writes one. -/
theorem State.readLabel_of_writes {s : State} {i : Instr} {d : SNum} (h : s.uses i = { sw := [d] }) :
    s.readLabel i = 0#16 := by
  simp [State.readLabel, h, regsOf, joinLabels]

theorem trapReg_eq_false {n : BitVec 12} (h : n.toNat < 0x010) : trapReg n = false := by
  simp [trapReg]
  omega

theorem trapReg_eq_true {n : BitVec 12} (hlow : 0x010 ≤ n.toNat) (hhigh : n.toNat ≤ 0x015) : trapReg n = true := by
  simp [trapReg, hlow, hhigh]

/-- With the privilege that the register asks for, the read completes. -/
theorem completes_sread {s : State} {p : Bool} {d : SNum} {n : BitVec 12} (hready : s.Ready (.sread p d n))
    (hpriv : s.split.priv = true ∨ n.toNat < 0x010) : Completes (.sread p d n) s fun t =>
      WritesScalar s t (s.nextPc p) d (s.special n) (s.specialLbl n) none := by
  have hallowed : ¬(trapReg n && !s.split.priv) = true := by
    rcases hpriv with h | h
    · simp [h]
    · simp [trapReg_eq_false h]
  exact completes_word (exec_sread ..) hready (if_neg hallowed) (writesScalar_setS s p d _ _)

/-- Without it, the read traps PRIV. -/
theorem exec_sread_of_trapReg {s : State} {p : Bool} {d : SNum} {n : BitVec 12} (hready : s.Ready (.sread p d n))
    (htrap : trapReg n = true) (hpriv : s.split.priv = false) :
    exec (.sread p d n) s = .next (s.takeTrap .priv (wordOf (.sread p d n)) 0#16 s.split.pc p) := by
  refine exec_of_trap (exec_sread ..) hready (if_pos (by simp [htrap, hpriv])) (State.readLabel_of_writes rfl) ?_
  refine sp_of_encodeNat (c := 0x03000000) (x := d.toNat * 0x10000 + n.toNat) ?_ (by omega)
  rw [← Nat.add_assoc]
  rfl

theorem State.setWarp_setS (s : State) (d : SNum) (v : Word) (l : Label) (w : Warp) :
    (s.setS d v l).setWarp w = s.setWarp w := by
  by_cases hd : d = 0
  · simp [State.setS, hd]
  · rw [s.setS_warp d v l hd, State.setWarp_setWarp]

theorem State.warp_setS (s : State) (d : SNum) (v : Word) (l : Label) :
    (s.setS d v l).warp = s.warp.putS s.owners d v l := by
  by_cases hd : d = 0
  · simp [State.setS, Warp.putS, hd]
  · rw [s.setS_warp d v l hd, State.warp_setWarp]

/-- What a state has that a register was written in holds of one that differs in COARSEN and the split's bookkeeping. -/
theorem writesScalar_congr {s t u : State} {pc : BitVec 57} {d : SNum} {v : Word} {l : Label}
    (h : WritesScalar s t pc d v l none) (honly : OnlyWarp s u) (hnext : GoesTo s u pc)
    (hw : u.warp = { t.warp with coarsen := u.warp.coarsen, splits := u.warp.splits }) :
    WritesScalar s u pc d v l none := by
  have hctx : t.warp.ctx = s.warp.ctx := by rw [h.rest]
  have hown : u.owners = t.owners := by
    rw [State.owners_of_only honly (by rw [hw, hctx]), State.owners_of_only h.only hctx]
  have hsregs : u.warp.sregs = t.warp.sregs := by rw [hw]
  have hltab : u.warp.ltab = t.warp.ltab := by rw [hw]
  have hsreg : u.sreg d = t.sreg d := by simp [State.sreg, hsregs]
  have hslbl : u.slbl d = t.slbl d := by
    simp only [State.slbl, State.label, hown, hsregs, Warp.label_congr hltab]
  refine ⟨honly, hnext, ?_, ?_, ?_, ?_, ?_, ?_, ?_, ?_, ?_⟩
  · rw [hsreg]; exact h.value
  · rw [hslbl]; exact h.label
  · rw [hslbl]; exact h.dominates
  · rw [hsregs]; exact h.discarded
  · rw [hsregs]; exact h.others
  · intro i x hx
    rw [Warp.entry_congr hltab]
    exact h.entries i x hx
  · rw [hw]; exact h.flags
  · rw [hw]; exact h.flbl
  · rw [hw, h.rest]

theorem Warp.coarsen_intern_le (w : Warp) (own l : Label) : w.coarsen.toNat ≤ (w.intern own l).2.coarsen.toNat := by
  unfold Warp.intern
  split
  · exact Nat.le_refl _
  · split
    · exact Nat.le_refl _
    · by_cases h : w.coarsen = 0xFFFFFFFF#32
      · simp [h]
      · simp only [h, if_false]
        bv_omega

theorem Warp.coarsen_putS_le (w : Warp) (own : Label) (d : SNum) (v : Word) (l : Label) :
    w.coarsen.toNat ≤ (w.putS own d v l).coarsen.toNat := by
  unfold Warp.putS
  split
  · exact Nat.le_refl _
  · exact w.coarsen_intern_le own l

/-- What `sread.clr` does: it traps, or reads the register and clears it. -/
theorem exec_sreadClr_of_ill {s : State} {p : Bool} {d : SNum} (hready : s.Ready (.sreadClr p d 0x010#12))
    (hpriv : s.split.priv = true) (hill : s.split.eh = false ∨ s.split.ecause.toNat = Cause.trapi.code) :
    exec (.sreadClr p d 0x010#12) s =
      .next (s.takeTrap .ill (wordOf (.sreadClr p d 0x010#12)) 0#16 s.split.pc p) := by
  refine exec_of_trap (exec_sreadClr ..) hready ?_ (State.readLabel_of_writes rfl) ?_
  · exact (if_neg (by simp [hpriv])).trans (if_pos (by simpa using hill))
  · refine sp_of_encodeNat (c := 0x03008000) (x := d.toNat * 0x10000 + (0x010#12).toNat) ?_ (by omega)
    rw [← Nat.add_assoc]
    rfl

theorem completes_sreadClr {s : State} {p : Bool} {d : SNum} {n : BitVec 12} (hready : s.Ready (.sreadClr p d n))
    (hpriv : s.split.priv = true ∨ n.toNat < 0x010)
    (hepc : n ≠ 0x010 ∨ s.split.eh = true ∧ s.split.ecause.toNat ≠ Cause.trapi.code) {P : State → Prop}
    (hP : P (((s.setS d (s.special n) (s.specialLbl n)).clearSpecial n).advance p)) :
    Completes (.sreadClr p d n) s P := by
  refine completes_word (exec_sreadClr ..) hready ((if_neg ?_).trans (if_neg ?_)) hP
  · rcases hpriv with h | h
    · simp [h]
    · simp [trapReg_eq_false h]
  · rcases hepc with h | ⟨heh, hcause⟩
    · simpa using fun he => absurd he h
    · simp [heh, hcause]

theorem State.warp_advance_setS (s : State) (p : Bool) (d : SNum) (v : Word) (l : Label) :
    ((s.setS d v l).advance p).warp =
      { (s.setS d v l).warp with splits := ((s.setS d v l).advance p).warp.splits } :=
  (advance_goes (s.setS d v l) p).rest

theorem State.splits_setS (s : State) (d : SNum) (v : Word) (l : Label) :
    (s.setS d v l).warp.splits = s.warp.splits := by
  rw [s.warp_setS, Warp.putS_rest]

/-- FLAGS and FLBL cleared: but for them, the read alone. -/
theorem writesScalar_clearFlags (s : State) (p : Bool) (d : SNum) (v : Word) (l : Label) :
    let t := ((s.setS d v l).clearSpecial 0x001#12).advance p
    WritesScalar s (t.setWarp { t.warp with flags := s.warp.flags, flbl := s.warp.flbl }) (s.nextPc p) d v l none ∧
      t.warp.flags = 0 ∧ t.warp.flbl = 0 ∧ t.warp.coarsen.toNat ≥ s.warp.coarsen.toNat := by
  intro t
  have ht : t = (s.setWarp { (s.setS d v l).warp with flags := 0, flbl := 0 }).advance p :=
    congrArg (State.advance · p) (s.setWarp_setS ..)
  obtain ⟨honly, hnext, hrest⟩ := advance_setWarp (s := s) (p := p)
    (w := { (s.setS d v l).warp with flags := 0, flbl := 0 }) (s.splits_setS ..)
  rw [← ht] at honly hnext hrest
  clear_value t
  refine ⟨writesScalar_congr (writesScalar_setS s p d v l) ?_ ⟨?_, ?_⟩ ?_, ?_, ?_, ?_⟩
  · rw [OnlyWarp, State.warp_setWarp]
    exact (congrArg (State.setWarp · _) honly).trans (State.setWarp_setWarp ..)
  · rw [State.split_setWarp]
    exact hnext.split
  · rw [State.warp_setWarp]
    exact hnext.others
  · have hflags : (s.setS d v l).warp.flags = s.warp.flags ∧ (s.setS d v l).warp.flbl = s.warp.flbl := by
      rw [s.warp_setS, Warp.putS_rest]
      exact ⟨rfl, rfl⟩
    rw [State.warp_setWarp, hrest, s.warp_advance_setS, ← hflags.1, ← hflags.2]
  · rw [hrest]
  · rw [hrest]
  · rw [hrest]
    simp only [s.warp_setS]
    exact s.warp.coarsen_putS_le ..

/-- COARSEN cleared. -/
theorem writesScalar_clearCoarsen (s : State) (p : Bool) (d : SNum) (v : Word) (l : Label) :
    let t := ((s.setS d v l).clearSpecial 0x002#12).advance p
    WritesScalar s t (s.nextPc p) d v l none ∧ t.warp.coarsen = 0 := by
  intro t
  have ht : t = (s.setWarp { (s.setS d v l).warp with coarsen := 0 }).advance p :=
    congrArg (State.advance · p) (s.setWarp_setS ..)
  obtain ⟨honly, hnext, hrest⟩ := advance_setWarp (s := s) (p := p)
    (w := { (s.setS d v l).warp with coarsen := 0 }) (s.splits_setS ..)
  rw [← ht] at honly hnext hrest
  refine ⟨writesScalar_congr (writesScalar_setS s p d v l) honly hnext ?_, by rw [hrest]⟩
  rw [hrest, s.warp_advance_setS]

/-- EPC advanced: but for it, the read alone. -/
theorem writesScalar_clearEpc (s : State) (p : Bool) (d : SNum) (v : Word) (l : Label) :
    let t := ((s.setS d v l).clearSpecial 0x010#12).advance p
    WritesScalar s (t.setSplit { t.split with epc := s.split.epc }) (s.nextPc p) d v l none ∧
      t.split.epc = s.split.epc + (if s.split.elen8 then 8 else 4) := by
  intro t
  let w := (s.setS d v l).warp
  let x : Split := { s.split with epc := s.split.epc + (if s.split.elen8 then 8 else 4) }
  let u := s.setWarp (w.setSplit s.curSplit x)
  have ht : t = u.advance p := by
    have hclear : (s.setS d v l).clearSpecial 0x010#12 = u := by
      change (s.setS d v l).setSplit { (s.setS d v l).split with
        epc := (s.setS d v l).split.epc + (if (s.setS d v l).split.elen8 then 8 else 4) } = u
      rw [State.setS_split, State.setSplit_eq, s.setWarp_setS, State.setS_curSplit]
    exact congrArg (State.advance · p) hclear
  have hx : u.split = x := by rw [State.split_setWarp, Warp.split_setSplit_same]
  obtain ⟨honly, hnext, hrest⟩ := advance_goes u p
  rw [← ht] at honly hnext hrest
  clear_value t
  have hepc : t.split.epc = x.epc := by rw [hnext.split, hx]
  have hcur : t.curSplit = s.curSplit := by rw [honly]; rfl
  have hwarp : u.warp = w.setSplit s.curSplit x := s.warp_setWarp _
  refine ⟨writesScalar_congr (writesScalar_setS s p d v l) ?_ ⟨?_, fun i hi => ?_⟩ ?_, hepc⟩
  · rw [OnlyWarp, State.warp_setSplit, State.setSplit_eq]
    exact (congrArg (State.setWarp · _) honly).trans (by rw [State.setWarp_setWarp, State.setWarp_setWarp])
  · have hpc : u.nextPc p = s.nextPc p := by rw [State.nextPc, hx, State.nextPc]
    rw [State.split_setSplit, hnext.split, hx, hpc]
    rfl
  · rw [State.warp_setSplit, hcur, Warp.split_setSplit_other _ _ hi, hnext.others i hi, hwarp,
      Warp.split_setSplit_other _ _ hi, Warp.split, State.splits_setS]
    rfl
  · rw [State.warp_setSplit, hrest, hwarp, s.warp_advance_setS]
    rfl

/-- Settles O19: the reads and clears by their registers, the traps by the checks before them. -/
theorem specialRegistersReadAndClear : Obligations.SpecialRegistersReadAndClear := by
  unfold Obligations.SpecialRegistersReadAndClear
  refine ⟨fun s p d => ?reads, fun s p d => ?clears, fun s p d v n => ⟨?swid, ?vwid⟩⟩
  case reads =>
    intro x reads
    refine ⟨completes_sread, completes_sread, completes_sread, completes_sread, completes_sread, completes_sread,
      completes_sread, completes_sread, completes_sread, completes_sread, completes_sread, completes_sread,
      completes_sread, completes_sread, completes_sread, completes_sread, completes_sread, ?_⟩
    exact fun n hlow hhigh hpriv hready => exec_sread_of_trapReg hready (trapReg_eq_true hlow hhigh) hpriv
  case clears =>
    intro x i
    refine ⟨fun hready => ?flags, fun hready => ?coarsen, fun hready hpriv heh hcause => ?epc, fun hready => ?_⟩
    case flags =>
      exact completes_sreadClr hready (.inr (by decide)) (.inl (by decide)) (writesScalar_clearFlags ..)
    case coarsen =>
      obtain ⟨hw, hc⟩ := writesScalar_clearCoarsen s p d (s.special 0x002#12) s.owners
      exact completes_sreadClr hready (.inr (by decide)) (.inl (by decide))
        ⟨hw, fun hd => hw.label hd (.inl ⟨15, by decide, s.warp.entry_fifteen _⟩), hc⟩
    case epc =>
      exact completes_sreadClr hready (.inl hpriv) (.inr ⟨heh, hcause⟩) (writesScalar_clearEpc ..)
    exact exec_sreadClr_of_ill hready
  case swid => exact puts_of_setS (exec_swid ..) rfl
  case vwid =>
    exact putsLanes_of_setV (exec_vwid ..) rfl

end Sys2Proof.Machine
end

section

namespace Sys2Proof

theorem Sparse.mem_iff_get {V : Type} [DecidableEq V] {m : Sparse V} {d : V} (h : m.wf d = true) {k : Nat} {v : V}
    (hv : v ≠ d) : (k, v) ∈ m.entries ↔ m.get d k = v := by
  simp only [Sparse.wf, Bool.and_eq_true, decide_eq_true_eq] at h
  rw [← Sparse.look_eq_some_iff h.1, Sparse.get]
  cases hl : Sparse.look k m.entries with
  | none => simpa using hv.symm
  | some w => simp

/-- A key just written with a value that is not the default is listed. -/
theorem Sparse.mem_set_same {V : Type} [DecidableEq V] (m : Sparse V) {d v : V} (k : Nat) (hv : v ≠ d) :
    (k, v) ∈ (m.set d k v).entries := by
  refine Sparse.mem_of_look ?_
  have hget := m.get_set_same d k v
  rw [Sparse.get] at hget
  cases hl : Sparse.look k (m.set d k v).entries with
  | none => rw [hl] at hget; exact absurd hget.symm hv
  | some w => rw [hl] at hget; exact congrArg some hget

end Sys2Proof

namespace Sys2Proof.Machine

/-! ## The entries after `join` (05 R100) -/

theorem find?_of_unique {α : Type} {q : α → Bool} {e : α} {l : List α} (he : e ∈ l) (hq : q e = true)
    (hunique : ∀ a ∈ l, q a = true → a = e) : l.find? q = some e := by
  cases h : l.find? q with
  | none => exact absurd hq (by simpa using List.find?_eq_none.mp h e he)
  | some a => rw [hunique a (List.mem_of_find?_eq_some h) (List.find?_some h)]

section

variable {α : Type} [BEq α] [LawfulBEq α] {q : α → Bool} {e f : α} {l : List α}

/-- The entry found first, among others that do not fit. -/
theorem replace_first (h : l.find? q = some e) :
    ∃ as bs, l = as ++ e :: bs ∧ l.replace e f = as ++ f :: bs ∧ ∀ a ∈ as, q a = false := by
  obtain ⟨he, as, bs, rfl, hq⟩ := List.find?_eq_some_iff_append.mp h
  have hnone : ∀ a ∈ as, q a = false := fun a ha => by simpa using hq a ha
  have hmem : e ∉ as := fun hm => by simp [hnone e hm] at he
  exact ⟨as, bs, rfl, by rw [List.replace_append_right hmem, List.replace_cons_self], hnone⟩

theorem find?_replace_first (h : l.find? q = some e) (hf : q f = true) : (l.replace e f).find? q = some f := by
  obtain ⟨as, bs, -, hr, hnone⟩ := replace_first (f := f) h
  rw [hr, List.find?_eq_some_iff_append]
  exact ⟨hf, as, bs, rfl, fun a ha => by simp [hnone a ha]⟩

theorem erase_replace_first (h : l.find? q = some e) (hf : q f = true) : (l.replace e f).erase f = l.erase e := by
  obtain ⟨as, bs, rfl, hr, hnone⟩ := replace_first (f := f) h
  have hmem {a : α} (ha : q a = true) : a ∉ as := fun hm => by simp [hnone a hm] at ha
  rw [hr, List.erase_append_right _ (hmem hf), List.erase_append_right _ (hmem (List.find?_some h)),
    List.erase_cons_head, List.erase_cons_head]

theorem replace_same : l.replace e e = l := by
  induction l with
  | nil => rfl
  | cons a t ih =>
    by_cases ha : e = a
    · rw [ha, List.replace_cons_self]
    · rw [List.replace_cons, beq_false_of_ne ha, ih]

end

/-! ## The splits that wait for an entry (05 R100) -/

theorem and_not_eq_zero_iff {m c : BitVec 32} :
    m &&& ~~~c = 0#32 ↔ ∀ l, m.getLsbD l = true → c.getLsbD l = true := by
  constructor
  · intro h l hm
    have hl := congrArg (BitVec.getLsbD · l) h
    have hlt := BitVec.lt_of_getLsbD hm
    simpa [hm, hlt] using hl
  · intro h
    refine BitVec.eq_of_getLsbD_eq fun l hl => ?_
    cases hm : m.getLsbD l
    · simp [hm]
    · simp [hm, h l hm]

theorem getLsbD_foldl_or (js : List (Nat × Split)) (c : BitVec 32) (l : Nat) :
    (js.foldl (fun c p => c ||| p.2.exec) c).getLsbD l = true ↔
      c.getLsbD l = true ∨ ∃ p ∈ js, p.2.exec.getLsbD l = true := by
  induction js generalizing c with
  | nil => simp
  | cons p t ih => simp [ih, or_assoc]

theorem Warp.merges_iff {w : Warp} {m mode : BitVec 32} {pcl : LIdx} {rpc : BitVec 57} {rm : Option (BitVec 32)} :
    w.merges (.diverge m mode pcl (some rpc) rm) = true ↔
      ∀ l, m.getLsbD l = true → ∃ p ∈ w.joiners (.diverge m mode pcl (some rpc) rm), p.2.exec.getLsbD l = true := by
  simp [Warp.merges, and_not_eq_zero_iff, getLsbD_foldl_or]

theorem Warp.mem_joiners {w : Warp} {e : Entry} {p : Nat × Split} :
    p ∈ w.joiners e ↔ p ∈ w.splits.entries ∧ p.2.st = .jwait ∧ w.top p.2.exec = some e := by
  simp [Warp.joiners]

theorem Warp.top_eq_some {w : Warp} {lanes : BitVec 32} {e : Entry} (h : w.top lanes = some e) :
    e ∈ w.entries ∧ (lanes &&& ~~~e.mask == 0) = true :=
  ⟨List.mem_of_find?_eq_some h, List.find?_some (p := fun (e : Entry) => lanes &&& ~~~e.mask == 0) h⟩

/-- Where no refill is needed, or each completes, an entry is within reach (05 R103). -/
theorem State.reach_of_mem {s : State} {e : Entry} (h : s.warp.spill = [] ∨ AreaReads s) (he : e ∈ s.warp.entries) :
    s.reach e = .ok s := by
  rcases h with h | ⟨⟨hc, hd⟩, hp⟩
  · exact State.reach_core (by simpa [Warp.entries, h] using he)
  · exact State.reach_calm hc hd hp e

/-! ## `join` (04 R79, 05 R100) -/

/-- A `join` whose entry is within reach does what the entry says. -/
theorem completes_join {s : State} {p : Bool} {e : Entry} {P : State → Prop} (hready : s.Ready (.join p))
    (hreach : s.warp.spill = [] ∨ AreaReads s) (htop : s.warp.top s.split.exec = some e) (hP : P (joinEntry p e s)) :
    Completes (.join p) s P := by
  refine completes_word (exec_join ..) hready ?_ hP
  rw [joinAt, htop]
  simp only [State.reach_of_mem hreach (Warp.top_eq_some htop).1]
  rfl

theorem Warp.popEntry_restacks (w : Warp) (e : Entry) : w.Restacks (w.popEntry e) := by
  unfold Warp.popEntry Warp.Restacks
  split <;> rfl

theorem Warp.swapEntry_restacks (w : Warp) (e f : Entry) : w.Restacks (w.swapEntry e f) := by
  unfold Warp.swapEntry Warp.Restacks
  split <;> rfl

/-- The split goes on at `pc` with another stack, and then with fields of its own changed. -/
structure GoesOn (s t : State) (w : Warp) (pc : BitVec 57) (y : Split → Split) : Prop where
  only : OnlyWarp s t
  split : ∃ safe, t.split =
    y { s.split with pc := pc, safe := safe, last := s.cycle, declined := [], heldOn := [] }
  entries : t.warp.entries = w.entries

theorem State.goesOn_jump {s : State} {w : Warp} (hw : s.warp.Restacks w) (p : Bool) (pc : BitVec 57)
    (y : Split → Split) :
    let r := (s.setWarp w).jump p pc
    GoesOn s (r.setSplit (y r.split)) w pc y := by
  intro r
  obtain ⟨honly, hgoes, hrest⟩ := complete_setWarp (s := s) (w := w) (p := p) (m := (s.setWarp w).maskWord) (pc := pc)
    (by rw [hw])
  have hr : (s.setWarp w).complete p (s.setWarp w).maskWord pc = r := rfl
  rw [hr] at honly hgoes hrest
  clear_value r
  refine ⟨?_, ⟨r.split.safe, ?_⟩, ?_⟩
  · rw [OnlyWarp, State.warp_setSplit, State.setSplit_eq]
    exact (congrArg (State.setWarp · _) honly).trans (State.setWarp_setWarp ..)
  · rw [State.split_setSplit]
    exact congrArg y hgoes.split
  · rw [State.warp_setSplit, hrest]
    rfl

section

variable (s : State) (p : Bool) (m mode : BitVec 32) (pcl : LIdx)

theorem joinEntry_raise :
    GoesOn s (joinEntry p (.raise m mode pcl) s) (s.warp.popEntry (.raise m mode pcl)) (s.nextPc p)
      fun x => { x with mode := mode, pcl := pcl } := by
  have hpop := s.warp.popEntry_restacks (.raise m mode pcl)
  have hpc : (s.setWarp (s.warp.popEntry (.raise m mode pcl))).nextPc p = s.nextPc p := by
    rw [State.nextPc, s.split_setWarp_same (by rw [hpop]), State.nextPc]
  rw [← hpc]
  exact State.goesOn_jump hpop p _ fun x => { x with mode := mode, pcl := pcl }

variable (pend : BitVec 32) (pendPc : BitVec 57) (rpc : Option (BitVec 57)) (rm : Option (BitVec 32))

/-- The lanes that waited go first to the other side. -/
theorem joinEntry_serial_first (hleft : pend &&& m ≠ 0) :
    GoesOn s (joinEntry p (.serial m pend pendPc mode pcl rpc rm false) s)
      (s.warp.swapEntry (.serial m pend pendPc mode pcl rpc rm false)
        (.serial m pend pendPc mode pcl (some s.split.pc) (s.ownMask p) true)) pendPc
      fun x => { x with exec := pend &&& m, mode := mode, pcl := pcl } := by
  have hjoin : joinEntry p (.serial m pend pendPc mode pcl rpc rm false) s =
      let r := (s.setWarp (s.warp.swapEntry (.serial m pend pendPc mode pcl rpc rm false)
        (.serial m pend pendPc mode pcl (some s.split.pc) (s.ownMask p) true))).jump p pendPc
      r.setSplit { r.split with exec := pend &&& m, mode := mode, pcl := pcl } := if_pos (by simpa using hleft)
  rw [hjoin]
  exact State.goesOn_jump (s.warp.swapEntry_restacks ..) p pendPc
    fun x => { x with exec := pend &&& m, mode := mode, pcl := pcl }

/-- Both sides done, the lanes go on together. -/
theorem joinEntry_serial_last (ph : Bool) (hlast : ph = true ∨ pend &&& m = 0) :
    let e := Entry.serial m pend pendPc mode pcl rpc rm ph
    GoesOn s (joinEntry p e s) (s.warp.popEntry e)
      (if ph then rpc.getD s.split.pc + (if rm.isSome then 8 else 4) else s.nextPc p)
      fun x => { x with exec := m, mode := mode, pcl := pcl } := by
  intro e
  have hjoin : joinEntry p e s =
      let r := (s.setWarp (s.warp.popEntry e)).jump p
        (if ph then rpc.getD s.split.pc + (if rm.isSome then 8 else 4) else s.nextPc p)
      r.setSplit { r.split with exec := m, mode := mode, pcl := pcl } :=
    if_neg (by rcases hlast with h | h <;> simp [h])
  rw [hjoin]
  exact State.goesOn_jump (s.warp.popEntry_restacks e) p _ fun x => { x with exec := m, mode := mode, pcl := pcl }

end

/-! ## Arrival at a divergence entry (05 R100) -/

/-- The split that issues, once it waits at its `join`. -/
def State.joining (s : State) (p : Bool) : Split :=
  { s.split with st := .jwait, safe := none, last := s.cycle, wmask := s.ownMask p, wlbl := 0, declined := [] }

/-- The warp once the split that issues waits, with the entry `f` for `e`. -/
def State.joined (s : State) (p : Bool) (e f : Entry) : Warp :=
  (s.warp.swapEntry e f).setSplit s.curSplit (s.joining p)

theorem joinEntry_diverge (s : State) (p : Bool) (m mode : BitVec 32) (pcl : LIdx) (rpc : Option (BitVec 57))
    (rm : Option (BitVec 32)) :
    let e := Entry.diverge m mode pcl rpc rm
    let f := Entry.diverge m mode pcl (some (rpc.getD s.split.pc)) (if rpc.isSome then rm else s.ownMask p)
    joinEntry p e s = (s.setWarp (s.joined p e f)).mergeAt f := by
  intro e f
  have hset : (s.setWarp (s.warp.swapEntry e f)).setSplit (s.joining p) = s.setWarp (s.joined p e f) := by
    rw [State.setSplit_eq, State.setWarp_setWarp, State.warp_setWarp]
    rfl
  rw [← hset]
  unfold joinEntry
  rfl

theorem State.joined_split (s : State) (p : Bool) (e f : Entry) : (s.joined p e f).split s.curSplit = s.joining p :=
  Warp.split_setSplit_same ..

theorem State.joined_entries (s : State) (p : Bool) (e f : Entry) :
    (s.joined p e f).entries = s.warp.entries.replace e f :=
  s.warp.swapEntry_entries e f

theorem State.splits_joined (s : State) (p : Bool) (e f : Entry) :
    (s.joined p e f).splits = s.warp.splits.set Split.blank s.curSplit (s.joining p) := by
  rw [State.joined, Warp.setSplit, s.warp.swapEntry_restacks]

/-- A split that waits now is the one that joins, or waited before. -/
theorem State.mem_joined {s : State} {p : Bool} {e f : Entry} {y : Nat × Split}
    (h : y ∈ (s.joined p e f).splits.entries) :
    y = (s.curSplit, s.joining p) ∨ y ∈ s.warp.splits.entries ∧ y.1 ≠ s.curSplit := by
  rw [s.splits_joined] at h
  exact Sparse.mem_set h

/-- Where its lanes do not all wait, no merge takes place. -/
theorem State.mergeAt_of_waits {s : State} {f : Entry} (h : s.warp.merges f = false) : s.mergeAt f = s := by
  unfold State.mergeAt
  split
  · simp [h]
  · rfl

/-- The warp without the splits that merge. -/
def Warp.without (w : Warp) (js : List (Nat × Split)) : Warp := js.foldl (fun w p => w.setSplit p.1 Split.blank) w

theorem Warp.split_without (w : Warp) (js : List (Nat × Split)) (k : Nat) :
    (w.without js).split k = if ∃ y ∈ js, y.1 = k then Split.blank else w.split k := by
  induction js generalizing w with
  | nil => simp [Warp.without]
  | cons y t ih =>
    have hcons : w.without (y :: t) = (w.setSplit y.1 Split.blank).without t := rfl
    rw [hcons, ih]
    by_cases ht : ∃ z ∈ t, z.1 = k
    · obtain ⟨z, hz, hk⟩ := ht
      rw [if_pos ⟨z, hz, hk⟩, if_pos ⟨z, List.mem_cons_of_mem _ hz, hk⟩]
    · by_cases hk : y.1 = k
      · rw [if_neg ht, if_pos ⟨y, List.mem_cons_self, hk⟩, ← hk, Warp.split_setSplit_same]
      · rw [if_neg ht, if_neg (by simp [hk, ht]), Warp.split_setSplit_other _ _ (Ne.symm hk)]

theorem Warp.without_rest (w : Warp) (js : List (Nat × Split)) :
    w.without js = { w with splits := (w.without js).splits } := by
  induction js generalizing w with
  | nil => rfl
  | cons y t ih =>
    have hcons : w.without (y :: t) = (w.setSplit y.1 Split.blank).without t := rfl
    rw [hcons, ih]
    rfl

theorem bitOf_eq_getLsbD {n : Nat} (x : BitVec n) (i : Nat) : bitOf x i = x.getLsbD i := by
  rw [bitOf, fieldOf, BitVec.getLsbD, Nat.testBit_eq_decide_div_mod_eq, Nat.pow_one]
  rfl

theorem Warp.entries_setSplit (w : Warp) (i : Nat) (x : Split) : (w.setSplit i x).entries = w.entries := rfl

theorem Warp.entries_without (w : Warp) (js : List (Nat × Split)) : (w.without js).entries = w.entries := by
  rw [Warp.without_rest]
  rfl

theorem Warp.split_popEntry (w : Warp) (e : Entry) (k : Nat) : (w.popEntry e).split k = w.split k := by
  rw [w.popEntry_restacks]
  rfl

theorem Warp.split_swapEntry (w : Warp) (e f : Entry) (k : Nat) : (w.swapEntry e f).split k = w.split k := by
  rw [w.swapEntry_restacks]
  rfl

theorem getLsbD_headLane {m : BitVec 32} (h : m ≠ 0) : m.getLsbD (headLane (lanesOf m)) = true := by
  obtain ⟨l, hl⟩ : ∃ l, m.getLsbD l = true := by
    by_contra hnone
    exact h (BitVec.eq_of_getLsbD_eq fun l _ => by simpa using fun hl => hnone ⟨l, hl⟩)
  have hmem : l ∈ lanesOf m :=
    List.mem_filter.mpr ⟨List.mem_range.mpr (BitVec.lt_of_getLsbD hl), by rw [bitOf_eq_getLsbD, hl]⟩
  cases hlanes : lanesOf m with
  | nil => rw [hlanes] at hmem; cases hmem
  | cons a t =>
    have ha : a ∈ lanesOf m := hlanes ▸ List.mem_cons_self
    rw [← bitOf_eq_getLsbD]
    exact (List.mem_filter.mp ha).2

/-- The lowest lane of a mask. -/
theorem headLane_lanesOf {m : BitVec 32} {low : Nat} (hlow : m.getLsbD low = true)
    (hbelow : ∀ l < low, m.getLsbD l = false) : headLane (lanesOf m) = low := by
  have hfind : (List.range 32).find? (fun l => bitOf m l) = some low := by
    rw [List.find?_range_eq_some]
    refine ⟨by rw [bitOf_eq_getLsbD, hlow], List.mem_range.mpr (BitVec.lt_of_getLsbD hlow), fun l hl => ?_⟩
    rw [bitOf_eq_getLsbD, hbelow l hl]
    rfl
  rw [headLane, List.headD_eq_head?_getD, lanesOf, List.head?_filter, hfind]
  rfl

section

variable {s : State} {w : Warp} {m mode : BitVec 32} {pcl : LIdx} {pc : BitVec 57} {rm : Option (BitVec 32)} {i : Nat}
  {y : Split}

/-- What the split that goes on becomes in a merge. -/
def State.merged (s : State) (f : Entry) (pc : BitVec 57) (safe : Option (BitVec 32)) (y : Split) : Split :=
  match f with
  | .diverge m mode pcl _ rm => { y with
      st := .ready, exec := m, mode := mode, pcl := pcl, pc := pc + (if rm.isSome then 8 else 4), safe := safe,
      wmask := none, wlbl := 0, last := s.cycle }
  | _ => y

theorem State.mergeAt_of_merges (hm : w.merges (.diverge m mode pcl (some pc) rm) = true)
    (hfind : (w.joiners (.diverge m mode pcl (some pc) rm)).find?
      (fun p => bitOf p.2.exec (headLane (lanesOf m))) = some (i, y)) :
    let f := Entry.diverge m mode pcl (some pc) rm
    ∃ safe, (s.setWarp w).mergeAt f =
      s.setWarp (((w.popEntry f).without (w.joiners f)).setSplit i (s.merged f pc safe y)) := by
  intro f
  refine ⟨(s.setWarp ((w.popEntry f).without (w.joiners f))).safePoint rm.isSome rm, ?_⟩
  unfold State.mergeAt
  simp only [f, State.warp_setWarp, State.setWarp_setWarp, hm, hfind, Bool.not_true, Bool.false_eq_true, if_false]
  rfl

variable {p : Bool} {rpc : Option (BitVec 57)} {rm' : Option (BitVec 32)}

/-- The last split to arrive at the entry `e`, now `f`, merges with the splits `js` that wait for it. -/
structure Merges (s t : State) (p : Bool) (e f : Entry) (i : Nat) (y : Split) : Prop where
  only : OnlyWarp s t
  entries : t.warp.entries = s.warp.entries.erase e
  rest : t.warp = { s.warp with stack := t.warp.stack, spill := t.warp.spill, splits := t.warp.splits }
  split : t.warp.split i = y
  others : ∀ k, k ≠ i → t.warp.split k =
    if ∃ z ∈ (s.joined p e f).joiners f, z.1 = k then Split.blank else (s.joined p e f).split k

theorem State.joined_restacks (s : State) (p : Bool) (e f : Entry) :
    s.joined p e f = { s.warp with
      stack := (s.joined p e f).stack, spill := (s.joined p e f).spill, splits := (s.joined p e f).splits } := by
  unfold State.joined Warp.swapEntry
  split <;> rfl

theorem State.joinEntry_merges (htop : s.warp.top s.split.exec = some (.diverge m mode pcl rpc rm))
    (hpc : pc = rpc.getD s.split.pc) (hrm : rm' = if rpc.isSome then rm else s.ownMask p)
    (hm : (s.joined p (.diverge m mode pcl rpc rm) (.diverge m mode pcl (some pc) rm')).merges
      (.diverge m mode pcl (some pc) rm') = true)
    (hfind : ((s.joined p (.diverge m mode pcl rpc rm) (.diverge m mode pcl (some pc) rm')).joiners
      (.diverge m mode pcl (some pc) rm')).find? (fun p => bitOf p.2.exec (headLane (lanesOf m))) = some (i, y)) :
    let e := Entry.diverge m mode pcl rpc rm
    let f := Entry.diverge m mode pcl (some pc) rm'
    ∃ safe, Merges s (joinEntry p e s) p e f i (s.merged f pc safe y) := by
  intro e f
  obtain ⟨safe, hmerge⟩ := State.mergeAt_of_merges (s := s) hm hfind
  have hjoin : joinEntry p e s = s.setWarp ((((s.joined p e f).popEntry f).without ((s.joined p e f).joiners f)).setSplit i
      (s.merged f pc safe y)) := by
    rw [joinEntry_diverge, ← hpc, ← hrm, hmerge]
  rw [hjoin]
  refine ⟨safe, ⟨?_, ?_, ?_, ?_, fun k hk => ?_⟩⟩
  · rw [OnlyWarp, State.warp_setWarp]
  · rw [State.warp_setWarp, Warp.entries_setSplit, Warp.entries_without, Warp.popEntry_entries, s.joined_entries]
    exact erase_replace_first htop (Warp.top_eq_some htop).2
  · rw [State.warp_setWarp, Warp.without_rest, Warp.popEntry_restacks, s.joined_restacks]
    rfl
  · rw [State.warp_setWarp, Warp.split_setSplit_same]
  · rw [State.warp_setWarp, Warp.split_setSplit_other _ _ hk, Warp.split_without,
      Warp.split_popEntry]

end

/-! ## A page of the area that faults (05 R103) -/

/-- The warp that issues is parked for a page that was offered to the host (16 R268). -/
structure Parks (s t : State) (page kind : Nat) : Prop where
  warp : t.warp = { s.warp with st := .park }
  curSplit : t.curSplit = s.curSplit
  memory : SameMemory s t
  offered : ∃ f ∈ t.faults,
    f.page = page ∧ f.kind = kind ∧ f.ctx = s.warp.ctx ∧ f.who = .warp s.cur s.warp.uid s.curSplit

/-- What a report to a session leaves unchanged. -/
theorem State.report_eq (s : State) (p : Nat) (m : Msg) :
    s.report p m = { s with late := (s.report p m).late, outbox := (s.report p m).outbox } := by
  unfold State.report
  split <;> rfl

theorem State.parkWarp_parks (s : State) {page : Nat} (kind : Nat) (hpage : page ≠ waitPage) :
    Parks s (s.parkWarp [(page, kind)]) page kind := by
  unfold State.parkWarp
  rw [if_neg (by simpa using hpage)]
  simp only [List.foldl]
  rw [State.report_eq]
  refine ⟨State.warp_setWarp .., rfl, fun k => rfl, ?_⟩
  exact ⟨_, List.mem_append_right _ List.mem_cons_self, rfl, rfl, rfl, rfl⟩

theorem Parks.split {s t : State} {page kind : Nat} (h : Parks s t page kind) : t.split = s.split := by
  rw [State.split, h.curSplit, h.warp]
  rfl

/-- An entry in the spilled part whose refill takes the pick of a fault, or of a refusal. -/
theorem exec_join_of_stop {s : State} {p : Bool} {e : Entry} {x : Stop} (hready : s.Ready (.join p))
    (htop : s.warp.top s.split.exec = some e) (hreach : s.reach e = .error x) :
    exec (.join p) s = .next (s.stopped x (s.readLabel (.join p)) (Instr.sp (.join p))) := by
  refine (exec_join ..).trans (word_error hready ?_)
  rw [joinAt, htop]
  simp only [hreach]
  rfl

/-- A split that joins before the others have arrived waits (05 R100). -/
theorem joinEntry_waits {s : State} {p : Bool} {m mode : BitVec 32} {pcl : LIdx} {rpc : Option (BitVec 57)}
    {rm : Option (BitVec 32)} {l : Nat} (hm : m.getLsbD l = true) (hexec : s.split.exec.getLsbD l = false)
    (hothers : ∀ e ∈ s.warp.splits.entries, e.2.st = .jwait → e.2.exec.getLsbD l = false) :
    joinEntry p (.diverge m mode pcl rpc rm) s = s.setWarp (s.joined p (.diverge m mode pcl rpc rm)
      (.diverge m mode pcl (some (rpc.getD s.split.pc)) (if rpc.isSome then rm else s.ownMask p))) := by
  rw [joinEntry_diverge]
  refine State.mergeAt_of_waits ?_
  rw [State.warp_setWarp]
  refine Bool.eq_false_iff.mpr fun hmerges => ?_
  obtain ⟨y, hy, hbit⟩ := Warp.merges_iff.mp hmerges l hm
  obtain ⟨hmem, hst, -⟩ := Warp.mem_joiners.mp hy
  rcases State.mem_joined hmem with rfl | ⟨hmem, -⟩
  · exact absurd (hexec.symm.trans hbit) (by decide)
  · exact absurd ((hothers y hmem hst).symm.trans hbit) (by decide)

/-- The other splits that wait for an entry. -/
theorem State.mem_waiting {s : State} {e : Entry} {z : Nat × Split} :
    (z ∈ s.warp.splits.entries.filter
      fun y => y.1 ≠ s.curSplit && y.2.st == .jwait && s.warp.top y.2.exec == some e) ↔
      z ∈ s.warp.splits.entries ∧ z.1 ≠ s.curSplit ∧ z.2.st = .jwait ∧ s.warp.top z.2.exec = some e := by
  simp [and_assoc]

/-- The splits that wait once the last has arrived: it and those that waited. -/
theorem State.mem_joiners_joined {s : State} {e : Entry} {z : Nat × Split} (p : Bool)
    (htop : s.warp.top s.split.exec = some e) (hwf : s.warp.splits.wf Split.blank = true) :
    z ∈ (s.joined p e e).joiners e ↔ z = (s.curSplit, s.joining p) ∨
      z ∈ s.warp.splits.entries.filter
        fun y => y.1 ≠ s.curSplit && y.2.st == .jwait && s.warp.top y.2.exec == some e := by
  have hentries : (s.joined p e e).entries = s.warp.entries := by rw [s.joined_entries, replace_same]
  have htops (lanes : BitVec 32) : (s.joined p e e).top lanes = s.warp.top lanes := by
    rw [Warp.top, hentries, Warp.top]
  have hsplits := s.splits_joined p e e
  have hblank {x : Split} (hx : x.st = .jwait) : x ≠ Split.blank := fun h => by rw [h] at hx; cases hx
  rw [Warp.mem_joiners, htops]
  constructor
  · rintro ⟨hmem, hst, htop⟩
    exact (State.mem_joined hmem).imp_right fun ⟨hold, hne⟩ => State.mem_waiting.mpr ⟨hold, hne, hst, htop⟩
  · rintro (rfl | hz)
    · rw [hsplits]
      exact ⟨Sparse.mem_set_same _ _ (hblank rfl), rfl, htop⟩
    · obtain ⟨hold, hne, hst, hztop⟩ := State.mem_waiting.mp hz
      refine ⟨?_, hst, hztop⟩
      rw [hsplits, Sparse.mem_iff_get (Sparse.wf_set _ _ _ _ hwf) (hblank hst), Sparse.get_set_other _ _ _ hne,
        ← Sparse.mem_iff_get hwf (hblank hst)]
      exact hold

/-- A split alone at its entry merges at once. -/
theorem State.joinEntry_alone {s : State} {m mode : BitVec 32} {pcl : LIdx} {rm : Option (BitVec 32)} (p : Bool)
    (htop : s.warp.top s.split.exec = some (.diverge m mode pcl none rm)) (hcover : m &&& ~~~s.split.exec = 0)
    (hm : m ≠ 0) (hothers : ∀ e ∈ s.warp.splits.entries, e.1 ≠ s.curSplit → e.2.st ≠ .jwait) :
    let e := Entry.diverge m mode pcl none rm
    let f := Entry.diverge m mode pcl (some s.split.pc) (s.ownMask p)
    ∃ safe, Merges s (joinEntry p e s) p e f s.curSplit (s.merged f s.split.pc safe (s.joining p)) := by
  intro e f
  have hjoin {z : Nat × Split} (hz : z ∈ (s.joined p e f).joiners f) : z = (s.curSplit, s.joining p) := by
    obtain ⟨hmem, hst, -⟩ := Warp.mem_joiners.mp hz
    exact (State.mem_joined hmem).resolve_right fun ⟨hold, hne⟩ => hothers z hold hne hst
  have hmem : (s.curSplit, s.joining p) ∈ (s.joined p e f).joiners f := by
    rw [Warp.mem_joiners, s.splits_joined, Warp.top, s.joined_entries]
    exact ⟨Sparse.mem_set_same _ _ (fun h => by cases congrArg Split.st h), rfl,
      find?_replace_first htop (Warp.top_eq_some htop).2⟩
  have hbits := and_not_eq_zero_iff.mp hcover
  refine State.joinEntry_merges htop rfl rfl (Warp.merges_iff.mpr fun l hl => ⟨_, hmem, hbits l hl⟩) ?_
  refine find?_of_unique hmem ?_ fun z hz _ => hjoin hz
  rw [bitOf_eq_getLsbD]
  exact hbits _ (getLsbD_headLane hm)

/-- The last split to arrive merges: the one that holds the lowest lane goes on. -/
theorem State.joinEntry_last {s : State} {m mode : BitVec 32} {pcl : LIdx} {rpc : BitVec 57} {rm : Option (BitVec 32)}
    {js : List (Nat × Split)} {low j : Nat} {x : Split} (p : Bool)
    (htop : s.warp.top s.split.exec = some (.diverge m mode pcl (some rpc) rm))
    (hwf : s.warp.splits.wf Split.blank = true)
    (hjs : js = s.warp.splits.entries.filter fun y => y.1 ≠ s.curSplit && y.2.st == .jwait &&
      s.warp.top y.2.exec == some (.diverge m mode pcl (some rpc) rm))
    (hcover : ∀ l, m.getLsbD l = true → s.split.exec.getLsbD l = true ∨ ∃ y ∈ js, y.2.exec.getLsbD l = true)
    (hlow : m.getLsbD low = true) (hbelow : ∀ l < low, m.getLsbD l = false)
    (hj : (j, x) ∈ (s.curSplit, s.split) :: js) (hbit : x.exec.getLsbD low = true)
    (hothers : ∀ y ∈ (s.curSplit, s.split) :: js, y.1 ≠ j → y.2.exec.getLsbD low = false) :
    let e := Entry.diverge m mode pcl (some rpc) rm
    let y := if j = s.curSplit then s.joining p else x
    ∃ safe, Merges s (joinEntry p e s) p e e j (s.merged e rpc safe y) := by
  intro e y
  have hmem {z : Nat × Split} : z ∈ (s.joined p e e).joiners e ↔ z = (s.curSplit, s.joining p) ∨ z ∈ js := by
    rw [hjs]
    exact State.mem_joiners_joined p htop hwf
  have hne {z : Nat × Split} (hz : z ∈ js) : z.1 ≠ s.curSplit := (State.mem_waiting.mp (hjs ▸ hz)).2.1
  have hget {z : Nat × Split} (hz : z ∈ js) : s.warp.splits.get Split.blank z.1 = z.2 := by
    obtain ⟨hold, -, hst, -⟩ := State.mem_waiting.mp (hjs ▸ hz)
    exact (Sparse.mem_iff_get hwf fun h => by rw [h] at hst; cases hst).mp hold
  refine State.joinEntry_merges htop rfl rfl (Warp.merges_iff.mpr fun l hl => ?_) ?_
  · rcases hcover l hl with h | ⟨z, hz, h⟩
    · exact ⟨_, hmem.mpr (.inl rfl), h⟩
    · exact ⟨z, hmem.mpr (.inr hz), h⟩
  · rw [headLane_lanesOf hlow hbelow]
    rcases List.mem_cons.mp hj with hcur | hold
    · obtain ⟨rfl, rfl⟩ := Prod.mk.inj hcur
      have hy : y = s.joining p := if_pos rfl
      rw [hy]
      refine find?_of_unique (hmem.mpr (.inl rfl)) (by rw [bitOf_eq_getLsbD]; exact hbit) fun z hz hzbit => ?_
      rw [bitOf_eq_getLsbD] at hzbit
      refine (hmem.mp hz).resolve_right fun hz => ?_
      rw [hothers z (List.mem_cons_of_mem _ hz) (hne hz)] at hzbit
      cases hzbit
    · have hy : y = x := if_neg (hne hold)
      rw [hy]
      refine find?_of_unique (hmem.mpr (.inr hold)) (by rw [bitOf_eq_getLsbD]; exact hbit) fun z hz hzbit => ?_
      rw [bitOf_eq_getLsbD] at hzbit
      rcases hmem.mp hz with rfl | hz
      · have hfalse : (s.joining p).exec.getLsbD low = false := hothers _ List.mem_cons_self (hne hold).symm
        rw [hfalse] at hzbit
        cases hzbit
      · by_cases hzj : z.1 = j
        · exact Prod.ext hzj ((hget hz).symm.trans (hzj ▸ hget hold))
        · rw [hothers z (List.mem_cons_of_mem _ hz) hzj] at hzbit
          cases hzbit

/-- Settles O17: the refill first, then the entry by its kind. -/
theorem joinEndsTheInnermostEntry : Obligations.JoinEndsTheInnermostEntry := by
  unfold Obligations.JoinEndsTheInnermostEntry
  intro s p hready
  refine ⟨fun e pick left htop hout hdeclined hchoices => ?refill, fun hreach => ⟨?none, ?raise, ?waits, ?merges,
    ?alone, ?first, ?second, ?only⟩⟩
  case refill =>
    have hspilled : e ∈ s.warp.spill := (List.mem_append.mp (Warp.top_eq_some htop).1).resolve_left hout
    obtain ⟨i, hi⟩ := State.reach_spilled hout hspilled
    refine ⟨fun hpick => ?_, fun hpick => ?_⟩
    · obtain ⟨page, hpage, hfault⟩ := State.stackAccess_fault (kind := 0) (i := i) hdeclined hchoices hpick
      refine ⟨_, exec_join_of_stop hready htop (hi.trans hfault), ?_⟩
      have hparks := State.parkWarp_parks ({ s with choices := left } : State).awaitRefill 0 hpage
      rw [State.stopped, State.stopped]
      refine ⟨?_, ?_, ?_, hparks.memory, ?_⟩
      · rw [hparks.split, State.awaitRefill, State.split_setSplit]
        rfl
      · rw [hparks.warp]
      · rw [hparks.warp, State.awaitRefill, State.warp_setSplit]
        rfl
      · obtain ⟨f, hf, -, hkind, hctx, hwho⟩ := hparks.offered
        rw [State.awaitRefill, State.warp_setSplit] at hctx hwho
        exact ⟨f, hf, hkind, hctx, hwho⟩
    · rw [exec_join_of_stop hready htop (hi.trans (State.stackAccess_refused hdeclined hchoices hpick)), State.stopped,
        State.stopped]
      rfl
  case none =>
    intro htop
    refine completes_word (exec_join ..) hready ?_ (advance_goes s p)
    rw [joinAt, htop]
  case raise =>
    intro m mode pcl htop
    obtain ⟨honly, ⟨safe, hsplit⟩, hentries⟩ := joinEntry_raise s p m mode pcl
    refine completes_join hready hreach htop ⟨honly, ?_, ?_, ?_, ?_, ?_⟩
    · rw [hsplit]
    · rw [hsplit]
    · rw [hsplit]
    · rw [hsplit]
    · rw [hentries, Warp.popEntry_entries]
  case waits =>
    intro m mode pcl rpc rm l htop hm hexec hothers
    refine completes_join hready hreach htop ?_
    rw [joinEntry_waits hm hexec hothers]
    refine ⟨by rw [OnlyWarp, State.warp_setWarp], ?_, ?_, ?_, if rpc.isSome then rm else s.ownMask p, ?_⟩
    · rw [State.split_setWarp, s.joined_split]
      rfl
    · rw [State.split_setWarp, s.joined_split]
      rfl
    · rw [State.split_setWarp, s.joined_split]
      rfl
    · rw [State.warp_setWarp, s.joined_entries]
  case merges =>
    intro m mode pcl rpc rm js low j x e htop hwf hst hjs hcover hlow hbelow hj hbit hothers
    obtain ⟨safe, h⟩ := State.joinEntry_last p htop hwf hjs hcover hlow hbelow hj hbit hothers
    have hkey (k : Nat) : (∃ z ∈ (s.joined p e e).joiners e, z.1 = k) ↔ ∃ z ∈ (s.curSplit, s.split) :: js, z.1 = k := by
      simp only [State.mem_joiners_joined p htop hwf, ← hjs, List.mem_cons, or_and_right, exists_or, exists_eq_left]
    refine completes_join hready hreach htop ⟨h.only, ?_, fun z hz hzj => ?_, fun i hi => ?_, h.entries, h.rest⟩
    · rw [h.split]
      rcases List.mem_cons.mp hj with hcur | hold
      · obtain ⟨rfl, rfl⟩ := Prod.mk.inj hcur
        rw [if_pos rfl, if_pos rfl]
        rfl
      · have hne : j ≠ s.curSplit := (State.mem_waiting.mp (hjs ▸ hold)).2.1
        rw [if_neg hne, if_neg hne]
        rfl
    · rw [h.others _ hzj, if_pos ((hkey _).mpr ⟨z, hz, rfl⟩)]
    · have hnone : ¬∃ z ∈ (s.curSplit, s.split) :: js, z.1 = i := fun ⟨z, hz, hzi⟩ => hi z hz hzi.symm
      have hij : i ≠ j := hi _ hj
      rw [h.others _ hij, if_neg (mt (hkey i).mp hnone), State.joined,
        Warp.split_setSplit_other _ _ (hi _ List.mem_cons_self), Warp.split_swapEntry]
  case alone =>
    intro m mode pcl rm htop hcover hm hothers
    obtain ⟨safe, h⟩ := State.joinEntry_alone p htop hcover hm hothers
    have hcur : (joinEntry p (.diverge m mode pcl none rm) s).curSplit = s.curSplit := by rw [h.only]; rfl
    have hpc : s.split.pc + (if (s.ownMask p).isSome then 8 else 4) = s.nextPc p := by cases p <;> rfl
    refine completes_join hready hreach htop ⟨h.only, ?_, ?_, ?_, ?_, ?_, h.entries⟩
    all_goals rw [State.split, hcur, h.split, State.merged]
    exact hpc
  case first =>
    intro m pend pendPc mode pcl rpc rm htop hleft
    obtain ⟨honly, ⟨safe, hsplit⟩, hentries⟩ := joinEntry_serial_first s p m mode pcl pend pendPc rpc rm hleft
    refine completes_join hready hreach htop ⟨honly, ?_, ?_, ?_, ?_, s.ownMask p, ?_⟩
    · rw [hsplit]
    · rw [hsplit]
    · rw [hsplit]
    · rw [hsplit]
    · rw [hentries, Warp.swapEntry_entries]
  case second =>
    intro m pend pendPc mode pcl rpc rm htop
    obtain ⟨honly, ⟨safe, hsplit⟩, hentries⟩ :=
      joinEntry_serial_last s p m mode pcl pend pendPc (some rpc) rm true (.inl rfl)
    refine completes_join hready hreach htop ⟨honly, ?_, ?_, ?_, ?_, ?_⟩
    · rw [hsplit]
      rfl
    · rw [hsplit]
    · rw [hsplit]
    · rw [hsplit]
    · rw [hentries, Warp.popEntry_entries]
  case only =>
    intro m pend pendPc mode pcl rpc rm htop hnone
    obtain ⟨honly, ⟨safe, hsplit⟩, hentries⟩ :=
      joinEntry_serial_last s p m mode pcl pend pendPc rpc rm false (.inr hnone)
    refine completes_join hready hreach htop ⟨honly, ?_, ?_, ?_, ?_, ?_⟩
    · rw [hsplit]
      rfl
    · rw [hsplit]
    · rw [hsplit]
    · rw [hsplit]
    · rw [hentries, Warp.popEntry_entries]

end Sys2Proof.Machine
end

section

namespace Sys2Proof.Machine

/-! ## What the ends of waits leave unchanged

A halt, or the end of a split, settles barriers, barrier objects and its block. That releases splits which wait: it
touches no stack, no device memory and no grant, and sets no split that is not listed. -/

/-- No warp listed in slot `k` has a split `i`. -/
def State.Vacant (s : State) (k i : Nat) : Prop :=
  ∀ e ∈ s.warps.entries, e.1 = k → ∀ p ∈ e.2.splits.entries, p.1 ≠ i

/-- No split of the warp waits at a `kzero`. -/
def Warp.NoKzero (w : Warp) : Prop := ∀ y ∈ w.liveSplits, ∀ f n u, y.2.st ≠ .swait (.kzero f n u)

/-- Nor does one of any warp. -/
def State.NoKzero (s : State) : Prop := ∀ e ∈ s.warps.entries, e.2.NoKzero

/-- What settling leaves: stacks, device memory, the Tack Room, and slot `k`'s want of a split `i`. -/
structure Settles (k i : Nat) (s t : State) : Prop where
  cur : t.cur = s.cur
  curSplit : t.curSplit = s.curSplit
  tack : t.tack = s.tack
  mem : t.mem = s.mem
  entries : ∀ j, (t.warpAt j).entries = (s.warpAt j).entries
  vacant : s.Vacant k i → t.Vacant k i
  kzero : s.NoKzero → t.NoKzero

section

variable {k i : Nat} {s t u : State}

/-- The warp in a slot is one that is listed, or blank. -/
theorem State.warpAt_mem_or_blank (s : State) (j : Nat) :
    (j, s.warpAt j) ∈ s.warps.entries ∨ s.warpAt j = Warp.blank := by
  rw [State.warpAt, Sparse.get]
  cases h : Sparse.look j s.warps.entries with
  | some w => exact .inl (Sparse.mem_of_look h)
  | none => exact .inr rfl

theorem State.Vacant.warpAt (h : s.Vacant k i) : ∀ p ∈ (s.warpAt k).splits.entries, p.1 ≠ i := by
  rcases s.warpAt_mem_or_blank k with hmem | hblank
  · exact h _ hmem rfl
  · rw [hblank]
    exact fun p hp => nomatch hp

theorem State.NoKzero.warpAt (h : s.NoKzero) (j : Nat) : (s.warpAt j).NoKzero := by
  rcases s.warpAt_mem_or_blank j with hmem | hblank
  · exact h _ hmem
  · rw [hblank]
    exact fun p hp => nomatch hp

/-- A split that is not listed is blank. -/
theorem Warp.split_of_vacant {w : Warp} (h : ∀ p ∈ w.splits.entries, p.1 ≠ i) : w.split i = Split.blank := by
  rw [Warp.split, Sparse.get]
  cases hl : Sparse.look i w.splits.entries with
  | none => rfl
  | some x => exact absurd rfl (h _ (Sparse.mem_of_look hl))

theorem Settles.refl (k i : Nat) (s : State) : Settles k i s s := ⟨rfl, rfl, rfl, rfl, fun _ => rfl, id, id⟩

theorem Settles.trans (h : Settles k i s t) (g : Settles k i t u) : Settles k i s u :=
  ⟨g.cur.trans h.cur, g.curSplit.trans h.curSplit, g.tack.trans h.tack, g.mem.trans h.mem,
    fun j => (g.entries j).trans (h.entries j), fun hs => g.vacant (h.vacant hs), fun hs => g.kzero (h.kzero hs)⟩

/-- A state with the same warps. -/
theorem Settles.of_same (hw : t.warps = s.warps) (hcur : t.cur = s.cur) (hsplit : t.curSplit = s.curSplit)
    (htack : t.tack = s.tack) (hmem : t.mem = s.mem) : Settles k i s t :=
  ⟨hcur, hsplit, htack, hmem, fun j => by rw [State.warpAt, hw]; rfl, fun hs => by rwa [State.Vacant, hw],
    fun hs => by rwa [State.NoKzero, hw]⟩

theorem foldl_settles {α : Type} {f : State → α → State} {xs : List α}
    (h : ∀ s, s.Vacant k i → ∀ x ∈ xs, Settles k i s (f s x)) {s : State} (hs : s.Vacant k i) :
    Settles k i s (xs.foldl f s) := by
  induction xs generalizing s with
  | nil => exact .refl k i s
  | cons x t ih =>
    have hx := h s hs x List.mem_cons_self
    exact hx.trans (ih (fun s hs y hy => h s hs y (List.mem_cons_of_mem _ hy)) (hx.vacant hs))

/-- A write of a warp that keeps its stack. -/
theorem State.setWarpAt_settles (s : State) (j : Nat) {w : Warp} (hstack : w.entries = (s.warpAt j).entries)
    (hvacant : j = k → s.Vacant k i → ∀ p ∈ w.splits.entries, p.1 ≠ i) (hkzero : s.NoKzero → w.NoKzero) :
    Settles k i s (s.setWarpAt j w) := by
  refine ⟨rfl, rfl, rfl, rfl, fun m => ?_, fun hs e he hk => ?_, fun hs e he => ?_⟩
  · by_cases hm : m = j
    · rw [hm, State.warpAt_setWarpAt_same, hstack]
    · rw [State.warpAt_setWarpAt_other _ _ hm]
  · rcases Sparse.mem_set he with rfl | ⟨he, -⟩
    · exact hvacant hk hs
    · exact hs e he hk
  · rcases Sparse.mem_set he with rfl | ⟨he, -⟩
    · exact hkzero hs
    · exact hs e he

end

/-! ### Acting as a warp -/

/-- `t` differs from `s` by acts of the split that issues, which is none of slot `k` and split `i`. -/
def Acts (k i : Nat) (s t : State) : Prop := ¬(s.cur = k ∧ s.curSplit = i) → Settles k i s t

section

variable {k i : Nat} {s t u : State}

theorem Acts.refl (k i : Nat) (s : State) : Acts k i s s := fun _ => .refl k i s

theorem Acts.trans (h : Acts k i s t) (g : Acts k i t u) : Acts k i s u := fun hne =>
  (h hne).trans (g (by rw [(h hne).cur, (h hne).curSplit]; exact hne))

/-- A write of the warp that keeps its stack and its splits. -/
theorem setWarp_acts (s : State) {w : Warp} (hstack : w.entries = s.warp.entries) (hsplits : w.splits = s.warp.splits) :
    Acts k i s (s.setWarp w) := fun _ =>
  s.setWarpAt_settles s.cur hstack (fun hk hs => by subst hk; rw [hsplits]; exact hs.warpAt) fun hs => by
    rw [Warp.NoKzero, Warp.liveSplits, hsplits]
    exact hs.warpAt s.cur

/-- A write of the split that issues, which no longer waits at a `kzero`. -/
theorem setSplit_acts (s : State) {x : Split} (hx : ∀ f n u, x.st ≠ .swait (.kzero f n u)) : Acts k i s (s.setSplit x) := by
  intro hne
  refine s.setWarpAt_settles s.cur rfl (fun hk hs p hp => ?_) fun hs p hp => ?_
  · rcases Sparse.mem_set hp with rfl | ⟨hp, -⟩
    · exact fun hi => hne ⟨hk, hi⟩
    · subst hk
      exact hs.warpAt p hp
  · obtain ⟨hp, hlive⟩ := List.mem_filter.mp hp
    rcases Sparse.mem_set hp with rfl | ⟨hp, -⟩
    · exact hx
    · exact hs.warpAt s.cur p (List.mem_filter.mpr ⟨hp, hlive⟩)

theorem setS_acts (s : State) (d : SNum) (v : Word) (l : Label) : Acts k i s (s.setS d v l) := by
  by_cases hd : d = 0
  · rw [State.setS, if_pos hd]
    exact .refl k i s
  · rw [s.setS_warp d v l hd]
    exact setWarp_acts s (by rw [Warp.putS_rest]; rfl) (by rw [Warp.putS_rest])

theorem learn_acts (s : State) (ls ids : List Nat) : Acts k i s (s.learn ls ids) := setWarp_acts s rfl rfl

theorem gather_acts (s : State) (ls : List Nat) : Acts k i s (s.gather ls) := by
  unfold State.gather
  split
  · exact .refl k i s
  · exact learn_acts _ _ _

theorem finishWait_acts (s : State) : Acts k i s s.finishWait := by
  refine (setSplit_acts s (by simp)).trans (setSplit_acts _ fun f n u => ?_)
  rw [State.split_setSplit]
  simp

theorem refuse_acts (s : State) (kind why : Nat) : Acts k i s (s.refuse kind why) := fun _ => .of_same rfl rfl rfl rfl rfl

/-- What is done as a split of a warp that is none of slot `k` and split `i`. -/
theorem asWarp_settles (s : State) {j n : Nat} (hne : ¬(j = k ∧ n = i)) {f : State → State} (hf : ∀ s, Acts k i s (f s)) :
    Settles k i s (s.asWarp j n f) :=
  have hact := hf { s with cur := j, curSplit := n } hne
  ⟨rfl, rfl, hact.tack, hact.mem, hact.entries, hact.vacant, hact.kzero⟩

end

/-! ### Barriers and barrier objects -/

section

variable {k i : Nat} (s : State)

theorem State.releaseSplit_settles {j n : Nat} (hne : ¬(j = k ∧ n = i)) (status : Word) (lbl : Label) (ids : List Nat) :
    Settles k i s (s.releaseSplit j n status lbl ids) := by
  refine asWarp_settles s hne fun s => Acts.trans ?_ ((learn_acts _ _ _).trans (finishWait_acts _))
  split
  · exact setS_acts _ _ _ _
  · exact setS_acts _ _ _ _
  · exact .refl k i s

/-- The warps named are listed. -/
def State.Lists (s : State) (ws : List (Nat × Warp)) : Prop := ∀ e ∈ ws, e ∈ s.warps.entries

theorem State.lists_warpsOf (b : Nat) : s.Lists (s.warpsOf b) := fun _ he => (List.mem_filter.mp he).1

theorem State.lists_gangWarps (g : Nat) : s.Lists (s.gangWarps g) := fun _ he => by
  obtain ⟨ws, hws, he⟩ := List.mem_flatten.mp he
  obtain ⟨b, -, rfl⟩ := List.mem_map.mp hws
  exact s.lists_warpsOf b _ he

theorem State.completeBar_settles {s : State} {ws : List (Nat × Warp)} (hs : s.Vacant k i) (hws : s.Lists ws) (gang : Bool)
    (n : Nat) (status : Word) : Settles k i s (s.completeBar ws gang n status) := by
  refine foldl_settles (fun s _ p hp => s.releaseSplit_settles ?_ ..) hs
  obtain ⟨ps, hps, hp⟩ := List.mem_flatten.mp hp
  obtain ⟨e, he, rfl⟩ := List.mem_map.mp hps
  obtain ⟨q, hq, rfl⟩ := List.mem_map.mp hp
  rintro ⟨hk, hi⟩
  exact hs e (hws e he) hk q (List.mem_filter.mp (List.mem_filter.mp hq).1).1 hi

theorem State.settleBars_settles {s : State} (hs : s.Vacant k i) (b : Nat) : Settles k i s (s.settleBars b) := by
  unfold State.settleBars
  extract_lets step
  have hstep (gang : Bool) (s : State) (hs : s.Vacant k i) (n : Nat) : Settles k i s (step gang s n) := by
    dsimp -zeta only [step]
    extract_lets ws ab any
    have hws : s.Lists ws := by
      simp only [ws]
      split
      · exact s.lists_gangWarps _
      · exact s.lists_warpsOf _
    split
    · exact .refl k i s
    · split
      · exact State.completeBar_settles hs hws ..
      · split
        · exact State.completeBar_settles hs hws ..
        · exact .refl k i s
  have hblock := foldl_settles (xs := List.range 16) (fun s hs n _ => hstep false s hs n) hs
  exact hblock.trans (foldl_settles (fun _ hs n _ => hstep true _ hs n) (hblock.vacant hs))

theorem State.releaseBo_settles {j n : Nat} (hne : ¬(j = k ∧ n = i)) (v : Option Word) :
    Settles k i s (s.releaseBo j n v) := by
  refine asWarp_settles s hne fun s => ?_
  dsimp only
  split
  · refine Acts.trans ?_ (finishWait_acts _)
    split
    · split
      · exact (gather_acts _ _).trans ((setS_acts _ _ _ _).trans (learn_acts _ _ _))
      · exact (gather_acts _ _).trans (setS_acts _ _ _ _)
    · exact (gather_acts _ _).trans ((setS_acts _ _ _ _).trans (refuse_acts _ _ _))
  · exact .refl k i s

/-- A split that waits at a barrier object is listed. -/
theorem State.Vacant.ne_of_mem_boWaiters {s : State} (hs : s.Vacant k i) {b off : Nat} {x : Nat × Nat × BitVec 16}
    (hx : x ∈ s.boWaiters b off) : ¬(x.1 = k ∧ x.2.1 = i) := by
  obtain ⟨xs, hxs, hx⟩ := List.mem_flatten.mp hx
  obtain ⟨e, he, rfl⟩ := List.mem_map.mp hxs
  obtain ⟨p, hp, hx⟩ := List.mem_filterMap.mp hx
  rintro ⟨hk, hi⟩
  split at hx
  · split at hx
    · cases hx
      exact hs e he hk p (List.mem_filter.mp hp).1 hi
    · cases hx
  · cases hx

theorem State.settleObj_settles {s : State} (hs : s.Vacant k i) (b off : Nat) : Settles k i s (s.settleObj b off) := by
  refine foldl_settles (fun s _ x hx => ?_) hs
  have hne := hs.ne_of_mem_boWaiters hx
  split
  · exact s.releaseBo_settles hne _
  · split
    · exact s.releaseBo_settles hne _
    · exact .refl k i s

/-- A write of a block's window. -/
theorem State.setBytes_settles (a : Nat) (ha : 2 ^ 48 ≤ a) (bs : List Byte) : Settles k i s (s.setBytes a bs) := by
  induction bs generalizing s a with
  | nil => exact .refl k i s
  | cons b t ih =>
    refine Settles.trans ?_ (ih (s.setByte a b) (a + 1) (by omega))
    rw [State.setByte, if_neg (by omega)]
    exact .of_same rfl rfl rfl rfl rfl

theorem State.putObj_settles (b off : Nat) (o : BitVec 128) : Settles k i s (s.putObj b off o) := by
  unfold State.putObj
  refine Settles.trans (t := { s with hist := s.hist.forget (scratchKey b off) 16 }) (.of_same rfl rfl rfl rfl rfl)
    (State.setBytes_settles _ _ ?_ _)
  rw [scratchKey]
  omega

theorem State.abandonObjs_settles {s : State} (hs : s.Vacant k i) (b : Nat) : Settles k i s (s.abandonObjs b) := by
  have hput : Settles k i s ((s.blockAt b).objs.foldl
      (fun s off => s.putObj b off (s.objAt b off ||| (1#128 <<< 112))) s) :=
    foldl_settles (fun s _ _ _ => s.putObj_settles ..) hs
  exact hput.trans (foldl_settles (fun s hs _ _ => State.settleObj_settles hs ..) (hput.vacant hs))

/-! ### The end of a block, and a halt -/

theorem State.refuseWaits_settles {s : State} (hs : s.Vacant k i) (b : Nat) (offs : List Nat) :
    Settles k i s (offs.foldl (fun s off => (s.boWaiters b off).foldl (fun s w => s.releaseBo w.1 w.2.1 none) s) s) :=
  foldl_settles (fun _ hs _ _ =>
    foldl_settles (fun s _ _ hx => s.releaseBo_settles (hs.ne_of_mem_boWaiters hx) _) hs) hs

theorem State.settleBlock_settles {s : State} (hs : s.Vacant k i) (b : Nat) : Settles k i s (s.settleBlock b) := by
  unfold State.settleBlock
  extract_lets x s₁ s₂ y s₃ l run l' s₄ g s₅ m s₆
  split
  · exact .refl k i s
  · have hwaits : Settles k i s s₁ := State.refuseWaits_settles hs b _
    have hslots : Settles k i s₁ s₂ := .of_same rfl rfl rfl rfl rfl
    have hended : Settles k i s₂ s₃ := .of_same rfl rfl rfl rfl rfl
    have hrun : Settles k i s₃ s₄ := .of_same rfl rfl rfl rfl rfl
    have hgang : Settles k i s₄ s₅ := .of_same rfl rfl rfl rfl rfl
    have hlaunch : Settles k i s₅ s₆ := .of_same rfl rfl rfl rfl rfl
    have hblock : Settles k i s s₄ := hwaits.trans (hslots.trans (hended.trans hrun))
    split
    · exact hblock
    · exact hblock.trans (hgang.trans (hlaunch.trans (.of_same rfl rfl rfl rfl rfl)))

theorem State.settle_settles {s : State} (hs : s.Vacant k i) (b : Nat) : Settles k i s (s.settle b) :=
  have hbars := State.settleBars_settles hs b
  hbars.trans (State.settleBlock_settles (hbars.vacant hs) b)

theorem Warp.noKzero_halted (w : Warp) : w.halted.NoKzero := by
  intro p hp
  obtain ⟨hp, hlive⟩ := List.mem_filter.mp hp
  obtain ⟨e, -, rfl⟩ := List.mem_map.mp hp
  simp at hlive

/-- An error record changes the context's records and what is reported. -/
theorem State.recorded_eq (j : Nat) (pc : BitVec 57) (c : Cause) (einfo : Word) (pcause : Nat) (page : Bool) :
    let r := s.recorded j pc c einfo pcause page
    r = { s with ctxs := r.ctxs, late := r.late, outbox := r.outbox } := by
  unfold State.recorded
  split
  · rfl
  · unfold State.writeRecord
    rw [State.report_eq]
    rfl

theorem State.setWarpAt_halted_settles (j : Nat) : Settles k i s (s.setWarpAt j (s.warpAt j).halted) := by
  refine s.setWarpAt_settles j rfl (fun hj hs p hp => ?_) fun _ => Warp.noKzero_halted _
  obtain ⟨e, he, rfl⟩ := List.mem_map.mp hp
  subst hj
  exact hs.warpAt e he

theorem State.haltWarp_settles {s : State} (hs : s.Vacant k i) (j : Nat) (pc : BitVec 57) (c : Cause) (einfo : Word)
    (pcause : Nat) (page : Bool) : Settles k i s (s.haltWarp j pc c einfo pcause page) := by
  unfold State.haltWarp
  extract_lets w b s₁ s₂ s₃ dead x s₄ l s₅ s₆
  have hrecord : s₁ = { s with ctxs := s₁.ctxs, late := s₁.late, outbox := s₁.outbox } :=
    s.recorded_eq j pc c einfo pcause page
  have h₁ : Settles k i s s₁ := by
    rw [hrecord]
    exact .of_same rfl rfl rfl rfl rfl
  have h₂ : Settles k i s₁ s₂ := by
    have hw : s₁.warpAt j = w := by rw [hrecord]; rfl
    have hset := State.setWarpAt_halted_settles (k := k) (i := i) s₁ j
    rw [hw] at hset
    exact hset
  have h₃ : Settles k i s₂ s₃ := .of_same rfl rfl rfl rfl rfl
  have h₄ : Settles k i s₃ s₄ := .of_same rfl rfl rfl rfl rfl
  have h₅ : Settles k i s₄ s₅ := by
    unfold s₅
    split
    · exact .refl k i s₄
    · exact .of_same rfl rfl rfl rfl rfl
  have hhalted := h₁.trans (h₂.trans (h₃.trans (h₄.trans h₅)))
  have h₆ : Settles k i s₅ s₆ := by
    unfold s₆
    split
    · exact State.abandonObjs_settles (hhalted.vacant hs) b
    · exact .refl k i s₅
  exact hhalted.trans (h₆.trans (State.settle_settles (h₆.vacant (hhalted.vacant hs)) b))

end

end Sys2Proof.Machine
end

section

namespace Sys2Proof.Machine

/-! ## `yield` and the hints (04 R80, 05 R107, 11 R198) -/

/-- The READY splits beside the one that issues, under its scheduler. -/
theorem State.mem_siblings {s : State} {k i : Nat} :
    (k, i) ∈ s.siblings ↔ (k, i) ≠ (s.cur, s.curSplit) ∧ k / 8 = s.cur / 8 ∧
      ∃ w x, (k, w) ∈ s.warps.entries ∧ w.st = .run ∧ (i, x) ∈ w.liveSplits ∧ x.st = .ready := by
  rw [State.siblings, List.mem_filter, and_comm, decide_eq_true_eq]
  refine and_congr_right fun _ => ?_
  simp only [List.mem_flatten, List.mem_map, List.mem_filter, Bool.and_eq_true, beq_iff_eq,
    scheduler]
  constructor
  · rintro ⟨_, ⟨⟨j, w⟩, ⟨hmem, hsame, hrun⟩, rfl⟩, hin⟩
    obtain ⟨⟨n, x⟩, hx, heq⟩ := List.mem_map.mp hin
    obtain ⟨hlive, hready⟩ := List.mem_filter.mp hx
    obtain ⟨rfl, rfl⟩ := Prod.mk.inj heq
    exact ⟨of_decide_eq_true hsame, w, x, hmem, hrun, hlive, beq_iff_eq.mp hready⟩
  · rintro ⟨hsame, w, x, hmem, hrun, hlive, hready⟩
    exact ⟨_, ⟨(k, w), ⟨hmem, decide_eq_true hsame, hrun⟩, rfl⟩,
      List.mem_map.mpr ⟨(i, x), List.mem_filter.mpr ⟨hlive, beq_iff_eq.mpr hready⟩, rfl⟩⟩

/-- A fold that keeps what it has or takes the next gives one of the list. -/
theorem mem_of_foldl_pick {α : Type} {f : Option α → α → Option α} (hf : ∀ b a, f b a = some a ∨ f b a = b)
    {l : List α} {p : α} (h : l.foldl f none = some p) : p ∈ l := by
  have hgen (l : List α) (b : Option α) (h : l.foldl f b = some p) : p ∈ l ∨ b = some p := by
    induction l generalizing b with
    | nil => exact .inr h
    | cons a t ih =>
      rcases ih (f b a) h with hmem | hb
      · exact .inl (List.mem_cons_of_mem _ hmem)
      · rcases hf b a with hfa | hfa
        · exact .inl (List.mem_cons.mpr (.inl (Option.some.inj (hb.symm.trans hfa))))
        · exact .inr (hfa ▸ hb)
  exact (hgen l none h).resolve_right (by simp)

/-- The split that starves longest is one that starves. -/
theorem State.firstStarved_starved {s : State} {q : Nat} {p : Nat × Nat} (h : s.firstStarved q = some p) :
    s.starved p.1 p.2 = true := by
  have hmem : p ∈ (s.splitsOf q).filter fun p => s.starved p.1 p.2 := by
    refine mem_of_foldl_pick (fun b a => ?_) h
    cases b with
    | none => exact .inl rfl
    | some r =>
      dsimp only
      split
      · exact .inl rfl
      · exact .inr rfl
  exact (List.mem_filter.mp hmem).2

/-- A split that yields to another that is READY is no candidate, so it does not issue. -/
theorem canIssue_of_yieldBarred {s : State} {k sp : Nat} (h : s.yieldBarred k sp = true) : canIssue s k sp = false := by
  have hnot : s.candidate k sp = false := by simp [State.candidate, h]
  rw [canIssue, Bool.and_eq_false_iff]
  right
  cases hfirst : s.firstStarved (scheduler k) with
  | some p =>
    have hstarved := State.firstStarved_starved hfirst
    refine beq_false_of_ne fun heq => ?_
    subst heq
    simp [State.starved, hnot] at hstarved
  | none =>
    refine beq_false_of_ne fun heq => ?_
    have hnext := List.find?_some heq
    simp [State.unthrottled, hnot] at hnext

/-! ## `exit` (05 R104) -/

/-- A split and its lanes have left a warp: no split is listed there, and no entry holds one of the lanes. -/
structure Warp.Left (w : Warp) (i : Nat) (lanes : BitVec 32) : Prop where
  vacant : ∀ p ∈ w.splits.entries, p.1 ≠ i
  masks : ∀ e ∈ w.entries, e.mask &&& lanes = 0 ∧ e.mask ≠ 0

/-- What is left of an entry. -/
theorem Entry.mask_of_less {e f : Entry} {lanes : BitVec 32} (h : e.less lanes = some f) :
    f.mask &&& lanes = 0 ∧ f.mask ≠ 0 := by
  have hmask : f.mask = e.mask &&& ~~~lanes ∧ e.mask &&& ~~~lanes ≠ 0 := by
    unfold Entry.less at h
    dsimp only at h
    split at h
    · cases h
    · next hne =>
      cases Option.some.inj h
      cases e <;> exact ⟨rfl, hne⟩
  rw [hmask.1]
  refine ⟨?_, hmask.2⟩
  rw [BitVec.and_assoc, BitVec.and_comm (~~~lanes), BitVec.and_not_self]
  exact BitVec.and_zero

theorem Warp.splits_lessSplit (w : Warp) (i : Nat) :
    (w.lessSplit i).splits = ⟨Sparse.erase i w.splits.entries⟩ := by
  simp [Warp.lessSplit, Warp.setSplit, Sparse.set]

theorem Warp.left_lessSplit (w : Warp) (i : Nat) : (w.lessSplit i).Left i (w.split i).exec := by
  refine ⟨fun p hp => ?_, fun e he => ?_⟩
  · rw [w.splits_lessSplit] at hp
    exact (Sparse.mem_erase hp).2
  · have hs : (w.lessSplit i).entries = w.entries.filterMap fun e => e.less (w.split i).exec :=
      (List.filterMap_append ..).symm
    rw [hs] at he
    obtain ⟨f, -, hf⟩ := List.mem_filterMap.mp he
    exact Entry.mask_of_less hf

/-- A merge at an entry takes place, or nothing changes. -/
theorem State.mergeAt_cases (s : State) (w : Warp) (e : Entry) :
    (s.setWarp w).mergeAt e = s.setWarp w ∨ ∃ i y z, (i, y) ∈ w.joiners e ∧
      (s.setWarp w).mergeAt e = s.setWarp (((w.popEntry e).without (w.joiners e)).setSplit i z) := by
  cases hm : w.merges e with
  | false => exact .inl (State.mergeAt_of_waits (by rw [State.warp_setWarp]; exact hm))
  | true =>
    match e with
    | .raise .. | .serial .. | .diverge _ _ _ none _ => exact absurd hm (by simp [Warp.merges])
    | .diverge m mode pcl (some pc) rm =>
      cases hfind : (w.joiners (.diverge m mode pcl (some pc) rm)).find?
          (fun p => bitOf p.2.exec (headLane (lanesOf m))) with
      | none =>
        left
        unfold State.mergeAt
        simp only [State.warp_setWarp, hm, hfind, Bool.not_true, Bool.false_eq_true, if_false]
      | some p =>
        obtain ⟨i, y⟩ := p
        obtain ⟨safe, h⟩ := State.mergeAt_of_merges (s := s) hm hfind
        exact .inr ⟨i, y, _, List.mem_of_find?_eq_some hfind, h⟩

/-- A split listed once others are gone was listed before. -/
theorem Warp.mem_without {w : Warp} {js : List (Nat × Split)} {p : Nat × Split} (h : p ∈ (w.without js).splits.entries) :
    (∃ y ∈ js, y.1 = p.1) ∨ p ∈ w.splits.entries := by
  induction js generalizing w with
  | nil => exact .inr h
  | cons y t ih =>
    have hcons : w.without (y :: t) = (w.setSplit y.1 Split.blank).without t := rfl
    rw [hcons] at h
    rcases ih h with ⟨z, hz, hzp⟩ | h
    · exact .inl ⟨z, List.mem_cons_of_mem _ hz, hzp⟩
    · rcases Sparse.mem_set h with rfl | ⟨h, -⟩
      · exact .inl ⟨y, List.mem_cons_self, rfl⟩
      · exact .inr h

theorem Warp.Left.merged {w : Warp} {i : Nat} {lanes : BitVec 32} (h : w.Left i lanes) {e : Entry} {j : Nat} {y z : Split}
    (hj : (j, y) ∈ w.joiners e) : (((w.popEntry e).without (w.joiners e)).setSplit j z).Left i lanes := by
  have hjoin {p : Nat × Split} (hp : p ∈ w.joiners e) : p.1 ≠ i := h.vacant p (Warp.mem_joiners.mp hp).1
  refine ⟨fun p hp => ?_, fun f hf => ?_⟩
  · rcases Sparse.mem_set hp with rfl | ⟨hp, -⟩
    · exact h.vacant (j, y) (Warp.mem_joiners.mp hj).1
    · rcases Warp.mem_without hp with ⟨q, hq, hqp⟩ | hp
      · exact hqp ▸ hjoin hq
      · rw [w.popEntry_restacks] at hp
        exact h.vacant p hp
  · rw [Warp.entries_setSplit, Warp.entries_without, Warp.popEntry_entries] at hf
    exact h.masks f (List.mem_of_mem_erase hf)

/-- The warp once every merge that the end of a split completes has taken place. -/
theorem State.exists_settleJoin (s : State) {w : Warp} {i : Nat} {lanes : BitVec 32} (h : w.Left i lanes) :
    ∃ v, (s.setWarp w).settleJoin = s.setWarp v ∧ v.Left i lanes ∧ v.loads = w.loads ∧
      (w.liveSplits = [] → v.liveSplits = []) := by
  unfold State.settleJoin
  rw [State.warp_setWarp]
  generalize w.entries = es
  induction es generalizing w with
  | nil => exact ⟨w, rfl, h, rfl, id⟩
  | cons e t ih =>
    rw [List.foldl_cons]
    rcases s.mergeAt_cases w e with hsame | ⟨j, y, z, hj, hmerge⟩
    · rw [hsame]
      exact ih h
    · rw [hmerge]
      obtain ⟨v, hv, hleft, hloads, hlive⟩ := ih (h.merged (z := z) hj)
      refine ⟨v, hv, hleft, ?_, fun hnone => ?_⟩
      · rw [hloads, Warp.without_rest, w.popEntry_restacks]
        rfl
      · obtain ⟨hmem, hst, -⟩ := Warp.mem_joiners.mp hj
        have hlive : (j, y) ∈ w.liveSplits := List.mem_filter.mpr ⟨hmem, by rw [hst]; decide⟩
        rw [hnone] at hlive
        cases hlive

/-- Where each refill completes, whatever a merge needs is within reach. -/
theorem State.reachMerged_of_reads {s : State} (h : s.warp.spill = [] ∨ AreaReads s) : s.reachMerged = .ok s := by
  have hall (es : List Entry) (hes : ∀ e ∈ es, s.reach e = .ok s) : es.foldlM State.reach s = .ok s := by
    induction es with
    | nil => rfl
    | cons e t ih =>
      rw [List.foldlM_cons, hes e List.mem_cons_self]
      exact ih fun e he => hes e (List.mem_cons_of_mem _ he)
  refine hall _ fun e he => State.reach_of_mem h ?_
  exact List.mem_append_right _ (List.mem_filter.mp he).1

theorem Sparse.get_of_mem {V : Type} [DecidableEq V] {m : Sparse V} {d : V} (h : m.wf d = true) {k : Nat} {v : V}
    (hmem : (k, v) ∈ m.entries) : m.get d k = v := by
  simp only [Sparse.wf, Bool.and_eq_true, decide_eq_true_eq] at h
  rw [Sparse.get, (Sparse.look_eq_some_iff h.1).mpr hmem]
  rfl

/-- A warp whose other splits are gone has none left. -/
theorem Warp.liveSplits_lessSplit {w : Warp} {i : Nat} (hwf : w.splits.wf Split.blank = true)
    (hgone : ∀ j, j ≠ i → (w.split j).st = .gone) : (w.lessSplit i).liveSplits = [] := by
  refine List.filter_eq_nil_iff.mpr fun p hp => ?_
  rw [w.splits_lessSplit] at hp
  obtain ⟨hmem, hne⟩ := Sparse.mem_erase hp
  have hget := Sparse.get_of_mem hwf hmem
  have hst := hgone p.1 hne
  rw [Warp.split, hget] at hst
  simp [hst]

theorem Warp.poisonedLoad_eq_none {w : Warp} : w.poisonedLoad = none ↔ ∀ x ∈ w.loads, x.poison = none := by
  rw [Warp.poisonedLoad, List.findSome?_eq_none_iff]

/-- What the end of a split leaves, by what is left of its warp (05 R104, R110, 16 R267). -/
structure Exits (s t : State) : Prop where
  cur : t.cur = s.cur
  mem : t.mem = s.mem
  split : t.warp.split s.curSplit = Split.blank
  masks : ∀ e ∈ t.warp.entries, e.mask &&& s.split.exec = 0 ∧ e.mask ≠ 0

theorem Warp.Left.vacant_setWarp {w : Warp} {i : Nat} {lanes : BitVec 32} (h : w.Left i lanes) (s : State) :
    (s.setWarp w).Vacant s.cur i := by
  intro e he hk
  rcases Sparse.mem_set he with rfl | ⟨-, hne⟩
  · exact h.vacant
  · exact absurd hk hne

theorem Exits.of_settles {s t : State} {w : Warp} (hleft : w.Left s.curSplit s.split.exec)
    (h : Settles s.cur s.curSplit (s.setWarp w) t) : Exits s t := by
  have hcur : t.cur = s.cur := h.cur
  have hwarp : (s.setWarp w).warpAt s.cur = w := s.warp_setWarp w
  refine ⟨hcur, h.mem, ?_, fun e he => hleft.masks e ?_⟩
  · rw [State.warp, hcur]
    exact Warp.split_of_vacant (h.vacant (hleft.vacant_setWarp s)).warpAt
  · rw [State.warp, hcur, h.entries, hwarp] at he
    exact he

/-- A warp that drains stays so while its block is settled. -/
theorem State.st_settle_drain (s : State) (w : Warp) (b : Nat) :
    (((s.setWarp { w with st := .drain }).settle b).warpAt s.cur).st = .drain := by
  have hstopped : (s.setWarp { w with st := .drain }).Stopped s.cur := by
    intro e he hk
    rcases Sparse.mem_set he with rfl | ⟨-, hne⟩
    · rfl
    · exact absurd hk hne
  rw [((s.setWarp { w with st := .drain }).settle_spares b (k := s.cur)).warp hstopped]
  exact congrArg Warp.st (s.warp_setWarp _)

/-- The end of a split: the warp goes on with the others, drains, or halts where a load of it met poison. -/
theorem endSplit_exits (s : State) : Exits s (endSplit s) ∧
    ((s.warp.lessSplit s.curSplit).liveSplits = [] →
      (endSplit s).warp.st = if ∀ x ∈ s.warp.loads, x.poison = none then .drain else .halt) := by
  obtain ⟨v, hv, hleft, hloads, hlive⟩ := s.exists_settleJoin (s.warp.left_lessSplit s.curSplit)
  have hloads : v.loads = s.warp.loads := hloads
  have hvacant := hleft.vacant_setWarp s
  by_cases hnone : v.liveSplits = []
  · cases hpoison : v.poisonedLoad with
    | some pc =>
      have hend : endSplit s = (s.setWarp v).haltWarp s.cur pc .poison 0 0 := by
        simp [endSplit, hv, hnone, hpoison]
      have hexits := Exits.of_settles hleft (State.haltWarp_settles hvacant s.cur pc .poison 0 0 false)
      rw [hend]
      refine ⟨hexits, fun _ => ?_⟩
      have hsome : ¬∀ x ∈ s.warp.loads, x.poison = none := by
        rw [← hloads, ← Warp.poisonedLoad_eq_none, hpoison]
        simp
      rw [if_neg hsome, State.warp, hexits.cur, State.warpAt_haltWarp]
      rfl
    | none =>
      have hend : endSplit s = (s.setWarp { v with st := .drain }).settle s.warp.block := by
        simp [endSplit, hv, hnone, hpoison]
      have hdrain : Warp.Left { v with st := .drain } s.curSplit s.split.exec := ⟨hleft.vacant, hleft.masks⟩
      have hexits := Exits.of_settles hdrain (State.settle_settles (hdrain.vacant_setWarp s) s.warp.block)
      rw [hend]
      refine ⟨hexits, fun _ => ?_⟩
      rw [if_pos (by rw [← hloads]; exact Warp.poisonedLoad_eq_none.mp hpoison), State.warp, hexits.cur]
      exact s.st_settle_drain v _
  · have hend : endSplit s = (s.setWarp v).settle s.warp.block := by simp [endSplit, hv, hnone]
    rw [hend]
    exact ⟨.of_settles hleft (State.settle_settles hvacant _), fun h => absurd (hlive h) hnone⟩

/-- A completion whose split is written back as it is. -/
theorem goesOnly_setSplit {s t : State} {pc : BitVec 57} (h : GoesOnly s t pc) {y : Split} (hy : y = t.split) :
    GoesOnly s (t.setSplit y) pc := by
  obtain ⟨honly, hnext, hrest⟩ := h
  have hcur : t.curSplit = s.curSplit := by rw [honly]; rfl
  refine ⟨?_, ⟨?_, fun i hi => ?_⟩, ?_⟩
  · rw [OnlyWarp, State.warp_setSplit, State.setSplit_eq]
    exact (congrArg (State.setWarp · _) honly).trans (State.setWarp_setWarp ..)
  · rw [State.split_setSplit, hy]
    exact hnext.split
  · rw [State.warp_setSplit, hcur, Warp.split_setSplit_other _ _ hi, hnext.others i hi]
  · rw [State.warp_setSplit, hrest]
    rfl

/-- The split of a warp that yields. -/
theorem State.split_yield (s : State) (p : Bool) :
    let t := s.advance p
    t.split.yielded = s.split.yielded ∧ t.split.last = s.cycle := by
  intro t
  rw [(advance_goes s p).next.split]
  exact ⟨rfl, rfl⟩

/-- Settles O18: a hint only completes; `exit` refills what a merge needs and ends the split. -/
theorem hintsAdvanceAndExitEndsTheSplit : Obligations.HintsAdvanceAndExitEndsTheSplit := by
  unfold Obligations.HintsAdvanceAndExitEndsTheSplit
  refine ⟨fun s p a b l h => ⟨fun hready => ?nop, fun hready => ?yield, fun hready => ?sprf, fun hready => ?rhint⟩,
    fun s hready hreads => ?exit⟩
  case nop => exact completes_word (exec_nop ..) hready rfl (advance_goes s p)
  case sprf => exact completes_word (exec_sprf ..) hready rfl (advance_goes s p)
  case rhint => exact completes_word (exec_rhint ..) hready rfl (advance_goes s p)
  case yield =>
    obtain ⟨hyielded, hlast⟩ := s.split_yield p
    let u := (s.advance p).setSplit { (s.advance p).split with yielded := s.siblings }
    refine completes_word (exec_yield ..) hready rfl ⟨?_, fun k i => ?_, fun hother hcycle => ?_⟩
    · rw [State.split_setSplit, State.setSplit_setSplit]
      exact goesOnly_setSplit (advance_goes s p) (by rw [← hyielded])
    · rw [State.split_setSplit]
      exact State.mem_siblings
    · refine canIssue_of_yieldBarred ?_
      have hsplit : (u.warpAt s.cur).split s.curSplit = u.split := rfl
      have hulast : u.split.last = s.cycle := by rw [State.split_setSplit]; exact hlast
      obtain ⟨e, he, hready⟩ := hother
      rw [State.yieldBarred, hsplit, hulast, Bool.and_eq_true]
      exact ⟨decide_eq_true hcycle, List.any_eq_true.mpr ⟨e, he, hready⟩⟩
  case exit =>
    have heffect : (do let r ← s.reachMerged; pure (endSplit r) : Eff State) = .ok (endSplit s) := by
      rw [State.reachMerged_of_reads hreads]
      rfl
    obtain ⟨hexits, hst⟩ := endSplit_exits s
    refine completes_word (exec_exit ..) hready heffect ⟨hexits.split, hexits.cur, hexits.masks, fun hgone hwf => ?_,
      fun k hk => ?_⟩
    · exact hst (Warp.liveSplits_lessSplit hwf hgone)
    · rw [State.byteAt, State.byteAt, if_pos hk, if_pos hk, hexits.mem]

end Sys2Proof.Machine
end

section

namespace Sys2Proof.Machine

/-! ## What the Tack Room spends (04 R89, 20 R341) -/

/-- The owners of a label. -/
def ownersOf (o : Label) : List Nat := (List.range 16).filter fun i => bitOf o i

/-- A grant that is live for the warp that issues. -/
def State.liveGrant (s : State) (i : Nat) (x : Grant) : Bool := x.live s s.warp.ctx i s.launch.meas

theorem State.liveGrant_iff {s : State} {i : Nat} {x : Grant} : s.liveGrant i x = true ↔
    x.ctx = s.warp.ctx ∧ x.slot = i ∧ x.meas = s.launch.meas ∧ x.budget ≠ 0 ∧ s.cycle < x.expiry := by
  simp [State.liveGrant, Grant.live, and_assoc]

/-- The owners may be spent: they are the context's, and outside an audit run each has a live grant. -/
def State.Grants (s : State) (o : Label) : Prop :=
  Label.dom s.owners o = true ∧ (s.block.audit = true ∨ ∀ i < 16, o.getLsbD i = true →
    ∃ x ∈ s.tack.grants, x.ctx = s.warp.ctx ∧ x.slot = i ∧ x.meas = s.launch.meas ∧ x.budget ≠ 0 ∧ s.cycle < x.expiry)

/-- The grants once a unit of each owner is spent. -/
def State.spentGrants (s : State) (o : Label) : List Grant :=
  if s.block.audit then s.tack.grants
  else (ownersOf o).foldl (fun gs i => spendGrant s s.warp.ctx i s.launch.meas gs) s.tack.grants

theorem mem_ownersOf {o : Label} {i : Nat} : i ∈ ownersOf o ↔ i < 16 ∧ o.getLsbD i = true := by
  rw [ownersOf, List.mem_filter, List.mem_range, bitOf_eq_getLsbD]

theorem State.all_granted_iff {s : State} {o : Label} :
    ((ownersOf o).all fun i => s.tack.grants.any fun x => s.liveGrant i x) = true ↔
      ∀ i < 16, o.getLsbD i = true → ∃ x ∈ s.tack.grants,
        x.ctx = s.warp.ctx ∧ x.slot = i ∧ x.meas = s.launch.meas ∧ x.budget ≠ 0 ∧ s.cycle < x.expiry := by
  simp only [List.all_eq_true, mem_ownersOf, List.any_eq_true, State.liveGrant_iff, and_imp]

/-- The state once the owners are spent. -/
def State.paid (s : State) (o : Label) : State := { s with tack := { s.tack with grants := s.spentGrants o } }

/-- What `spend` does where the owners may be spent. -/
theorem State.spend_of_grants {s : State} {o : Label} (h : s.Grants o) (w : Word) :
    s.spend o w = .ok (s.paid o) := by
  obtain ⟨hdom, hlive⟩ := h
  unfold State.spend
  rw [hdom]
  cases haudit : s.block.audit with
  | true => simp [State.paid, State.spentGrants, haudit]
  | false =>
    have hall := State.all_granted_iff.mpr (hlive.resolve_left (by simp [haudit]))
    simp only [State.paid, State.spentGrants, haudit]
    exact if_pos hall

/-- Where they may not be it traps LBL_DCLS. -/
theorem State.spend_of_not_grants {s : State} {o : Label} (h : ¬s.Grants o) (w : Word) :
    s.spend o w = .error (.trap .lblDcls w) := by
  unfold State.spend
  cases hdom : Label.dom s.owners o with
  | false => rfl
  | true =>
    have hlive : ¬(s.block.audit = true ∨ _) := fun hlive => h ⟨hdom, hlive⟩
    obtain ⟨haudit, hnone⟩ := not_or.mp hlive
    have hall : ¬((ownersOf o).all fun i => s.tack.grants.any fun x => s.liveGrant i x) = true :=
      fun hall => hnone (State.all_granted_iff.mp hall)
    rw [Bool.eq_false_iff.mpr haudit]
    exact if_neg hall

/-! ### Each owner's grant is spent once -/

/-- A grant after the owners `os` have been spent: as it was, or with a unit less. -/
def State.SpentOf (s : State) (os : List Nat) (x y : Grant) : Prop :=
  y = x ∨ y = { x with budget := x.budget - 1 } ∧ s.liveGrant x.slot x = true ∧ x.slot ∈ os

/-- The units that are left. -/
def budgetsOf (gs : List Grant) : Nat := (gs.map fun x => x.budget.toNat).sum

theorem foldl_budgets (gs : List Grant) : gs.foldl (fun n x => n + x.budget.toNat) 0 = budgetsOf gs := by
  rw [budgetsOf, List.sum_eq_foldl, List.foldl_map]

/-- A unit of one more owner is spent: its first live grant has not been spent from. -/
theorem State.spentOf_spendGrant {s : State} {os : List Nat} {i : Nat} (hi : i ∉ os) {gs hs : List Grant}
    (h : List.Forall₂ (s.SpentOf os) gs hs) (hlive : ∃ x ∈ gs, s.liveGrant i x = true) :
    List.Forall₂ (s.SpentOf (i :: os)) gs (spendGrant s s.warp.ctx i s.launch.meas hs) ∧
      budgetsOf hs = budgetsOf (spendGrant s s.warp.ctx i s.launch.meas hs) + 1 := by
  have hmono {x y : Grant} (hxy : s.SpentOf os x y) : s.SpentOf (i :: os) x y :=
    hxy.imp_right fun ⟨hy, hx, hmem⟩ => ⟨hy, hx, List.mem_cons_of_mem _ hmem⟩
  induction h with
  | nil =>
    obtain ⟨x, hx, -⟩ := hlive
    cases hx
  | @cons x y gs hs hxy h ih =>
    have hslot : y.slot = x.slot := by
      rcases hxy with rfl | ⟨rfl, -⟩ <;> rfl
    have hsame (hx : x.slot = i) : y = x := hxy.resolve_right fun ⟨_, _, hmem⟩ => hi (hx ▸ hmem)
    cases hy : s.liveGrant i y with
    | true =>
      have hspend : spendGrant s s.warp.ctx i s.launch.meas (y :: hs) = { y with budget := y.budget - 1 } :: hs :=
        if_pos hy
      obtain ⟨-, hyslot, -, hbudget, -⟩ := State.liveGrant_iff.mp hy
      have hyx := hsame (hslot.symm.trans hyslot)
      subst hyx
      rw [hspend]
      refine ⟨.cons (.inr ⟨rfl, by rw [hyslot]; exact hy, by rw [hyslot]; exact List.mem_cons_self⟩)
        (h.imp fun _ _ => hmono), ?_⟩
      have hunit : y.budget.toNat = (y.budget - 1).toNat + 1 := by
        have : y.budget.toNat ≠ 0 := fun h0 => hbudget (BitVec.eq_of_toNat_eq (by simpa using h0))
        bv_omega
      simp only [budgetsOf, List.map_cons, List.sum_cons]
      omega
    | false =>
      have hspend : spendGrant s s.warp.ctx i s.launch.meas (y :: hs) =
          y :: spendGrant s s.warp.ctx i s.launch.meas hs := if_neg (by rw [State.liveGrant] at hy; simp [hy])
      have htail : ∃ z ∈ gs, s.liveGrant i z = true := by
        obtain ⟨z, hz, hzlive⟩ := hlive
        rcases List.mem_cons.mp hz with rfl | hz
        · obtain ⟨-, hzslot, -⟩ := State.liveGrant_iff.mp hzlive
          rw [hsame hzslot, hzlive] at hy
          cases hy
        · exact ⟨z, hz, hzlive⟩
      obtain ⟨hall, hunits⟩ := ih htail
      rw [hspend]
      refine ⟨.cons (hmono hxy) hall, ?_⟩
      simp only [budgetsOf, List.map_cons, List.sum_cons] at hunits ⊢
      omega

theorem State.spentOf_foldl {s : State} {os done : List Nat} {gs hs : List Grant} (hnodup : os.Nodup)
    (hdisjoint : ∀ i ∈ os, i ∉ done) (h : List.Forall₂ (s.SpentOf done) gs hs)
    (hlive : ∀ i ∈ os, ∃ x ∈ gs, s.liveGrant i x = true) :
    let out := os.foldl (fun gs i => spendGrant s s.warp.ctx i s.launch.meas gs) hs
    (∃ all, (∀ i ∈ all, i ∈ done ∨ i ∈ os) ∧ List.Forall₂ (s.SpentOf all) gs out) ∧
      budgetsOf hs = budgetsOf out + os.length := by
  induction os generalizing done hs with
  | nil => exact ⟨⟨done, fun i hi => .inl hi, h⟩, rfl⟩
  | cons i t ih =>
    rw [List.nodup_cons] at hnodup
    obtain ⟨hstep, hunit⟩ :=
      State.spentOf_spendGrant (hdisjoint i List.mem_cons_self) h (hlive i List.mem_cons_self)
    have hrest : ∀ j ∈ t, j ∉ i :: done := fun j hj hmem => by
      rcases List.mem_cons.mp hmem with rfl | hmem
      · exact hnodup.1 hj
      · exact hdisjoint j (List.mem_cons_of_mem _ hj) hmem
    obtain ⟨⟨all, hall, hforall⟩, hunits⟩ :=
      ih hnodup.2 hrest hstep fun j hj => hlive j (List.mem_cons_of_mem _ hj)
    refine ⟨⟨all, fun j hj => ?_, hforall⟩, ?_⟩
    · rcases hall j hj with hmem | hmem
      · rcases List.mem_cons.mp hmem with rfl | hmem
        · exact .inr List.mem_cons_self
        · exact .inl hmem
      · exact .inr (List.mem_cons_of_mem _ hmem)
    · rw [hunit, List.length_cons, List.foldl_cons]
      omega

theorem length_ownersOf (o : Label) : (ownersOf o).length = labelSize o := by
  rw [labelSize, popc_eq_length, ownersOf]
  refine congrArg List.length (List.filter_congr fun i _ => ?_)
  rw [bitOf_eq_getLsbD]
  rfl

/-- A successful spending takes one unit of a live grant of each owner, and no other. -/
theorem State.spend_ok {s t : State} {o : Label} {w : Word} (haudit : s.block.audit = false) (h : s.spend o w = .ok t) :
    t = { s with tack := { s.tack with grants := t.tack.grants } } ∧
      t.tack.grants.length = s.tack.grants.length ∧
      (∀ (i : Nat) (x y : Grant), s.tack.grants[i]? = some x → t.tack.grants[i]? = some y →
        y = x ∨ (y = { x with budget := x.budget - 1 } ∧ x.budget ≠ 0 ∧ x.ctx = s.warp.ctx ∧ x.slot < 16 ∧
          o.getLsbD x.slot = true ∧ x.meas = s.launch.meas ∧ s.cycle < x.expiry)) ∧
      (s.tack.grants.foldl (fun n x => n + x.budget.toNat) 0) =
        (t.tack.grants.foldl (fun n x => n + x.budget.toNat) 0) + labelSize o := by
  have hgrants : s.Grants o := by
    by_contra hnot
    rw [State.spend_of_not_grants hnot] at h
    cases h
  rw [State.spend_of_grants hgrants] at h
  cases h
  have hlive : ∀ i ∈ ownersOf o, ∃ x ∈ s.tack.grants, s.liveGrant i x = true := fun i hi => by
    obtain ⟨hlt, hbit⟩ := mem_ownersOf.mp hi
    obtain ⟨x, hx, hxlive⟩ := hgrants.2.resolve_left (by simp [haudit]) i hlt hbit
    exact ⟨x, hx, State.liveGrant_iff.mpr hxlive⟩
  have hrefl : List.Forall₂ (s.SpentOf []) s.tack.grants s.tack.grants := List.forall₂_same.mpr fun x _ => .inl rfl
  obtain ⟨⟨all, hall, hforall⟩, hunits⟩ := State.spentOf_foldl (List.nodup_range.filter _) (by simp) hrefl hlive
  have hspent : s.spentGrants o =
      (ownersOf o).foldl (fun gs i => spendGrant s s.warp.ctx i s.launch.meas gs) s.tack.grants := by
    rw [State.spentGrants, haudit]
    rfl
  rw [← ownersOf, ← hspent] at hforall hunits
  refine ⟨rfl, hforall.length_eq.symm, fun i x y hx hy => ?_, ?_⟩
  · obtain ⟨hi, rfl⟩ := List.getElem?_eq_some_iff.mp hx
    obtain ⟨hj, rfl⟩ := List.getElem?_eq_some_iff.mp hy
    refine (hforall.get hi hj).imp_right fun ⟨hspend, hxlive, hmem⟩ => ?_
    obtain ⟨hctx, -, hmeas, hbudget, hexpiry⟩ := State.liveGrant_iff.mp hxlive
    obtain ⟨hlt, hbit⟩ := mem_ownersOf.mp ((hall _ hmem).resolve_left List.not_mem_nil)
    exact ⟨hspend, hbudget, hctx, hlt, hbit, hmeas, hexpiry⟩
  · rw [foldl_budgets, foldl_budgets, ← length_ownersOf]
    exact hunits

/-! ## The Tack Room asked (04 R90) -/

/-- `u` is `s` with its block marked and picks taken. -/
structure Marks (s u : State) : Prop where
  eq : u = { s with blocks := u.blocks, choices := u.choices }
  audit : u.block.audit = s.block.audit
  memory : SameMemory s u

theorem State.block_setBlockAt (s : State) (x : Block) : (s.setBlockAt s.warp.block x).block = x :=
  s.blockAt_setBlockAt_same s.warp.block x

theorem State.mark_marks (s : State) : Marks s (s.mark true false false) := by
  have hmark : s.mark true false false = s.setBlockAt s.warp.block { s.block with
      noDiscard := s.block.noDiscard || true, noAudit := s.block.noAudit || false,
      didAtomic := s.block.didAtomic || false } := rfl
  rw [hmark]
  refine ⟨rfl, ?_, fun k => ?_⟩
  · rw [State.block_setBlockAt]
  · unfold State.byteAt
    split
    · rfl
    · by_cases hb : k / 2 ^ 48 - 1 = s.warp.block
      · rw [hb, State.blockAt_setBlockAt_same]
        rfl
      · rw [State.blockAt_setBlockAt_other _ _ hb]

theorem Marks.pick {s u : State} (h : Marks s u) (n : Nat) : Marks s (u.pick n).2 := by
  have hp := u.pick_snd n
  have hblocks : (u.pick n).2.blocks = u.blocks := by rw [hp]
  refine ⟨?_, ?_, fun k => ?_⟩
  · rw [hp, h.eq]
  · rw [hp]
    exact h.audit
  · rw [hp]
    exact h.memory k

theorem Marks.grants {s u : State} (h : Marks s u) (o : Label) : u.Grants o ↔ s.Grants o := by
  have haudit := h.audit
  unfold State.Grants
  rw [haudit, h.eq]
  rfl

/-- Of the state the spending reads the cycle alone. -/
theorem spendGrant_congr {s u : State} (h : u.cycle = s.cycle) (c i : Nat) (meas : BitVec 384) (gs : List Grant) :
    spendGrant u c i meas gs = spendGrant s c i meas gs := by
  induction gs with
  | nil => rfl
  | cons g t ih =>
    have hlive : g.live u c i meas = g.live s c i meas := by rw [Grant.live, Grant.live, h]
    rw [spendGrant, spendGrant, hlive, ih]

theorem Marks.spentGrants {s u : State} (h : Marks s u) (o : Label) : u.spentGrants o = s.spentGrants o := by
  have haudit := h.audit
  have hcycle : u.cycle = s.cycle := by rw [h.eq]
  unfold State.spentGrants
  simp only [haudit, spendGrant_congr hcycle]
  rw [h.eq]
  rfl

/-- Once the owners are spent: the block marked, the pick taken, the grants reduced. -/
structure Spent (s r : State) (o : Label) : Prop where
  eq : r = { s with blocks := r.blocks, choices := r.choices, tack := { s.tack with grants := s.spentGrants o } }
  memory : SameMemory s r

theorem State.pick_two (s : State) : (s.pick 2).1 = s.choices.headD 0 % 2 := by
  unfold State.pick
  cases s.choices <;> rfl

section

variable {s : State} {p vec : Bool} {o ops : Label} {d : Nat} {vals : List (Nat × Word × Label)} {w : Word}

/-- Where the owners are the context's, the reply comes as `choices` picks. -/
theorem askTack_eq (hdom : Label.dom s.owners o = true) :
    askTack p o d vec vals w ops (s.mark true false false) =
      let u := ((s.mark true false false).pick 2).2
      if s.choices.headD 0 % 2 = 0 then do
        let r ← u.spend o w
        pure ((r.putLowered d vec vals).advance p)
      else .ok (u.await (.dcls o d vec vals w) p ops) := by
  have howners : (s.mark true false false).owners = s.owners := rfl
  have hpick : ((s.mark true false false).pick 2).1 = s.choices.headD 0 % 2 := State.pick_two _
  unfold askTack
  rw [howners, hdom]
  simp only [Bool.not_true, Bool.false_eq_true, if_false, hpick]

/-- The reply comes at once and spends. -/
theorem askTack_spends (hg : s.Grants o) (hnow : s.choices.headD 0 % 2 = 0) : ∃ r, Spent s r o ∧
    askTack p o d vec vals w ops (s.mark true false false) = .ok ((r.putLowered d vec vals).advance p) := by
  have hpick := s.mark_marks.pick 2
  have hspend := State.spend_of_grants ((hpick.grants o).mpr hg) w
  refine ⟨((s.mark true false false).pick 2).2.paid o, ⟨?_, hpick.memory⟩, ?_⟩
  · rw [State.paid, hpick.spentGrants, hpick.eq]
  · rw [askTack_eq hg.1]
    simp only [if_pos hnow, hspend]
    rfl

/-- It comes at once and refuses, or the owners are not the context's. -/
theorem askTack_refuses (h : Label.dom s.owners o = false ∨ s.choices.headD 0 % 2 = 0 ∧ ¬s.Grants o) :
    askTack p o d vec vals w ops (s.mark true false false) = .error (.trap .lblDcls w) := by
  cases hdom : Label.dom s.owners o with
  | false =>
    have howners : (s.mark true false false).owners = s.owners := rfl
    rw [askTack, howners, hdom]
    rfl
  | true =>
    obtain ⟨hnow, hnot⟩ := h.resolve_left (by simp [hdom])
    have hspend := State.spend_of_not_grants (mt (((s.mark_marks).pick 2).grants o).mp hnot) w
    rw [askTack_eq hdom]
    simp only [if_pos hnow, hspend]
    rfl

/-- It is to come. -/
theorem askTack_waits (hdom : Label.dom s.owners o = true) (hlater : ¬s.choices.headD 0 % 2 = 0) : ∃ u, Marks s u ∧
    askTack p o d vec vals w ops (s.mark true false false) = .ok (u.await (.dcls o d vec vals w) p ops) := by
  refine ⟨((s.mark true false false).pick 2).2, s.mark_marks.pick 2, ?_⟩
  rw [askTack_eq hdom]
  exact if_neg hlater

end

/-! ## `dcls.s` and `dcls` (04 R89, R90) -/

/-- A marked instruction whose effect is a trap takes it. -/
theorem exec_of_markedTrap {i : Instr} {s : State} {f : State → Eff State} {p : Bool} {c : Cause} {e : Word} {page : Bool}
    (hexec : exec i s = wordMarked i s true false f) (hready : s.Ready i) (hatomic : globalAtomic i = false)
    (hf : f (s.mark true false false) = .error (.trap c e page)) (hsp : i.sp = p) :
    exec i s = .next ((s.mark true false false).takeTrap c e (s.readLabel i) s.split.pc p page) := by
  rw [hexec, wordMarked, hready.issue, hatomic, hf, hsp]
  rfl

theorem sp_dclsS (p : Bool) (d a g : SNum) : (Instr.dclsS p d a g).sp = p := by
  refine sp_of_encodeNat (c := 0x1C800000) (x := d.toNat * 0x20000 + (a.toNat * 0x800 + g.toNat * 0x20)) ?_ (by omega)
  rw [← Nat.add_assoc, ← Nat.add_assoc]
  rfl

theorem sp_dcls (p : Bool) (d a : VNum) (g : SNum) : (Instr.dcls p d a g).sp = p := by
  refine sp_of_encodeNat (c := 0x1C000000) (x := d.toNat * 0x10000 + (a.toNat * 0x200 + g.toNat * 0x8)) ?_ (by omega)
  rw [← Nat.add_assoc, ← Nat.add_assoc]
  rfl

/-- What a state keeps that goes on from a spending, with its warp alone changed. -/
theorem Spent.of_only {s r t : State} {o : Label} {pc : BitVec 57} (h : Spent s r o) (honly : OnlyWarp r t) (hnext : GoesTo r t pc) :
    SameMemory s t ∧ t.split.pc = pc ∧ t.split.st = s.split.st ∧ t.tack = (s.paid o).tack ∧ t.ctxs = s.ctxs := by
  have hsplit : r.split = s.split := by rw [h.eq]; rfl
  refine ⟨fun k => ?_, ?_, ?_, ?_, ?_⟩
  · rw [honly]
    exact h.memory k
  · rw [hnext.split]
  · rw [hnext.split, hsplit]
  · rw [honly, h.eq]
    rfl
  · rw [honly, h.eq]
    rfl

/-- The value goes to S[d] under the lowered label. -/
theorem completes_dclsS_spent {s : State} {p : Bool} {d a g : SNum} (hready : s.Ready (.dclsS p d a g))
    (ho : (s.sreg g).setWidth 16 ≠ (0 : Label)) (hnow : s.choices.headD 0 % 2 = 0)
    (hg : s.Grants ((s.sreg g).setWidth 16)) : Completes (.dclsS p d a g) s fun t =>
      ∃ r, Spent s r ((s.sreg g).setWidth 16) ∧
        WritesScalar r t (s.nextPc p) d (s.sreg a) (s.lowered (s.pcl ||| s.slbl a) g) none := by
  obtain ⟨r, hr, hask⟩ := askTack_spends (p := p) (vec := false) (d := d.toNat)
    (vals := [(0, s.sreg a, s.lowered (s.pcl ||| s.slbl a) g)]) (w := wordOf (.dclsS p d a g))
    (ops := s.readLabel (.dclsS p d a g)) hg hnow
  refine completes_marked (exec_dclsS ..) hready ((if_neg ho).trans hask) ⟨r, hr, ?_⟩
  have hpc : r.nextPc p = s.nextPc p := by rw [hr.eq]; rfl
  have hd : BitVec.ofNat 6 d.toNat = d := BitVec.ofNat_toNat ..
  rw [← hpc, State.putLowered]
  simp only [List.foldl_cons, List.foldl_nil, Bool.false_eq_true, if_false, hd]
  exact writesScalar_setS r p d _ _

/-- The values go to the lanes of V[d] under the lowered labels. -/
theorem completes_dcls_spent {s : State} {p : Bool} {d a : VNum} {g : SNum} (hready : s.Ready (.dcls p d a g))
    (hlanes : s.lanes ≠ []) (ho : (s.sreg g).setWidth 16 ≠ (0 : Label)) (hnow : s.choices.headD 0 % 2 = 0)
    (hg : s.Grants ((s.sreg g).setWidth 16)) : Completes (.dcls p d a g) s fun t =>
      ∃ r, Spent s r ((s.sreg g).setWidth 16) ∧
        WritesLanes r t (s.nextPc p) false d s.lanes (fun l => (s.vlane a.toNat l).val.toNat)
          (fun l => s.lowered (s.pcl ||| s.guardLbl ||| s.label (s.vlane a.toNat l).lbl) g) none := by
  obtain ⟨r, hr, hask⟩ := askTack_spends (p := p) (vec := true) (d := d.toNat)
    (vals := s.lanes.map fun l => (l, BitVec.ofNat 64 (s.velt false a.toNat l),
        s.lowered (s.pcl ||| s.guardLbl ||| s.vlbl false a.toNat l) g)) (w := wordOf (.dcls p d a g))
    (ops := s.readLabel (.dcls p d a g)) hg hnow
  refine completes_marked (exec_dcls ..) hready ((if_neg hlanes).trans ((if_neg ho).trans hask)) ⟨r, hr, ?_⟩
  have hpc : r.nextPc p = s.nextPc p := by rw [hr.eq]; rfl
  have hput : r.putLowered d.toNat true (s.lanes.map fun l => (l, BitVec.ofNat 64 (s.velt false a.toNat l),
      s.lowered (s.pcl ||| s.guardLbl ||| s.vlbl false a.toNat l) g)) =
      s.lanes.foldl (fun r l => r.setV false d.toNat l (s.vlane a.toNat l).val.toNat
        (s.lowered (s.pcl ||| s.guardLbl ||| s.label (s.vlane a.toNat l).lbl) g)) r := by
    have hval (l : Nat) : (BitVec.ofNat 64 (s.velt false a.toNat l)).toNat = (s.vlane a.toNat l).val.toNat := by
      have hlt := (s.vlane a.toNat l).val.isLt
      exact Nat.mod_eq_of_lt (by simp only [State.velt, Bool.false_eq_true, if_false]; omega)
    rw [State.putLowered, List.foldl_map]
    simp only [if_true, hval]
    rfl
  rw [← hpc, hput]
  exact writesLanes_fold r p false d _ _ s.lanes (fun _ h => State.lanes_lt h) s.lanes_nodup

section

variable {s : State} {p : Bool} {d a : VNum} {g : SNum}

/-- The mark of a block is none of what the checks of an instruction read. -/
theorem operandsOk_mark (s : State) (i : Instr) : (s.mark true false false).operandsOk i = s.operandsOk i := rfl
theorem scoreboarded_mark (s : State) (i : Instr) : (s.mark true false false).scoreboarded i = s.scoreboarded i := rfl
theorem readsPoison_mark (s : State) (i : Instr) : (s.mark true false false).readsPoison i = s.readsPoison i := rfl

/-- Without owners `dcls` is a `vmov` (R89). -/
theorem completes_dcls_move (hready : s.Ready (.dcls p d a g)) (hlanes : s.lanes ≠ [])
    (ho : (s.sreg g).setWidth 16 = (0 : Label)) (hmove : s.Ready (.vmov p d a)) : Completes (.dcls p d a g) s fun t =>
      WritesLanes (s.mark true false false) t (s.nextPc p) s.ty.wide d s.lanes
        (fun l => laneForm s.ty (s.elem s.ty a l)) (fun l => s.pcl ||| s.guardLbl ||| s.elemLbl s.ty a l) none := by
  have hchecks : dclsMove p d a (wordOf (.dcls p d a g)) (s.mark true false false) =
      .ok (vec1 p d a false (fun _ x => (x, 0#32)) (s.mark true false false)) := by
    unfold dclsMove
    dsimp only
    rw [operandsOk_mark, scoreboarded_mark, readsPoison_mark, hmove.operands, hmove.loads, hmove.poison]
    rfl
  refine completes_marked (exec_dcls ..) hready ((if_neg hlanes).trans ((if_pos ho).trans hchecks)) ?_
  exact writesLanes_vecEffect p s.ty d false (fun l => (s.elem s.ty a l, 0#32)) (s.elemLbl s.ty a)
    (s.mark true false false)

/-- With operands that `vmov` does not accept it traps ILL. -/
theorem exec_dcls_of_illegal (hready : s.Ready (.dcls p d a g)) (hlanes : s.lanes ≠ [])
    (ho : (s.sreg g).setWidth 16 = (0 : Label)) (hill : s.operandsOk (.vmov p d a) = false) :
    exec (.dcls p d a g) s = .next ((s.mark true false false).takeTrap .ill (wordOf (.dcls p d a g))
      (s.readLabel (.dcls p d a g)) s.split.pc p) := by
  refine exec_of_markedTrap (exec_dcls ..) hready rfl ((if_neg hlanes).trans ((if_pos ho).trans ?_)) (sp_dcls ..)
  unfold dclsMove
  dsimp only
  rw [operandsOk_mark, hill]
  rfl

end

/-- What a state keeps whose split waits for the Tack Room. -/
theorem Marks.of_await {s u : State} (h : Marks s u) (w : Wait) (p : Bool) (ops : Label) :
    let t := u.await w p ops
    t.tack = s.tack ∧ t.split.pc = s.split.pc ∧ SameMemory s t ∧ t.warp = { s.warp with splits := t.warp.splits } ∧
      t.split.st = .swait w := by
  intro t
  have ht := u.await_waits w p ops
  have hwarp : u.warp = s.warp := by rw [h.eq]; rfl
  have hsplit : u.split = s.split := by rw [h.eq]; rfl
  refine ⟨?_, ?_, fun k => h.memory k, ?_, ht.st⟩
  · have htack : t.tack = u.tack := by rw [show t = u.setWarp t.warp from ht.only]; rfl
    rw [htack, h.eq]
  · rw [ht.pc, hsplit]
  · rw [ht.rest, hwarp]

/-- The split waits with the value that a reply will let go. -/
theorem completes_dclsS_waits {s : State} {p : Bool} {d a g : SNum} (hready : s.Ready (.dclsS p d a g))
    (ho : (s.sreg g).setWidth 16 ≠ (0 : Label)) (hdom : Label.dom s.owners ((s.sreg g).setWidth 16) = true)
    (hlater : ¬s.choices.headD 0 % 2 = 0) : Completes (.dclsS p d a g) s fun t =>
      t.tack = s.tack ∧ t.split.pc = s.split.pc ∧ SameMemory s t ∧ t.warp = { s.warp with splits := t.warp.splits } ∧
        t.split.st = .swait (.dcls ((s.sreg g).setWidth 16) d.toNat false
          [(0, s.sreg a, s.lowered (s.pcl ||| s.slbl a) g)] (wordOf (.dclsS p d a g))) := by
  obtain ⟨u, hu, hask⟩ := askTack_waits (p := p) (vec := false) (d := d.toNat)
    (vals := [(0, s.sreg a, s.lowered (s.pcl ||| s.slbl a) g)]) (w := wordOf (.dclsS p d a g))
    (ops := s.readLabel (.dclsS p d a g)) hdom hlater
  exact completes_marked (exec_dclsS ..) hready ((if_neg ho).trans hask) (hu.of_await _ p _)

/-- The split waits with the lanes' values. -/
theorem completes_dcls_waits {s : State} {p : Bool} {d a : VNum} {g : SNum} (hready : s.Ready (.dcls p d a g))
    (hlanes : s.lanes ≠ []) (ho : (s.sreg g).setWidth 16 ≠ (0 : Label))
    (hdom : Label.dom s.owners ((s.sreg g).setWidth 16) = true) (hlater : ¬s.choices.headD 0 % 2 = 0) :
    Completes (.dcls p d a g) s fun t =>
      t.tack = s.tack ∧ t.split.pc = s.split.pc ∧ SameMemory s t ∧ t.warp = { s.warp with splits := t.warp.splits } ∧
        t.split.st = .swait (.dcls ((s.sreg g).setWidth 16) d.toNat true
          (s.lanes.map fun l => (l, (s.vlane a.toNat l).val.setWidth 64,
            s.lowered (s.pcl ||| s.guardLbl ||| s.label (s.vlane a.toNat l).lbl) g)) (wordOf (.dcls p d a g))) := by
  have hval (l : Nat) : (s.vlane a.toNat l).val.setWidth 64 = BitVec.ofNat 64 (s.velt false a.toNat l) :=
    (BitVec.ofNat_toNat ..).symm
  simp only [hval]
  obtain ⟨u, hu, hask⟩ := askTack_waits (p := p) (vec := true) (d := d.toNat)
    (vals := s.lanes.map fun l => (l, BitVec.ofNat 64 (s.velt false a.toNat l),
      s.lowered (s.pcl ||| s.guardLbl ||| s.vlbl false a.toNat l) g)) (w := wordOf (.dcls p d a g))
    (ops := s.readLabel (.dcls p d a g)) hdom hlater
  exact completes_marked (exec_dcls ..) hready ((if_neg hlanes).trans ((if_neg ho).trans hask)) (hu.of_await _ p _)

/-! ## The reply to a split that waits (04 R90, 05 R102) -/

/-- A slot that is not listed, beside a given one. -/
theorem State.exists_vacant (s : State) (w : Nat) : ∃ k, w ≠ k ∧ s.Vacant k 0 := by
  obtain ⟨k, hk⟩ := Infinite.exists_notMem_finset (w :: s.warps.entries.map Prod.fst).toFinset
  simp only [List.mem_toFinset, List.mem_cons, List.mem_map, not_or, not_exists, not_and] at hk
  exact ⟨k, Ne.symm hk.1, fun e he hek => absurd hek (hk.2 e he)⟩

/-- A warp of which no split waits at an `ltcompact` stays as it is. -/
theorem settleCompact_none {s : State} {w : Nat} (h : ∀ p ∈ (s.warpAt w).liveSplits, p.2.st ≠ .swait .ltcompact) :
    settleCompact w s = s := by
  unfold settleCompact
  split
  · rfl
  · generalize (s.warpAt w).liveSplits = ps at h
    induction ps with
    | nil => rfl
    | cons p t ih =>
      rw [List.foldl_cons, if_neg (by simpa using h p List.mem_cons_self)]
      exact ih fun q hq => h q (List.mem_cons_of_mem _ hq)

/-- A trap keeps what settling keeps. -/
theorem takeTrap_acts {k i : Nat} {s : State} (hs : s.Vacant k i) (c : Cause) (einfo : Word) (ops : Label)
    (epc : BitVec 57) (len8 page : Bool) : Acts k i s (s.takeTrap c einfo ops epc len8 page) := by
  unfold State.takeTrap
  extract_lets x r
  split
  · exact fun _ => State.haltWarp_settles hs ..
  · exact (setWarp_acts s (by rw [Warp.intern_rest]; rfl) (Warp.intern_splits ..)).trans
      (setSplit_acts _ (fun f n u h => by cases h))

/-- What the reply leaves where nothing that waits for it goes on. -/
theorem step_reply {s : State} {w sp : Nat} {rest : List Turn} (ha : s.agenda = .reply w sp :: rest)
    (hb : s.boot = .running) (hrun : (s.warpAt w).st = .run) {v : State}
    (hv : tackReply { s with agenda := rest, cur := w, curSplit := sp } = v) (hkzero : v.NoKzero)
    (hcompact : ∀ p ∈ (v.warpAt w).liveSplits, p.2.st ≠ .swait .ltcompact) :
    step s = .next { v with cur := s.cur, curSplit := s.curSplit } := by
  have hact : ({ s with agenda := rest } : State).asWarp w sp tackReply =
      { v with cur := s.cur, curSplit := s.curSplit } := by
    rw [← hv]
    rfl
  have hst : (({ s with agenda := rest } : State).warpAt w).st = .run := hrun
  have hturn : turn (.reply w sp) { s with agenda := rest } = .next (reply w sp { s with agenda := rest }) := rfl
  rw [step_eq_turn ha hb, hturn, reply, hst, hact]
  have hnone : settleCompact w { v with cur := s.cur, curSplit := s.curSplit } =
      { v with cur := s.cur, curSplit := s.curSplit } := settleCompact_none hcompact
  rw [hnone]
  exact congrArg _ (Laws.settleKzero_none _ hkzero)

/-- The completion of a wait is a write of the split, READY past its instruction. -/
theorem State.finishWait_eq (s : State) : ∃ y : Split, s.finishWait = s.setSplit y ∧ y.st = .ready ∧
    y.pc = s.split.pc + (if s.split.wmask.isSome then 8 else 4) := by
  refine ⟨_, State.setSplit_setSplit _ _ _, ?_, rfl⟩
  rw [State.split_setSplit]

/-- A lone split that is set READY leaves none that waits at an `ltcompact`. -/
theorem Warp.ready_of_lone {w v : Warp} {i : Nat} {y : Split} (hv : v.splits = w.splits) (hlone : ∀ p ∈ w.liveSplits, p.1 = i)
    (hy : y.st = .ready) : ∀ p ∈ (v.setSplit i y).liveSplits, p.2.st ≠ .swait .ltcompact := by
  intro p hp
  obtain ⟨hp, hlive⟩ := List.mem_filter.mp hp
  rcases Sparse.mem_set hp with rfl | ⟨hp, hne⟩
  · rw [hy]
    decide
  · rw [hv] at hp
    exact absurd (hlone p (List.mem_filter.mpr ⟨hp, hlive⟩)) hne

theorem Warp.lone_setSplit {w : Warp} {i : Nat} (hlone : ∀ p ∈ w.liveSplits, p.1 = i) (y : Split) :
    ∀ p ∈ (w.setSplit i y).liveSplits, p.1 = i := by
  intro p hp
  obtain ⟨hp, hlive⟩ := List.mem_filter.mp hp
  rcases Sparse.mem_set hp with rfl | ⟨hp, -⟩
  · rfl
  · exact hlone p (List.mem_filter.mpr ⟨hp, hlive⟩)

theorem Warp.liveSplits_halted (w : Warp) : w.halted.liveSplits = [] := by
  refine List.filter_eq_nil_iff.mpr fun p hp => ?_
  obtain ⟨e, -, rfl⟩ := List.mem_map.mp hp
  simp

/-- A trap of a lone split leaves none that waits at an `ltcompact`. -/
theorem State.compact_takeTrap {s : State} (hlone : ∀ p ∈ s.warp.liveSplits, p.1 = s.curSplit) (c : Cause) (einfo : Word)
    (ops : Label) (epc : BitVec 57) (len8 page : Bool) :
    ∀ p ∈ ((s.takeTrap c einfo ops epc len8 page).warpAt s.cur).liveSplits, p.2.st ≠ .swait .ltcompact := by
  by_cases henters : s.split.eh = false ∧ s.ctx.handler ≠ 0
  · rw [State.takeTrap_eq_setSplit henters.1 henters.2, State.intern_warp]
    have hwarp := State.warp_setSplit (s := s.setWarp (s.warp.intern s.owners (s.pcl ||| ops)).2)
      (s.trapped (s.intern (s.pcl ||| ops)).1 c einfo epc len8)
    rw [State.warp_setWarp] at hwarp
    have hready := Warp.ready_of_lone (y := s.trapped (s.intern (s.pcl ||| ops)).1 c einfo epc len8)
      (s.warp.intern_splits s.owners (s.pcl ||| ops)) hlone rfl
    intro p hp
    exact hready p (hwarp ▸ hp)
  · have hhalts : (s.split.eh || decide (s.ctx.handler = 0)) = true := by
      rw [Bool.or_eq_true, decide_eq_true_eq]
      by_contra hnot
      rw [not_or] at hnot
      exact henters ⟨by simpa using hnot.1, hnot.2⟩
    have hhalt : s.takeTrap c einfo ops epc len8 page =
        s.haltWarp s.cur epc c einfo (if s.split.eh then s.split.ecause.toNat else 0) page := if_pos hhalts
    rw [hhalt, State.warpAt_haltWarp, Warp.liveSplits_halted]
    exact fun p hp => nomatch hp

/-- A warp whose only live split is `i`. -/
theorem Warp.lone_of_length {w : Warp} {i : Nat} (hlength : w.liveSplits.length = 1) (hlive : (w.split i).st ≠ .gone) :
    ∀ p ∈ w.liveSplits, p.1 = i := by
  obtain ⟨q, hq⟩ := List.length_eq_one_iff.mp hlength
  have hmem : (i, w.split i) ∈ w.liveSplits := by
    rw [Warp.split, Sparse.get] at hlive ⊢
    cases hl : Sparse.look i w.splits.entries with
    | none => rw [hl] at hlive; exact absurd rfl hlive
    | some x =>
      rw [hl] at hlive
      exact List.mem_filter.mpr ⟨Sparse.mem_of_look hl, by simpa using hlive⟩
  intro p hp
  rw [hq] at hp hmem
  rw [List.mem_singleton.mp hp, ← List.mem_singleton.mp hmem]

/-- The values that a spending lets go to scalar registers change the warp alone, and none of its splits. -/
theorem State.putLowered_scalar (s : State) (d : Nat) (vals : List (Nat × Word × Label)) :
    let t := s.putLowered d false vals
    (∀ k i, Acts k i s t) ∧ t.cur = s.cur ∧ t.curSplit = s.curSplit ∧ t.warp.splits = s.warp.splits := by
  unfold State.putLowered
  induction vals generalizing s with
  | nil => exact ⟨fun k i => .refl k i s, rfl, rfl, rfl⟩
  | cons v rest ih =>
    obtain ⟨hacts, hcur, hsplit, hsplits⟩ := ih (s.setS (BitVec.ofNat 6 d) v.2.1 v.2.2)
    have hset : (s.setS (BitVec.ofNat 6 d) v.2.1 v.2.2).cur = s.cur := by
      unfold State.setS
      split <;> rfl
    refine ⟨fun k i => (setS_acts s _ _ _).trans (hacts k i), hcur.trans hset, hsplit.trans (State.setS_curSplit ..),
      hsplits.trans (State.splits_setS ..)⟩

section

variable {s : State} {w sp : Nat} {rest : List Turn} {o : Label} {d : Nat} {vals : List (Nat × Word × Label)} {x : Word}

/-- The state in which the reply comes. -/
def State.replied (s : State) (w sp : Nat) (rest : List Turn) : State := { s with agenda := rest, cur := w, curSplit := sp }

/-- Where the spending succeeds, the value is written and the split goes on. -/
theorem step_reply_spends (ha : s.agenda = .reply w sp :: rest) (hb : s.boot = .running) (hrun : (s.warpAt w).st = .run)
    (hst : (s.replied w sp rest).split.st = .swait (.dcls o d false vals x)) (hlone : (s.warpAt w).liveSplits.length = 1)
    (hkzero : s.NoKzero) {r : State} (hr : (s.replied w sp rest).spend o x = .ok r) : ∃ t, step s = .next t ∧ t.tack = r.tack ∧
      (∀ v, vals = [v] → d < 64 → d ≠ 0 → ({ t with cur := w } : State).sreg (BitVec.ofNat 6 d) = v.2.1) ∧
      ((t.warpAt w).split sp).st = .ready ∧
      ((t.warpAt w).split sp).pc = (s.replied w sp rest).split.pc +
        (if (s.replied w sp rest).split.wmask.isSome then 8 else 4) := by
  let u := s.replied w sp rest
  have hrpaid : r = u.paid o := by
    by_cases hg : u.Grants o
    · exact (Except.ok.inj ((State.spend_of_grants hg x).symm.trans hr)).symm
    · rw [State.spend_of_not_grants hg] at hr
      cases hr
  have hu : u.split.st = .swait (.dcls o d false vals x) := hst
  have hlive : ∀ p ∈ u.warp.liveSplits, p.1 = sp :=
    Warp.lone_of_length hlone fun hgone => by
      have hgone : u.split.st = .gone := hgone
      rw [hu] at hgone
      cases hgone
  obtain ⟨hacts, hcur, hcurSplit, hsplits⟩ := r.putLowered_scalar d vals
  let q := r.putLowered d false vals
  obtain ⟨y, hfinish, hready, hpc⟩ := q.finishWait_eq
  have hrcur : r.cur = w ∧ r.curSplit = sp ∧ r.warp.splits = u.warp.splits := by
    rw [hrpaid]
    exact ⟨rfl, rfl, rfl⟩
  have hqcur : q.cur = w := hcur.trans hrcur.1
  have hqsplit : q.curSplit = sp := hcurSplit.trans hrcur.2.1
  have hqsplits : q.warp.splits = u.warp.splits := hsplits.trans hrcur.2.2
  have hv : tackReply u = q.setSplit y := by
    unfold tackReply
    rw [hu]
    have hr' : u.spend o x = .ok r := hr
    simp only [hr', hfinish, q]
  have hvwarp : (q.setSplit y).warpAt w = q.warp.setSplit sp y := by
    rw [← hqcur, ← hqsplit]
    exact q.warp_setSplit y
  have hput : Settles (w + 1) 0 r q := hacts _ _ fun h => absurd (hrcur.1.symm.trans h.1) (by omega)
  have hnokzero : (q.setSplit y).NoKzero := by
    have hq : ¬(q.cur = w + 1 ∧ q.curSplit = 0) := fun h => absurd (hqcur.symm.trans h.1) (by omega)
    have hrkzero : r.NoKzero := by rw [hrpaid]; exact hkzero
    exact (setSplit_acts q (fun f n u h => by rw [hready] at h; cases h) hq).kzero (hput.kzero hrkzero)
  have hcompact := Warp.ready_of_lone hqsplits hlive hready
  rw [← hvwarp] at hcompact
  have hqu : q.split = u.split := by
    rw [State.split, Warp.split, hqsplits, hqsplit]
    rfl
  have hsplit : ((q.setSplit y).warpAt w).split sp = y := by rw [hvwarp, Warp.split_setSplit_same]
  refine ⟨_, step_reply ha hb hrun hv hnokzero hcompact, hput.tack, fun v hvals hd hd0 => ?_,
    (congrArg Split.st hsplit).trans hready, ?_⟩
  · have hd' : BitVec.ofNat 6 d ≠ 0 := by
      intro h
      have := congrArg BitVec.toNat h
      simp at this
      omega
    have hq : q.warp = r.warp.putS r.owners (BitVec.ofNat 6 d) v.2.1 v.2.2 := by
      subst hvals
      exact State.warp_setS ..
    have hget : ((q.setSplit y).warpAt w).sregs = q.warp.sregs := by rw [hvwarp]; rfl
    rw [State.sreg, if_neg hd']
    exact (congrArg (fun m => (Sparse.get m SReg.zero (BitVec.ofNat 6 d).toNat).val) hget).trans
      (by rw [hq, Warp.putS_entry _ _ _ _ _ hd'])
  · exact (congrArg Split.pc hsplit).trans (by rw [hpc, hqu])

/-- Where it fails, the split takes the trap. -/
theorem step_reply_refuses (ha : s.agenda = .reply w sp :: rest) (hb : s.boot = .running) (hrun : (s.warpAt w).st = .run)
    (hst : (s.replied w sp rest).split.st = .swait (.dcls o d false vals x)) (hlone : (s.warpAt w).liveSplits.length = 1)
    (hkzero : s.NoKzero) {e : Stop} (he : (s.replied w sp rest).spend o x = .error e) :
    ∃ t, step s = .next t ∧ t.tack = s.tack ∧
      ((s.replied w sp rest).split.eh = false → (s.replied w sp rest).ctx.handler ≠ 0 →
        ((t.warpAt w).split sp).eh = true ∧ ((t.warpAt w).split sp).ecause = BitVec.ofNat 8 Cause.lblDcls.code ∧
          ((t.warpAt w).split sp).epc = (s.replied w sp rest).split.pc ∧ ((t.warpAt w).split sp).einfo = x) := by
  let u := s.replied w sp rest
  let q := u.setSplit { u.split with st := .ready, wmask := none, wlbl := 0 }
  let v := q.takeTrap .lblDcls x u.split.wlbl u.split.pc u.split.wmask.isSome
  have hu : u.split.st = .swait (.dcls o d false vals x) := hst
  have hv : tackReply u = v := by
    unfold tackReply
    rw [hu]
    have he' : u.spend o x = .error e := he
    simp only [he', v, q]
  have hlive : ∀ p ∈ u.warp.liveSplits, p.1 = sp :=
    Warp.lone_of_length hlone fun hgone => by
      have hgone : u.split.st = .gone := hgone
      rw [hu] at hgone
      cases hgone
  have hqlive : ∀ p ∈ q.warp.liveSplits, p.1 = q.curSplit := by
    rw [State.warp_setSplit]
    exact Warp.lone_setSplit hlive _
  obtain ⟨k, hk, hvacant⟩ := s.exists_vacant w
  have hq : Settles k 0 u q := setSplit_acts u (fun f n u h => by cases h) fun h => hk h.1
  have hqv : Settles k 0 q v := takeTrap_acts (hq.vacant hvacant) _ _ _ _ _ _ fun h => hk h.1
  refine ⟨_, step_reply ha hb hrun hv (hqv.kzero (hq.kzero hkzero)) (State.compact_takeTrap hqlive _ _ _ _ _ _),
    hqv.tack.trans hq.tack, fun heh hhandler => ?_⟩
  have hqsplit : q.split = { u.split with st := .ready, wmask := none, wlbl := 0 } := u.split_setSplit _
  have hqctx : q.ctx = u.ctx := by
    have hctx : q.warp.ctx = u.warp.ctx := (congrArg Warp.ctx (u.warp_setSplit _)).trans rfl
    exact congrArg u.ctxAt hctx
  have henters := State.takeTrap_entersHandler (s := q) (by rw [hqsplit]; exact heh) (by rw [hqctx]; exact hhandler)
    .lblDcls x u.split.wlbl u.split.pc u.split.wmask.isSome false
  have hsplit : v.split = (v.warpAt w).split sp := by
    rw [State.split, State.warp, hqv.cur, hqv.curSplit]
    rfl
  have hfields : v.split.eh = true ∧ v.split.ecause = BitVec.ofNat 8 Cause.lblDcls.code ∧
      v.split.epc = u.split.pc ∧ v.split.einfo = x := ⟨henters.eh, henters.ecause, henters.epc, henters.einfo⟩
  rw [hsplit] at hfields
  exact hfields

end

/-- Settles O14: the copies, the Tack Room's answers as `choices` picks, its reply, and what it spends. -/
theorem declassificationNeedsLiveGrants : Obligations.DeclassificationNeedsLiveGrants := by
  unfold Obligations.DeclassificationNeedsLiveGrants
  refine ⟨fun s p d a g vd va => ?issue, fun s w sp rest o d vals x => ?reply, fun s t o w => State.spend_ok⟩
  case issue =>
    intro o live atOnce low lv i iv spent
    have hspent {t : State} (h : t.tack = (s.paid o).tack) (hg : s.Grants o) : spent t :=
      ⟨s.paid o, State.spend_of_grants hg _, h⟩
    refine ⟨fun hready ho => ?copyS, fun hready ho hnow hlive => ?spendS, fun hready hlanes ho hmove => ?copy,
      fun hready hlanes ho hill => ?ill, fun hready hlanes ho hnow hlive => ?spend, fun hready hlanes => ?idle,
      fun x hx hready ho => ⟨fun hrefused => ?refuse, fun hdom hlater => ?wait⟩⟩
    case copyS => exact completes_marked (exec_dclsS ..) hready (if_pos ho) (writesScalar_setS _ p d _ _)
    case spendS =>
      obtain ⟨t, ht, r, hr, hw⟩ := completes_dclsS_spent hready ho hnow hlive
      obtain ⟨hmem, hpc, hst, htack, hctxs⟩ := hr.of_only hw.only hw.next
      have hwarp : r.warp = s.warp := by rw [hr.eq]; rfl
      have howners : r.owners = s.owners := by rw [hr.eq]; rfl
      refine ⟨t, ht, hw.value, fun hd hroom => hw.label hd ?_, fun n hn => ?_, ?_, ?_, hmem, hpc, hst,
        hspent htack hlive, hctxs⟩
      · rw [HasRoom, hwarp, howners]
        exact hroom
      · rw [hw.others n hn, hwarp]
      · rw [hw.rest, hwarp]
      · rw [hw.flags, hwarp]
        simp
    case copy => exact completes_dcls_move hready hlanes ho hmove
    case ill => exact exec_dcls_of_illegal hready hlanes ho hill
    case spend =>
      obtain ⟨t, ht, r, hr, hw⟩ := completes_dcls_spent hready hlanes ho hnow hlive
      obtain ⟨hmem, hpc, hst, htack, hctxs⟩ := hr.of_only hw.only hw.next
      have hwarp : r.warp = s.warp := by rw [hr.eq]; rfl
      have howners : r.owners = s.owners := by rw [hr.eq]; rfl
      refine ⟨t, ht, fun l hl => ⟨?_, ?_⟩, fun n l hl hn => ?_, ?_, ?_, hmem, hpc, hst, hspent htack hlive, hctxs⟩
      · refine BitVec.eq_of_toNat_eq ((hw.value l hl).trans (Nat.mod_eq_of_lt ?_))
        exact (s.vlane va.toNat l).val.isLt
      · have hstands := hw.label l hl vd.toNat (.inl rfl)
        rw [Stands, hwarp, howners] at hstands
        exact hstands
      · have hother := hw.others n l hl (by simpa using hn)
        rw [hother, hr.eq]
        rfl
      · rw [hw.rest, hwarp]
      · rw [hw.flags, hwarp]
        simp
    case idle => exact completes_marked (exec_dcls ..) hready (if_pos hlanes) (advance_goes _ p)
    case refuse =>
      rcases hx with rfl | ⟨rfl, hlanes⟩
      · exact exec_of_markedTrap (exec_dclsS ..) hready rfl ((if_neg ho).trans (askTack_refuses hrefused)) (sp_dclsS ..)
      · exact exec_of_markedTrap (exec_dcls ..) hready rfl
          ((if_neg hlanes).trans ((if_neg ho).trans (askTack_refuses hrefused))) (sp_dcls ..)
    case wait =>
      rcases hx with rfl | ⟨rfl, hlanes⟩
      · obtain ⟨t, ht, htack, hpc, hmem, hwarp, hst⟩ := completes_dclsS_waits hready ho hdom hlater
        refine ⟨t, ht, htack, hpc, hmem, hwarp, _, ?_, fun _ => rfl, fun h => absurd rfl h⟩
        rw [hst, if_pos rfl, decide_eq_false (fun h => h rfl)]
        rfl
      · have hne : iv ≠ i := nofun
        obtain ⟨t, ht, htack, hpc, hmem, hwarp, hst⟩ := completes_dcls_waits hready hlanes ho hdom hlater
        refine ⟨t, ht, htack, hpc, hmem, hwarp, _, ?_, fun h => absurd h hne, fun _ => rfl⟩
        rw [hst, if_neg hne, decide_eq_true hne]
        rfl
  case reply =>
    intro u ha hb hrun hst hlone hkzero
    exact ⟨fun r hr => step_reply_spends ha hb hrun hst hlone hkzero hr,
      fun e he => step_reply_refuses ha hb hrun hst hlone hkzero he⟩

end Sys2Proof.Machine
end

section

namespace Sys2Proof.Machine

/-! ## What happens before a read (10 R176, R179) -/

theorem mem_joinIds {a b : List Nat} {x : Nat} : x ∈ joinIds a b ↔ x ∈ a ∨ x ∈ b := by
  by_cases hx : x ∈ a <;> simp [joinIds, hx]

theorem mem_joinAll {as : List (List Nat)} {x : Nat} : x ∈ joinAll as ↔ ∃ a ∈ as, x ∈ a := by
  induction as with
  | nil => simp [joinAll]
  | cons a t ih => simp [joinAll, mem_joinIds, ih]

theorem Warp.mem_seenAll {w : Warp} {ls : List Nat} {x : Nat} :
    x ∈ w.seenAll ls ↔ ∃ l ∈ ls, x ∈ w.hbBase ∨ x ∈ w.hb.get [] l := by
  simp [Warp.seenAll, mem_joinAll, Warp.seen, mem_joinIds]

/-- What a lane has seen stays seen. -/
theorem Warp.mem_learn {w : Warp} {l x : Nat} (ls ids : List Nat) (h : x ∈ w.hb.get [] l) :
    x ∈ (w.learn ls ids).hb.get [] l := by
  unfold Warp.learn
  refine List.foldlRecOn (motive := fun (hb : Sparse (List Nat)) => x ∈ hb.get [] l) ls _ h fun hb hx m _ => ?_
  rw [Sparse.get_set]
  split
  · next hl => exact mem_joinIds.mpr (.inl (hl ▸ hx))
  · exact hx

theorem Warp.seenAll_learn {w : Warp} {qs : List Nat} {x : Nat} (ls ids : List Nat) (h : x ∈ w.seenAll qs) :
    x ∈ (w.learn ls ids).seenAll qs := by
  obtain ⟨l, hl, hx⟩ := Warp.mem_seenAll.mp h
  exact Warp.mem_seenAll.mpr ⟨l, hl, hx.imp_right (Warp.mem_learn ls ids)⟩

/-! ## The histories of bytes (10 R183, R185) -/

theorem Hist.byte_setByte_same (h : Hist) (x : Nat) (b : ByteHist) : (h.setByte x b).byte x = some b :=
  Sparse.look_insert_same _ _ _ (Sparse.look_erase_same _ _)

theorem Hist.byte_setByte_other (h : Hist) {x y : Nat} (b : ByteHist) (hy : y ≠ x) :
    (h.setByte x b).byte y = h.byte y :=
  (Sparse.look_insert_other hy _ _).trans (Sparse.look_erase_other hy _)

/-- The value set of a byte with a history does not turn on what memory holds. -/
theorem Hist.values_congr {h : Hist} {x : Nat} {b : ByteHist} (hb : h.byte x = some b) (c d : Byte) (seen : List Nat) :
    h.values x c seen = h.values x d seen := by
  simp [Hist.values, hb]

section

variable {s : State} {seen : List Nat} {h : Hist} {x : Nat}

/-- The history of a byte whose place in its die's memory order may have moved, and stands at a write that may be read. -/
structure Derives (s : State) (seen : List Nat) (x : Nat) (old b : ByteHist) : Prop where
  writes : b.ws = old.ws
  init : b.init = old.init
  begun : ∀ i, b.solo = some (s.dieNo, i) → (∃ j, old.solo = some (s.dieNo, j)) ∨ s.nextId ≤ i
  top : ∀ i, b.solo = some (s.dieNo, i) → MayReadByte s seen x b.top

/-- The history `h` is that of `s` but for how far the writes have entered the dies' memory orders. -/
structure Follows (s : State) (seen : List Nat) (h : Hist) : Prop where
  writes : h.writes = s.hist.writes
  pend : ∀ q ∈ h.pend, q ∈ s.hist.pend
  unwritten : ∀ x, h.byte x = none ↔ s.hist.byte x = none
  bytes : ∀ x b, h.byte x = some b → ∃ old, s.hist.byte x = some old ∧ Derives s seen x old b

theorem Follows.refl (s : State) (seen : List Nat) : Follows s seen s.hist where
  writes := rfl
  pend := fun _ hq => hq
  unwritten := fun _ => Iff.rfl
  bytes := fun _ b hb =>
    ⟨b, hb, rfl, rfl, fun i hi => .inl ⟨i, hi⟩, fun i hi => .inr ⟨b, hb, .inl ⟨⟨i, hi⟩, rfl⟩⟩⟩

theorem Follows.values (hf : Follows s seen h) (c : Byte) (qs : List Nat) : h.values x c qs = s.hist.values x c qs := by
  unfold Hist.values
  cases hb : h.byte x with
  | none => rw [(hf.unwritten x).mp hb]
  | some b =>
    obtain ⟨old, hold, hd⟩ := hf.bytes x b hb
    simp only [hold, hd.writes, hd.init, Hist.hidden, Hist.wrec, hf.writes]

theorem Follows.byteOf (hf : Follows s seen h) (c : Byte) (w : Option Nat) :
    h.byteOf x c w = s.hist.byteOf x c w := by
  unfold Hist.byteOf
  cases hb : h.byte x with
  | none => rw [(hf.unwritten x).mp hb]
  | some b =>
    obtain ⟨old, hold, hd⟩ := hf.bytes x b hb
    cases w <;> simp only [hold, hd.writes, hd.init]

theorem Follows.wide (hf : Follows s seen h) (n : Nat) : h.wide x n = s.hist.wide x n := by
  unfold Hist.wide
  cases hb : h.byte x with
  | none => rw [(hf.unwritten x).mp hb]
  | some b =>
    obtain ⟨old, hold, hd⟩ := hf.bytes x b hb
    simp only [hold, hd.writes, Hist.wrec, hf.writes]
    rfl

theorem Follows.setByte {old b : ByteHist} (hf : Follows s seen h) (hold : s.hist.byte x = some old)
    (hd : Derives s seen x old b) : Follows s seen (h.setByte x b) where
  writes := hf.writes
  pend := hf.pend
  unwritten y := by
    by_cases hy : y = x
    · rw [hy, Hist.byte_setByte_same, hold]
      simp
    · rw [Hist.byte_setByte_other _ _ hy]
      exact hf.unwritten y
  bytes y c hc := by
    by_cases hy : y = x
    · subst hy
      rw [Hist.byte_setByte_same] at hc
      exact ⟨old, hold, Option.some.inj hc ▸ hd⟩
    · rw [Hist.byte_setByte_other _ _ hy] at hc
      exact hf.bytes y c hc

/-- Where an interval of the die begins, what stands last is the one value that a read may return. -/
theorem Follows.visitByte (hf : Follows s seen h) (x : Nat) : Follows s seen (h.visitByte s.dieNo s.nextId seen x) := by
  unfold Hist.visitByte
  cases hb : h.byte x with
  | none => exact hf
  | some b =>
    obtain ⟨old, hold, hd⟩ := hf.bytes x b hb
    dsimp only
    split
    · exact hf
    · refine hf.setByte hold ?_
      split
      · next halone =>
        refine ⟨hd.writes, hd.init, fun i hi => .inr ?_, fun i _ => .inl fun _ => ?_⟩
        · cases hi
          exact le_rfl
        · have hfst := (Bool.and_eq_true_iff.mp halone).2
          rw [hf.values, Hist.values_congr hold _ (s.byteAt x), beq_iff_eq] at hfst
          have hmem := List.mem_singleton_self (b.ws.head?.map Prod.fst)
          rw [← hfst] at hmem
          obtain ⟨⟨w, v⟩, hv, hw⟩ := List.mem_map.mp hmem
          exact ⟨v, hw ▸ hv⟩
      · exact ⟨hd.writes, hd.init, nofun, nofun⟩

theorem Follows.visit (hf : Follows s seen h) (k n : Nat) : Follows s seen (h.visit s.dieNo s.nextId seen k n) :=
  List.foldlRecOn (motive := Follows s seen) (List.range n) _ hf fun _ hg i _ => hg.visitByte (k + i)

/-! ## Writes that enter a die's memory order (10 R185) -/

/-- From `h` to `g` pending writes have entered the dies' memory orders. -/
structure Enters (s : State) (seen : List Nat) (h g : Hist) : Prop where
  follows : Follows s seen g
  solo : ∀ d i x, g.soloAt d i x = h.soloAt d i x

theorem Hist.soloAt_congr {h g : Hist} {d i x : Nat}
    (hb : (g.byte x).map ByteHist.solo = (h.byte x).map ByteHist.solo) : g.soloAt d i x = h.soloAt d i x := by
  unfold Hist.soloAt
  cases hg : g.byte x <;> cases hh : h.byte x <;> simp_all

/-- A pending write that becomes the last in its die's order at a byte that it writes may be read there. -/
theorem Derives.enter {p : PendW} {old b : ByteHist} (hd : Derives s seen x old b) (hold : s.hist.byte x = some old)
    (hp : p ∈ s.hist.pend) (hbegun : b.solo.any (fun y => y.1 = p.die && y.2 ≤ p.id) = true)
    (hwrites : (Sparse.look p.id b.ws).isSome = true) : Derives s seen x old { b with top := some p.id } := by
  refine ⟨hd.writes, hd.init, hd.begun, fun i hi => .inr ⟨old, hold, .inr ⟨p, hp, rfl, ?_, ?_⟩⟩⟩
  · obtain ⟨v, hv⟩ := Option.isSome_iff_exists.mp hwrites
    exact ⟨v, hd.writes ▸ Sparse.mem_of_look hv⟩
  · have hle : i ≤ p.id := by
      simp only at hi
      simp only [hi, Option.any_some, Bool.and_eq_true, decide_eq_true_eq] at hbegun
      exact hbegun.2
    exact (hd.begun i hi).imp_right fun hid => hid.trans hle

variable {g : Hist}

theorem Enters.place (he : Enters s seen h g) (p : PendW) : Enters s seen h (g.place p) := by
  unfold Hist.place
  split
  · next hp =>
    have hp : p ∈ s.hist.pend := he.follows.pend p (List.contains_iff_mem.mp hp)
    refine List.foldlRecOn (motive := Enters s seen h) (List.range p.len) _ ?_ fun f hf i _ => ?_
    · exact ⟨⟨he.follows.writes, fun q hq => he.follows.pend q (List.mem_of_mem_filter hq), he.follows.unwritten,
        he.follows.bytes⟩, he.solo⟩
    · cases hb : f.byte (p.key + i) with
      | none => exact hf
      | some b =>
        obtain ⟨old, hold, hd⟩ := hf.follows.bytes _ b hb
        dsimp only
        split
        · next henters =>
          obtain ⟨hbegun, hwrites⟩ := Bool.and_eq_true_iff.mp henters
          refine ⟨hf.follows.setByte hold (hd.enter hold hp hbegun hwrites), fun d j y => ?_⟩
          rw [← hf.solo]
          refine Hist.soloAt_congr ?_
          by_cases hy : y = p.key + i
          · rw [hy, Hist.byte_setByte_same, hb]
            rfl
          · rw [Hist.byte_setByte_other _ _ hy]
        · exact hf
  · exact he

theorem Enters.enterOne (he : Enters s seen h g) (p : PendW) : Enters s seen h (g.enterOne p) :=
  Enters.place (List.foldlRecOn (motive := Enters s seen h) _ _ he fun _ hf q _ => hf.place q) p

theorem Enters.force (he : Enters s seen h g) (goal : PendW → Bool) : Enters s seen h (g.force goal) :=
  List.foldlRecOn (motive := Enters s seen h) _ _ he fun _ hf p _ => hf.enterOne p

end

/-! ## The read event (10 R174, R183) -/

/-- From `s` to `t` nothing has moved but what the warp's lanes have seen and met, the history, and picks. -/
structure Reads (s t : State) : Prop where
  eq : t = { s with warps := t.warps, hist := t.hist, choices := t.choices }
  others : ∀ k, k ≠ s.cur → t.warpAt k = s.warpAt k
  warp : t.warp = { s.warp with hb := t.warp.hb, acq := t.warp.acq }

section

variable {s t u : State}

theorem Reads.refl (s : State) : Reads s s := ⟨rfl, fun _ _ => rfl, rfl⟩

theorem Reads.cur (h : Reads s t) : t.cur = s.cur := by rw [h.eq]
theorem Reads.nextId (h : Reads s t) : t.nextId = s.nextId := by rw [h.eq]
theorem Reads.dieNo (h : Reads s t) : t.dieNo = s.dieNo := congrArg (fun c => dieOf (c / 32)) h.cur
theorem Reads.byteAt (h : Reads s t) (x : Nat) : t.byteAt x = s.byteAt x := by rw [h.eq]; rfl

theorem Reads.trans (h : Reads s t) (k : Reads t u) : Reads s u := by
  refine ⟨?_, fun i hi => (k.others i (h.cur ▸ hi)).trans (h.others i hi), ?_⟩
  · rw [k.eq, h.eq]
  · rw [k.warp, h.warp]

theorem Reads.setHist (s : State) (h : Hist) : Reads s { s with hist := h } := ⟨rfl, fun _ _ => rfl, rfl⟩

theorem Reads.pick (s : State) (n : Nat) : Reads s (s.pick n).2 := by
  rw [s.pick_snd n]
  exact ⟨rfl, fun _ _ => rfl, rfl⟩

theorem Reads.setWarp {w : Warp} (hw : w = { s.warp with hb := w.hb, acq := w.acq }) : Reads s (s.setWarp w) := by
  refine ⟨rfl, fun k hk => s.warpAt_setWarp_other hk, ?_⟩
  rw [State.warp_setWarp]
  exact hw

theorem Reads.learn (s : State) (ls ids : List Nat) : Reads s (s.learn ls ids) := .setWarp rfl

theorem Reads.gather (s : State) (ls : List Nat) : Reads s (s.gather ls) := by
  unfold State.gather
  split
  · exact .refl s
  · exact .learn ..

theorem Reads.learnTile (s : State) (ls : List Nat) (k : Nat) : Reads s (s.learnTile ls k) := by
  unfold State.learnTile
  split
  · exact .refl s
  · exact .learn ..

theorem Reads.drainDie (n : Nat) (s : State) : Reads s (State.drainDie n s) := by
  induction n generalizing s with
  | zero => exact .refl s
  | succ n ih =>
    unfold State.drainDie
    dsimp only
    split
    · exact .pick ..
    · exact (Reads.pick ..).trans ((Reads.setHist ..).trans (ih _))

variable {seen own ls : List Nat} {k n : Nat} {h : Hist}

theorem Enters.drainDie (n : Nat) (he : Enters s seen h t.hist) : Enters s seen h (State.drainDie n t).hist := by
  induction n generalizing t with
  | zero => exact he
  | succ n ih =>
    have hpick (m : Nat) : (t.pick m).2.hist = t.hist := by rw [t.pick_snd]
    unfold State.drainDie
    dsimp only
    split
    · rw [hpick]
      exact he
    · refine ih (t := { (t.pick _).2 with hist := (t.pick _).2.hist.enterOne _ }) ?_
      rw [hpick]
      exact he.enterOne _

theorem Reads.enterDie (s : State) (seen own : List Nat) (all : Bool) (k n : Nat) :
    Reads s (s.enterDie seen own all k n) :=
  (Reads.setHist ..).trans (.drainDie ..)

theorem Enters.enterDie (hf : Follows s seen t.hist) (qs own : List Nat) (all : Bool) (k n : Nat) :
    Enters s seen t.hist (t.enterDie qs own all k n).hist :=
  Enters.drainDie _ (Enters.force ⟨hf, fun _ _ _ => rfl⟩ _)

/-! ### The picks of a read's bytes (10 R175) -/

theorem State.pick_lt (s : State) {n : Nat} (hn : 0 < n) : (s.pick n).1 < n := by
  unfold State.pick
  split
  · exact hn
  · split
    · exact hn
    · exact Nat.mod_lt _ hn

/-- Bytes read one after another by `rule`, which keeps `P` and gives each byte a write that `may` allows. -/
theorem State.foldl_reads {rule : State → Nat → Option Nat × State} {P : State → Prop} {may : Nat → Option Nat → Prop}
    (hP : P t) (hrule : ∀ u, P u → ∀ i < n, P (rule u (k + i)).2 ∧ may (k + i) (rule u (k + i)).1) :
    let r := (List.range n).foldl (fun (r : List Byte × List Nat × State) i =>
      let p := rule r.2.2 (k + i)
      (r.1 ++ [s.byteBy (k + i) p.1], joinIds r.2.1 p.1.toList, p.2)) ([], [], t)
    r.1.length = n ∧ P r.2.2 ∧ ∀ i < n, ∃ w, r.1[i]? = some (s.byteBy (k + i) w) ∧ may (k + i) w := by
  induction n with
  | zero => exact ⟨rfl, hP, nofun⟩
  | succ n ih =>
    obtain ⟨hlen, hPn, hmay⟩ := ih fun u hu i hi => hrule u hu i (by omega)
    simp only [List.range_succ, List.foldl_append, List.foldl_cons, List.foldl_nil]
    obtain ⟨hnext, hw⟩ := hrule _ hPn n (by omega)
    refine ⟨by rw [List.length_append, hlen]; rfl, hnext, fun i hi => ?_⟩
    by_cases hin : i < n
    · obtain ⟨w, hb, hm⟩ := hmay i hin
      exact ⟨w, by rw [List.getElem?_append_left (hin.trans_eq hlen.symm), hb], hm⟩
    · obtain rfl : i = n := by omega
      exact ⟨_, by rw [List.getElem?_append_right hlen.le, hlen, Nat.sub_self]; rfl, hw⟩

/-- The bytes that `rule` picks from `t`, whose histories differ from those of `s` by nothing that a pick turns on. -/
theorem State.picks_pickBytes {rule : State → Nat → Option Nat × State} {P : State → Prop}
    {may : Nat → Option Nat → Prop} (hn : 0 < n) (hP : P t)
    (hrule : ∀ u, P u → ∀ i < n, P (rule u (k + i)).2 ∧ may (k + i) (rule u (k + i)).1)
    (hr : Reads s t) (hf : Follows s seen t.hist) :
    Picks s k n (t.pickBytes k n rule).1 may ∧ P (t.pickBytes k n rule).2.2 := by
  have hbyte (x : Nat) (w : Option Nat) : t.byteBy x w = s.hist.byteOf x (s.byteAt x) w := by
    rw [State.byteBy, hf.byteOf, hr.byteAt]
  have hwide : t.wideAt k n = true ↔ ∀ i < n, s.hist.wide (k + i) n = true := by
    simp [State.wideAt, hf.wide]
  unfold State.pickBytes
  split
  · next hw =>
    obtain ⟨hnext, hmay⟩ := hrule t hP 0 hn
    have hget (i : Nat) (hi : i < n) : ((List.range n).map fun i => t.byteBy (k + i) (rule t k).1)[i]? =
        some (s.hist.byteOf (k + i) (s.byteAt (k + i)) (rule t k).1) := by
      simp [hi, hbyte]
    refine ⟨⟨by simp, fun _ => ⟨_, hmay, hget⟩, fun i hi => ⟨_, hget i hi, fun hnarrow => ?_⟩⟩, hnext⟩
    obtain ⟨j, hj, hfalse⟩ := hnarrow
    rw [hwide.mp hw j hj] at hfalse
    cases hfalse
  · next hw =>
    obtain ⟨hlen, hnext, hmay⟩ := State.foldl_reads (s := t) hP hrule
    refine ⟨⟨hlen, fun hall => absurd (hwide.mpr hall) hw, fun i hi => ?_⟩, hnext⟩
    obtain ⟨w, hb, hm⟩ := hmay i hi
    exact ⟨w, hbyte _ w ▸ hb, fun _ => hm⟩

/-- A byte picked from its value set may be read (10 R183). -/
theorem State.mayRead_pickByte (hr : Reads s t) (hf : Follows s seen t.hist) (x : Nat) :
    MayReadByte s seen x (t.pickByte seen false x).1 := by
  refine .inl fun hne => ?_
  have hvs : t.hist.values x (t.byteAt x) seen = s.hist.values x (s.byteAt x) seen := by rw [hf.values, hr.byteAt]
  simp only [State.pickByte, Bool.false_and, Bool.false_eq_true, if_false, hvs]
  have hlt := t.pick_lt (List.length_pos_iff.mpr hne)
  rw [List.getD_eq_getElem _ _ hlt]
  exact ⟨_, List.getElem_mem hlt⟩

/-- What the memory order of the die gives may be read: one of the lanes' own pending writes, or the write that stands
last there (10 R185). -/
theorem Follows.mayRead_dieByte (hf : Follows s seen h) (x : Nat) (hsolo : h.soloAt s.dieNo s.nextId x = true)
    (hown : ∀ i ∈ own, ∃ q ∈ s.hist.pend, q.id = i) (c : Byte) : MayReadByte s seen x (h.dieByte own x c).1 := by
  unfold Hist.dieByte
  unfold Hist.soloAt at hsolo
  cases hb : h.byte x with
  | none => exact .inl fun _ => ⟨_, by rw [Hist.values_unwritten ((hf.unwritten x).mp hb)]; exact List.mem_singleton_self _⟩
  | some b =>
    obtain ⟨old, hold, hd⟩ := hf.bytes x b hb
    rw [hb] at hsolo
    obtain ⟨i, hi⟩ : ∃ i, b.solo = some (s.dieNo, i) := by
      cases hs : b.solo with
      | none => simp [hs] at hsolo
      | some y =>
        simp only [hs, Option.any_some, Bool.and_eq_true, decide_eq_true_eq] at hsolo
        exact ⟨y.2, by rw [← hsolo.1]⟩
    simp only [hi, Option.map_some, Option.getD_some]
    split
    · next w hw =>
      have hfound := List.find?_some hw
      simp only [Bool.and_eq_true, List.contains_iff_mem, decide_eq_true_eq] at hfound
      obtain ⟨hmine, hlate⟩ := hfound
      obtain ⟨q, hq, hid⟩ := hown _ hmine
      refine .inr ⟨old, hold, .inr ⟨q, hq, by rw [hid], ⟨w.2, ?_⟩, ?_⟩⟩
      · rw [hid, ← hd.writes]
        exact List.mem_of_find?_eq_some hw
      · exact (hd.begun i hi).imp_right fun hle => hid ▸ hle.trans hlate
    · exact hd.top i hi

theorem State.mem_ownPend {i : Nat} (hi : i ∈ t.ownPend ls) : ∃ q ∈ t.hist.pend, q.id = i :=
  List.mem_map.mp (List.mem_of_mem_filter hi)

theorem Reads.pickByte (s : State) (seen : List Nat) (home : Bool) (x : Nat) :
    Reads s (s.pickByte seen home x).2 := .pick ..

/-- What the warp reads of `n` bytes is what the consistency model allows (10 R183, R185). -/
theorem State.picks_threadRead (hr : Reads s t) (hh : t.hist = s.hist) (hn : 0 < n) :
    let r := t.threadRead ls false k n
    Picks s k n r.1 (MayReadByte s (t.warp.seenAll ls)) ∧ Reads s r.2.2 := by
  let seen := t.warp.seenAll ls
  have hvisit : Reads s (t.visit seen k n) := hr.trans (.setHist ..)
  have hfollows : Follows s seen (t.visit seen k n).hist := by
    have hv := (hh ▸ Follows.refl s seen : Follows s seen t.hist).visit k n
    rw [← hr.dieNo, ← hr.nextId] at hv
    exact hv
  unfold State.threadRead
  dsimp only
  split
  · next hdie =>
    have hread := hvisit.trans (.enterDie (t.visit seen k n) seen ((t.visit seen k n).ownPend ls) false k n)
    have henters := Enters.enterDie hfollows seen ((t.visit seen k n).ownPend ls) false k n
    refine And.imp_right (fun h => by rw [h]; exact hread) (State.picks_pickBytes
      (P := (· = (t.visit seen k n).enterDie seen ((t.visit seen k n).ownPend ls) false k n))
      hn rfl ?_ hread henters.follows)
    rintro u rfl i hi
    refine ⟨rfl, henters.follows.mayRead_dieByte _ ?_ (fun j hj => ?_) _⟩
    · rw [henters.solo, ← hvisit.dieNo, ← hvisit.nextId]
      exact List.all_eq_true.mp hdie i (List.mem_range.mpr hi)
    · obtain ⟨q, hq, hid⟩ := State.mem_ownPend hj
      exact ⟨q, hfollows.pend q hq, hid⟩
  · refine And.imp_right And.left (State.picks_pickBytes
      (P := fun u => Reads s u ∧ u.hist = (t.visit seen k n).hist) hn ⟨hvisit, rfl⟩ ?_ hvisit hfollows)
    rintro u ⟨hu, hhist⟩ i -
    refine ⟨⟨hu.trans (.pickByte ..), ?_⟩, State.mayRead_pickByte hu (hhist ▸ hfollows) _⟩
    rw [← hhist, State.pickByte]
    dsimp only
    rw [State.pick_snd]

theorem Reads.readFrom (s : State) (ls ws : List Nat) : Reads s (s.readFrom ls none ws) := .setWarp rfl

theorem State.seenAll_learnTile {x : Nat} (qs : List Nat) (hx : x ∈ s.warp.seenAll qs) :
    x ∈ ((s.gather ls).learnTile ls k).warp.seenAll qs := by
  have hlearn (u : State) (ids : List Nat) (h : x ∈ u.warp.seenAll qs) : x ∈ (u.learn ls ids).warp.seenAll qs := by
    rw [State.learn, State.warp_setWarp]
    exact Warp.seenAll_learn ls ids h
  have hgather : x ∈ (s.gather ls).warp.seenAll qs := by
    unfold State.gather
    split
    · exact hx
    · exact hlearn s _ hx
  unfold State.learnTile
  split
  · exact hgather
  · exact hlearn _ _ hgather

/-- A plain read event reads what the consistency model allows, and stores nothing. -/
theorem State.mayRead_readEvent (s : State) (ls : List Nat) (k : Nat) (hn : 0 < n) :
    MayRead s ls k n (s.readEvent ls k n none false).1 ∧ Reads s (s.readEvent ls k n none false).2 := by
  have hr : Reads s ((s.gather ls).learnTile ls k) := (Reads.gather ..).trans (.learnTile ..)
  have hh : ((s.gather ls).learnTile ls k).hist = s.hist := by
    unfold State.learnTile State.gather
    split <;> split <;> rfl
  obtain ⟨hpicks, hread⟩ := State.picks_threadRead (ls := ls) (k := k) hr hh hn
  exact ⟨⟨_, fun x => State.seenAll_learnTile ls, hpicks⟩, hread.trans (.readFrom ..)⟩

end

end Sys2Proof.Machine

end

section

namespace Sys2Proof.Machine

/-! ## What an access leaves alone (04 R72) -/

/-- The warp that issues, in `r`, is that of `s` but for what its lanes have seen and met, and nothing that its
registers, its labels or its progress turn on differs. -/
structure SameWarp (s r : State) : Prop where
  cur : r.cur = s.cur
  curSplit : r.curSplit = s.curSplit
  cycle : r.cycle = s.cycle
  owners : r.owners = s.owners
  warp : r.warp = { s.warp with hb := r.warp.hb, acq := r.warp.acq }
  warps : ∀ k, k ≠ s.cur → r.warpAt k = s.warpAt k
  tack : r.tack = s.tack

section

variable {s r t : State} {pc : BitVec 57}

theorem SameWarp.split (h : SameWarp s r) : r.split = s.split := by
  rw [State.split, h.warp, h.curSplit]
  rfl

theorem SameWarp.nextPc (h : SameWarp s r) (p : Bool) : r.nextPc p = s.nextPc p := by
  rw [State.nextPc, h.split]
  rfl

theorem SameWarp.goesTo (h : SameWarp s r) (hg : GoesTo r t pc) : GoesTo s t pc where
  split := by rw [hg.split, h.split, h.cycle]
  others i hi := by
    rw [hg.others i (h.curSplit ▸ hi), h.warp]
    rfl

theorem SameWarp.trans (h : SameWarp s r) (k : SameWarp r t) : SameWarp s t where
  cur := k.cur.trans h.cur
  curSplit := k.curSplit.trans h.curSplit
  cycle := k.cycle.trans h.cycle
  owners := k.owners.trans h.owners
  warp := by rw [k.warp, h.warp]
  warps i hi := (k.warps i (h.cur ▸ hi)).trans (h.warps i hi)
  tack := k.tack.trans h.tack

/-- A change of other parts of the state than the warps leaves the warp as it was. -/
theorem SameWarp.of_warps (hwarps : r.warps = s.warps) (hcur : r.cur = s.cur) (hcurSplit : r.curSplit = s.curSplit)
    (hcycle : r.cycle = s.cycle) (hctx : (r.ctxAt s.warp.ctx).owners = (s.ctxAt s.warp.ctx).owners)
    (htack : r.tack = s.tack) : SameWarp s r := by
  have hwarp : r.warp = s.warp := by rw [State.warp, State.warpAt, hwarps, hcur]; rfl
  refine ⟨hcur, hcurSplit, hcycle, ?_, by rw [hwarp], fun k _ => by rw [State.warpAt, hwarps]; rfl, htack⟩
  rw [State.owners, State.ctx, hwarp, hctx]
  rfl

theorem Reads.sameWarp (h : Reads s r) : SameWarp s r where
  cur := h.cur
  curSplit := by rw [h.eq]
  cycle := by rw [h.eq]
  owners := by
    rw [State.owners, State.ctx, State.ctxAt, h.warp, h.eq]
    rfl
  warp := h.warp
  warps := h.others
  tack := by rw [h.eq]

theorem Reads.noStore (h : Reads s r) : NoStore s r where
  memory := h.byteAt
  phys := by rw [h.eq]
  warps := h.others
  tack := by rw [h.eq]

/-- What the warp alone does after a step that stored nothing stores nothing. -/
theorem noStore_of_only (h : NoStore s r) (hcur : r.cur = s.cur) (ho : OnlyWarp r t) : NoStore s t := by
  have hmemory (k : Nat) : t.byteAt k = r.byteAt k := (congrArg (State.byteAt · k) ho).trans rfl
  have hphys : t.phys = r.phys := (congrArg State.phys ho).trans rfl
  have hwarps (k : Nat) : t.warpAt k = (r.setWarp t.warp).warpAt k := (congrArg (State.warpAt · k) ho).trans rfl
  have htack : t.tack = r.tack := (congrArg State.tack ho).trans rfl
  refine ⟨fun k => (hmemory k).trans (h.memory k), hphys.trans h.phys, fun k hk => ?_, htack.trans h.tack⟩
  rw [hwarps, State.warpAt_setWarp_other _ (hcur ▸ hk), h.warps k hk]

theorem SameWarp.rest_of_writes {d : SNum} {v : Word} {l : Label} (h : SameWarp s r)
    (hw : WritesScalar r t pc d v l none) : t.warp = { s.warp with
      sregs := t.warp.sregs, poisonS := t.warp.poisonS, ltab := t.warp.ltab, coarsen := t.warp.coarsen,
      splits := t.warp.splits, hb := t.warp.hb, acq := t.warp.acq } := by
  have hrest := hw.rest
  have hflags : t.warp.flags = r.warp.flags := by simpa using hw.flags
  have hflbl : t.warp.flbl = r.warp.flbl := by simpa using hw.flbl
  have hhb : t.warp.hb = r.warp.hb := by rw [hrest]
  have hacq : t.warp.acq = r.warp.acq := by rw [hrest]
  rw [hhb, hacq]
  refine hrest.trans ?_
  rw [hflags, hflbl, h.warp]

/-- A loaded value is written after an access that stored nothing. -/
theorem loadsScalar_setS (h : SameWarp s r) (hn : NoStore s r) (p : Bool) (d : SNum) (v : Word) (l : Label) :
    LoadsScalar s ((r.setS d v l).advance p) (s.nextPc p) d v l := by
  have hw := writesScalar_setS r p d v l
  have hentry (i : Nat) : r.warp.entry s.owners i = s.warp.entry s.owners i :=
    Warp.entry_congr (by rw [h.warp]) _ _
  have hsregs : r.warp.sregs = s.warp.sregs := by rw [h.warp]
  refine ⟨h.nextPc p ▸ h.goesTo hw.next, noStore_of_only hn h.cur hw.only, hw.value, fun hd hroom => hw.label hd ?_,
    fun hd hdom => hw.dominates hd (h.owners ▸ hdom), fun hd => (hw.discarded hd).trans hsregs,
    fun q hq => (hw.others q hq).trans (by rw [hsregs]), fun i x hx => ?_, ?_⟩
  · rcases hroom with ⟨j, hj, he⟩ | ⟨j, hlo, hhi, he⟩
    · exact .inl ⟨j, hj, by rw [h.owners, hentry]; exact he⟩
    · exact .inr ⟨j, hlo, hhi, by rw [h.warp]; exact he⟩
  · have he := hw.entries i x
    rw [h.owners, hentry] at he
    exact he hx
  · exact h.rest_of_writes hw

/-! ## Refusals (16 R270) -/

theorem State.refuse_eq (s : State) (kind why : Nat) :
    s.refuse kind why = { s with pavs := (s.refuse kind why).pavs, ctxs := (s.refuse kind why).ctxs } := rfl

theorem State.refuse_ctx (s : State) (kind why : Nat) :
    (s.refuse kind why).ctxAt s.warp.ctx = { s.ctx with nrefuse := sat16 s.ctx.nrefuse } := by
  rw [State.refuse, State.logRefusal, State.ctxAt_setCtxAt_same]
  rfl

theorem State.refuse_sameWarp (s : State) (kind why : Nat) : SameWarp s (s.refuse kind why) := by
  have hctx := s.refuse_ctx kind why
  rw [s.refuse_eq kind why] at *
  exact .of_warps rfl rfl rfl rfl (by rw [hctx]; rfl) rfl

theorem State.refuse_noStore (s : State) (kind why : Nat) : NoStore s (s.refuse kind why) :=
  by
  rw [s.refuse_eq kind why]
  exact ⟨fun _ => rfl, rfl, fun _ _ => rfl, rfl⟩

theorem State.refuse_logs (s : State) (kind why : Nat) : LogsRefusal s (s.refuse kind why) kind why := by
  refine ⟨by rw [s.refuse_ctx], ?_⟩
  unfold State.refuse State.logRefusal
  dsimp only
  rw [State.pavAt_setCtxAt, State.ctx, State.pavAt_setPavAt_same]
  split <;> exact List.getLast?_concat

theorem logsRefusal_congr {kind why : Nat} (h : LogsRefusal s r kind why) (hctxs : t.ctxs = r.ctxs)
    (hpavs : t.pavs = r.pavs) : LogsRefusal s t kind why := by
  unfold LogsRefusal State.ctxAt State.pavAt at *
  rw [hctxs, hpavs]
  exact h

theorem logsRefusal_of_only {kind why : Nat} (h : LogsRefusal s r kind why) (ho : OnlyWarp r t) :
    LogsRefusal s t kind why :=
  logsRefusal_congr h ((congrArg State.ctxs ho).trans rfl) ((congrArg State.pavs ho).trans rfl)

/-! ## What keeps one access from being performed (11 R191) -/

theorem State.accessStop_load {k : Nat} {ceil : Label} (hheld : s.heldBy k = []) (hpoison : s.poisoned k = false) :
    s.accessStop true false [.ok k ceil] = none := by
  simp [State.accessStop, State.waitStop, firstStop, Chk.key, joinAll, joinIds, hheld, State.meetsPoison, hpoison]

theorem State.accessStop_store {k : Nat} {ceil : Label} (hheld : s.heldStore k = []) :
    s.accessStop false true [.ok k ceil] = none := by
  simp [State.accessStop, State.waitStop, firstStop, Chk.key, joinAll, joinIds, hheld]

theorem State.accessStop_refused (s : State) (reads writes : Bool) (why : Nat) :
    s.accessStop reads writes [.refused why] = none := by
  cases reads <;> rfl

theorem State.accessStop_trap (s : State) (reads writes : Bool) (c : Cause) (e : Word) (page : Bool) :
    s.accessStop reads writes [.trap c e page] = some (.trap c e page) := rfl

theorem State.accessStop_fault (s : State) (reads writes : Bool) (page kind : Nat) :
    s.accessStop reads writes [.fault page kind] = some (.park [(page, kind)]) := rfl

end

/-! ## `sld` (04 R72) -/

section

variable {s : State} {p : Bool} {d a b : SNum} {w : LdW}

/-- The value that a scalar load makes of the bytes it reads. -/
def loadedValue (w : LdW) (bs : List Byte) : Word :=
  if (ldWidth w).2 then BitVec.ofInt 64 (sextNat (8 * (ldWidth w).1) (leNat bs)) else BitVec.ofNat 64 (leNat bs)

theorem ldWidth_pos (w : LdW) : 0 < (ldWidth w).1 := by cases w <;> decide

theorem sp_sld : (Instr.sld p d a b w).sp = p := by
  have hw : w.code < 32 := by cases w <;> decide
  refine sp_of_encodeNat (c := 0x15000000) (x := d.toNat * 0x20000 + (a.toNat * 0x800 + (b.toNat * 0x20 + w.code))) ?_ (by omega)
  rw [← Nat.add_assoc, ← Nat.add_assoc, ← Nat.add_assoc]
  rfl

theorem completes_sld {k : Nat} {ceil : Label} (hready : s.Ready (.sld p d a b w))
    (hchk : s.memChk .load (s.sreg a + s.sreg b) (ldWidth w).1 = .ok k ceil) (hheld : s.heldBy k = [])
    (hpoison : s.poisoned k = false) : Completes (.sld p d a b w) s fun t =>
      ∃ bs, MayRead s s.execLanes k (ldWidth w).1 bs ∧
        LoadsScalar s t (s.nextPc p) d (loadedValue w bs) (s.granLbl k ||| (s.slbl a ||| s.slbl b ||| s.pcl)) := by
  obtain ⟨hbs, hreads⟩ := s.mayRead_readEvent s.execLanes k (ldWidth_pos w)
  refine completes_word (exec_sld ..) hready ?_ ⟨_, hbs, loadsScalar_setS hreads.sameWarp hreads.noStore p d _ _⟩
  simp only [hchk, State.accessStop_load hheld hpoison, BitVec.or_assoc]
  rfl

theorem completes_sld_refused {why : Nat} (hready : s.Ready (.sld p d a b w))
    (hchk : s.memChk .load (s.sreg a + s.sreg b) (ldWidth w).1 = .refused why) : Completes (.sld p d a b w) s fun t =>
      LoadsScalar s t (s.nextPc p) d (BitVec.allOnes 64) s.owners ∧ LogsRefusal s t 0 why := by
  have hwrites := writesScalar_setS (s.refuse 0 why) p d (BitVec.allOnes 64) s.owners
  refine completes_word (exec_sld ..) hready ?_ ⟨loadsScalar_setS (s.refuse_sameWarp 0 why) (s.refuse_noStore 0 why) p d _ _,
    logsRefusal_of_only (s.refuse_logs 0 why) hwrites.only⟩
  simp only [hchk, State.accessStop_refused]
  rfl

theorem exec_sld_trap {c : Cause} {e : Word} {page : Bool} (hready : s.Ready (.sld p d a b w))
    (hchk : s.memChk .load (s.sreg a + s.sreg b) (ldWidth w).1 = .trap c e page) :
    exec (.sld p d a b w) s = .next (s.takeTrap c e (s.readLabel (.sld p d a b w)) s.split.pc p page) := by
  refine exec_of_trap (exec_sld ..) hready ?_ rfl sp_sld
  simp only [hchk, State.accessStop_trap]

theorem completes_sld_fault {page kind : Nat} (hready : s.Ready (.sld p d a b w)) (hpage : page ≠ waitPage)
    (hchk : s.memChk .load (s.sreg a + s.sreg b) (ldWidth w).1 = .fault page kind) :
    Completes (.sld p d a b w) s fun t => Parks s t page kind := by
  refine ⟨_, (exec_sld ..).trans (word_error (e := .park [(page, kind)]) hready ?_), s.parkWarp_parks kind hpage⟩
  simp only [hchk, State.accessStop_fault]

end

end Sys2Proof.Machine

end

section

namespace Sys2Proof.Machine

/-! ## Bytes and granules (10 R174, 02 R21, 09 R169) -/

/-- Every granule keeps its label, and stays floating or fixed. -/
structure SameGranules (s t : State) : Prop where
  lbl : ∀ x, t.granLbl x = s.granLbl x
  floating : ∀ x, t.granFloat x = s.granFloat x

/-- Every byte and granule of memory, and of every block's windows, is as before. -/
structure SamePlaces (s t : State) : Prop extends SameGranules s t where
  memory : SameMemory s t

section

variable {s t u : State}

theorem SameGranules.trans (h : SameGranules s t) (k : SameGranules t u) : SameGranules s u where
  lbl x := (k.lbl x).trans (h.lbl x)
  floating x := (k.floating x).trans (h.floating x)

theorem SamePlaces.trans (h : SamePlaces s t) (k : SamePlaces t u) : SamePlaces s u where
  toSameGranules := h.toSameGranules.trans k.toSameGranules
  memory x := (k.memory x).trans (h.memory x)

theorem SameGranules.of_eq (hphys : t.phys.grans = s.phys.grans) (hblocks : t.blocks = s.blocks) : SameGranules s t where
  lbl x := by unfold State.granLbl State.blockAt; rw [hphys, hblocks]
  floating x := by unfold State.granFloat State.blockAt; rw [hphys, hblocks]

theorem SamePlaces.of_eq (hmem : t.mem = s.mem) (hphys : t.phys = s.phys) (hblocks : t.blocks = s.blocks) :
    SamePlaces s t where
  toSameGranules := .of_eq (by rw [hphys]) hblocks
  memory x := by unfold State.byteAt State.blockAt; rw [hmem, hblocks]

theorem Reads.samePlaces (h : Reads s t) : SamePlaces s t :=
  .of_eq (by rw [h.eq]) (by rw [h.eq]) (by rw [h.eq])

/-- A block replaced by one with the same labels of its windows. -/
theorem SameGranules.setBlockAt {b : Nat} {x : Block} (hlbl : x.lbl = (s.blockAt b).lbl)
    (hfixed : x.fixed = (s.blockAt b).fixed) : SameGranules s (s.setBlockAt b x) := by
  have hblock (j : Nat) : ((s.setBlockAt b x).blockAt j).lbl = (s.blockAt j).lbl ∧
      ((s.setBlockAt b x).blockAt j).fixed = (s.blockAt j).fixed := by
    by_cases hj : j = b
    · rw [hj, State.blockAt_setBlockAt_same]
      exact ⟨hlbl, hfixed⟩
    · rw [State.blockAt_setBlockAt_other _ _ hj]
      exact ⟨rfl, rfl⟩
  refine ⟨fun k => ?_, fun k => ?_⟩
  · rw [State.granLbl, (hblock _).1]
    rfl
  · rw [State.granFloat, (hblock _).2]
    rfl

/-- A block replaced by one that holds the same bytes. -/
theorem sameMemory_setBlockAt {b : Nat} {x : Block} (hmem : x.mem = (s.blockAt b).mem) :
    SameMemory s (s.setBlockAt b x) := by
  intro k
  have hblock (j : Nat) : ((s.setBlockAt b x).blockAt j).mem = (s.blockAt j).mem := by
    by_cases hj : j = b
    · rw [hj, State.blockAt_setBlockAt_same, hmem]
    · rw [State.blockAt_setBlockAt_other _ _ hj]
  rw [State.byteAt, hblock]
  rfl

theorem SamePlaces.setBlockAt {b : Nat} {x : Block} (hmem : x.mem = (s.blockAt b).mem) (hlbl : x.lbl = (s.blockAt b).lbl)
    (hfixed : x.fixed = (s.blockAt b).fixed) : SamePlaces s (s.setBlockAt b x) :=
  ⟨.setBlockAt hlbl hfixed, sameMemory_setBlockAt hmem⟩

theorem SameWarp.setBlockAt (s : State) (b : Nat) (x : Block) : SameWarp s (s.setBlockAt b x) :=
  .of_warps rfl rfl rfl rfl rfl rfl

theorem State.mark_samePlaces (s : State) : SamePlaces s (s.mark true false false) := .setBlockAt rfl rfl rfl

theorem State.mark_sameWarp (s : State) : SameWarp s (s.mark true false false) := .setBlockAt ..

theorem State.digest_samePlaces (s : State) (b va v : Nat) : SamePlaces s (s.digest b va v) := by
  unfold State.digest
  split
  · exact .setBlockAt rfl rfl rfl
  · exact .of_eq rfl rfl rfl

theorem State.digest_eq (s : State) (b va v : Nat) : s.digest b va v = { s with blocks := (s.digest b va v).blocks } := by
  unfold State.digest
  split <;> rfl

theorem State.digest_sameWarp (s : State) (b va v : Nat) : SameWarp s (s.digest b va v) := by
  rw [State.digest_eq]
  exact .of_warps rfl rfl rfl rfl rfl rfl

/-! ### Bytes written -/

/-- The windows' blocks and offsets name their bytes apart. -/
theorem scratch_key_eq {x k : Nat} (hx : ¬x < 2 ^ 48) (hk : ¬k < 2 ^ 48) (hblock : x / 2 ^ 48 - 1 = k / 2 ^ 48 - 1)
    (hoff : x % 2 ^ 48 = k % 2 ^ 48) : x = k := by
  omega

theorem State.byteAt_setByte (s : State) (k x : Nat) (b : Byte) :
    (s.setByte k b).byteAt x = if x = k then b else s.byteAt x := by
  unfold State.setByte
  split
  · next hk =>
    unfold State.byteAt
    dsimp only
    by_cases hx : x = k
    · rw [if_pos hx, hx, if_pos hk, Memory.read_write_same]
    · rw [if_neg hx, Memory.read_write_other _ _ hx]
      rfl
  · next hk =>
    unfold State.byteAt
    dsimp only
    by_cases hlow : x < 2 ^ 48
    · rw [if_pos hlow, if_pos hlow, if_neg (by omega)]
      rfl
    · rw [if_neg hlow, if_neg hlow]
      by_cases hblock : x / 2 ^ 48 - 1 = k / 2 ^ 48 - 1
      · rw [hblock, State.blockAt_setBlockAt_same, Sparse.get_set]
        by_cases hoff : x % 2 ^ 48 = k % 2 ^ 48
        · rw [if_pos hoff, if_pos (scratch_key_eq hlow hk hblock hoff)]
        · rw [if_neg hoff, if_neg fun h => hoff (by rw [h])]
      · rw [State.blockAt_setBlockAt_other _ _ hblock, if_neg fun h => hblock (by rw [h])]

theorem State.byteAt_setBytes (s : State) (k x : Nat) (bs : List Byte) :
    (s.setBytes k bs).byteAt x = if k ≤ x ∧ x < k + bs.length then bs.getD (x - k) 0 else s.byteAt x := by
  induction bs generalizing s k with
  | nil => rw [if_neg (by simp)]; rfl
  | cons b t ih =>
    rw [State.setBytes, ih, State.byteAt_setByte, List.length_cons]
    by_cases hk : x = k
    · subst hk
      simp
    · by_cases hin : k + 1 ≤ x ∧ x < k + 1 + t.length
      · have hsub : x - k = x - (k + 1) + 1 := by omega
        rw [if_pos hin, if_pos (by omega), hsub, List.getD_cons_succ]
      · rw [if_neg hin, if_neg hk, if_neg (by omega)]

theorem State.setByte_sameGranules (s : State) (k : Nat) (b : Byte) : SameGranules s (s.setByte k b) := by
  unfold State.setByte
  split
  · exact .of_eq rfl rfl
  · exact .setBlockAt rfl rfl

theorem State.setByte_sameWarp (s : State) (k : Nat) (b : Byte) : SameWarp s (s.setByte k b) := by
  unfold State.setByte
  split
  · exact .of_warps rfl rfl rfl rfl rfl rfl
  · exact .setBlockAt ..

theorem SameWarp.refl (s : State) : SameWarp s s := .of_warps rfl rfl rfl rfl rfl rfl

theorem State.setBytes_keeps_rest (s : State) (k : Nat) (bs : List Byte) :
    SameGranules s (s.setBytes k bs) ∧ SameWarp s (s.setBytes k bs) := by
  induction bs generalizing s k with
  | nil => exact ⟨.of_eq rfl rfl, .refl s⟩
  | cons b t ih =>
    obtain ⟨hg, hw⟩ := ih (s.setByte k b) (k + 1)
    exact ⟨(s.setByte_sameGranules k b).trans hg, (s.setByte_sameWarp k b).trans hw⟩

theorem State.setBytes_warp (s : State) (k : Nat) (bs : List Byte) : (s.setBytes k bs).warp = s.warp := by
  induction bs generalizing s k with
  | nil => rfl
  | cons b t ih =>
    rw [State.setBytes, ih]
    unfold State.setByte
    split <;> rfl

theorem length_leBytes (n v : Nat) : (leBytes n v).length = n := by
  induction n generalizing v with
  | zero => rfl
  | succ n ih => rw [leBytes, List.length_cons, ih]

theorem getD_leBytes {n i : Nat} (hi : i < n) (v : Nat) : (leBytes n v).getD i 0 = BitVec.ofNat 8 (v / 256 ^ i) := by
  induction n generalizing v i with
  | zero => omega
  | succ n ih =>
    cases i with
    | zero => simp [leBytes]
    | succ i => rw [leBytes, List.getD_cons_succ, ih (by omega), Nat.div_div_eq_div_mul, Nat.pow_succ']

/-! ### A granule that joins a contribution (02 R21) -/

theorem State.joinGran_sameWarp (s : State) (k : Nat) (c : Label) : SameWarp s (s.joinGran k c) := by
  unfold State.joinGran
  dsimp only
  split
  · split
    · exact .of_warps rfl rfl rfl rfl rfl rfl
    · exact .refl s
  · split
    · exact .refl s
    · exact .setBlockAt ..

theorem State.joinGran_fixed {k : Nat} (c : Label) (h : s.granFloat k = false) : s.joinGran k c = s := by
  unfold State.granFloat at h
  unfold State.joinGran
  split at h <;> simp_all

theorem State.joinGran_sameMemory (s : State) (k : Nat) (c : Label) : SameMemory s (s.joinGran k c) := by
  unfold State.joinGran
  dsimp only
  split
  · split <;> exact fun _ => rfl
  · split
    · exact fun _ => rfl
    · exact sameMemory_setBlockAt rfl

theorem State.granLbl_joinGran (s : State) (k : Nat) (c : Label) (x : Nat) : (s.joinGran k c).granLbl x =
    if x / 64 = k / 64 ∧ s.granFloat k = true then s.granLbl k ||| c else s.granLbl x := by
  cases hfloat : s.granFloat k with
  | false => rw [s.joinGran_fixed c hfloat, if_neg (by simp)]
  | true =>
    simp only [and_true]
    unfold State.granFloat at hfloat
    unfold State.joinGran State.granLbl
    dsimp only
    split at hfloat
    · next hk =>
      rw [if_pos hk, if_pos hfloat, if_pos hk]
      dsimp only
      rw [Sparse.get_set]
      by_cases hgran : x / 64 = k / 64
      · rw [if_pos hgran, if_pos hgran, if_pos (by omega)]
      · rw [if_neg hgran, if_neg hgran]
        rfl
    · next hk =>
      have hfixed := (Bool.not_eq_true' _).mp hfloat
      rw [if_neg hk, hfixed, if_neg Bool.false_ne_true, if_neg hk]
      by_cases hlow : x < 2 ^ 48
      · rw [if_pos hlow, if_pos hlow, if_neg (by omega)]
        rfl
      · rw [if_neg hlow, if_neg hlow]
        by_cases hblock : x / 2 ^ 48 - 1 = k / 2 ^ 48 - 1
        · rw [hblock, State.blockAt_setBlockAt_same, Sparse.get_set]
          by_cases hgran : x % 2 ^ 48 / 64 = k % 2 ^ 48 / 64
          · rw [if_pos hgran, if_pos (by omega)]
          · rw [if_neg hgran, if_neg (by omega)]
        · rw [State.blockAt_setBlockAt_other _ _ hblock, if_neg (by omega)]

/-! ## The write event (10 R174) -/

theorem State.acq_learn (s : State) (ls ids : List Nat) : (s.learn ls ids).warp.acq = s.warp.acq := by
  rw [State.learn, State.warp_setWarp]
  rfl

theorem State.acq_learnTile (s : State) (ls : List Nat) (k : Nat) :
    ((s.gather ls).learnTile ls k).warp.acq = s.warp.acq := by
  have hgather : (s.gather ls).warp.acq = s.warp.acq := by
    unfold State.gather
    split
    · rfl
    · exact s.acq_learn ..
  unfold State.learnTile
  split
  · exact hgather
  · exact (State.acq_learn ..).trans hgather

theorem Reads.pendWrite (s : State) (id k n : Nat) : Reads s (s.pendWrite id k n) := by
  unfold State.pendWrite
  split
  · exact .setHist ..
  · exact .refl s

theorem State.acq_pendWrite (s : State) (id k n : Nat) : (s.pendWrite id k n).warp.acq = s.warp.acq := by
  unfold State.pendWrite
  split <;> rfl

/-- From `s` to `t` the warp has stored: of it only what its lanes have seen differs. -/
structure Stores (s t : State) : Prop extends SameWarp s t where
  acq : t.warp.acq = s.warp.acq

theorem Stores.trans (h : Stores s t) (k : Stores t u) : Stores s u :=
  ⟨h.toSameWarp.trans k.toSameWarp, k.acq.trans h.acq⟩

/-- A plain write event records its write, writes its bytes, and the lanes learn of it. -/
theorem State.writeEvent_eq {r : State} {ls : List Nat} {k : Nat} {bs : List Byte}
    (hr : (s.gather ls).learnTile ls k = r) : ∃ n h m, s.writeEvent ls k bs none false false [] =
      ((({ r with nextId := n, hist := h } : State).setBytes k bs).learn ls [m]).pendWrite m k bs.length := by
  unfold State.writeEvent
  rw [hr]
  exact ⟨_, _, _, rfl⟩

/-- A plain write event writes its bytes and nothing else of memory. -/
theorem State.writeEvent_stores {ls : List Nat} {k : Nat} {bs : List Byte}
    (hwrites : s.writeEvent ls k bs none false false [] = t) :
    Stores s t ∧ SameGranules s t ∧
      ∀ x, t.byteAt x = if k ≤ x ∧ x < k + bs.length then bs.getD (x - k) 0 else s.byteAt x := by
  let r := ((s.gather ls).learnTile ls k)
  have hr : Reads s r := (Reads.gather ..).trans (.learnTile ..)
  have hacq : r.warp.acq = s.warp.acq := s.acq_learnTile ls k
  obtain ⟨n, h, m, hwrite⟩ := s.writeEvent_eq (bs := bs) (r := r) rfl
  let u : State := { r with nextId := n, hist := h }
  have hu : SamePlaces r u := .of_eq rfl rfl rfl
  have hur : SameWarp r u := .of_warps rfl rfl rfl rfl rfl rfl
  obtain ⟨hgranules, hwarp⟩ := u.setBytes_keeps_rest k bs
  have hafter : Reads (u.setBytes k bs) (((u.setBytes k bs).learn ls [m]).pendWrite m k bs.length) :=
    (Reads.learn ..).trans (.pendWrite ..)
  rw [hwrite] at hwrites
  subst hwrites
  refine ⟨⟨(hr.sameWarp.trans hur).trans (hwarp.trans hafter.sameWarp), ?_⟩,
    (hr.samePlaces.trans hu).toSameGranules.trans (hgranules.trans hafter.samePlaces.toSameGranules), fun x => ?_⟩
  · rw [State.acq_pendWrite, State.acq_learn, State.setBytes_warp]
    exact hacq
  · rw [hafter.byteAt, State.byteAt_setBytes, hu.memory, hr.byteAt]

/-- What only the warp does writes no memory. -/
theorem SamePlaces.of_only {r : State} (ho : OnlyWarp r t) : SamePlaces r t :=
  .of_eq ((congrArg State.mem ho).trans rfl) ((congrArg State.phys ho).trans rfl) ((congrArg State.blocks ho).trans rfl)

theorem State.digest_vcore (s : State) (va v : Nat) : (s.digest s.warp.block va v).block.vcore = s.block.vcore := by
  unfold State.digest
  split
  · dsimp only
    rw [State.block_setBlockAt]
    rfl
  · rfl

theorem State.mark_vcore (s : State) : (s.mark true false false).block.vcore = s.block.vcore :=
  (congrArg Block.vcore (s.block_setBlockAt _)).trans rfl

/-- A refusal is logged by what names the warp, whatever has become of its block's marks and digest. -/
theorem logsRefusal_of_eq {r : State} {kind why : Nat} (hcur : r.cur = s.cur) (hwarps : r.warps = s.warps)
    (hctxs : r.ctxs = s.ctxs) (hvcore : r.block.vcore = s.block.vcore) (h : LogsRefusal r t kind why) :
    LogsRefusal s t kind why := by
  have hwarp : r.warp = s.warp := by rw [State.warp, State.warpAt, hwarps, hcur]; rfl
  have hctx : r.ctx = s.ctx := by rw [State.ctx, State.ctxAt, hwarp, hctxs]; rfl
  unfold LogsRefusal at *
  rw [hwarp, hctx, hvcore, hcur] at h
  exact h

/-- A word that has stored goes on. -/
theorem Stores.onlyStores (h : Stores s t) (p : Bool) : OnlyStores s (t.advance p) (s.nextPc p) := by
  have hgoes := advance_goes t p
  have hwarps (k : Nat) : (t.advance p).warpAt k = (t.setWarp (t.advance p).warp).warpAt k :=
    (congrArg (State.warpAt · k) hgoes.only).trans rfl
  refine ⟨h.nextPc p ▸ h.goesTo hgoes.next, fun k hk => ?_, h.tack, ?_⟩
  · rw [hwarps, State.warpAt_setWarp_other _ (h.cur ▸ hk), h.warps k hk]
  · rw [hgoes.rest, h.warp, h.acq]

theorem State.digest_stores (s : State) (b va v : Nat) : Stores s (s.digest b va v) := by
  refine ⟨s.digest_sameWarp b va v, ?_⟩
  rw [State.digest_eq]
  rfl

theorem State.joinGran_stores (s : State) (k : Nat) (c : Label) : Stores s (s.joinGran k c) := by
  refine ⟨s.joinGran_sameWarp k c, ?_⟩
  unfold State.joinGran
  dsimp only
  split <;> split <;> rfl

theorem State.refuse_stores (s : State) (kind why : Nat) : Stores s (s.refuse kind why) :=
  ⟨s.refuse_sameWarp kind why, by rw [s.refuse_eq kind why]; rfl⟩

theorem State.mark_stores (s : State) : Stores s (s.mark true false false) := ⟨s.mark_sameWarp, rfl⟩

end

/-! ## `sst` (04 R72) -/

section

variable {s : State} {p : Bool} {d a b : SNum} {w : StW} {k : Nat} {ceil : Label}

theorem sp_sst : (Instr.sst p d a b w).sp = p := by
  have hw : w.code < 32 := by cases w <;> decide
  refine sp_of_encodeNat (c := 0x15800000) (x := d.toNat * 0x20000 + (a.toNat * 0x800 + (b.toNat * 0x20 + w.code))) ?_ (by omega)
  rw [← Nat.add_assoc, ← Nat.add_assoc, ← Nat.add_assoc]
  rfl

theorem State.memChk_mark (s : State) (va : Word) (n : Nat) :
    (s.mark true false false).memChk .store va n = s.memChk .store va n := by
  unfold State.memChk
  rfl

theorem State.accepts_mark (s : State) (k : Nat) (ceil c : Label) :
    (s.mark true false false).accepts k ceil c = s.accepts k ceil c := by
  rw [State.accepts, s.mark_samePlaces.floating, s.mark_samePlaces.lbl]
  rfl

theorem State.heldStore_mark (s : State) (k : Nat) : (s.mark true false false).heldStore k = s.heldStore k := rfl

theorem State.audit_mark (s : State) : (s.mark true false false).block.audit = s.block.audit := s.mark_marks.audit

theorem State.labelChk_accepted {c : Label} (va : Word) (h : s.accepts k ceil c = true) :
    s.labelChk c va (.ok k ceil) = .ok k ceil := if_pos h

theorem State.labelChk_rejected {c : Label} (va : Word) (h : s.accepts k ceil c = false) :
    s.labelChk c va (.ok k ceil) = .trap .lblStore va true := if_neg (by simp [h])

/-- The label that a scalar store contributes. -/
def State.storeLbl (s : State) (d a b : SNum) : Label := s.slbl d ||| s.slbl a ||| s.slbl b ||| s.pcl

/-- What a scalar store of `n` bytes from S[d] at `k` leaves: its bytes in memory, and its contribution in the granule. -/
structure StoresScalar (s t : State) (k n : Nat) (d : SNum) (c : Label) : Prop where
  byteAt : ∀ x, t.byteAt x = if k ≤ x ∧ x < k + n then BitVec.ofNat 8 ((s.sreg d).toNat / 256 ^ (x - k)) else s.byteAt x
  granLbl : ∀ x, t.granLbl x = if x / 64 = k / 64 ∧ s.granFloat k = true then s.granLbl k ||| c else s.granLbl x

theorem storesScalar_writeEvent {r : State} (h : SamePlaces s r) (ls : List Nat) (n : Nat) (c : Label) (p : Bool) :
    StoresScalar s (((r.writeEvent ls k (leBytes n (s.sreg d).toNat) none false false []).joinGran k c).advance p)
      k n d c := by
  obtain ⟨u, hu⟩ : ∃ u, r.writeEvent ls k (leBytes n (s.sreg d).toNat) none false false [] = u := ⟨_, rfl⟩
  obtain ⟨-, hgran, hbytes⟩ := State.writeEvent_stores hu
  rw [hu]
  have hgoes := SamePlaces.of_only (advance_goes (u.joinGran k c) p).only
  refine ⟨fun x => ?_, fun x => ?_⟩
  · rw [hgoes.memory, State.joinGran_sameMemory, hbytes, length_leBytes, h.memory]
    split
    · rw [getD_leBytes (by omega)]
    · rfl
  · rw [hgoes.lbl, State.granLbl_joinGran, hgran.lbl, hgran.lbl, hgran.floating, h.lbl, h.lbl, h.floating]

theorem completes_sst (hready : s.Ready (.sst p d a b w)) (haudit : s.block.audit = false)
    (hchk : s.memChk .store (s.sreg a + s.sreg b) (stWidth w) = .ok k ceil)
    (haccepts : s.accepts k ceil (s.storeLbl d a b) = true) (hheld : s.heldStore k = []) :
    Completes (.sst p d a b w) s fun t =>
      OnlyStores s t (s.nextPc p) ∧ StoresScalar s t k (stWidth w) d (s.storeLbl d a b) := by
  let m := s.mark true false false
  let r := m.digest m.warp.block (s.sreg a + s.sreg b).toNat (leNat (leBytes (stWidth w) (s.sreg d).toNat))
  have hchk' : m.memChk .store (m.sreg a + m.sreg b) (stWidth w) = .ok k ceil := (s.memChk_mark _ _).trans hchk
  have haccepts' : m.accepts k ceil (m.slbl d ||| m.slbl a ||| m.slbl b ||| m.pcl) = true :=
    (s.accepts_mark ..).trans haccepts
  have hstop : m.accessStop false true [.ok k ceil] = none := State.accessStop_store ((s.heldStore_mark k).trans hheld)
  have haudit' : m.block.audit = false := s.audit_mark.trans haudit
  have hstores : Stores s (((r.writeEvent s.execLanes k (leBytes (stWidth w) (s.sreg d).toNat) none false false []).joinGran k
      (s.storeLbl d a b))) :=
    s.mark_stores.trans ((m.digest_stores ..).trans ((State.writeEvent_stores rfl).1.trans (State.joinGran_stores ..)))
  refine completes_marked (exec_sst ..) hready ?_ ⟨hstores.onlyStores p,
    storesScalar_writeEvent (s.mark_samePlaces.trans (m.digest_samePlaces ..)) ..⟩
  simp only [globalAtomic, m] at hchk' haccepts' hstop haudit' ⊢
  simp only [hchk', State.labelChk_accepted _ haccepts', hstop, haudit']
  rfl

/-- A scalar store that traps, at its checks or at its place's label, leaves nothing but the mark. -/
theorem exec_sst_trap {c : Cause} {e : Word} {page : Bool} (hready : s.Ready (.sst p d a b w))
    (hchk : (s.mark true false false).labelChk (s.storeLbl d a b) (s.sreg a + s.sreg b)
      (s.memChk .store (s.sreg a + s.sreg b) (stWidth w)) = .trap c e page) :
    exec (.sst p d a b w) s =
      .next ((s.mark true false false).takeTrap c e (s.readLabel (.sst p d a b w)) s.split.pc p page) := by
  let m := s.mark true false false
  have hchk' : m.labelChk (m.slbl d ||| m.slbl a ||| m.slbl b ||| m.pcl) (m.sreg a + m.sreg b)
      (m.memChk .store (m.sreg a + m.sreg b) (stWidth w)) = .trap c e page :=
    (congrArg (m.labelChk _ _) (s.memChk_mark _ _)).trans hchk
  refine exec_of_markedTrap (exec_sst ..) hready rfl ?_ sp_sst
  simp only [m] at hchk'
  simp only [hchk', State.accessStop_trap]

theorem completes_sst_refused {why : Nat} (hready : s.Ready (.sst p d a b w))
    (hchk : s.memChk .store (s.sreg a + s.sreg b) (stWidth w) = .refused why) : Completes (.sst p d a b w) s fun t =>
      OnlyStores s t (s.nextPc p) ∧ SameMemory s t ∧ LogsRefusal s t 1 why := by
  let m := s.mark true false false
  let r := m.digest m.warp.block (s.sreg a + s.sreg b).toNat (leNat (leBytes (stWidth w) (s.sreg d).toNat))
  have hchk' : m.memChk .store (m.sreg a + m.sreg b) (stWidth w) = .refused why := (s.memChk_mark _ _).trans hchk
  have hstop : m.accessStop false true [.refused why] = none := m.accessStop_refused ..
  have hr : Stores s r := s.mark_stores.trans (m.digest_stores ..)
  have hgoes := advance_goes (r.refuse 1 why) p
  have hmemory (x : Nat) : r.byteAt x = s.byteAt x := (s.mark_samePlaces.trans (m.digest_samePlaces ..)).memory x
  have hlogs : LogsRefusal s (r.refuse 1 why) 1 why := by
    refine logsRefusal_of_eq ?_ ?_ ?_ ?_ (r.refuse_logs 1 why)
    · rw [show r = _ from m.digest_eq ..]; rfl
    · rw [show r = _ from m.digest_eq ..]; rfl
    · rw [show r = _ from m.digest_eq ..]; rfl
    · exact (m.digest_vcore ..).trans s.mark_vcore
  refine completes_marked (t := (r.refuse 1 why).advance p) (exec_sst ..) hready ?_
    ⟨(hr.trans (r.refuse_stores 1 why)).onlyStores p, fun x => ?_, logsRefusal_of_only hlogs hgoes.only⟩
  · simp only [globalAtomic, m] at hchk' hstop ⊢
    simp only [hchk', State.labelChk, hstop]
    rfl
  · rw [(SamePlaces.of_only hgoes.only).memory, (r.refuse_noStore 1 why).memory, hmemory]

end

theorem State.storeLbl_eq (s : State) (d a b : SNum) :
    s.storeLbl d a b = s.slbl d ||| (s.slbl a ||| s.slbl b ||| s.pcl) := by
  simp only [State.storeLbl, BitVec.or_assoc]

/-- Settles O33: a load reads what its event may, a store writes its bytes, and what the checks stop writes nothing. -/
theorem scalarLoadsAndStores : Obligations.ScalarLoadsAndStores := by
  unfold Obligations.ScalarLoadsAndStores
  intro s p d a b lw sw va n m ld st lbl c
  have hc : s.storeLbl d a b = c := s.storeLbl_eq d a b
  refine ⟨fun k ceil hready hchk hheld hpoison => ?_, fun why => completes_sld_refused, fun x e pg => exec_sld_trap,
    fun page kind hready hpage hchk => ?_, fun k ceil hready haudit hchk haccepts hheld => ?_,
    fun k ceil hready hchk hrejects => ?_, fun why => completes_sst_refused, fun x e pg hready hchk => ?_⟩
  · obtain ⟨t, hexec, bs, hbs, hloads⟩ := completes_sld hready hchk hheld hpoison
    refine ⟨t, hexec, bs, _, hbs, fun hsigned => ?_, fun hsigned => ?_, hloads⟩
    · rw [loadedValue, if_neg (by simp [hsigned])]
    · rw [loadedValue, if_pos hsigned]
  · obtain ⟨t, hexec, hparks⟩ := completes_sld_fault hready hpage hchk
    exact ⟨t, hexec, by rw [hparks.warp], hparks.split, hparks.memory, hparks.offered⟩
  · obtain ⟨t, hexec, honly, hstores⟩ := completes_sst hready haudit hchk (hc ▸ haccepts) hheld
    exact ⟨t, hexec, honly, hstores.byteAt, hc ▸ hstores.granLbl⟩
  · refine exec_sst_trap hready ?_
    rw [hchk]
    exact State.labelChk_rejected _ ((s.accepts_mark ..).trans (hc ▸ hrejects))
  · refine exec_sst_trap hready ?_
    rw [hchk]
    rfl

end Sys2Proof.Machine

end

section

namespace Sys2Proof.Machine

/-! ## The warp of a bin's threads (05 R108, R109) -/

/-- What register V[q] of a spawned lane holds: W0 in V0 and V1, W1 in V2 and V3 (R109). -/
def Deposit.reg (t : Deposit) : Nat → Lane
  | 0 => t.w0.setWidth 32
  | 1 => t.w0.extractLsb' 32 32
  | 2 => t.w1.setWidth 32
  | _ => t.w1.extractLsb' 32 32

/-- A warp whose lane `l` has been given the registers of a spawned thread. -/
def Warp.putDeposit (w : Warp) (own : Label) (l : Nat) (t : Deposit) : Warp :=
  (((w.putV own false 0 l t.w0.toNat (t.l0.1 ||| t.c)).putV own false 1 l (t.w0.toNat / 2 ^ 32) (t.l0.2 ||| t.c)).putV
    own false 2 l t.w1.toNat (t.l1.1 ||| t.c)).putV own false 3 l (t.w1.toNat / 2 ^ 32) (t.l1.2 ||| t.c)

/-- A warp whose lanes have been given the registers of threads, each with its lane. -/
def Warp.putDeposits (own : Label) (w : Warp) (ts : List (Deposit × Nat)) : Warp :=
  ts.foldl (fun w t => w.putDeposit own t.2 t.1) w

/-- The warp of a bin's threads with the launch values, before its registers are written. -/
def State.binWarp (s : State) (x : Bin) : Warp :=
  let b := s.blockAt x.block
  let l := s.launchAt b.lseq
  let m : BitVec 32 := BitVec.ofNat 32 (2 ^ x.threads.length - 1)
  { Warp.blank with
    st := .run, uid := s.nextId, ctx := b.ctx, lseq := b.lseq, block := x.block, vr := l.vr, spawned := true, lanes0 := m,
    wid := widOf l (2 ^ l.w1) b.rank (s.gangAt b.gang).num, hbBase := l.hb }

/-- The split that begins at a bin's entry address. -/
def State.binSplit (s : State) (x : Bin) : Split :=
  { Split.blank with
    st := .ready, pc := x.entry, exec := BitVec.ofNat 32 (2 ^ x.threads.length - 1),
    priv := (s.launchAt (s.blockAt x.block).lseq).privl, last := s.cycle }

/-- The owners of the context of a bin's block. -/
def State.binOwners (s : State) (x : Bin) : Label := (s.ctxAt (s.blockAt x.block).ctx).owners

/-- The warp of a bin's threads with its registers written. -/
def State.filledWarp (s : State) (x : Bin) : Warp :=
  ((s.binWarp x).setSplit 0 (s.binSplit x)).putDeposits (s.binOwners x) x.threads.zipIdx

/-- The warp of a bin's threads as it launches: its pc label joins the threads' contributions (R109). -/
def State.spawnedWarp (s : State) (x : Bin) : Warp :=
  let r := (s.filledWarp x).intern (s.binOwners x) (joinLabels (x.threads.map Deposit.c))
  r.2.setSplit 0 { s.binSplit x with pcl := r.1 }

section

variable (s : State) (w : Warp) (own : Label)

/-- Nothing of a warp differs but its vector registers and its label table. -/
def Warp.SameButLanes (w v : Warp) : Prop :=
  v = { w with vregs := v.vregs, poisonV := v.poisonV, ltab := v.ltab, coarsen := v.coarsen }

theorem Warp.SameButLanes.trans {w v u : Warp} (h : w.SameButLanes v) (g : v.SameButLanes u) : w.SameButLanes u := by
  unfold Warp.SameButLanes at *
  rw [g, h]

theorem Warp.putV_sameButLanes (wide : Bool) (r l v : Nat) (lb : Label) : w.SameButLanes (w.putV own wide r l v lb) :=
  w.putV_rest own wide r l v lb

theorem Warp.putDeposit_sameButLanes (l : Nat) (t : Deposit) : w.SameButLanes (w.putDeposit own l t) :=
  (((Warp.putV_sameButLanes ..).trans (Warp.putV_sameButLanes ..)).trans (Warp.putV_sameButLanes ..)).trans
    (Warp.putV_sameButLanes ..)

theorem Warp.putDeposits_sameButLanes (ts : List (Deposit × Nat)) : w.SameButLanes (w.putDeposits own ts) := by
  induction ts generalizing w with
  | nil => exact rfl
  | cons t ts ih => exact (w.putDeposit_sameButLanes own t.2 t.1).trans (ih _)

theorem putDeposit_eq (l : Nat) (t : Deposit) : putDeposit s l t = s.setWarp (s.warp.putDeposit s.owners l t) := by
  have hown {v : Warp} (h : s.warp.SameButLanes v) : (s.setWarp v).owners = s.owners := s.owners_setWarp (by rw [h])
  have h₁ := s.warp.putV_sameButLanes s.owners false 0 l t.w0.toNat (t.l0.1 ||| t.c)
  have h₂ := h₁.trans (Warp.putV_sameButLanes _ s.owners false 1 l (t.w0.toNat / 2 ^ 32) (t.l0.2 ||| t.c))
  have h₃ := h₂.trans (Warp.putV_sameButLanes _ s.owners false 2 l t.w1.toNat (t.l1.1 ||| t.c))
  simp only [putDeposit, State.setV_warp, State.warp_setWarp, State.setWarp_setWarp, hown h₁, hown h₂, hown h₃,
    Warp.putDeposit]

theorem foldl_putDeposit (ts : List (Deposit × Nat)) :
    ts.foldl (fun s t => putDeposit s t.2 t.1) (s.setWarp w) =
      s.setWarp (w.putDeposits (s.setWarp w).owners ts) := by
  induction ts generalizing w with
  | nil => rfl
  | cons t ts ih =>
    have hown : (s.setWarp (w.putDeposit (s.setWarp w).owners t.2 t.1)).owners = (s.setWarp w).owners := by
      rw [State.owners, State.ctx, State.warp_setWarp, w.putDeposit_sameButLanes]
      simp [State.owners, State.ctx]
    rw [List.foldl_cons, putDeposit_eq, State.warp_setWarp, State.setWarp_setWarp, ih, hown]
    rfl

/-- A register of one lane after a thread has been put in a lane. -/
theorem Warp.putDeposit_val (t : Deposit) {l m q : Nat} (hl : l < 32) (hm : m < 32) (hq : q < 4) :
    ((w.putDeposit own l t).vregs.get VLane.zero (vkey q m)).val =
      if m = l then t.reg q else (w.vregs.get VLane.zero (vkey q m)).val := by
  have hlow (v : Word) : BitVec.ofNat 32 v.toNat = v.setWidth 32 := by bv_omega
  have hhigh (v : Word) : BitVec.ofNat 32 (v.toNat / 2 ^ 32) = v.extractLsb' 32 32 := by
    rw [BitVec.extractLsb', Nat.shiftRight_eq_div_pow]
  simp only [Warp.putDeposit, Warp.putV_get _ _ _ _ _ _ _ _ _ hl hm, Bool.false_eq_true, false_and, and_false, if_false]
  by_cases h : m = l
  · match q, hq with
    | 0, _ | 2, _ => simp [h, Deposit.reg, hlow]
    | 1, _ | 3, _ => simpa [h, Deposit.reg] using hhigh _
  · simp [h]

/-- Threads put in lanes `n`, `n + 1` and so on. -/
theorem Warp.putDeposits_val (ts : List Deposit) (n : Nat) (hlen : n + ts.length ≤ 32) {m q : Nat} (hm : m < 32)
    (hq : q < 4) :
    ((w.putDeposits own (ts.zipIdx n)).vregs.get VLane.zero (vkey q m)).val =
      if n ≤ m then ((ts[m - n]?).map fun t => t.reg q).getD (w.vregs.get VLane.zero (vkey q m)).val
      else (w.vregs.get VLane.zero (vkey q m)).val := by
  induction ts generalizing w n with
  | nil => simp [Warp.putDeposits]
  | cons t ts ih =>
    have hlen' : n + 1 + ts.length ≤ 32 := by simpa [Nat.add_assoc, Nat.add_comm 1] using hlen
    have hstep := ih (w.putDeposit own n t) (n + 1) hlen'
    rw [w.putDeposit_val own t (by omega) hm hq] at hstep
    refine hstep.trans ?_
    rcases Nat.lt_trichotomy m n with h | h | h
    · rw [if_neg (by omega), if_neg (by omega), if_neg (by omega)]
    · simp [h]
    · rw [if_pos (show n + 1 ≤ m by omega), if_neg (show ¬m = n by omega), if_pos (show n ≤ m by omega),
        show m - n = (m - (n + 1)) + 1 by omega, List.getElem?_cons_succ]

end

section

variable (s : State)

theorem State.filledWarp_eq (x : Bin) : ((s.binWarp x).setSplit 0 (s.binSplit x)).SameButLanes (s.filledWarp x) :=
  Warp.putDeposits_sameButLanes ..

theorem State.filledWarp_splits (x : Bin) :
    (s.filledWarp x).splits = Sparse.empty.set Split.blank 0 (s.binSplit x) := by
  rw [s.filledWarp_eq x]
  rfl

/-- Threads launch in a slot: no other part of the machine differs but the count of names (R109). -/
theorem launchInto_eq (k : Nat) (x : Bin) :
    launchInto s k x = ({ s with nextId := s.nextId + 1 } : State).setWarpAt k (s.spawnedWarp x) := by
  let v := (s.binWarp x).setSplit 0 (s.binSplit x)
  let r : State := { s with nextId := s.nextId + 1, cur := k, curSplit := 0 }
  have hown {u : Warp} (h : v.SameButLanes u) : (r.setWarp u).owners = s.binOwners x := by
    rw [State.owners, State.ctx, State.warp_setWarp, h]
    rfl
  have hfold : x.threads.zipIdx.foldl (fun s t => putDeposit s t.2 t.1) (r.setWarp v) = r.setWarp (s.filledWarp x) := by
    rw [foldl_putDeposit, hown (show v.SameButLanes v from rfl)]
    rfl
  have hsplit : ((s.filledWarp x).intern (s.binOwners x) (joinLabels (x.threads.map Deposit.c))).2.split 0 =
      s.binSplit x := by
    rw [Warp.split, Warp.intern_splits, State.filledWarp_splits, Sparse.get_set_same]
  have hinner : (let t := x.threads.zipIdx.foldl (fun s t => putDeposit s t.2 t.1) (r.setWarp v)
      let q := t.intern (joinLabels (x.threads.map Deposit.c))
      q.2.setSplit { q.2.split with pcl := q.1 }) = r.setWarp (s.spawnedWarp x) := by
    simp only [hfold, State.intern_warp, State.intern_fst, State.warp_setWarp, State.setWarp_setWarp,
      hown (s.filledWarp_eq x), State.setSplit_eq, State.split_setWarp]
    rw [hsplit]
    rfl
  exact congrArg (fun t : State => { t with cur := s.cur, curSplit := s.curSplit }) hinner

/-- Of the launch values none but the registers and the label table differ once the threads are in their lanes. -/
theorem State.spawnedWarp_eq (x : Bin) : s.spawnedWarp x = { s.binWarp x with
    vregs := (s.spawnedWarp x).vregs, poisonV := (s.spawnedWarp x).poisonV, ltab := (s.spawnedWarp x).ltab,
    coarsen := (s.spawnedWarp x).coarsen, splits := (s.spawnedWarp x).splits } := by
  have h : ((s.filledWarp x).intern (s.binOwners x) (joinLabels (x.threads.map Deposit.c))).2 = _ := Warp.intern_rest ..
  simp only [State.spawnedWarp, Warp.setSplit]
  rw [h, s.filledWarp_eq x]
  rfl

/-- Its one split. -/
theorem State.spawnedWarp_splits (x : Bin) :
    ∃ i, (s.spawnedWarp x).splits = Sparse.empty.set Split.blank 0 { s.binSplit x with pcl := i } := by
  refine ⟨((s.filledWarp x).intern (s.binOwners x) (joinLabels (x.threads.map Deposit.c))).1, ?_⟩
  simp only [State.spawnedWarp, Warp.setSplit]
  rw [Warp.intern_splits, State.filledWarp_splits, Sparse.set_set]

theorem State.spawnedWarp_vregs (x : Bin) : (s.spawnedWarp x).vregs = (s.filledWarp x).vregs := Warp.intern_vregs ..

/-- A slot that holds the warp of a bin's threads runs them (R109). -/
theorem launchesThreads_of {s r t : State} {k : Nat} {x : Bin} (hlen : x.threads.length ≤ 32)
    (hblocks : r.blocks = s.blocks) (hlaunches : r.launches = s.launches) (h : t.warpAt k = r.spawnedWarp x) :
    LaunchesThreads s t k x := by
  have hblock (b : Nat) : r.blockAt b = s.blockAt b := by rw [State.blockAt, hblocks]; rfl
  have hlaunch (l : Nat) : r.launchAt l = s.launchAt l := by rw [State.launchAt, hlaunches]; rfl
  obtain ⟨i, hsplits⟩ := r.spawnedWarp_splits x
  have hsplit : (t.warpAt k).split 0 = { r.binSplit x with pcl := i } := by
    rw [h, Warp.split, hsplits, Sparse.get_set_same]
  have hrest := r.spawnedWarp_eq x
  refine ⟨?_, ?_, ?_, ?_, ?_, ?_, ?_, ?_, ?_, fun i y hy hi => ?_⟩
  · rw [h, hrest]; rfl
  · rw [h, hrest]; rfl
  · rw [h, hrest]; rfl
  · rw [h, hrest, ← hblock]; rfl
  · rw [h, hrest, ← hblock]; rfl
  · rw [hsplit]; rfl
  · rw [hsplit]; rfl
  · rw [hsplit]; rfl
  · rw [hsplit, ← hblock, ← hlaunch]; rfl
  · have hval (q : Nat) (hq : q < 4) : ((t.warpAt k).vregs.get VLane.zero (vkey q i)).val = y.reg q := by
      rw [h, State.spawnedWarp_vregs, State.filledWarp, Warp.putDeposits_val _ _ _ 0 (by omega) hi hq]
      simp [hy]
    exact ⟨hval 0 (by decide), hval 1 (by decide), hval 2 (by decide), hval 3 (by decide)⟩

/-- Of a bin a launch has its block, its entry address and its threads. -/
theorem launchesThreads_congr {s t : State} {k : Nat} {x y : Bin} (h : LaunchesThreads s t k x)
    (hblock : x.block = y.block) (hentry : x.entry = y.entry) (hthreads : x.threads = y.threads) :
    LaunchesThreads s t k y := by
  obtain ⟨⟩ := x
  obtain ⟨⟩ := y
  simp only at hblock hentry hthreads
  subst hblock hentry hthreads
  exact ⟨h.st, h.spawned, h.block, h.ctx, h.lseq, h.ready, h.pc, h.exec, h.priv, h.words⟩

/-! ## Bins (R108) -/

/-- Bin `j` of a core. -/
def State.binAt (s : State) (core j : Nat) : Bin := (s.coreAt core).bins.get Bin.blank j

/-- Replaces bin `j` of a core. -/
def State.putBin (s : State) (core j : Nat) (x : Bin) : State :=
  s.setCoreAt core { s.coreAt core with bins := (s.coreAt core).bins.set Bin.blank j x }

theorem State.binAt_putBin (core j : Nat) (x : Bin) (i : Nat) :
    (s.putBin core j x).binAt core i = if i = j then x else s.binAt core i := by
  rw [State.binAt, State.putBin, State.coreAt_setCoreAt_same, Sparse.get_set]
  rfl

theorem State.putBin_putBin (core j : Nat) (x y : Bin) : (s.putBin core j x).putBin core j y = s.putBin core j y := by
  simp [State.putBin]

/-- A bin holds threads of a block and entry address. -/
def Bin.serves (x : Bin) (block : Nat) (e : BitVec 57) : Bool :=
  x.threads ≠ [] && x.block = block && x.entry = e

/-- Threads deposited in a bin at a cycle. -/
def Bin.fill (x : Bin) (block : Nat) (e : BitVec 57) (now : Nat) (ts : List Deposit) : Bin :=
  { x with block := block, entry := e, threads := x.threads ++ ts, since := if x.threads = [] then now else x.since }

theorem Bin.fill_fill (x : Bin) (block : Nat) (e : BitVec 57) (now : Nat) (t : Deposit) (ts : List Deposit) :
    (x.fill block e now [t]).fill block e now ts = x.fill block e now (t :: ts) := by
  simp [Bin.fill]

variable {s} {core block j : Nat} {e : BitVec 57}

theorem State.binFor_eq : s.binFor core block e =
    ((List.range 8).find? fun i => (s.binAt core i).serves block e).or
      ((List.range 8).find? fun i => (s.binAt core i).threads = []) := by
  unfold State.binFor
  dsimp only
  split <;> next h => exact (congrArg (Option.or · _) h).symm

/-- Of the bins the one that takes threads of a block and address is the first that serves them, or none does. -/
theorem State.binFor_first (h : s.binFor core block e = some j) :
    j < 8 ∧ ∀ i < j, (s.binAt core i).serves block e = false := by
  rw [State.binFor_eq] at h
  cases hserves : (List.range 8).find? fun i => (s.binAt core i).serves block e with
  | some i =>
    rw [hserves] at h
    cases h
    rw [List.find?_range_eq_some] at hserves
    simpa using hserves.2
  | none =>
    rw [hserves] at h
    rw [List.find?_range_eq_none] at hserves
    have hj := List.mem_range.mp (List.mem_of_find?_eq_some h)
    exact ⟨hj, fun i hi => by simpa using hserves i (by omega)⟩

/-- A bin that holds threads already is not taken for others. -/
theorem State.serves_of_binFor (h : s.binFor core block e = some j) (hx : (s.binAt core j).threads ≠ []) :
    (s.binAt core j).serves block e = true := by
  rw [State.binFor_eq] at h
  cases hserves : (List.range 8).find? fun i => (s.binAt core i).serves block e with
  | some i =>
    rw [hserves] at h
    cases h
    exact List.find?_some (p := fun i => (s.binAt core i).serves block e) hserves
  | none =>
    rw [hserves, Option.none_or] at h
    exact absurd (of_decide_eq_true (List.find?_some (p := fun i => decide ((s.binAt core i).threads = [])) h)) hx

/-- The bin that has taken threads takes the next ones. -/
theorem State.binFor_putBin (h : s.binFor core block e = some j) {x : Bin} (hx : x.serves block e = true) :
    (s.putBin core j x).binFor core block e = some j := by
  obtain ⟨hj, hfirst⟩ := State.binFor_first h
  have hfind : ((List.range 8).find? fun i => ((s.putBin core j x).binAt core i).serves block e) = some j := by
    rw [List.find?_range_eq_some]
    refine ⟨?_, List.mem_range.mpr hj, fun i hi => ?_⟩
    · rw [State.binAt_putBin, if_pos rfl, hx]
    · rw [State.binAt_putBin, if_neg (by omega), hfirst i hi]
      rfl
  rw [State.binFor_eq, hfind]
  rfl

/-- One thread deposited in a bin that is not full. -/
theorem depositAll_cons (t : Deposit) (ts : List Deposit) (h : s.binFor core block e = some j)
    (hroom : (s.binAt core j).threads.length < 32) : depositAll core block e (t :: ts) s =
      let u := s.putBin core j ((s.binAt core j).fill block e s.cycle [t])
      depositAll core block e ts
        (if (s.binAt core j).threads.length + 1 = 32 then tryLaunch u core j else u) := by
  rw [depositAll, h]
  have hlen : ¬32 ≤ ((s.coreAt core).bins.get Bin.blank j).threads.length := Nat.not_le.mpr hroom
  simp only [if_neg hlen, List.length_append, List.length_singleton]
  rfl

/-- Threads that one bin has room for are deposited in it; where they fill it, it launches. -/
theorem depositAll_fill (ts : List Deposit) (h : s.binFor core block e = some j) (hne : ts ≠ [])
    (hroom : (s.binAt core j).threads.length + ts.length ≤ 32) : depositAll core block e ts s =
      let u := s.putBin core j ((s.binAt core j).fill block e s.cycle ts)
      ([], if (s.binAt core j).threads.length + ts.length = 32 then tryLaunch u core j else u) := by
  induction ts generalizing s with
  | nil => exact absurd rfl hne
  | cons t ts ih =>
    rw [List.length_cons] at hroom
    rw [depositAll_cons t ts h (by omega)]
    cases ts with
    | nil => rfl
    | cons t' ts =>
      rw [List.length_cons] at hroom
      let x := (s.binAt core j).fill block e s.cycle [t]
      have hx : (s.putBin core j x).binAt core j = x := by rw [State.binAt_putBin, if_pos rfl]
      have hxlen : x.threads.length = (s.binAt core j).threads.length + 1 := List.length_append ..
      have hnext : (s.putBin core j x).binFor core block e = some j :=
        State.binFor_putBin h (by simp [x, Bin.serves, Bin.fill])
      have hrest := ih hnext (by simp) (by rw [hx, hxlen, List.length_cons]; omega)
      dsimp only
      rw [if_neg (by omega), hrest, hx, hxlen, State.putBin_putBin, List.length_cons, List.length_cons,
        show (s.putBin core j x).cycle = s.cycle from rfl, Bin.fill_fill]
      simp only [List.length_cons, Nat.add_assoc, Nat.add_comm 1]

/-- A bin's threads launch in a free slot, and the bin is free. -/
theorem tryLaunch_free {k : Nat} (hne : (s.binAt core j).threads ≠ []) (hk : s.freeSlot core = some k) :
    tryLaunch s core j = launchInto (s.putBin core j Bin.blank) k (s.binAt core j) := by
  unfold tryLaunch
  rw [hk]
  exact if_neg hne

/-- A bin does not launch at once where it has a timer (R95). -/
theorem afterSpawn_timer (h : (s.launchAt (s.blockAt block).lseq).sptmr ≠ 0) : afterSpawn core block e s = s :=
  if_pos h

/-- A warp slot found free is one of the core. -/
theorem State.freeSlot_free {k : Nat} (h : s.freeSlot core = some k) : (s.warpAt k).st = .free := by
  simpa using List.find?_some (p := fun k => (s.warpAt k).st == .free) h

/-! ## `spawn` (05 R108) -/

/-- The threads that `spawn` deposits, one for each live lane. -/
def State.deposits (s : State) (a : VNum) (b : SNum) : List Deposit :=
  let lb (r l : Nat) := s.label (s.vlane r l).lbl
  let n := a.toNat
  s.lanes.map fun l =>
    { w0 := BitVec.ofNat 64 (s.velt true n l), l0 := (lb n l, lb (n + 1) l),
      w1 := BitVec.ofNat 64 (s.velt true (n + 2) l), l1 := (lb (n + 2) l, lb (n + 3) l),
      c := s.pcl ||| s.guardLbl ||| s.slbl b }

/-- A split goes on from a state that has its warp as it was. -/
theorem goesTo_of_warp {s r t : State} {pc : BitVec 57} (h : GoesTo r t pc) (hwarp : r.warp = s.warp)
    (hcur : r.curSplit = s.curSplit) (hcycle : r.cycle = s.cycle) : GoesTo s t pc where
  split := by rw [h.split, hcycle, State.split, hwarp, hcur]; rfl
  others i hi := by rw [h.others i (hcur ▸ hi), hwarp]

theorem sameMemory_of_eq {s t : State} (hmem : t.mem = s.mem) (hblocks : t.blocks = s.blocks) : SameMemory s t := by
  intro k
  unfold State.byteAt State.blockAt
  rw [hmem, hblocks]

theorem sp_spawn {p : Bool} {a : VNum} {b : SNum} : (Instr.spawn p a b).sp = p := by
  refine sp_of_encodeNat (c := 0x04800000) (x := a.toNat * 0x200 + b.toNat * 0x8) ?_ (by omega)
  rw [← Nat.add_assoc]
  rfl

section

variable {p : Bool} {a : VNum} {b : SNum} (h : s.Ready (.spawn p a b))

include h

theorem spawn_misaligned (he : (s.sreg b).toNat % 4 ≠ 0) : exec (.spawn p a b) s =
    .next (s.takeTrap .align (s.sreg b) (s.readLabel (.spawn p a b)) s.split.pc p true) := by
  have hfield : fieldOf (s.sreg b) 0 2 ≠ 0 := by simpa [fieldOf] using he
  refine exec_of_trap (exec_spawn ..) h ?_ rfl sp_spawn
  exact if_pos hfield

theorem spawn_outOfRange (he : (s.sreg b).toNat % 4 = 0) (hrange : 2 ^ 57 ≤ (s.sreg b).toNat) : exec (.spawn p a b) s =
    .next (s.takeTrap .prot (s.sreg b) (s.readLabel (.spawn p a b)) s.split.pc p true) := by
  have hlow : ¬fieldOf (s.sreg b) 0 2 ≠ 0 := by simpa [fieldOf] using he
  have hhigh : fieldOf (s.sreg b) 57 7 ≠ 0 := by
    have := (s.sreg b).isLt
    unfold fieldOf
    omega
  refine exec_of_trap (exec_spawn ..) h ?_ rfl sp_spawn
  exact (if_neg hlow).trans (if_pos hhigh)

variable (he : (s.sreg b).toNat % 4 = 0 ∧ (s.sreg b).toNat < 2 ^ 57)

include he

/-- At an entry address that is legal `spawn` is the deposit of its threads. -/
theorem spawn_eq : exec (.spawn p a b) s =
    let pc : BitVec 57 := (s.sreg b).setWidth 57
    let r := depositAll s.coreNo s.warp.block pc (s.deposits a b) s
    .next (if r.1 ≠ [] || (s.binFor s.coreNo s.warp.block pc).isNone then
        r.2.await (.spawn pc r.1) p (s.readLabel (.spawn p a b))
      else (afterSpawn s.coreNo s.warp.block pc r.2).advance p) := by
  have hlow : ¬fieldOf (s.sreg b) 0 2 ≠ 0 := by simpa [fieldOf] using he.1
  have hhigh : ¬fieldOf (s.sreg b) 57 7 ≠ 0 := by
    have := he.2
    unfold fieldOf
    omega
  rw [exec_spawn, execSpawn]
  refine word_ok h ((if_neg hlow).trans ((if_neg hhigh).trans ?_))
  exact (apply_ite Except.ok ..).symm

/-- The threads wait where no bin takes them. -/
theorem spawn_waits (hbin : s.binFor s.coreNo s.warp.block ((s.sreg b).setWidth 57) = none) : exec (.spawn p a b) s =
    .next (s.await (.spawn ((s.sreg b).setWidth 57) (s.deposits a b)) p (s.readLabel (.spawn p a b))) := by
  have hall : depositAll s.coreNo s.warp.block ((s.sreg b).setWidth 57) (s.deposits a b) s = (s.deposits a b, s) := by
    cases s.deposits a b with
    | nil => rfl
    | cons t ts => rw [depositAll, hbin]
  rw [spawn_eq h he]
  dsimp only
  rw [hall, hbin, if_pos (by simp)]

/-- The split goes on where its bin takes all the threads, and a timer holds what remains in it. -/
theorem spawn_goes {r : State} {j : Nat} (hbin : s.binFor s.coreNo s.warp.block ((s.sreg b).setWidth 57) = some j)
    (hall : depositAll s.coreNo s.warp.block ((s.sreg b).setWidth 57) (s.deposits a b) s = ([], r))
    (htimer : (r.launchAt (r.blockAt s.warp.block).lseq).sptmr ≠ 0) : exec (.spawn p a b) s = .next (r.advance p) := by
  rw [spawn_eq h he]
  dsimp only
  rw [hall, hbin, if_neg (by simp), afterSpawn_timer htimer]

end

/-- Threads that fill a bin launch in a slot that is free. -/
theorem depositAll_launches {ts : List Deposit} {k : Nat} (h : s.binFor core block e = some j) (hne : ts ≠ [])
    (hfull : (s.binAt core j).threads.length + ts.length = 32) (hk : s.freeSlot core = some k) :
    ∃ x : Bin, x.threads = (s.binAt core j).threads ++ ts ∧ x.block = block ∧ x.entry = e ∧
      depositAll core block e ts s = ([], launchInto (s.putBin core j Bin.blank) k x) := by
  refine ⟨(s.binAt core j).fill block e s.cycle ts, rfl, rfl, rfl, ?_⟩
  generalize hx : (s.binAt core j).fill block e s.cycle ts = x
  have hbin : (s.putBin core j x).binAt core j = x := by rw [State.binAt_putBin, if_pos rfl]
  have hxne : x.threads ≠ [] := hx ▸ List.append_ne_nil_of_right_ne_nil _ hne
  have hlaunch := tryLaunch_free (s := s.putBin core j x) (hbin.symm ▸ hxne) hk
  rw [hbin, State.putBin_putBin] at hlaunch
  rw [depositAll_fill _ h hne (by omega)]
  dsimp only
  rw [hx, if_pos hfull, hlaunch]

/-- A split goes on from a launch in another slot. -/
theorem launchInto_advance {k : Nat} {x : Bin} (p : Bool) (hcur : s.cur ≠ k) (hlen : x.threads.length ≤ 32) :
    let t := (launchInto s k x).advance p
    GoesTo s t (s.nextPc p) ∧ LaunchesThreads s t k x ∧ t.cores = s.cores ∧ t.mem = s.mem ∧ t.blocks = s.blocks := by
  rw [launchInto_eq]
  generalize hw : s.spawnedWarp x = w
  let r : State := ({ s with nextId := s.nextId + 1 } : State).setWarpAt k w
  have hwarp : r.warp = s.warp := State.warpAt_setWarpAt_other _ _ hcur
  have hpc : r.nextPc p = s.nextPc p := by rw [State.nextPc, State.split, hwarp]; rfl
  have hslot : (r.advance p).warpAt k = w :=
    (State.warpAt_setWarpAt_other _ _ hcur.symm).trans (State.warpAt_setWarpAt_same ..)
  exact ⟨hpc ▸ goesTo_of_warp (advance_goes r p).next hwarp rfl rfl,
    launchesThreads_of hlen rfl rfl (hslot.trans hw.symm), rfl, rfl, rfl⟩

section

variable {a : VNum} {b : SNum} {p : Bool} (he : (s.sreg b).toNat % 4 = 0 ∧ (s.sreg b).toNat < 2 ^ 57)
  (hbin : s.binFor s.coreNo s.warp.block ((s.sreg b).setWidth 57) = some j)
  (htimer : (s.launchAt (s.blockAt s.warp.block).lseq).sptmr ≠ 0)

include he hbin htimer

/-- A bin that the threads do not fill holds them. -/
theorem spawn_fills (h : s.Ready (.spawn p a b))
    (hroom : (s.binAt s.coreNo j).threads.length + s.lanes.length < 32) : Completes (.spawn p a b) s fun t =>
      GoesTo s t (s.nextPc p) ∧ SameMemory s t ∧ t.warp = { s.warp with splits := t.warp.splits } ∧
      (∀ k, k ≠ s.cur → t.warpAt k = s.warpAt k) ∧
      (∀ m, m ≠ j → t.binAt s.coreNo m = s.binAt s.coreNo m) ∧
      (t.binAt s.coreNo j).threads = (s.binAt s.coreNo j).threads ++ s.deposits a b ∧
      (s.lanes ≠ [] → (t.binAt s.coreNo j).block = s.warp.block ∧
        (t.binAt s.coreNo j).entry = (s.sreg b).setWidth 57) := by
  have hts : (s.deposits a b).length = s.lanes.length := List.length_map ..
  by_cases hnil : s.lanes = []
  · have hall : s.deposits a b = [] := by rw [State.deposits, hnil]; rfl
    have hg := advance_goes s p
    have hsame (m : Nat) : (s.advance p).binAt s.coreNo m = s.binAt s.coreNo m := rfl
    refine ⟨_, spawn_goes h he hbin (by rw [hall]; rfl) htimer, hg.next, sameMemory_of_eq rfl rfl, hg.rest,
      fun k hk => State.warpAt_setWarpAt_other _ _ hk, fun m _ => hsame m, ?_, fun hne => absurd hnil hne⟩
    rw [hsame, hall, List.append_nil]
  · let x := (s.binAt s.coreNo j).fill s.warp.block ((s.sreg b).setWidth 57) s.cycle (s.deposits a b)
    let u := s.putBin s.coreNo j x
    have hall : depositAll s.coreNo s.warp.block ((s.sreg b).setWidth 57) (s.deposits a b) s = ([], u) := by
      rw [depositAll_fill _ hbin (by simpa [State.deposits] using hnil) (by omega)]
      dsimp only
      rw [if_neg (by omega)]
    have hg := advance_goes u p
    have hbins (m : Nat) : (u.advance p).binAt s.coreNo m = u.binAt s.coreNo m := rfl
    have hx : u.binAt s.coreNo j = x := by rw [State.binAt_putBin, if_pos rfl]
    refine ⟨_, spawn_goes h he hbin hall htimer, goesTo_of_warp hg.next rfl rfl rfl, sameMemory_of_eq rfl rfl, hg.rest,
      fun k hk => State.warpAt_setWarpAt_other _ _ hk, fun m hm => ?_, ?_, fun _ => ?_⟩
    · rw [hbins, State.binAt_putBin, if_neg hm]
    · rw [hbins, hx]
      rfl
    · rw [hbins, hx]
      exact ⟨rfl, rfl⟩

/-- A bin that the threads fill launches them in a slot that is free. -/
theorem spawn_launches {k : Nat} (h : s.Ready (.spawn p a b)) (hne : s.lanes ≠ [])
    (hfull : (s.binAt s.coreNo j).threads.length + s.lanes.length = 32) (hk : s.freeSlot s.coreNo = some k)
    (hrun : s.warp.st = .run) : Completes (.spawn p a b) s fun t =>
      GoesTo s t (s.nextPc p) ∧ SameMemory s t ∧ t.binAt s.coreNo j = Bin.blank ∧
      LaunchesThreads s t k { Bin.blank with
        block := s.warp.block, entry := (s.sreg b).setWidth 57
        threads := (s.binAt s.coreNo j).threads ++ s.deposits a b } := by
  have hts : (s.deposits a b).length = s.lanes.length := List.length_map ..
  have hdep : s.deposits a b ≠ [] := by simpa [State.deposits] using hne
  have hcur : s.cur ≠ k := by
    rintro rfl
    exact absurd (hrun.symm.trans (State.freeSlot_free hk)) (by decide)
  obtain ⟨x, hxthreads, hxblock, hxentry, hall⟩ := depositAll_launches hbin hdep (by rw [hts]; exact hfull) hk
  have hlen : x.threads.length ≤ 32 := by rw [hxthreads, List.length_append, hts, hfull]
  obtain ⟨hgoes, hlaunch, hcores, hmem, hblocks⟩ :=
    launchInto_advance (s := s.putBin s.coreNo j Bin.blank) p hcur hlen
  have htimer' : ((launchInto (s.putBin s.coreNo j Bin.blank) k x).launchAt
      ((launchInto (s.putBin s.coreNo j Bin.blank) k x).blockAt s.warp.block).lseq).sptmr ≠ 0 := by
    rw [launchInto_eq]
    exact htimer
  refine ⟨_, spawn_goes h he hbin hall htimer', goesTo_of_warp hgoes rfl rfl rfl, sameMemory_of_eq hmem hblocks, ?_, ?_⟩
  · rw [State.binAt, State.coreAt, hcores]
    exact (s.binAt_putBin s.coreNo j Bin.blank j).trans (if_pos rfl)
  · have hl := launchesThreads_congr (y := ⟨s.warp.block, (s.sreg b).setWidth 57, _, 0, false⟩) hlaunch hxblock
      hxentry hxthreads
    exact ⟨hl.st, hl.spawned, hl.block, hl.ctx, hl.lseq, hl.ready, hl.pc, hl.exec, hl.priv, hl.words⟩

end

end

/-- Settles O40: the deposit of a spawn's threads fills the one bin that serves them, and a full bin launches. -/
theorem spawnDepositsItsThreads : Obligations.SpawnDepositsItsThreads := by
  unfold Obligations.SpawnDepositsItsThreads
  intro s p a b
  refine ⟨fun h he => spawn_misaligned h he, fun h he hrange => spawn_outOfRange h he hrange,
    fun j h he hbin htimer hroom => spawn_fills he hbin htimer h hroom,
    fun j k h he hbin htimer hne hfull hk hrun => spawn_launches he hbin htimer h hne hfull hk hrun, fun h he hbin => ?_⟩
  have hw := s.await_waits (.spawn ((s.sreg b).setWidth 57) (s.deposits a b)) p (s.readLabel (.spawn p a b))
  exact ⟨_, spawn_waits h he hbin, hw.only, hw.st, hw.pc, hw.rest⟩

end Sys2Proof.Machine

end

section

namespace Sys2Proof.Machine

/-! ## Bins that launch by themselves (05 R108) -/

/-- No split of a core waits in `spawn`. -/
def State.NoSpawnWaits (s : State) (core : Nat) : Prop :=
  ∀ m < 32, ∀ e ∈ (s.warpAt (32 * core + m)).liveSplits, ∀ pc ts, e.2.st ≠ .swait (.spawn pc ts)

/-- A fold whose steps leave the state as it is leaves it as it is. -/
theorem foldl_eq_self {α β : Type} {f : β → α → β} {b : β} {l : List α} (h : ∀ a ∈ l, f b a = b) : l.foldl f b = b := by
  induction l with
  | nil => rfl
  | cons a t ih =>
    rw [List.foldl_cons, h a List.mem_cons_self]
    exact ih fun x hx => h x (List.mem_cons_of_mem _ hx)

section

variable {s : State} {core : Nat}

theorem spawnPass_of_noSpawnWaits (h : s.NoSpawnWaits core) : spawnPass core s = s := by
  refine foldl_eq_self fun j hj => foldl_eq_self fun e he => ?_
  have hst := h j (List.mem_range.mp hj) e he
  split
  · next pc ts heq => exact absurd heq (hst pc ts)
  · rfl

theorem settleSpawns_of_noSpawnWaits (h : s.NoSpawnWaits core) : settleSpawns core s = s :=
  foldl_eq_self fun _ _ => spawnPass_of_noSpawnWaits h

/-- A spawned warp does not wait. -/
theorem State.spawnedWarp_live (s : State) (x : Bin) {e : Nat × Split} (he : e ∈ (s.spawnedWarp x).liveSplits) :
    e.2.st = .ready := by
  obtain ⟨hmem, -⟩ := List.mem_filter.mp he
  obtain ⟨i, hsplits⟩ := s.spawnedWarp_splits x
  rw [hsplits] at hmem
  rcases Sparse.mem_set hmem with heq | ⟨hin, -⟩
  · rw [heq]
    rfl
  · nomatch hin

/-- A launch adds no split that waits in `spawn`. -/
theorem State.NoSpawnWaits.launchInto {r : State} {k : Nat} {x : Bin} (h : s.NoSpawnWaits core)
    (hwarps : r.warps = s.warps) : (launchInto r k x).NoSpawnWaits core := by
  intro m hm e he pc ts
  rw [launchInto_eq] at he
  by_cases hk : 32 * core + m = k
  · rw [hk, State.warpAt_setWarpAt_same] at he
    rw [State.spawnedWarp_live _ _ he]
    exact nofun
  · rw [State.warpAt_setWarpAt_other _ _ hk, State.warpAt, hwarps] at he
    exact h m hm e he pc ts

/-- A bin launches in a slot that is free, and no split of its core goes on. -/
theorem settleSpawns_tryLaunch {j k : Nat} (hne : (s.binAt core j).threads ≠ [])
    (hlen : (s.binAt core j).threads.length ≤ 32) (hk : s.freeSlot core = some k) (hnone : s.NoSpawnWaits core) :
    let t := settleSpawns core (tryLaunch s core j)
    LaunchesThreads s t k (s.binAt core j) ∧ t.binAt core j = Bin.blank ∧ SameMemory s t ∧
      ∀ m, m ≠ k → t.warpAt m = s.warpAt m := by
  have hwaits := hnone.launchInto (r := s.putBin core j Bin.blank) (k := k) (x := s.binAt core j) rfl
  dsimp only
  rw [tryLaunch_free hne hk, settleSpawns_of_noSpawnWaits hwaits, launchInto_eq]
  refine ⟨launchesThreads_of hlen rfl rfl (State.warpAt_setWarpAt_same ..), ?_, sameMemory_of_eq rfl rfl, fun m hm =>
    State.warpAt_setWarpAt_other _ _ hm⟩
  exact (s.binAt_putBin core j Bin.blank j).trans (if_pos rfl)

/-! ## Splits that merge early (05 R101) -/

/-- A split that differs from another in its lanes and in the machine's own bookkeeping alone may merge with it. -/
theorem mayMerge_of_eq {k : Warp} {x y : Split} {m mode : BitVec 32} {pcl : LIdx} {rpc : Option (BitVec 57)}
    {rm : Option (BitVec 32)} (hready : x.st = .ready)
    (heq : y = { x with
      exec := y.exec, safe := y.safe, imask := y.imask, wmask := y.wmask, wlbl := y.wlbl, last := y.last,
      declined := y.declined, heldOn := y.heldOn, yielded := y.yielded })
    (htop : k.top x.exec = some (.diverge m mode pcl rpc rm)) (hsame : k.top y.exec = k.top x.exec) :
    mayMerge k x y = true := by
  obtain ⟨⟩ := x
  obtain ⟨⟩ := y
  simp only [Split.mk.injEq, true_and, and_true] at heq hready htop hsame
  simp [mayMerge, heq, hready, htop, hsame]

/-! ## Scores that decay (05 R115) -/

/-- The score of a warp halves. -/
def Warp.decay (w : Warp) : Warp := { w with lost := w.lost >>> 1 }

theorem warpAt_foldl_decay (s : State) (core n k : Nat) :
    ((List.range n).foldl (fun s j => s.setWarpAt (32 * core + j) (s.warpAt (32 * core + j)).decay) s).warpAt k =
      if 32 * core ≤ k ∧ k < 32 * core + n then (s.warpAt k).decay else s.warpAt k := by
  induction n with
  | zero => exact (if_neg (by omega)).symm
  | succ n ih =>
    rw [List.range_succ, List.foldl_append, List.foldl_cons, List.foldl_nil]
    by_cases hk : k = 32 * core + n
    · rw [hk, State.warpAt_setWarpAt_same, ← hk, ih, if_neg (by omega), if_pos (by omega)]
    · rw [State.warpAt_setWarpAt_other _ _ hk, ih]
      simp only [show k < 32 * core + (n + 1) ↔ k < 32 * core + n by omega]

/-! ## Starvation (05 R116) -/

/-- The cycle of a split's last issue. -/
def State.lastIssue (s : State) (p : Nat × Nat) : Nat := ((s.warpAt p.1).split p.2).last

/-- Of what a fold holds and its next element the one of lesser value; what it holds where they are alike. -/
def lesser {α : Type} (f : α → Nat) (b : Option α) (p : α) : Option α :=
  match b with
  | none => some p
  | some q => if f p < f q then some p else b

theorem lesser_le {α : Type} (f : α → Nat) (b : Option α) (a : α) :
    ∃ p, lesser f b a = some p ∧ f p ≤ f a ∧ ∀ q, b = some q → f p ≤ f q := by
  cases b with
  | none => exact ⟨a, rfl, Nat.le_refl _, nofun⟩
  | some q =>
    by_cases h : f a < f q
    · exact ⟨a, if_pos h, Nat.le_refl _, fun q' hq => Option.some.inj hq ▸ h.le⟩
    · exact ⟨q, if_neg h, Nat.le_of_not_lt h, fun q' hq => Option.some.inj hq ▸ Nat.le_refl _⟩

/-- The choice of a fold has a value no greater than any. -/
theorem foldl_lesser {α : Type} (f : α → Nat) (l : List α) (b : Option α) :
    (∀ q, b = some q → ∃ p, l.foldl (lesser f) b = some p ∧ f p ≤ f q) ∧
      ∀ q ∈ l, ∃ p, l.foldl (lesser f) b = some p ∧ f p ≤ f q := by
  induction l generalizing b with
  | nil => exact ⟨fun q hq => ⟨q, hq, Nat.le_refl _⟩, nofun⟩
  | cons a t ih =>
    obtain ⟨p, hp, hle, hb⟩ := lesser_le f b a
    obtain ⟨hstart, hrest⟩ := ih (some p)
    obtain ⟨r, hr, hrp⟩ := hstart p rfl
    rw [List.foldl_cons, hp]
    refine ⟨fun q hq => ⟨r, hr, hrp.trans (hb q hq)⟩, fun q hq => ?_⟩
    rcases List.mem_cons.mp hq with rfl | hq
    · exact ⟨r, hr, hrp.trans hle⟩
    · exact hrest q hq

theorem State.firstStarved_eq (q : Nat) : s.firstStarved q =
    ((s.splitsOf q).filter fun p => s.starved p.1 p.2).foldl (lesser s.lastIssue) none := by
  rw [State.firstStarved]
  congr 1
  funext b p
  cases b <;> rfl

/-- Of the splits of a scheduler that starve, the one that issues has waited no less than any. -/
theorem State.firstStarved_least {q : Nat} {p : Nat × Nat} (hmem : p ∈ s.splitsOf q)
    (hstarved : s.starved p.1 p.2 = true) : ∃ r, s.firstStarved q = some r ∧ s.lastIssue r ≤ s.lastIssue p := by
  rw [s.firstStarved_eq]
  exact (foldl_lesser s.lastIssue _ none).2 p (List.mem_filter.mpr ⟨hmem, hstarved⟩)

theorem State.starved_iff {k sp : Nat} :
    s.starved k sp = true ↔ s.lastIssue (k, sp) + 4096 ≤ s.issueCycle k ∧ s.candidate k sp = true := by
  rw [State.starved, Bool.and_eq_true, decide_eq_true_iff]
  rfl

/-- While a split starves its scheduler issues one that starves, and has waited no less. -/
theorem starved_of_canIssue {w sp j i : Nat} (h : canIssue s w sp = true) (hmem : (j, i) ∈ s.splitsOf (scheduler w))
    (hstarved : s.starved j i = true) : s.starved w sp = true ∧ s.lastIssue (w, sp) ≤ s.lastIssue (j, i) := by
  obtain ⟨r, hr, hle⟩ := State.firstStarved_least hmem hstarved
  rw [canIssue, hr, Bool.and_eq_true] at h
  have heq : r = (w, sp) := beq_iff_eq.mp h.2
  rw [heq] at hr hle
  exact ⟨State.firstStarved_starved hr, hle⟩

/-! ## One instruction a cycle (05 R112) -/

theorem State.fillTlb_snd (s : State) (cap : Nat) (t : List (Nat × Nat × BitVec 128 × Nat))
    (x : Nat × Nat × BitVec 128 × Nat) : (s.fillTlb cap t x).2 = { s with choices := (s.fillTlb cap t x).2.choices } := by
  unfold State.fillTlb
  split
  · rfl
  · split
    · rfl
    · exact s.pick_snd _

/-- The cycle and the schedulers' next issue cycles are as they were. -/
def KeepsTurns (s t : State) : Prop := t.cycle = s.cycle ∧ ∀ k, (t.coreAt k).next = (s.coreAt k).next

theorem KeepsTurns.trans {s t u : State} (h : KeepsTurns s t) (g : KeepsTurns t u) : KeepsTurns s u :=
  ⟨g.1.trans h.1, fun k => (g.2 k).trans (h.2 k)⟩

theorem State.fillTlb_keepsTurns (s : State) (cap : Nat) (t : List (Nat × Nat × BitVec 128 × Nat))
    (x : Nat × Nat × BitVec 128 × Nat) : KeepsTurns s (s.fillTlb cap t x).2 := by
  rw [State.fillTlb_snd]
  exact ⟨rfl, fun _ => rfl⟩

theorem State.setCoreAt_keepsTurns (s : State) {core : Nat} {x : Core} (hx : x.next = (s.coreAt core).next) :
    KeepsTurns s (s.setCoreAt core x) := by
  refine ⟨rfl, fun k => ?_⟩
  by_cases hk : k = core
  · rw [hk, State.coreAt_setCoreAt_same, hx]
  · rw [State.coreAt_setCoreAt_other _ _ hk]

theorem State.setDieTlb_keepsTurns (s : State) (x : Sparse (List (Nat × Nat × BitVec 128 × Nat))) :
    KeepsTurns s { s with dieTlb := x } := ⟨rfl, fun _ => rfl⟩

/-- A translation is cached between turns. -/
theorem State.cache_keepsTurns (s : State) (core c va : Nat) : KeepsTurns s (s.cache core c va) := by
  unfold State.cache
  split
  · dsimp only
    generalize hr : s.fillTlb 256 _ _ = r
    have hcore := hr ▸ s.fillTlb_keepsTurns ..
    have hput := r.2.setCoreAt_keepsTurns (core := core) (x := { r.2.coreAt core with tlb := r.1 }) rfl
    generalize r.2.setCoreAt core _ = u at hput ⊢
    exact hcore.trans (hput.trans ((u.fillTlb_keepsTurns ..).trans (State.setDieTlb_keepsTurns ..)))
  · exact ⟨rfl, fun _ => rfl⟩

/-- A state at the issue cycle of a slot's scheduler, whose next is a cycle later. -/
def State.turned (s : State) (k : Nat) : State :=
  let x := s.coreAt (k / 32)
  ({ s with cycle := s.issueCycle k } : State).setCoreAt (k / 32)
    { x with next := x.next.set 0 (k % 32 / 8) (s.issueCycle k + 1) }

theorem prepare_keepsTurns (s : State) (k sp : Nat) : KeepsTurns (s.turned k) (prepare s k sp) := by
  refine KeepsTurns.trans ?_ (State.cache_keepsTurns ..)
  exact ⟨rfl, fun _ => rfl⟩

/-- A scheduler's turn is that of its next issue cycle, and its next turn a cycle later. -/
theorem prepare_issueCycle (s : State) (k sp : Nat) :
    (prepare s k sp).cycle = s.issueCycle k ∧ (prepare s k sp).issueCycle k = s.issueCycle k + 1 := by
  obtain ⟨hcycle, hcores⟩ := prepare_keepsTurns s k sp
  have hnow : (s.turned k).cycle = s.issueCycle k := rfl
  have hnext : ((s.turned k).coreAt (k / 32)).next.get 0 (k % 32 / 8) = s.issueCycle k + 1 := by
    rw [State.turned, State.coreAt_setCoreAt_same, Sparse.get_set_same]
  refine ⟨hcycle, ?_⟩
  rw [State.issueCycle, hcycle, hcores, hnow, hnext]
  omega

/-! ## Uncorrectable errors (16 R271, R272) -/

/-- A page that is retired leaves the poison as it was, and all of memory. -/
theorem State.retire_memory (s : State) (page : Nat) :
    (s.retire page).mem = s.mem ∧ (s.retire page).blocks = s.blocks ∧ (s.retire page).phys.poison = s.phys.poison :=
  List.foldlRecOn _ _ (motive := fun t : State => t.mem = s.mem ∧ t.blocks = s.blocks ∧ t.phys.poison = s.phys.poison)
    ⟨rfl, rfl, rfl⟩ fun _ h _ _ => h

/-- Poison enters a sector of memory, and memory is as it was. -/
theorem State.enterPoison_memory (s : State) {k : Nat} (hk : k < 2 ^ 48) :
    (s.enterPoison k).mem = s.mem ∧ (s.enterPoison k).blocks = s.blocks ∧
      (s.enterPoison k).phys.poison = s.phys.poison.set false (k / 64) true := by
  have hset : s.setPoison k true = { s with phys := { s.phys with poison := s.phys.poison.set false (k / 64) true } } := by
    rw [State.setPoison, if_pos hk]
    rfl
  unfold State.enterPoison
  rw [if_pos hk, hset]
  dsimp only
  split
  · exact ⟨rfl, rfl, rfl⟩
  · split
    · exact ⟨rfl, rfl, rfl⟩
    · exact State.retire_memory ..

theorem State.poisoned_of_get {k : Nat} (hk : k < 2 ^ 48) (h : s.phys.poison.get false (k / 64) = true) :
    s.poisoned k = true := by
  rw [State.poisoned, if_pos hk, h]
  rfl

theorem eccSector_poisons (s : State) (pa : Nat) : Completes (.eccUncorrectable (.memorySector pa)) s fun t =>
    t.poisoned (pa % 2 ^ 48) = true ∧ SameMemory s t := by
  have hk : pa % 2 ^ 48 < 2 ^ 48 := Nat.mod_lt _ (Nat.two_pow_pos 48)
  obtain ⟨hmem, hblocks, hpoison⟩ := s.enterPoison_memory hk
  refine ⟨_, rfl, State.poisoned_of_get hk ?_, sameMemory_of_eq hmem hblocks⟩
  rw [hpoison, Sparse.get_set_same]

/-- A line of a cache is two sectors. -/
theorem eccLine_poisons (s : State) (pa : Nat) : Completes (.eccUncorrectable (.cacheLine pa)) s fun t =>
    t.poisoned (pa % 2 ^ 48 / 128 * 128) = true ∧ t.poisoned (pa % 2 ^ 48 / 128 * 128 + 64) = true ∧ SameMemory s t := by
  have hpa : pa % 2 ^ 48 < 2 ^ 48 := Nat.mod_lt _ (Nat.two_pow_pos 48)
  generalize hk : pa % 2 ^ 48 / 128 * 128 = k
  have hlow : k < 2 ^ 48 := by omega
  have hhigh : k + 64 < 2 ^ 48 := by omega
  obtain ⟨hmem₁, hblocks₁, hpoison₁⟩ := s.enterPoison_memory hlow
  obtain ⟨hmem₂, hblocks₂, hpoison₂⟩ := (s.enterPoison k).enterPoison_memory hhigh
  rw [hpoison₁] at hpoison₂
  refine ⟨(s.enterPoison k).enterPoison (k + 64), by rw [← hk]; rfl, State.poisoned_of_get hlow ?_,
    State.poisoned_of_get hhigh ?_, sameMemory_of_eq (hmem₂.trans hmem₁) (hblocks₂.trans hblocks₁)⟩
  · rw [hpoison₂, Sparse.get_set_other _ _ _ (by omega), Sparse.get_set_same]
  · rw [hpoison₂, Sparse.get_set_same]

theorem eccScratch_poisons {b g : Nat} (hlive : (s.blockAt b).live = true) :
    Completes (.eccUncorrectable (.scratch b g)) s fun t =>
      t.poisoned (scratchKey b (64 * g % 2 ^ 48)) = true ∧ SameMemory s t := by
  have hoff : 64 * g % 2 ^ 48 < 2 ^ 48 := Nat.mod_lt _ (Nat.two_pow_pos 48)
  generalize hk : scratchKey b (64 * g % 2 ^ 48) = k
  have hge : ¬k < 2 ^ 48 := by rw [← hk, scratchKey]; omega
  have hexec : exec (.eccUncorrectable (.scratch b g)) s = .next (s.setPoison k true) :=
    (if_pos hlive).trans (congrArg (fun k => Host.Outcome.next (s.setPoison k true)) hk)
  rw [State.setPoison, if_neg hge] at hexec
  refine ⟨_, hexec, ?_, sameMemory_setBlockAt rfl⟩
  rw [State.poisoned, if_neg hge, State.blockAt_setBlockAt_same, Sparse.get_set_same]

/-! ## B slots that are struck (14 R233, 16 R271) -/

/-- Nothing differs but warps. -/
def State.OnlyWarps (s t : State) : Prop := t = { s with warps := t.warps }

theorem State.OnlyWarps.trans {s t u : State} (h : s.OnlyWarps t) (g : t.OnlyWarps u) : s.OnlyWarps u := by
  unfold State.OnlyWarps at *
  rw [g, h]

theorem State.OnlyWarps.foldl {α : Type} {f : State → α → State} (h : ∀ (s : State) a, s.OnlyWarps (f s a)) (l : List α)
    (s : State) : s.OnlyWarps (l.foldl f s) :=
  List.foldlRecOn (motive := fun t => s.OnlyWarps t) l f rfl fun t ht a _ => ht.trans (h t a)

theorem State.asWarp_onlyWarps {f : State → State} (s : State) (k i : Nat) (h : ∀ s : State, s.OnlyWarps (f s)) :
    s.OnlyWarps (s.asWarp k i f) := by
  have hf := congrArg (fun t : State => ({ t with cur := s.cur, curSplit := s.curSplit } : State))
    (h { s with cur := k, curSplit := i })
  exact hf

theorem State.setS_onlyWarps (s : State) (d : SNum) (v : Word) (l : Label) : s.OnlyWarps (s.setS d v l) := by
  by_cases hd : d = 0
  · rw [State.setS, if_pos hd]
    rfl
  · rw [s.setS_warp d v l hd]
    rfl

theorem mstatEnd_onlyWarps (d : SNum) (clr : Bool) (s : State) : s.OnlyWarps (mstatEnd d clr s) := by
  have h := s.setS_onlyWarps d (s.warp.mstat.setWidth 64) (s.label s.warp.mslbl ||| s.pcl ||| s.guardLbl)
  unfold mstatEnd
  cases clr
  · exact h
  · exact h.trans rfl

theorem mchkEnd_onlyWarps (d : SNum) (clr : Bool) (s : State) : s.OnlyWarps (mchkEnd d clr s) := by
  have h := s.setS_onlyWarps d (s.warp.chkcnt.setWidth 64) (s.pcl ||| s.guardLbl)
  unfold mchkEnd
  cases clr
  · exact h
  · exact h.trans rfl

theorem settleStats_onlyWarps (core : Nat) (s : State) : s.OnlyWarps (settleStats core s) := by
  refine State.OnlyWarps.foldl (fun s j => State.OnlyWarps.foldl (fun s e => s.asWarp_onlyWarps _ _ fun s => ?_) _ s) _ s
  split
  · rfl
  · split
    · next d clr _ => exact (mstatEnd_onlyWarps d clr s).trans rfl
    · next d clr _ => exact (mchkEnd_onlyWarps d clr s).trans rfl
    · rfl

/-- A slot, memory and the blocks' windows are as they were. -/
def KeepsSlot (core n : Nat) (s t : State) : Prop :=
  t.bslotAt core n = s.bslotAt core n ∧ t.mem = s.mem ∧ t.blocks = s.blocks

theorem KeepsSlot.trans {core n : Nat} {s t u : State} (h : KeepsSlot core n s t) (g : KeepsSlot core n t u) :
    KeepsSlot core n s u :=
  ⟨g.1.trans h.1, g.2.1.trans h.2.1, g.2.2.trans h.2.2⟩

theorem State.bslotAt_setBslotAt (s : State) (core m n : Nat) (x : BSlot) :
    (s.setBslotAt core m x).bslotAt core n = if n = m then x else s.bslotAt core n := by
  rw [State.bslotAt, State.setBslotAt, State.coreAt_setCoreAt_same, Sparse.get_set]
  rfl

theorem State.mapGroups_keepsSlot (s : State) (core n : Nat) (f : List Group → List Group) :
    KeepsSlot core n s (s.mapGroups core f) := by
  refine ⟨?_, rfl, rfl⟩
  rw [State.bslotAt, State.mapGroups, State.coreAt_setCoreAt_same, State.bslotAt]

theorem State.dropQuarters_keepsSlot (s : State) (core n : Nat) (ids : List Nat) :
    KeepsSlot core n s (s.dropQuarters core ids) := by
  have htouch (bs : List Nat) : KeepsSlot core n s (bs.foldl (fun s b => s.touch (s.blockAt b).ctx) s) :=
    List.foldlRecOn (motive := KeepsSlot core n s) bs _ ⟨rfl, rfl, rfl⟩ fun t ht b _ => ht.trans ⟨rfl, rfl, rfl⟩
  unfold State.dropQuarters
  dsimp only
  generalize hbs : List.map Quarter.block _ = bs
  exact (htouch bs).trans (State.mapGroups_keepsSlot ..)

/-- A slot that is not being freed stays. -/
theorem State.settleSlots_keepsSlot (s : State) (core n : Nat) (h : (s.bslotAt core n).freeing = false) :
    KeepsSlot core n s (s.settleSlots core) := by
  refine List.foldlRecOn (motive := KeepsSlot core n s) _ _ ⟨rfl, rfl, rfl⟩ fun t ht m _ => ?_
  split
  · next hfree =>
    have hm : n ≠ m := by
      rintro rfl
      rw [ht.1, h] at hfree
      simp at hfree
    exact ht.trans ⟨(t.bslotAt_setBslotAt ..).trans (if_neg hm), rfl, rfl⟩
  · exact ht

/-- A slot that no group uses is struck: it is poisoned, and no warp halts. -/
theorem poisonSlot_poisons {core n : Nat} (hready : (s.bslotAt core n).st = .ready)
    (hfreeing : (s.bslotAt core n).freeing = false) (hgroups : ∀ g ∈ (s.coreAt core).groups, g.slot ≠ n) :
    ((poisonSlot core n s).bslotAt core n).st = .poisoned ∧ SameMemory s (poisonSlot core n s) := by
  let u := s.setBslotAt core n { s.bslotAt core n with st := .poisoned, plain := [] }
  have hu : u.bslotAt core n = { s.bslotAt core n with st := .poisoned, plain := [] } :=
    (s.bslotAt_setBslotAt ..).trans (if_pos rfl)
  have hugroups : (u.coreAt core).groups = (s.coreAt core).groups := by
    rw [show u.coreAt core = _ from State.coreAt_setCoreAt_same ..]
  have hnone : ((u.coreAt core).groups.filter fun g => g.slot = n && g.plain.isSome && g.results = none) = [] := by
    rw [hugroups, List.filter_eq_nil_iff]
    intro g hg
    simp [hgroups g hg]
  have heq : poisonSlot core n s = settleStats core ((u.dropQuarters core []).settleSlots core) := by
    unfold poisonSlot
    dsimp only
    rw [hready, if_neg (by decide)]
    change u.discard core .poison _ _ = _
    rw [hnone]
    rfl
  have hdrop := u.dropQuarters_keepsSlot core n []
  have hkeeps := hdrop.trans (State.settleSlots_keepsSlot _ core n (by rw [hdrop.1, hu]; exact hfreeing))
  generalize (u.dropQuarters core []).settleSlots core = v at heq hkeeps
  have hstats := settleStats_onlyWarps core v
  rw [← heq] at hstats
  have hslot : (poisonSlot core n s).bslotAt core n = v.bslotAt core n := by rw [hstats]; rfl
  refine ⟨by rw [hslot, hkeeps.1, hu], sameMemory_of_eq ?_ ?_⟩
  · rw [hstats]
    exact hkeeps.2.1
  · rw [hstats]
    exact hkeeps.2.2

end

/-- Settles O41: each event by the lemma about what it does. -/
theorem warpAndArrayEventsAct : Obligations.WarpAndArrayEventsAct := by
  unfold Obligations.WarpAndArrayEventsAct
  intro s
  refine ⟨?_, ?_, ?_, ?_, ?_, ?_, ?_, ?_, ?_, ?_, ?_, ?_, ?_, ?_, ?_⟩
  · intro core j k i x timer hi hne hlen hk hnone
    have hdone := settleSpawns_tryLaunch hne hlen hk hnone
    rcases hi with ⟨rfl, htimer, hold⟩ | ⟨rfl, hdue⟩
    · have hdue : ¬(decide (x.threads = []) || decide (timer = 0) || decide (s.cycle < x.since + 64 * timer)) = true := by
        simp [hne, htimer, hold]
      exact ⟨_, if_neg hdue, hdone⟩
    · exact ⟨_, if_pos hdue, hdone⟩
  · intro w a b m mode pcl rpc rm k x y hab hrun hready heq htop hsame
    have hmerge : ¬(decide (a = b) || k.st != .run || !mayMerge k x y) = true := by
      simp [hab, hrun, mayMerge_of_eq hready heq htop hsame]
    refine ⟨_, if_neg hmerge, ?_, ?_, ?_, ?_, fun j hja hjb => ?_, ?_⟩
    · rw [State.warpAt_setWarpAt_same, Warp.split_setSplit_other _ _ hab, Warp.split_setSplit_same]
    · rw [State.warpAt_setWarpAt_same, Warp.split_setSplit_same]
    · rw [State.warpAt_setWarpAt_same, Warp.split_setSplit_other _ _ hab, Warp.split_setSplit_same]
    · rw [State.warpAt_setWarpAt_same]
      rfl
    · rw [State.warpAt_setWarpAt_same, Warp.split_setSplit_other _ _ hjb, Warp.split_setSplit_other _ _ hja]
    · rw [State.warpAt_setWarpAt_same]
  · exact fun w => ⟨fun h => by simp [execSlotDrainDone, h], fun h hp => by simp [execSlotDrainDone, h, hp],
      fun h hp => by simp [execSlotDrainDone, h, hp]⟩
  · intro core hcycle
    have hc : ¬s.cycle % 1024 ≠ 0 := not_not.mpr hcycle
    refine ⟨_, if_neg hc, fun k => (warpAt_foldl_decay s core 32 k).trans ?_⟩
    simp only [show (32 * core ≤ k ∧ k < 32 * core + 32) ↔ k / 32 = core by omega]
    rfl
  · intro w sp j i hissue hmem hcand hlast
    obtain ⟨hstarved, hle⟩ := starved_of_canIssue hissue hmem (State.starved_iff.mpr ⟨hlast, hcand⟩)
    obtain ⟨hlast', hcand'⟩ := State.starved_iff.mp hstarved
    exact ⟨hcand', hlast', hle⟩
  · exact fun w sp h => if_pos h
  · exact prepare_issueCycle s
  · exact eccSector_poisons s
  · exact eccLine_poisons s
  · exact fun b g => eccScratch_poisons
  · intro w r l hst hr hl
    have hstruck : ¬((s.warpAt w).st == .free || decide (128 ≤ r) || decide (32 ≤ l)) = true := by simp [hst, hr, hl]
    refine ⟨_, if_neg hstruck, ?_, ?_⟩
    · rw [State.warpAt_setWarpAt_same, Sparse.get_set_same]
    · rw [State.warpAt_setWarpAt_same]
  · intro w r hst hr hr'
    have hstruck : ¬((s.warpAt w).st == .free || decide (r = 0) || decide (64 ≤ r)) = true := by
      simp [hst, hr', Nat.ne_of_gt hr]
    refine ⟨_, if_neg hstruck, ?_, ?_⟩
    · rw [State.warpAt_setWarpAt_same, Sparse.get_set_same]
    · rw [State.warpAt_setWarpAt_same]
  · exact fun core n hready hfreeing hgroups => ⟨_, rfl, poisonSlot_poisons hready hfreeing hgroups⟩
  · intro id o ho
    rw [exec_eccUncorrectable, execEccUncorrectable]
    simp only [ho]
  · intro w g hst
    have hstruck : ¬((s.warpAt w).st == .free) = true := by simp [hst]
    refine ⟨_, if_neg hstruck, ?_, ?_⟩
    · rw [State.warpAt_setWarpAt_same, Sparse.get_set_same]
    · rw [State.warpAt_setWarpAt_same]

end Sys2Proof.Machine

end

section

namespace Sys2Proof.Machine

/-! ## What an access from outside a die leaves of the history (10 R183, R187) -/

theorem look_map_leave (k n x : Nat) (es : List (Nat × ByteHist)) :
    Sparse.look x (es.map fun e => if k ≤ e.1 ∧ e.1 < k + n then (e.1, { e.2 with solo := none }) else e) =
      (Sparse.look x es).map fun b => if k ≤ x ∧ x < k + n then { b with solo := none } else b := by
  induction es with
  | nil => rfl
  | cons e t ih =>
    obtain ⟨j, b⟩ := e
    rw [List.map_cons]
    by_cases hin : k ≤ j ∧ j < k + n
    · rw [if_pos hin]
      by_cases hj : j = x
      · subst hj
        simp [Sparse.look, hin]
      · simpa [Sparse.look, hj] using ih
    · rw [if_neg hin]
      by_cases hj : j = x
      · subst hj
        simp [Sparse.look, hin]
      · simpa [Sparse.look, hj] using ih

/-- A byte's history after its interval has ended. -/
theorem Hist.byte_leave (h : Hist) (k n x : Nat) :
    (h.leave k n).byte x = (h.byte x).map fun b => if k ≤ x ∧ x < k + n then { b with solo := none } else b := by
  have hbool : (h.leave k n).bytes.entries =
      h.bytes.entries.map fun e => if k ≤ e.1 ∧ e.1 < k + n then (e.1, { e.2 with solo := none }) else e := by
    simp [Hist.leave]
  rw [Hist.byte, hbool, look_map_leave]
  rfl

theorem Follows.leave (s : State) (seen : List Nat) (k n : Nat) : Follows s seen (s.hist.leave k n) where
  writes := rfl
  pend _ hq := hq
  unwritten x := by rw [Hist.byte_leave, Option.map_eq_none_iff]
  bytes x b hb := by
    rw [Hist.byte_leave, Option.map_eq_some_iff] at hb
    obtain ⟨old, hold, rfl⟩ := hb
    obtain ⟨_, hsame, hd⟩ := (Follows.refl s seen).bytes x old hold
    rw [hold] at hsame
    obtain rfl := Option.some.inj hsame
    refine ⟨old, hold, ?_⟩
    split
    · exact ⟨rfl, rfl, nofun, nofun⟩
    · exact hd

/-- A byte picked at its home is one of its value set (10 R183, R187). -/
theorem State.mem_values_pickByte {s t : State} {seen : List Nat} (hr : Reads s t) (hf : Follows s seen t.hist)
    (home : Bool) (x : Nat) (hne : s.hist.values x (s.byteAt x) seen ≠ []) :
    ∃ v, ((t.pickByte seen home x).1, v) ∈ s.hist.values x (s.byteAt x) seen := by
  have hvs : t.hist.values x (t.byteAt x) seen = s.hist.values x (s.byteAt x) seen := by rw [hf.values, hr.byteAt]
  simp only [State.pickByte, hvs]
  generalize s.hist.values x (s.byteAt x) seen = vs at hne
  have hnear : ∀ v ∈ t.hist.atHome t.cycle x vs, v ∈ vs := by
    unfold Hist.atHome
    split
    · exact fun _ hv => hv
    · exact fun _ hv => List.mem_of_mem_filter hv
  generalize t.hist.atHome t.cycle x vs = near at hnear
  have hlt {ws : List (Option Nat × Byte)} (hws : ws ≠ []) : ws.getD (t.pick ws.length).1 (none, 0#8) ∈ ws := by
    have hpick := t.pick_lt (List.length_pos_iff.mpr hws)
    rw [List.getD_eq_getElem _ _ hpick]
    exact List.getElem_mem hpick
  split
  · next hcond =>
    exact ⟨_, hnear _ (hlt (of_decide_eq_true (Bool.and_eq_true_iff.mp hcond).2))⟩
  · exact ⟨_, hlt hne⟩

/-- An engine reads 8 bytes at their home (10 R174, R175, R183). -/
theorem State.engineReads_choose (s : State) (seen : List Nat) (k : Nat) :
    EngineReads s seen k 8 ((s.leave k 8).choose seen true k 8).1 := by
  let may (x : Nat) (w : Option Nat) : Prop :=
    s.hist.values x (s.byteAt x) seen ≠ [] → ∃ v, (w, v) ∈ s.hist.values x (s.byteAt x) seen
  have hpicks : Picks s k 8 ((s.leave k 8).choose seen true k 8).1 may := by
    refine (State.picks_pickBytes (P := fun u => Reads s u ∧ Follows s seen u.hist) (by decide)
      ⟨.setHist s _, .leave s seen k 8⟩ (fun u hu i _ => ?_) (.setHist s _) (.leave s seen k 8)).1
    obtain ⟨hr, hf⟩ := hu
    refine ⟨⟨hr.trans (.pick ..), ?_⟩, State.mem_values_pickByte hr hf true (k + i)⟩
    rw [show (u.pickByte seen true (k + i)).2 = (u.pick _).2 from rfl, State.pick_snd]
    exact hf
  refine ⟨hpicks.1, fun o m hom => ?_⟩
  obtain ⟨rfl, rfl⟩ : o = 0 ∧ m = 8 := by simpa [pieces, cut] using hom
  rw [List.drop_zero, List.take_of_length_le hpicks.1.le]
  exact hpicks

/-! ## Contexts that become idle, or are so no more (17 R296) -/

/-- Nothing differs but which contexts are idle, and virtual times. -/
structure SameButIdle (s t : State) : Prop where
  eq : t = { s with ctxs := t.ctxs }
  ctx : ∀ c, t.ctxAt c = { s.ctxAt c with wasIdle := (t.ctxAt c).wasIdle, vt := (t.ctxAt c).vt }

section

variable {s t u : State}

theorem SameButIdle.refl (s : State) : SameButIdle s s := ⟨rfl, fun _ => rfl⟩

theorem SameButIdle.trans (h : SameButIdle s t) (g : SameButIdle t u) : SameButIdle s u where
  eq := by rw [g.eq, h.eq]
  ctx c := by rw [g.ctx, h.ctx]

theorem State.setCtxAt_sameButIdle (s : State) (c : Nat) (b : Bool) (v : Nat) :
    SameButIdle s (s.setCtxAt c { s.ctxAt c with wasIdle := b, vt := v }) where
  eq := rfl
  ctx d := by
    by_cases hd : d = c
    · rw [hd, State.ctxAt_setCtxAt_same]
    · rw [State.ctxAt_setCtxAt_other _ _ hd]

theorem State.refreshIdle_sameButIdle (s : State) (p : Nat) : SameButIdle s (s.refreshIdle p) := by
  refine List.foldlRecOn (motive := SameButIdle s) _ _ (.refl s) fun t ht c _ => ?_
  dsimp only
  split
  · exact ht.trans (t.setCtxAt_sameButIdle ..)
  · split
    · exact ht.trans (t.setCtxAt_sameButIdle ..)
    · exact ht

theorem SameButIdle.queueAt (h : SameButIdle s t) (c q : Nat) : t.queueAt c q = s.queueAt c q := by
  rw [State.queueAt, h.ctx]
  rfl

theorem SameButIdle.launchAt (h : SameButIdle s t) (l : Nat) : t.launchAt l = s.launchAt l := by
  rw [h.eq]
  rfl

theorem SameButIdle.memory (h : SameButIdle s t) : t.mem = s.mem ∧ t.blocks = s.blocks := by
  rw [h.eq]
  exact ⟨rfl, rfl⟩

/-- A check does not turn on them. -/
theorem SameButIdle.checkVa (h : SameButIdle s t) : t.checkVa = s.checkVa := by
  funext core c priv pure declined k va
  have hroot : (t.ctxAt c).root = (s.ctxAt c).root := by rw [h.ctx]
  have hslot : (t.ctxAt c).mslot = (s.ctxAt c).mslot := by rw [h.ctx]
  have htranslate : t.translate core c va.toNat = s.translate core c va.toNat := by
    unfold State.translate
    rw [hroot, h.eq]
    rfl
  have hrefusal (e : BitVec 128) (pa : Nat) : t.refusal c e pa = s.refusal c e pa := by
    unfold State.refusal
    rw [hslot, h.eq]
  have hports (pa : Nat) : t.portWaits pa = s.portWaits pa := by
    rw [h.eq]
    rfl
  unfold State.checkVa
  rw [htranslate]
  simp only [hrefusal, hports]

end

/-! ## The head of a queue (16 R280, 17 R299) -/

section

variable {s : State} {c q lseq : Nat} {rest : List QCmd}

theorem State.launchAt_dropFaults (s : State) (who : FaultFor) (l : Nat) :
    (s.dropFaults who).launchAt l = s.launchAt l := rfl

/-- A queue whose head does not end. -/
theorem settleQueue_of_holds {u r : State} (hlive : (s.ctxAt c).live = true) (hheld : (s.ctxAt c).held = false)
    (hu : u = s.refreshIdle (s.ctxAt c).pav) (hstep : queueStep c q u = (false, r)) :
    settleQueue c q s = r.refreshIdle (s.ctxAt c).pav := by
  have hgoes : ((s.ctxAt c).live && !(s.ctxAt c).held) = true := by rw [hlive, hheld]; rfl
  rw [settleQueue, if_pos hgoes]
  dsimp only
  rw [← hu, runQueue, hstep]
  rfl

/-- A launch that waits for no signal is ready. -/
theorem queueStep_noWaits (hcmds : (s.queueAt c q).cmds = .launch lseq :: rest) (hready : (s.launchAt lseq).ready = false)
    (hwaits : (s.launchAt lseq).waits = []) : queueStep c q s =
      (false, (s.setLaunchAt lseq { s.launchAt lseq with ready := true, hb := (s.queueAt c q).hb }).dropFaults
        (.queue c q)) := by
  simp only [queueStep, hcmds, hready, hwaits, testWaits, Bool.false_eq_true, if_false, one_ne_zero]

/-- A launch that waits for one signal is ready once its value is no less than the one awaited. -/
theorem queueStep_oneWait {a v : Word} {k : Nat} {ceil : Label} {bs : List Byte} {ws : List Nat} {u : State}
    (hcmds : (s.queueAt c q).cmds = .launch lseq :: rest) (hready : (s.launchAt lseq).ready = false)
    (hwaits : (s.launchAt lseq).waits = [(a, v)]) (hchk : s.sigChk c (.queue c q) .load a = .ok k ceil)
    (hread : (s.leave k 8).choose (s.queueAt c q).hb true k 8 = (bs, ws, u)) :
    ∃ ids, queueStep c q s = (false, if v.toNat ≤ leNat bs then
      (u.setLaunchAt lseq { u.launchAt lseq with ready := true, hb := ids }).dropFaults (.queue c q) else u) := by
  by_cases hv : v.toNat ≤ leNat bs
  · simp only [queueStep, hcmds, hready, hwaits, testWaits, readSignal, hchk, hread, Bool.false_eq_true, if_false, hv,
      if_true, one_ne_zero]
    exact ⟨_, rfl⟩
  · refine ⟨[], ?_⟩
    simp only [queueStep, hcmds, hready, hwaits, testWaits, readSignal, hchk, hread, Bool.false_eq_true, if_false, hv,
      if_true]

/-- A read takes picks, and nothing else differs. -/
theorem State.choose_snd (s : State) (seen : List Nat) (home : Bool) (k n : Nat) :
    (s.choose seen home k n).2.2 = { s with choices := (s.choose seen home k n).2.2.choices } := by
  have hbyte (u : State) (x : Nat) : (u.pickByte seen home x).2 = { u with choices := (u.pickByte seen home x).2.choices } :=
    u.pick_snd _
  simp only [State.choose, State.pickBytes]
  split
  · exact hbyte s k
  · refine List.foldlRecOn (motive := fun r : List Byte × List Nat × State => r.2.2 = { s with choices := r.2.2.choices })
      _ _ rfl fun r hr i _ => ?_
    dsimp only
    rw [hbyte, hr]

variable (hlive : (s.ctxAt c).live = true) (hheld : (s.ctxAt c).held = false)
  (hcmds : (s.queueAt c q).cmds = .launch lseq :: rest) (hready : (s.launchAt lseq).ready = false)

include hlive hheld hcmds hready

theorem launchReady_noWaits (hwaits : (s.launchAt lseq).waits = []) : Completes (.launchReady c q) s fun t =>
    (t.launchAt lseq).ready = true ∧ SameMemory s t := by
  have hu := s.refreshIdle_sameButIdle (s.ctxAt c).pav
  generalize heq : s.refreshIdle (s.ctxAt c).pav = u at hu
  have hstep := queueStep_noWaits (s := u) (hu.queueAt c q ▸ hcmds) (hu.launchAt lseq ▸ hready) (hu.launchAt lseq ▸ hwaits)
  have hsettle := settleQueue_of_holds hlive hheld heq.symm hstep
  generalize hr : State.dropFaults _ (.queue c q) = r at hsettle
  have hidle := r.refreshIdle_sameButIdle (s.ctxAt c).pav
  have hrlaunch : (r.launchAt lseq).ready = true := by
    rw [← hr, State.launchAt_dropFaults, State.launchAt_setLaunchAt_same]
  have hrmem : r.mem = u.mem ∧ r.blocks = u.blocks := by
    rw [← hr]
    exact ⟨rfl, rfl⟩
  refine ⟨_, congrArg Host.Outcome.next hsettle, (hidle.launchAt lseq).symm ▸ hrlaunch, sameMemory_of_eq ?_ ?_⟩
  · rw [hidle.memory.1, hrmem.1, hu.memory.1]
  · rw [hidle.memory.2, hrmem.2, hu.memory.2]

theorem launchReady_oneWait {a v : Word} {k : Nat} {ceil : Label} (hwaits : (s.launchAt lseq).waits = [(a, v)])
    (hchk : s.sigChk c (.queue c q) .load a = .ok k ceil) : Completes (.launchReady c q) s fun t => SameMemory s t ∧
      ∃ bs, EngineReads s (s.queueAt c q).hb k 8 bs ∧ ((t.launchAt lseq).ready = true ↔ v.toNat ≤ leNat bs) := by
  have hu := s.refreshIdle_sameButIdle (s.ctxAt c).pav
  generalize heq : s.refreshIdle (s.ctxAt c).pav = u at hu
  have hchk' : u.sigChk c (.queue c q) .load a = .ok k ceil := by
    rw [← hchk, State.sigChk, State.sigChk, hu.checkVa, State.declinedFor, State.declinedFor, hu.eq]
  have hreads : EngineReads u (u.queueAt c q).hb k 8 ((u.leave k 8).choose (u.queueAt c q).hb true k 8).1 :=
    u.engineReads_choose ..
  have hsnd := State.choose_snd (u.leave k 8) (u.queueAt c q).hb true k 8
  generalize hread : (u.leave k 8).choose (u.queueAt c q).hb true k 8 = r at hreads hsnd
  obtain ⟨ids, hstep⟩ := queueStep_oneWait (hu.queueAt c q ▸ hcmds) (hu.launchAt lseq ▸ hready)
    (hu.launchAt lseq ▸ hwaits) hchk' hread
  have hsettle := settleQueue_of_holds hlive hheld heq.symm hstep
  have hlaunch : (r.2.2.launchAt lseq).ready = false := by
    rw [hsnd]
    exact hu.launchAt lseq ▸ hready
  have hmem : r.2.2.mem = s.mem ∧ r.2.2.blocks = s.blocks := by
    rw [hsnd]
    exact hu.memory
  rw [hu.queueAt, hu.eq] at hreads
  refine ⟨_, congrArg Host.Outcome.next hsettle, ?_, r.1, hreads, ?_⟩
  · have hidle := State.refreshIdle_sameButIdle
    by_cases hv : v.toNat ≤ leNat r.1
    · rw [if_pos hv]
      exact sameMemory_of_eq ((hidle ..).memory.1.trans hmem.1) ((hidle ..).memory.2.trans hmem.2)
    · rw [if_neg hv]
      exact sameMemory_of_eq ((hidle ..).memory.1.trans hmem.1) ((hidle ..).memory.2.trans hmem.2)
  · rw [(State.refreshIdle_sameButIdle ..).launchAt]
    by_cases hv : v.toNat ≤ leNat r.1
    · rw [if_pos hv, State.launchAt_dropFaults, State.launchAt_setLaunchAt_same]
      exact iff_of_true rfl hv
    · rw [if_neg hv, hlaunch]
      exact iff_of_false Bool.false_ne_true hv

end

/-! ## What freezing a launch's inputs leaves alone (16 R282) -/

/-- Nothing differs but memory, cached translations and the cores, whose suspicion scores are as they were. -/
structure OnlyTables (s t : State) : Prop where
  eq : t = { s with mem := t.mem, phys := t.phys, blocks := t.blocks, cores := t.cores, dieTlb := t.dieTlb }
  susp : ∀ c, (t.coreAt c).susp = (s.coreAt c).susp

section

variable {s t u : State}

theorem OnlyTables.refl (s : State) : OnlyTables s s := ⟨rfl, fun _ => rfl⟩

theorem OnlyTables.trans (h : OnlyTables s t) (g : OnlyTables t u) : OnlyTables s u where
  eq := by rw [g.eq, h.eq]
  susp c := (g.susp c).trans (h.susp c)

theorem OnlyTables.foldl {α : Type} {f : State → α → State} (h : ∀ s a, OnlyTables s (f s a)) (l : List α) (s : State) :
    OnlyTables s (l.foldl f s) :=
  List.foldlRecOn (motive := OnlyTables s) l f (.refl s) fun t ht a _ => ht.trans (h t a)

theorem State.setByte_onlyTables (s : State) (k : Nat) (b : Byte) : OnlyTables s (s.setByte k b) := by
  unfold State.setByte
  split
  · exact ⟨rfl, fun _ => rfl⟩
  · exact ⟨rfl, fun _ => rfl⟩

theorem State.setBytes_onlyTables (s : State) (k : Nat) (bs : List Byte) : OnlyTables s (s.setBytes k bs) := by
  induction bs generalizing s k with
  | nil => exact .refl s
  | cons b t ih => exact (s.setByte_onlyTables k b).trans (ih ..)

theorem State.setFrz_onlyTables (s : State) (k : Nat) (b : Bool) : OnlyTables s (s.setFrz k b) := by
  unfold State.setFrz
  dsimp only
  split
  · exact .refl s
  · exact s.setBytes_onlyTables ..

theorem State.setTlb_onlyTables (s : State) (core : Nat) (x : List (Nat × Nat × BitVec 128 × Nat)) :
    OnlyTables s (s.setCoreAt core { s.coreAt core with tlb := x }) := by
  refine ⟨rfl, fun c => ?_⟩
  by_cases hc : c = core
  · rw [hc, State.coreAt_setCoreAt_same]
  · rw [State.coreAt_setCoreAt_other _ _ hc]

theorem State.dropTranslations_onlyTables (s : State) (c lo n : Nat) : OnlyTables s (s.dropTranslations c lo n) := by
  have hcores : OnlyTables s (s.dropCores (fun _ => true) c lo n) :=
    .foldl (fun s k => s.setTlb_onlyTables k (dropTlb c lo n (s.coreAt k).tlb)) _ s
  refine hcores.trans (.foldl (fun t d => ?_) _ _)
  exact ⟨rfl, fun _ => rfl⟩

theorem OnlyTables.launchAt (h : OnlyTables s t) (l : Nat) : t.launchAt l = s.launchAt l := by
  rw [h.eq]
  rfl

/-- One leaf of the inputs is frozen. -/
def State.freezeLeaf (s : State) (c : Nat) (p : Nat × Nat) : State := (s.setFrz p.1 true).dropTranslations c p.2 1

theorem State.freezeLeaf_onlyTables (s : State) (c : Nat) (p : Nat × Nat) : OnlyTables s (s.freezeLeaf c p) :=
  (s.setFrz_onlyTables p.1 true).trans (State.dropTranslations_onlyTables _ c p.2 1)

theorem freezeInputs_eq (lseq : Nat) (s : State) : freezeInputs lseq s =
    let l := s.launchAt lseq
    let ps := s.leavesOf l.ctx l.inputs
    let v := ps.foldl (fun s p => s.freezeLeaf l.ctx p) s
    v.setLaunchAt lseq { v.launchAt lseq with frozen := ps.map Prod.fst } := rfl

/-- Freezing inputs changes of its launch no more than the list of what it has frozen. -/
theorem freezeInputs_launch (lseq : Nat) (s : State) : (freezeInputs lseq s).launchAt lseq =
    { s.launchAt lseq with frozen := ((freezeInputs lseq s).launchAt lseq).frozen } := by
  rw [freezeInputs_eq]
  dsimp only
  rw [State.launchAt_setLaunchAt_same, OnlyTables.launchAt (.foldl (fun s p => s.freezeLeaf_onlyTables _ p) _ s)]

end

/-! ## The start of a launch (17 R299, 20 R340) -/

/-- A launch that has started. -/
def State.startLaunch (s : State) (lseq : Nat) : State :=
  let l := s.launchAt lseq
  s.setLaunchAt lseq { l with
    started := true, meas := s.measure l, firstId := s.nextId, hb := joinIds l.hb (s.queueAt l.ctx l.queue).hb }

theorem launchStart_starts {s : State} {lseq : Nat} (hknown : (s.launchAt lseq).known = true)
    (hready : (s.launchAt lseq).ready = true) (hstarted : (s.launchAt lseq).started = false)
    (hended : (s.launchAt lseq).ended = false) : Completes (.launchStart lseq) s fun t =>
      (t.launchAt lseq).started = true ∧ (t.launchAt lseq).meas = s.measure (s.launchAt lseq) ∧
      (t.launchAt lseq).firstId = s.nextId ∧
      ((s.launchAt lseq).pure = false → SameMemory s t ∧ (t.launchAt lseq).frozen = (s.launchAt lseq).frozen) := by
  have hstart : ¬(!(s.launchAt lseq).known || !(s.launchAt lseq).ready || (s.launchAt lseq).started ||
      (s.launchAt lseq).ended) = true := by
    simp [hknown, hready, hstarted, hended]
  have hlaunch : (s.startLaunch lseq).launchAt lseq = _ := State.launchAt_setLaunchAt_same ..
  have hexec : exec (.launchStart lseq) s = .next (if (s.launchAt lseq).pure then
      freezeInputs lseq (s.startLaunch lseq) else s.startLaunch lseq) := if_neg hstart
  cases hpure : (s.launchAt lseq).pure with
  | true =>
    rw [hpure, if_pos rfl] at hexec
    refine ⟨_, hexec, ?_⟩
    dsimp only
    rw [freezeInputs_launch, hlaunch]
    exact ⟨rfl, rfl, rfl, nofun⟩
  | false =>
    rw [hpure, if_neg Bool.false_ne_true] at hexec
    refine ⟨_, hexec, ?_⟩
    dsimp only
    rw [hlaunch]
    exact ⟨rfl, rfl, rfl, fun _ => ⟨sameMemory_of_eq rfl rfl, rfl⟩⟩

/-! ## The dispatch of gangs (17 R300) -/

/-- A block of a launch as it starts on a core, its windows at two places of the core's pool. -/
def Launch.block (l : Launch) (lseq gang : Nat) (rank num core vcore : Nat) (audit : Bool) (now : Nat) (at_ : Nat × Nat) :
    Block :=
  { Block.blank with
    live := true, lseq := lseq, ctx := l.ctx, gang := gang, rank := rank, num := num, vcore := vcore
    spBytes := l.spBytes, accBytes := l.accBytes, ranks := 2 ^ l.w2, start := now, audit := audit
    core := core, poolSp := at_.1, poolAcc := at_.2 }

section

variable {s t u : State} {lseq : Nat}

/-- Nothing differs but blocks, cores and the count of names. -/
def OnlyBlocks (s t : State) : Prop := t = { s with blocks := t.blocks, cores := t.cores, nextId := t.nextId }

theorem OnlyBlocks.trans (h : OnlyBlocks s t) (g : OnlyBlocks t u) : OnlyBlocks s u := by
  unfold OnlyBlocks at *
  rw [g, h]

/-- A new block takes the next name. -/
theorem newBlock_eq (lseq gang rank num core vcore : Nat) (audit : Bool) (s : State) :
    let r := newBlock lseq gang rank num core vcore audit s
    r.1 = s.nextId ∧ r.2.nextId = s.nextId + 1 ∧ OnlyBlocks s r.2 ∧ (∀ i, i ≠ s.nextId → r.2.blockAt i = s.blockAt i) ∧
      ∃ p, r.2.blockAt s.nextId = (s.launchAt lseq).block lseq gang rank num core vcore audit s.cycle p := by
  have htake (v : State) (c : Nat) : v.takeCore core c = { v with cores := (v.takeCore core c).cores } := by
    unfold State.takeCore
    dsimp only
    split
    · rfl
    · rfl
  unfold newBlock
  dsimp only
  rw [htake]
  exact ⟨rfl, rfl, rfl, fun i hi => State.blockAt_setBlockAt_other _ _ hi, _, State.blockAt_setBlockAt_same ..⟩

/-- The blocks of a gang, one after another. -/
def newBlocks (lseq gang : Nat) (es : List ((Nat × Nat) × Nat)) (r : List Nat × State) : List Nat × State :=
  es.foldl (fun r e =>
    let x := newBlock lseq gang e.1.1 e.1.2 e.2 e.2 false r.2
    (r.1 ++ [x.1], x.2)) r

theorem newBlocks_eq (lseq gang : Nat) (es : List ((Nat × Nat) × Nat)) (ids : List Nat) (s : State) :
    let r := newBlocks lseq gang es (ids, s)
    r.1 = ids ++ List.range' s.nextId es.length ∧ OnlyBlocks s r.2 ∧ (∀ i < s.nextId, r.2.blockAt i = s.blockAt i) ∧
      ∀ j e, es[j]? = some e →
        ∃ p, r.2.blockAt (s.nextId + j) = (s.launchAt lseq).block lseq gang e.1.1 e.1.2 e.2 e.2 false s.cycle p := by
  induction es generalizing ids s with
  | nil => exact ⟨(List.append_nil ids).symm, rfl, fun _ _ => rfl, nofun⟩
  | cons e es ih =>
    obtain ⟨hid, hnext, honly, hold, p, hnew⟩ := newBlock_eq lseq gang e.1.1 e.1.2 e.2 e.2 false s
    have hcons : newBlocks lseq gang (e :: es) (ids, s) = newBlocks lseq gang es
        (ids ++ [(newBlock lseq gang e.1.1 e.1.2 e.2 e.2 false s).1], (newBlock lseq gang e.1.1 e.1.2 e.2 e.2 false s).2) :=
      rfl
    rw [hcons]
    generalize newBlock lseq gang e.1.1 e.1.2 e.2 e.2 false s = x at hid hnext honly hold hnew ⊢
    obtain ⟨hids, hrest, hbefore, hlater⟩ := ih (ids ++ [x.1]) x.2
    rw [hid, hnext] at hids
    rw [hnext] at hbefore hlater
    have hlaunch : x.2.launchAt lseq = s.launchAt lseq := by rw [honly]; rfl
    have hcycle : x.2.cycle = s.cycle := by rw [honly]
    refine ⟨?_, honly.trans hrest, fun i hi => ?_, fun j e' he => ?_⟩
    · rw [hid, hids, List.append_assoc, List.length_cons, List.range'_succ]
      rfl
    · rw [hbefore i (by omega), hold i (by omega)]
    · cases j with
      | zero =>
        obtain rfl := Option.some.inj he
        exact ⟨p, (hbefore _ (Nat.lt_succ_self _)).trans hnew⟩
      | succ j =>
        obtain ⟨p', hp'⟩ := hlater j e' he
        rw [hlaunch, hcycle, Nat.add_right_comm] at hp'
        exact ⟨p', hp'⟩

/-- Nothing differs but warps and the count of names. -/
def OnlySlots (s t : State) : Prop := t = { s with warps := t.warps, nextId := t.nextId }

theorem OnlySlots.foldl {α : Type} {f : State → α → State} (h : ∀ s a, OnlySlots s (f s a)) (l : List α) (s : State) :
    OnlySlots s (l.foldl f s) :=
  List.foldlRecOn (motive := OnlySlots s) l f rfl fun t ht a _ => by
    have hstep := h t a
    unfold OnlySlots at *
    rw [hstep, ht]

theorem launchWarps_onlySlots (id : Nat) (s : State) : OnlySlots s (launchWarps id s) := by
  refine OnlySlots.foldl (fun s j => ?_) _ s
  dsimp only
  split
  · rfl
  · split
    · rfl
    · rfl

/-- The first warp of a block as it launches (02 R9, 05 R94). -/
def State.firstWarp (s : State) (id : Nat) : Warp :=
  let b := s.blockAt id
  let l := s.launchAt b.lseq
  let w : Warp := { Warp.blank with
    st := .run, uid := s.nextId, ctx := b.ctx, lseq := b.lseq, block := id, vr := l.vr, lanes0 := l.lanes b.num 0
    wid := widOf l 0 b.rank (s.gangAt b.gang).num, hbBase := l.hb }
  w.setSplit 0 { Split.blank with
    st := .ready, pc := BitVec.ofNat 57 l.entry, exec := l.lanes b.num 0, priv := l.privl, last := s.cycle }

/-- A block of one warp launches it. -/
theorem launchWarps_one {id n : Nat} (hw1 : (s.launchAt (s.blockAt id).lseq).w1 = 0)
    (hlanes : (s.launchAt (s.blockAt id).lseq).lanes (s.blockAt id).num 0 ≠ 0)
    (hfree : s.freeSlot (s.blockAt id).core = some n) : (launchWarps id s).warpAt n = s.firstWarp id := by
  unfold launchWarps
  dsimp only
  rw [hw1, Nat.pow_zero, List.range_one, List.foldl_cons, List.foldl_nil, if_neg hlanes, hfree]
  exact State.warpAt_setWarpAt_same ..

/-! ### A gang -/

/-- A gang's blocks with the cores that they go to. -/
def State.gangPlaces (s : State) (lseq g : Nat) (ps : List (Nat × Nat)) : List ((Nat × Nat) × Nat) :=
  ((s.launchAt lseq).gangBlocks g).zip (ps.map Prod.snd)

/-- A launch one more of whose gangs is live, with the blocks of it that are picked for audit. -/
def Launch.dispatched (l : Launch) (g : Nat) (picked : List Nat) : Launch :=
  { l with
    nextGang := if l.discarded.contains g then l.nextGang else l.nextGang + 1
    discarded := l.discarded.erase g, liveGangs := l.liveGangs + 1
    selected := l.selected ++ picked, pending := l.pending ++ picked }

/-- The state once a gang's blocks are placed, before its warps launch. -/
def State.placeGang (s : State) (lseq g k : Nat) (ps : List (Nat × Nat)) : State :=
  let l := s.launchAt lseq
  let r := newBlocks lseq s.nextId (s.gangPlaces lseq g ps) ([], s.fresh.2)
  let v := r.2.setGangAt s.nextId { Gang.blank with
    live := true, lseq := lseq, ctx := l.ctx, num := g, cluster := k, blocks := r.1 }
  let v := v.setLaunchAt lseq
    (l.dispatched g (((l.gangBlocks g).map Prod.snd).filter fun b => v.chosen lseq l b && !l.selected.contains b))
  v.setCtxAt l.ctx { v.ctxAt l.ctx with lastQueue := l.queue }

end

section

variable {s : State} {lseq g k : Nat} {ps : List (Nat × Nat)}

/-- The gang, its blocks, its launch, and all else once the blocks are placed. -/
theorem State.placeGang_eq (s : State) (lseq g k : Nat) (ps : List (Nat × Nat)) :
    let l := s.launchAt lseq
    let v := s.placeGang lseq g k ps
    v.gangAt s.nextId = { Gang.blank with
      live := true, lseq := lseq, ctx := l.ctx, num := g, cluster := k
      blocks := List.range' (s.nextId + 1) (s.gangPlaces lseq g ps).length } ∧
    (∃ picked, v.launchAt lseq = l.dispatched g picked) ∧
    v.mem = s.mem ∧ v.warps = s.warps ∧
    ∀ j e, (s.gangPlaces lseq g ps)[j]? = some e → ∃ p,
      v.blockAt (s.nextId + 1 + j) = l.block lseq s.nextId e.1.1 e.1.2 e.2 e.2 false s.cycle p := by
  obtain ⟨hids, honly, -, hblocks⟩ := newBlocks_eq lseq s.nextId (s.gangPlaces lseq g ps) [] s.fresh.2
  unfold State.placeGang
  dsimp only
  generalize newBlocks lseq s.nextId (s.gangPlaces lseq g ps) ([], s.fresh.2) = r at hids honly hblocks ⊢
  refine ⟨?_, ⟨_, State.launchAt_setLaunchAt_same ..⟩, ?_, ?_, fun j e he => ?_⟩
  · rw [show r.1 = List.range' (s.nextId + 1) (s.gangPlaces lseq g ps).length from hids]
    exact State.gangAt_setGangAt_same ..
  · have hmem : r.2.mem = s.mem := by rw [honly]; rfl
    exact hmem
  · have hwarps : r.2.warps = s.warps := by rw [honly]; rfl
    exact hwarps
  · exact hblocks j e he

theorem dispatchGang_onlySlots (s : State) (lseq g k : Nat) (ps : List (Nat × Nat)) :
    OnlySlots (s.placeGang lseq g k ps) (dispatchGang lseq g k ps s) :=
  OnlySlots.foldl (fun s b => launchWarps_onlySlots b s) _ _

/-- A gang of one block launches its warps. -/
theorem dispatchGang_one {e : (Nat × Nat) × Nat} (h : s.gangPlaces lseq g ps = [e]) :
    dispatchGang lseq g k ps s = launchWarps (s.nextId + 1) (s.placeGang lseq g k ps) := by
  have hids : (newBlocks lseq s.nextId (s.gangPlaces lseq g ps) ([], s.fresh.2)).1 = [s.nextId + 1] := by
    rw [h]
    rfl
  exact congrArg (List.foldl (fun s b => launchWarps b s) (s.placeGang lseq g k ps)) hids

/-- Places are found for all the blocks or for none. -/
theorem State.place_length {bs : List Nat} (h : s.place k lseq bs = some ps) : ps.length = bs.length := by
  unfold State.place at h
  dsimp only at h
  split at h
  · next hle =>
    rw [← Option.some.inj h, List.length_zip, Nat.min_eq_left hle]
  · cases h

theorem State.settleClusters_mem (s : State) : s.settleClusters.mem = s.mem := by
  unfold State.settleClusters
  dsimp only
  refine List.foldlRecOn (motive := fun t : State => t.mem = s.mem) _ _ ?_ fun t ht _ _ => ht
  refine List.foldlRecOn (motive := fun t : State => t.mem = s.mem) _ _ ?_ fun t ht _ _ => ht
  exact List.foldlRecOn (motive := fun t : State => t.mem = s.mem) _ _ rfl fun t ht _ _ => ht

/-- A gang whose blocks have places is dispatched. -/
theorem gangDispatch_eq {s u : State} (hu : s.settleClusters = u) (hdispatch : (u.launchAt lseq).toDispatch = true)
    (hdiscarded : (u.launchAt lseq).discarded = []) (hnext : g = (u.launchAt lseq).nextGang)
    (hmore : g < (u.launchAt lseq).gangs) (hheld : (u.ctxAt (u.launchAt lseq).ctx).held = false)
    (hcluster : u.clusterFor (u.ctxAt (u.launchAt lseq).ctx).pav (u.launchAt lseq).ctx k = true)
    (hfill : u.mayFill (u.ctxAt (u.launchAt lseq).ctx).pav (u.launchAt lseq).ctx k = true)
    (hsaveg : (u.gangsOf (u.launchAt lseq).ctx).length < (u.ctxAt (u.launchAt lseq).ctx).saveg)
    (hturn : u.dispatchTurn lseq = true)
    (hps : u.place k lseq (((u.launchAt lseq).gangBlocks g).map Prod.snd) = some ps) :
    exec (.gangDispatch lseq g k) s = .next (dispatchGang lseq g k ps u) := by
  subst hnext
  rw [exec_gangDispatch, execGangDispatch, hu]
  dsimp only
  rw [hps, if_neg]
  simp [hdispatch, hdiscarded, hmore, hheld, hcluster, hfill, hsaveg, hturn]

/-- A gang as it is dispatched, its launch, and memory. -/
theorem dispatchGang_gang (hps : s.place k lseq (((s.launchAt lseq).gangBlocks g).map Prod.snd) = some ps)
    (hdiscarded : (s.launchAt lseq).discarded = []) :
    let t := dispatchGang lseq g k ps s
    let l := s.launchAt lseq
    t.gangAt s.nextId = { Gang.blank with
      live := true, lseq := lseq, ctx := l.ctx, num := g, cluster := k
      blocks := List.range' (s.nextId + 1) (l.gangBlocks g).length } ∧
    (t.launchAt lseq).nextGang = l.nextGang + 1 ∧ (t.launchAt lseq).liveGangs = l.liveGangs + 1 ∧ t.mem = s.mem ∧
    ∀ (j r b b' core : Nat), (l.gangBlocks g)[j]? = some (r, b) → ps[j]? = some (b', core) → ∃ p,
      t.blockAt (s.nextId + 1 + j) = l.block lseq s.nextId r b core core false s.cycle p := by
  have hlen : (s.gangPlaces lseq g ps).length = ((s.launchAt lseq).gangBlocks g).length := by
    have hlen := State.place_length hps
    rw [List.length_map] at hlen
    rw [State.gangPlaces, List.length_zip, List.length_map, hlen, Nat.min_self]
  obtain ⟨hgang, ⟨picked, hlaunch⟩, hmem, -, hblocks⟩ := s.placeGang_eq lseq g k ps
  have honly := dispatchGang_onlySlots s lseq g k ps
  generalize dispatchGang lseq g k ps s = t at honly ⊢
  generalize s.placeGang lseq g k ps = v at honly hgang hlaunch hmem hblocks
  rw [hlen] at hgang
  have htlaunch : t.launchAt lseq = (s.launchAt lseq).dispatched g picked := by
    rw [honly]
    exact hlaunch
  refine ⟨by rw [honly]; exact hgang, ?_, by rw [htlaunch]; rfl, by rw [honly]; exact hmem, fun j r b b' core hj hp => ?_⟩
  · rw [htlaunch, Launch.dispatched, hdiscarded]
    rfl
  · obtain ⟨p, hb⟩ := hblocks j ((r, b), core) (by
      rw [State.gangPlaces, List.getElem?_zip_eq_some, List.getElem?_map, hp]
      exact ⟨hj, rfl⟩)
    exact ⟨p, by rw [honly]; exact hb⟩

/-- The warp of a gang that has one, of one block, as it launches in a slot (02 R9, 05 R94). -/
theorem dispatchGang_warp {b b' core n : Nat} (hblocks : (s.launchAt lseq).gangBlocks g = [(0, b)])
    (hps : ps = [(b', core)]) (hw1 : (s.launchAt lseq).w1 = 0) (hlanes : (s.launchAt lseq).lanes b 0 ≠ 0)
    (hfree : s.freeSlot core = some n) :
    let w := (dispatchGang lseq g k ps s).warpAt n
    let l := s.launchAt lseq
    w.st = .run ∧ w.ctx = l.ctx ∧ w.lseq = lseq ∧ w.block = s.nextId + 1 ∧ w.vr = l.vr ∧ w.sregs = .empty ∧
    w.vregs = .empty ∧ w.flags = 0 ∧ (w.split 0).st = .ready ∧ (w.split 0).pc = BitVec.ofNat 57 l.entry ∧
    (w.split 0).exec = l.lanes b 0 ∧ (w.split 0).mode = 0x30 ∧ (w.split 0).priv = l.privl := by
  have hplaces : s.gangPlaces lseq g ps = [((0, b), core)] := by rw [State.gangPlaces, hblocks, hps]; rfl
  obtain ⟨-, ⟨picked, hlaunch⟩, -, hwarps, hnew⟩ := s.placeGang_eq lseq g k ps
  obtain ⟨p, hblock⟩ := hnew 0 ((0, b), core) (by rw [hplaces]; rfl)
  rw [dispatchGang_one hplaces]
  generalize s.placeGang lseq g k ps = v at hlaunch hwarps hblock
  rw [Nat.add_zero] at hblock
  have hlseq : (v.blockAt (s.nextId + 1)).lseq = lseq := by rw [hblock]; rfl
  have hnum : (v.blockAt (s.nextId + 1)).num = b := by rw [hblock]; rfl
  have hcore : (v.blockAt (s.nextId + 1)).core = core := by rw [hblock]; rfl
  have hctx : (v.blockAt (s.nextId + 1)).ctx = (s.launchAt lseq).ctx := by rw [hblock]; rfl
  have hslot : v.freeSlot core = some n := by
    rw [← hfree]
    unfold State.freeSlot State.warpAt
    rw [hwarps]
  dsimp only
  rw [launchWarps_one (by rw [hlseq, hlaunch]; exact hw1) (by rw [hlseq, hlaunch, hnum]; exact hlanes)
    (by rw [hcore]; exact hslot)]
  unfold State.firstWarp
  dsimp only
  rw [hlseq, hnum, hctx, hlaunch, Warp.split_setSplit_same]
  exact ⟨rfl, rfl, rfl, rfl, rfl, rfl, rfl, rfl, rfl, rfl, rfl, rfl, rfl⟩

end

/-! ## The end of a launch (16 R280, R282) -/

/-- Of a launch no more differs than whether it is closed; suspicion scores, contexts and the Tack Room are as they were, and
nothing that was sent is taken back. -/
structure ClosesAtMost (lseq : Nat) (s t : State) : Prop where
  launch : ∃ b, t.launchAt lseq = { s.launchAt lseq with closed := b }
  susp : ∀ c, (t.coreAt c).susp = (s.coreAt c).susp
  ctxs : t.ctxs = s.ctxs
  tack : t.tack = s.tack
  outbox : ∃ ys, t.outbox = s.outbox ++ ys

section

variable {s t u : State} {lseq : Nat}

theorem State.report_closesAtMost (s : State) (lseq p : Nat) (m : Msg) : ClosesAtMost lseq s (s.report p m) := by
  unfold State.report
  split
  · exact ⟨⟨_, rfl⟩, fun _ => rfl, rfl, rfl, [], (List.append_nil _).symm⟩
  · exact ⟨⟨_, rfl⟩, fun _ => rfl, rfl, rfl, [m], rfl⟩

theorem ClosesAtMost.trans (h : ClosesAtMost lseq s t) (g : ClosesAtMost lseq t u) : ClosesAtMost lseq s u := by
  obtain ⟨b, hb⟩ := h.launch
  obtain ⟨b', hb'⟩ := g.launch
  obtain ⟨ys, hys⟩ := h.outbox
  obtain ⟨zs, hzs⟩ := g.outbox
  exact ⟨⟨b', by rw [hb', hb]⟩, fun c => (g.susp c).trans (h.susp c), g.ctxs.trans h.ctxs, g.tack.trans h.tack,
    ys ++ zs, by rw [hzs, hys, List.append_assoc]⟩

/-- The inputs of a launch are frozen no more. -/
def State.thaw (s : State) (lseq : Nat) : State :=
  let l := s.launchAt lseq
  let v := (l.frozen.filter fun k => !s.frozenElsewhere lseq k).foldl (fun s k => s.setFrz k false) s
  if l.frozen = [] then v else v.dropTranslations l.ctx 0 0

theorem State.thaw_onlyTables (s : State) (lseq : Nat) : OnlyTables s (s.thaw lseq) := by
  have hfold (ks : List Nat) : OnlyTables s (ks.foldl (fun s k => s.setFrz k false) s) :=
    .foldl (fun s k => s.setFrz_onlyTables k false) ks s
  unfold State.thaw
  dsimp only
  split
  · exact hfold _
  · exact (hfold _).trans (State.dropTranslations_onlyTables ..)

theorem OnlyTables.closes (h : OnlyTables s t) (lseq : Nat) (b : Bool) :
    ClosesAtMost lseq s (t.setLaunchAt lseq { s.launchAt lseq with closed := b }) := by
  refine ⟨⟨b, State.launchAt_setLaunchAt_same ..⟩, h.susp, ?_, ?_, [], ?_⟩
  · rw [h.eq]
    rfl
  · rw [h.eq]
    rfl
  · rw [h.eq, List.append_nil]
    rfl

theorem closeLaunch_closesAtMost (lseq : Nat) (s : State) : ClosesAtMost lseq s (closeLaunch lseq s) := by
  have hclose := (s.thaw_onlyTables lseq).closes lseq true
  have heq : closeLaunch lseq s = if !(s.launchAt lseq).ended || (s.launchAt lseq).closed || (s.launchAt lseq).pending ≠ []
      then s else
      let v := (s.thaw lseq).setLaunchAt lseq { s.launchAt lseq with closed := true }
      if (s.launchAt lseq).pure && (s.launchAt lseq).audit ≠ 0 then
        v.report (v.ctxAt (s.launchAt lseq).ctx).pav (.note (some (s.launchAt lseq).ctx) (v.ctxAt (s.launchAt lseq).ctx).pav
          .tenant 0x83 0 (auditReport (s.launchAt lseq)))
      else v := rfl
  rw [heq]
  dsimp only
  split
  · exact ⟨⟨_, rfl⟩, fun _ => rfl, rfl, rfl, [], (List.append_nil _).symm⟩
  · split
    · exact hclose.trans (State.report_closesAtMost ..)
    · exact hclose

theorem State.launchAt_popQueue (s : State) (c q : Nat) (ids : List Nat) (l : Nat) :
    (s.popQueue c q ids).launchAt l = s.launchAt l := rfl
theorem State.popQueue_outbox (s : State) (c q : Nat) (ids : List Nat) : (s.popQueue c q ids).outbox = s.outbox := rfl
theorem State.popQueue_tack (s : State) (c q : Nat) (ids : List Nat) : (s.popQueue c q ids).tack = s.tack := rfl

theorem State.popQueue_cmds (s : State) (c q : Nat) (ids : List Nat) :
    ((s.popQueue c q ids).queueAt c q).cmds = (s.queueAt c q).cmds.tail := by
  have hqueue (x : Queue) : (s.setQueue c q x).queueAt c q = x := by
    rw [State.queueAt, State.setQueue, State.ctxAt_setCtxAt_same, Sparse.get_set_same]
  exact congrArg Queue.cmds (hqueue _)

/-- A launch at the head of its queue ends, and adds no completion signal (16 R280). -/
theorem finishLaunch_eq {status : Nat} (hcmpl : (s.launchAt lseq).cmpl = none)
    (himage : (s.pavAt (s.ctxAt (s.launchAt lseq).ctx).pav).image = none) :
    let l := s.launchAt lseq
    let t := finishLaunch lseq status s
    (t.launchAt lseq).ended = true ∧ (t.queueAt l.ctx l.queue).cmds = (s.queueAt l.ctx l.queue).cmds.tail ∧
      t.outbox = s.outbox ++ [.status l.ses l.tag lseq status l.halted] ∧ t.tack = s.tack := by
  have hreport (L : Launch) (m : Msg) : (s.setLaunchAt lseq L).report (s.ctxAt (s.launchAt lseq).ctx).pav m =
      (s.setLaunchAt lseq L).send m := by
    refine if_neg ?_
    rw [show ((s.setLaunchAt lseq L).pavAt (s.ctxAt (s.launchAt lseq).ctx).pav).image = none from himage]
    exact Bool.false_ne_true
  unfold finishLaunch
  dsimp only
  rw [show ∀ L c, ((s.setLaunchAt lseq L).ctxAt c) = s.ctxAt c from fun _ _ => rfl, hreport]
  generalize hL : ({ s.launchAt lseq with ended := true, status := _, hb := _, closed := _ } : Launch) = L
  generalize hv : State.popQueue _ _ _ _ = v
  have hvlaunch : v.launchAt lseq = L := by
    rw [← hv, State.launchAt_popQueue]
    exact State.launchAt_setLaunchAt_same ..
  have hsignal : completeSignal lseq v = v := by
    unfold completeSignal
    dsimp only
    rw [hvlaunch, ← hL, hcmpl]
  rw [hsignal, hvlaunch, ← hL]
  rw [← hv, State.popQueue_outbox, State.popQueue_tack, State.popQueue_cmds]
  exact ⟨rfl, rfl, rfl, rfl⟩

/-- A queue that is empty does nothing. -/
theorem settleQueue_empty {c q : Nat} (h : (s.queueAt c q).cmds = []) : SameButIdle s (settleQueue c q s) := by
  unfold settleQueue
  dsimp only
  split
  · have hu := s.refreshIdle_sameButIdle (s.ctxAt c).pav
    have hstep : queueStep c q (s.refreshIdle (s.ctxAt c).pav) = (false, s.refreshIdle (s.ctxAt c).pav) := by
      simp only [queueStep, hu.queueAt, h]
    rw [runQueue, hstep]
    exact hu.trans (State.refreshIdle_sameButIdle ..)
  · exact .refl s

theorem launchComplete_ends (hknown : (s.launchAt lseq).known = true) (hstarted : (s.launchAt lseq).started = true)
    (hended : (s.launchAt lseq).ended = false) (hgangs : (s.launchAt lseq).gangs ≤ (s.launchAt lseq).nextGang)
    (hdiscarded : (s.launchAt lseq).discarded = []) (hlive : (s.launchAt lseq).liveGangs = 0)
    (hops : ∀ o ∈ s.ops, o.lseq = lseq → o.core = farCore)
    (hcmds : (s.queueAt (s.launchAt lseq).ctx (s.launchAt lseq).queue).cmds = [.launch lseq])
    (hcmpl : (s.launchAt lseq).cmpl = none) (hleaving : s.leaving (s.launchAt lseq).ctx = none)
    (himage : (s.pavAt (s.ctxAt (s.launchAt lseq).ctx).pav).image = none) : Completes (.launchComplete lseq) s fun t =>
      (t.launchAt lseq).ended = true ∧ (t.queueAt (s.launchAt lseq).ctx (s.launchAt lseq).queue).cmds = [] ∧
      ∃ ys, t.outbox = s.outbox ++ .status (s.launchAt lseq).ses (s.launchAt lseq).tag lseq
        (if (s.launchAt lseq).halted = 0 then 0 else 3) (s.launchAt lseq).halted :: ys := by
  have hends : ¬(!(s.launchAt lseq).known || !(s.launchAt lseq).started || (s.launchAt lseq).ended ||
      decide ((s.launchAt lseq).nextGang < (s.launchAt lseq).gangs) || decide ((s.launchAt lseq).discarded ≠ []) ||
      decide ((s.launchAt lseq).liveGangs ≠ 0) || s.ops.any fun o => o.lseq = lseq && o.core ≠ farCore) = true := by
    have hany : (s.ops.any fun o => decide (o.lseq = lseq) && decide (o.core ≠ farCore)) = false := by
      rw [List.any_eq_false]
      intro o ho
      by_cases hl : o.lseq = lseq
      · simp [hops o ho hl]
      · simp [hl]
    rw [hany]
    simp [hknown, hstarted, hended, hgangs, hdiscarded, hlive]
  obtain ⟨hfended, hfcmds, hfoutbox, hftack⟩ :=
    finishLaunch_eq (status := if (s.launchAt lseq).halted = 0 then 0 else 3) hcmpl himage
  generalize hf : finishLaunch lseq (if (s.launchAt lseq).halted = 0 then 0 else 3) s = f at hfended hfcmds hfoutbox hftack
  have hclose := closeLaunch_closesAtMost lseq f
  generalize hr : closeLaunch lseq f = r at hclose
  have hrcmds : (r.queueAt (s.launchAt lseq).ctx (s.launchAt lseq).queue).cmds = [] := by
    have hsame : r.queueAt = f.queueAt := by
      unfold State.queueAt State.ctxAt
      rw [hclose.ctxs]
    rw [hsame, hfcmds, hcmds]
    rfl
  have hidle := settleQueue_empty hrcmds
  generalize hv : settleQueue (s.launchAt lseq).ctx (s.launchAt lseq).queue r = v at hidle
  have hvleaving : v.leaving (s.launchAt lseq).ctx = none := by
    have htack : v.tack = s.tack := by rw [hidle.eq, ← hftack, ← hclose.tack]
    rw [← hleaving, State.leaving, htack]
    rfl
  have hmigration : settleMigration (s.launchAt lseq).ctx v = v := by
    unfold settleMigration
    rw [hvleaving]
  have hexec : exec (.launchComplete lseq) s = .next v := by
    refine (if_neg hends).trans (congrArg Host.Outcome.next ?_)
    rw [← hmigration, ← hv, ← hr, ← hf]
    rfl
  obtain ⟨b, hb⟩ := hclose.launch
  obtain ⟨ys, hys⟩ := hclose.outbox
  refine ⟨v, hexec, ?_, ?_, ys, ?_⟩
  · rw [hidle.launchAt, hb]
    exact hfended
  · rw [hidle.queueAt, hrcmds]
  · rw [hidle.eq, hys, hfoutbox, List.append_assoc]
    rfl

end

/-! ## Audits (16 R286 to R288) -/

section

variable {s t u : State} {lseq b : Nat}

/-- A launch without the runs of a block, which is pending no more. -/
def Launch.audited (l : Launch) (b : Nat) : Launch :=
  { l with pending := l.pending.filter (fun x => x ≠ b), runs := l.runs.filter fun r => r.num ≠ b }

/-- An audit that ends leaves of its launch what `f` gives, but for the block's runs. -/
theorem endAudit_launch (lseq b : Nat) (f : Launch → Launch) (s : State) :
    (∃ c, (endAudit lseq b f s).launchAt lseq = { (f (s.launchAt lseq)).audited b with closed := c }) ∧
      ∀ c, ((endAudit lseq b f s).coreAt c).susp = (s.coreAt c).susp := by
  have hend : endAudit lseq b f s = closeLaunch lseq (s.setLaunchAt lseq ((f (s.launchAt lseq)).audited b)) := rfl
  have hclose := closeLaunch_closesAtMost lseq (s.setLaunchAt lseq ((f (s.launchAt lseq)).audited b))
  obtain ⟨c, hc⟩ := hclose.launch
  rw [State.launchAt_setLaunchAt_same] at hc
  rw [hend]
  exact ⟨⟨c, hc⟩, hclose.susp⟩

theorem not_mem_filter_ne (b : Nat) (l : List Nat) : b ∉ l.filter fun x => x ≠ b := by simp

/-- The block is passed. -/
def Launch.pass (l : Launch) : Launch := { l with passed := l.passed + 1 }

/-- The block is reported failed. -/
def Launch.fail (b : Nat) (l : Launch) : Launch := { l with failed := l.failed ++ [b] }

theorem endAudit_pass (lseq b : Nat) (s : State) :
    let t := endAudit lseq b Launch.pass s
    b ∉ (t.launchAt lseq).pending ∧ (t.launchAt lseq).passed = (s.launchAt lseq).passed + 1 ∧
      (t.launchAt lseq).failed = (s.launchAt lseq).failed := by
  obtain ⟨⟨c, hc⟩, -⟩ := endAudit_launch lseq b Launch.pass s
  dsimp only
  rw [hc]
  exact ⟨not_mem_filter_ne b _, rfl, rfl⟩

theorem endAudit_fail (lseq b : Nat) (s : State) :
    let t := endAudit lseq b (Launch.fail b) s
    b ∉ (t.launchAt lseq).pending ∧ (t.launchAt lseq).failed = (s.launchAt lseq).failed ++ [b] ∧
      (t.launchAt lseq).passed = (s.launchAt lseq).passed := by
  obtain ⟨⟨c, hc⟩, -⟩ := endAudit_launch lseq b (Launch.fail b) s
  dsimp only
  rw [hc]
  exact ⟨not_mem_filter_ne b _, rfl, rfl⟩

/-! ### An audit run -/

/-- A block that has run once, and of which no run is under way, has an audit run due. -/
theorem auditRun_due {r : AuditRun} (hended : (s.launchAt lseq).ended = true) (hclosed : (s.launchAt lseq).closed = false)
    (hpending : b ∈ (s.launchAt lseq).pending) (hidle : s.auditing lseq b = false) :
    ¬(!(s.launchAt lseq).ended || (s.launchAt lseq).closed || !(s.launchAt lseq).pending.contains b || !needsRun [r] ||
      s.auditing lseq b) = true := by
  simp [hended, hclosed, hpending, hidle, needsRun]

/-- A block that no core can run again is skipped. -/
theorem auditRun_skips {core : Nat} {r : AuditRun} (hended : (s.launchAt lseq).ended = true)
    (hclosed : (s.launchAt lseq).closed = false) (hpending : b ∈ (s.launchAt lseq).pending)
    (hidle : s.auditing lseq b = false) (hruns : (s.launchAt lseq).runsOf b = [r])
    (hnone : s.auditCores (s.ctxAt (s.launchAt lseq).ctx).pav [r] = []) : Completes (.auditRun lseq b core) s fun t =>
      b ∉ (t.launchAt lseq).pending ∧ (t.launchAt lseq).skipped = (s.launchAt lseq).skipped ++ [b] := by
  let skip (l : Launch) : Launch := { l with skipped := l.skipped ++ [b] }
  have hexec : exec (.auditRun lseq b core) s = .next (endAudit lseq b skip s) := by
    rw [exec_auditRun, execAuditRun]
    rw [hruns, if_neg (auditRun_due hended hclosed hpending hidle), if_pos hnone]
    rfl
  obtain ⟨⟨c, hc⟩, -⟩ := endAudit_launch lseq b skip s
  refine ⟨_, hexec, ?_⟩
  dsimp only
  rw [hc]
  exact ⟨not_mem_filter_ne b _, rfl⟩

/-- An audit run of a block as it starts on a core. -/
theorem startAudit_block (lseq b core : Nat) (r : AuditRun) (s : State) : ∃ p,
    (startAudit lseq b core r s).blockAt (s.nextId + 1) =
      (s.launchAt lseq).block lseq s.nextId (b % 2 ^ (s.launchAt lseq).w2) b core r.vcore true s.cycle p := by
  obtain ⟨hid, -, -, -, p, hblock⟩ :=
    newBlock_eq lseq s.fresh.1 (b % 2 ^ (s.launchAt lseq).w2) b core r.vcore true s.fresh.2
  refine ⟨p, ?_⟩
  unfold startAudit
  dsimp only
  generalize newBlock lseq s.fresh.1 (b % 2 ^ (s.launchAt lseq).w2) b core r.vcore true s.fresh.2 = x at hid hblock ⊢
  rw [launchWarps_onlySlots]
  exact hblock

theorem auditRun_starts {core : Nat} {r : AuditRun} (hended : (s.launchAt lseq).ended = true)
    (hclosed : (s.launchAt lseq).closed = false) (hpending : b ∈ (s.launchAt lseq).pending)
    (hidle : s.auditing lseq b = false) (hruns : (s.launchAt lseq).runsOf b = [r])
    (hcore : core ∈ s.auditCores (s.ctxAt (s.launchAt lseq).ctx).pav [r])
    (hheld : (s.ctxAt (s.launchAt lseq).ctx).held = false)
    (hcluster : s.clusterFor (s.ctxAt (s.launchAt lseq).ctx).pav (s.launchAt lseq).ctx (core / 4) = true)
    (hfill : s.mayFill (s.ctxAt (s.launchAt lseq).ctx).pav (s.launchAt lseq).ctx (core / 4) = true)
    (hroom : 1 ≤ s.room core lseq) (hsaved : s.savedGangs (s.launchAt lseq).ctx = [])
    (hsaveg : (s.gangsOf (s.launchAt lseq).ctx).length < (s.ctxAt (s.launchAt lseq).ctx).saveg)
    (hready : ∀ e ∈ s.readyLaunches (s.launchAt lseq).ctx, (s.launchAt e.2).hasGang = false) :
    Completes (.auditRun lseq b core) s fun t => core ≠ r.core ∧ ∃ id, (t.blockAt id).live = true ∧
      (t.blockAt id).audit = true ∧ (t.blockAt id).num = b ∧ (t.blockAt id).core = core ∧ (t.blockAt id).lseq = lseq ∧
      (t.blockAt id).vcore = r.vcore ∧ (t.blockAt id).rank = b % 2 ^ (s.launchAt lseq).w2 := by
  have hexec : exec (.auditRun lseq b core) s = .next (startAudit lseq b core r s) := by
    rw [exec_auditRun, execAuditRun]
    rw [hruns, if_neg (auditRun_due hended hclosed hpending hidle), if_neg (List.ne_nil_of_mem hcore)]
    refine if_pos ?_
    have hany : ((s.readyLaunches (s.launchAt lseq).ctx).any fun e => (s.launchAt e.2).hasGang) = false := by
      rw [List.any_eq_false]
      exact fun e he => Bool.eq_false_iff.mp (hready e he)
    rw [hany]
    simp [hcore, hheld, hcluster, hfill, hroom, hsaved, hsaveg]
  have hother : core ≠ r.core := by
    rintro rfl
    unfold State.auditCores at hcore
    dsimp only at hcore
    split at hcore
    · simp at hcore
    · simp at hcore
  obtain ⟨p, hblock⟩ := startAudit_block lseq b core r s
  refine ⟨_, hexec, hother, s.nextId + 1, ?_⟩
  rw [hblock]
  exact ⟨rfl, rfl, rfl, rfl, rfl, rfl, rfl⟩

/-! ### The vote -/

/-- An agreement is counted on its core alone. -/
theorem addAgreement_coreAt {core c : Nat} (h : c ≠ core) (s : State) : (addAgreement s core).coreAt c = s.coreAt c :=
  State.coreAt_setCoreAt_other _ _ h

theorem addAgreement_launchAt (s : State) (core l : Nat) : (addAgreement s core).launchAt l = s.launchAt l := rfl

/-- A core that stays below the threshold gains its points, and nothing else differs. -/
theorem addPoints_eq {n core : Nat} (hthreshold : s.phys.threshold ≤ 255)
    (hbelow : (s.coreAt core).susp.toNat + n < s.phys.threshold) : addPoints n s core =
      s.setCoreAt core { s.coreAt core with susp := BitVec.ofNat 8 ((s.coreAt core).susp.toNat + n) } := by
  have hmin : min 255 ((s.coreAt core).susp.toNat + n) = (s.coreAt core).susp.toNat + n := by omega
  have hstays : ¬(decide (s.phys.threshold ≤ (s.coreAt core).susp.toNat + n) && !(s.coreAt core).quar) = true := by
    simp [Nat.not_le.mpr hbelow]
  unfold addPoints
  dsimp only
  rw [hmin]
  exact if_neg hstays

theorem addPoints_gains {n core : Nat} (hthreshold : s.phys.threshold ≤ 255)
    (hbelow : (s.coreAt core).susp.toNat + n < s.phys.threshold) :
    ((addPoints n s core).coreAt core).susp.toNat = (s.coreAt core).susp.toNat + n ∧
      (∀ c, c ≠ core → (addPoints n s core).coreAt c = s.coreAt c) ∧
      (addPoints n s core).phys = s.phys ∧ ∀ l, (addPoints n s core).launchAt l = s.launchAt l := by
  rw [addPoints_eq hthreshold hbelow]
  refine ⟨?_, fun c hc => State.coreAt_setCoreAt_other _ _ hc, rfl, fun _ => rfl⟩
  rw [State.coreAt_setCoreAt_same, BitVec.toNat_ofNat]
  omega

/-- Two runs that agree pass the block. -/
theorem auditCompare_two {x y : AuditRun} (hpending : b ∈ (s.launchAt lseq).pending)
    (hruns : (s.launchAt lseq).runsOf b = [x, y]) :
    (x.agrees y = true → Completes (.auditCompare lseq b) s fun t =>
      b ∉ (t.launchAt lseq).pending ∧ (t.launchAt lseq).passed = (s.launchAt lseq).passed + 1 ∧
        (t.launchAt lseq).failed = (s.launchAt lseq).failed) ∧
    (x.agrees y = false → s.auditCores (s.ctxAt (s.launchAt lseq).ctx).pav [x, y] = [] →
      Completes (.auditCompare lseq b) s fun t =>
        b ∉ (t.launchAt lseq).pending ∧ (t.launchAt lseq).failed = (s.launchAt lseq).failed ++ [b]) := by
  have hcontains : ¬(!(s.launchAt lseq).pending.contains b) = true := by simp [hpending]
  have hexec : exec (.auditCompare lseq b) s =
      if x.agrees y then .next (endAudit lseq b Launch.pass (addAgreement (addAgreement s x.core) y.core))
      else if s.auditCores (s.ctxAt (s.launchAt lseq).ctx).pav [x, y] = [] then .next (endAudit lseq b (Launch.fail b) s)
      else .next s := by
    rw [exec_auditCompare, execAuditCompare]
    rw [if_neg hcontains, hruns]
    rfl
  refine ⟨fun hagrees => ?_, fun hdiffers hnone => ?_⟩
  · rw [hagrees, if_pos rfl] at hexec
    have hpass := endAudit_pass lseq b (addAgreement (addAgreement s x.core) y.core)
    rw [addAgreement_launchAt, addAgreement_launchAt] at hpass
    exact ⟨_, hexec, hpass⟩
  · rw [hdiffers, if_neg Bool.false_ne_true, if_pos hnone] at hexec
    obtain ⟨hout, hfailed, -⟩ := endAudit_fail lseq b s
    exact ⟨_, hexec, hout, hfailed⟩

end

section

variable {s : State} {lseq b : Nat} {x y z : AuditRun} (hxy : x.core ≠ y.core) (hzy : z.core ≠ y.core)
  (hzx : z.core ≠ x.core) (hthreshold : s.phys.threshold ≤ 255)
  (hbelow : ∀ r, r = x ∨ r = y ∨ r = z → (s.coreAt r.core).susp.toNat + 16 < s.phys.threshold)

/-- The points of an audit that ends with `f`, once two runs have agreed against a third. -/
theorem endAudit_minority {p q r : AuditRun} (f : Launch → Launch) (hp : r.core ≠ p.core) (hq : r.core ≠ q.core)
    (hthreshold : s.phys.threshold ≤ 255) (hr : (s.coreAt r.core).susp.toNat + 16 < s.phys.threshold) :
    let u := addPoints 16 (addAgreement (addAgreement s p.core) q.core) r.core
    u.launchAt lseq = s.launchAt lseq ∧
      ((endAudit lseq b f u).coreAt r.core).susp.toNat = (s.coreAt r.core).susp.toNat + 16 := by
  have hsame : (addAgreement (addAgreement s p.core) q.core).coreAt r.core = s.coreAt r.core :=
    (addAgreement_coreAt hq _).trans (addAgreement_coreAt hp s)
  obtain ⟨hgains, -, -, hlaunches⟩ := addPoints_gains (s := addAgreement (addAgreement s p.core) q.core) (n := 16)
    (core := r.core) hthreshold (hsame.symm ▸ hr)
  refine ⟨by rw [hlaunches, addAgreement_launchAt, addAgreement_launchAt], ?_⟩
  rw [(endAudit_launch lseq b f _).2, hgains, hsame]

include hxy hzy hzx hthreshold hbelow

/-- Three cores whose runs all differ gain 8 points each. -/
theorem endAudit_allDiffer (f : Launch → Launch) :
    let u := addPoints 8 (addPoints 8 (addPoints 8 s x.core) y.core) z.core
    u.launchAt lseq = s.launchAt lseq ∧ ∀ r, r = x ∨ r = y ∨ r = z →
      ((endAudit lseq b f u).coreAt r.core).susp.toNat = (s.coreAt r.core).susp.toNat + 8 := by
  have hx := hbelow x (.inl rfl)
  have hy := hbelow y (.inr (.inl rfl))
  have hz := hbelow z (.inr (.inr rfl))
  have hx₀ : (s.coreAt x.core).susp.toNat + 8 < s.phys.threshold := by omega
  obtain ⟨hgx, hox, hpx, hlx⟩ := addPoints_gains hthreshold hx₀
  generalize addPoints 8 s x.core = u₁ at hgx hox hpx hlx ⊢
  have hy₁ : u₁.coreAt y.core = s.coreAt y.core := hox _ hxy.symm
  obtain ⟨hgy, hoy, hpy, hly⟩ := addPoints_gains (s := u₁) (n := 8) (core := y.core) (by rw [hpx]; exact hthreshold)
    (by rw [hy₁, hpx]; omega)
  generalize addPoints 8 u₁ y.core = u₂ at hgy hoy hpy hly ⊢
  have hz₂ : u₂.coreAt z.core = s.coreAt z.core := (hoy _ hzy).trans (hox _ hzx)
  obtain ⟨hgz, hoz, -, hlz⟩ := addPoints_gains (s := u₂) (n := 8) (core := z.core) (by rw [hpy, hpx]; exact hthreshold)
    (by rw [hz₂, hpy, hpx]; omega)
  generalize addPoints 8 u₂ z.core = u₃ at hgz hoz hlz ⊢
  refine ⟨by rw [hlz, hly, hlx], fun r hr => ?_⟩
  rw [(endAudit_launch lseq b f _).2]
  rcases hr with rfl | rfl | rfl
  · rw [hoz _ hzx.symm, hoy _ hxy, hgx]
  · rw [hoz _ hzy.symm, hgy, hy₁]
  · rw [hgz, hz₂]

/-- After a third run the minority gains points (16 R287). -/
theorem auditCompare_three (hpending : b ∈ (s.launchAt lseq).pending)
    (hruns : (s.launchAt lseq).runsOf b = [x, y, z]) : Completes (.auditCompare lseq b) s fun t =>
      let gains (r : AuditRun) (n : Nat) : Prop := (t.coreAt r.core).susp.toNat = (s.coreAt r.core).susp.toNat + n
      let failed : Prop := (t.launchAt lseq).failed = (s.launchAt lseq).failed ++ [b] ∧
        (t.launchAt lseq).passed = (s.launchAt lseq).passed
      b ∉ (t.launchAt lseq).pending ∧ (z.agrees y = true → failed ∧ gains x 16) ∧
      (z.agrees y = false → z.agrees x = true → (t.launchAt lseq).passed = (s.launchAt lseq).passed + 1 ∧
        (t.launchAt lseq).failed = (s.launchAt lseq).failed ∧ gains y 16) ∧
      (z.agrees y = false → z.agrees x = false → failed ∧ gains x 8 ∧ gains y 8 ∧ gains z 8) := by
  have hcontains : ¬(!(s.launchAt lseq).pending.contains b) = true := by simp [hpending]
  have hexec : exec (.auditCompare lseq b) s = if z.agrees y then
        .next (endAudit lseq b (Launch.fail b) (addPoints 16 (addAgreement (addAgreement s y.core) z.core) x.core))
      else if z.agrees x then
        .next (endAudit lseq b Launch.pass (addPoints 16 (addAgreement (addAgreement s x.core) z.core) y.core))
      else .next (endAudit lseq b (Launch.fail b) (addPoints 8 (addPoints 8 (addPoints 8 s x.core) y.core) z.core)) := by
    rw [exec_auditCompare, execAuditCompare]
    rw [if_neg hcontains, hruns]
    rfl
  cases hagreesy : z.agrees y with
  | true =>
    rw [hagreesy, if_pos rfl] at hexec
    obtain ⟨hsame, hgains⟩ := endAudit_minority (s := s) (lseq := lseq) (b := b) (Launch.fail b) hxy hzx.symm hthreshold
      (hbelow x (.inl rfl))
    obtain ⟨hout, hfailed, hpassed⟩ := endAudit_fail lseq b
      (addPoints 16 (addAgreement (addAgreement s y.core) z.core) x.core)
    rw [hsame] at hfailed hpassed
    exact ⟨_, hexec, hout, fun _ => ⟨⟨hfailed, hpassed⟩, hgains⟩, nofun, nofun⟩
  | false =>
    rw [hagreesy, if_neg Bool.false_ne_true] at hexec
    cases hagreesx : z.agrees x with
    | true =>
      rw [hagreesx, if_pos rfl] at hexec
      obtain ⟨hsame, hgains⟩ := endAudit_minority (s := s) (lseq := lseq) (b := b) Launch.pass hxy.symm hzy.symm hthreshold
        (hbelow y (.inr (.inl rfl)))
      obtain ⟨hout, hpassed, hfailed⟩ := endAudit_pass lseq b
        (addPoints 16 (addAgreement (addAgreement s x.core) z.core) y.core)
      rw [hsame] at hfailed hpassed
      exact ⟨_, hexec, hout, nofun, fun _ _ => ⟨hpassed, hfailed, hgains⟩, nofun⟩
    | false =>
      rw [hagreesx, if_neg Bool.false_ne_true] at hexec
      obtain ⟨hsame, hgains⟩ := endAudit_allDiffer (lseq := lseq) (b := b) hxy hzy hzx hthreshold hbelow (Launch.fail b)
      obtain ⟨hout, hfailed, hpassed⟩ := endAudit_fail lseq b
        (addPoints 8 (addPoints 8 (addPoints 8 s x.core) y.core) z.core)
      rw [hsame] at hfailed hpassed
      exact ⟨_, hexec, hout, nofun, nofun, fun _ _ => ⟨⟨hfailed, hpassed⟩, hgains x (.inl rfl), hgains y (.inr (.inl rfl)),
        hgains z (.inr (.inr rfl))⟩⟩

end

/-- Settles O50: each event of a launch and of its audits by the lemma about what it does. -/
theorem launchesAndAuditsRun : Obligations.LaunchesAndAuditsRun := by
  unfold Obligations.LaunchesAndAuditsRun
  intro s lseq
  refine ⟨?_, ?_, ?_, ?_, ?_, ?_, ?_⟩
  · intro c q rest hlive hheld hcmds hready
    exact ⟨fun hwaits => launchReady_noWaits hlive hheld hcmds hready hwaits,
      fun a v k ceil hwaits hchk => launchReady_oneWait hlive hheld hcmds hready hwaits hchk⟩
  · exact fun hknown hready hstarted hended => launchStart_starts hknown hready hstarted hended
  · intro g k ps u l p hdispatch hdiscarded hnext hmore hheld hcluster hfill hsaveg hturn hps
    have hu : s.settleClusters = u := rfl
    clear_value u
    have hexec := gangDispatch_eq hu hdispatch hdiscarded hnext hmore hheld hcluster hfill hsaveg hturn hps
    obtain ⟨hgang, hnextGang, hliveGangs, hmem, hblocks⟩ := dispatchGang_gang hps hdiscarded
    refine ⟨_, hexec, ?_⟩
    dsimp only
    rw [hgang]
    refine ⟨rfl, rfl, rfl, rfl, rfl, rfl, List.length_range', hnext ▸ hnextGang, hliveGangs,
      hmem.trans (hu ▸ s.settleClusters_mem), fun j r b b' core hj hp => ?_,
      fun b b' core n hone hplace hw1 hlanes hfree => ?_⟩
    · obtain ⟨at_, hblock⟩ := hblocks j r b b' core hj hp
      have hin := (List.getElem?_eq_some_iff.mp hj).1
      refine ⟨u.nextId + 1 + j, ?_, ?_⟩
      · rw [List.getElem?_range' hin, Nat.one_mul]
      · rw [hblock]
        exact ⟨rfl, rfl, rfl, rfl, rfl, rfl, rfl⟩
    · have hwarp := dispatchGang_warp (k := k) hone hplace hw1 hlanes hfree
      rw [hone]
      exact hwarp
  · exact fun hknown hstarted hended hgangs hdiscarded hlive hops hcmds hcmpl hleaving himage =>
      launchComplete_ends hknown hstarted hended hgangs hdiscarded hlive hops hcmds hcmpl hleaving himage
  · intro b core r hended hclosed hpending hidle hruns
    exact ⟨fun hnone => auditRun_skips hended hclosed hpending hidle hruns hnone,
      fun hcore hheld hcluster hfill hroom hsaved hsaveg hready =>
        auditRun_starts hended hclosed hpending hidle hruns hcore hheld hcluster hfill hroom hsaved hsaveg hready⟩
  · exact fun b x y hpending hruns => auditCompare_two hpending hruns
  · exact fun b x y z hpending hruns hxy hzy hzx hthreshold hbelow =>
      auditCompare_three hxy hzy hzx hthreshold hbelow hpending hruns

end Sys2Proof.Machine

end

section

namespace Sys2Proof.Machine

/-! ## Pairs of registers written (06 R125, 07 R144) -/

/-- A pair of registers of a lane to write: its even register, the lane, the value and the label. -/
structure PairWrite where
  reg : Nat
  lane : Nat
  val : Nat
  lbl : Label

/-- Two writes have no register of a lane in common. -/
def PairWrite.Apart (x y : PairWrite) : Prop := x.lane = y.lane → x.reg + 1 < y.reg

/-- The warp after pairs are written in order. -/
def Warp.putPairs (w : Warp) (own : Label) (xs : List PairWrite) : Warp :=
  xs.foldl (fun w x => w.putV own true x.reg x.lane x.val x.lbl) w

variable {own : Label} {w : Warp} {xs : List PairWrite}

theorem Warp.putPairs_rest (w : Warp) (own : Label) (xs : List PairWrite) :
    w.putPairs own xs = { w with
      vregs := (w.putPairs own xs).vregs, poisonV := (w.putPairs own xs).poisonV, ltab := (w.putPairs own xs).ltab,
      coarsen := (w.putPairs own xs).coarsen } := by
  induction xs generalizing w with
  | nil => rfl
  | cons x t ih =>
    rw [Warp.putPairs, List.foldl_cons, ← Warp.putPairs, ih, Warp.putV_rest]

theorem Warp.putPairs_entries {i : Nat} {l : Label} (h : w.entry own i = some l) :
    (w.putPairs own xs).entry own i = some l := by
  induction xs generalizing w with
  | nil => exact h
  | cons x t ih => exact ih (w.putV_entries own true x.reg x.lane x.val x.lbl i l h)

theorem Warp.putPairs_other (hlanes : ∀ x ∈ xs, x.lane < 32) {q m : Nat} (hm : m < 32)
    (h : ∀ x ∈ xs, x.lane = m → q ≠ x.reg ∧ q ≠ x.reg + 1) :
    (w.putPairs own xs).vregs.get VLane.zero (vkey q m) = w.vregs.get VLane.zero (vkey q m) := by
  induction xs generalizing w with
  | nil => rfl
  | cons x t ih =>
    rw [List.forall_mem_cons] at hlanes h
    rw [Warp.putPairs, List.foldl_cons, ← Warp.putPairs, ih hlanes.2 h.2, w.putV_get _ _ _ _ _ _ _ _ hlanes.1 hm]
    by_cases hxm : m = x.lane
    · obtain ⟨hreg, hnext⟩ := h.1 hxm.symm
      simp [hreg, hnext]
    · simp [hxm]

/-- What a pair that is written holds, and what its index stands for. -/
theorem Warp.putPairs_get (hlanes : ∀ x ∈ xs, x.lane < 32) (hapart : xs.Pairwise PairWrite.Apart) {x : PairWrite}
    (hx : x ∈ xs) :
    ∃ i : LIdx,
      (w.putPairs own xs).vregs.get VLane.zero (vkey x.reg x.lane) = ⟨BitVec.ofNat 32 x.val, i⟩ ∧
      (w.putPairs own xs).vregs.get VLane.zero (vkey (x.reg + 1) x.lane) = ⟨BitVec.ofNat 32 (x.val / 2 ^ 32), i⟩ ∧
      ((∃ j < 16, w.entry own j = some x.lbl) → (w.putPairs own xs).entry own i.toNat = some x.lbl) ∧
      (Label.dom own x.lbl = true →
        ∃ e, (w.putPairs own xs).entry own i.toNat = some e ∧ Label.dom e x.lbl = true) := by
  induction xs generalizing w with
  | nil => cases hx
  | cons y t ih =>
    rw [List.forall_mem_cons] at hlanes
    rw [List.pairwise_cons] at hapart
    obtain ⟨hylane, htlanes⟩ := hlanes
    obtain ⟨hy, ht⟩ := hapart
    rcases List.mem_cons.mp hx with rfl | hxt
    · have hkept (q : Nat) (hq : q ≤ x.reg + 1) : (w.putPairs own (x :: t)).vregs.get VLane.zero (vkey q x.lane) =
          (w.putV own true x.reg x.lane x.val x.lbl).vregs.get VLane.zero (vkey q x.lane) :=
        Warp.putPairs_other htlanes hylane fun z hz hlane => by
          have := hy z hz hlane.symm
          omega
      have hentry {i : Nat} {l : Label} (h : (w.intern own x.lbl).2.entry own i = some l) :
          (w.putPairs own (x :: t)).entry own i = some l := by
        refine Warp.putPairs_entries (w := w.putV own true x.reg x.lane x.val x.lbl) ?_
        rw [Warp.entry_congr (w.putV_ltab ..)]
        exact h
      refine ⟨(w.intern own x.lbl).1, ?_, ?_, fun h => hentry (w.intern_exact own _ (.inl h)), fun h => ?_⟩
      · rw [hkept _ (by omega), w.putV_get _ _ _ _ _ _ _ _ hylane hylane]
        simp
      · rw [hkept _ le_rfl, w.putV_get _ _ _ _ _ _ _ _ hylane hylane]
        simp
      · obtain ⟨e, he, hdom⟩ := w.intern_dom own _ h
        exact ⟨e, hentry he, hdom⟩
    · obtain ⟨i, heven, hodd, hexact, hdom⟩ := ih (w := w.putV own true y.reg y.lane y.val y.lbl) htlanes ht hxt
      exact ⟨i, heven, hodd, fun ⟨j, hj, he⟩ => hexact ⟨j, hj, Warp.putV_entries _ _ _ _ _ _ _ _ _ he⟩, hdom⟩

/-- Pairs written and then flags set: a change of the warp alone. -/
theorem State.setFlags_putPairs (s : State) (xs : List PairWrite) (f : BitVec 32) (l : Label) :
    (xs.foldl (fun s x => s.setV true x.reg x.lane x.val x.lbl) s).setFlags f l =
      s.setWarp ((s.warp.putPairs s.owners xs).putFlags s.owners f l) := by
  induction xs generalizing s with
  | nil => exact s.setFlags_warp f l
  | cons x t ih =>
    have howners : (s.setWarp (s.warp.putV s.owners true x.reg x.lane x.val x.lbl)).owners = s.owners :=
      s.owners_setWarp (by rw [Warp.putV_rest])
    rw [List.foldl_cons, ih, State.setV_warp, howners, State.warp_setWarp, State.setWarp_setWarp]
    rfl

/-! ## The destination pairs of every lane -/

/-- The writes of the values `v` of each lane to the pairs from register `d` on. -/
def pairWrites (d : Nat) (v : Nat → List Nat) (lb : Nat → Label) (ls : List Nat) : List PairWrite :=
  ls.flatMap fun l => (v l).zipIdx.map fun x => ⟨d + 2 * x.2, l, x.1, lb l⟩

variable {d : Nat} {v : Nat → List Nat} {lb : Nat → Label} {ls : List Nat}

theorem putPairs_eq (d : Nat) (v : Nat → List Nat) (lb : Nat → Label) (ls : List Nat) (s : State) :
    putPairs d v lb ls s =
      (pairWrites d v lb ls).foldl (fun s x => s.setV true x.reg x.lane x.val x.lbl) s := by
  induction ls generalizing s with
  | nil => rfl
  | cons l t ih =>
    rw [putPairs, ih, pairWrites, pairWrites, List.flatMap_cons, List.foldl_append, List.foldl_map]

theorem mem_pairWrites {x : PairWrite} : x ∈ pairWrites d v lb ls ↔
    ∃ l ∈ ls, ∃ k n, (v l)[k]? = some n ∧ x = ⟨d + 2 * k, l, n, lb l⟩ := by
  simp only [pairWrites, List.mem_flatMap, List.mem_map, Prod.exists, List.mem_zipIdx_iff_getElem?]
  exact ⟨fun ⟨l, hl, n, k, hk, hx⟩ => ⟨l, hl, k, n, hk, hx.symm⟩, fun ⟨l, hl, k, n, hk, hx⟩ => ⟨l, hl, n, k, hk, hx.symm⟩⟩

theorem pairWrites_apart (hnodup : ls.Nodup) : (pairWrites d v lb ls).Pairwise PairWrite.Apart := by
  refine List.pairwise_flatMap.mpr ⟨fun l _ => ?_, hnodup.imp fun {l m} hne x hx y hy hlane => ?_⟩
  · have hlt : (v l).zipIdx.Pairwise fun x y => x.2 < y.2 := by
      rw [← List.pairwise_map (f := Prod.snd) (R := (· < ·)), List.zipIdx_map_snd]
      exact List.pairwise_lt_range' 
    exact List.pairwise_map.mpr (hlt.imp fun h _ => by dsimp only; omega)
  · obtain ⟨_, _, rfl⟩ := List.mem_map.mp hx
    obtain ⟨_, _, rfl⟩ := List.mem_map.mp hy
    exact absurd hlane hne

/-- What an instruction does that writes the pairs from V[d] on in each participating lane, and names flags: pair `k` of
lane `l` holds element `k` of `v l` under a label for `lb l`. Nothing else of the warp differs, but for FLAGS and FLBL. -/
structure WritesPairs (s t : State) (pc : BitVec 57) (d : Nat) (ls : List Nat) (v : Nat → List Nat) (lb : Nat → Label)
    (f : BitVec 32) : Prop where
  only : OnlyWarp s t
  next : GoesTo s t pc
  entries : KeepsEntries s t
  value : ∀ l ∈ ls, ∀ k n, (v l)[k]? = some n → t.velt true (d + 2 * k) l = n % 2 ^ 64
  label : ∀ l ∈ ls, ∀ k < (v l).length, Stands s t (t.vlane (d + 2 * k) l).lbl (lb l) ∧
    Stands s t (t.vlane (d + 2 * k + 1) l).lbl (lb l)
  others : ∀ r l, l < 32 → ¬(l ∈ ls ∧ d ≤ r ∧ r < d + 2 * (v l).length) → t.vlane r l = s.vlane r l
  flags : t.warp.flags = s.warp.flags ||| f
  flbl : InUse s s.warp.flbl → Stands s t t.warp.flbl (s.label s.warp.flbl ||| joinLabels (ls.map lb))
  rest : t.warp = { s.warp with
    vregs := t.warp.vregs, poisonV := t.warp.poisonV, ltab := t.warp.ltab, coarsen := t.warp.coarsen,
    flags := t.warp.flags, flbl := t.warp.flbl, splits := t.warp.splits }

/-- Pairs written in every lane, flags set, and a completion. -/
theorem writesPairs_setFlags (s : State) (p : Bool) (d : Nat) (v : Nat → List Nat) (lb : Nat → Label) (ls : List Nat)
    (f : BitVec 32) (hls : ∀ l ∈ ls, l < 32) (hnodup : ls.Nodup) :
    WritesPairs s (((putPairs d v lb ls s).setFlags f (joinLabels (ls.map lb))).advance p) (s.nextPc p) d ls v lb f := by
  rw [putPairs_eq, State.setFlags_putPairs]
  have hlanes : ∀ x ∈ pairWrites d v lb ls, x.lane < 32 := fun x hx => by
    obtain ⟨l, hl, _, _, _, rfl⟩ := mem_pairWrites.mp hx
    exact hls l hl
  have hget {l k n : Nat} (hl : l ∈ ls) (hk : (v l)[k]? = some n) := Warp.putPairs_get (w := s.warp) (own := s.owners) hlanes
    (pairWrites_apart hnodup) (mem_pairWrites.mpr ⟨l, hl, k, n, hk, rfl⟩)
  have hother {r l : Nat} (hl : l < 32) (hr : ¬(l ∈ ls ∧ d ≤ r ∧ r < d + 2 * (v l).length)) :=
    Warp.putPairs_other (w := s.warp) (own := s.owners) (xs := pairWrites d v lb ls) hlanes (q := r) (m := l) hl
      fun x hx hlane => by
        obtain ⟨l', hl', k, n, hk, rfl⟩ := mem_pairWrites.mp hx
        obtain rfl : l' = l := hlane
        have hlt := (List.getElem?_eq_some_iff.mp hk).1
        have hrange : ¬(d ≤ r ∧ r < d + 2 * (v l').length) := fun h => hr ⟨hl', h⟩
        dsimp only
        omega
  have hput := s.warp.putPairs_rest s.owners (pairWrites d v lb ls)
  have hkept {i : Nat} {x : Label} (h : s.warp.entry s.owners i = some x) :=
    Warp.putPairs_entries (xs := pairWrites d v lb ls) h
  generalize s.warp.putPairs s.owners (pairWrites d v lb ls) = w at hget hother hput hkept ⊢
  have hrest := w.putFlags_rest s.owners f (joinLabels (ls.map lb))
  obtain ⟨honly, hnext, hwarp⟩ := advance_setWarp (s := s) (w := w.putFlags s.owners f (joinLabels (ls.map lb))) (p := p)
    (by rw [hrest, hput])
  generalize (s.setWarp (w.putFlags s.owners f (joinLabels (ls.map lb)))).advance p = t at honly hnext hwarp ⊢
  have howners : t.owners = s.owners := State.owners_of_only honly (by rw [hwarp, hrest, hput])
  have hvlane (r l : Nat) : t.vlane r l = w.vregs.get VLane.zero (vkey r l) := by rw [State.vlane, hwarp, hrest]
  have hentry {i : Nat} {x : Label} (h : w.entry s.owners i = some x) : t.warp.entry s.owners i = some x := by
    rw [hwarp]
    exact w.putFlags_entries s.owners f _ i x h
  have hlabel {i : LIdx} {x : Label} (h : w.entry s.owners i.toNat = some x) : t.label i = x := by
    rw [State.label, howners]
    exact Warp.label_of_entry (hentry h)
  have hflbl : w.flbl = s.warp.flbl := by rw [hput]
  refine ⟨honly, hnext, fun i x h => hentry (hkept h), fun l hl k n hk => ?_, fun l hl k hk => ?_, fun r l hl hr => ?_, ?_,
    fun huse => ?_, ?_⟩
  · obtain ⟨i, heven, hodd, -, -⟩ := hget hl hk
    rw [State.velt, if_pos rfl, hvlane, hvlane, heven, hodd]
    exact BitVec.pair_value n
  · obtain ⟨i, heven, hodd, hexact, hdom⟩ := hget hl (List.getElem?_eq_getElem hk)
    rw [hvlane, hvlane, heven, hodd, and_self]
    refine ⟨fun h => hlabel (hexact h), fun h => ?_⟩
    obtain ⟨e, he, hedom⟩ := hdom h
    rwa [hlabel he]
  · rw [hvlane, hother hl hr, State.vlane]
  · rw [hwarp, hrest, hput]
  · obtain ⟨x, hx⟩ := Option.isSome_iff_exists.mp huse
    have hbefore : w.label s.owners w.flbl = s.label s.warp.flbl := by
      rw [hflbl, Warp.label_of_entry (hkept hx)]
      exact (Warp.label_of_entry hx).symm
    have hafter : t.label t.warp.flbl = (w.putFlags s.owners f (joinLabels (ls.map lb))).label s.owners
        (w.putFlags s.owners f (joinLabels (ls.map lb))).flbl := by
      rw [State.label_of_warp hwarp howners, hwarp]
    obtain ⟨hexact, hdom⟩ := w.putFlags_flbl s.owners f (joinLabels (ls.map lb))
    rw [hbefore] at hexact hdom
    unfold Stands
    rw [hafter]
    exact ⟨fun ⟨j, hj, h⟩ => hexact ⟨j, hj, hkept h⟩, hdom⟩
  · rw [hwarp]
    dsimp only
    rw [hrest, hput]

/-! ## The modular instructions (06 R124, R125, 07 R144) -/

theorem modulusOk_iff {q mu : Nat} :
    modulusOk q mu = true ↔ q % 2 = 1 ∧ 3 ≤ q ∧ q < 2 ^ 62 ∧ mu = 2 ^ (2 * bitLen q) / q := by
  simp [modulusOk, and_assoc]

/-- The values that a modular instruction writes in a lane, from its operands' values. -/
def modResults (s : State) (b : SNum) (pairs : List Nat) (outs : Nat) (f : Nat → List Nat → List Nat) (l : Nat) : List Nat :=
  let q := (s.sreg b).toNat
  if modulusOk q (s.sreg (b + 1)).toNat then f q ((pairs.map fun r => s.pair r l).map (· % q)) else List.replicate outs 0

/-- The effect of R144: pairs written in each participating lane, and QRNG. -/
theorem writesPairs_modEffect (p : Bool) (d : VNum) (b : SNum) (pairs : List Nat) (outs : Nat)
    (f : Nat → List Nat → List Nat) (s : State) :
    WritesPairs s (modEffect p d b pairs outs f s) (s.nextPc p) d.toNat s.lanes (modResults s b pairs outs f)
      (fun l => s.pcl ||| s.guardLbl ||| s.slbl b ||| s.slbl (b + 1) ||| joinLabels (pairs.map fun r => s.vlbl true r l))
      (flagIf (!modulusOk (s.sreg b).toNat (s.sreg (b + 1)).toNat ||
        s.lanes.any fun l => (pairs.map fun r => s.pair r l).any fun x => (s.sreg b).toNat ≤ x) fQRNG) :=
  writesPairs_setFlags s p d.toNat _ _ s.lanes _ (fun _ h => State.lanes_lt h) s.lanes_nodup

/-- Settles O31: each instruction is the shared effect, with results that agree modulo q with those of its operands. -/
theorem modularInstructionsReduce : Obligations.ModularInstructionsReduce := by
  unfold Obligations.ModularInstructionsReduce
  intro s p d a sb q mu ok pr c gives x y z
  have hok : modulusOk q mu = true ↔ ok := modulusOk_iff
  have hgives {i : Instr} {ins : List Nat} {n : Nat} {f : Nat → List Nat → List Nat} {outs : Nat → List Nat}
      (hexec : exec i s = word i s fun s => .ok (modEffect p d sb ins n f s)) (hlen : ∀ l, (outs l).length = n)
      (hf : ∀ l, f q ((ins.map fun r => pr r l).map (· % q)) = (outs l).map (· % q)) : gives i ins outs := by
    intro hready _
    have hw := writesPairs_modEffect p d sb ins n f s
    have hvals (l : Nat) : modResults s sb ins n f l = if ok then (outs l).map (· % q) else List.replicate n 0 := by
      rw [← hf l, modResults]
      exact if_congr hok rfl rfl
    have hlength (l : Nat) : (modResults s sb ins n f l).length = (outs l).length := by
      rw [hvals]
      split
      · rw [List.length_map]
      · rw [List.length_replicate, hlen]
    have hregs : (modEffect p d sb ins n f s).warp.sregs = s.warp.sregs := by rw [hw.rest]
    refine completes_word hexec hready rfl
      ⟨hw.only, hw.entries, hregs, hw.next, fun l hl k hk => ?_, hw.flbl, fun r l hl hr => ?_, ?_, hw.rest⟩
    · obtain ⟨heven, hodd⟩ := hw.label l hl k (by rwa [hlength])
      refine ⟨fun h => ⟨(outs l)[k], List.getElem?_eq_getElem hk, ?_⟩, fun h => ?_, heven, hodd⟩
      · have hv : (modResults s sb ins n f l)[k]? = some ((outs l)[k] % q) := by
          rw [hvals, if_pos h, List.getElem?_map, List.getElem?_eq_getElem hk]
          rfl
        obtain ⟨-, hq, hlt, -⟩ := h
        have hbound : (outs l)[k] % q < 2 ^ 64 :=
          ((Nat.mod_lt _ (Nat.zero_lt_of_lt hq)).trans hlt).trans (Nat.pow_lt_pow_right Nat.one_lt_two (by decide))
        rw [hw.value l hl k _ hv, Nat.mod_eq_of_lt hbound]
      · have hv : (modResults s sb ins n f l)[k]? = some 0 := by
          rw [hvals, if_neg h, List.getElem?_replicate, if_pos (by rwa [← hlen l])]
        rw [hw.value l hl k _ hv]
        rfl
    · exact hw.others r l hl (by rwa [hlength])
    · refine hw.flags.trans (congrArg (s.warp.flags ||| ·) (if_congr ?_ rfl rfl))
      rw [Bool.or_eq_true, Bool.not_eq_true', ← Bool.not_eq_true, hok]
      simp [pr, q, State.pair]
  refine ⟨?vqadd, ?vqsub, ?vqmul, ?vqbfly, ?vqbflyi⟩
  case vqadd => exact hgives (exec_vqadd ..) (fun _ => rfl) fun l => by simp [x, y, pr]
  case vqsub => exact hgives (exec_vqsub ..) (fun _ => rfl) fun l => by simp [x, y, pr]
  case vqmul => exact hgives (exec_vqmul ..) (fun _ => rfl) fun l => by simp [x, y, pr]
  case vqbfly => exact hgives (exec_vqbfly ..) (fun _ => rfl) fun l => by simp [x, y, z, pr, Nat.add_mod, Nat.mul_mod]
  case vqbflyi => exact hgives (exec_vqbflyi ..) (fun _ => rfl) fun l => by simp [x, y, z, pr]

end Sys2Proof.Machine

end

section

namespace Sys2Proof.Machine

/-! ## The four formats (06 R120) -/

/-- What the proofs use of a format's parameters. -/
structure Fmt.Sound (f : Fmt) : Prop where
  frac : 3 ≤ f.m
  frac_le : f.m ≤ 52
  exp : 5 ≤ f.eb
  frac_le_bias : f.m ≤ f.bias
  bias_le : f.bias ≤ 1023

theorem Fmt.of_sound (t : ETy) : (Fmt.of t).Sound := by
  cases t <;> exact ⟨by decide, by decide, by decide, by decide, by decide⟩

theorem ETy.width_of_float {t : ETy} (h : t.float = true) : t.width = (Fmt.of t).eb + (Fmt.of t).m + 1 := by
  revert h
  cases t <;> decide

variable {f : Fmt}

theorem Fmt.two_pow_eb (h : 0 < f.eb) : 2 ^ f.eb = 2 * f.bias + 2 := by
  obtain ⟨k, hk⟩ := Nat.exists_eq_add_of_lt h
  have hpos := Nat.two_pow_pos k
  have hpow : 2 ^ f.eb = 2 * 2 ^ k := by rw [hk]; ring
  have hbias : f.bias = 2 ^ k - 1 := by rw [Fmt.bias, hk]; simp
  omega

theorem Fmt.infBits_eq (h : 0 < f.eb) : f.infBits = (2 * f.bias + 1) * 2 ^ f.m := by
  rw [Fmt.infBits, Fmt.two_pow_eb h]
  rfl

/-! ## Magnitudes by their index -/

/-- A magnitude's index is `E` binades of significands and a significand `k`, which is normal above the first. -/
theorem exists_index (f : Fmt) (n : Nat) :
    ∃ E k, n = E * 2 ^ f.m + k ∧ k < 2 ^ (f.m + 1) ∧ (E = 0 ∨ 2 ^ f.m ≤ k) := by
  have hdiv := Nat.div_add_mod n (2 ^ f.m)
  have hmod := Nat.mod_lt n (Nat.two_pow_pos f.m)
  have hpow : 2 ^ (f.m + 1) = 2 * 2 ^ f.m := pow_succ' ..
  cases hq : n / 2 ^ f.m with
  | zero =>
    rw [hq] at hdiv
    exact ⟨0, n, by omega, by omega, .inl rfl⟩
  | succ E =>
    rw [hq] at hdiv
    refine ⟨E, 2 ^ f.m + n % 2 ^ f.m, ?_, by omega, .inr (by omega)⟩
    rw [← add_assoc, ← Nat.succ_mul, mul_comm]
    exact hdiv.symm

theorem magOf_subnormal {r : Nat} (hr : r < 2 ^ f.m) : magOf f r = r * (2 : ℚ) ^ (f.emin - f.m) := by
  rw [magOf, Nat.div_eq_of_lt hr, Nat.mod_eq_of_lt hr, if_pos rfl, zpow_sub₀ two_ne_zero, zpow_natCast]
  ring

theorem magOf_normal {E r : Nat} (hr : r < 2 ^ f.m) :
    magOf f ((E + 1) * 2 ^ f.m + r) = (2 ^ f.m + r : ℚ) * 2 ^ (f.emin - f.m + E) := by
  have hdiv : ((E + 1) * 2 ^ f.m + r) / 2 ^ f.m = E + 1 := by
    rw [add_comm, Nat.add_mul_div_right _ _ (Nat.two_pow_pos _), Nat.div_eq_of_lt hr, zero_add]
  have hmod : ((E + 1) * 2 ^ f.m + r) % 2 ^ f.m = r := by
    rw [add_comm, Nat.add_mul_mod_self_right, Nat.mod_eq_of_lt hr]
  have hexp : ((E + 1 : Nat) : Int) - f.bias = f.emin - f.m + E + f.m := by rw [Fmt.emin]; push_cast; ring
  rw [magOf, hdiv, hmod, if_neg E.succ_ne_zero, hexp, zpow_add₀ two_ne_zero _ (f.m : Int), zpow_natCast]
  field_simp

/-- The magnitude of an index is its significand at its binade's last place. -/
theorem magOf_index {E k : Nat} (hk : k ≤ 2 ^ (f.m + 1)) (hE : E = 0 ∨ 2 ^ f.m ≤ k) :
    magOf f (E * 2 ^ f.m + k) = k * (2 : ℚ) ^ (f.emin - f.m + E) := by
  have hpow : 2 ^ (f.m + 1) = 2 ^ f.m + 2 ^ f.m := by rw [pow_succ]; ring
  rcases Nat.lt_or_ge k (2 ^ f.m) with hlt | hge
  · obtain rfl : E = 0 := hE.resolve_right (by omega)
    rw [zero_mul, zero_add, magOf_subnormal hlt, Nat.cast_zero, add_zero]
  · obtain ⟨r, rfl⟩ := Nat.exists_eq_add_of_le hge
    rcases Nat.lt_or_ge r (2 ^ f.m) with hlt | hge'
    · rw [← add_assoc, ← Nat.succ_mul, magOf_normal hlt]
      push_cast
      rfl
    · obtain rfl : r = 2 ^ f.m := by omega
      have hidx : E * 2 ^ f.m + (2 ^ f.m + 2 ^ f.m) = (E + 1 + 1) * 2 ^ f.m + 0 := by ring
      rw [hidx, magOf_normal (Nat.two_pow_pos _)]
      push_cast
      rw [← add_assoc (f.emin - f.m : Int), zpow_add_one₀ two_ne_zero]
      ring

theorem magOf_zero (f : Fmt) : magOf f 0 = 0 := by
  rw [magOf_subnormal (Nat.two_pow_pos _), Nat.cast_zero, zero_mul]

/-- From one magnitude to the next is one unit in the last place. -/
theorem magOf_succ {E k : Nat} (hk : k < 2 ^ (f.m + 1)) (hE : E = 0 ∨ 2 ^ f.m ≤ k) :
    magOf f (E * 2 ^ f.m + k + 1) = magOf f (E * 2 ^ f.m + k) + (2 : ℚ) ^ (f.emin - f.m + E) := by
  rw [add_assoc, magOf_index hk (hE.imp_right (Nat.le_succ_of_le ·)), magOf_index hk.le hE]
  push_cast
  ring

theorem magOf_strictMono (f : Fmt) : StrictMono (magOf f) := by
  refine strictMono_nat_of_lt_succ fun n => ?_
  obtain ⟨E, k, rfl, hk, hE⟩ := exists_index f n
  rw [magOf_succ hk hE]
  exact lt_add_of_pos_right _ (by positivity)

theorem magOf_nonneg (f : Fmt) (n : Nat) : 0 ≤ magOf f n :=
  (magOf_zero f).ge.trans ((magOf_strictMono f).monotone n.zero_le)

theorem magOf_infBits (hf : f.Sound) : magOf f f.infBits = 2 ^ (f.bias + 1) := by
  have heb := hf.exp
  have hidx : f.infBits = (2 * f.bias) * 2 ^ f.m + 2 ^ f.m := by rw [Fmt.infBits_eq (by omega)]; ring
  have hexp : f.emin - f.m + ((2 * f.bias : Nat) : Int) = ((f.bias + 1 : Nat) : Int) - (f.m : Nat) := by
    rw [Fmt.emin]; push_cast; ring
  rw [hidx, magOf_index (Nat.pow_le_pow_right (by decide) (by omega)) (.inr le_rfl), hexp, zpow_sub₀ two_ne_zero,
    zpow_natCast, zpow_natCast]
  push_cast
  field_simp

/-! ## The datum of a pattern (06 R120) -/

theorem pattern_exponent (f : Fmt) (n : Nat) : n / 2 ^ f.m % 2 ^ f.eb = n % 2 ^ (f.eb + f.m) / 2 ^ f.m := by
  rw [add_comm, pow_add, Nat.mod_mul_right_div_self]

theorem pattern_fraction (f : Fmt) (n : Nat) : n % 2 ^ (f.eb + f.m) % 2 ^ f.m = n % 2 ^ f.m :=
  Nat.mod_mod_of_dvd n (pow_dvd_pow 2 (Nat.le_add_left ..))

/-- The exponent field is all ones from the pattern of an infinity on. -/
theorem exponent_eq_ones_iff (f : Fmt) (n : Nat) :
    n / 2 ^ f.m % 2 ^ f.eb = 2 ^ f.eb - 1 ↔ f.infBits ≤ n % 2 ^ (f.eb + f.m) := by
  have hlt : n / 2 ^ f.m % 2 ^ f.eb < 2 ^ f.eb := Nat.mod_lt _ (Nat.two_pow_pos _)
  rw [Fmt.infBits, ← Nat.le_div_iff_mul_le (Nat.two_pow_pos _), ← pattern_exponent]
  omega

/-- Of such a pattern the fraction is what exceeds that of an infinity. -/
theorem fraction_of_infBits_le {n : Nat} (h : f.infBits ≤ n % 2 ^ (f.eb + f.m)) :
    n % 2 ^ (f.eb + f.m) = f.infBits + n % 2 ^ f.m := by
  have hdiv := Nat.div_add_mod (n % 2 ^ (f.eb + f.m)) (2 ^ f.m)
  rw [← pattern_exponent, (exponent_eq_ones_iff f n).mpr h, pattern_fraction] at hdiv
  rw [Fmt.infBits, ← hdiv, mul_comm]

theorem decodeF_inf {n : Nat} (h : n % 2 ^ (f.eb + f.m) = f.infBits) : decodeF f n = .inf (signOf f n) := by
  have hr := fraction_of_infBits_le h.ge
  rw [decodeF, if_pos ((exponent_eq_ones_iff f n).mpr h.ge), if_pos (by omega)]

theorem decodeF_nan {n : Nat} (h : f.infBits < n % 2 ^ (f.eb + f.m)) :
    decodeF f n = .nan (decide (n % 2 ^ f.m < 2 ^ (f.m - 1))) := by
  have hr := fraction_of_infBits_le h.le
  rw [decodeF, if_pos ((exponent_eq_ones_iff f n).mpr h.le), if_neg (by omega)]
  refine congrArg FVal.nan (Bool.eq_iff_iff.mpr ?_)
  rw [beq_iff_eq, decide_eq_true_eq, Nat.div_eq_zero_iff]
  have := Nat.two_pow_pos (f.m - 1)
  omega

/-- A finite pattern is a significand at an exponent of the format. -/
theorem decodeF_fin {n : Nat} (h : n % 2 ^ (f.eb + f.m) < f.infBits) :
    ∃ E k, decodeF f n = .fin (signOf f n) k (f.emin - f.m + (E : Nat)) ∧ n % 2 ^ (f.eb + f.m) = E * 2 ^ f.m + k ∧
      k < 2 ^ (f.m + 1) ∧ (E = 0 ∨ 2 ^ f.m ≤ k) := by
  have hdiv := Nat.div_add_mod (n % 2 ^ (f.eb + f.m)) (2 ^ f.m)
  have hmod := Nat.mod_lt n (Nat.two_pow_pos f.m)
  have hpow : 2 ^ (f.m + 1) = 2 * 2 ^ f.m := pow_succ' ..
  rw [← pattern_exponent, pattern_fraction] at hdiv
  rw [decodeF, if_neg fun he => absurd ((exponent_eq_ones_iff f n).mp he) h.not_ge]
  cases he : n / 2 ^ f.m % 2 ^ f.eb with
  | zero =>
    rw [he] at hdiv
    rw [if_pos rfl]
    exact ⟨0, n % 2 ^ f.m, by rw [Nat.cast_zero, add_zero], by omega, by omega, .inl rfl⟩
  | succ E =>
    rw [he] at hdiv
    rw [if_neg E.succ_ne_zero]
    refine ⟨E, 2 ^ f.m + n % 2 ^ f.m, rfl, ?_, by omega, .inr (by omega)⟩
    rw [← add_assoc, ← Nat.succ_mul, mul_comm]
    exact hdiv.symm

theorem numOf_fin (neg : Bool) (m : Nat) (e : Int) : numOf (.fin neg m e) = (if neg then -1 else 1) * (m * (2 : ℚ) ^ e) :=
  mul_assoc ..

theorem abs_numOf_fin (neg : Bool) (m : Nat) (e : Int) : |numOf (.fin neg m e)| = m * (2 : ℚ) ^ e := by
  have hpos : (0 : ℚ) ≤ m * 2 ^ e := by positivity
  rw [numOf_fin]
  cases neg <;> simp [abs_of_nonneg hpos]

theorem numOf_fin_eq_zero {neg : Bool} {m : Nat} {e : Int} : numOf (.fin neg m e) = 0 ↔ m = 0 := by
  rw [← abs_eq_zero, abs_numOf_fin]
  simp [zpow_ne_zero]

/-- The magnitude of a finite datum is that of its pattern without the sign. -/
theorem numOf_decodeF {n : Nat} (h : n % 2 ^ (f.eb + f.m) < f.infBits) :
    numOf (decodeF f n) = (if signOf f n then -1 else 1) * magOf f (n % 2 ^ (f.eb + f.m)) := by
  obtain ⟨E, k, hv, hn, hk, hE⟩ := decodeF_fin h
  rw [hv, hn, numOf_fin, magOf_index hk.le hE]

theorem signOf_eq {n : Nat} (h : n < 2 ^ (f.eb + f.m + 1)) : signOf f n = decide (2 ^ (f.eb + f.m) ≤ n) := by
  have hpow : 2 ^ (f.eb + f.m + 1) = 2 ^ (f.eb + f.m) + 2 ^ (f.eb + f.m) := by ring
  rcases Nat.lt_or_ge n (2 ^ (f.eb + f.m)) with hlt | hge
  · rw [signOf, Nat.div_eq_of_lt hlt, decide_eq_false hlt.not_ge]
    rfl
  · rw [signOf, Nat.div_eq_of_lt_le (k := 1) (by omega) (by omega), decide_eq_true hge]
    rfl

/-- 06 R120: infinities, NaNs and numbers, with their sign and magnitude. -/
theorem readsPattern {n : Nat} (h : n < 2 ^ (f.eb + f.m + 1)) : ReadsPattern f n := by
  refine ⟨fun hinf => ?_, fun hnan => decodeF_nan hnan, fun hfin => ?_⟩
  · rw [decodeF_inf hinf, signOf_eq h]
  · obtain ⟨E, k, hv, hn, hk, hE⟩ := decodeF_fin hfin
    rw [hv, abs_numOf_fin, hn, magOf_index hk.le hE]
    exact ⟨rfl, signOf_eq h, rfl⟩

/-- The datum of a pattern with its sign bit inverted. -/
theorem decodeF_flip {n : Nat} (h : n < 2 ^ (f.eb + f.m + 1)) :
    decodeF f (if n < 2 ^ (f.eb + f.m) then n + 2 ^ (f.eb + f.m) else n - 2 ^ (f.eb + f.m)) = (decodeF f n).negate := by
  have hpow : 2 ^ (f.eb + f.m + 1) = 2 ^ (f.eb + f.m) * 2 := pow_succ ..
  set k := if n < 2 ^ (f.eb + f.m) then n + 2 ^ (f.eb + f.m) else n - 2 ^ (f.eb + f.m) with hk
  have hmod : k % 2 ^ (f.eb + f.m) = n % 2 ^ (f.eb + f.m) := by
    rw [hk]
    split
    · rw [Nat.add_mod_right]
    · exact (Nat.mod_eq_sub_mod (by omega)).symm
  have hsign : signOf f k = !signOf f n := by
    rw [signOf_eq h, signOf_eq (by split at hk <;> omega), ← decide_not]
    refine decide_eq_decide.mpr ?_
    split at hk <;> omega
  have hexp : k / 2 ^ f.m % 2 ^ f.eb = n / 2 ^ f.m % 2 ^ f.eb := by rw [pattern_exponent, pattern_exponent, hmod]
  have hfrac : k % 2 ^ f.m = n % 2 ^ f.m := by rw [← pattern_fraction, hmod, pattern_fraction]
  unfold decodeF
  rw [hexp, hfrac, hsign]
  dsimp only
  split
  · split <;> rfl
  · split <;> rfl

end Sys2Proof.Machine

end

section

namespace Sys2Proof.Machine

/-! ## One rounding (06 R121, R122) -/

/-- A number rounded to one of its neighbours is not left of a lower bound that is an integer. -/
theorem le_of_chooses {rnd : Nat} {neg : Bool} {y : ℝ} {k a : Nat} (h : Chooses rnd neg y k) (ha : (a : ℝ) ≤ y) : a ≤ k := by
  have hlt : (a : ℝ) < (k + 1 : Nat) := by
    push_cast
    linarith [(abs_lt.mp h.1).2]
  exact Nat.le_of_lt_succ (Nat.cast_lt.mp hlt)

/-- Nor is it right of an upper bound that is an integer. -/
theorem ge_of_chooses {rnd : Nat} {neg : Bool} {y : ℝ} {k a : Nat} (h : Chooses rnd neg y k) (ha : y ≤ a) : k ≤ a := by
  have hlt : (k : ℝ) < (a + 1 : Nat) := by
    push_cast
    linarith [(abs_lt.mp h.1).1]
  exact Nat.le_of_lt_succ (Nat.cast_lt.mp hlt)

/-- An integer is rounded to itself. -/
theorem chooses_natCast (rnd : Nat) (neg : Bool) (k : Nat) : Chooses rnd neg k k := by
  simp [Chooses]

/-- Of a number between `k` and `k + 1` a mode chooses the upper one by this rule. -/
def roundsUp (rnd : Nat) (neg : Bool) (x : ℝ) (k : Nat) : Prop :=
  match rnd with
  | 0 => 1 / 2 < x ∨ (x = 1 / 2 ∧ k % 2 = 1)
  | 1 => False
  | 2 => x ≠ 0 ∧ neg = false
  | 3 => x ≠ 0 ∧ neg = true
  | _ => 1 / 2 ≤ x

/-- The rule chooses. -/
theorem chooses_of_roundsUp {rnd : Nat} {neg : Bool} {x : ℝ} {k : Nat} {up : Bool} (hrnd : rnd ≤ 4) (h0 : 0 ≤ x) (h1 : x < 1)
    (hup : up = true ↔ roundsUp rnd neg x k) :
    Chooses rnd neg (k + x) (if up then k + 1 else k) ∧ (((if up then k + 1 else k : Nat) : ℝ) ≠ k + x ↔ x ≠ 0) := by
  cases up with
  | false =>
    have hx : |(k : ℝ) + x - k| = x := by rw [add_sub_cancel_left, abs_of_nonneg h0]
    have hnot : ¬roundsUp rnd neg x k := fun h => absurd (hup.mpr h) Bool.false_ne_true
    refine ⟨⟨by simpa only [Bool.false_eq_true, if_false, hx] using h1, ?_⟩, by simp⟩
    rcases h0.eq_or_lt with rfl | hpos
    · exact .inl (by simp)
    · right
      simp only [Bool.false_eq_true, if_false, hx]
      interval_cases rnd
      · simp only [roundsUp, not_or, not_lt, not_and, Nat.mod_two_ne_one] at hnot ⊢
        exact hnot.1.lt_or_eq.imp_right fun h => ⟨h, hnot.2 h⟩
      · simpa using hpos
      · have hneg : neg = true := by simpa [roundsUp, hpos.ne'] using hnot
        simpa [hneg] using hpos
      · have hneg : neg = false := by simpa [roundsUp, hpos.ne'] using hnot
        simpa [hneg] using hpos
      · exact .inl (not_le.mp hnot)
  | true =>
    have hyes : roundsUp rnd neg x k := hup.mp rfl
    have hpos : 0 < x := h0.lt_of_ne fun h => by
      subst h
      interval_cases rnd <;> norm_num [roundsUp] at hyes
    have hx : |(k : ℝ) + x - (k + 1 : Nat)| = 1 - x := by
      rw [abs_sub_comm, abs_of_nonneg] <;> push_cast <;> linarith
    have hne : ((k + 1 : Nat) : ℝ) ≠ k + x := by push_cast; linarith
    have hgt : (k : ℝ) + x < (k + 1 : Nat) := by push_cast; linarith
    refine ⟨⟨by simpa only [if_true, hx] using sub_lt_self 1 hpos, .inr ?_⟩, by simpa only [if_true] using iff_of_true hne hpos.ne'⟩
    simp only [if_true, hx]
    interval_cases rnd
    · rcases hyes with hlt | ⟨rfl, hodd⟩
      · exact .inl (by linarith)
      · exact .inr ⟨by norm_num, by omega⟩
    · exact hyes.elim
    · simpa [hyes.2] using hgt
    · simpa [hyes.2] using hgt
    · rcases (show (1 : ℝ) / 2 ≤ x from hyes).lt_or_eq with hlt | rfl
      · exact .inl (by linarith)
      · exact .inr ⟨by norm_num, hgt⟩

/-- A part below the last bit is marked exactly where there is one. -/
structure Sticky (sticky : Bool) (x : ℝ) : Prop where
  nonneg : 0 ≤ x
  lt_one : x < 1
  marks : sticky = true ↔ x ≠ 0

theorem sticky_false : Sticky false 0 := ⟨le_rfl, one_pos, by simp⟩

theorem roundShift_chooses {rnd : Nat} {neg sticky : Bool} {m sh : Nat} {x : ℝ} (hrnd : rnd ≤ 4) (hx : Sticky sticky x)
    (hsh : sticky = true → 0 < sh) :
    Chooses rnd neg ((m + x) / 2 ^ sh) (roundShift rnd neg m sh sticky).1 ∧
      ((roundShift rnd neg m sh sticky).2 = true ↔ ((roundShift rnd neg m sh sticky).1 : ℝ) ≠ (m + x) / 2 ^ sh) := by
  obtain ⟨h0, h1, hmark⟩ := hx
  have hpow : (0 : ℝ) < 2 ^ sh := by positivity
  have hdiv : (m : ℝ) = (2 ^ sh * (m / 2 ^ sh) + m % 2 ^ sh : Nat) := by rw [Nat.div_add_mod]
  have hr : m % 2 ^ sh + 1 ≤ 2 ^ sh := Nat.mod_lt _ (Nat.two_pow_pos sh)
  have hrR : ((m % 2 ^ sh : Nat) : ℝ) + 1 ≤ 2 ^ sh := by exact_mod_cast hr
  set k := m / 2 ^ sh
  set r := m % 2 ^ sh
  set z : ℝ := (r + x) / 2 ^ sh with hz
  have hy : (m + x) / 2 ^ sh = k + z := by rw [hdiv, hz]; push_cast; field_simp; ring
  have hz0 : 0 ≤ z := by positivity
  have hz1 : z < 1 := by rw [hz, div_lt_one hpow]; linarith
  have hinexact : (r ≠ 0 || sticky) = true ↔ z ≠ 0 := by
    rw [Bool.or_eq_true, decide_eq_true_eq, hmark, hz, Ne, Ne, Ne, div_eq_zero_iff, or_iff_left hpow.ne',
      add_eq_zero_iff_of_nonneg (Nat.cast_nonneg r) h0, Nat.cast_eq_zero]
    tauto
  have hhalf : (sticky = true → ∃ h, 2 ^ sh = 2 * h) := fun h => ⟨2 ^ (sh - 1), by
    rw [← pow_succ', Nat.sub_add_cancel (hsh h)]⟩
  have hlt (h : 2 * r < 2 ^ sh) : z < 1 / 2 := by
    rw [hz, div_lt_div_iff₀ hpow two_pos]
    cases hs : sticky with
    | false =>
      have hx0 : x = 0 := by simpa [hs] using hmark
      have : (2 * r : ℝ) < 2 ^ sh := by exact_mod_cast h
      rw [hx0]; linarith
    | true =>
      obtain ⟨w, hw⟩ := hhalf hs
      have hw' : r + 1 ≤ w := by omega
      have hwR : (r : ℝ) + 1 ≤ w := by exact_mod_cast hw'
      have hpw : (2 : ℝ) ^ sh = 2 * w := by exact_mod_cast hw
      rw [hpw]; linarith
  have hgt (h : 2 ^ sh < 2 * r) : 1 / 2 < z := by
    have : (2 : ℝ) ^ sh < 2 * r := by exact_mod_cast h
    rw [hz, div_lt_div_iff₀ two_pos hpow]
    linarith
  have heq (h : 2 * r = 2 ^ sh) : z = 1 / 2 + x / 2 ^ sh := by
    have hcast : (2 : ℝ) * r = 2 ^ sh := by exact_mod_cast h
    have hquot : (r : ℝ) / 2 ^ sh = 1 / 2 := by
      rw [div_eq_div_iff hpow.ne' two_ne_zero]
      linarith
    rw [hz, add_div, hquot]
  have habove : (decide (2 ^ sh < 2 * r) || (decide (2 * r = 2 ^ sh) && sticky)) = true ↔ 1 / 2 < z := by
    rcases Nat.lt_trichotomy (2 * r) (2 ^ sh) with h | h | h
    · simpa [h.not_gt, h.ne] using (hlt h).le
    · simp [h, heq h, hmark, h0.lt_iff_ne', hpow]
    · simpa [h] using hgt h
  have htie : (decide (2 * r = 2 ^ sh) && !sticky) = true ↔ z = 1 / 2 := by
    rcases Nat.lt_trichotomy (2 * r) (2 ^ sh) with h | h | h
    · simpa [h.ne] using (hlt h).ne
    · simp only [h, heq h, decide_true, Bool.true_and, Bool.not_eq_true', ← Bool.not_eq_true, hmark, not_not,
        add_eq_left, div_eq_zero_iff, hpow.ne', or_false]
    · simpa [h.ne'] using (hgt h).ne'
  have hchosen {up : Bool} (hup : up = true ↔ roundsUp rnd neg z k) :
      Chooses rnd neg (k + z) (if up then k + 1 else k) ∧
        ((r ≠ 0 || sticky) = true ↔ ((if up then k + 1 else k : Nat) : ℝ) ≠ k + z) := by
    obtain ⟨hchooses, hne⟩ := chooses_of_roundsUp hrnd hz0 hz1 hup
    exact ⟨hchooses, hinexact.trans hne.symm⟩
  rw [hy]
  unfold roundShift
  refine hchosen ?_
  have hnearer : 1 / 2 < z ∨ z = 1 / 2 ↔ 1 / 2 ≤ z := by rw [le_iff_lt_or_eq, eq_comm (a := z)]
  interval_cases rnd
  · exact Bool.or_eq_true_iff.trans (or_congr habove (Bool.and_eq_true_iff.trans (and_congr htie decide_eq_true_iff)))
  · exact iff_of_false Bool.false_ne_true id
  · exact Bool.and_eq_true_iff.trans (and_congr hinexact (Iff.of_eq (Bool.not_eq_true' neg)))
  · exact Bool.and_eq_true_iff.trans (and_congr hinexact Iff.rfl)
  · exact Bool.or_eq_true_iff.trans ((or_congr habove htie).trans hnearer)

theorem roundAt_chooses {rnd : Nat} {neg sticky : Bool} {m : Nat} {e q : Int} {x : ℝ} (hrnd : rnd ≤ 4) (hx : Sticky sticky x)
    (hq : sticky = true → e < q) :
    Chooses rnd neg ((m + x) * 2 ^ e / 2 ^ q) (roundAt rnd neg m e q sticky).1 ∧
      ((roundAt rnd neg m e q sticky).2 = true ↔
        ((roundAt rnd neg m e q sticky).1 : ℝ) ≠ (m + x) * 2 ^ e / 2 ^ q) := by
  rw [mul_div_assoc, ← zpow_sub₀ two_ne_zero]
  unfold roundAt
  split
  · rename_i hle
    have hs : sticky = false := by
      cases sticky with
      | false => rfl
      | true => exact absurd (hq rfl) hle.not_gt
    have hx0 : x = 0 := by simpa [hs] using hx.marks
    have hval : ((m : ℝ) + x) * 2 ^ (e - q) = ((m * 2 ^ (e - q).toNat : Nat) : ℝ) := by
      rw [hx0, add_zero, Nat.cast_mul, Nat.cast_pow, Nat.cast_ofNat, ← zpow_natCast, Int.toNat_of_nonneg (by omega)]
    rw [hval]
    exact ⟨chooses_natCast .., by simp [hs]⟩
  · rename_i hlt
    have hval : ((m : ℝ) + x) * 2 ^ (e - q) = (m + x) / 2 ^ (q - e).toNat := by
      rw [div_eq_mul_inv, ← zpow_natCast, Int.toNat_of_nonneg (by omega), ← zpow_neg, neg_sub]
    rw [hval]
    exact roundShift_chooses hrnd hx fun _ => by omega

theorem overflow_eq {rnd : Nat} (f : Fmt) (neg : Bool) (hrnd : rnd ≤ 4) :
    overflow f rnd neg = (f.signed neg (if rnd = 1 ∨ (rnd = 2 ∧ neg = true) ∨ (rnd = 3 ∧ neg = false) then f.infBits - 1
      else f.infBits), fOVF ||| fINX) := by
  interval_cases rnd <;> cases neg <;> rfl

/-- The binade of a significand with a part below its last bit. -/
theorem significand_bounds {m : Nat} {x : ℝ} (hm : m ≠ 0) (h0 : 0 ≤ x) (h1 : x < 1) (e : Int) :
    (2 : ℝ) ^ ((m.log2 : Int) + e) ≤ (m + x) * 2 ^ e ∧ (m + x) * 2 ^ e < (2 : ℝ) ^ ((m.log2 : Int) + e + 1) := by
  have hlow : ((2 ^ m.log2 : Nat) : ℝ) ≤ m := Nat.cast_le.mpr (Nat.log2_self_le hm)
  have hhigh : ((m + 1 : Nat) : ℝ) ≤ (2 ^ (m.log2 + 1) : Nat) := Nat.cast_le.mpr Nat.lt_log2_self
  push_cast at hlow hhigh
  have hpow : (0 : ℝ) < 2 ^ e := by positivity
  rw [show (m.log2 : Int) + e + 1 = ((m.log2 + 1 : Nat) : Int) + e by push_cast; ring, zpow_add₀ two_ne_zero,
    zpow_add₀ two_ne_zero, zpow_natCast, zpow_natCast]
  exact ⟨mul_le_mul_of_nonneg_right (by linarith) hpow.le, mul_lt_mul_of_pos_right (by linarith) hpow⟩

theorem two_zpow_sub_natCast (e : Int) (n : Nat) : (2 : ℝ) ^ (e - n) * ((2 ^ n : Nat) : ℝ) = 2 ^ e := by
  rw [Nat.cast_pow, Nat.cast_ofNat, ← zpow_natCast, ← zpow_add₀ two_ne_zero, sub_add_cancel]

/-- The pattern of a magnitude in the binade from 2^`lg` on, from its significand in units of the last place: its value, and
that it is one beyond the format where the value is. -/
theorem roundedIndex {f : Fmt} (hf : f.Sound) {lg : Int} {k : Nat} (hk : k ≤ 2 ^ (f.m + 1))
    (hnorm : f.emin ≤ lg → 2 ^ f.m ≤ k) :
    let q := max lg f.emin - f.m
    let n := (q - (f.emin - f.m)).toNat * 2 ^ f.m + k
    (magOf f n : ℝ) = k * 2 ^ q ∧ (f.infBits ≤ n ↔ (2 : ℝ) ^ (f.bias + 1) ≤ k * 2 ^ q) := by
  intro q n
  have hmag : (magOf f n : ℝ) = k * 2 ^ q := by
    have hE : (q - (f.emin - f.m)).toNat = 0 ∨ 2 ^ f.m ≤ k := by
      rcases lt_or_ge lg f.emin with h | h
      · exact .inl (by omega)
      · exact .inr (hnorm h)
    have hexp : f.emin - f.m + ((q - (f.emin - f.m)).toNat : Int) = q := by omega
    rw [magOf_index hk hE, hexp]
    push_cast
    rfl
  refine ⟨hmag, ?_⟩
  rw [← hmag, ← (magOf_strictMono f).le_iff_le, magOf_infBits hf]
  exact_mod_cast Iff.rfl

section

variable {f : Fmt} {rnd k u : Nat} {neg : Bool} {lg : Int} {y : ℝ}

/-- A number of the binade from 2^`lg` on is rounded to a significand of the format. -/
theorem significand_of_chooses (hlow : 2 ^ lg ≤ y) (hhigh : y < 2 ^ (lg + 1))
    (hu : Chooses rnd neg (y / 2 ^ (lg - (f.m : Int))) u) : 2 ^ f.m ≤ u ∧ u ≤ 2 ^ (f.m + 1) := by
  have hunit : (0 : ℝ) < 2 ^ (lg - (f.m : Int)) := by positivity
  constructor
  · refine le_of_chooses hu ?_
    rw [le_div_iff₀ hunit, mul_comm, two_zpow_sub_natCast]
    exact hlow
  · refine ge_of_chooses hu ?_
    rw [div_le_iff₀ hunit, pow_succ, Nat.cast_mul, mul_right_comm, mul_comm _ ((2 : ℝ) ^ (lg - f.m)),
      two_zpow_sub_natCast, Nat.cast_ofNat, ← zpow_add_one₀ two_ne_zero]
    exact hhigh.le

/-- Below the normal numbers it is rounded to a fraction, or to the least normal number. -/
theorem fraction_of_chooses (hhigh : y < 2 ^ (lg + 1)) (h : lg < f.emin)
    (hk : Chooses rnd neg (y / 2 ^ (f.emin - (f.m : Int))) k) : k ≤ 2 ^ f.m := by
  refine ge_of_chooses hk ?_
  rw [div_le_iff₀ (by positivity), mul_comm _ ((2 : ℝ) ^ _), two_zpow_sub_natCast]
  exact hhigh.le.trans (zpow_le_zpow_right₀ one_le_two (by omega))

theorem significand_mul_le (hu : u ≤ 2 ^ (f.m + 1)) : (u : ℝ) * 2 ^ (lg - (f.m : Int)) ≤ 2 ^ (lg + 1) :=
  calc (u : ℝ) * 2 ^ (lg - f.m) ≤ (2 ^ (f.m + 1) : Nat) * 2 ^ (lg - f.m) :=
        mul_le_mul_of_nonneg_right (Nat.cast_le.mpr hu) (by positivity)
    _ = 2 ^ (lg + 1) := by
      rw [mul_comm, ← two_zpow_sub_natCast (lg + 1) (f.m + 1)]
      push_cast
      ring_nf

/-- The test of tininess is that the number rounded with an unbounded exponent is below the normal numbers (06 R121). -/
theorem tiny_iff (hlow : 2 ^ f.m ≤ u) (hhigh : u ≤ 2 ^ (f.m + 1)) :
    (decide (lg < f.emin) && !(decide (lg = f.emin - 1) && decide (u = 2 ^ (f.m + 1)))) = true ↔
      u * (2 : ℝ) ^ (lg - (f.m : Int)) < 2 ^ f.emin := by
  have hunit : (0 : ℝ) < 2 ^ (lg - (f.m : Int)) := by positivity
  rcases lt_or_ge lg f.emin with h | h
  · rw [decide_eq_true h, Bool.true_and, Bool.not_eq_true', ← Bool.not_eq_true, Bool.and_eq_true, decide_eq_true_eq,
      decide_eq_true_eq, not_and]
    rcases eq_or_ne lg (f.emin - 1) with heq | hne
    · rw [show f.emin = lg + 1 by omega, ← two_zpow_sub_natCast (lg + 1) (f.m + 1), mul_comm (u : ℝ),
        show lg + 1 - ((f.m + 1 : Nat) : Int) = lg - f.m by push_cast; ring, mul_lt_mul_iff_right₀ hunit, Nat.cast_lt]
      omega
    · exact iff_of_true (fun h => absurd h hne)
        ((significand_mul_le hhigh).trans_lt (zpow_lt_zpow_right₀ one_lt_two (by omega)))
  · rw [decide_eq_false h.not_gt, Bool.false_and]
    refine iff_of_false Bool.false_ne_true (not_lt.mpr ?_)
    calc (2 : ℝ) ^ f.emin ≤ 2 ^ lg := zpow_le_zpow_right₀ one_le_two h
      _ = (2 ^ f.m : Nat) * 2 ^ (lg - f.m) := by rw [mul_comm, two_zpow_sub_natCast]
      _ ≤ u * 2 ^ (lg - f.m) := mul_le_mul_of_nonneg_right (Nat.cast_le.mpr hlow) hunit.le

/-- A number overflows with an unbounded exponent where it does with the format's last place. -/
theorem overflows_iff (hf : f.Sound) (hu : u ≤ 2 ^ (f.m + 1)) (hsub : lg < f.emin → k ≤ 2 ^ f.m)
    (hnorm : f.emin ≤ lg → u = k) :
    (2 : ℝ) ^ (f.bias + 1) ≤ u * 2 ^ (lg - (f.m : Int)) ↔ (2 : ℝ) ^ (f.bias + 1) ≤ k * 2 ^ (max lg f.emin - (f.m : Int)) := by
  rcases lt_or_ge lg f.emin with h | h
  · have hbelow {z : ℝ} (hz : z ≤ 2 ^ f.emin) : ¬(2 : ℝ) ^ (f.bias + 1) ≤ z := by
      have hemin : f.emin < ((f.bias + 1 : Nat) : Int) := by
        have := hf.frac.trans hf.frac_le_bias
        rw [Fmt.emin]
        omega
      have hlt := zpow_lt_zpow_right₀ (one_lt_two (α := ℝ)) hemin
      rw [zpow_natCast] at hlt
      exact not_le.mpr (hz.trans_lt hlt)
    refine iff_of_false (hbelow ?_) (hbelow ?_)
    · exact (significand_mul_le hu).trans (zpow_le_zpow_right₀ one_le_two (by omega))
    · rw [max_eq_right h.le, ← two_zpow_sub_natCast f.emin f.m, mul_comm]
      exact mul_le_mul_of_nonneg_left (Nat.cast_le.mpr (hsub h)) (by positivity)
  · rw [hnorm h, max_eq_left h]

end

/-- 06 R121, R122: `roundTo` rounds once, with the flags of the rounding. -/
theorem roundTo_isRounded {f : Fmt} (hf : f.Sound) {rnd m : Nat} {neg sticky : Bool} {e : Int} {x : ℝ} (hm : m ≠ 0)
    (hrnd : rnd ≤ 4) (hx : Sticky sticky x) (hbits : sticky = true → f.m < m.log2) :
    IsRounded f rnd neg ((m + x) * 2 ^ e) (roundTo f rnd neg m e sticky) := by
  obtain ⟨hlow, hhigh⟩ := significand_bounds hm hx.nonneg hx.lt_one e
  rw [roundTo, if_neg hm]
  set y : ℝ := (m + x) * 2 ^ e
  set lg : Int := (m.log2 : Int) + e
  set q := max lg f.emin - f.m
  dsimp only
  obtain ⟨hk, hkexact⟩ := roundAt_chooses (neg := neg) (m := m) (e := e) (q := q) hrnd hx
    fun h => by have := hbits h; omega
  obtain ⟨hu, -⟩ := roundAt_chooses (neg := neg) (m := m) (e := e) (q := lg - f.m) hrnd hx
    fun h => by have := hbits h; omega
  have hsame (h : f.emin ≤ lg) : (roundAt rnd neg m e (lg - f.m) sticky).1 = (roundAt rnd neg m e q sticky).1 := by
    rw [show q = lg - f.m by omega]
  set r := roundAt rnd neg m e q sticky
  set u := (roundAt rnd neg m e (lg - f.m) sticky).1
  obtain ⟨hulow, huhigh⟩ := significand_of_chooses hlow hhigh hu
  have hsub (h : lg < f.emin) : r.1 ≤ 2 ^ f.m := fraction_of_chooses hhigh h (by rwa [show f.emin - f.m = q by omega])
  have hkhigh : r.1 ≤ 2 ^ (f.m + 1) := by
    rcases lt_or_ge lg f.emin with h | h
    · exact (hsub h).trans (Nat.pow_le_pow_right (by decide) (by omega))
    · exact hsame h ▸ huhigh
  obtain ⟨hmag, htop⟩ := roundedIndex hf hkhigh fun h => hsame h ▸ hulow
  have htop := htop.trans (overflows_iff hf huhigh hsub hsame).symm
  have htiny := tiny_iff (lg := lg) hulow huhigh
  refine ⟨lg, r.1, u, hlow, hhigh, hk, hu, fun hover => ?_, fun hunder => ?_⟩
  · rw [if_pos (htop.mpr hover)]
    exact overflow_eq f neg hrnd
  · rw [if_neg fun h => hunder.not_ge (htop.mp h)]
    have hexact : r.1 * (2 : ℝ) ^ q = y ↔ r.2 = false := by
      rw [← Bool.not_eq_true, hkexact, not_not, eq_div_iff (by positivity)]
    have hinexact (h : r.1 * (2 : ℝ) ^ q ≠ y) : r.2 = true := Bool.not_eq_false _ ▸ mt hexact.mpr h
    refine ⟨⟨_, not_le.mp fun h => hunder.not_ge (htop.mp h), rfl, hmag⟩, fun h => ?_, fun h hnot => ?_, fun h htin => ?_⟩
    · rw [hexact.mp h, Bool.and_false]
      rfl
    · rw [hinexact h, Bool.eq_false_iff.mpr fun ht => hnot.not_gt (htiny.mp ht)]
      rfl
    · rw [hinexact h, htiny.mpr htin]
      rfl

end Sys2Proof.Machine

end

section

namespace Sys2Proof.Machine

variable {f : Fmt} {rnd : Nat}

/-! ## Exact results rounded once (06 R121) -/

theorem abs_signed (neg : Bool) (x : ℝ) : |(if neg then -1 else 1) * x| = |x| := by cases neg <;> simp

/-- A signed number with a part below its last bit is rounded once. -/
theorem roundTo_rounds (hf : f.Sound) {m : Nat} {neg sticky : Bool} {e : Int} {x : ℝ} {y : ℚ} (hrnd : rnd ≤ 4)
    (hx : Sticky sticky x) (hbits : sticky = true → f.m < m.log2)
    (hy : (y : ℝ) = (if neg then -1 else 1) * ((m + x) * 2 ^ e)) :
    Rounds f rnd neg y (roundTo f rnd neg m e sticky) := by
  have hpow : (0 : ℝ) < 2 ^ e := by positivity
  have hzero : y = 0 ↔ m = 0 := by
    have hsign : (if neg then -1 else 1 : ℝ) ≠ 0 := by cases neg <;> norm_num
    have hm : m = 0 → x = 0 := fun hm => by
      by_contra hne
      have := hbits (hx.marks.mpr hne)
      rw [hm, Nat.log2_zero] at this
      omega
    rw [← Rat.cast_eq_zero (α := ℝ), hy, mul_eq_zero_iff_left hsign, mul_eq_zero_iff_right hpow.ne',
      add_eq_zero_iff_of_nonneg (Nat.cast_nonneg m) hx.nonneg, Nat.cast_eq_zero]
    exact and_iff_left_of_imp hm
  refine ⟨fun h => ?_, fun h => ?_⟩
  · rw [roundTo, if_pos (hzero.mp h)]
  · have hm : m ≠ 0 := fun hm => h (hzero.mpr hm)
    have hmag : (0 : ℝ) < (m + x) * 2 ^ e := by
      have hpos : (0 : ℝ) < m := Nat.cast_pos.mpr (Nat.pos_of_ne_zero hm)
      have := hx.nonneg
      positivity
    have habs : ((|y| : ℚ) : ℝ) = (m + x) * 2 ^ e := by rw [Rat.cast_abs, hy, abs_signed, abs_of_pos hmag]
    have hneg : decide (y < 0) = neg := by
      refine Bool.eq_iff_iff.mpr (decide_eq_true_iff.trans ?_)
      rw [← Rat.cast_lt (K := ℝ), hy, Rat.cast_zero]
      cases neg <;> simp [hmag, hmag.le]
    rw [habs, hneg]
    exact roundTo_isRounded hf hm hrnd hx hbits

/-- A finite datum is rounded once. -/
theorem roundTo_rounds_numOf (hf : f.Sound) (hrnd : rnd ≤ 4) (neg : Bool) (m : Nat) (e : Int) :
    Rounds f rnd neg (numOf (.fin neg m e)) (roundTo f rnd neg m e false) := by
  refine roundTo_rounds hf hrnd sticky_false nofun ?_
  rw [numOf_fin]
  cases neg <;> push_cast <;> simp

/-! ## NaNs (06 R123) -/

theorem anyNan_iff {xs : List FVal} : anyNan xs = true ↔ SomeNan xs := by
  rw [anyNan, List.any_eq_true]
  constructor
  · rintro ⟨x, hx, hnan⟩
    cases x with
    | nan s => exact ⟨s, hx⟩
    | inf => cases hnan
    | fin => cases hnan
  · rintro ⟨s, hs⟩
    exact ⟨.nan s, hs, rfl⟩

theorem anySnan_iff {xs : List FVal} : anySnan xs = true ↔ FVal.nan true ∈ xs := by
  simp [anySnan]

theorem nanRes_nanOf (f : Fmt) (xs : List FVal) : NanOf f xs (nanRes f xs) := by
  rw [NanOf, nanRes, flagIf]
  exact congrArg (f.nan, ·) (if_congr anySnan_iff rfl rfl)

/-! ## Sums (07 R136, R148) -/

/-- The value of an addend. -/
def Addend.value (a : Addend) : ℚ := numOf (.fin a.neg a.m a.e)

theorem leastExp_le {xs : List Addend} {a : Addend} (h : a ∈ xs) : leastExp xs ≤ a.e := by
  induction xs with
  | nil => cases h
  | cons x t ih =>
    cases t with
    | nil => exact (List.mem_singleton.mp h) ▸ le_rfl
    | cons y u =>
      rw [leastExp]
      · rcases List.mem_cons.mp h with rfl | hmem
        · exact min_le_left ..
        · exact (min_le_right ..).trans (ih hmem)
      · exact nofun

theorem sumUnits_eq {e0 : Int} {xs : List Addend} (h : ∀ a ∈ xs, e0 ≤ a.e) :
    (sumUnits e0 xs : ℚ) * 2 ^ e0 = (xs.map Addend.value).sum := by
  induction xs with
  | nil => simp [sumUnits]
  | cons a t ih =>
    rw [List.forall_mem_cons] at h
    have hpow : (2 : ℚ) ^ (a.e - e0).toNat * 2 ^ e0 = 2 ^ a.e := by
      rw [← zpow_natCast, ← zpow_add₀ two_ne_zero, Int.toNat_of_nonneg (by omega), sub_add_cancel]
    rw [sumUnits, Int.cast_add, add_mul, ih h.2, List.map_cons, List.sum_cons, Addend.value, numOf_fin, ← hpow]
    congr 1
    cases a.neg <;> push_cast <;> simp [mul_assoc]

/-- The sign of a zero sum, of its addends. -/
def Addend.zeroSign (rnd : Nat) (xs : List Addend) : Bool := xs.all (·.neg) || (xs.any (·.neg) && rnd == 3)

/-- The sign of a zero is of no moment to another number. -/
theorem Rounds.of_ne_zero {z w : Bool} {x : ℚ} {v : Nat × BitVec 32} (hx : x ≠ 0) (h : Rounds f rnd z x v) :
    Rounds f rnd w x v := ⟨fun h0 => absurd h0 hx, h.2⟩

theorem sumFin_rounds (hf : f.Sound) (hrnd : rnd ≤ 4) (xs : List Addend) :
    Rounds f rnd (Addend.zeroSign rnd xs) (xs.map Addend.value).sum (sumFin f rnd xs) := by
  rw [← sumUnits_eq fun a => leastExp_le, sumFin]
  set t := sumUnits (leastExp xs) xs
  split
  · rename_i ht
    rw [ht, Int.cast_zero, zero_mul]
    refine ⟨fun _ => ?_, fun h => absurd rfl h⟩
    rw [Addend.zeroSign]
    cases hall : xs.all fun a => a.neg with
    | true => rfl
    | false =>
      have hnot : (xs.all fun a => !a.neg) = !xs.any fun a => a.neg := by rw [List.not_any_eq_all_not]
      rw [hnot]
      cases xs.any fun a => a.neg with
      | true => rfl
      | false => rfl
  · rename_i ht
    refine Rounds.of_ne_zero (by positivity) (roundTo_rounds (e := leastExp xs) hf hrnd sticky_false nofun ?_)
    have habs : (t : ℝ) = (if decide (t < 0) then -1 else 1) * (t.natAbs : ℝ) := by
      rw [Nat.cast_natAbs, Int.cast_abs]
      rcases lt_or_ge t 0 with h | h
      · simp [h, abs_of_neg (Int.cast_lt_zero.mpr h)]
      · simp [h.not_gt, abs_of_nonneg (Int.cast_nonneg h)]
    push_cast
    rw [habs, add_zero, mul_assoc]

/-- A list of data without a NaN or an infinity is its addends. -/
theorem addends_map {xs : List FVal} (hnan : ¬SomeNan xs) (hinf : ∀ n, FVal.inf n ∉ xs) :
    (addends xs).map (fun a => FVal.fin a.neg a.m a.e) = xs := by
  induction xs with
  | nil => rfl
  | cons x t ih =>
    have ih := ih (fun ⟨s, hs⟩ => hnan ⟨s, List.mem_cons_of_mem _ hs⟩) fun n hn => hinf n (List.mem_cons_of_mem _ hn)
    cases x with
    | nan s => exact absurd ⟨s, List.mem_cons_self⟩ hnan
    | inf n => exact absurd List.mem_cons_self (hinf n)
    | fin n m e => exact congrArg (FVal.fin n m e :: ·) ih

/-- 06 R121 to R123: the sum of data is exact and rounded once. `z` is the sign of a zero, of a sum of numbers. -/
theorem sumF_isSum (hf : f.Sound) (hrnd : rnd ≤ 4) {xs : List FVal} {z : Bool}
    (hz : (∀ n, FVal.inf n ∉ xs) → z = zeroSign rnd xs) : IsSum f rnd z xs (sumF f rnd xs) := by
  rw [sumF]
  refine ⟨fun h => ?_, fun h => ?_⟩
  · rw [if_pos (anyNan_iff.mpr h)]
    exact nanRes_nanOf f xs
  · have hpos : xs.contains (.inf false) = decide (FVal.inf false ∈ xs) := by rw [List.contains_eq_mem]
    have hneg : xs.contains (.inf true) = decide (FVal.inf true ∈ xs) := by rw [List.contains_eq_mem]
    rw [if_neg (mt anyNan_iff.mp h), hpos, hneg]
    refine ⟨fun hp hn => by simp [hp, hn], fun n hin hnot => ?_, fun hfin => ?_⟩
    · cases n with
      | false => simp [hin, show FVal.inf true ∉ xs from hnot, Fmt.signed]
      | true => simp [hin, show FVal.inf false ∉ xs from hnot]
    · have hxs := addends_map h hfin
      have hsum : xs.map numOf = (addends xs).map Addend.value := by
        rw [← hxs, List.map_map, hxs]
        rfl
      have hsign : z = Addend.zeroSign rnd (addends xs) := by
        rw [hz hfin, zeroSign, Addend.zeroSign]
        conv_lhs => rw [← hxs]
        rw [List.all_map, List.any_map]
        rfl
      rw [hsum, hsign]
      simpa [hfin] using sumFin_rounds hf hrnd (addends xs)

/-! ## Products (07 R136) -/

theorem someNan_pair {x y : FVal} : SomeNan [x, y] ↔ (∃ s, x = .nan s) ∨ ∃ s, y = .nan s := by
  simp only [SomeNan, List.mem_cons, List.not_mem_nil, or_false, exists_or, eq_comm]

section

variable {x y : FVal}

/-- The sign of a product or quotient. -/
def signsDiffer (x y : FVal) : Bool := negOf x != negOf y

/-- The exact product of two numbers is one. -/
theorem mulV_finite (hx : finite x = true) (hy : finite y = true) :
    ∃ m e, mulV x y = some (.fin (signsDiffer x y) m e) ∧ numOf (.fin (signsDiffer x y) m e) = numOf x * numOf y := by
  cases x with
  | nan => cases hx
  | inf => cases hx
  | fin n m e =>
    cases y with
    | nan => cases hy
    | inf => cases hy
    | fin k l g =>
      refine ⟨m * l, e + g, rfl, ?_⟩
      simp only [numOf_fin, signsDiffer, negOf]
      rw [zpow_add₀ two_ne_zero]
      cases n <;> cases k <;> push_cast <;> simp <;> ring

variable (hnan : ¬SomeNan [x, y]) (hinf : finite x = false ∨ finite y = false)

include hnan hinf

theorem mulV_zero (hzero : (finite x = true ∧ numOf x = 0) ∨ (finite y = true ∧ numOf y = 0)) : mulV x y = none := by
  rw [someNan_pair] at hnan
  cases x with
  | nan s => exact absurd (.inl ⟨s, rfl⟩) hnan
  | inf n =>
    cases y with
    | nan s => exact absurd (.inr ⟨s, rfl⟩) hnan
    | inf => simp [finite] at hzero
    | fin k l g =>
      have hl : l = 0 := by simpa [finite, numOf_fin_eq_zero] using hzero
      exact if_pos hl
  | fin n m e =>
    cases y with
    | nan s => exact absurd (.inr ⟨s, rfl⟩) hnan
    | inf =>
      have hm : m = 0 := by simpa [finite, numOf_fin_eq_zero] using hzero
      exact if_pos hm
    | fin => simp [finite] at hinf

theorem mulV_inf (hx : finite x = true → numOf x ≠ 0) (hy : finite y = true → numOf y ≠ 0) :
    mulV x y = some (.inf (signsDiffer x y)) := by
  rw [someNan_pair] at hnan
  cases x with
  | nan s => exact absurd (.inl ⟨s, rfl⟩) hnan
  | inf n =>
    cases y with
    | nan s => exact absurd (.inr ⟨s, rfl⟩) hnan
    | inf => rfl
    | fin k l g => exact if_neg fun hl => hy rfl (numOf_fin_eq_zero.mpr hl)
  | fin n m e =>
    cases y with
    | nan s => exact absurd (.inr ⟨s, rfl⟩) hnan
    | inf => exact if_neg fun hm => hx rfl (numOf_fin_eq_zero.mpr hm)
    | fin => simp [finite] at hinf

end

theorem not_someNan_of_finite {x y : FVal} (hx : finite x = true) (hy : finite y = true) : ¬SomeNan [x, y] := by
  rw [someNan_pair]
  rintro (⟨s, rfl⟩ | ⟨s, rfl⟩)
  · cases hx
  · cases hy

theorem mulF_isProduct (hf : f.Sound) (hrnd : rnd ≤ 4) (a b : Nat) :
    IsProduct f rnd (decodeF f a) (decodeF f b) (mulF f rnd a b) := by
  rw [mulF]
  generalize decodeF f a = x
  generalize decodeF f b = y
  refine ⟨fun hnan => ?_, fun hnan hinf => ⟨fun hzero => ?_, fun hx hy => ?_⟩, fun hx hy => ?_⟩
  · rw [if_pos (anyNan_iff.mpr hnan)]
    exact nanRes_nanOf f _
  · rw [if_neg (mt anyNan_iff.mp hnan), mulV_zero hnan hinf hzero]
  · rw [if_neg (mt anyNan_iff.mp hnan), mulV_inf hnan hinf hx hy]
    rfl
  · obtain ⟨m, e, hprod, hval⟩ := mulV_finite hx hy
    rw [if_neg (mt anyNan_iff.mp (not_someNan_of_finite hx hy)), hprod, ← hval]
    exact roundTo_rounds_numOf hf hrnd _ m e

theorem fmaF_isFused (hf : f.Sound) (hrnd : rnd ≤ 4) (a b c : Nat) :
    IsFused f rnd (decodeF f a) (decodeF f b) (decodeF f c) (fmaF f rnd a b c) := by
  rw [fmaF]
  generalize decodeF f a = x
  generalize decodeF f b = y
  generalize decodeF f c = z
  have hsum {p : FVal} {w : Bool} (hp : ∀ s, p ≠ .nan s) (hw : (∀ n, FVal.inf n ∉ [p, z]) → w = zeroSign rnd [p, z]) :
      IsSum f rnd w [p, z] (if anyNan [z] then nanRes f [z] else sumF f rnd [p, z]) := by
    cases hz : anyNan [z] with
    | false => exact sumF_isSum hf hrnd hw
    | true =>
      obtain ⟨s, hs⟩ := anyNan_iff.mp hz
      obtain rfl : FVal.nan s = z := List.mem_singleton.mp hs
      have hmem : FVal.nan true ∈ [p, FVal.nan s] ↔ FVal.nan true ∈ [FVal.nan s] := by
        simp [(hp true).symm]
      refine ⟨fun _ => ?_, fun h => absurd ⟨s, by simp⟩ h⟩
      rw [NanOf, if_congr hmem rfl rfl]
      exact nanRes_nanOf f _
  refine ⟨fun hnan => ?_, fun hnan hinf => ⟨fun hzero => ?_, fun hx hy => ?_⟩, fun hx hy => ?_⟩
  · have hmem : anyNan [x, y] = true := anyNan_iff.mpr hnan
    rw [if_pos hmem]
    exact nanRes_nanOf f _
  · rw [if_neg (mt anyNan_iff.mp hnan), mulV_zero hnan hinf hzero]
  · rw [if_neg (mt anyNan_iff.mp hnan), mulV_inf hnan hinf hx hy]
    exact hsum nofun fun h => absurd List.mem_cons_self (h _)
  · obtain ⟨m, e, hprod, hval⟩ := mulV_finite hx hy
    rw [if_neg (mt anyNan_iff.mp (not_someNan_of_finite hx hy)), hprod]
    exact ⟨m, e, hval, hsum nofun fun _ => rfl⟩

/-! ## Quotients (07 R136) -/

/-- The fraction that an integer quotient leaves is marked by its remainder. -/
theorem sticky_mod (n : Nat) {l : Nat} (hl : 0 < l) : Sticky (n % l ≠ 0) ((n % l : Nat) / (l : ℝ)) := by
  have hpos : (0 : ℝ) < l := Nat.cast_pos.mpr hl
  refine ⟨by positivity, (div_lt_one hpos).mpr (Nat.cast_lt.mpr (Nat.mod_lt n hl)), ?_⟩
  rw [decide_eq_true_iff, Ne, Ne, div_eq_zero_iff, Nat.cast_eq_zero, or_iff_left hpos.ne']

theorem divF_finite (hf : f.Sound) (hrnd : rnd ≤ 4) {n k : Bool} {m l : Nat} {e g : Int} (hl : l ≠ 0) :
    Rounds f rnd (n != k) (numOf (.fin n m e) / numOf (.fin k l g))
      (let sh := f.m + 4 + l.log2
       roundTo f rnd (n != k) (m * 2 ^ sh / l) (e - g - sh) (m * 2 ^ sh % l ≠ 0)) := by
  have hpos : 0 < l := Nat.pos_of_ne_zero hl
  set sh := f.m + 4 + l.log2
  refine roundTo_rounds hf hrnd (sticky_mod _ hpos) (fun hst => ?_) ?_
  · have hm : m ≠ 0 := fun hm => by simp [hm] at hst
    have hle : 2 ^ (f.m + 1) ≤ m * 2 ^ sh / l := by
      rw [Nat.le_div_iff_mul_le hpos]
      calc 2 ^ (f.m + 1) * l ≤ 2 ^ (f.m + 1) * 2 ^ (l.log2 + 1) := Nat.mul_le_mul_left _ Nat.lt_log2_self.le
        _ ≤ 2 ^ sh := by rw [← pow_add]; exact Nat.pow_le_pow_right (by decide) (by omega)
        _ ≤ m * 2 ^ sh := Nat.le_mul_of_pos_left _ (Nat.pos_of_ne_zero hm)
    exact (Nat.le_log2 (by have := Nat.two_pow_pos (f.m + 1); omega)).mpr hle
  · have hlR : (l : ℝ) ≠ 0 := Nat.cast_ne_zero.mpr hl
    have hdiv : ((m * 2 ^ sh / l : Nat) : ℝ) + (m * 2 ^ sh % l : Nat) / l = m * 2 ^ sh / l := by
      rw [eq_div_iff hlR, add_mul, div_mul_cancel₀ _ hlR]
      exact_mod_cast Nat.div_add_mod' (m * 2 ^ sh) l
    rw [hdiv, zpow_sub₀ two_ne_zero, zpow_sub₀ two_ne_zero, zpow_natCast, numOf_fin, numOf_fin]
    have hg : (2 : ℝ) ^ g ≠ 0 := by positivity
    cases n <;> cases k <;> push_cast <;> simp <;> field_simp

theorem divF_isQuotient (hf : f.Sound) (hrnd : rnd ≤ 4) (a b : Nat) :
    IsQuotient f rnd (decodeF f a) (decodeF f b) (divF f rnd a b) := by
  rw [divF]
  generalize decodeF f a = x
  generalize decodeF f b = y
  refine ⟨fun hnan => ?_, fun hnan => ?_⟩
  · rw [if_pos (anyNan_iff.mpr hnan)]
    exact nanRes_nanOf f _
  · rw [if_neg (mt anyNan_iff.mp hnan)]
    rw [someNan_pair] at hnan
    cases x with
    | nan s => exact absurd (.inl ⟨s, rfl⟩) hnan
    | inf n =>
      cases y with
      | nan s => exact absurd (.inr ⟨s, rfl⟩) hnan
      | inf => exact ⟨fun _ _ => rfl, nofun, nofun, nofun⟩
      | fin => exact ⟨nofun, fun _ _ => rfl, nofun, nofun⟩
    | fin n m e =>
      cases y with
      | nan s => exact absurd (.inr ⟨s, rfl⟩) hnan
      | inf => exact ⟨nofun, nofun, fun _ _ => rfl, nofun⟩
      | fin k l g =>
        refine ⟨nofun, nofun, nofun, fun _ _ => ⟨fun hy => ?_, fun hy => ?_⟩⟩
        · dsimp only
          rw [if_pos (numOf_fin_eq_zero.mp hy)]
          exact if_congr numOf_fin_eq_zero.symm rfl rfl
        · have hl : l ≠ 0 := fun hl => hy (numOf_fin_eq_zero.mpr hl)
          dsimp only
          rw [if_neg hl]
          exact divF_finite hf hrnd hl

end Sys2Proof.Machine

end

section

namespace Sys2Proof.Machine

variable {f : Fmt} {rnd : Nat}

/-! ## Square roots (06 R130, R131) -/

/-- The search bit by bit keeps the root below, and above what the bits that are left can add. -/
theorem isqrt_spec (k n r : Nat) (hlow : r * r ≤ n) (hhigh : n < (r + 2 ^ k) * (r + 2 ^ k)) :
    isqrt k n r * isqrt k n r ≤ n ∧ n < (isqrt k n r + 1) * (isqrt k n r + 1) := by
  induction k generalizing r with
  | zero => exact ⟨hlow, hhigh⟩
  | succ k ih =>
    rw [isqrt]
    split
    · rename_i h
      exact ih _ h (by rwa [add_assoc, ← two_mul, ← pow_succ'])
    · rename_i h
      exact ih _ hlow (not_le.mp h)

/-- `sqrtNat` is the floor of the square root. -/
theorem sqrtNat_eq (n : Nat) : sqrtNat n = Nat.sqrt n := by
  have hlt : n < 2 ^ (n.log2 / 2 + 1) * 2 ^ (n.log2 / 2 + 1) := by
    rw [← pow_add]
    exact Nat.lt_log2_self.trans_le (Nat.pow_le_pow_right (by decide) (by omega))
  obtain ⟨hlow, hhigh⟩ := isqrt_spec (n.log2 / 2 + 1) n 0 (Nat.zero_le n) (by rwa [zero_add])
  exact Nat.eq_sqrt.mpr ⟨hlow, hhigh⟩

theorem evenScale_spec (m : Nat) (e : Int) (bits : Nat) :
    (m * 2 ^ bits ≤ (evenScale m e bits).1) ∧
      ((evenScale m e bits).1 : ℝ) * ((2 : ℝ) ^ (evenScale m e bits).2) ^ 2 = m * 2 ^ e := by
  rw [evenScale]
  set sh := bits + if (e - bits) % 2 = 0 then 0 else 1 with hsh
  have heven : 2 * ((e - sh) / 2) = e - sh := by
    rw [hsh]
    split <;> push_cast <;> omega
  refine ⟨Nat.mul_le_mul_left m (Nat.pow_le_pow_right (by decide) (by omega)), ?_⟩
  have hpow : ((2 : ℝ) ^ ((e - sh) / 2)) ^ 2 = 2 ^ (e - sh) := by
    rw [← zpow_natCast, ← zpow_mul, mul_comm, Nat.cast_ofNat, heven]
  rw [hpow, zpow_sub₀ two_ne_zero, zpow_natCast]
  push_cast
  field_simp

/-- What an integer root leaves is marked where the number is no square. -/
theorem sticky_sqrt (n : Nat) : Sticky (Nat.sqrt n * Nat.sqrt n ≠ n) (Real.sqrt n - Nat.sqrt n) := by
  have hlow : (Nat.sqrt n : ℝ) ≤ Real.sqrt n := Real.nat_sqrt_le_real_sqrt
  have hhigh : Real.sqrt n < Nat.sqrt n + 1 := Real.real_sqrt_lt_nat_sqrt_succ
  refine ⟨by linarith, by linarith, ?_⟩
  rw [decide_eq_true_iff, Ne, Ne, sub_eq_zero, Real.sqrt_eq_iff_mul_self_eq (Nat.cast_nonneg _) (Nat.cast_nonneg _)]
  exact not_congr (by rw [eq_comm]; exact_mod_cast Iff.rfl)

theorem sqrtF_finite (hf : f.Sound) (hrnd : rnd ≤ 4) {m : Nat} {e : Int} (hm : m ≠ 0) :
    IsRounded f rnd false (Real.sqrt (numOf (.fin false m e) : ℚ))
      (let x := evenScale m e (2 * f.m + 8)
       let r := sqrtNat x.1
       roundTo f rnd false r x.2 (r * r ≠ x.1)) := by
  obtain ⟨hbits, hval⟩ := evenScale_spec m e (2 * f.m + 8)
  set n := (evenScale m e (2 * f.m + 8)).1
  set h := (evenScale m e (2 * f.m + 8)).2
  have hroot : 2 ^ (f.m + 1) ≤ Nat.sqrt n := by
    rw [Nat.le_sqrt, ← pow_add]
    calc 2 ^ (f.m + 1 + (f.m + 1)) ≤ 2 ^ (2 * f.m + 8) := Nat.pow_le_pow_right (by decide) (by omega)
      _ ≤ m * 2 ^ (2 * f.m + 8) := Nat.le_mul_of_pos_left _ (Nat.pos_of_ne_zero hm)
      _ ≤ n := hbits
  have hne : Nat.sqrt n ≠ 0 := by have := Nat.two_pow_pos (f.m + 1); omega
  have hsqrt : Real.sqrt (numOf (.fin false m e) : ℚ) = (Nat.sqrt n + (Real.sqrt n - Nat.sqrt n)) * 2 ^ h := by
    have hnum : ((numOf (.fin false m e) : ℚ) : ℝ) = n * (2 ^ h) ^ 2 := by
      rw [hval, numOf_fin]
      push_cast
      simp
    rw [hnum, add_sub_cancel, Real.sqrt_mul (Nat.cast_nonneg n), Real.sqrt_sq (by positivity)]
  dsimp only
  rw [sqrtNat_eq, hsqrt]
  exact roundTo_isRounded hf hne hrnd (sticky_sqrt n) fun _ => (Nat.le_log2 hne).mpr hroot

theorem nanOf_singleton (f : Fmt) (s : Bool) : NanOf f [.nan s] (f.nan, flagIf s fINV) := by
  cases s <;> simp [NanOf, flagIf]

theorem sqrtF_isRoot (hf : f.Sound) (hrnd : rnd ≤ 4) (a : Nat) : IsRoot f rnd (decodeF f a) (sqrtF f rnd a) := by
  rw [sqrtF]
  cases decodeF f a with
  | nan s => exact ⟨fun _ => nanOf_singleton f s, nofun, nofun, by simp [finite], nofun⟩
  | inf n =>
    refine ⟨by simp [SomeNan], ?_, nofun, ?_, nofun⟩
    · rintro ⟨⟩
      rfl
    · rintro (⟨⟨⟩⟩ | ⟨h, -⟩)
      · rfl
      · cases h
  | fin n m e =>
    dsimp only
    refine ⟨by simp [SomeNan], nofun, fun _ h => ?_, ?_, fun _ h => ?_⟩
    · rw [if_pos (numOf_fin_eq_zero.mp h)]
      rfl
    · rintro (h | ⟨-, h⟩)
      · cases h
      · have hm : m ≠ 0 := fun hm => h.ne (numOf_fin_eq_zero.mpr hm)
        cases n with
        | true => rw [if_neg hm, if_pos rfl]
        | false =>
          rw [numOf_fin] at h
          exact absurd h (not_lt.mpr (by simp; positivity))
    · have hm : m ≠ 0 := fun hm => h.ne' (numOf_fin_eq_zero.mpr hm)
      cases n with
      | true =>
        rw [numOf_fin] at h
        exact absurd h (not_lt.mpr (by simp; positivity))
      | false =>
        rw [if_neg hm, if_neg Bool.false_ne_true]
        exact sqrtF_finite hf hrnd hm

/-! ## Minimum and maximum (07 R137, R148) -/

theorem anyNan_singleton {x : FVal} : anyNan [x] = true ↔ ∃ s, x = .nan s := by
  rw [anyNan_iff]
  simp [SomeNan, eq_comm]

/-- A number's pattern is at most that of an infinity, the sign apart. -/
theorem magnitude_le_of_not_nan {n : Nat} (h : ¬∃ s, decodeF f n = .nan s) : n % 2 ^ (f.eb + f.m) ≤ f.infBits :=
  not_lt.mp fun hlt => h ⟨_, decodeF_nan hlt⟩

theorem orderKey_eq (f : Fmt) (n : Nat) :
    orderKey f n = if signOf f n then -((n % 2 ^ (f.eb + f.m) : Nat) : Int) - 1 else (n % 2 ^ (f.eb + f.m) : Nat) := rfl

theorem below_fin {n k : Bool} {m l : Nat} {e g : Int} (hle : numOf (.fin n m e) ≤ numOf (.fin k l g))
    (hsign : k = true → n = true) : Below (.fin n m e) (.fin k l g) :=
  hle.lt_or_eq.imp_right fun h => ⟨h, hsign⟩

/-- The keys order the data. -/
theorem below_of_orderKey_le {a b : Nat} (ha : ¬∃ s, decodeF f a = .nan s) (hb : ¬∃ s, decodeF f b = .nan s)
    (h : orderKey f a ≤ orderKey f b) : Below (decodeF f a) (decodeF f b) := by
  rw [orderKey_eq, orderKey_eq] at h
  rcases (magnitude_le_of_not_nan ha).lt_or_eq with hafin | hainf
  · obtain ⟨E, k, hav, -⟩ := decodeF_fin hafin
    have hanum := numOf_decodeF hafin
    rcases (magnitude_le_of_not_nan hb).lt_or_eq with hbfin | hbinf
    · obtain ⟨E', k', hbv, -⟩ := decodeF_fin hbfin
      have hbnum := numOf_decodeF hbfin
      have hmono := (magOf_strictMono f).monotone
      have hapos := magOf_nonneg f (a % 2 ^ (f.eb + f.m))
      have hbpos := magOf_nonneg f (b % 2 ^ (f.eb + f.m))
      have hle : numOf (decodeF f a) ≤ numOf (decodeF f b) := by
        rw [hanum, hbnum]
        cases hsa : signOf f a <;> cases hsb : signOf f b <;>
          simp only [hsa, hsb, Bool.false_eq_true, if_false, if_true, one_mul, neg_mul] at h ⊢
        · exact hmono (by omega)
        · omega
        · linarith
        · exact neg_le_neg (hmono (by omega))
      rw [hav, hbv] at hle ⊢
      refine below_fin hle fun hsb => ?_
      by_contra hsa
      rw [if_neg hsa, if_pos hsb] at h
      omega
    · rw [hav, decodeF_inf hbinf]
      show signOf f b = false
      refine Bool.eq_false_iff.mpr fun hsb => ?_
      rw [if_pos hsb] at h
      split at h <;> omega
  · rw [decodeF_inf hainf]
    rcases (magnitude_le_of_not_nan hb).lt_or_eq with hbfin | hbinf
    · obtain ⟨E', k', hbv, -⟩ := decodeF_fin hbfin
      rw [hbv]
      show signOf f a = true
      by_contra hsa
      rw [if_neg hsa] at h
      split at h <;> omega
    · rw [decodeF_inf hbinf]
      show signOf f a = true ∨ signOf f b = false
      by_contra hnot
      obtain ⟨hsa, hsb⟩ := not_or.mp hnot
      rw [if_neg hsa, if_pos (by simpa using hsb)] at h
      omega

/-- The fold of `extremeF` over patterns. -/
def pickBest (f : Fmt) (isMin : Bool) (b y : Nat) : Nat :=
  if isMin then (if orderKey f y < orderKey f b then y else b) else (if orderKey f b < orderKey f y then y else b)

/-- One pattern comes before another in the search for a minimum, or for a maximum. -/
def Beats (f : Fmt) (isMin : Bool) (b y : Nat) : Prop :=
  if isMin then orderKey f b ≤ orderKey f y else orderKey f y ≤ orderKey f b

theorem Beats.refl (f : Fmt) (isMin : Bool) (b : Nat) : Beats f isMin b b := by
  cases isMin <;> exact le_refl (orderKey f b)

theorem Beats.trans {isMin : Bool} {a b c : Nat} (h : Beats f isMin a b) (g : Beats f isMin b c) : Beats f isMin a c := by
  cases isMin
  · exact le_trans (α := Int) g h
  · exact le_trans (α := Int) h g

theorem pickBest_spec (f : Fmt) (isMin : Bool) (b y : Nat) :
    (pickBest f isMin b y = b ∨ pickBest f isMin b y = y) ∧ Beats f isMin (pickBest f isMin b y) b ∧
      Beats f isMin (pickBest f isMin b y) y := by
  cases isMin
  all_goals
    simp only [pickBest, Beats, Bool.false_eq_true, if_false, if_true]
    split
    · rename_i h
      exact ⟨.inr rfl, h.le, le_rfl⟩
    · rename_i h
      exact ⟨.inl rfl, le_rfl, not_lt.mp h⟩

/-- The pattern that is found is one of those searched, and none comes before it. -/
theorem foldl_pickBest (f : Fmt) (isMin : Bool) (t : List Nat) (x : Nat) :
    t.foldl (pickBest f isMin) x ∈ x :: t ∧ ∀ y ∈ x :: t, Beats f isMin (t.foldl (pickBest f isMin) x) y := by
  induction t generalizing x with
  | nil => simp [Beats.refl]
  | cons y t ih =>
    obtain ⟨hmem, hbeats⟩ := ih (pickBest f isMin x y)
    obtain ⟨hone, hx, hy⟩ := pickBest_spec f isMin x y
    have hbest := hbeats _ List.mem_cons_self
    refine ⟨?_, fun z hz => ?_⟩
    · rcases List.mem_cons.mp hmem with h | h
      · rw [List.foldl_cons, h]
        rcases hone with h | h <;> simp [h]
      · exact List.mem_cons_of_mem _ (List.mem_cons_of_mem _ h)
    · rcases List.mem_cons.mp hz with rfl | hz
      · exact hbest.trans hx
      · rcases List.mem_cons.mp hz with rfl | hz
        · exact hbest.trans hy
        · exact hbeats z (List.mem_cons_of_mem _ hz)

/-- 07 R137, R148: `extremeF` is the minimum or the maximum of the data that are no NaN. -/
theorem extremeF_isExtreme (f : Fmt) (isMin : Bool) (xs : List Nat) : IsExtreme f isMin xs (extremeF f isMin xs) := by
  have hnan (n : Nat) : (!anyNan [decodeF f n]) = true ↔ ¬∃ s, decodeF f n = .nan s := by
    rw [Bool.not_eq_true', ← Bool.not_eq_true, anyNan_singleton]
  have hmem (n : Nat) : n ∈ xs.filter (fun n => !anyNan [decodeF f n]) ↔ n ∈ xs ∧ ¬∃ s, decodeF f n = .nan s := by
    rw [List.mem_filter, hnan]
  refine ⟨fun hall => ?_, fun ⟨n, hn, hnum⟩ => ?_, ?_⟩
  · have hnil : xs.filter (fun n => !anyNan [decodeF f n]) = [] :=
      List.eq_nil_iff_forall_not_mem.mpr fun n h => ((hmem n).mp h).2 (hall n ((hmem n).mp h).1)
    rw [extremeF, hnil]
  · have hne : xs.filter (fun n => !anyNan [decodeF f n]) ≠ [] := List.ne_nil_of_mem ((hmem n).mpr ⟨hn, hnum⟩)
    obtain ⟨x, t, hxt⟩ := List.exists_cons_of_ne_nil hne
    have hbest : (extremeF f isMin xs).1 = t.foldl (pickBest f isMin) x := by
      rw [extremeF, hxt]
      rfl
    obtain ⟨hin, hbeats⟩ := foldl_pickBest f isMin t x
    rw [← hxt] at hin hbeats
    obtain ⟨hxs, hnotnan⟩ := (hmem _).mp hin
    rw [hbest]
    refine ⟨hxs, hnotnan, fun n hn hnum => ?_⟩
    have hb := hbeats n ((hmem n).mpr ⟨hn, hnum⟩)
    cases isMin
    · exact below_of_orderKey_le hnum hnotnan hb
    · exact below_of_orderKey_le hnotnan hnum hb
  · exact if_congr anySnan_iff rfl rfl

end Sys2Proof.Machine

end

section

namespace Sys2Proof.Machine

/-! ## Lane-wise instructions (07 R132) -/

section

variable {s : State} {i : Instr} {p named : Bool} {d a b : VNum} {g : State → Eff State} {v : Nat → Res}

/-- One source register. -/
theorem gives_vec1 {n : Bool} {F : ETy → Nat → Res} (hexec : exec i s = word i s g) (hg : g s = .ok (vec1 p d a n F s))
    (hn : n = named) (hv : ∀ l, F s.ty (s.elem s.ty a l) = v l) : Gives i s p s.ty d named v (s.elemLbl s.ty a) := by
  obtain rfl : (fun l => F s.ty (s.elem s.ty a l)) = v := funext hv
  subst hn
  exact fun h => completes_word hexec h hg (writesLanes_vecEffect ..)

/-- Two source registers. -/
theorem gives_vec2 {n : Bool} {F : ETy → Nat → Nat → Res} (hexec : exec i s = word i s g)
    (hg : g s = .ok (vec2 p d a b n F s)) (hn : n = named) (hv : ∀ l, F s.ty (s.elem s.ty a l) (s.elem s.ty b l) = v l) :
    Gives i s p s.ty d named v (fun l => s.elemLbl s.ty a l ||| s.elemLbl s.ty b l) := by
  obtain rfl : (fun l => F s.ty (s.elem s.ty a l) (s.elem s.ty b l)) = v := funext hv
  subst hn
  exact fun h => completes_word hexec h hg (writesLanes_vecEffect ..)

/-- Two source registers and the destination. -/
theorem gives_vec3 {n : Bool} {F : ETy → Nat → Nat → Nat → Res} (hexec : exec i s = word i s g)
    (hg : g s = .ok (vec3 p d a b n F s)) (hn : n = named)
    (hv : ∀ l, F s.ty (s.elem s.ty a l) (s.elem s.ty b l) (s.elem s.ty d l) = v l) :
    Gives i s p s.ty d named v (fun l => s.elemLbl s.ty a l ||| s.elemLbl s.ty b l ||| s.elemLbl s.ty d l) := by
  obtain rfl : (fun l => F s.ty (s.elem s.ty a l) (s.elem s.ty b l) (s.elem s.ty d l)) = v := funext hv
  subst hn
  exact fun h => completes_word hexec h hg (writesLanes_vecEffect ..)

end

theorem ETy.int_of_float {t : ETy} (h : t.float = true) : t.int = false := by
  revert h
  cases t <;> decide

/-! ## The arithmetic under a floating type (07 R136, R137) -/

/-- Settles O26: each lane gets the function of its row, which is the exact result rounded once. -/
theorem vectorFloatArithmetic : Obligations.VectorFloatArithmetic := by
  unfold Obligations.VectorFloatArithmetic
  refine ⟨fun s p d a b hfloat => ?_, ⟨rfl, rfl, rfl, rfl⟩, ?_⟩
  · have hint := ETy.int_of_float hfloat
    exact ⟨gives_vec2 (exec_vadd ..) rfl rfl fun _ => if_pos hfloat,
      gives_vec2 (exec_vsub ..) rfl rfl fun _ => if_pos hfloat,
      gives_vec2 (exec_vmul ..) rfl rfl fun _ => if_pos hfloat,
      gives_vec3 (exec_vfma ..) rfl rfl fun _ => rfl,
      gives_vec2 (exec_vmin ..) rfl hfloat fun _ => if_pos hfloat,
      gives_vec2 (exec_vmax ..) rfl hfloat fun _ => if_pos hfloat,
      gives_vec1 (exec_vabs ..) rfl hint fun _ => if_pos hfloat,
      gives_vec1 (exec_vneg ..) rfl hint fun _ => if_pos hfloat,
      gives_vec2 (exec_vdiv ..) rfl rfl fun _ => if_pos hfloat,
      gives_vec1 (exec_vsqrt ..) rfl rfl fun _ => rfl⟩
  intro t rnd x y z hfloat hrnd hx hy _ f dx dy minus
  have hf : f.Sound := Fmt.of_sound t
  have hwidth : t.width = f.eb + f.m + 1 := ETy.width_of_float hfloat
  have hminus : minus = dy.negate := by
    have hflip := decodeF_flip (f := f) (n := y) (by rwa [← hwidth])
    rwa [show f.eb + f.m = t.width - 1 by omega] at hflip
  refine ⟨readsPattern (by rwa [← hwidth]), sumF_isSum hf hrnd fun _ => rfl, ?_, mulF_isProduct hf hrnd x y,
    fmaF_isFused hf hrnd x y z, divF_isQuotient hf hrnd x y, sqrtF_isRoot hf hrnd x, extremeF_isExtreme f true _,
    extremeF_isExtreme f false _⟩
  rw [hminus]
  exact sumF_isSum hf hrnd fun _ => rfl

end Sys2Proof.Machine

end

section

namespace Sys2Proof.Machine

variable {f : Fmt}

/-! ## Values of a format between two numbers (06 R130) -/

/-- The number at an index, negative magnitudes having negative ones. -/
def indexVal (f : Fmt) (i : Int) : ℝ := if i < 0 then -(magOf f i.natAbs : ℝ) else magOf f i.natAbs

theorem indexVal_natCast (f : Fmt) (n : Nat) : indexVal f n = magOf f n := by
  rw [indexVal, if_neg (by omega), Int.natAbs_natCast]

theorem indexVal_neg_natCast (f : Fmt) (n : Nat) : indexVal f (-n) = -(magOf f n : ℝ) := by
  rw [indexVal, Int.natAbs_neg, Int.natAbs_natCast]
  split
  · rfl
  · obtain rfl : n = 0 := by omega
    rw [magOf_zero, Rat.cast_zero, neg_zero]

theorem magOf_cast_le {n k : Nat} : (magOf f n : ℝ) ≤ magOf f k ↔ n ≤ k := by
  rw [Rat.cast_le, (magOf_strictMono f).le_iff_le]

theorem magOf_cast_lt {n k : Nat} : (magOf f n : ℝ) < magOf f k ↔ n < k := by
  rw [Rat.cast_lt, (magOf_strictMono f).lt_iff_lt]

theorem magOf_cast_nonneg (f : Fmt) (n : Nat) : (0 : ℝ) ≤ magOf f n := Rat.cast_nonneg.mpr (magOf_nonneg f n)

theorem indexVal_mono (f : Fmt) : Monotone (indexVal f) := by
  intro i j hij
  have hi := magOf_cast_nonneg f i.natAbs
  have hj := magOf_cast_nonneg f j.natAbs
  rw [indexVal, indexVal]
  split <;> split
  · exact neg_le_neg (magOf_cast_le.mpr (by omega))
  · linarith
  · omega
  · exact magOf_cast_le.mpr (by omega)

/-- The least magnitude that is not finite. -/
theorem magOf_infBits_cast (hf : f.Sound) : (magOf f f.infBits : ℝ) = 2 ^ (f.bias + 1) := by
  rw [magOf_infBits hf]
  push_cast
  rfl

theorem infBits_pos (hf : f.Sound) : 0 < f.infBits := by
  rw [← magOf_cast_lt (f := f), magOf_infBits_cast hf, magOf_zero, Rat.cast_zero]
  positivity

/-- `i` is the greatest index whose magnitude is at or below the number `y`, and `exact` says that the two are equal, where
`y` is within the format. -/
structure IndexBelow (f : Fmt) (y : ℝ) (i : Nat) (exact : Bool) : Prop where
  le_top : i ≤ f.infBits
  le : (magOf f i : ℝ) ≤ y
  greatest : ∀ j ≤ f.infBits, (magOf f j : ℝ) ≤ y → j ≤ i
  equal : exact = true → i < f.infBits → (magOf f i : ℝ) = y
  less : exact = false → (magOf f i : ℝ) < y

/-- A number not 0 lies between an index's magnitude and the next; `indexBelow` gives that index, an infinity's at most. -/
theorem indexBelow_of_ne_zero (f : Fmt) {v : Nat} (hv : v ≠ 0) (x : Int) :
    ∃ n exact, indexBelow f v x = (min n f.infBits, exact) ∧ (magOf f n : ℝ) ≤ v * 2 ^ x ∧
      (v : ℝ) * 2 ^ x < magOf f (n + 1) ∧ (exact = true ↔ (magOf f n : ℝ) = v * 2 ^ x) := by
  obtain ⟨hlow, hhigh⟩ := significand_bounds hv le_rfl one_pos x
  rw [add_zero] at hlow hhigh
  rw [indexBelow, if_neg hv]
  set y : ℝ := v * 2 ^ x with hy
  set lg : Int := (v.log2 : Int) + x
  set q := max lg f.emin - f.m
  obtain ⟨hk, hne⟩ := roundAt_chooses (rnd := 1) (neg := false) (m := v) (e := x) (q := q) (by decide) sticky_false nofun
  rw [add_zero, ← hy] at hk hne
  set r := roundAt 1 false v x q false
  have hunit : (0 : ℝ) < 2 ^ q := by positivity
  have hkle : (r.1 : ℝ) * 2 ^ q ≤ y := (le_div_iff₀ hunit).mp (hk.2.elim Eq.le fun h => le_of_lt h)
  have hklt : y < (r.1 + 1) * 2 ^ q := (div_lt_iff₀ hunit).mp (by linarith [(abs_lt.mp hk.1).2])
  have hbelow {c : Nat} (h : y < (c : ℝ) * 2 ^ q) : r.1 < c := by
    rw [← Nat.cast_lt (α := ℝ), ← mul_lt_mul_iff_left₀ hunit]
    exact hkle.trans_lt h
  have hpow : 2 ^ f.m < 2 ^ (f.m + 1) := Nat.pow_lt_pow_right (by decide) (by omega)
  have hsig : r.1 < 2 ^ (f.m + 1) ∧ ((q - (f.emin - f.m)).toNat = 0 ∨ 2 ^ f.m ≤ r.1) := by
    rcases lt_or_ge lg f.emin with h | h
    · have hqe : q = f.emin - f.m := by omega
      refine ⟨(hbelow ?_).trans hpow, .inl (by omega)⟩
      rw [hqe, mul_comm, two_zpow_sub_natCast]
      exact hhigh.trans_le (zpow_le_zpow_right₀ one_le_two (by omega))
    · have hqlg : q = lg - f.m := by omega
      refine ⟨hbelow (hhigh.trans_eq ?_), .inr (significand_of_chooses hlow hhigh (hqlg ▸ hk)).1⟩
      rw [hqlg, mul_comm, ← two_zpow_sub_natCast (lg + 1) (f.m + 1)]
      push_cast
      ring_nf
  obtain ⟨hlt, hE⟩ := hsig
  have hexp : f.emin - f.m + ((q - (f.emin - f.m)).toNat : Int) = q := by omega
  have hmag : (magOf f ((q - (f.emin - f.m)).toNat * 2 ^ f.m + r.1) : ℝ) = r.1 * 2 ^ q := by
    rw [magOf_index hlt.le hE, hexp]
    push_cast
    rfl
  refine ⟨_, !r.2, rfl, hmag.trans_le hkle, hklt.trans_eq ?_, ?_⟩
  · rw [magOf_succ hlt hE, hexp]
    push_cast
    rw [hmag]
    ring
  · rw [Bool.not_eq_true', ← Bool.not_eq_true, hne, not_not, eq_div_iff hunit.ne', hmag]

theorem indexBelow_spec (f : Fmt) (v : Nat) (x : Int) :
    IndexBelow f (v * 2 ^ x) (indexBelow f v x).1 (indexBelow f v x).2 := by
  rcases eq_or_ne v 0 with rfl | hv
  · rw [Nat.cast_zero, zero_mul]
    have hzero : (magOf f 0 : ℝ) = 0 := by rw [magOf_zero, Rat.cast_zero]
    refine ⟨Nat.zero_le _, hzero.le, fun j _ hj => ?_, fun _ _ => hzero, nofun⟩
    rwa [← hzero, magOf_cast_le] at hj
  · obtain ⟨n, exact, heq, hle, hlt, hexact⟩ := indexBelow_of_ne_zero f hv x
    rw [heq]
    have hmin : (magOf f (min n f.infBits) : ℝ) ≤ magOf f n := magOf_cast_le.mpr (min_le_left ..)
    refine ⟨min_le_right .., hmin.trans hle, fun j hj hjle => ?_, fun h hi => ?_, fun h => ?_⟩
    · exact le_min (Nat.le_of_lt_succ (magOf_cast_lt.mp (hjle.trans_lt hlt))) hj
    · rw [min_eq_left (min_lt_iff.mp hi |>.resolve_right (lt_irrefl _)).le]
      exact hexact.mp h
    · refine hmin.trans_lt (hle.lt_of_ne fun h' => ?_)
      rw [hexact.mpr h'] at h
      cases h

/-- The bounds of `indexRange`, of a number `a` and a number `b` that is not negative. -/
structure IndexRange (f : Fmt) (a b : ℝ) (r : Int × Int) : Prop where
  ge_of_le : ∀ i, r.1 ≤ i → i < f.infBits → a ≤ indexVal f i
  le_of_le : ∀ i ≤ r.2, indexVal f i ≤ b
  upper_le_top : r.2 ≤ f.infBits
  mem : ∀ j : Nat, j ≤ f.infBits → a ≤ magOf f j → (magOf f j : ℝ) ≤ b → r.1 ≤ j ∧ j ≤ r.2
  beyond : (2 : ℝ) ^ (f.bias + 1) ≤ a → (f.infBits : Int) ≤ r.1
  above : -(2 : ℝ) ^ (f.bias + 1) < a → -(f.infBits : Int) < r.1

theorem indexRange_spec (hf : f.Sound) (a : Int) {b x : Int} (hb : 0 ≤ b) :
    IndexRange f (a * 2 ^ x) (b * 2 ^ x) (indexRange f a b x) := by
  have hbcast : (b : ℝ) = b.toNat := by exact_mod_cast (Int.toNat_of_nonneg hb).symm
  have hdown : (indexRange f a b x).2 = (indexBelow f b.toNat x).1 := by
    rw [indexRange]
    exact if_pos hb
  have htop := magOf_infBits_cast hf
  obtain ⟨hdtop, hdle, hdgreatest, -, -⟩ := indexBelow_spec f b.toNat x
  rw [← hbcast] at hdle hdgreatest
  have hle : ∀ i ≤ (indexRange f a b x).2, indexVal f i ≤ b * 2 ^ x := fun i hi => by
    refine (indexVal_mono f hi).trans ?_
    rw [hdown, indexVal_natCast]
    exact hdle
  have hmem (j : Nat) (hj : j ≤ f.infBits) (hjb : (magOf f j : ℝ) ≤ b * 2 ^ x) : (j : Int) ≤ (indexRange f a b x).2 := by
    rw [hdown]
    exact_mod_cast hdgreatest j hj hjb
  have hdtop' : (indexRange f a b x).2 ≤ f.infBits := by rw [hdown]; exact_mod_cast hdtop
  rcases lt_or_ge a 0 with ha | ha
  · have hacast : (a : ℝ) = -(a.natAbs : ℝ) := by
      rw [Nat.cast_natAbs, abs_of_neg ha]
      push_cast
      ring
    have hup : (indexRange f a b x).1 = -((indexBelow f a.natAbs x).1 : Int) := by
      rw [indexRange]
      exact if_neg ha.not_ge
    obtain ⟨hutop, hule, -, -, -⟩ := indexBelow_spec f a.natAbs x
    have haneg : (a : ℝ) * 2 ^ x ≤ 0 := by
      rw [hacast]
      have : (0 : ℝ) ≤ a.natAbs * 2 ^ x := by positivity
      linarith
    refine ⟨fun i hi _ => ?_, hle, hdtop', fun j hj _ hjb => ⟨by rw [hup]; omega, hmem j hj hjb⟩, fun h => ?_, fun h => ?_⟩
    · refine le_trans ?_ (indexVal_mono f hi)
      rw [hup, indexVal_neg_natCast, hacast]
      linarith
    · have : (0 : ℝ) < 2 ^ (f.bias + 1) := by positivity
      linarith
    · rw [hup, neg_lt_neg_iff, Nat.cast_lt, ← magOf_cast_lt (f := f), htop]
      rw [hacast] at h
      linarith
  · have hacast : (a : ℝ) = a.toNat := by exact_mod_cast (Int.toNat_of_nonneg ha).symm
    have hup : (indexRange f a b x).1 =
        if (indexBelow f a.toNat x).2 then ((indexBelow f a.toNat x).1 : Int) else (indexBelow f a.toNat x).1 + 1 := by
      rw [indexRange]
      exact if_pos ha
    obtain ⟨hutop, hule, hugreatest, huequal, huless⟩ := indexBelow_spec f a.toNat x
    rw [← hacast] at hule hugreatest huequal huless
    have hlow : ((indexBelow f a.toNat x).1 : Int) ≤ (indexRange f a b x).1 := by
      rw [hup]
      split <;> omega
    refine ⟨fun i hi hi' => ?_, hle, hdtop', fun j hj hja hjb => ⟨?_, hmem j hj hjb⟩, fun h => ?_, fun _ => ?_⟩
    · obtain ⟨n, rfl⟩ := Int.eq_ofNat_of_zero_le (show 0 ≤ i by omega)
      rw [indexVal_natCast]
      rw [hup] at hi
      cases hexact : (indexBelow f a.toNat x).2 with
      | true =>
        rw [hexact, if_pos rfl] at hi
        rw [← huequal hexact (by omega), magOf_cast_le]
        omega
      | false =>
        rw [hexact, if_neg Bool.false_ne_true] at hi
        refine le_of_not_ge fun hge => ?_
        have := hugreatest n (by omega) hge
        omega
    · rw [hup]
      cases hexact : (indexBelow f a.toNat x).2 with
      | true =>
        rw [if_pos rfl, Nat.cast_le, ← magOf_cast_le (f := f)]
        exact hule.trans hja
      | false =>
        have := magOf_cast_lt.mp ((huless hexact).trans_le hja)
        rw [if_neg Bool.false_ne_true]
        omega
    · have := hugreatest f.infBits le_rfl (htop.trans_le h)
      omega
    · have := infBits_pos hf
      omega

end Sys2Proof.Machine

end

section

namespace Sys2Proof.Machine

variable {f : Fmt} {b lo hi : Nat} {x : Int} {y : ℝ}

/-! ## A value within the bound (06 R130) -/

/-- The exponent of the last place of a format at the magnitude lo x 2^x. -/
def lastPlace (f : Fmt) (lo : Nat) (x : Int) : Int := max ((lo.log2 : Int) + x) f.emin - f.m

/-- The interval from lo x 2^x to hi x 2^x holds the magnitude `y`, and is so narrow that `within` delivers a value within
the bound. The values that are not too far below the interval's upper end may be named instead of that end. -/
structure Encloses (f : Fmt) (b lo hi : Nat) (x : Int) (y : ℝ) : Prop where
  pos : 0 < y
  le : (lo : ℝ) * 2 ^ x ≤ y
  ordered : lo ≤ hi
  fine : x ≤ lastPlace f lo x
  small : lo = 0 → x ≤ f.emin
  narrow : hi ≤ lo + 2 ^ (lastPlace f lo x - x).toNat
  upper : ∀ i : Int, (hi : ℝ) * 2 ^ x - b * 2 ^ lastPlace f lo x ≤ indexVal f i →
    y - b * 2 ^ lastPlace f lo x ≤ indexVal f i
  beyond : (2 : ℝ) ^ (f.bias + 1) ≤ y → (2 : ℝ) ^ (f.bias + 1) ≤ (hi : ℝ) * 2 ^ x - b * 2 ^ lastPlace f lo x

theorem two_pow_toNat_mul (h : x ≤ lastPlace f lo x) :
    (2 : ℝ) ^ (lastPlace f lo x - x).toNat * 2 ^ x = 2 ^ lastPlace f lo x := by
  rw [← zpow_natCast, ← zpow_add₀ two_ne_zero, Int.toNat_of_nonneg (by omega), sub_add_cancel]

/-- A magnitude's exponent, at least that of a lower bound. -/
theorem log2_add_le_of_le {e : Int} (hlo : lo ≠ 0) (h : (lo : ℝ) * 2 ^ x ≤ y) (hy : y < 2 ^ (e + 1)) :
    (lo.log2 : Int) + x ≤ e := by
  have hlow := (significand_bounds (x := 0) hlo le_rfl one_pos x).1
  rw [add_zero] at hlow
  have hlt := (hlow.trans h).trans_lt hy
  rw [zpow_lt_zpow_iff_right₀ one_lt_two] at hlt
  omega

theorem Encloses.lastPlace_le (h : Encloses f b lo hi x y) {e : Int} (hy : y < 2 ^ (e + 1)) :
    lastPlace f lo x ≤ max e f.emin - f.m := by
  rw [lastPlace]
  rcases eq_or_ne lo 0 with hlo | hlo
  · have hsmall := h.small hlo
    rw [hlo, Nat.log2_zero]
    omega
  · have := log2_add_le_of_le hlo h.le hy
    omega

/-- From a magnitude's index to the next is no more than the last place there. -/
theorem magOf_succ_le {g : Nat} (hlo : (magOf f g : ℝ) ≤ lo * 2 ^ x) :
    (magOf f (g + 1) : ℝ) ≤ magOf f g + 2 ^ lastPlace f lo x := by
  obtain ⟨E, k, rfl, hk, hE⟩ := exists_index f g
  rw [magOf_succ hk hE]
  push_cast
  refine add_le_add_right (zpow_le_zpow_right₀ one_le_two ?_) _
  rw [lastPlace]
  rcases Nat.eq_zero_or_pos E with rfl | hpos
  · omega
  · have hkE := hE.resolve_left hpos.ne'
    have hmag : (2 : ℝ) ^ (f.emin + E) ≤ lo * 2 ^ x := by
      refine le_trans ?_ hlo
      rw [magOf_index hk.le hE, show f.emin + (E : Int) = f.emin + E from rfl]
      push_cast
      rw [← two_zpow_sub_natCast (f.emin + E) f.m, mul_comm, show f.emin + (E : Int) - f.m = f.emin - f.m + E by ring]
      exact mul_le_mul_of_nonneg_right (Nat.cast_le.mpr hkE) (by positivity)
    have hlo0 : lo ≠ 0 := fun h => by
      rw [h, Nat.cast_zero, zero_mul] at hmag
      exact absurd hmag (not_le.mpr (by positivity))
    have hhigh := (significand_bounds (x := 0) hlo0 le_rfl one_pos x).2
    rw [add_zero] at hhigh
    have hlt := hmag.trans_lt hhigh
    rw [zpow_lt_zpow_iff_right₀ one_lt_two] at hlt
    omega

/-- Where the interval begins within the format, some value of the format is within the bound of all of it. -/
theorem Encloses.exists_index (hf : f.Sound) (h : Encloses f b lo hi x y) (hb : 1 ≤ b)
    (hlo : (lo : ℝ) * 2 ^ x < 2 ^ (f.bias + 1)) :
    ∃ j ≤ f.infBits, (hi : ℝ) * 2 ^ x - b * 2 ^ lastPlace f lo x ≤ magOf f j ∧
      (magOf f j : ℝ) ≤ lo * 2 ^ x + b * 2 ^ lastPlace f lo x := by
  obtain ⟨htop, hle, hgreatest, -, -⟩ := indexBelow_spec f lo x
  set g := (indexBelow f lo x).1
  have hunit : (0 : ℝ) < 2 ^ lastPlace f lo x := by positivity
  have hg : g < f.infBits := by
    rw [← magOf_cast_lt (f := f), magOf_infBits_cast hf]
    exact hle.trans_lt hlo
  have hgt : (lo : ℝ) * 2 ^ x < magOf f (g + 1) := not_le.mp fun hnot => by
    have := hgreatest (g + 1) hg hnot
    omega
  have hnarrow : (hi : ℝ) * 2 ^ x ≤ lo * 2 ^ x + 2 ^ lastPlace f lo x := by
    have hcast : (hi : ℝ) ≤ lo + 2 ^ (lastPlace f lo x - x).toNat := by exact_mod_cast h.narrow
    rw [← two_pow_toNat_mul h.fine, ← add_mul]
    exact mul_le_mul_of_nonneg_right hcast (by positivity)
  have hbound : (2 : ℝ) ^ lastPlace f lo x ≤ b * 2 ^ lastPlace f lo x :=
    le_mul_of_one_le_left hunit.le (Nat.one_le_cast.mpr hb)
  have hsucc := magOf_succ_le hle
  exact ⟨g + 1, hg, by linarith, by linarith⟩

/-- The lower end of the range is above the negative infinity. -/
theorem Encloses.lower_above (hf : f.Sound) (h : Encloses f b lo hi x y) (hb : b ≤ 2) :
    -(2 : ℝ) ^ (f.bias + 1) < (hi : ℝ) * 2 ^ x - b * 2 ^ lastPlace f lo x := by
  have hunit : (0 : ℝ) < 2 ^ x := by positivity
  have hbound : (b : ℝ) * 2 ^ lastPlace f lo x ≤ 2 ^ (lastPlace f lo x + 1) := by
    rw [zpow_add_one₀ two_ne_zero, mul_comm]
    exact mul_le_mul_of_nonneg_left (by exact_mod_cast hb) (by positivity)
  have hordered : (lo : ℝ) * 2 ^ x ≤ hi * 2 ^ x := mul_le_mul_of_nonneg_right (Nat.cast_le.mpr h.ordered) hunit.le
  have htop : (0 : ℝ) < 2 ^ (f.bias + 1) := by positivity
  have hfrac := hf.frac
  rcases le_or_gt ((lo.log2 : Int) + x) f.emin with hsub | hnorm
  · have hlast : (2 : ℝ) ^ (lastPlace f lo x + 1) < 2 ^ (f.bias + 1) := by
      rw [← zpow_natCast]
      refine zpow_lt_zpow_right₀ one_lt_two ?_
      have := hf.frac.trans hf.frac_le_bias
      rw [lastPlace, Fmt.emin] at *
      omega
    have : (0 : ℝ) ≤ lo * 2 ^ x := by positivity
    linarith
  · have hlo : lo ≠ 0 := fun hlo => by
      have hsmall := h.small hlo
      rw [hlo, Nat.log2_zero] at hnorm
      omega
    have hlow := (significand_bounds (x := 0) hlo le_rfl one_pos x).1
    rw [add_zero] at hlow
    have hlast : (2 : ℝ) ^ (lastPlace f lo x + 1) ≤ 2 ^ ((lo.log2 : Int) + x) :=
      zpow_le_zpow_right₀ one_le_two (by rw [lastPlace]; omega)
    linarith

/-- The index that `within` takes. -/
def withinIndex (f : Fmt) (r : Int × Int) (pick : Nat) : Int := min (r.1 + (pick % (r.2 - r.1 + 1).toNat : Nat)) f.infBits

/-- What that index is: that of a value within the bound, or of an infinity. -/
theorem Encloses.withinIndex_spec (hf : f.Sound) (h : Encloses f b lo hi x y) (hb1 : 1 ≤ b) (hb2 : b ≤ 2) {r : Int × Int}
    (hr : IndexRange f ((hi : ℝ) * 2 ^ x - b * 2 ^ lastPlace f lo x) (lo * 2 ^ x + b * 2 ^ lastPlace f lo x) r)
    (pick : Nat) :
    -(f.infBits : Int) < withinIndex f r pick ∧ withinIndex f r pick ≤ f.infBits ∧
      (withinIndex f r pick < f.infBits → |indexVal f (withinIndex f r pick) - y| ≤ b * 2 ^ lastPlace f lo x) ∧
      ((2 : ℝ) ^ (f.bias + 1) ≤ y → withinIndex f r pick = f.infBits) ∧
      (withinIndex f r pick = f.infBits → (2 : ℝ) ^ (f.bias + 1) ≤ y + b * 2 ^ lastPlace f lo x) := by
  have habove := hr.above (h.lower_above hf hb2)
  have hge : r.1 ≤ r.1 + (pick % (r.2 - r.1 + 1).toNat : Nat) := by omega
  have hbeyond (hy : (2 : ℝ) ^ (f.bias + 1) ≤ y) : withinIndex f r pick = f.infBits := by
    have := hr.beyond (h.beyond hy)
    rw [withinIndex]
    omega
  have hpos : (0 : ℝ) ≤ b * 2 ^ lastPlace f lo x := by positivity
  have hinf := infBits_pos hf
  refine ⟨by rw [withinIndex]; omega, min_le_right .., fun hlt => ?_, hbeyond, fun heq => ?_⟩
  all_goals
    rcases lt_or_ge ((lo : ℝ) * 2 ^ x) (2 ^ (f.bias + 1)) with hlo | hlo
  · obtain ⟨j, hj, hja, hjb⟩ := h.exists_index hf hb1 hlo
    obtain ⟨hj1, hj2⟩ := hr.mem j hj hja hjb
    have hmod := Nat.mod_lt pick (show 0 < (r.2 - r.1 + 1).toNat by omega)
    have hupper := hr.upper_le_top
    have hidx : withinIndex f r pick = r.1 + (pick % (r.2 - r.1 + 1).toNat : Nat) := by rw [withinIndex]; omega
    have hle := hr.le_of_le (withinIndex f r pick) (by omega)
    have hlow := h.upper _ (hr.ge_of_le (withinIndex f r pick) (by omega) hlt)
    rw [abs_le]
    exact ⟨by linarith, by linarith [h.le]⟩
  · exact absurd (hbeyond (hlo.trans h.le)) hlt.ne
  · obtain ⟨j, hj, hja, hjb⟩ := h.exists_index hf hb1 hlo
    obtain ⟨hj1, hj2⟩ := hr.mem j hj hja hjb
    have hmod := Nat.mod_lt pick (show 0 < (r.2 - r.1 + 1).toNat by omega)
    have hupper := hr.upper_le_top
    have hle := hr.le_of_le (withinIndex f r pick) (by rw [withinIndex]; omega)
    rw [heq, indexVal_natCast, magOf_infBits_cast hf] at hle
    linarith [h.le]
  · linarith [h.le]

/-- A signed index is the number of its pattern. -/
theorem signed_indexVal (f : Fmt) (i : Int) (neg : Bool) :
    (if (if i.natAbs = 0 then neg else (decide (i < 0)) != neg) then -(magOf f i.natAbs : ℝ) else magOf f i.natAbs) =
      (if neg then -1 else 1) * indexVal f i := by
  rw [indexVal]
  rcases lt_trichotomy i 0 with hi | rfl | hi
  · have hne : i.natAbs ≠ 0 := by omega
    cases neg <;> simp [hne, hi]
  · rw [Int.natAbs_zero, magOf_zero]
    cases neg <;> simp
  · have hne : i.natAbs ≠ 0 := by omega
    cases neg <;> simp [hne, hi.not_gt]

/-- 06 R130: a value that `within` delivers is within the bound of the number that its interval encloses. -/
theorem within_withinUlps (hf : f.Sound) (hb1 : 1 ≤ b) (hb2 : b ≤ 2) {neg : Bool} (hneg : neg = true ↔ y < 0)
    (h : Encloses f b lo hi x |y|) (pick : Nat) : WithinUlps f b y (within f b neg lo hi x pick) := by
  have hd : ((b * 2 ^ (lastPlace f lo x - x).toNat : Nat) : ℝ) * 2 ^ x = b * 2 ^ lastPlace f lo x := by
    push_cast
    rw [mul_assoc, two_pow_toNat_mul h.fine]
  have hr := indexRange_spec hf ((hi : Int) - (b * 2 ^ (lastPlace f lo x - x).toNat : Nat))
    (b := lo + (b * 2 ^ (lastPlace f lo x - x).toNat : Nat)) (x := x) (by positivity)
  simp only [Int.cast_sub, Int.cast_add, Int.cast_natCast, sub_mul, add_mul, hd] at hr
  set r := indexRange f ((hi : Int) - (b * 2 ^ (lastPlace f lo x - x).toNat : Nat))
    (lo + (b * 2 ^ (lastPlace f lo x - x).toNat : Nat)) x with hrdef
  obtain ⟨habove, hle, hfin, hbeyond, hinf⟩ := h.withinIndex_spec hf hb1 hb2 hr pick
  have hwithin : within f b neg lo hi x pick =
      (f.signed (if (withinIndex f r pick).natAbs = 0 then neg else (decide (withinIndex f r pick < 0)) != neg)
        (withinIndex f r pick).natAbs,
      fINX ||| flagIf (withinIndex f r pick = (f.infBits : Int)) fOVF |||
        flagIf (decide ((withinIndex f r pick).natAbs < 2 ^ f.m)) fUNF) := rfl
  rw [hwithin]
  set i := withinIndex f r pick
  have hpos := infBits_pos hf
  have htop : i.natAbs = f.infBits ↔ i = f.infBits := by omega
  have hy : y = (if neg then -1 else 1) * |y| := by
    rcases lt_or_ge y 0 with hlt | hge
    · rw [if_pos (hneg.mpr hlt), abs_of_neg hlt]
      ring
    · rw [if_neg fun hn => (hneg.mp hn).not_ge hge, abs_of_nonneg hge, one_mul]
  have hlog := Int.lt_zpow_succ_log_self (b := 2) one_lt_two |y|
  have hulp : (b : ℝ) * 2 ^ lastPlace f lo x ≤ b * 2 ^ (max (Int.log 2 |y|) f.emin - (f.m : Int)) :=
    mul_le_mul_of_nonneg_left (zpow_le_zpow_right₀ one_le_two (h.lastPlace_le (by exact_mod_cast hlog))) (Nat.cast_nonneg b)
  refine ⟨Int.log 2 |y|, _, i.natAbs, by exact_mod_cast Int.zpow_log_le_self one_lt_two h.pos, by exact_mod_cast hlog, rfl,
    by omega, fun hn => ?_, fun hn => htop.mpr (hbeyond hn), fun hn => ⟨?_, ?_⟩, ?_⟩
  · have hdiff : (if neg then -1 else 1) * indexVal f i - y = (if neg then -1 else 1) * (indexVal f i - |y|) := by
      rw [mul_sub, ← hy]
    rw [signed_indexVal, hdiff, abs_signed]
    exact (hfin (by omega)).trans hulp
  · rw [if_neg (by omega), decide_eq_false (by omega), Bool.false_bne, hneg]
  · exact (hinf (htop.mp hn)).trans (by linarith)
  · simp only [flagIf, decide_eq_true_eq, htop]

end Sys2Proof.Machine

end

section

namespace Sys2Proof.Machine

variable {f : Fmt} {b lo hi : Nat} {x : Int} {y : ℝ}

/-! ## An interval that ends below a power of two -/

/-- A magnitude is a multiple of the last place of its binade and of every one below. -/
theorem magOf_multiple (f : Fmt) (n : Nat) {c : Int} (h : c ≤ f.emin ∨ (2 : ℝ) ^ c ≤ magOf f n) :
    ∃ t : Nat, (magOf f n : ℝ) = t * 2 ^ (c - f.m) := by
  obtain ⟨E, k, rfl, hk, hE⟩ := exists_index f n
  have hmag : (magOf f (E * 2 ^ f.m + k) : ℝ) = k * 2 ^ (f.emin - f.m + E) := by
    rw [magOf_index hk.le hE]
    push_cast
    rfl
  have hc : c ≤ f.emin + E := by
    rcases h with h | h
    · omega
    · rw [hmag] at h
      have hlt : (k : ℝ) * 2 ^ (f.emin - f.m + E) < 2 ^ (f.emin + E + 1) := by
        rw [← two_zpow_sub_natCast (f.emin + E + 1) (f.m + 1), mul_comm,
          show f.emin + (E : Int) + 1 - ((f.m + 1 : Nat) : Int) = f.emin - f.m + E by push_cast; ring]
        exact mul_lt_mul_of_pos_left (Nat.cast_lt.mpr hk) (by positivity)
      have := h.trans_lt hlt
      rw [zpow_lt_zpow_iff_right₀ one_lt_two] at this
      omega
  refine ⟨k * 2 ^ (f.emin + E - c).toNat, ?_⟩
  rw [hmag, Nat.cast_mul, Nat.cast_pow, Nat.cast_ofNat, mul_assoc, ← zpow_natCast, ← zpow_add₀ two_ne_zero,
    Int.toNat_of_nonneg (by omega)]
  ring_nf

theorem indexVal_multiple (f : Fmt) (i : Int) {c : Int} (h : c ≤ f.emin ∨ (2 : ℝ) ^ c ≤ indexVal f i) :
    ∃ t : Int, indexVal f i = t * 2 ^ (c - f.m) := by
  rw [indexVal] at h ⊢
  split at h <;> rename_i hi
  · have hc : c ≤ f.emin := h.resolve_right fun hle => by
      have hpos : (0 : ℝ) < 2 ^ c := by positivity
      linarith [magOf_cast_nonneg f i.natAbs]
    obtain ⟨t, ht⟩ := magOf_multiple f i.natAbs (.inl hc)
    exact ⟨-t, by rw [if_pos hi, ht]; push_cast; ring⟩
  · obtain ⟨t, ht⟩ := magOf_multiple f i.natAbs h
    exact ⟨t, by rw [if_neg hi, ht]; push_cast; ring⟩

/-- A multiple of an even power of two that is not below 2^j - 1 is not below 2^j. -/
theorem two_pow_le_of_multiple {t : Int} {g j : Nat} (hg : 0 < g) (hj : 0 < j) (h : (2 : Int) ^ j - 1 ≤ t * 2 ^ g) :
    (2 : Int) ^ j ≤ t * 2 ^ g := by
  have heven {n : Nat} (hn : 0 < n) : (2 : Int) ∣ 2 ^ n := dvd_pow_self 2 hn.ne'
  obtain ⟨a, ha⟩ := heven hj
  obtain ⟨c, hc⟩ := Dvd.dvd.mul_left (heven hg) t
  omega

/-- What is not too far below the last number before a power of two is not too far below that power, as the values of the
format stand further apart. -/
theorem upper_of_two_pow (hf : f.Sound) {j : Nat} (hlog : lo.log2 + 1 = j) (hhi : hi + 1 = 2 ^ j) (hb : b ≤ 2)
    (hfine : x < lastPlace f lo x) (hy : y ≤ 2 ^ j * 2 ^ x) (i : Int)
    (h : (hi : ℝ) * 2 ^ x - b * 2 ^ lastPlace f lo x ≤ indexVal f i) : y - b * 2 ^ lastPlace f lo x ≤ indexVal f i := by
  set u := lastPlace f lo x with hu
  have hx : (0 : ℝ) < 2 ^ x := by positivity
  have hhicast : (hi : ℝ) = 2 ^ j - 1 := by
    rw [eq_sub_iff_add_eq]
    exact_mod_cast hhi
  rw [hhicast] at h
  have hmultiple : max ((lo.log2 : Int) + x) f.emin ≤ f.emin ∨
      (2 : ℝ) ^ max ((lo.log2 : Int) + x) f.emin ≤ indexVal f i := by
    rcases le_or_gt ((lo.log2 : Int) + x) f.emin with hsub | hnorm
    · exact .inl (by omega)
    · right
      refine le_trans ?_ h
      rw [max_eq_left hnorm.le]
      have hbound : (b : ℝ) * 2 ^ u ≤ 2 ^ (u + 1) := by
        rw [zpow_add_one₀ two_ne_zero, mul_comm]
        exact mul_le_mul_of_nonneg_left (by exact_mod_cast hb) (by positivity)
      have hfrac := hf.frac
      have hlast : (2 : ℝ) ^ (u + 1) * 2 ≤ 2 ^ ((lo.log2 : Int) + x) := by
        rw [← zpow_add_one₀ two_ne_zero]
        exact zpow_le_zpow_right₀ one_le_two (by rw [hu, lastPlace]; omega)
      have hone : (2 : ℝ) ^ x * 2 ≤ 2 ^ ((lo.log2 : Int) + x) := by
        rw [← zpow_add_one₀ two_ne_zero]
        refine zpow_le_zpow_right₀ one_le_two ?_
        rw [hu, lastPlace] at hfine
        omega
      have hpow : (2 : ℝ) ^ j * 2 ^ x = 2 * 2 ^ ((lo.log2 : Int) + x) := by
        rw [← hlog, zpow_add₀ two_ne_zero, zpow_natCast, pow_succ]
        ring
      rw [sub_mul, hpow]
      linarith
  obtain ⟨t, ht⟩ := indexVal_multiple f i hmultiple
  rw [show max ((lo.log2 : Int) + x) f.emin - f.m = u from rfl] at ht
  have hgrid : (2 : ℝ) ^ u = 2 ^ (u - x).toNat * 2 ^ x := (two_pow_toNat_mul hfine.le).symm
  have hint : (2 : Int) ^ j ≤ (t + b) * 2 ^ (u - x).toNat := by
    refine two_pow_le_of_multiple (by omega) (by omega) ?_
    rw [ht, hgrid] at h
    have hmul : ((2 : ℝ) ^ j - 1) * 2 ^ x ≤ (t + b) * 2 ^ (u - x).toNat * 2 ^ x := by linarith
    exact_mod_cast le_of_mul_le_mul_right hmul hx
  have hreal : (2 : ℝ) ^ j * 2 ^ x ≤ (t + b) * 2 ^ (u - x).toNat * 2 ^ x :=
    mul_le_mul_of_nonneg_right (by exact_mod_cast hint) hx.le
  rw [ht, hgrid]
  linarith

end Sys2Proof.Machine

end

section

namespace Sys2Proof.Machine

variable {f : Fmt}

/-! ## Numbers that a format holds (06 R131) -/

/-- Rounded to an integer, a number that is one stays. -/
theorem eq_of_chooses_natCast {rnd k a : Nat} {neg : Bool} (h : Chooses rnd neg a k) : k = a :=
  le_antisymm (ge_of_chooses h le_rfl) (le_of_chooses h le_rfl)

/-- A significand of the format, at an exponent of it, is rounded to itself or beyond the format. -/
theorem exact_of_isRounded {neg : Bool} {c : Nat} {w : Int} {y : ℝ} {v : Nat × BitVec 32}
    (h : IsRounded f 0 neg y v) (hc : c < 2 ^ (f.m + 1)) (hw : f.emin - f.m ≤ w) (hy : y = c * 2 ^ w) :
    (y < 2 ^ (f.bias + 1) → ∃ n < f.infBits, v = (f.signed neg n, 0#32) ∧ (magOf f n : ℝ) = y) ∧
      ((2 : ℝ) ^ (f.bias + 1) ≤ y → v = (f.signed neg f.infBits, fOVF ||| fINX)) := by
  obtain ⟨e, k, u, hlow, hhigh, hk, hu, hover, hunder⟩ := h
  have he : e ≤ w + f.m := by
    have hlt : (c : ℝ) * 2 ^ w < 2 ^ (w + f.m + 1) := by
      rw [← two_zpow_sub_natCast (w + f.m + 1) (f.m + 1), mul_comm,
        show w + (f.m : Int) + 1 - ((f.m + 1 : Nat) : Int) = w by push_cast; ring]
      exact mul_lt_mul_of_pos_left (Nat.cast_lt.mpr hc) (by positivity)
    have := (hy ▸ hlow).trans_lt hlt
    rw [zpow_lt_zpow_iff_right₀ one_lt_two] at this
    omega
  have hinteger {q : Int} (hq : q ≤ w) : y / 2 ^ q = (c * 2 ^ (w - q).toNat : Nat) := by
    rw [hy, div_eq_iff (by positivity), Nat.cast_mul, Nat.cast_pow, Nat.cast_ofNat, mul_assoc, ← zpow_natCast,
      ← zpow_add₀ two_ne_zero, Int.toNat_of_nonneg (by omega), sub_add_cancel]
  have hexact {q : Int} {a : Nat} (hq : q ≤ w) (ha : Chooses 0 neg (y / 2 ^ q) a) : (a : ℝ) * 2 ^ q = y := by
    rw [hinteger hq] at ha
    rw [eq_of_chooses_natCast ha, ← hinteger hq, div_mul_cancel₀ _ (by positivity)]
  have hkey := hexact (by omega) hk
  have huey := hexact (by omega) hu
  rw [huey] at hover hunder
  rw [hkey] at hunder
  refine ⟨fun hlt => ?_, fun hle => ?_⟩
  · obtain ⟨⟨n, hn, hv1, hmag⟩, hv2, -⟩ := hunder hlt
    exact ⟨n, hn, Prod.ext hv1 (hv2 rfl), hmag⟩
  · simpa using hover hle

/-- A rounding that sets no flag is exact. -/
theorem exact_of_flags_eq_zero {neg : Bool} {y : ℝ} {v : Nat × BitVec 32} (h : IsRounded f 0 neg y v) (hv : v.2 = 0#32) :
    ∃ n < f.infBits, v = (f.signed neg n, 0#32) ∧ (magOf f n : ℝ) = y := by
  obtain ⟨e, k, u, -, -, -, -, hover, hunder⟩ := h
  rcases le_or_gt ((2 : ℝ) ^ (f.bias + 1)) (u * 2 ^ (e - (f.m : Int))) with hle | hlt
  · rw [hover hle] at hv
    exact absurd hv (show fOVF ||| fINX ≠ 0#32 by decide)
  · obtain ⟨⟨n, hn, hv1, hmag⟩, -, hinx, hunf⟩ := hunder hlt
    by_cases hkey : (k : ℝ) * 2 ^ (max e f.emin - (f.m : Int)) = y
    · exact ⟨n, hn, Prod.ext hv1 hv, hmag.trans hkey⟩
    · rcases le_or_gt ((2 : ℝ) ^ f.emin) (u * 2 ^ (e - (f.m : Int))) with hnorm | hsub
      · rw [hinx hkey hnorm] at hv
        exact absurd hv (by decide)
      · rw [hunf hkey hsub] at hv
        exact absurd hv (by decide)

/-- What a format holds is a significand at an exponent. -/
theorem exists_significand_of_isExact (hf : f.Sound) {y : ℝ} {v : Nat × BitVec 32} (h : IsExact f y v) :
    ∃ (c : Nat) (w : Int), c < 2 ^ (f.m + 1) ∧ f.emin - f.m ≤ w ∧ |y| = c * 2 ^ w ∧ |y| < 2 ^ (f.bias + 1) := by
  obtain ⟨neg, n, hn, -, hy⟩ := h
  obtain ⟨E, k, hidx, hk, hE⟩ := exists_index f n
  have habs : |y| = magOf f n := by
    rw [← hy]
    cases neg <;> simp [abs_of_nonneg (magOf_cast_nonneg f n)]
  refine ⟨k, f.emin - f.m + E, hk, by omega, ?_, ?_⟩
  · rw [habs, hidx, magOf_index hk.le hE]
    push_cast
    rfl
  · rw [habs, ← magOf_infBits_cast hf, magOf_cast_lt]
    exact hn

/-- An infinity with its flags is within any bound of a number beyond the format. -/
theorem withinUlps_infinity (hf : f.Sound) {b : Nat} {neg : Bool} {y : ℝ} (hneg : neg = true ↔ y < 0)
    (h : (2 : ℝ) ^ (f.bias + 1) ≤ |y|) : WithinUlps f b y (f.signed neg f.infBits, fOVF ||| fINX) := by
  have hpos : 0 < |y| := lt_of_lt_of_le (by positivity) h
  have hpow : ¬f.infBits < 2 ^ f.m := by
    have heb := hf.exp
    rw [Fmt.infBits_eq (by omega), not_lt]
    exact Nat.le_mul_of_pos_left _ (by omega)
  refine ⟨Int.log 2 |y|, neg, f.infBits, by exact_mod_cast Int.zpow_log_le_self one_lt_two hpos,
    by exact_mod_cast Int.lt_zpow_succ_log_self one_lt_two |y|, rfl, le_rfl, fun hlt => absurd hlt (lt_irrefl _),
    fun _ => rfl, fun _ => ⟨hneg, ?_⟩, ?_⟩
  · exact h.trans (le_add_of_nonneg_right (by positivity))
  · rw [if_pos rfl, if_neg hpow]
    show fOVF ||| fINX = fINX ||| fOVF ||| 0#32
    decide

/-- A number that is a power of two, rounded: exact, or beyond the format. -/
theorem approximates_of_isRounded (hf : f.Sound) {b : Nat} {neg : Bool} {y : ℝ} {v : Nat × BitVec 32} {c : Nat} {w : Int}
    (hneg : neg = true ↔ y < 0) (h : IsRounded f 0 neg |y| v) (hc : c < 2 ^ (f.m + 1)) (hw : f.emin - f.m ≤ w)
    (hy : |y| = c * 2 ^ w) : Approximates f b y v := by
  obtain ⟨hexact, hover⟩ := exact_of_isRounded h hc hw hy
  rcases lt_or_ge |y| (2 ^ (f.bias + 1)) with hlt | hge
  · obtain ⟨n, hn, hv, hmag⟩ := hexact hlt
    have hval : IsExact f y v := by
      refine ⟨neg, n, hn, hv, ?_⟩
      rw [hmag]
      rcases lt_or_ge y 0 with hy0 | hy0
      · rw [if_pos (hneg.mpr hy0), abs_of_neg hy0, neg_neg]
      · rw [if_neg fun hn => (hneg.mp hn).not_ge hy0, abs_of_nonneg hy0]
    exact ⟨fun _ => hval, .inl hval⟩
  · refine ⟨fun ⟨w, hw⟩ => ?_, .inr ?_⟩
    · obtain ⟨-, -, -, -, -, hlt⟩ := exists_significand_of_isExact hf hw
      exact absurd hlt hge.not_gt
    · rw [hover hge]
      exact withinUlps_infinity hf hneg hge

/-- Of a number that the format does not hold any value within the bound will do. -/
theorem approximates_of_withinUlps {b : Nat} {y : ℝ} {v : Nat × BitVec 32} (h : WithinUlps f b y v)
    (hnot : ¬∃ w, IsExact f y w) : Approximates f b y v := ⟨fun hw => absurd hw hnot, .inr h⟩

/-! ## Powers of two that are rational -/

/-- A rational power of two that is rational has an integer exponent. -/
theorem integer_of_two_rpow_rational {y r : ℚ} (h : (2 : ℝ) ^ (y : ℝ) = r) : ∃ k : Int, y = k := by
  have hden : (y.den : ℝ) ≠ 0 := Nat.cast_ne_zero.mpr y.den_nz
  have hpow : r ^ y.den = (2 : ℚ) ^ y.num := by
    have hreal : ((r : ℝ)) ^ y.den = (2 : ℝ) ^ y.num := by
      rw [← h, ← Real.rpow_natCast, ← Real.rpow_mul two_pos.le, ← Real.rpow_intCast]
      congr 1
      rw [Rat.cast_def, div_mul_cancel₀ _ hden]
    exact Rat.cast_injective (α := ℝ) (by push_cast; exact hreal)
  have hself : padicValRat 2 (2 : ℚ) = 1 := by exact_mod_cast padicValRat.self (p := 2) one_lt_two
  have hval := congrArg (padicValRat 2) hpow
  rw [padicValRat.pow, padicValRat.zpow, hself, mul_one] at hval
  refine ⟨padicValRat 2 r, ?_⟩
  rw [← Rat.num_div_den y, ← hval]
  push_cast
  rw [mul_comm, mul_div_assoc, div_self (Nat.cast_ne_zero.mpr y.den_nz), mul_one]

end Sys2Proof.Machine

end

section

namespace Sys2Proof.Machine

variable {f : Fmt}

/-! ## Finite data -/

/-- A significand and an exponent of the format. -/
structure Fmt.Holds (f : Fmt) (m : Nat) (e : Int) : Prop where
  lt : m < 2 ^ (f.m + 1)
  least : f.emin - f.m ≤ e
  normal : e = f.emin - f.m ∨ 2 ^ f.m ≤ m
  below : m ≠ 0 → (m.log2 : Int) + e ≤ f.bias

theorem holds_of_decodeF (hf : f.Sound) {x m : Nat} {n : Bool} {e : Int} (h : decodeF f x = .fin n m e) : f.Holds m e := by
  have hfin : x % 2 ^ (f.eb + f.m) < f.infBits := by
    rcases lt_trichotomy (x % 2 ^ (f.eb + f.m)) f.infBits with hlt | heq | hgt
    · exact hlt
    · rw [decodeF_inf heq] at h
      cases h
    · rw [decodeF_nan hgt] at h
      cases h
  obtain ⟨E, k, hv, hidx, hk, hE⟩ := decodeF_fin hfin
  rw [hv] at h
  cases h
  refine ⟨hk, by omega, hE.imp_left (by rintro rfl; simp), fun hm => ?_⟩
  have hlow := (significand_bounds (x := 0) hm le_rfl one_pos (f.emin - f.m + E)).1
  have hmag : (m : ℝ) * 2 ^ (f.emin - f.m + E) < 2 ^ (f.bias + 1) := by
    rw [← magOf_infBits_cast hf]
    refine lt_of_eq_of_lt ?_ (magOf_cast_lt.mpr hfin)
    rw [hidx, magOf_index hk.le hE]
    push_cast
    rfl
  rw [add_zero] at hlow
  have hlt := hlow.trans_lt hmag
  rw [← zpow_natCast, zpow_lt_zpow_iff_right₀ one_lt_two] at hlt
  push_cast at hlt
  omega

/-- The magnitude of a finite datum, as a real number. -/
theorem abs_cast_numOf_fin (n : Bool) (m : Nat) (e : Int) : |((numOf (.fin n m e) : ℚ) : ℝ)| = m * 2 ^ e := by
  rw [← Rat.cast_abs, abs_numOf_fin]
  push_cast
  rfl

theorem cast_numOf_fin (n : Bool) (m : Nat) (e : Int) :
    ((numOf (.fin n m e) : ℚ) : ℝ) = (if n then -1 else 1) * (m * 2 ^ e) := by
  rw [numOf_fin]
  cases n <;> push_cast <;> simp

theorem cast_numOf_fin_neg_iff {n : Bool} {m : Nat} {e : Int} (hm : m ≠ 0) :
    n = true ↔ ((numOf (.fin n m e) : ℚ) : ℝ) < 0 := by
  have hpos : (0 : ℝ) < m * 2 ^ e := by
    have : (0 : ℝ) < m := Nat.cast_pos.mpr (Nat.pos_of_ne_zero hm)
    positivity
  rw [cast_numOf_fin]
  cases n <;> simp [hpos, hpos.le]

/-- A power of two, rounded. -/
theorem isRounded_two_zpow (hf : f.Sound) (neg : Bool) (k : Int) : IsRounded f 0 neg (2 ^ k) (roundTo f 0 neg 1 k false) := by
  simpa using roundTo_isRounded hf (neg := neg) (e := k) one_ne_zero (Nat.zero_le 4) sticky_false nofun

theorem approximates_two_zpow (hf : f.Sound) {b : Nat} {neg : Bool} {y : ℝ} {k : Int} (hneg : neg = true ↔ y < 0)
    (hy : |y| = 2 ^ k) (hk : f.emin - f.m ≤ k) : Approximates f b y (roundTo f 0 neg 1 k false) := by
  refine approximates_of_isRounded (c := 1) hf hneg ?_ (Nat.one_lt_two_pow (by omega)) hk
      (by rw [hy, Nat.cast_one, one_mul])
  rw [hy]
  exact isRounded_two_zpow hf neg k

/-! ## Intervals of one unit -/

/-- An interval whose upper end is above the number. -/
theorem upper_of_le {b lo hi : Nat} {x : Int} {y : ℝ} (h : y ≤ hi * 2 ^ x) (i : Int)
    (hi' : (hi : ℝ) * 2 ^ x - b * 2 ^ lastPlace f lo x ≤ indexVal f i) : y - b * 2 ^ lastPlace f lo x ≤ indexVal f i := by
  linarith

/-- The floor of a number of many bits and the next integer enclose it. -/
theorem encloses_floor (hf : f.Sound) {b q : Nat} {x : Int} {y : ℝ} (hq : 2 ^ 255 ≤ q) (hlow : (q : ℝ) * 2 ^ x ≤ y)
    (hhigh : y ≤ (q + 1 : Nat) * 2 ^ x)
    (hover : (2 : ℝ) ^ (f.bias + 1) ≤ y → (2 : ℝ) ^ (f.bias + 1) ≤ y - b * 2 ^ lastPlace f q x) :
    Encloses f b q (q + 1) x y := by
  have hq0 : q ≠ 0 := by
    have := Nat.two_pow_pos 255
    omega
  have hlog : 255 ≤ q.log2 := (Nat.le_log2 hq0).mpr hq
  have hfrac := hf.frac_le
  refine ⟨lt_of_lt_of_le ?_ hlow, hlow, Nat.le_succ q, by rw [lastPlace]; omega, fun h => absurd h hq0,
    Nat.add_le_add_left Nat.one_le_two_pow q, upper_of_le hhigh, fun h => (hover h).trans (sub_le_sub_right hhigh _)⟩
  have : (0 : ℝ) < q := Nat.cast_pos.mpr (Nat.pos_of_ne_zero hq0)
  positivity

/-- Factors of a power of two are powers of two. -/
theorem two_pow_of_mul {c m : Nat} {z : Int} (h : (c : ℝ) * m * 2 ^ z = 1) : (∃ j : Nat, c = 2 ^ j) ∧
    ∃ j : Nat, m = 2 ^ j := by
  have hne : ((c * m : Nat) : ℝ) ≠ 0 := fun h0 => by
    rw [← Nat.cast_mul, h0, zero_mul] at h
    exact zero_ne_one h
  have hpow : ((c * m : Nat) : ℝ) = 2 ^ (-z) := by
    rw [zpow_neg, Nat.cast_mul]
    exact eq_inv_of_mul_eq_one_left h
  have hz : 0 ≤ -z := by
    by_contra hneg
    have hlt : (2 : ℝ) ^ (-z) < 1 := zpow_lt_one_of_neg₀ one_lt_two (not_le.mp hneg)
    rw [← hpow] at hlt
    exact hne (by exact_mod_cast Nat.lt_one_iff.mp (by exact_mod_cast hlt))
  have hnat : c * m = 2 ^ (-z).toNat := by
    rw [← Int.toNat_of_nonneg hz, zpow_natCast] at hpow
    exact_mod_cast hpow
  obtain ⟨i, -, hi⟩ := (Nat.dvd_prime_pow Nat.prime_two).mp (Dvd.intro m hnat)
  obtain ⟨j, -, hj⟩ := (Nat.dvd_prime_pow Nat.prime_two).mp (Dvd.intro_left c hnat)
  exact ⟨⟨i, hi⟩, j, hj⟩

/-! ## `vrcp` (06 R130, R131) -/

/-- The reciprocal of a number that is no power of two is none of the format's. -/
theorem not_isExact_reciprocal (hf : f.Sound) {n : Bool} {m : Nat} {e : Int} (hm0 : m ≠ 0) (hm : m ≠ 2 ^ m.log2) :
    ¬∃ w, IsExact f (1 / (numOf (.fin n m e) : ℚ) : ℝ) w := by
  rintro ⟨w, hw⟩
  obtain ⟨c, z, -, -, hval, -⟩ := exists_significand_of_isExact hf hw
  rw [abs_div, abs_one, abs_cast_numOf_fin] at hval
  have hmR : (m : ℝ) ≠ 0 := Nat.cast_ne_zero.mpr hm0
  have hone : (c : ℝ) * m * 2 ^ (z + e) = 1 := by
    rw [zpow_add₀ two_ne_zero]
    have := (div_eq_iff (by positivity)).mp hval
    linarith
  obtain ⟨-, j, rfl⟩ := two_pow_of_mul hone
  rw [Nat.log2_two_pow] at hm
  exact hm rfl

/-- A reciprocal beyond the format is so even after a unit of the last place. -/
theorem reciprocal_beyond {m q : Nat} {e : Int} (hm : m ≠ 0) (h : f.Holds m e) (hqlog : q.log2 = 255)
    (hlt : 2 ^ m.log2 < m) (hover : (2 : ℝ) ^ (f.bias + 1) ≤ 1 / (m * 2 ^ e)) :
    (2 : ℝ) ^ (f.bias + 1) ≤ 1 / (m * 2 ^ e) - (1 : Nat) * 2 ^ lastPlace f q (-e - m.log2 - 256) := by
  set L := m.log2
  have hmR : (0 : ℝ) < m := Nat.cast_pos.mpr (Nat.pos_of_ne_zero hm)
  have hhigh : m + 1 ≤ 2 ^ (L + 1) := Nat.lt_log2_self
  have hemin : f.emin = 1 - f.bias := rfl
  have hinv : (1 : ℝ) / (m * 2 ^ e) = 2 ^ (-e) / m := by
    rw [zpow_neg]
    field_simp
  have htop : (f.bias : Int) + 1 ≤ -e - L - 1 := by
    have hy : (2 : ℝ) ^ (-e) / m < 2 ^ (-e - L) := by
      rw [div_lt_iff₀ hmR, ← two_zpow_sub_natCast (-e) L]
      exact mul_lt_mul_of_pos_left (Nat.cast_lt.mpr hlt) (by positivity)
    have := (hinv ▸ hover).trans_lt hy
    rw [← zpow_natCast, zpow_lt_zpow_iff_right₀ one_lt_two] at this
    push_cast at this
    omega
  have hsub : m ≤ 2 ^ f.m := by
    by_contra hge
    have hL : f.m ≤ L := (Nat.le_log2 hm).mpr (by omega)
    have := h.least
    omega
  have hlast : lastPlace f q (-e - L - 256) = -e - L - 1 - f.m := by
    rw [lastPlace, hqlog]
    omega
  have hfm : (2 : ℝ) ^ f.m * 2 ^ (-e - L - 1 - f.m) = 2 ^ (-e - L - 1) := by
    rw [← two_zpow_sub_natCast (-e - L - 1) f.m, mul_comm]
    push_cast
    rfl
  have hpow : (2 : ℝ) ^ (L + 1) * 2 ^ (-e - L - 1) = 2 ^ (-e) := by
    rw [show -e - (L : Int) - 1 = -e - (L + 1 : Nat) by push_cast; ring, ← two_zpow_sub_natCast (-e) (L + 1), mul_comm]
    push_cast
    rfl
  have hunit : (0 : ℝ) < 2 ^ (-e - L - 1 - f.m) := by positivity
  have hkey : (2 ^ (-e - L - 1) + 2 ^ (-e - L - 1 - f.m)) * (m : ℝ) ≤ 2 ^ (-e) := by
    have h1 : (m : ℝ) * 2 ^ (-e - L - 1 - f.m) ≤ 2 ^ f.m * 2 ^ (-e - L - 1 - f.m) :=
      mul_le_mul_of_nonneg_right (by exact_mod_cast hsub) hunit.le
    have h2 : ((m : ℝ) + 1) * 2 ^ (-e - L - 1) ≤ 2 ^ (L + 1) * 2 ^ (-e - L - 1) :=
      mul_le_mul_of_nonneg_right (by exact_mod_cast hhigh) (by positivity)
    rw [hfm] at h1
    rw [hpow] at h2
    linarith
  rw [hinv, hlast, Nat.cast_one, one_mul]
  have := (le_div_iff₀ hmR).mpr hkey
  have hle : (2 : ℝ) ^ (f.bias + 1) ≤ 2 ^ (-e - L - 1) := by
    rw [← zpow_natCast]
    exact zpow_le_zpow_right₀ one_le_two (by push_cast; omega)
  linarith

/-- The quotient of a power of two by a number that is no power of two, in 256 bits. -/
theorem encloses_reciprocal (hf : f.Sound) {m : Nat} {e : Int} (hm : m ≠ 0) (h : f.Holds m e) (hpow : m ≠ 2 ^ m.log2) :
    Encloses f 1 (2 ^ (256 + m.log2) / m) (2 ^ (256 + m.log2) / m + 1) (-e - m.log2 - 256) (1 / (m * 2 ^ e)) := by
  set L := m.log2 with hL
  set q := 2 ^ (256 + L) / m with hq
  have hmpos := Nat.pos_of_ne_zero hm
  have hmR : (0 : ℝ) < m := Nat.cast_pos.mpr hmpos
  have hLlow : 2 ^ L < m := (Nat.log2_self_le hm).lt_of_ne (Ne.symm hpow)
  have hLhigh : m < 2 ^ (L + 1) := Nat.lt_log2_self
  have hval : (1 : ℝ) / (m * 2 ^ e) = 2 ^ (256 + L) / m * 2 ^ (-e - L - 256) := by
    have hexp : ((256 + L : Nat) : Int) + (-e - L - 256) = -e := by push_cast; ring
    rw [div_mul_eq_mul_div, ← zpow_natCast, ← zpow_add₀ two_ne_zero, hexp, zpow_neg]
    field_simp
  have hqlow : 2 ^ 255 ≤ q := by
    rw [hq, Nat.le_div_iff_mul_le hmpos]
    calc 2 ^ 255 * m ≤ 2 ^ 255 * 2 ^ (L + 1) := Nat.mul_le_mul_left _ hLhigh.le
      _ = 2 ^ (256 + L) := by rw [← pow_add]; congr 1; omega
  have hqhigh : q < 2 ^ 256 := by
    rw [hq, Nat.div_lt_iff_lt_mul hmpos, pow_add]
    exact Nat.mul_lt_mul_of_pos_left hLlow (Nat.two_pow_pos 256)
  have hq0 : q ≠ 0 := (lt_of_lt_of_le (Nat.two_pow_pos 255) hqlow).ne'
  have hqlog : q.log2 = 255 :=
    le_antisymm (Nat.le_of_lt_succ ((Nat.log2_lt hq0).mpr hqhigh)) ((Nat.le_log2 hq0).mpr hqlow)
  refine encloses_floor hf hqlow ?_ ?_ (reciprocal_beyond hm h hqlog hLlow)
  · rw [hval]
    exact mul_le_mul_of_nonneg_right (by exact_mod_cast Nat.cast_div_le) (by positivity)
  · rw [hval]
    refine mul_le_mul_of_nonneg_right ?_ (by positivity)
    rw [div_le_iff₀ hmR]
    exact_mod_cast (Nat.lt_mul_of_div_lt (Nat.lt_succ_self q) hmpos).le

theorem reciprocal_approximates (hf : f.Sound) {n : Bool} {m : Nat} {e : Int} (hm : m ≠ 0) (h : f.Holds m e) (pick : Nat) :
    Approximates f 1 (1 / (numOf (.fin n m e) : ℚ) : ℝ)
      (if m = 2 ^ m.log2 then roundTo f 0 n 1 (-e - m.log2) false
        else within f 1 n (2 ^ (256 + m.log2) / m) (2 ^ (256 + m.log2) / m + 1) (-e - m.log2 - 256) pick) := by
  have hneg : n = true ↔ (1 / (numOf (.fin n m e) : ℚ) : ℝ) < 0 := by
    rw [one_div, inv_lt_zero]
    exact cast_numOf_fin_neg_iff hm
  have habs : |(1 / (numOf (.fin n m e) : ℚ) : ℝ)| = 1 / (m * 2 ^ e) := by rw [abs_div, abs_one, abs_cast_numOf_fin]
  split
  · rename_i hpow
    have hbelow := h.below hm
    have hfrac := hf.frac
    have hemin : f.emin = 1 - f.bias := rfl
    refine approximates_two_zpow hf hneg ?_ (by omega)
    have hcast : (m : ℝ) = 2 ^ (m.log2 : Int) := by
      rw [zpow_natCast]
      exact_mod_cast hpow
    rw [habs, hcast, ← zpow_add₀ two_ne_zero, one_div, ← zpow_neg]
    congr 1
    ring
  · rename_i hpow
    refine approximates_of_withinUlps ?_ (not_isExact_reciprocal hf hm hpow)
    exact within_withinUlps hf le_rfl one_le_two hneg (habs ▸ encloses_reciprocal hf hm h hpow) pick

theorem rcpF_finite (hf : f.Sound) {a m : Nat} {n : Bool} {e : Int} (hm : m ≠ 0) (ha : decodeF f a = .fin n m e)
    (pick : Nat) :
    Approximates f 1 (1 / (numOf (.fin n m e) : ℚ) : ℝ) (rcpF f 1 a pick) := by
  rw [rcpF, ha]
  simp only [if_neg hm]
  exact reciprocal_approximates hf hm (holds_of_decodeF hf ha) pick

end Sys2Proof.Machine

end

section

namespace Sys2Proof.Machine

variable {f : Fmt} {o : Nat} {h : Int}

/-! ## `vrsq` (06 R130, R131) -/

/-- A datum as a number times a power of four. -/
theorem significand_quarter (m : Nat) (e : Int) :
    ((if e % 2 = 0 then m else 2 * m : Nat) : ℝ) * 2 ^ (2 * (e / 2)) = m * 2 ^ e := by
  rcases Int.emod_two_eq_zero_or_one e with he | he
  · rw [if_pos he, show 2 * (e / 2) = e by omega]
  · rw [if_neg (by omega), Nat.cast_mul, Nat.cast_ofNat, mul_comm (2 : ℝ), mul_assoc, ← zpow_one_add₀ two_ne_zero,
      show 1 + 2 * (e / 2) = e by omega]

/-- The reciprocal of the root of a power of two with an even exponent. -/
theorem one_div_sqrt_two_zpow (k : Int) : 1 / Real.sqrt (2 ^ (2 * k)) = (2 : ℝ) ^ (-k) := by
  rw [zpow_mul', zpow_ofNat, Real.sqrt_sq (by positivity), zpow_neg, one_div]

/-- A reciprocal root that a format holds is that of a power of four. -/
theorem log2_even_of_isExact_rsqrt (hf : f.Sound) (ho : 0 < o) {w : Nat × BitVec 32}
    (hw : IsExact f (1 / Real.sqrt (o * 2 ^ (2 * h))) w) : o = 2 ^ o.log2 ∧ o.log2 % 2 = 0 := by
  obtain ⟨c, z, -, -, hval, -⟩ := exists_significand_of_isExact hf hw
  have hpos : (0 : ℝ) < o * 2 ^ (2 * h) := by
    have : (0 : ℝ) < o := Nat.cast_pos.mpr ho
    positivity
  have hsq : ((c : ℝ) * 2 ^ z) ^ 2 * (o * 2 ^ (2 * h)) = 1 := by
    rw [← hval, sq_abs, div_pow, Real.sq_sqrt hpos.le, one_pow, one_div_mul_cancel hpos.ne']
  have hone : ((c * c : Nat) : ℝ) * o * 2 ^ (2 * z + 2 * h) = 1 := by
    rw [zpow_add₀ two_ne_zero, zpow_mul' 2 2 z, zpow_ofNat, Nat.cast_mul]
    linarith
  obtain ⟨⟨i', hi'⟩, j, rfl⟩ := two_pow_of_mul hone
  obtain ⟨i, -, rfl⟩ := (Nat.dvd_prime_pow Nat.prime_two).mp (Dvd.intro c hi')
  have hexp : (2 : ℝ) ^ (2 * (i : Int) + j + (2 * z + 2 * h)) = 2 ^ (0 : Int) := by
    rw [zpow_add₀ two_ne_zero, zpow_add₀ two_ne_zero, two_mul (i : Int), zpow_add₀ two_ne_zero, zpow_zero, ← hone]
    push_cast
    rfl
  have := zpow_right_injective₀ two_pos (by norm_num) hexp
  rw [Nat.log2_two_pow]
  exact ⟨rfl, by omega⟩

/-- The root of a quotient of a power of four, in 256 bits. -/
theorem encloses_rsqrt (hf : f.Sound) {b : Nat} (ho : 0 < o) (hbelow : 1 / Real.sqrt (o * 2 ^ (2 * h)) < 2 ^ (f.bias + 1)) :
    Encloses f b (sqrtNat (2 ^ (2 * (256 + o.log2)) / o)) (sqrtNat (2 ^ (2 * (256 + o.log2)) / o) + 1)
      (-h - (256 + o.log2 : Nat)) (1 / Real.sqrt (o * 2 ^ (2 * h))) := by
  rw [sqrtNat_eq]
  set k := 256 + o.log2 with hk
  set d := 2 ^ (2 * k) / o with hd
  have hoR : (0 : ℝ) < o := Nat.cast_pos.mpr ho
  have hpow : 1 / Real.sqrt (2 ^ (2 * h)) = (2 : ℝ) ^ k * 2 ^ (-h - k) := by
    rw [one_div_sqrt_two_zpow, ← zpow_natCast, ← zpow_add₀ two_ne_zero]
    ring_nf
  have hval : 1 / Real.sqrt (o * 2 ^ (2 * h)) = Real.sqrt (2 ^ (2 * k) / o) * 2 ^ (-h - k) := by
    rw [Real.sqrt_mul hoR.le, Real.sqrt_div (by positivity), mul_comm 2 k, pow_mul, Real.sqrt_sq (by positivity),
      div_mul_eq_mul_div, ← hpow, div_div, mul_comm]
  have hquot : (d : ℝ) ≤ 2 ^ (2 * k) / o := by exact_mod_cast Nat.cast_div_le (α := ℝ) (m := 2 ^ (2 * k)) (n := o)
  have hlt : (2 : ℝ) ^ (2 * k) / o < d + 1 := by
    rw [div_lt_iff₀ hoR]
    exact_mod_cast Nat.lt_mul_of_div_lt (Nat.lt_succ_self d) ho
  refine encloses_floor hf ?_ ?_ ?_ fun hover => absurd hover hbelow.not_ge
  · rw [Nat.le_sqrt', hd, Nat.le_div_iff_mul_le ho]
    calc (2 ^ 255) ^ 2 * o ≤ (2 ^ 255) ^ 2 * 2 ^ (o.log2 + 1) := Nat.mul_le_mul_left _ Nat.lt_log2_self.le
      _ = 2 ^ (510 + (o.log2 + 1)) := by rw [← pow_mul, ← pow_add]
      _ ≤ 2 ^ (2 * k) := Nat.pow_le_pow_right two_pos (by omega)
  · rw [hval]
    refine mul_le_mul_of_nonneg_right (Real.le_sqrt_of_sq_le ?_) (by positivity)
    exact (by exact_mod_cast Nat.sqrt_le' d : ((Nat.sqrt d : Nat) : ℝ) ^ 2 ≤ d).trans hquot
  · rw [hval]
    refine mul_le_mul_of_nonneg_right (Real.sqrt_le_iff.mpr ⟨Nat.cast_nonneg _, hlt.le.trans ?_⟩) (by positivity)
    exact_mod_cast Nat.succ_le_of_lt (Nat.lt_succ_sqrt' d)

/-- A reciprocal root of a number that is not too small is within the format. -/
theorem one_div_sqrt_lt {y : ℝ} {n : Nat} (h : 1 < y * (2 ^ n) ^ 2) : 1 / Real.sqrt y < 2 ^ n := by
  have hy : 0 < y := pos_of_mul_pos_left (one_pos.trans h) (by positivity)
  rw [div_lt_iff₀ (Real.sqrt_pos.mpr hy), mul_comm]
  refine lt_of_pow_lt_pow_left₀ 2 (by positivity) ?_
  rw [mul_pow, Real.sq_sqrt hy.le, one_pow]
  exact h

theorem rsqrt_approximates (hf : f.Sound) {b : Nat} (hb1 : 1 ≤ b) (hb2 : b ≤ 2) (ho : 0 < o)
    (hlow : 1 < (o : ℝ) * 2 ^ (2 * h) * (2 ^ (f.bias + 1)) ^ 2) (hhigh : (o : ℝ) * 2 ^ (2 * h) < 2 ^ (f.bias + 1))
    (pick : Nat) :
    Approximates f b (1 / Real.sqrt (o * 2 ^ (2 * h)))
      (if o = 2 ^ o.log2 && o.log2 % 2 = 0 then roundTo f 0 false 1 (-h - (o.log2 / 2 : Nat)) false
        else within f b false (sqrtNat (2 ^ (2 * (256 + o.log2)) / o)) (sqrtNat (2 ^ (2 * (256 + o.log2)) / o) + 1)
          (-h - (256 + o.log2 : Nat)) pick) := by
  have hpos : (0 : ℝ) < 1 / Real.sqrt (o * 2 ^ (2 * h)) := by
    have : (0 : ℝ) < o := Nat.cast_pos.mpr ho
    positivity
  have hneg : false = true ↔ 1 / Real.sqrt (o * 2 ^ (2 * h)) < 0 := iff_of_false Bool.false_ne_true hpos.not_gt
  split
  · rename_i hpow
    rw [Bool.and_eq_true, decide_eq_true_eq, decide_eq_true_eq] at hpow
    obtain ⟨hpow, heven⟩ := hpow
    have hcast : (o : ℝ) * 2 ^ (2 * h) = 2 ^ (2 * (h + (o.log2 / 2 : Nat))) := by
      rw [show 2 * (h + (o.log2 / 2 : Nat)) = (o.log2 : Int) + 2 * h by omega, zpow_add₀ two_ne_zero, zpow_natCast]
      congr 1
      exact_mod_cast hpow
    rw [hcast] at hneg hpos hhigh ⊢
    have hbelow : 2 * (h + (o.log2 / 2 : Nat)) ≤ f.bias := by
      rw [← zpow_natCast, zpow_lt_zpow_iff_right₀ one_lt_two] at hhigh
      push_cast at hhigh ⊢
      omega
    have hfrac := hf.frac
    have hemin : f.emin = 1 - f.bias := rfl
    refine approximates_two_zpow hf hneg ?_ (by omega)
    rw [abs_of_pos hpos, one_div_sqrt_two_zpow]
    congr 1
    ring
  · rename_i hpow
    refine approximates_of_withinUlps ?_ fun ⟨w, hw⟩ => hpow (by simpa using log2_even_of_isExact_rsqrt hf ho hw)
    refine within_withinUlps hf hb1 hb2 hneg ?_ pick
    rw [abs_of_pos hpos]
    exact encloses_rsqrt hf ho (one_div_sqrt_lt hlow)

theorem Fmt.Holds.lt_top {m : Nat} {e : Int} (h : f.Holds m e) : (m : ℝ) * 2 ^ e < 2 ^ (f.bias + 1) := by
  rcases eq_or_ne m 0 with rfl | hm
  · rw [Nat.cast_zero, zero_mul]
    positivity
  · have hhigh := (significand_bounds (x := 0) hm le_rfl one_pos e).2
    rw [add_zero] at hhigh
    refine hhigh.trans_le ?_
    rw [← zpow_natCast]
    have := h.below hm
    exact zpow_le_zpow_right₀ one_le_two (by push_cast; omega)

theorem Fmt.Holds.ge_least {m : Nat} {e : Int} (h : f.Holds m e) (hm : m ≠ 0) : (2 : ℝ) ^ (f.emin - f.m) ≤ m * 2 ^ e :=
  (zpow_le_zpow_right₀ one_le_two h.least).trans
    (le_mul_of_one_le_left (by positivity) (Nat.one_le_cast.mpr (Nat.pos_of_ne_zero hm)))

theorem rsqF_finite (hf : f.Sound) {b a m : Nat} {e : Int} (hb1 : 1 ≤ b) (hb2 : b ≤ 2) (hm : m ≠ 0)
    (ha : decodeF f a = .fin false m e) (pick : Nat) : Approximates f b (1 / Real.sqrt (m * 2 ^ e)) (rsqF f b a pick) := by
  have hh := holds_of_decodeF hf ha
  rw [rsqF, ha]
  simp only [if_neg hm, if_neg Bool.false_ne_true]
  have hlow : 1 < (m : ℝ) * 2 ^ e * (2 ^ (f.bias + 1)) ^ 2 := by
    have hone : (1 : ℝ) < 2 ^ (f.emin - f.m) * (2 ^ (f.bias + 1)) ^ 2 := by
      rw [← pow_mul, ← zpow_natCast, ← zpow_add₀ two_ne_zero]
      have hfrac := hf.frac_le_bias
      have hemin : f.emin = 1 - f.bias := rfl
      exact one_lt_zpow₀ one_lt_two (by push_cast; omega)
    exact hone.trans_le (mul_le_mul_of_nonneg_right (hh.ge_least hm) (by positivity))
  have hhigh := hh.lt_top
  rw [← significand_quarter] at hlow hhigh ⊢
  exact rsqrt_approximates hf hb1 hb2 (by split <;> omega) hlow hhigh pick

end Sys2Proof.Machine

end

section

namespace Sys2Proof.Machine

/-! ## The series of `vexp2` -/

theorem lt_natDiv_add_one (a b : Nat) : (a : ℝ) / b < (a / b : Nat) + 1 := by
  rw [← Nat.floor_div_eq_div (K := ℝ)]
  exact Nat.lt_floor_add_one _

open Finset in
/-- The series of the logarithm of 2 from below, each term rounded down. -/
theorem ln2Sum_bounds (p n : Nat) :
    (ln2Sum p n : ℝ) ≤ 2 ^ p * ∑ i ∈ range n, (1 / 2 : ℝ) ^ (i + 1) / (i + 1) ∧
      2 ^ p * ∑ i ∈ range n, (1 / 2 : ℝ) ^ (i + 1) / (i + 1) ≤ ln2Sum p n + n := by
  induction n with
  | zero => simp [ln2Sum]
  | succ n ih =>
    obtain ⟨hlow, hhigh⟩ := ih
    have hterm : (2 : ℝ) ^ p * ((1 / 2 : ℝ) ^ (n + 1) / (n + 1)) = (2 ^ p : Nat) / ((n + 1) * 2 ^ (n + 1) : Nat) := by
      push_cast
      rw [one_div, inv_pow]
      field_simp
    have hdown : ((2 ^ p / ((n + 1) * 2 ^ (n + 1)) : Nat) : ℝ) ≤ (2 ^ p : Nat) / ((n + 1) * 2 ^ (n + 1) : Nat) :=
        Nat.cast_div_le
    have hup := lt_natDiv_add_one (2 ^ p) ((n + 1) * 2 ^ (n + 1))
    rw [ln2Sum, sum_range_succ, mul_add, hterm, Nat.cast_add, Nat.cast_succ]
    exact ⟨by linarith, by linarith⟩

open Finset in
theorem ln2Sum_le (p n : Nat) : (ln2Sum p n : ℝ) ≤ 2 ^ p * Real.log 2 := by
  have hsum := Real.hasSum_pow_div_log_of_abs_lt_one (x := 1 / 2) (by norm_num [abs_of_pos])
  have hlog : -Real.log (1 - 1 / 2) = Real.log 2 := by
    rw [show (1 : ℝ) - 1 / 2 = 2⁻¹ by norm_num, Real.log_inv, neg_neg]
  rw [hlog] at hsum
  have hle := sum_le_hasSum (range n) (fun i _ => by positivity) hsum
  exact (ln2Sum_bounds p n).1.trans (mul_le_mul_of_nonneg_left hle (by positivity))

/-- With as many terms as bits the error is that of the terms' rounding and one more unit. -/
theorem log_two_le_ln2Sum {p n : Nat} (h : p ≤ n) : 2 ^ p * Real.log 2 ≤ ln2Sum p n + (n + 1) := by
  have htail := Real.abs_log_sub_add_sum_range_le (x := 1 / 2) (by norm_num [abs_of_pos]) n
  rw [show (1 : ℝ) - 1 / 2 = 2⁻¹ by norm_num, Real.log_inv, abs_of_pos (show (0 : ℝ) < 1 / 2 by norm_num),
    show (1 : ℝ) - 1 / 2 = 1 / 2 by norm_num, pow_succ, mul_div_assoc, div_self (by norm_num), mul_one] at htail
  have hbound : (2 : ℝ) ^ p * (1 / 2) ^ n ≤ 1 := by
    rw [one_div, inv_pow, ← div_eq_mul_inv, div_le_one (by positivity)]
    exact pow_le_pow_right₀ one_le_two h
  have hlow := (abs_le.mp htail).1
  have hmul := mul_le_mul_of_nonneg_left hlow (show (0 : ℝ) ≤ 2 ^ p by positivity)
  linarith [(ln2Sum_bounds p n).2]

open Finset in
/-- Horner's rule for the exponential series from its `n`-th term down, each step rounded down. -/
theorem expHorner_bounds {p z : Nat} (hz : z ≤ 2 ^ p) (n acc : Nat) :
    (expHorner p z n acc : ℝ) ≤
        2 ^ p * ∑ i ∈ range n, (z / 2 ^ p : ℝ) ^ i / i.factorial + acc * ((z / 2 ^ p : ℝ) ^ n / n.factorial) ∧
      2 ^ p * ∑ i ∈ range n, (z / 2 ^ p : ℝ) ^ i / i.factorial + acc * ((z / 2 ^ p : ℝ) ^ n / n.factorial) ≤
        expHorner p z n acc + n := by
  induction n generalizing acc with
  | zero => simp [expHorner]
  | succ n ih =>
    set x : ℝ := z / 2 ^ p with hx
    have hx0 : 0 ≤ x := by positivity
    have hx1 : x ≤ 1 := by
      rw [hx, div_le_one (by positivity)]
      exact_mod_cast hz
    obtain ⟨hlow, hhigh⟩ := ih (2 ^ p + acc * z / 2 ^ p / (n + 1))
    have hterm : (acc : ℝ) * (x ^ (n + 1) / (n + 1).factorial) = acc * x / (n + 1) * (x ^ n / n.factorial) := by
      rw [Nat.factorial_succ, pow_succ]
      push_cast
      field_simp
    have hstep : (acc : ℝ) * x / (n + 1) = (acc * z : Nat) / (2 ^ p * (n + 1) : Nat) := by
      rw [hx]
      push_cast
      field_simp
    have hone : x ^ n / n.factorial ≤ 1 :=
      (div_le_one (by positivity)).mpr ((pow_le_one₀ hx0 hx1).trans (by exact_mod_cast n.factorial_pos))
    have hnonneg : 0 ≤ x ^ n / n.factorial := by positivity
    rw [Nat.div_div_eq_div_mul] at hlow hhigh
    have hdown : ((acc * z / (2 ^ p * (n + 1)) : Nat) : ℝ) ≤ acc * x / (n + 1) := hstep ▸ Nat.cast_div_le
    have hup : (acc : ℝ) * x / (n + 1) ≤ (acc * z / (2 ^ p * (n + 1)) : Nat) + 1 := hstep ▸ (lt_natDiv_add_one _ _).le
    have hdown' := mul_le_mul_of_nonneg_right hdown hnonneg
    have hup' := mul_le_mul_of_nonneg_right hup hnonneg
    rw [expHorner, Nat.div_div_eq_div_mul, sum_range_succ, hterm, Nat.cast_succ]
    push_cast at hlow hhigh ⊢
    exact ⟨by linarith, by linarith⟩

/-- The exponential of a fraction in units of 2^-p, from below. -/
theorem expHorner_le_exp {p z : Nat} (hz : z ≤ 2 ^ p) (n : Nat) :
    (expHorner p z n (2 ^ p) : ℝ) ≤ 2 ^ p * Real.exp (z / 2 ^ p) := by
  have hsum := Real.sum_le_exp_of_nonneg (x := z / 2 ^ p) (by positivity) (n + 1)
  rw [Finset.sum_range_succ] at hsum
  refine (expHorner_bounds hz n (2 ^ p)).1.trans ?_
  rw [Nat.cast_pow, Nat.cast_ofNat, ← mul_add]
  exact mul_le_mul_of_nonneg_left hsum (by positivity)

theorem exp_le_expHorner {p z n : Nat} (hz : z ≤ 2 ^ p) (hn : 0 < n) (hfac : 2 ^ p ≤ n.factorial) :
    2 ^ p * Real.exp (z / 2 ^ p) ≤ expHorner p z n (2 ^ p) + (n + 1) := by
  have hx1 : (z / 2 ^ p : ℝ) ≤ 1 := (div_le_one (by positivity)).mpr (by exact_mod_cast hz)
  have hx0 : (0 : ℝ) ≤ z / 2 ^ p := by positivity
  have hexp := Real.exp_bound' hx0 hx1 hn
  have hhigh := (expHorner_bounds hz n (2 ^ p)).2
  set x : ℝ := z / 2 ^ p
  have hnR : (1 : ℝ) ≤ n := by exact_mod_cast hn
  have hF : (0 : ℝ) < n.factorial := by exact_mod_cast n.factorial_pos
  have hsplit : x ^ n * (n + 1) / (n.factorial * n) = x ^ n / n.factorial + x ^ n / n / n.factorial := by
    field_simp
  have htail : (2 : ℝ) ^ p * (x ^ n / n / n.factorial) ≤ 1 := by
    rw [← mul_div_assoc, div_le_one hF]
    refine le_trans (mul_le_of_le_one_right (by positivity) ?_) (by exact_mod_cast hfac)
    exact div_le_one_of_le₀ ((pow_le_one₀ hx0 hx1).trans hnR) (by positivity)
  have hmul := mul_le_mul_of_nonneg_left hexp (show (0 : ℝ) ≤ 2 ^ p by positivity)
  rw [Nat.cast_pow, Nat.cast_ofNat] at hhigh
  rw [hsplit] at hmul
  linarith

end Sys2Proof.Machine

end

section

namespace Sys2Proof.Machine

variable {f : Fmt}

/-! ## `vexp2` of a fraction -/

/-- 2 to a fraction that is known in `p` bits from below, from its logarithm's series. -/
theorem two_rpow_bounds {p z n l : Nat} {x : ℝ} (hn : p ≤ n) (hnp : n + 3 ≤ 2 ^ p) (hl : 0 < l) (hfac : 2 ^ p ≤ l.factorial)
    (hz : z < 2 ^ p) (hlow : (z : ℝ) ≤ x * 2 ^ p) (hhigh : x * 2 ^ p ≤ z + 1) (hx : x ≤ 1) :
    (expHorner p (z * ln2Sum p n / 2 ^ p) l (2 ^ p) : ℝ) ≤ 2 ^ p * 2 ^ x ∧
      2 ^ p * (2 : ℝ) ^ x ≤ expHorner p (z * ln2Sum p n / 2 ^ p) l (2 ^ p) + (l + 1 + 4 * (n + 3)) := by
  have hL1 := ln2Sum_le p n
  have hL2 := log_two_le_ln2Sum hn
  set L := ln2Sum p n
  set t := z * L / 2 ^ p with ht
  set P : ℝ := 2 ^ p with hP
  have hPpos : 0 < P := by positivity
  have hlog0 : 0 ≤ Real.log 2 := Real.log_nonneg one_le_two
  have hlog1 : Real.log 2 ≤ 1 := by linarith [Real.log_two_lt_d9]
  have hzR : (z : ℝ) + 1 ≤ P := by
    rw [hP]
    exact_mod_cast hz
  have hLP : (L : ℝ) ≤ P := hL1.trans (mul_le_of_le_one_right hPpos.le hlog1)
  have hcast : ((z * L : Nat) : ℝ) / (2 ^ p : Nat) = z * L / P := by
    push_cast
    rfl
  have htlow : (t : ℝ) ≤ z * L / P := hcast ▸ Nat.cast_div_le
  have hthigh : z * L / P < t + 1 := hcast ▸ lt_natDiv_add_one _ _
  have hxlow : (t : ℝ) / P ≤ Real.log 2 * x := by
    rw [div_le_iff₀ hPpos]
    refine htlow.trans ((div_le_iff₀ hPpos).mpr ?_)
    calc (z : ℝ) * L ≤ x * P * (P * Real.log 2) := mul_le_mul hlow hL1 (Nat.cast_nonneg _) ((Nat.cast_nonneg _).trans hlow)
      _ = Real.log 2 * x * P * P := by ring
  have hxhigh : Real.log 2 * x ≤ t / P + (n + 3) / P := by
    rw [← add_div, le_div_iff₀ hPpos]
    have hprod : x * P * (P * Real.log 2) ≤ (z + 1) * (L + (n + 1)) := mul_le_mul hhigh hL2 (by positivity) (by positivity)
    have hsplit : ((z : ℝ) + 1) * (L + (n + 1)) ≤ (t + 1 + 1 + (n + 1)) * P := by
      have h1 : (z : ℝ) * L ≤ (t + 1) * P := ((div_lt_iff₀ hPpos).mp hthigh).le
      have h2 : ((z : ℝ) + 1) * (n + 1) ≤ P * (n + 1) := mul_le_mul_of_nonneg_right hzR (by positivity)
      linarith
    refine le_of_mul_le_mul_right ?_ hPpos
    linarith
  have hrpow : (2 : ℝ) ^ x = Real.exp (Real.log 2 * x) := Real.rpow_def_of_pos two_pos x
  have htle : t ≤ 2 ^ p := by
    have : (t : ℝ) ≤ P := htlow.trans ((div_le_iff₀ hPpos).mpr (mul_le_mul (by linarith) hLP (Nat.cast_nonneg _) hPpos.le))
    rw [hP] at this
    exact_mod_cast this
  have hexp := exp_le_expHorner htle hl hfac
  have hmono := Real.exp_le_exp.mpr hxlow
  rw [hrpow]
  refine ⟨(expHorner_le_exp htle l).trans (mul_le_mul_of_nonneg_left hmono hPpos.le), ?_⟩
  have hd1 : |((n : ℝ) + 3) / P| ≤ 1 := by
    rw [abs_of_nonneg (by positivity), div_le_one hPpos, hP]
    exact_mod_cast hnp
  have hd := (abs_le.mp (Real.abs_exp_sub_one_le hd1)).2
  rw [abs_of_nonneg (show (0 : ℝ) ≤ (n + 3) / P by positivity)] at hd
  have htwo : Real.exp (t / P) ≤ 2 := by
    refine hmono.trans (hrpow ▸ ?_)
    exact (Real.rpow_le_rpow_of_exponent_le one_le_two hx).trans_eq (Real.rpow_one 2)
  have hmain : Real.exp (Real.log 2 * x) ≤ Real.exp (t / P) + Real.exp (t / P) * (2 * ((n + 3) / P)) := by
    refine (Real.exp_le_exp.mpr hxhigh).trans ?_
    rw [Real.exp_add]
    have := mul_le_mul_of_nonneg_left hd (Real.exp_nonneg (t / P))
    linarith
  have hsmall : P * (Real.exp (t / P) * (2 * ((n + 3) / P))) ≤ 4 * (n + 3) := by
    have : P * (Real.exp (t / P) * (2 * ((n + 3) / P))) = Real.exp (t / P) * (2 * (n + 3)) := by field_simp
    rw [this]
    have := mul_le_mul_of_nonneg_right htwo (show (0 : ℝ) ≤ 2 * (n + 3) by positivity)
    linarith
  have := mul_le_mul_of_nonneg_left hmain hPpos.le
  linarith

/-- An interval in the binade of a power of two, cut off at its end. -/
theorem encloses_binade (hf : f.Sound) {b p q : Nat} {x : Int} {y : ℝ} (hb : b ≤ 2) (hp : 70 ≤ p) (hlow : (2 : ℝ) ^ p ≤ y)
    (hhigh : y < 2 ^ (p + 1)) (hq : (q : ℝ) ≤ y) (hq' : y ≤ q + 4096)
    (hover : (2 : ℝ) ^ (f.bias + 1) ≤ y * 2 ^ x → (f.bias : Int) + 1 ≤ p + x ∧ (2 : ℝ) ^ p + 2 * 2 ^ (p - f.m) ≤ y) :
    Encloses f b (max (2 ^ p) (q - 1)) (min (2 ^ (p + 1) - 1) (q + 4096)) x (y * 2 ^ x) := by
  have hx : (0 : ℝ) < 2 ^ x := by positivity
  set lo := max (2 ^ p) (q - 1) with hlo
  set hi := min (2 ^ (p + 1) - 1) (q + 4096) with hhi
  have hfrac := hf.frac_le
  have hqhigh : q < 2 ^ (p + 1) := by exact_mod_cast hq.trans_lt hhigh
  have hqlow : 2 ^ p ≤ q + 4096 := by exact_mod_cast hlow.trans hq'
  have hpow : 2 ^ (p + 1) = 2 * 2 ^ p := pow_succ' 2 p
  have hppos : 0 < 2 ^ p := Nat.two_pow_pos p
  have hlo0 : lo ≠ 0 := by omega
  have hlog : lo.log2 = p :=
    le_antisymm (Nat.le_of_lt_succ ((Nat.log2_lt hlo0).mpr (by omega))) ((Nat.le_log2 hlo0).mpr (le_max_left ..))
  have hlast : lastPlace f lo x = max ((p : Int) + x) f.emin - f.m := by rw [lastPlace, hlog]
  have hgap : 2 ^ 14 ≤ 2 ^ (lastPlace f lo x - x).toNat := Nat.pow_le_pow_right two_pos (by omega)
  have hlole : (lo : ℝ) ≤ y := by
    rw [hlo, Nat.cast_max]
    refine max_le (by push_cast; exact hlow) (le_trans ?_ hq)
    exact Nat.cast_le.mpr (Nat.sub_le ..)
  refine ⟨mul_pos (lt_of_lt_of_le (by positivity) hlow) hx, mul_le_mul_of_nonneg_right hlole hx.le, by omega, by omega,
    fun h => absurd h hlo0, by omega, fun i hi' => ?_, fun h => ?_⟩
  · rcases min_choice (2 ^ (p + 1) - 1) (q + 4096) with h | h
    · refine upper_of_two_pow hf (j := p + 1) (by omega) (by omega) hb (by omega) ?_ i hi'
      exact mul_le_mul_of_nonneg_right hhigh.le hx.le
    · refine upper_of_le (mul_le_mul_of_nonneg_right (hq'.trans_eq ?_) hx.le) i hi'
      rw [hhi, h]
      push_cast
      rfl
  · obtain ⟨htop, hy⟩ := hover h
    have hnorm : lastPlace f lo x = ((p - f.m : Nat) : Int) + x := by
      have hemin : f.emin = 1 - f.bias := rfl
      omega
    have hhile : (2 : ℝ) ^ p + b * 2 ^ (p - f.m) ≤ hi := by
      have hbR : (b : ℝ) * 2 ^ (p - f.m) ≤ 2 * 2 ^ (p - f.m) := mul_le_mul_of_nonneg_right (by exact_mod_cast hb)
          (by positivity)
      have hnat : 2 ^ p + 2 * 2 ^ (p - f.m) ≤ hi := by
        refine le_min ?_ (by exact_mod_cast hy.trans hq')
        have hfm := hf.frac
        have hquarter : 2 * 2 ^ (p - f.m) < 2 ^ p := by
          rw [← pow_succ']
          exact Nat.pow_lt_pow_right (by decide) (by omega)
        omega
      have hcast : (2 : ℝ) ^ p + 2 * 2 ^ (p - f.m) ≤ hi := by exact_mod_cast hnat
      linarith
    rw [hnorm, zpow_add₀ two_ne_zero, zpow_natCast, ← mul_assoc, ← sub_mul]
    calc (2 : ℝ) ^ (f.bias + 1) ≤ 2 ^ p * 2 ^ x := by
          rw [← zpow_natCast, ← zpow_natCast, ← zpow_add₀ two_ne_zero]
          exact zpow_le_zpow_right₀ one_le_two (by push_cast; omega)
      _ ≤ _ := mul_le_mul_of_nonneg_right (by linarith) hx.le

end Sys2Proof.Machine

end

section

namespace Sys2Proof.Machine

variable {f : Fmt} {b : Nat}

/-! ## `vexp2` (06 R130, R131) -/

/-- Rounded toward 0 a magnitude is its integer part. -/
theorem roundAt_floor (m : Nat) (e q : Int) :
    ((roundAt 1 false m e q false).1 : ℝ) ≤ (m : ℝ) * 2 ^ e / 2 ^ q ∧
      (m : ℝ) * 2 ^ e / 2 ^ q < (roundAt 1 false m e q false).1 + 1 ∧
      ((roundAt 1 false m e q false).2 = true ↔ ((roundAt 1 false m e q false).1 : ℝ) ≠ (m : ℝ) * 2 ^ e / 2 ^ q) := by
  obtain ⟨hk, hne⟩ := roundAt_chooses (rnd := 1) (neg := false) (m := m) (e := e) (q := q) (by decide) sticky_false nofun
  rw [add_zero] at hk hne
  exact ⟨hk.2.elim Eq.le fun h => le_of_lt h, by linarith [(abs_lt.mp hk.1).2], hne⟩

/-- No number at or beyond the greatest magnitude is the format's. -/
theorem not_isExact_of_top_le (hf : f.Sound) {y : ℝ} (h : (2 : ℝ) ^ (f.bias + 1) ≤ |y|) : ¬∃ w, IsExact f y w :=
    fun ⟨_, hw⟩ => by
  obtain ⟨-, -, -, -, -, hlt⟩ := exists_significand_of_isExact hf hw
  exact hlt.not_ge h

/-- Nor is one below the least magnitude. -/
theorem not_isExact_of_lt_least (hf : f.Sound) {y : ℝ} (h0 : y ≠ 0) (h : |y| < 2 ^ (f.emin - f.m)) : ¬∃ w, IsExact f y w :=
    fun ⟨_, hw⟩ => by
  obtain ⟨c, w, -, hw, hy, -⟩ := exists_significand_of_isExact hf hw
  have hc : 1 ≤ c := Nat.pos_of_ne_zero fun hc => h0 (by rw [← abs_eq_zero, hy, hc, Nat.cast_zero, zero_mul])
  have hle : (2 : ℝ) ^ (f.emin - f.m) ≤ c * 2 ^ w :=
    (zpow_le_zpow_right₀ one_le_two hw).trans (le_mul_of_one_le_left (by positivity) (Nat.one_le_cast.mpr hc))
  linarith

theorem overflow_approximates (hf : f.Sound) {y : ℝ} (h : (2 : ℝ) ^ (f.bias + 1) ≤ y) :
    Approximates f b y (overflow f 0 false) := by
  have hpos : 0 < y := lt_of_lt_of_le (by positivity) h
  rw [← abs_of_pos hpos] at h
  exact approximates_of_withinUlps (withinUlps_infinity hf (iff_of_false Bool.false_ne_true hpos.not_gt) h)
    (not_isExact_of_top_le hf h)

/-- An underflow: any value from 0 on. -/
theorem underflow_approximates (hf : f.Sound) (hb1 : 1 ≤ b) (hb2 : b ≤ 2) {y : ℝ} (h0 : 0 < y)
    (h : y < 2 ^ (f.emin - f.m)) (pick : Nat) : Approximates f b y (within f b false 0 1 (-9000) pick) := by
  have hemin : f.emin = 1 - f.bias := rfl
  have hfrac := hf.frac_le
  have hbias := hf.bias_le
  have hlast : lastPlace f 0 (-9000) = f.emin - f.m := by
    rw [lastPlace, Nat.log2_zero]
    omega
  have hlt : y < 2 ^ (f.bias + 1) := by
    refine h.trans_le ?_
    rw [← zpow_natCast]
    exact zpow_le_zpow_right₀ one_le_two (by push_cast; omega)
  refine approximates_of_withinUlps ?_ (not_isExact_of_lt_least hf h0.ne' (by rwa [abs_of_pos h0]))
  refine within_withinUlps hf hb1 hb2 (iff_of_false Bool.false_ne_true h0.not_gt) ?_ pick
  rw [abs_of_pos h0]
  refine ⟨h0, by rw [Nat.cast_zero, zero_mul]; exact h0.le, Nat.zero_le 1, by omega, fun _ => by omega,
    (Nat.zero_add _).symm ▸ Nat.one_le_two_pow, fun i hi => ?_, fun hover => absurd hover hlt.not_ge⟩
  rw [hlast] at hi ⊢
  obtain ⟨t, ht⟩ := indexVal_multiple f i (.inl le_rfl)
  have hunit : (0 : ℝ) < 2 ^ (f.emin - f.m) := by positivity
  have hpos : (0 : ℝ) < (t + b) * 2 ^ (f.emin - f.m) := by
    rw [ht, Nat.cast_one, one_mul] at hi
    have : (0 : ℝ) < 2 ^ (-9000 : Int) := by positivity
    linarith
  have hint : (1 : Int) ≤ t + b := by exact_mod_cast pos_of_mul_pos_left hpos hunit.le
  have hreal : (1 : ℝ) ≤ t + b := by exact_mod_cast hint
  have := mul_le_mul_of_nonneg_right hreal hunit.le
  rw [ht]
  linarith

/-- A power of two with an integer exponent, where it is the format's exactly and elsewhere. -/
theorem exp2_integer_approximates (hf : f.Sound) (hb1 : 1 ≤ b) (hb2 : b ≤ 2) {p : Nat} (hp : 52 ≤ p) (k : Int)
    (pick : Nat) :
    Approximates f b (2 ^ k)
      (if (roundTo f 0 false 1 k false).2 = 0#32 then roundTo f 0 false 1 k false
        else if 0 < k then roundTo f 0 false 1 k false
        else within f b false (2 ^ p) (2 ^ p) (k - p) pick) := by
  have hpos : (0 : ℝ) < 2 ^ k := by positivity
  have hneg : false = true ↔ (2 : ℝ) ^ k < 0 := iff_of_false Bool.false_ne_true hpos.not_gt
  have hrounded := isRounded_two_zpow hf false k
  have hemin : f.emin = 1 - f.bias := rfl
  have hfrac := hf.frac_le_bias
  have hfm := hf.frac_le
  have hfm3 := hf.frac
  split
  · rename_i hflags
    obtain ⟨n, hn, hv, hmag⟩ := exact_of_flags_eq_zero hrounded hflags
    have hexact : IsExact f (2 ^ k) (roundTo f 0 false 1 k false) := ⟨false, n, hn, hv, hmag⟩
    exact ⟨fun _ => hexact, .inl hexact⟩
  · rename_i hflags
    split
    · exact approximates_two_zpow hf hneg (abs_of_pos hpos) (by omega)
    · rename_i hk
      have htop : (2 : ℝ) ^ k < 2 ^ (f.bias + 1) := by
        rw [← zpow_natCast]
        exact zpow_lt_zpow_right₀ one_lt_two (by push_cast; omega)
      have hsmall : k < f.emin - f.m := by
        by_contra hge
        obtain ⟨n, -, hv, -⟩ := (exact_of_isRounded (c := 1) hrounded (Nat.one_lt_two_pow (by omega)) (not_lt.mp hge)
          (by rw [Nat.cast_one, one_mul])).1 htop
        exact hflags (by rw [hv])
      refine approximates_of_withinUlps ?_ (not_isExact_of_lt_least hf hpos.ne' ?_)
      · refine within_withinUlps hf hb1 hb2 hneg ?_ pick
        have hval : ((2 ^ p : Nat) : ℝ) * 2 ^ (k - p) = 2 ^ k := by rw [mul_comm, two_zpow_sub_natCast]
        rw [abs_of_pos hpos]
        refine ⟨hpos, hval.le, le_rfl, by rw [lastPlace, Nat.log2_two_pow]; omega,
            fun h => absurd h (Nat.two_pow_pos p).ne',
          Nat.le_add_right .., upper_of_le hval.ge, fun hover => absurd hover htop.not_ge⟩
      · rw [abs_of_pos hpos]
        exact zpow_lt_zpow_right₀ one_lt_two hsmall

/-- The fraction of a datum beyond the exponents of the format is not too small. -/
theorem fraction_of_exponent_beyond (hf : f.Sound) {m : Nat} {e k : Int} (hm : m < 2 ^ (f.m + 1))
    (htop : (f.bias : ℝ) + 1 ≤ m * 2 ^ e)
    (hfrac : 0 < (m : ℝ) * 2 ^ e - k) (hnot : ∀ i : Int, (m : ℝ) * 2 ^ e ≠ i) :
    (4 : ℝ) / 2 ^ f.m ≤ m * 2 ^ e - k := by
  have he : e < 0 := by
    by_contra hge
    refine hnot (m * 2 ^ e.toNat) ?_
    rw [← Int.toNat_of_nonneg (not_lt.mp hge)]
    push_cast
    rw [zpow_natCast, Int.toNat_natCast]
  have hbias : 15 ≤ f.bias := by
    have hpow := Fmt.two_pow_eb (f := f) (by have := hf.exp; omega)
    have : 2 ^ 5 ≤ 2 ^ f.eb := Nat.pow_le_pow_right two_pos hf.exp
    omega
  have hlow : 4 - (f.m : Int) ≤ e := by
    have hlt : (2 : ℝ) ^ (4 : Int) < 2 ^ (e + (f.m + 1 : Nat)) := by
      have hmR : (m : ℝ) < 2 ^ (f.m + 1) := by exact_mod_cast hm
      have hbR : (15 : ℝ) ≤ f.bias := by exact_mod_cast hbias
      have := mul_lt_mul_of_pos_right hmR (show (0 : ℝ) < 2 ^ e by positivity)
      rw [zpow_add₀ two_ne_zero, zpow_natCast]
      norm_num
      linarith
    rw [zpow_lt_zpow_iff_right₀ one_lt_two] at hlt
    push_cast at hlt
    omega
  have hunit : (0 : ℝ) < 2 ^ e := by positivity
  have hone : (2 : ℝ) ^ (-e).toNat * 2 ^ e = 1 := by
    rw [← zpow_natCast, ← zpow_add₀ two_ne_zero, Int.toNat_of_nonneg (by omega), neg_add_cancel, zpow_zero]
  have hval : (m : ℝ) * 2 ^ e - k = ((m - k * 2 ^ (-e).toNat : Int) : ℝ) * 2 ^ e := by
    push_cast
    rw [sub_mul, mul_assoc, hone, mul_one]
  have hint : 1 ≤ (m - k * 2 ^ (-e).toNat : Int) := by
    rw [hval] at hfrac
    exact_mod_cast pos_of_mul_pos_left hfrac hunit.le
  have hreal : (1 : ℝ) ≤ ((m - k * 2 ^ (-e).toNat : Int) : ℝ) := by exact_mod_cast hint
  rw [hval]
  calc (4 : ℝ) / 2 ^ f.m ≤ 2 ^ (4 - (f.m : Int)) := by
        rw [zpow_sub₀ two_ne_zero, zpow_natCast]
        exact div_le_div_of_nonneg_right (by norm_num) (by positivity)
    _ ≤ 2 ^ e := zpow_le_zpow_right₀ one_le_two hlow
    _ ≤ _ := le_mul_of_one_le_left hunit.le hreal

/-- 2 to a small number is above 1 by half of it. -/
theorem one_add_half_le_two_rpow {x : ℝ} (h : 0 ≤ x) : 1 + x / 2 ≤ 2 ^ x := by
  rw [Real.rpow_def_of_pos two_pos]
  have hlog : 1 / 2 ≤ Real.log 2 := by linarith [Real.log_two_gt_d9]
  have := mul_le_mul_of_nonneg_right hlog h
  linarith [Real.add_one_le_exp (Real.log 2 * x)]

/-- A power of two with a fraction, from the fraction's first `p` bits. -/
theorem encloses_exp2 (hf : f.Sound) (hb : b ≤ 2) {p n l : Nat} (hp : 70 ≤ p) (hn : p ≤ n) (hnp : n + 3 ≤ 2 ^ p)
    (hl : 0 < l)
    (hfac : 2 ^ p ≤ l.factorial) (hslack : l + 1 + 4 * (n + 3) ≤ 4096) {neg : Bool} {m : Nat} {e v : Int} (hm : f.Holds m e)
    {y : ℝ}
    (hy : y = (numOf (.fin neg m e) : ℚ)) (hnot : ∀ i : Int, y ≠ i) (hlow : (v : ℝ) ≤ y * 2 ^ p)
    (hhigh : y * 2 ^ p < v + 1) :
    Encloses f b
      (max (2 ^ p) (expHorner p ((v % (2 ^ p : Nat)).toNat * ln2Sum p n / 2 ^ p) l (2 ^ p) - 1))
      (min (2 ^ (p + 1) - 1) (expHorner p ((v % (2 ^ p : Nat)).toNat * ln2Sum p n / 2 ^ p) l (2 ^ p) + 4096))
      (v / (2 ^ p : Nat) - p) (2 ^ y) := by
  have hppos : (0 : Int) < (2 ^ p : Nat) := by positivity
  have hdiv := Int.emod_add_mul_ediv v (2 ^ p : Nat)
  have hmod0 := Int.emod_nonneg v hppos.ne'
  have hmod1 := Int.emod_lt_of_pos v hppos
  set k := v / (2 ^ p : Nat)
  set z := (v % (2 ^ p : Nat)).toNat with hz
  have hvR : (v : ℝ) = z + 2 ^ p * k := by
    rw [← hdiv, ← Int.toNat_of_nonneg hmod0, ← hz]
    push_cast
    rfl
  have hP : (0 : ℝ) < 2 ^ p := by positivity
  have hzlow : (z : ℝ) ≤ (y - k) * 2 ^ p := by linarith
  have hzhigh : (y - k) * 2 ^ p < z + 1 := by linarith
  have hzlt : z < 2 ^ p := by omega
  have hzR : (z : ℝ) + 1 ≤ 2 ^ p := by exact_mod_cast hzlt
  have hx1 : y - k < 1 := by
    refine lt_of_mul_lt_mul_right ?_ hP.le
    linarith
  have hx0 : 0 ≤ y - k := by
    refine le_of_mul_le_mul_right ?_ hP
    rw [zero_mul]
    exact (Nat.cast_nonneg z).trans hzlow
  obtain ⟨hE, hE'⟩ := two_rpow_bounds hn hnp hl hfac hzlt hzlow hzhigh.le hx1.le
  have hval : (2 : ℝ) ^ y = 2 ^ p * 2 ^ (y - k) * 2 ^ (k - (p : Int)) := by
    rw [mul_right_comm, ← zpow_natCast, ← zpow_add₀ two_ne_zero, add_sub_cancel, ← Real.rpow_intCast,
        ← Real.rpow_add two_pos,
      add_sub_cancel]
  have hslackR : ((l : ℝ) + 1 + 4 * (n + 3)) ≤ 4096 := by exact_mod_cast hslack
  have hrange : (1 : ℝ) ≤ 2 ^ (y - k) ∧ (2 : ℝ) ^ (y - k) < 2 :=
    ⟨Real.one_le_rpow one_le_two hx0, (Real.rpow_lt_rpow_of_exponent_lt one_lt_two hx1).trans_eq (Real.rpow_one 2)⟩
  rw [hval]
  refine encloses_binade hf hb hp (le_mul_of_one_le_right hP.le hrange.1) ?_ hE (by linarith) fun hover => ?_
  · rw [pow_succ]
    exact mul_lt_mul_of_pos_left hrange.2 hP
  · rw [← hval, ← Real.rpow_natCast, Real.rpow_le_rpow_left_iff one_lt_two] at hover
    push_cast at hover
    have hkbias : (f.bias : Int) + 1 ≤ k := by
      have : ((f.bias : Int) + 1 : ℝ) < k + 1 := by push_cast; linarith
      have : (f.bias : Int) + 1 < k + 1 := by exact_mod_cast this
      omega
    refine ⟨by omega, ?_⟩
    have hnum : y = m * 2 ^ e := by
      rw [← abs_cast_numOf_fin neg m e, ← hy, abs_of_nonneg (le_trans (by positivity) hover)]
    have hfrac := fraction_of_exponent_beyond hf hm.lt (hnum ▸ hover) (hnum ▸ hx0.lt_of_ne fun h => hnot k (by linarith))
      (hnum ▸ hnot)
    rw [← hnum] at hfrac
    have hhalf := one_add_half_le_two_rpow hx0
    have hsub : (2 : ℝ) ^ (p - f.m) = 2 ^ p / 2 ^ f.m := by
      have := hf.frac_le
      rw [pow_sub₀ _ two_ne_zero (by omega), div_eq_mul_inv]
    have hfinal : 1 + 2 / 2 ^ f.m ≤ (2 : ℝ) ^ (y - k) := by
      have : (4 : ℝ) / 2 ^ f.m = 2 * (2 / 2 ^ f.m) := by ring
      linarith
    rw [hsub]
    calc (2 : ℝ) ^ p + 2 * (2 ^ p / 2 ^ f.m) = 2 ^ p * (1 + 2 / 2 ^ f.m) := by ring
      _ ≤ _ := mul_le_mul_of_nonneg_left hfinal hP.le

/-- A number whose power of two is the format's is an integer. -/
theorem integer_of_isExact_two_rpow (hf : f.Sound) {y : ℚ} {w : Nat × BitVec 32} (h : IsExact f ((2 : ℝ) ^ (y : ℝ)) w) :
    ∃ k : Int, (y : ℝ) = k := by
  obtain ⟨c, z, -, -, hval, -⟩ := exists_significand_of_isExact hf h
  rw [abs_of_pos (Real.rpow_pos_of_pos two_pos _)] at hval
  obtain ⟨k, hk⟩ := integer_of_two_rpow_rational (y := y) (r := c * 2 ^ z) (by push_cast; exact hval)
  exact ⟨k, by exact_mod_cast hk⟩

/-- A datum rounded down to a number of bits. -/
theorem signed_floor (neg : Bool) (m : Nat) (e q : Int) :
    let r := roundAt 1 false m e q false
    let v : Int := if neg then -(r.1 : Int) - (if r.2 then 1 else 0) else r.1
    (v : ℝ) ≤ (numOf (.fin neg m e) : ℚ) / 2 ^ q ∧ ((numOf (.fin neg m e) : ℚ) : ℝ) / 2 ^ q < v + 1 := by
  intro r v
  obtain ⟨hlow, hhigh, hne⟩ := roundAt_floor m e q
  change (r.1 : ℝ) ≤ _ at hlow
  change _ < (r.1 : ℝ) + 1 at hhigh
  rw [cast_numOf_fin]
  cases neg with
  | false =>
    rw [if_neg Bool.false_ne_true, one_mul]
    exact ⟨by exact_mod_cast hlow, by exact_mod_cast hhigh⟩
  | true =>
    have hv : (v : ℝ) = -(r.1 : ℝ) - (if r.2 then 1 else 0) := by
      show ((if true then -(r.1 : Int) - (if r.2 then 1 else 0) else r.1 : Int) : ℝ) = _
      rw [if_pos rfl]
      push_cast
      rfl
    rw [if_pos rfl, hv, mul_div_assoc, neg_one_mul]
    change (r.2 = true ↔ (r.1 : ℝ) ≠ _) at hne
    cases hr : r.2 with
    | false =>
      have heq : (r.1 : ℝ) = _ := not_not.mp (hne.not.mp (by rw [hr]; exact Bool.false_ne_true))
      rw [if_neg Bool.false_ne_true, heq]
      exact ⟨by linarith, by linarith⟩
    | true =>
      have hlt := lt_of_le_of_ne hlow (hne.mp hr)
      rw [if_pos rfl]
      exact ⟨by linarith, by linarith⟩

/-- A datum with no fraction is that integer. -/
theorem integer_of_roundAt_exact (neg : Bool) (m : Nat) (e : Int) (h : (roundAt 1 false m e 0 false).2 = false) :
    ((numOf (.fin neg m e) : ℚ) : ℝ) =
      (if neg then -((roundAt 1 false m e 0 false).1 : Int) else (roundAt 1 false m e 0 false).1 : Int) := by
  have hne := (roundAt_floor m e 0).2.2
  rw [h, zpow_zero, div_one] at hne
  have heq : ((roundAt 1 false m e 0 false).1 : ℝ) = m * 2 ^ e := not_not.mp (hne.not.mp Bool.false_ne_true)
  rw [cast_numOf_fin, ← heq]
  cases neg <;> simp

theorem not_integer_of_roundAt_inexact (neg : Bool) (m : Nat) (e : Int) (h : (roundAt 1 false m e 0 false).2 = true)
    (i : Int) :
    ((numOf (.fin neg m e) : ℚ) : ℝ) ≠ i := by
  intro hi
  obtain ⟨hlow, hhigh, hne⟩ := roundAt_floor m e 0
  rw [zpow_zero, div_one] at hlow hhigh hne
  have habs := abs_cast_numOf_fin neg m e
  rw [hi] at habs
  have hnat : (m : ℝ) * 2 ^ e = (i.natAbs : ℕ) := by rw [← habs, Nat.cast_natAbs, Int.cast_abs]
  rw [hnat] at hlow hhigh hne
  refine hne.mp h (le_antisymm hlow ?_)
  have : i.natAbs < (roundAt 1 false m e 0 false).1 + 1 := by exact_mod_cast hhigh
  exact_mod_cast Nat.le_of_lt_succ this

theorem exp2F_finite (hf : f.Sound) (hb1 : 1 ≤ b) (hb2 : b ≤ 2) {a m : Nat} {n : Bool} {e : Int}
    (ha : decodeF f a = .fin n m e) (pick : Nat) :
    Approximates f b ((2 : ℝ) ^ ((numOf (.fin n m e) : ℚ) : ℝ)) (exp2F f b a pick) := by
  have hemin : f.emin = 1 - f.bias := rfl
  have hfm := hf.frac_le
  have hbias := hf.bias_le
  rw [exp2F, ha]
  dsimp -zeta only
  extract_lets p big whole fx k r v k' z t lo
  split
  · rename_i hbig
    rw [Bool.and_eq_true, decide_eq_true_eq, decide_eq_true_eq] at hbig
    have hlarge : (2 : ℝ) ^ (13 : Int) ≤ m * 2 ^ e := by
      have hlow := (significand_bounds (x := 0) hbig.2 le_rfl one_pos e).1
      rw [add_zero] at hlow
      exact (zpow_le_zpow_right₀ one_le_two hbig.1).trans hlow
    rw [cast_numOf_fin]
    cases n with
    | true =>
      rw [if_pos rfl, if_pos rfl, neg_one_mul]
      refine underflow_approximates hf hb1 hb2 (by positivity) ?_ pick
      refine (Real.rpow_lt_rpow_of_exponent_lt one_lt_two ?_).trans_eq (Real.rpow_intCast 2 (f.emin - f.m))
      have hexp : (-8192 : ℝ) < (f.emin - f.m : Int) := by
        exact_mod_cast (by omega : -8192 < f.emin - f.m)
      norm_num at hlarge
      linarith
    | false =>
      rw [if_neg Bool.false_ne_true, if_neg Bool.false_ne_true, one_mul]
      refine overflow_approximates hf ?_
      refine (Real.rpow_natCast 2 (f.bias + 1)).ge.trans (Real.rpow_le_rpow_of_exponent_le one_le_two (le_trans ?_ hlarge))
      have : ((f.bias + 1 : Nat) : ℝ) ≤ (8192 : Nat) := Nat.cast_le.mpr (by omega)
      norm_num at this ⊢
      exact this
  · split
    · rename_i hwhole
      rw [integer_of_roundAt_exact n m e (by simpa using hwhole), Real.rpow_intCast]
      exact exp2_integer_approximates hf hb1 hb2 (by decide) k pick
    · rename_i hwhole
      have hnot := not_integer_of_roundAt_inexact n m e (by simpa using hwhole)
      have hv := signed_floor n m e (-p)
      rw [zpow_neg, div_inv_eq_mul, zpow_natCast] at hv
      have hpos : (0 : ℝ) < 2 ^ ((numOf (.fin n m e) : ℚ) : ℝ) := by positivity
      refine approximates_of_withinUlps ?_ fun ⟨w, hw⟩ => (integer_of_isExact_two_rpow hf hw).elim hnot
      refine within_withinUlps hf hb1 hb2 (iff_of_false Bool.false_ne_true hpos.not_gt) ?_ pick
      rw [abs_of_pos hpos]
      exact encloses_exp2 hf hb2 (by decide) (by decide) (by decide +kernel) (by decide) (by decide +kernel) (by decide)
        (holds_of_decodeF hf ha) rfl hnot hv.1 hv.2

end Sys2Proof.Machine

end

section

namespace Sys2Proof.Machine

/-! ## The series of `vlog2` -/

open Finset in
/-- The series of the inverse hyperbolic tangent in units of 2^-p, from the `i`-th power of the square on, each product and
each term rounded down. -/
theorem atanhSum_bounds {p zz : Nat} {r : ℝ} (h0 : 0 ≤ r) (h1 : r ≤ 1 / 3) (hlow : (zz : ℝ) ≤ r ^ 2 * 2 ^ p)
    (hhigh : r ^ 2 * 2 ^ p ≤ zz + 2) (n i : Nat) {t : Nat} (ht : (t : ℝ) ≤ r ^ (2 * i + 1) * 2 ^ p)
    (ht' : r ^ (2 * i + 1) * 2 ^ p ≤ t + 2) :
    (atanhSum p zz n i t : ℝ) ≤ 2 ^ p * ∑ j ∈ range n, r ^ (2 * (i + j) + 1) / (2 * (i + j : Nat) + 1) ∧
      2 ^ p * ∑ j ∈ range n, r ^ (2 * (i + j) + 1) / (2 * (i + j : Nat) + 1) ≤ atanhSum p zz n i t + 3 * n := by
  induction n generalizing i t with
  | zero => simp [atanhSum]
  | succ n ih =>
    set P : ℝ := 2 ^ p with hP
    have hPpos : 0 < P := by positivity
    have hsq : r ^ 2 ≤ 1 / 9 := by nlinarith
    have hpow : r ^ (2 * (i + 1) + 1) * P = r ^ (2 * i + 1) * P * (r ^ 2 * P) / P := by
      rw [show 2 * (i + 1) + 1 = 2 * i + 1 + 2 by ring, pow_add]
      field_simp
    have hcast : ((t * zz : Nat) : ℝ) / (2 ^ p : Nat) = t * zz / P := by
      push_cast
      rfl
    have hdown : ((t * zz / 2 ^ p : Nat) : ℝ) ≤ t * zz / P := hcast ▸ Nat.cast_div_le
    have hup : t * zz / P < (t * zz / 2 ^ p : Nat) + 1 := hcast ▸ lt_natDiv_add_one _ _
    have hr : r ^ (2 * i + 1) ≤ 1 / 3 := (pow_le_of_le_one h0 (by linarith) (by omega)).trans h1
    have hnext : ((t * zz / 2 ^ p : Nat) : ℝ) ≤ r ^ (2 * (i + 1) + 1) * P := by
      rw [hpow]
      refine hdown.trans (div_le_div_of_nonneg_right (mul_le_mul ht hlow (Nat.cast_nonneg _) (by positivity)) hPpos.le)
    have hnext' : r ^ (2 * (i + 1) + 1) * P ≤ (t * zz / 2 ^ p : Nat) + 2 := by
      have hprod : r ^ (2 * i + 1) * P * (r ^ 2 * P) ≤ t * zz + 2 * (r ^ 2 * P) + 2 * (r ^ (2 * i + 1) * P) := by
        have h2 := mul_le_mul_of_nonneg_right ht' (show 0 ≤ r ^ 2 * P by positivity)
        have h3 := mul_le_mul_of_nonneg_left hhigh (Nat.cast_nonneg (α := ℝ) t)
        linarith
      have hsmall : 2 * (r ^ 2 * P) + 2 * (r ^ (2 * i + 1) * P) ≤ P := by nlinarith
      rw [hpow, div_le_iff₀ hPpos]
      have := (div_lt_iff₀ hPpos).mp hup
      linarith
    obtain ⟨hsum, hsum'⟩ := ih (i + 1) hnext hnext'
    have hterm : ((t / (2 * i + 1) : Nat) : ℝ) ≤ P * (r ^ (2 * i + 1) / (2 * i + 1)) := by
      refine Nat.cast_div_le.trans ?_
      rw [mul_div_assoc', mul_comm P]
      push_cast
      exact div_le_div_of_nonneg_right ht (by positivity)
    have hterm' : P * (r ^ (2 * i + 1) / (2 * i + 1)) ≤ (t / (2 * i + 1) : Nat) + 3 := by
      have hfloor := lt_natDiv_add_one t (2 * i + 1)
      have hone : (1 : ℝ) ≤ 2 * i + 1 := by linarith [Nat.cast_nonneg (α := ℝ) i]
      push_cast at hfloor
      rw [mul_div_assoc', mul_comm P]
      have hle : r ^ (2 * i + 1) * P / (2 * i + 1) ≤ (t + 2) / (2 * i + 1) := div_le_div_of_nonneg_right ht' (by positivity)
      have htwo : (2 : ℝ) / (2 * i + 1) ≤ 2 := div_le_self zero_le_two hone
      rw [add_div] at hle
      linarith
    have hshift : ∑ j ∈ range n, r ^ (2 * (i + (j + 1)) + 1) / (2 * (i + (j + 1) : Nat) + 1) =
        ∑ j ∈ range n, r ^ (2 * (i + 1 + j) + 1) / (2 * (i + 1 + j : Nat) + 1) :=
      sum_congr rfl fun j _ => by rw [show i + (j + 1) = i + 1 + j by ring]
    rw [atanhSum, sum_range_succ', mul_add, hshift, add_zero]
    push_cast at *
    exact ⟨by linarith, by linarith⟩

/-- The logarithm of (1 + r) / (1 - r) in units of 2^-p, from below. -/
theorem atanhSum_log_bounds {p z n : Nat} {r : ℝ} (h0 : 0 ≤ r) (h1 : r ≤ 1 / 3) (hz : (z : ℝ) ≤ r * 2 ^ p)
    (hz' : r * 2 ^ p ≤ z + 1) (hn : 2 ^ p ≤ 9 ^ n) :
    2 * (atanhSum p (z * z / 2 ^ p) n 0 z : ℝ) ≤ 2 ^ p * Real.log ((1 + r) / (1 - r)) ∧
      2 ^ p * Real.log ((1 + r) / (1 - r)) ≤ 2 * atanhSum p (z * z / 2 ^ p) n 0 z + (6 * n + 2) := by
  have hP : (0 : ℝ) < 2 ^ p := by positivity
  have hcast : ((z * z : Nat) : ℝ) / (2 ^ p : Nat) = z * z / 2 ^ p := by push_cast; rfl
  have hdown : ((z * z / 2 ^ p : Nat) : ℝ) ≤ z * z / 2 ^ p := hcast ▸ Nat.cast_div_le
  have hup : (z : ℝ) * z / 2 ^ p < (z * z / 2 ^ p : Nat) + 1 := hcast ▸ lt_natDiv_add_one _ _
  have hsq : r ^ 2 * 2 ^ p = r * 2 ^ p * (r * 2 ^ p) / 2 ^ p := by field_simp
  have hlow : ((z * z / 2 ^ p : Nat) : ℝ) ≤ r ^ 2 * 2 ^ p := by
    rw [hsq]
    exact hdown.trans (div_le_div_of_nonneg_right (mul_le_mul hz hz (Nat.cast_nonneg _) (by positivity)) hP.le)
  have hhigh : r ^ 2 * 2 ^ p ≤ (z * z / 2 ^ p : Nat) + 2 := by
    rw [hsq, div_le_iff₀ hP]
    have hprod : r * 2 ^ p * (r * 2 ^ p) ≤ z * z + z + r * 2 ^ p := by
      have h2 := mul_le_mul_of_nonneg_right hz' (show 0 ≤ r * 2 ^ p by positivity)
      have h3 := mul_le_mul_of_nonneg_left hz' (Nat.cast_nonneg (α := ℝ) z)
      linarith
    have hthird : r * 2 ^ p ≤ 1 / 3 * 2 ^ p := mul_le_mul_of_nonneg_right h1 hP.le
    have := (div_lt_iff₀ hP).mp hup
    linarith
  obtain ⟨hsum, hsum'⟩ := atanhSum_bounds h0 h1 hlow hhigh n 0 (t := z) (by simpa using hz) (by simp; linarith)
  simp only [zero_add] at hsum hsum'
  have hseries := Real.sum_range_le_log_div h0 (by linarith) n
  have hseries' := Real.log_div_le_sum_range_add h0 (by linarith) n
  have htail : 2 ^ p * (r ^ (2 * n + 1) / (1 - r ^ 2)) ≤ 1 := by
    have hsmall : r ^ (2 * n + 1) ≤ (1 / 9) ^ n * (1 / 3) := by
      rw [pow_succ, pow_mul]
      exact mul_le_mul (pow_le_pow_left₀ (by positivity) (by nlinarith) n) h1 h0 (by positivity)
    have hcancel : (2 : ℝ) ^ p * (1 / 9) ^ n ≤ 1 := by
      rw [one_div, inv_pow, ← div_eq_mul_inv, div_le_one (by positivity)]
      exact_mod_cast hn
    rw [mul_div_assoc', div_le_one (by nlinarith)]
    have := mul_le_mul_of_nonneg_left hsmall hP.le
    nlinarith
  have hmul := mul_le_mul_of_nonneg_left hseries hP.le
  have hmul' := mul_le_mul_of_nonneg_left hseries' hP.le
  rw [mul_add] at hmul'
  exact ⟨by linarith, by linarith⟩

/-- A quotient of two numbers known from below, the divisor's error in proportion. -/
theorem quotient_bounds {a l P : Nat} {W V c d : ℝ} (hP : (P : ℝ) ≤ 2 * l) (hP0 : 0 < P) (hW : W ≤ V) (ha : (a : ℝ) ≤ W)
    (ha' : W ≤ a + c) (hl : (l : ℝ) ≤ V) (hl' : V ≤ l + d) :
    ((a * P / l : Nat) : ℝ) ≤ P * W / V + 2 * d ∧ P * W / V ≤ (a * P / l : Nat) + (2 * c + 1) := by
  have hPR : (0 : ℝ) < P := Nat.cast_pos.mpr hP0
  have hlpos : (0 : ℝ) < l := by linarith
  have hV : 0 < V := by linarith
  have ha0 : (0 : ℝ) ≤ a := Nat.cast_nonneg a
  have hdown : ((a * P / l : Nat) : ℝ) ≤ a * P / l := by exact_mod_cast Nat.cast_div_le (α := ℝ) (m := a * P) (n := l)
  have hup : (a : ℝ) * P / l < (a * P / l : Nat) + 1 := by exact_mod_cast lt_natDiv_add_one (a * P) l
  constructor
  · refine hdown.trans ?_
    rw [div_add' _ _ _ hV.ne', div_le_div_iff₀ hlpos hV]
    have h1 : (a : ℝ) * P * V ≤ W * P * V := by gcongr
    have h2 : W * P * (V - l) ≤ V * P * d := by
      have hd : 0 ≤ d := by linarith
      refine mul_le_mul (by gcongr) (by linarith) (by linarith) (by positivity)
    have h3 : V * P * d ≤ V * (2 * l) * d := by
      have hd : 0 ≤ d := by linarith
      gcongr
    linarith
  · have h1 : (a : ℝ) * P / V ≤ a * P / l := by gcongr
    have h2 : P * W / V ≤ a * P / V + 2 * c := by
      rw [div_add' _ _ _ hV.ne', div_le_div_iff_of_pos_right hV]
      have hc : 0 ≤ c := by linarith
      have h3 : (P : ℝ) * W ≤ P * (a + c) := by gcongr
      have h4 : (P : ℝ) * c ≤ 2 * V * c := by
        refine mul_le_mul_of_nonneg_right ?_ hc
        linarith
      linarith
    linarith

/-- The binary logarithm of a significand, from two series. -/
theorem log2_series_bounds {p z n N : Nat} {r : ℝ} (h0 : 0 ≤ r) (h1 : r ≤ 1 / 3) (hz : (z : ℝ) ≤ r * 2 ^ p)
    (hz' : r * 2 ^ p ≤ z + 1) (hn : 2 ^ p ≤ 9 ^ n) (hN : p ≤ N) (hNp : 6 * (N + 1) ≤ 2 ^ p) :
    ((2 * atanhSum p (z * z / 2 ^ p) n 0 z * 2 ^ p / ln2Sum p N : Nat) : ℝ) ≤
        2 ^ p * Real.logb 2 ((1 + r) / (1 - r)) + 2 * (N + 1) ∧
      2 ^ p * Real.logb 2 ((1 + r) / (1 - r)) ≤
        (2 * atanhSum p (z * z / 2 ^ p) n 0 z * 2 ^ p / ln2Sum p N : Nat) + (2 * (6 * n + 2) + 1) := by
  obtain ⟨hA, hA'⟩ := atanhSum_log_bounds h0 h1 hz hz' hn
  have hL := ln2Sum_le p N
  have hL' := log_two_le_ln2Sum hN
  have hP : (0 : ℝ) < 2 ^ p := by positivity
  have hNR : (6 : ℝ) * (N + 1) ≤ 2 ^ p := by exact_mod_cast hNp
  have hlog : Real.log ((1 + r) / (1 - r)) ≤ Real.log 2 := by
    refine Real.log_le_log (div_pos (by linarith) (by linarith)) ?_
    rw [div_le_iff₀ (by linarith)]
    linarith
  have hhalf : ((2 ^ p : Nat) : ℝ) ≤ 2 * ln2Sum p N := by
    have hln := mul_le_mul_of_nonneg_left Real.log_two_gt_d9.le hP.le
    push_cast
    linarith
  have hq := quotient_bounds (a := 2 * atanhSum p (z * z / 2 ^ p) n 0 z) (c := 6 * n + 2) (d := N + 1) hhalf
      (Nat.two_pow_pos p)
    (mul_le_mul_of_nonneg_left hlog hP.le) (by push_cast; exact hA) (by push_cast; exact hA') hL hL'
  have hval : ((2 ^ p : Nat) : ℝ) * (2 ^ p * Real.log ((1 + r) / (1 - r))) / (2 ^ p * Real.log 2) =
      2 ^ p * Real.logb 2 ((1 + r) / (1 - r)) := by
    rw [Real.logb]
    push_cast
    have : Real.log 2 ≠ 0 := (Real.log_pos one_lt_two).ne'
    field_simp
  rwa [hval] at hq

end Sys2Proof.Machine

end

section

namespace Sys2Proof.Machine

variable {f : Fmt} {b : Nat}

/-! ## `vlog2` (06 R130, R131) -/

/-- An integer of the format's significands is exact. -/
theorem intToF_approximates (hf : f.Sound) {k : Int} (h0 : k ≠ 0) (hk : k.natAbs < 2 ^ (f.m + 1)) :
    Approximates f b (k : ℝ) (intToF f 0 k) := by
  have hne : k.natAbs ≠ 0 := by omega
  have habs : |(k : ℝ)| = k.natAbs := by rw [Nat.cast_natAbs, Int.cast_abs]
  have hrounded := roundTo_isRounded hf (neg := decide (k < 0)) (e := 0) hne (Nat.zero_le 4) sticky_false nofun
  rw [add_zero, zpow_zero, mul_one, ← habs] at hrounded
  have hemin : f.emin = 1 - f.bias := rfl
  have hfrac := hf.frac
  have hfrac' := hf.frac_le_bias
  refine approximates_of_isRounded hf ?_ hrounded hk (show f.emin - f.m ≤ 0 by omega) (by rw [habs, zpow_zero, mul_one])
  rw [decide_eq_true_eq, ← Int.cast_lt (R := ℝ), Int.cast_zero]

/-- A number known within a small part of itself. -/
theorem encloses_of_slack (hf : f.Sound) {lo hi : Nat} {x : Int} {w : ℝ} (hlo : 2 ^ 80 ≤ lo) (hlow : (lo : ℝ) ≤ w)
    (hhigh : w ≤ hi) (hslack : hi ≤ lo + 2 ^ 14) (htop : w * 2 ^ x < 2 ^ (f.bias + 1)) : Encloses f b lo hi x (w * 2 ^ x) := by
  have hx : (0 : ℝ) < 2 ^ x := by positivity
  have hlo0 : lo ≠ 0 := (lt_of_lt_of_le (Nat.two_pow_pos 80) hlo).ne'
  have hpos : (0 : ℝ) < lo := Nat.cast_pos.mpr (Nat.pos_of_ne_zero hlo0)
  have hlog : 80 ≤ lo.log2 := (Nat.le_log2 hlo0).mpr hlo
  have hfrac := hf.frac_le
  have hgap : 14 ≤ (lastPlace f lo x - x).toNat := by rw [lastPlace]; omega
  refine ⟨mul_pos (hpos.trans_le hlow) hx, mul_le_mul_of_nonneg_right hlow hx.le, by exact_mod_cast hlow.trans hhigh,
    by rw [lastPlace]; omega, fun h => absurd h hlo0, hslack.trans
        (Nat.add_le_add_left (Nat.pow_le_pow_right two_pos hgap) _),
    upper_of_le (mul_le_mul_of_nonneg_right hhigh hx.le), fun h => absurd h htop.not_ge⟩

/-- A number known within a small part of itself, of either sign. -/
theorem within_signed_withinUlps (hf : f.Sound) (hb1 : 1 ≤ b) (hb2 : b ≤ 2) {v : Int} {d : Nat} {x : Int} {w : ℝ}
    (hd : 2 * d ≤ 2 ^ 14)
    (hw : |w - v| ≤ d) (hlarge : 2 ^ 81 ≤ |w|) (htop : |w| * 2 ^ x < 2 ^ (f.bias + 1)) (pick : Nat) :
    WithinUlps f b (w * 2 ^ x)
      (if 0 ≤ v - d then within f b false (v - d).toNat (v + d).toNat x pick
        else within f b true (v + d).natAbs (v - d).natAbs x pick) := by
  have hx : (0 : ℝ) < 2 ^ x := by positivity
  obtain ⟨hw1, hw2⟩ := abs_le.mp hw
  have hdR : (2 : ℝ) * d ≤ 2 ^ 14 := by exact_mod_cast hd
  split
  · rename_i hv
    have hvR : (0 : ℝ) ≤ v - d := by exact_mod_cast hv
    have hw0 : 0 ≤ w := by linarith
    rw [abs_of_nonneg hw0] at hlarge htop
    have hlo : (((v - d).toNat : Nat) : ℝ) = v - d := by exact_mod_cast Int.toNat_of_nonneg hv
    have hhi : (((v + d).toNat : Nat) : ℝ) = v + d := by exact_mod_cast Int.toNat_of_nonneg (show 0 ≤ v + d by omega)
    refine within_withinUlps hf hb1 hb2 (iff_of_false Bool.false_ne_true (mul_nonneg hw0 hx.le).not_gt) ?_ pick
    rw [abs_of_nonneg (mul_nonneg hw0 hx.le)]
    refine encloses_of_slack hf ?_ (by rw [hlo]; linarith) (by rw [hhi]; linarith) (by omega) htop
    have : (2 : ℝ) ^ 80 ≤ (((v - d).toNat : Nat) : ℝ) := by
      rw [hlo]
      norm_num at hlarge hdR ⊢
      linarith
    exact_mod_cast this
  · rename_i hv
    have hvR : (v : ℝ) - d < 0 := by exact_mod_cast not_le.mp hv
    have hw0 : w < 0 := by
      by_contra hge
      rw [abs_of_nonneg (not_lt.mp hge)] at hlarge
      norm_num at hlarge hdR
      linarith
    rw [abs_of_neg hw0] at hlarge htop
    have hneg : (v : ℝ) + d < -(2 ^ 80) := by
      norm_num at hlarge hdR ⊢
      linarith
    have hv' : v + d < 0 := by
      have : (v : ℝ) + d < 0 := hneg.trans (by norm_num)
      exact_mod_cast this
    have hlo : (((v + d).natAbs : Nat) : ℝ) = -(v + d) := by
      rw [Nat.cast_natAbs, abs_of_neg hv']
      push_cast
      rfl
    have hhi : (((v - d).natAbs : Nat) : ℝ) = -(v - d) := by
      rw [Nat.cast_natAbs, abs_of_neg (not_le.mp hv)]
      push_cast
      rfl
    have hneg' : w * 2 ^ x < 0 := mul_neg_of_neg_of_pos hw0 hx
    refine within_withinUlps hf hb1 hb2 (iff_of_true rfl hneg') ?_ pick
    rw [abs_of_neg hneg', ← neg_mul]
    refine encloses_of_slack hf ?_ (by rw [hlo]; linarith) (by rw [hhi]; linarith) (by omega) htop
    have : (2 : ℝ) ^ 80 ≤ (((v + d).natAbs : Nat) : ℝ) := by
      rw [hlo]
      linarith
    exact_mod_cast this

/-- A logarithm is the format's only of a power of two. -/
theorem two_pow_of_isExact_logb {m : Nat} {e : Int} (hm : m ≠ 0) {w : Nat × BitVec 32}
    (h : IsExact f (Real.logb 2 (m * 2 ^ e)) w) : m = 2 ^ m.log2 := by
  obtain ⟨neg, n, -, -, hval⟩ := h
  have hpos : (0 : ℝ) < m * 2 ^ e := by
    have : (0 : ℝ) < m := Nat.cast_pos.mpr (Nat.pos_of_ne_zero hm)
    positivity
  have hrat : ((if neg then -magOf f n else magOf f n : ℚ) : ℝ) = Real.logb 2 (m * 2 ^ e) := by
    rw [← hval]
    split <;> push_cast <;> rfl
  obtain ⟨k, hk⟩ := integer_of_two_rpow_rational (y := if neg then -magOf f n else magOf f n) (r := m * 2 ^ e) (by
    rw [hrat, Real.rpow_logb two_pos (by norm_num) hpos]
    push_cast
    rfl)
  have hpow : (m : ℝ) * 2 ^ e = 2 ^ k := by
    rw [hk, Rat.cast_intCast] at hrat
    rw [← Real.rpow_intCast 2 k, hrat, Real.rpow_logb two_pos (by norm_num) hpos]
  obtain ⟨-, j, rfl⟩ := two_pow_of_mul (c := 1) (m := m) (z := e - k) (by
    rw [Nat.cast_one, one_mul, zpow_sub₀ two_ne_zero, mul_div_assoc', hpow, div_self (by positivity)])
  rw [Nat.log2_two_pow]

/-- A significand between 1 and 2 that is no power of two, as (1 + r) / (1 - r), and the first `p` bits of r. -/
theorem significand_ratio {m p : Nat} (hm : m ≠ 0) (hp : m.log2 ≤ p) :
    let t := m * 2 ^ (p - m.log2)
    let z := (t - 2 ^ p) * 2 ^ p / (t + 2 ^ p)
    let r : ℝ := (m / 2 ^ m.log2 - 1) / (m / 2 ^ m.log2 + 1)
    0 ≤ r ∧ r ≤ 1 / 3 ∧ (1 + r) / (1 - r) = m / 2 ^ m.log2 ∧ (z : ℝ) ≤ r * 2 ^ p ∧ r * 2 ^ p ≤ z + 1 := by
  intro t z r
  set s : ℝ := m / 2 ^ m.log2 with hs
  have hpow : (2 : ℝ) ^ p = 2 ^ m.log2 * 2 ^ (p - m.log2) := by rw [← pow_add, Nat.add_sub_cancel' hp]
  have hs1 : 1 ≤ s := by
    rw [hs, le_div_iff₀ (by positivity), one_mul]
    exact_mod_cast Nat.log2_self_le hm
  have hs2 : s < 2 := by
    rw [hs, div_lt_iff₀ (by positivity), ← pow_succ']
    exact_mod_cast Nat.lt_log2_self (n := m)
  have hsub : 2 ^ p ≤ t := by
    have : 2 ^ p = 2 ^ m.log2 * 2 ^ (p - m.log2) := by rw [← pow_add, Nat.add_sub_cancel' hp]
    rw [this]
    exact Nat.mul_le_mul_right _ (Nat.log2_self_le hm)
  have ht : (t : ℝ) = s * 2 ^ p := by
    rw [hs, hpow, Nat.cast_mul]
    push_cast
    field_simp
  have hr : r * 2 ^ p = ((t - 2 ^ p) * 2 ^ p : Nat) / (t + 2 ^ p : Nat) := by
    rw [Nat.cast_mul, Nat.cast_sub hsub, Nat.cast_add, ht]
    push_cast
    have : s + 1 ≠ 0 := by linarith
    have h2 : s * 2 ^ p + 2 ^ p ≠ 0 := by positivity
    show (s - 1) / (s + 1) * 2 ^ p = _
    field_simp
  refine ⟨div_nonneg (by linarith) (by linarith), ?_, ?_, hr ▸ Nat.cast_div_le, hr ▸ (lt_natDiv_add_one _ _).le⟩
  · show (s - 1) / (s + 1) ≤ 1 / 3
    rw [div_le_div_iff₀ (by linarith) (by norm_num)]
    linarith
  · show (1 + (s - 1) / (s + 1)) / (1 - (s - 1) / (s + 1)) = s
    have : s + 1 ≠ 0 := by linarith
    field_simp
    ring

theorem logb_two_zpow (k : Int) : Real.logb 2 ((2 : ℝ) ^ k) = k := by
  rw [← Real.rpow_intCast, Real.logb_rpow two_pos (by norm_num)]

/-- A logarithm's integer part and that of its significand. -/
theorem logb_significand {m : Nat} (hm : m ≠ 0) (e : Int) :
    Real.logb 2 (m * 2 ^ e) = (e + m.log2 : Int) + Real.logb 2 (m / 2 ^ m.log2) := by
  have hmR : (m : ℝ) ≠ 0 := Nat.cast_ne_zero.mpr hm
  have hsplit : (m : ℝ) * 2 ^ e = 2 ^ (e + m.log2 : Int) * (m / 2 ^ m.log2) := by
    rw [zpow_add₀ two_ne_zero, zpow_natCast]
    field_simp
  rw [hsplit, Real.logb_mul (by positivity) (by positivity), logb_two_zpow]

/-- The significand's own logarithm is not near an integer. -/
theorem logb_significand_bounds {m : Nat} (hm : m ≠ 0) (hpow : m ≠ 2 ^ m.log2) :
    1 / 2 ^ (m.log2 + 1) ≤ Real.logb 2 (m / 2 ^ m.log2) ∧ Real.logb 2 (m / 2 ^ m.log2) ≤ 1 - 1 / 2 ^ (m.log2 + 1) := by
  set L := m.log2 with hL
  have hlow : (2 : ℝ) ^ L + 1 ≤ m := by exact_mod_cast (Nat.log2_self_le hm).lt_of_ne (Ne.symm hpow)
  have hhigh : (m : ℝ) + 1 ≤ 2 ^ (L + 1) := by exact_mod_cast Nat.lt_log2_self (n := m)
  have hP : (0 : ℝ) < 2 ^ L := by positivity
  have hmR : (0 : ℝ) < m := by linarith
  have hlog0 : 0 < Real.log 2 := Real.log_pos one_lt_two
  have hlog1 : Real.log 2 ≤ 1 := by linarith [Real.log_two_lt_d9]
  have hscale {x : ℝ} (hx : 0 ≤ Real.log x) : Real.log x ≤ Real.logb 2 x := (le_div_iff₀ hlog0).mpr
      (mul_le_of_le_one_right hx hlog1)
  rw [pow_succ] at hhigh ⊢
  constructor
  · have hstep : 1 / (2 ^ L * 2) ≤ Real.log (m / 2 ^ L) := by
      refine le_trans ?_ (Real.one_sub_inv_le_log_of_pos (by positivity))
      rw [inv_div, one_sub_div hmR.ne', div_le_div_iff₀ (by positivity) hmR]
      nlinarith
    exact hstep.trans (hscale (le_trans (by positivity) hstep))
  · have hstep : 1 / (2 ^ L * 2) ≤ Real.log (2 / (m / 2 ^ L)) := by
      refine le_trans ?_ (Real.one_sub_inv_le_log_of_pos (by positivity))
      rw [inv_div, div_div, one_sub_div (by positivity), div_le_div_iff_of_pos_right (by positivity)]
      linarith
    have hsplit : Real.logb 2 (2 / (m / 2 ^ L)) = 1 - Real.logb 2 (m / 2 ^ L) := by
      rw [Real.logb_div two_ne_zero (by positivity), Real.logb_self_eq_one one_lt_two]
    have := hstep.trans (hscale (le_trans (by positivity) hstep))
    linarith

/-- The logarithm of a datum is neither near 0 nor beyond the format. -/
theorem abs_logb_bounds (hf : f.Sound) {m : Nat} {e : Int} (hm : m ≠ 0) (hpow : m ≠ 2 ^ m.log2) (hh : f.Holds m e) :
    1 / 2 ^ 53 ≤ |Real.logb 2 (m * 2 ^ e)| ∧ |Real.logb 2 (m * 2 ^ e)| < 2 ^ (f.bias + 1) := by
  obtain ⟨hlow, hhigh⟩ := logb_significand_bounds hm hpow
  rw [logb_significand hm]
  have hL : m.log2 + 1 ≤ 53 := by
    have := (Nat.log2_lt hm).mpr hh.lt
    have := hf.frac_le
    omega
  have hmin : (1 : ℝ) / 2 ^ 53 ≤ 1 / 2 ^ (m.log2 + 1) :=
    one_div_le_one_div_of_le (by positivity) (pow_le_pow_right₀ one_le_two hL)
  have hpos : (0 : ℝ) < 1 / 2 ^ (m.log2 + 1) := by positivity
  set k : Int := e + m.log2 with hk
  have hkhigh : (k : ℝ) ≤ f.bias := by
    have := hh.below hm
    exact_mod_cast (by omega : k ≤ f.bias)
  have hklow : 1 - 2 * (f.bias : ℝ) ≤ k := by
    have h1 := hh.least
    have h2 := hf.frac_le_bias
    have h3 : f.emin = 1 - f.bias := rfl
    exact_mod_cast (by omega : 1 - 2 * (f.bias : Int) ≤ k)
  have hbias : (2 : ℝ) * f.bias < 2 ^ (f.bias + 1) := by
    rw [pow_succ']
    have : (f.bias : ℝ) < 2 ^ f.bias := by exact_mod_cast Nat.lt_two_pow_self
    linarith
  have hone : (1 : ℝ) ≤ f.bias := by exact_mod_cast (by have := hf.frac; have := hf.frac_le_bias; omega : 1 ≤ f.bias)
  refine ⟨hmin.trans ?_, abs_lt.mpr ⟨by linarith, by linarith⟩⟩
  rcases le_or_gt 0 k with h | h
  · have hkR : (0 : ℝ) ≤ k := by exact_mod_cast h
    exact le_abs.mpr (.inl (by linarith))
  · have hkR : (k : ℝ) ≤ -1 := by exact_mod_cast (by omega : k ≤ -1)
    exact le_abs.mpr (.inr (by linarith))

theorem log2F_finite (hf : f.Sound) (hb1 : 1 ≤ b) (hb2 : b ≤ 2) (hrange : f.bias + f.m ≤ 2 ^ (f.m + 1)) {a m : Nat}
    {e : Int}
    (hm : m ≠ 0) (ha : decodeF f a = .fin false m e) (pick : Nat) :
    ((m : ℝ) * 2 ^ e = 1 → log2F f b a pick = (0, 0#32)) ∧
      ((m : ℝ) * 2 ^ e ≠ 1 → Approximates f b (Real.logb 2 (m * 2 ^ e)) (log2F f b a pick)) := by
  have hh := holds_of_decodeF hf ha
  rw [log2F, ha]
  dsimp -zeta only
  extract_lets k p t z l lo hi
  rw [if_neg hm, if_neg Bool.false_ne_true]
  split
  · rename_i hpow
    have hval : (m : ℝ) * 2 ^ e = 2 ^ k := by
      rw [show k = (m.log2 : Int) + e from add_comm _ _, zpow_add₀ two_ne_zero, zpow_natCast]
      congr 1
      exact_mod_cast hpow
    rw [hval]
    constructor
    · intro h
      have hk : k = 0 := zpow_right_injective₀ two_pos (by norm_num) (h.trans (zpow_zero (2 : ℝ)).symm)
      rw [hk]
      rfl
    · intro h
      have hk : k ≠ 0 := fun hk => h (by rw [hk, zpow_zero])
      rw [logb_two_zpow]
      refine intToF_approximates hf hk ?_
      have h1 := hh.below hm
      have h2 := hh.least
      have h3 : f.emin = 1 - f.bias := rfl
      have h4 := hf.frac
      have h5 : k = e + m.log2 := rfl
      omega
  · rename_i hpow
    obtain ⟨hmin, hmax⟩ := abs_logb_bounds hf hm hpow hh
    have hL : m.log2 ≤ p := by
      have := (Nat.log2_lt hm).mpr hh.lt
      have := hf.frac_le
      have : p = 256 := rfl
      omega
    obtain ⟨hr0, hr1, hratio, hz, hz'⟩ := significand_ratio hm hL
    have hseries := log2_series_bounds (n := 90) (N := 300) hr0 hr1 hz hz' (by decide +kernel) (by decide)
        (by decide +kernel)
    rw [hratio] at hseries
    have hl : (l : ℝ) ≤ _ := hseries.1
    have hl' : _ ≤ (l : ℝ) + _ := hseries.2
    refine ⟨fun h => ?_, fun _ => ?_⟩
    · rw [h, Real.logb_one, abs_zero] at hmin
      exact absurd hmin (by norm_num)
    · refine approximates_of_withinUlps ?_ fun ⟨w, hw⟩ => hpow (two_pow_of_isExact_logb hm hw)
      have hP : (0 : ℝ) < 2 ^ p := by positivity
      have hone : (2 : ℝ) ^ p * 2 ^ (-(p : Int)) = 1 := by
        rw [zpow_neg, zpow_natCast, mul_inv_cancel₀ hP.ne']
      have hw : Real.logb 2 (m * 2 ^ e) = 2 ^ p * Real.logb 2 (m * 2 ^ e) * 2 ^ (-(p : Int)) := by
        rw [mul_right_comm, hone, one_mul]
      have habs : |2 ^ p * Real.logb 2 (m * 2 ^ e)| = 2 ^ p * |Real.logb 2 (m * 2 ^ e)| := by
        rw [abs_mul, abs_of_pos hP]
      have herr : |2 ^ p * Real.logb 2 (m * 2 ^ e) - (k * (2 ^ p : Nat) + (l : Int) : Int)| ≤ (4096 : Nat) := by
        have hcancel : (2 : ℝ) ^ p * Real.logb 2 (m * 2 ^ e) - (k * (2 ^ p : Nat) + (l : Int) : Int) =
            2 ^ p * Real.logb 2 (m / 2 ^ m.log2) - l := by
          rw [logb_significand hm, show e + (m.log2 : Int) = k from rfl]
          push_cast
          ring
        rw [hcancel, abs_le]
        push_cast at hl hl' ⊢
        constructor <;> linarith
      rw [hw]
      refine within_signed_withinUlps hf hb1 hb2 (by decide) herr ?_ ?_ pick
      · have hp : (2 : ℝ) ^ p = 2 ^ 203 * 2 ^ 53 := by rw [← pow_add]
        rw [habs, hp, mul_assoc]
        have : (1 : ℝ) ≤ 2 ^ 53 * |Real.logb 2 (m * 2 ^ e)| := by
          rwa [mul_comm, ← div_le_iff₀ (by positivity)]
        exact (pow_le_pow_right₀ one_le_two (by decide)).trans (le_mul_of_one_le_right (by positivity) this)
      · rw [habs, mul_right_comm, hone, one_mul]
        exact hmax

end Sys2Proof.Machine

end

section

namespace Sys2Proof.Machine

/-! ## The quarter turn of `vsin` and `vcos` -/

open Finset in
/-- A series of alternating signs, cut off. -/
theorem alternating_error {g : Nat → ℝ} {y : ℝ} (h : HasSum (fun n => (-1) ^ n * g n) y) (hg : Antitone g)
    (h0 : ∀ n, 0 ≤ g n)
    (n : Nat) : |y - ∑ i ∈ range n, (-1) ^ i * g i| ≤ g n := by
  have hsummable : Summable g := h.summable.abs.congr fun n => by
    rw [abs_mul, abs_pow, abs_neg, abs_one, one_pow, one_mul, abs_of_nonneg (h0 n)]
  rw [← h.tsum_eq]
  exact alternating_series_error_bound g hg hsummable n

open Finset in
/-- The arctangent's series in units of 2^-p, each term rounded down. -/
theorem atanInv_error (p : Nat) {x : Nat} (hx : 0 < x) (n i : Nat) :
    |(atanInv x n i (2 ^ p / x ^ (2 * i + 1)) : ℝ) -
      2 ^ p * ∑ j ∈ range n, (-1) ^ (i + j) * ((x : ℝ)⁻¹ ^ (2 * (i + j) + 1) / (2 * (i + j) + 1 : Nat))| ≤ n := by
  induction n generalizing i with
  | zero => simp [atanInv]
  | succ n ih =>
    have hnext : 2 ^ p / x ^ (2 * i + 1) / (x * x) = 2 ^ p / x ^ (2 * (i + 1) + 1) := by
      rw [Nat.div_div_eq_div_mul]
      congr 1
      ring
    have hfloor : ((2 ^ p / x ^ (2 * i + 1) / (2 * i + 1) : Nat) : ℝ) ≤
        2 ^ p * ((x : ℝ)⁻¹ ^ (2 * i + 1) / (2 * i + 1 : Nat)) ∧
        2 ^ p * ((x : ℝ)⁻¹ ^ (2 * i + 1) / (2 * i + 1 : Nat)) ≤ (2 ^ p / x ^ (2 * i + 1) / (2 * i + 1) : Nat) + 1 := by
      have hval : 2 ^ p * ((x : ℝ)⁻¹ ^ (2 * i + 1) / (2 * i + 1 : Nat)) =
          (2 ^ p : Nat) / (x ^ (2 * i + 1) * (2 * i + 1) : Nat) := by
        push_cast
        rw [inv_pow]
        field_simp
      rw [Nat.div_div_eq_div_mul, hval]
      exact ⟨Nat.cast_div_le, (lt_natDiv_add_one _ _).le⟩
    have hterm : |((if i % 2 = 0 then ((2 ^ p / x ^ (2 * i + 1) / (2 * i + 1) : Nat) : Int)
          else -((2 ^ p / x ^ (2 * i + 1) / (2 * i + 1) : Nat) : Int) : Int) : ℝ) -
        2 ^ p * ((-1) ^ i * ((x : ℝ)⁻¹ ^ (2 * i + 1) / (2 * i + 1 : Nat)))| ≤ 1 := by
      rcases Nat.mod_two_eq_zero_or_one i with h | h
      · rw [if_pos h, (Nat.even_iff.mpr h).neg_one_pow, one_mul, Int.cast_natCast, abs_le]
        constructor <;> linarith
      · rw [if_neg (by omega), (Nat.odd_iff.mpr h).neg_one_pow, neg_one_mul, Int.cast_neg, Int.cast_natCast, abs_le]
        constructor <;> linarith
    have hshift : ∑ j ∈ range n,
        (-1) ^ (i + (j + 1)) * ((x : ℝ)⁻¹ ^ (2 * (i + (j + 1)) + 1) / (2 * (i + (j + 1)) + 1 : Nat)) =
        ∑ j ∈ range n, (-1) ^ (i + 1 + j) * ((x : ℝ)⁻¹ ^ (2 * (i + 1 + j) + 1) / (2 * (i + 1 + j) + 1 : Nat)) :=
      sum_congr rfl fun j _ => by rw [show i + (j + 1) = i + 1 + j by ring]
    rw [atanInv, hnext, sum_range_succ', hshift, add_zero, Int.cast_add, Nat.cast_succ n]
    have h1 := abs_le.mp hterm
    have h2 := abs_le.mp (ih (i + 1))
    rw [abs_le]
    constructor <;> linarith

theorem antitone_arctan_terms {x : Nat} (hx : 1 ≤ x) :
    Antitone fun j : Nat => (x : ℝ)⁻¹ ^ (2 * j + 1) / (2 * j + 1 : Nat) := by
  intro i j hij
  have hinv : (x : ℝ)⁻¹ ≤ 1 := inv_le_one_of_one_le₀ (by exact_mod_cast hx)
  refine div_le_div₀ (by positivity) (pow_le_pow_of_le_one (by positivity) hinv (by omega)) (by positivity) ?_
  exact_mod_cast (by omega : 2 * i + 1 ≤ 2 * j + 1)

theorem atanInv_arctan (p : Nat) {x : Nat} (hx : 2 ≤ x) {n : Nat} (hn : 2 ^ p ≤ x ^ (2 * n + 1)) :
    |(atanInv x n 0 (2 ^ p / x) : ℝ) - 2 ^ p * Real.arctan (x : ℝ)⁻¹| ≤ n + 1 := by
  have hxR : (2 : ℝ) ≤ x := by exact_mod_cast hx
  have hinv : ‖(x : ℝ)⁻¹‖ < 1 := by
    rw [Real.norm_of_nonneg (by positivity)]
    exact inv_lt_one_of_one_lt₀ (by linarith)
  have hsum := Real.hasSum_arctan hinv
  simp only [mul_div_assoc] at hsum
  have htail := alternating_error hsum (antitone_arctan_terms (by omega)) (fun j => by positivity) n
  have hfirst := atanInv_error p (x := x) (by omega) n 0
  simp only [zero_add, mul_zero, pow_one] at hfirst
  have hsmall : 2 ^ p * ((x : ℝ)⁻¹ ^ (2 * n + 1) / (2 * n + 1 : Nat)) ≤ 1 := by
    have h1 : (2 : ℝ) ^ p ≤ x ^ (2 * n + 1) := by exact_mod_cast hn
    have h2 : (1 : ℝ) ≤ (2 * n + 1 : Nat) := by exact_mod_cast (by omega : 1 ≤ 2 * n + 1)
    rw [inv_pow, mul_div_assoc', ← div_eq_mul_inv]
    exact div_le_one_of_le₀ ((div_le_one_of_le₀ h1 (by positivity)).trans h2) (by positivity)
  have hP : (0 : ℝ) < 2 ^ p := by positivity
  have hscaled := mul_le_mul_of_nonneg_left htail hP.le
  rw [← abs_of_pos hP, ← abs_mul, abs_of_pos hP, mul_sub] at hscaled
  have h1 := abs_le.mp (hscaled.trans hsmall)
  have h2 := abs_le.mp hfirst
  rw [abs_le]
  constructor <;> linarith

/-- A quarter turn in units of 2^-1500, by Machin's formula. -/
theorem halfPi_error : |(halfPi 1500 : ℝ) - Real.pi / 2 * 2 ^ 1500| ≤ 3250 := by
  have h5 := atanInv_arctan 1500 (x := 5) (n := 379) (by decide) (by decide +kernel)
  have h239 := atanInv_arctan 1500 (x := 239) (n := 104) (by decide) (by decide +kernel)
  have hmachin := Real.four_mul_arctan_inv_5_sub_arctan_inv_239
  have hnonneg : 0 ≤ 8 * atanInv 5 379 0 (2 ^ 1500 / 5) - 2 * atanInv 239 104 0 (2 ^ 1500 / 239) := by decide +kernel
  have hval : (halfPi 1500 : ℝ) = 8 * atanInv 5 379 0 (2 ^ 1500 / 5) - 2 * atanInv 239 104 0 (2 ^ 1500 / 239) := by
    exact_mod_cast Int.toNat_of_nonneg hnonneg
  generalize atanInv 5 379 0 (2 ^ 1500 / 5) = a at h5 hval
  generalize atanInv 239 104 0 (2 ^ 1500 / 239) = b at h239 hval
  rw [hval]
  generalize (2 : ℝ) ^ 1500 = P at *
  have hturn : Real.pi / 2 * P = 8 * (P * Real.arctan (5 : Nat)⁻¹) - 2 * (P * Real.arctan (239 : Nat)⁻¹) := by
    have : Real.pi / 2 = 2 * (Real.pi / 4) := by ring
    rw [this, ← hmachin]
    push_cast
    ring
  rw [hturn]
  rw [abs_le] at *
  push_cast at h5 h239
  push_cast
  constructor <;> linarith

end Sys2Proof.Machine

end

section

namespace Sys2Proof.Machine

/-! ## No datum is near a multiple of a quarter turn -/

/-- The denominator of a convergent of 2^974 in quarter turns: above every significand. -/
def turnDenominator : Nat := 16061315833450987

/-- Its numerator. -/
def turnNumerator : Nat := 2 ^ 2474 * turnDenominator / halfPi 1500 + 1

theorem turn_coprime : Nat.Coprime turnNumerator turnDenominator := by decide +kernel

theorem turn_above : 2 ^ 2474 * turnDenominator ≤ turnNumerator * (halfPi 1500 - 3250) := by decide +kernel

theorem turn_close : turnNumerator * (halfPi 1500 + 3250) * 2 ^ 55 ≤
    2 ^ 2474 * turnDenominator * 2 ^ 55 + (halfPi 1500 - 3250) := by
  decide +kernel

theorem two_pow_lt_halfPi : 2 ^ 1500 + 3250 ≤ halfPi 1500 := by decide +kernel

theorem halfPi_pos : 0 < halfPi 1500 := by decide +kernel

/-- The fraction is near 2^974 in quarter turns, from above. -/
theorem turn_fraction_error : 0 ≤ (turnNumerator : ℝ) - 2 ^ 974 / (Real.pi / 2) * turnDenominator ∧
    (turnNumerator : ℝ) - 2 ^ 974 / (Real.pi / 2) * turnDenominator ≤ 1 / 2 ^ 55 := by
  obtain ⟨hlow, hhigh⟩ := abs_le.mp halfPi_error
  have hge : 3250 ≤ halfPi 1500 := (Nat.le_add_left ..).trans two_pow_lt_halfPi
  have habove : (2 : ℝ) ^ 2474 * turnDenominator ≤ turnNumerator * ((halfPi 1500 : ℝ) - 3250) := by
    have h : ((2 ^ 2474 * turnDenominator : Nat) : ℝ) ≤ (turnNumerator * (halfPi 1500 - 3250) : Nat) :=
        Nat.cast_le.mpr turn_above
    rwa [Nat.cast_mul, Nat.cast_pow, Nat.cast_mul, Nat.cast_sub hge, Nat.cast_ofNat, Nat.cast_ofNat] at h
  have hclose : turnNumerator * ((halfPi 1500 : ℝ) + 3250) * 2 ^ 55 ≤
      2 ^ 2474 * turnDenominator * 2 ^ 55 + ((halfPi 1500 : ℝ) - 3250) := by
    have h : ((turnNumerator * (halfPi 1500 + 3250) * 2 ^ 55 : Nat) : ℝ) ≤
        (2 ^ 2474 * turnDenominator * 2 ^ 55 + (halfPi 1500 - 3250) : Nat) := Nat.cast_le.mpr turn_close
    rwa [Nat.cast_mul, Nat.cast_mul, Nat.cast_add, Nat.cast_add, Nat.cast_mul, Nat.cast_mul, Nat.cast_pow, Nat.cast_pow,
      Nat.cast_sub hge, Nat.cast_ofNat, Nat.cast_ofNat] at h
  have hpow : (2 : ℝ) ^ 2474 = 2 ^ 974 * 2 ^ 1500 := pow_add 2 974 1500
  have hP : (0 : ℝ) < 2 ^ 1500 := by positivity
  have hH : 0 < Real.pi / 2 * 2 ^ 1500 := by positivity
  have hnum : (0 : ℝ) ≤ turnNumerator := Nat.cast_nonneg _
  rw [hpow] at habove hclose
  generalize (2 : ℝ) ^ 1500 = P at *
  generalize (2 : ℝ) ^ 974 = T at *
  have hval : (turnNumerator : ℝ) - T / (Real.pi / 2) * turnDenominator =
      (turnNumerator * (Real.pi / 2 * P) - T * P * turnDenominator) / (Real.pi / 2 * P) := by
    field_simp
  rw [hval]
  constructor
  · refine div_nonneg ?_ hH.le
    have := mul_le_mul_of_nonneg_left (show (halfPi 1500 : ℝ) - 3250 ≤ Real.pi / 2 * P by linarith) hnum
    linarith
  · rw [div_le_div_iff₀ hH (by positivity), one_mul]
    have := mul_le_mul_of_nonneg_left (show Real.pi / 2 * P ≤ (halfPi 1500 : ℝ) + 3250 by linarith) hnum
    linarith

/-- A multiple of a number is as far from the integers as that of a fraction near it. -/
theorem distance_of_fraction {y : ℝ} {u v m : Nat} {j : Int} (hcoprime : Nat.Coprime u v) (hm0 : 0 < m) (hmv : m < v)
    (hclose : |(u : ℝ) - y * v| * m ≤ 1 / 4) : 3 / 4 ≤ v * |y * m - j| := by
  have hne : (m * u - j * v : Int) ≠ 0 := fun h => by
    have hdvd : (v : Int) ∣ (m * u : Nat) := ⟨j, by push_cast; linarith⟩
    have := Nat.le_of_dvd hm0 (hcoprime.symm.dvd_of_dvd_mul_right (Int.natCast_dvd_natCast.mp hdvd))
    omega
  have hone : (1 : ℝ) ≤ |(m : ℝ) * u - j * v| := by exact_mod_cast Int.one_le_abs hne
  have hsplit : (m : ℝ) * u - j * v = (u - y * v) * m + v * (y * m - j) := by ring
  have htri := abs_add_le (((u : ℝ) - y * v) * m) (v * (y * m - j))
  rw [← hsplit, abs_mul, abs_mul, Nat.abs_cast, Nat.abs_cast] at htri
  linarith

/-- No datum is near a multiple of a quarter turn. -/
theorem quarter_turn_distance {m : Nat} {e : Int} (hm0 : 0 < m) (hm : m < 2 ^ 53) (he : e ≤ 974) (j : Int) :
    (2 : ℝ) ^ (e - 1029) ≤ |(m : ℝ) * 2 ^ e - j * (Real.pi / 2)| := by
  obtain ⟨herr0, herr1⟩ := turn_fraction_error
  have hmv : 2 ^ 53 ≤ turnDenominator := by decide
  have hv : turnDenominator ≤ 2 ^ 54 := by decide
  have hmR : (m : ℝ) ≤ 2 ^ 53 := by exact_mod_cast hm.le
  have hclose : |(turnNumerator : ℝ) - 2 ^ 974 / (Real.pi / 2) * turnDenominator| * (m : ℝ) ≤ 1 / 4 := by
    rw [abs_of_nonneg herr0]
    calc _ ≤ 1 / 2 ^ 55 * (2 : ℝ) ^ 53 := mul_le_mul herr1 hmR (Nat.cast_nonneg m) (by positivity)
      _ = 1 / 4 := by norm_num
  have hdist := distance_of_fraction (j := j * 2 ^ (974 - e).toNat) turn_coprime hm0 (hm.trans_le hmv) hclose
  have hvR : (turnDenominator : ℝ) ≤ 2 ^ 54 := by exact_mod_cast hv
  have hfar : 1 / 2 ^ 55 ≤ |2 ^ 974 / (Real.pi / 2) * m - (j * 2 ^ (974 - e).toNat : Int)| := by
    have := mul_le_mul_of_nonneg_right hvR (abs_nonneg (2 ^ 974 / (Real.pi / 2) * m - (j * 2 ^ (974 - e).toNat : Int)))
    rw [div_le_iff₀ (by positivity)]
    have h55 : (2 : ℝ) ^ 55 = 2 * 2 ^ 54 := pow_succ' 2 54
    rw [h55]
    linarith
  have hpi : 1 ≤ Real.pi / 2 := by linarith [Real.pi_gt_three]
  have h974 : (2 : ℝ) ^ 974 * 2 ^ (e - 974) = 2 ^ e := by
    have := two_zpow_sub_natCast e 974
    rw [Nat.cast_pow, Nat.cast_ofNat, mul_comm] at this
    exact this
  have hback : (2 : ℝ) ^ (974 - e).toNat * 2 ^ (e - 974) = 1 := by
    rw [← zpow_natCast, ← zpow_add₀ two_ne_zero, Int.toNat_of_nonneg (by omega), sub_add_sub_cancel', sub_self, zpow_zero]
  have hval : (m : ℝ) * 2 ^ e - j * (Real.pi / 2) =
      Real.pi / 2 * 2 ^ (e - 974) * (2 ^ 974 / (Real.pi / 2) * m - (j * 2 ^ (974 - e).toNat : Int)) := by
    push_cast
    have hpi0 : Real.pi ≠ 0 := Real.pi_ne_zero
    rw [← h974]
    have h1 : (j : ℝ) * (Real.pi / 2) = Real.pi / 2 * j * (2 ^ (974 - e).toNat * 2 ^ (e - 974)) := by rw [hback]; ring
    rw [h1]
    field_simp
  have hexp : (2 : ℝ) ^ (e - 1029) = 2 ^ (e - 974) * (1 / 2 ^ 55) := by
    rw [show e - 1029 = e - 974 - (55 : Nat) by push_cast; ring, zpow_sub₀ two_ne_zero, zpow_natCast, mul_one_div]
  have hunit : (0 : ℝ) < 2 ^ (e - 974) := by positivity
  rw [hval, hexp, abs_mul, abs_of_pos (by positivity)]
  refine mul_le_mul ?_ hfar (by positivity) (by positivity)
  exact le_mul_of_one_le_left hunit.le hpi

end Sys2Proof.Machine

end

section

namespace Sys2Proof.Machine

/-! ## The series of `vsin` and `vcos` -/

theorem intDiv_bounds (a : Int) {c : Nat} (hc : 0 < c) :
    ((a / (c : Int) : Int) : ℝ) ≤ a / c ∧ (a : ℝ) / c ≤ (a / (c : Int) : Int) + 1 := by
  have hcR : (0 : ℝ) < c := Nat.cast_pos.mpr hc
  have hcI : (0 : Int) < c := Int.natCast_pos.mpr hc
  constructor
  · rw [le_div_iff₀ hcR]
    exact_mod_cast Int.ediv_mul_le a hcI.ne'
  · rw [div_le_iff₀ hcR]
    exact_mod_cast (Int.lt_ediv_add_one_mul_self a hcI).le

/-- A term of the series of a sine or cosine of a number below a quarter turn. -/
noncomputable def powTerm (x : ℝ) (i : Nat) : ℝ := x ^ i / i.factorial

theorem powTerm_nonneg {x : ℝ} (hx : 0 ≤ x) (i : Nat) : 0 ≤ powTerm x i := by
  rw [powTerm]
  positivity

theorem powTerm_add_two (x : ℝ) (i : Nat) : powTerm x (i + 2) = powTerm x i * x ^ 2 / ((i + 1) * (i + 2) : Nat) := by
  rw [powTerm, powTerm, Nat.factorial_succ, Nat.factorial_succ, pow_add]
  push_cast
  field_simp
  ring

theorem powTerm_add_two_le {x : ℝ} (hx : 0 ≤ x) (hx2 : x ^ 2 ≤ 64 / 25) {i : Nat} (hi : 1 ≤ i) :
    powTerm x (i + 2) ≤ powTerm x i := by
  have hc : (6 : ℝ) ≤ ((i + 1) * (i + 2) : Nat) := by
    have : 2 * 3 ≤ (i + 1) * (i + 2) := Nat.mul_le_mul (by omega) (by omega)
    exact_mod_cast this
  have hterm := powTerm_nonneg hx i
  rw [powTerm_add_two, div_le_iff₀ (by linarith)]
  nlinarith

theorem antitone_powTerm {x : ℝ} (hx : 0 ≤ x) (hx2 : x ^ 2 ≤ 64 / 25) {i : Nat} (hi : 1 ≤ i) :
    Antitone fun j => powTerm x (2 * j + i) :=
  antitone_nat_of_succ_le fun j => by
    rw [show 2 * (j + 1) + i = 2 * j + i + 2 by ring]
    exact powTerm_add_two_le hx hx2 (by omega)

/-- One term from another, rounded down. -/
theorem trigTerm_error {p zz i : Nat} {x y : ℝ} {t : Int} (hx2 : x ^ 2 ≤ 64 / 25) (hlow : (zz : ℝ) ≤ x ^ 2 * 2 ^ p)
    (hhigh : x ^ 2 * 2 ^ p ≤ zz + 1) (hi : 1 ≤ i) (hy : |y| ≤ 2) (ht : |t - 2 ^ p * y| ≤ 4) :
    |((-(t * zz / (2 ^ p : Nat) / ((i + 1) * (i + 2) : Nat)) : Int) : ℝ) - 2 ^ p * -(y * x ^ 2 / ((i + 1) * (i + 2) : Nat))| ≤ 4 := by
  set c := (i + 1) * (i + 2) with hc
  set P : ℝ := 2 ^ p with hP
  have hPpos : 0 < P := by positivity
  have hc6 : 6 ≤ c := Nat.mul_le_mul (show 2 ≤ i + 1 by omega) (show 3 ≤ i + 2 by omega)
  have hcR : (6 : ℝ) ≤ c := by exact_mod_cast hc6
  have hnest : t * zz / (2 ^ p : Nat) / (c : Int) = t * zz / ((2 ^ p * c : Nat) : Int) := by
    rw [Int.ediv_ediv_of_nonneg (by positivity), ← Nat.cast_mul]
  obtain ⟨hdown, hup⟩ := intDiv_bounds (t * zz) (c := 2 ^ p * c) (by positivity)
  rw [hnest]
  generalize (t * zz / ((2 ^ p * c : Nat) : Int)) = q at *
  have hval : ((t * zz : Int) : ℝ) / (2 ^ p * c : Nat) = (t * (zz / P)) / c := by
    rw [hP]
    push_cast
    field_simp
  rw [hval] at hdown hup
  have hz1 : zz / P ≤ x ^ 2 := (div_le_iff₀ hPpos).mpr hlow
  have hz0 : 0 ≤ zz / P := by positivity
  have herr1 : |(t - P * y) * (zz / P)| ≤ 4 * (64 / 25) := by
    rw [abs_mul, abs_of_nonneg hz0]
    exact mul_le_mul ht (hz1.trans hx2) hz0 (by norm_num)
  have herr2 : |y * (P * (zz / P - x ^ 2))| ≤ 2 * 1 := by
    rw [abs_mul]
    refine mul_le_mul hy ?_ (abs_nonneg _) zero_le_two
    rw [mul_sub, mul_div_cancel₀ _ hPpos.ne', abs_le]
    constructor <;> linarith
  have hsum : t * (zz / P) - P * (y * x ^ 2) = (t - P * y) * (zz / P) + y * (P * (zz / P - x ^ 2)) := by ring
  have hclose : |t * (zz / P) / c - P * (y * x ^ 2 / c)| ≤ 3 := by
    rw [← mul_div_assoc P, ← sub_div, hsum, abs_div, Nat.abs_cast, div_le_iff₀ (by linarith)]
    linarith [abs_add_le ((t - P * y) * (zz / P)) (y * (P * (zz / P - x ^ 2)))]
  rw [abs_le] at hclose ⊢
  push_cast
  constructor <;> linarith

open Finset in
/-- The alternating series from a term on, each term rounded down. -/
theorem trigSum_error {p zz : Nat} {x : ℝ} (hx : 0 ≤ x) (hx2 : x ^ 2 ≤ 64 / 25) (hlow : (zz : ℝ) ≤ x ^ 2 * 2 ^ p)
    (hhigh : x ^ 2 * 2 ^ p ≤ zz + 1) (n : Nat) {i : Nat} (hi : 1 ≤ i) (hsmall : powTerm x i ≤ 2) {s : ℝ} (hs : |s| = 1)
    {t : Int}
    (ht : |t - 2 ^ p * (s * powTerm x i)| ≤ 4) :
    |(trigSum p zz n i t : ℝ) - 2 ^ p * (s * ∑ j ∈ range n, (-1) ^ j * powTerm x (2 * j + i))| ≤ 4 * n := by
  induction n generalizing i s t with
  | zero => simp [trigSum]
  | succ n ih =>
    have hterm : |s * powTerm x i| ≤ 2 := by rwa [abs_mul, hs, one_mul, abs_of_nonneg (powTerm_nonneg hx i)]
    have hnext := trigTerm_error hx2 hlow hhigh hi hterm ht
    rw [mul_assoc, mul_div_assoc, ← powTerm_add_two, ← neg_mul] at hnext
    have hrest := ih (i := i + 2) (by omega) ((powTerm_add_two_le hx hx2 hi).trans hsmall) (s := -s)
        (by rwa [abs_neg]) hnext
    have hshift : ∑ j ∈ range n, (-1) ^ (j + 1) * powTerm x (2 * (j + 1) + i) =
        -∑ j ∈ range n, (-1) ^ j * powTerm x (2 * j + (i + 2)) := by
      rw [← sum_neg_distrib]
      refine sum_congr rfl fun j _ => ?_
      rw [show 2 * (j + 1) + i = 2 * j + (i + 2) by ring, pow_succ]
      ring
    rw [trigSum, sum_range_succ', hshift, pow_zero, one_mul, mul_zero, zero_add, Int.cast_add, Nat.cast_succ n]
    rw [abs_le] at *
    constructor <;> linarith

theorem powTerm_tail {p i : Nat} {x : ℝ} (hx : 0 ≤ x) (hx2 : x ^ 2 ≤ 64 / 25) (h : 2 ^ (p + i) ≤ i.factorial) :
    2 ^ p * powTerm x i ≤ 1 := by
  have hxle : x ≤ 2 := by nlinarith
  have hF : (2 : ℝ) ^ p * 2 ^ i ≤ i.factorial := by
    rw [← pow_add]
    exact_mod_cast h
  rw [powTerm, mul_div_assoc']
  refine div_le_one_of_le₀ (le_trans ?_ hF) (by positivity)
  gcongr

theorem trigSum_sin {p zz r n : Nat} {x : ℝ} (hr : r = x * 2 ^ p) (hx : 0 ≤ x) (hx2 : x ^ 2 ≤ 64 / 25)
    (hlow : (zz : ℝ) ≤ x ^ 2 * 2 ^ p) (hhigh : x ^ 2 * 2 ^ p ≤ zz + 1)
    (hn : 2 ^ (p + (2 * n + 1)) ≤ (2 * n + 1).factorial) :
    |(trigSum p zz n 1 r : ℝ) - 2 ^ p * Real.sin x| ≤ 4 * n + 1 := by
  have hone : powTerm x 1 = x := by simp [powTerm]
  have hP : (0 : ℝ) < 2 ^ p := by positivity
  have hsum := Real.hasSum_sin x
  simp only [mul_div_assoc] at hsum
  have htail := alternating_error (g := fun j => powTerm x (2 * j + 1)) hsum (antitone_powTerm hx hx2 le_rfl)
      (fun j => powTerm_nonneg hx _) n
  have herr := trigSum_error hx hx2 hlow hhigh n le_rfl (t := r) (s := 1) (by rw [hone]; nlinarith) abs_one
    (by rw [hone, one_mul, Int.cast_natCast, hr, mul_comm, sub_self, abs_zero]; norm_num)
  have hsmall := (mul_le_mul_of_nonneg_left htail hP.le).trans (powTerm_tail hx hx2 hn)
  rw [← abs_of_pos hP, ← abs_mul] at hsmall
  rw [one_mul] at herr
  rw [abs_le] at *
  constructor <;> linarith

theorem trigSum_cos {p zz n : Nat} {x : ℝ} (hx : 0 ≤ x) (hx2 : x ^ 2 ≤ 64 / 25)
    (hlow : (zz : ℝ) ≤ x ^ 2 * 2 ^ p) (hhigh : x ^ 2 * 2 ^ p ≤ zz + 1)
    (hn : 2 ^ (p + (2 * n + 2)) ≤ (2 * n + 2).factorial) :
    |(trigSum p zz (n + 1) 0 (2 ^ p : Nat) : ℝ) - 2 ^ p * Real.cos x| ≤ 4 * n + 1 := by
  have htwo : powTerm x 2 = x ^ 2 / 2 := by simp [powTerm, Nat.factorial]
  have hP : (0 : ℝ) < 2 ^ p := by positivity
  have hsum : HasSum (fun j => (-1) ^ j * powTerm x (2 * j + 2)) (1 - Real.cos x) := by
    have h := ((hasSum_nat_add_iff' 1).mpr (Real.hasSum_cos x)).neg
    simp only [Finset.sum_range_one, mul_zero, pow_zero, Nat.factorial_zero, Nat.cast_one, div_one, one_mul, neg_sub] at h
    have hterms : (fun j => (-1) ^ j * powTerm x (2 * j + 2)) = fun j =>
        -((-1) ^ (j + 1) * x ^ (2 * (j + 1)) / (2 * (j + 1)).factorial) :=
      funext fun j => by
        rw [show 2 * (j + 1) = 2 * j + 2 by ring, pow_succ, powTerm]
        ring
    rwa [hterms]
  have htail := alternating_error hsum (antitone_powTerm hx hx2 one_le_two) (fun j => powTerm_nonneg hx _) n
  have hstart : |((-((2 ^ p : Nat) * zz / (2 ^ p : Nat) / ((0 + 1) * (0 + 2) : Nat)) : Int) : ℝ) -
      2 ^ p * (-1 * powTerm x 2)| ≤ 4 := by
    rw [Int.mul_ediv_cancel_left _ (by positivity), htwo]
    obtain ⟨hdown, hup⟩ := intDiv_bounds zz (c := (0 + 1) * (0 + 2)) (by decide)
    push_cast at *
    rw [abs_le]
    constructor <;> linarith
  have herr := trigSum_error hx hx2 hlow hhigh n one_le_two (s := -1) (by rw [htwo]; linarith)
      (by rw [abs_neg, abs_one]) hstart
  have hsmall := (mul_le_mul_of_nonneg_left htail hP.le).trans (powTerm_tail hx hx2 hn)
  rw [← abs_of_pos hP, ← abs_mul] at hsmall
  rw [trigSum, Int.cast_add, Int.cast_natCast, Nat.cast_pow, Nat.cast_ofNat]
  rw [abs_le] at *
  constructor <;> linarith

end Sys2Proof.Machine

end

section

namespace Sys2Proof.Machine

variable {f : Fmt} {b : Nat}

/-! ## The reduction by quarter turns -/

/-- The sine of an angle in the first quarter turn after `q` quarter turns, without its sign. -/
noncomputable def quarterWave (q : Nat) (x : ℝ) : ℝ := if q % 2 = 0 then Real.sin x else Real.cos x

theorem sin_add_quarters (q : Nat) (x : ℝ) :
    Real.sin (x + q * (Real.pi / 2)) = (if 2 ≤ q % 4 then -1 else 1) * quarterWave (q % 4) x := by
  have hq : (q : ℝ) * (Real.pi / 2) = (q % 4 : Nat) * (Real.pi / 2) + (q / 4 : Nat) * (2 * Real.pi) := by
    have : (q : ℝ) = (4 * (q / 4) + q % 4 : Nat) := by rw [Nat.div_add_mod]
    rw [this]
    push_cast
    ring
  rw [hq, ← add_assoc, Real.sin_add_nat_mul_two_pi, quarterWave]
  have hlt : q % 4 < 4 := Nat.mod_lt q (by decide)
  generalize q % 4 = i at *
  interval_cases i
  · simp
  · simp [Real.sin_add_pi_div_two]
  · have : x + (2 : Nat) * (Real.pi / 2) = x + Real.pi := by push_cast; ring
    rw [this, Real.sin_add_pi]
    simp
  · have : x + (3 : Nat) * (Real.pi / 2) = x + Real.pi / 2 + Real.pi := by push_cast; ring
    rw [this, Real.sin_add_pi, Real.sin_add_pi_div_two]
    simp

theorem quarterWave_dist (q : Nat) (x y : ℝ) : |quarterWave q x - quarterWave q y| ≤ |x - y| := by
  rw [quarterWave, quarterWave]
  split
  · exact Real.abs_sin_sub_sin_le x y
  · exact Real.abs_cos_sub_cos_le x y

theorem quarterWave_le_one (q : Nat) (x : ℝ) : quarterWave q x ≤ 1 := by
  rw [quarterWave]
  split
  · exact Real.sin_le_one x
  · exact Real.cos_le_one x

theorem quarterWave_pos (q : Nat) {x : ℝ} (h0 : 0 < x) (h1 : x < Real.pi / 2) : 0 < quarterWave q x := by
  rw [quarterWave]
  split
  · exact Real.sin_pos_of_pos_of_lt_pi h0 (by linarith)
  · exact Real.cos_pos_of_mem_Ioo ⟨by linarith, h1⟩

theorem half_le_sin {x : ℝ} (h0 : 0 ≤ x) (h1 : x ≤ Real.pi / 2) : x / 2 ≤ Real.sin x := by
  refine le_trans ?_ (Real.mul_le_sin h0 h1)
  have : 1 / 2 ≤ 2 / Real.pi := by
    rw [div_le_div_iff₀ two_pos Real.pi_pos]
    linarith [Real.pi_le_four]
  have := mul_le_mul_of_nonneg_right this h0
  linarith

theorem le_quarterWave (q : Nat) {x d : ℝ} (h0 : 0 ≤ d) (hd : d ≤ x) (hd' : d ≤ Real.pi / 2 - x) :
    d / 2 ≤ quarterWave q x := by
  rw [quarterWave]
  split
  · have := half_le_sin (x := x) (by linarith) (by linarith)
    linarith
  · have := half_le_sin (x := Real.pi / 2 - x) (by linarith) (by linarith)
    rw [Real.sin_pi_div_two_sub] at this
    linarith

/-- A number `y` of which `r` is left after `k` quarter turns, in units of 2^-1500 and with the integer quarter turn. -/
structure QuarterReduction (y : ℝ) (k r : Nat) : Prop where
  error : |(y - k * (Real.pi / 2)) * 2 ^ 1500 - r| ≤ 3250 * (k : ℝ)
  lt : (r : ℝ) ≤ Real.pi / 2 * 2 ^ 1500 + 3250
  count : (k : ℝ) ≤ y

theorem quarterReduction {x : Nat} {y : ℝ} (hx : x = y * 2 ^ 1500) :
    QuarterReduction y (x / halfPi 1500) (x - x / halfPi 1500 * halfPi 1500) := by
  have herr := abs_le.mp halfPi_error
  have hpos : 2 ^ 1500 ≤ halfPi 1500 := (Nat.le_add_right ..).trans two_pow_lt_halfPi
  have hposR : (2 : ℝ) ^ 1500 ≤ halfPi 1500 := by
    have h : ((2 ^ 1500 : Nat) : ℝ) ≤ halfPi 1500 := Nat.cast_le.mpr hpos
    rwa [Nat.cast_pow, Nat.cast_ofNat] at h
  have hmod : x - x / halfPi 1500 * halfPi 1500 = x % halfPi 1500 := by rw [Nat.mod_eq_sub_div_mul]
  have hdiv : (x : ℝ) = halfPi 1500 * (x / halfPi 1500 : Nat) + (x % halfPi 1500 : Nat) := by
    exact_mod_cast (Nat.div_add_mod x (halfPi 1500)).symm
  have hlt : ((x % halfPi 1500 : Nat) : ℝ) ≤ halfPi 1500 :=
    Nat.cast_le.mpr (Nat.mod_lt x halfPi_pos).le
  have hr0 : (0 : ℝ) ≤ (x % halfPi 1500 : Nat) := Nat.cast_nonneg _
  rw [hmod]
  generalize x % halfPi 1500 = r at *
  generalize x / halfPi 1500 = k at *
  have hk : (0 : ℝ) ≤ k := Nat.cast_nonneg k
  have hP : (0 : ℝ) < 2 ^ 1500 := by positivity
  refine ⟨?_, ?_, ?_⟩
  all_goals
    generalize (halfPi 1500 : ℝ) = h at *
    generalize (2 : ℝ) ^ 1500 = P at *
  · have hval : (y - k * (Real.pi / 2)) * P - r = k * (h - Real.pi / 2 * P) := by linarith
    rw [hval, abs_mul, abs_of_nonneg hk, mul_comm]
    exact mul_le_mul_of_nonneg_right (abs_le.mpr herr) hk
  · linarith
  · refine le_of_mul_le_mul_right ?_ hP
    have := mul_le_mul_of_nonneg_left hposR hk
    linarith

/-- What is left of a datum that is not small is not near an end of the quarter turn. -/
theorem QuarterReduction.distance {m k r : Nat} {e : Int} (h : QuarterReduction ((m : ℝ) * 2 ^ e) k r) (hm0 : 0 < m)
    (hm : m < 2 ^ 53)
    (he : e ≤ 974) (he' : -53 ≤ e) : (2 : ℝ) ^ (e - 1029) ≤ (m : ℝ) * 2 ^ e - k * (Real.pi / 2) ∧
      (2 : ℝ) ^ (e - 1029) ≤ Real.pi / 2 - ((m : ℝ) * 2 ^ e - k * (Real.pi / 2)) := by
  have hnear := quarter_turn_distance hm0 hm he k
  have hnear' := quarter_turn_distance hm0 hm he (k + 1 : Nat)
  have herr := abs_le.mp h.error
  have hunit : (0 : ℝ) < 2 ^ e := by positivity
  have hy : (m : ℝ) * 2 ^ e ≤ 2 ^ (53 : Int) * 2 ^ e := by
    refine mul_le_mul_of_nonneg_right ?_ hunit.le
    exact_mod_cast hm.le
  have hcount : (k : ℝ) + 1 ≤ 2 ^ (54 + e) := by
    have hone : (1 : ℝ) ≤ 2 ^ (53 + e) := one_le_zpow₀ one_le_two (by omega)
    have htwo : (2 : ℝ) ^ (54 + e) = 2 ^ (53 + e) + 2 ^ (53 + e) := by
      rw [show 54 + e = 53 + e + 1 by ring, zpow_add_one₀ two_ne_zero]
      ring
    rw [← zpow_add₀ two_ne_zero] at hy
    linarith [h.count]
  have hsmall : 3250 * ((k : ℝ) + 1) < 2 ^ (e - 1029) * 2 ^ 1500 := by
    have h12 : (3250 : ℝ) < 2 ^ (12 : Int) := by norm_num
    calc 3250 * ((k : ℝ) + 1) ≤ 3250 * 2 ^ (54 + e) := mul_le_mul_of_nonneg_left hcount (by norm_num)
      _ < 2 ^ (12 : Int) * 2 ^ (54 + e) := mul_lt_mul_of_pos_right h12 (by positivity)
      _ = 2 ^ (12 + (54 + e)) := (zpow_add₀ two_ne_zero _ _).symm
      _ ≤ 2 ^ (e - 1029 + (1500 : Nat)) := zpow_le_zpow_right₀ one_le_two (by push_cast; omega)
      _ = 2 ^ (e - 1029) * 2 ^ 1500 := by rw [zpow_add₀ two_ne_zero, zpow_natCast]
  have hr0 : (0 : ℝ) ≤ r := Nat.cast_nonneg r
  have hP : (0 : ℝ) < 2 ^ 1500 := by positivity
  have hlt := h.lt
  generalize (2 : ℝ) ^ 1500 = P at *
  constructor
  · rcases le_abs.mp hnear with h' | h'
    · exact_mod_cast h'
    · have := mul_le_mul_of_nonneg_right h' hP.le
      push_cast at this
      linarith
  · rcases le_abs.mp hnear' with h' | h'
    · have := mul_le_mul_of_nonneg_right h' hP.le
      push_cast at this
      linarith
    · push_cast at h'
      linarith

end Sys2Proof.Machine

end

section

namespace Sys2Proof.Machine

variable {f : Fmt} {b : Nat}

/-! ## `vsin` and `vcos` (06 R130, R131) -/

/-- What is left after the quarter turns lies within one, and where there are some it is not near an end of it. -/
theorem QuarterReduction.inside {m k r : Nat} {e : Int} (h : QuarterReduction ((m : ℝ) * 2 ^ e) k r) (hm0 : 0 < m)
    (hm : m < 2 ^ 53)
    (he : e ≤ 974) : 0 < (m : ℝ) * 2 ^ e - k * (Real.pi / 2) ∧ (m : ℝ) * 2 ^ e - k * (Real.pi / 2) < Real.pi / 2 ∧
      (k ≠ 0 → -53 ≤ e) := by
  have hunit : (0 : ℝ) < 2 ^ e := by positivity
  have hmR : (0 : ℝ) < m := Nat.cast_pos.mpr hm0
  rcases le_or_gt (-53) e with he' | he'
  · obtain ⟨hlow, hhigh⟩ := h.distance hm0 hm he he'
    have : (0 : ℝ) < 2 ^ (e - 1029) := by positivity
    exact ⟨by linarith, by linarith, fun _ => he'⟩
  · have hsmall : (m : ℝ) * 2 ^ e < 1 := by
      calc (m : ℝ) * 2 ^ e < 2 ^ (53 : Int) * 2 ^ e := mul_lt_mul_of_pos_right (by exact_mod_cast hm) hunit
        _ = 2 ^ (53 + e) := (zpow_add₀ two_ne_zero _ _).symm
        _ ≤ 1 := zpow_le_one_of_nonpos₀ one_le_two (by omega)
    have hk : k = 0 := by
      have : (k : ℝ) < (1 : Nat) := by
        rw [Nat.cast_one]
        exact h.count.trans_lt hsmall
      have := Nat.cast_lt.mp this
      omega
    rw [hk, Nat.cast_zero, zero_mul, sub_zero]
    exact ⟨by positivity, by linarith [Real.pi_gt_three], fun h => absurd rfl h⟩

theorem two_pow_le_factorial_odd : 2 ^ (1500 + (2 * 150 + 1)) ≤ (2 * 150 + 1).factorial := by decide +kernel

theorem two_pow_le_factorial_even : 2 ^ (1500 + (2 * 149 + 2)) ≤ (2 * 149 + 2).factorial := by decide +kernel

/-- The series, of what is left. -/
theorem trigSum_wave {k r : Nat} {y : ℝ} (h : QuarterReduction y k r) (q : Nat) :
    |((if q % 2 = 0 then trigSum 1500 (r * r / 2 ^ 1500) 150 1 r
        else trigSum 1500 (r * r / 2 ^ 1500) 150 0 (2 ^ 1500 : Nat) : Int) : ℝ) -
      2 ^ 1500 * quarterWave q (y - k * (Real.pi / 2))| ≤ 601 + 3250 * (k : ℝ) := by
  have hP : (0 : ℝ) < 2 ^ 1500 := by positivity
  have hlarge : (2 : ℝ) ^ 20 ≤ 2 ^ 1500 := pow_le_pow_right₀ one_le_two (by decide)
  obtain ⟨x, hr⟩ : ∃ x : ℝ, (r : ℝ) = x * 2 ^ 1500 := ⟨r / 2 ^ 1500, by rw [div_mul_cancel₀ _ hP.ne']⟩
  have hx0 : 0 ≤ x := nonneg_of_mul_nonneg_left (hr ▸ Nat.cast_nonneg r) hP
  have hx : x ≤ 8 / 5 := by
    refine le_of_mul_le_mul_right ?_ hP
    have hlt := h.lt
    rw [hr] at hlt
    generalize (2 : ℝ) ^ 1500 = P at *
    nlinarith [Real.pi_lt_d2]
  have hx2 : x ^ 2 ≤ 64 / 25 := (pow_le_pow_left₀ hx0 hx 2).trans_eq (by norm_num)
  have hsq : x ^ 2 * 2 ^ 1500 = ((r * r : Nat) : ℝ) / (2 ^ 1500 : Nat) := by
    rw [Nat.cast_mul, hr, Nat.cast_pow, Nat.cast_ofNat]
    field_simp
  have hlow : ((r * r / 2 ^ 1500 : Nat) : ℝ) ≤ x ^ 2 * 2 ^ 1500 := hsq ▸ Nat.cast_div_le
  have hhigh : x ^ 2 * 2 ^ 1500 ≤ (r * r / 2 ^ 1500 : Nat) + 1 := hsq ▸ (lt_natDiv_add_one _ _).le
  have hseries : |((if q % 2 = 0 then trigSum 1500 (r * r / 2 ^ 1500) 150 1 r
        else trigSum 1500 (r * r / 2 ^ 1500) 150 0 (2 ^ 1500 : Nat) : Int) : ℝ) - 2 ^ 1500 * quarterWave q x| ≤ 601 := by
    rw [quarterWave]
    split
    · exact (trigSum_sin hr hx0 hx2 hlow hhigh two_pow_le_factorial_odd).trans (by norm_num)
    · exact (trigSum_cos hx0 hx2 hlow hhigh two_pow_le_factorial_even).trans (by norm_num)
  have hdist : |2 ^ 1500 * quarterWave q x - 2 ^ 1500 * quarterWave q (y - k * (Real.pi / 2))| ≤ 3250 * (k : ℝ) := by
    have herr := h.error
    rw [hr, ← sub_mul, abs_mul, abs_of_pos hP, abs_sub_comm, mul_comm] at herr
    rw [← mul_sub, abs_mul, abs_of_pos hP]
    exact (mul_le_mul_of_nonneg_left (quarterWave_dist q _ _) hP.le).trans herr
  have := abs_sub_le (((if q % 2 = 0 then trigSum 1500 (r * r / 2 ^ 1500) 150 1 r
        else trigSum 1500 (r * r / 2 ^ 1500) 150 0 (2 ^ 1500 : Nat) : Int) : ℝ)) (2 ^ 1500 * quarterWave q x)
    (2 ^ 1500 * quarterWave q (y - k * (Real.pi / 2)))
  linarith

/-- The logarithm of the error that the model allows the series. -/
def errorBits (k : Nat) : Nat := if k = 0 then 13 else k.log2 + 14

theorem errorBits_spec (k : Nat) : 601 + 3250 * (k : ℝ) < (2 ^ errorBits k : Nat) := by
  rw [errorBits]
  split
  · rename_i hk
    rw [hk]
    norm_num
  · have hlt : k + 1 ≤ 2 ^ (k.log2 + 1) := Nat.lt_log2_self
    have hpow : 2 ^ (k.log2 + 14) = 2 ^ (k.log2 + 1) * 2 ^ 13 := by rw [← pow_add]
    have hnat : 601 + 3250 * k < 2 ^ (k.log2 + 14) := by omega
    exact_mod_cast hnat

/-- A number at most 1 of whose first `p` bits all but the last few are known. -/
theorem encloses_below_one (hf : f.Sound) {p g lo hi : Nat} {w : ℝ} (hb : b ≤ 2) (h0 : 0 < w) (h1 : w ≤ 2 ^ p)
    (hlo : (lo : ℝ) ≤ w)
    (hle : lo ≤ hi) (hhi : w ≤ hi ∨ hi + 1 = 2 ^ p) (hwidth : hi ≤ lo + 2 ^ g) (hg : g + 2 ≤ p) (hp : 1076 ≤ p)
    (hscale : (g : Int) ≤ f.emin - f.m + p ∨ g + f.m ≤ lo.log2) : Encloses f b lo hi (-p) (w * 2 ^ (-p : Int)) := by
  have hx : (0 : ℝ) < 2 ^ (-p : Int) := by positivity
  have hemin : f.emin = 1 - f.bias := rfl
  have hfm := hf.frac_le
  have hbias := hf.bias_le
  have hfine : (-p : Int) < lastPlace f lo (-p) := by rw [lastPlace]; omega
  have hone : (2 : ℝ) ^ p * 2 ^ (-p : Int) = 1 := by rw [zpow_neg, zpow_natCast, mul_inv_cancel₀ (by positivity)]
  have hle1 : w * 2 ^ (-p : Int) ≤ 1 := hone ▸ mul_le_mul_of_nonneg_right h1 hx.le
  refine ⟨by positivity, mul_le_mul_of_nonneg_right hlo hx.le, hle, hfine.le, fun _ => by omega, hwidth.trans ?_,
      fun i hi' => ?_,
    fun h => absurd (h.trans hle1) (one_lt_pow₀ one_lt_two (by omega)).not_ge⟩
  · refine Nat.add_le_add_left (Nat.pow_le_pow_right two_pos ?_) lo
    rw [lastPlace]
    omega
  · rcases hhi with h | h
    · exact upper_of_le (mul_le_mul_of_nonneg_right h hx.le) i hi'
    · have hquarter : 4 * 2 ^ g ≤ 2 ^ p := by
        rw [show 4 * 2 ^ g = 2 ^ (g + 2) by rw [pow_add, mul_comm]; rfl]
        exact Nat.pow_le_pow_right two_pos hg
      obtain ⟨j, rfl⟩ := Nat.exists_eq_add_of_lt (show 0 < p by omega)
      have hpow : 2 ^ (0 + j + 1) = 2 * 2 ^ j := by rw [zero_add, pow_succ']
      have hgpos := Nat.two_pow_pos g
      have hlow : 2 ^ j ≤ lo := by omega
      have hlo0 : lo ≠ 0 := ((Nat.two_pow_pos j).trans_le hlow).ne'
      have hlt : lo < 2 ^ (j + 1) := by rw [pow_succ']; omega
      refine upper_of_two_pow hf (j := 0 + j + 1) ?_ h hb hfine (mul_le_mul_of_nonneg_right h1 hx.le) i hi'
      rw [zero_add, (Nat.log2_eq_iff hlo0).mpr ⟨hlow, hlt⟩]

end Sys2Proof.Machine

end

section

namespace Sys2Proof.Machine

variable {f : Fmt} {b : Nat}

/-! ## The intervals of `vsin` and `vcos` -/

/-- A magnitude below one from a sum that is near it. -/
theorem clamp_spec {p g : Nat} {s : Int} {w : ℝ} (hw0 : 0 < w) (hw1 : w ≤ 2 ^ p) (hs : |s - w| < ((2 ^ g : Nat) : ℝ)) :
    (((max (s - (2 ^ g : Nat)) 0).toNat : Nat) : ℝ) ≤ w ∧
      (w ≤ (min (s + (2 ^ g : Nat)) ((2 ^ p : Nat) - 1)).toNat ∨ (min (s + (2 ^ g : Nat)) ((2 ^ p : Nat) - 1)).toNat + 1 = 2 ^ p) ∧
      (max (s - (2 ^ g : Nat)) 0).toNat ≤ (min (s + (2 ^ g : Nat)) ((2 ^ p : Nat) - 1)).toNat ∧
      (min (s + (2 ^ g : Nat)) ((2 ^ p : Nat) - 1)).toNat ≤ (max (s - (2 ^ g : Nat)) 0).toNat + 2 ^ (g + 1) ∧
      w - (2 ^ (g + 1) : Nat) ≤ (max (s - (2 ^ g : Nat)) 0).toNat := by
  obtain ⟨hs1, hs2⟩ := abs_lt.mp hs
  have hP : 0 < 2 ^ p := Nat.two_pow_pos p
  have hw1' : w ≤ (2 ^ p : Nat) := by push_cast; exact hw1
  rw [pow_succ' 2 g]
  generalize 2 ^ g = d at *
  generalize 2 ^ p = N at *
  have hpos : 0 < s + d := by
    have : (0 : ℝ) < s + d := by linarith
    exact_mod_cast this
  have hbelow : s - d < N := by
    have : (s : ℝ) - d < N := by linarith
    exact_mod_cast this
  have hlo : (((max (s - d) 0).toNat : Nat) : ℝ) = max ((s : ℝ) - d) 0 := by
    have : (((max (s - d) 0).toNat : Nat) : Int) = max (s - d) 0 := Int.toNat_of_nonneg (le_max_right _ _)
    exact_mod_cast congrArg (Int.cast : Int → ℝ) this
  refine ⟨?_, ?_, by omega, by omega, ?_⟩
  · rw [hlo]
    exact max_le (by linarith) hw0.le
  · rcases min_choice (s + d) ((N : Int) - 1) with h | h
    · left
      rw [h]
      have : (((s + d).toNat : Nat) : Int) = s + d := Int.toNat_of_nonneg hpos.le
      have : (((s + d).toNat : Nat) : ℝ) = s + d := by exact_mod_cast congrArg (Int.cast : Int → ℝ) this
      linarith
    · right
      omega
  · rw [hlo]
    refine le_trans ?_ (le_max_left _ _)
    push_cast
    linarith

/-- The bits of the interval are few beside those of its lower end, as no datum is near a multiple of a quarter turn. -/
theorem errorBits_scale (hf : f.Sound) {m k r q lo : Nat} {e : Int} (h : QuarterReduction ((m : ℝ) * 2 ^ e) k r)
    (hm0 : 0 < m)
    (hm : m < 2 ^ 53) (he : e ≤ 974)
    (hlo : 2 ^ 1500 * quarterWave q ((m : ℝ) * 2 ^ e - k * (Real.pi / 2)) - (2 ^ (errorBits k + 1) : Nat) ≤ lo) :
    errorBits k + 3 ≤ 1500 ∧
      (((errorBits k + 1 : Nat) : Int) ≤ f.emin - f.m + (1500 : Nat) ∨ errorBits k + 1 + f.m ≤ lo.log2) := by
  have hfm := hf.frac_le
  rcases eq_or_ne k 0 with hk | hk
  · have hbits : errorBits k = 13 := if_pos hk
    have hemin : f.emin = 1 - f.bias := rfl
    have hbias := hf.bias_le
    rw [hbits]
    exact ⟨by decide, .inl (by push_cast; omega)⟩
  · have hbits : errorBits k = k.log2 + 14 := if_neg hk
    have he' := (h.inside hm0 hm he).2.2 hk
    have hklog : (k.log2 : Int) ≤ 52 + e := by
      have hklow : (2 : ℝ) ^ (k.log2 : Int) ≤ k := by
        rw [zpow_natCast]
        exact_mod_cast Nat.log2_self_le hk
      have hy : (m : ℝ) * 2 ^ e < 2 ^ (53 + e) := by
        rw [zpow_add₀ two_ne_zero]
        exact mul_lt_mul_of_pos_right (by exact_mod_cast hm) (by positivity)
      have := (hklow.trans h.count).trans_lt hy
      rw [zpow_lt_zpow_iff_right₀ one_lt_two] at this
      omega
    obtain ⟨hd, hd'⟩ := h.distance hm0 hm he he'
    have hwave := le_quarterWave q (by positivity) hd hd'
    obtain ⟨c, hc⟩ : ∃ c : Nat, (c : Int) = e + 469 := ⟨(e + 469).toNat, Int.toNat_of_nonneg (by omega)⟩
    have hmain : (2 : ℝ) ^ (c + 1) ≤ 2 ^ 1500 * quarterWave q ((m : ℝ) * 2 ^ e - k * (Real.pi / 2)) := by
      have hexp : (2 : ℝ) ^ (c + 1) = 2 ^ 1500 * (2 ^ (e - 1029) / 2) := by
        have hcexp : ((c + 1 : Nat) : Int) = (1500 : Nat) + (e - 1029) - 1 := by
          push_cast
          omega
        rw [← zpow_natCast, hcexp, zpow_sub_one₀ two_ne_zero, zpow_add₀ two_ne_zero, zpow_natCast, mul_assoc,
            div_eq_mul_inv]
      rw [hexp]
      exact mul_le_mul_of_nonneg_left hwave (by positivity)
    have hsmall : ((2 ^ (errorBits k + 1) : Nat) : ℝ) ≤ 2 ^ c := by
      rw [Nat.cast_pow, Nat.cast_ofNat]
      exact pow_le_pow_right₀ one_le_two (by omega)
    have hlow : 2 ^ c ≤ lo := by
      have : (2 : ℝ) ^ c ≤ lo := by
        rw [pow_succ] at hmain
        generalize (2 : ℝ) ^ 1500 = P at *
        linarith
      exact_mod_cast this
    have hlog : c ≤ lo.log2 := (Nat.le_log2 ((Nat.two_pow_pos c).trans_le hlow).ne').mpr hlow
    exact ⟨by omega, .inr (by omega)⟩

/-- The model's interval encloses the sine or cosine. -/
theorem encloses_trig (hf : f.Sound) (hb : b ≤ 2) {m x q : Nat} {e : Int} (hx : (x : ℝ) = m * 2 ^ e * 2 ^ 1500)
    (hm0 : 0 < m)
    (hm : m < 2 ^ 53) (he : e ≤ 974) {cosine : Bool} (hq : x / halfPi 1500 = 0 → cosine = false → q = 0) :
    let k := x / halfPi 1500
    let r := x - k * halfPi 1500
    let zz := r * r / 2 ^ 1500
    let s := if q % 2 = 0 then trigSum 1500 zz 150 1 r else trigSum 1500 zz 150 0 (2 ^ 1500 : Nat)
    let lo := (max (s - (2 ^ errorBits k : Nat)) 0).toNat
    let hi := (min (s + (2 ^ errorBits k : Nat)) ((2 ^ 1500 : Nat) - 1)).toNat
    Encloses f b lo (if k = 0 && !cosine then min hi x else hi) (-(1500 : Nat))
      (quarterWave q ((m : ℝ) * 2 ^ e - k * (Real.pi / 2))) := by
  intro k r zz s lo hi
  have hred : QuarterReduction ((m : ℝ) * 2 ^ e) k r := quarterReduction hx
  obtain ⟨hin0, hin1, -⟩ := hred.inside hm0 hm he
  have hP : (0 : ℝ) < 2 ^ 1500 := by positivity
  set G := quarterWave q ((m : ℝ) * 2 ^ e - k * (Real.pi / 2)) with hG
  have hG0 : 0 < G := quarterWave_pos q hin0 hin1
  have hw1 : 2 ^ 1500 * G ≤ 2 ^ 1500 := mul_le_of_le_one_right hP.le (quarterWave_le_one q _)
  have herr : |(s : ℝ) - 2 ^ 1500 * G| < ((2 ^ errorBits k : Nat) : ℝ) := (trigSum_wave hred q).trans_lt (errorBits_spec k)
  obtain ⟨hlo, hhi, hle, hwidth, hlow⟩ := clamp_spec (by positivity) hw1 herr
  obtain ⟨hbits, hscale⟩ := errorBits_scale hf hred hm0 hm he hlow
  have hval : G = 2 ^ 1500 * G * 2 ^ (-(1500 : Nat) : Int) := by
    rw [mul_right_comm, zpow_neg, zpow_natCast, mul_inv_cancel₀ hP.ne', one_mul]
  rw [hval]
  split
  · rename_i hcut
    rw [Bool.and_eq_true, decide_eq_true_eq, Bool.not_eq_true'] at hcut
    have hwx : 2 ^ 1500 * G ≤ x := by
      rw [hx, mul_comm, hG, hq hcut.1 hcut.2, show k = 0 from hcut.1, Nat.cast_zero, zero_mul, sub_zero]
      refine mul_le_mul_of_nonneg_right ?_ hP.le
      rw [quarterWave, if_pos rfl]
      exact Real.sin_le (by positivity)
    have hlox : lo ≤ x := by exact_mod_cast hlo.trans hwx
    refine encloses_below_one hf hb (by positivity) hw1 hlo (le_min hle hlox) ?_ ((min_le_left ..).trans hwidth) hbits
        (by decide) hscale
    rcases min_choice hi x with h | h
    · rwa [h]
    · rw [h]
      exact .inl hwx
  · exact encloses_below_one hf hb (by positivity) hw1 hlo hle hhi hwidth hbits (by decide) hscale

end Sys2Proof.Machine

end

section

namespace Sys2Proof.Machine

variable {f : Fmt} {b : Nat}

/-- A datum in units below every one of the format's. -/
theorem roundAt_unit {m : Nat} {e q : Int} (h : q ≤ e) : ((roundAt 1 false m e q false).1 : ℝ) = m * 2 ^ e / 2 ^ q := by
  rw [roundAt, if_pos h, mul_div_assoc, ← zpow_sub₀ two_ne_zero, Nat.cast_mul, Nat.cast_pow, Nat.cast_ofNat, ← zpow_natCast,
    Int.toNat_of_nonneg (by omega)]

/-- The sine or cosine of a datum, by its sign and the quarter turns in it. -/
theorem trig_of_quarters (cosine n : Bool) (y : ℝ) (k : Nat) :
    (if cosine then Real.cos ((if n then -1 else 1) * y) else Real.sin ((if n then -1 else 1) * y)) =
      (if (decide (2 ≤ (k + if cosine then 1 else 0) % 4)) != (n && !cosine) then -1 else 1) *
        quarterWave ((k + if cosine then 1 else 0) % 4) (y - k * (Real.pi / 2)) := by
  have hsin : Real.sin y = (if 2 ≤ k % 4 then -1 else 1) * quarterWave (k % 4) (y - k * (Real.pi / 2)) := by
    rw [← sin_add_quarters, sub_add_cancel]
  have hcos : Real.cos y = (if 2 ≤ (k + 1) % 4 then -1 else 1) * quarterWave ((k + 1) % 4) (y - k * (Real.pi / 2)) := by
    rw [← sin_add_quarters, ← Real.sin_add_pi_div_two]
    congr 1
    push_cast
    ring
  cases cosine with
  | true =>
    have heven : Real.cos ((if n then -1 else 1) * y) = Real.cos y := by cases n <;> simp
    simp only [heven, hcos, if_true, Bool.not_true, Bool.and_false, Bool.bne_false, decide_eq_true_eq]
  | false =>
    have hodd : Real.sin ((if n then -1 else 1) * y) = (if n then -1 else 1) * Real.sin y := by cases n <;> simp
    simp only [hodd, hsin, Bool.false_eq_true, if_false, add_zero, Bool.not_false, Bool.and_true]
    by_cases h : 2 ≤ k % 4 <;> cases n <;> simp [h]

theorem signed_neg_iff (neg : Bool) {y : ℝ} (hy : 0 < y) : neg = true ↔ (if neg then -1 else 1) * y < 0 := by
  cases neg <;> simp [hy, hy.le]

theorem two_pow_errorBits (k : Nat) :
    (if k = 0 then (2 : Int) ^ 13 else ((2 ^ (k.log2 + 14) : Nat) : Int)) = ((2 ^ errorBits k : Nat) : Int) := by
  rw [errorBits]
  split <;> rfl

/-- 06 R130: the sine or cosine of a datum that is not 0. -/
theorem trigF_withinUlps (hf : f.Sound) (hb1 : 1 ≤ b) (hb2 : b ≤ 2) (hexp : f.bias ≤ 971 + f.m) (cosine : Bool) {n : Bool}
    {m : Nat}
    {e : Int} (hm : m ≠ 0) (hh : f.Holds m e) (pick : Nat) :
    WithinUlps f b (if cosine then Real.cos (numOf (.fin n m e) : ℚ) else Real.sin (numOf (.fin n m e) : ℚ))
      (trigF f b cosine n m e pick) := by
  have hemin : f.emin = 1 - f.bias := rfl
  have hfm := hf.frac_le
  have hbias := hf.bias_le
  have he : e ≤ 974 := by
    have hbelow := hh.below hm
    rcases hh.normal with h | h
    · omega
    · have := (Nat.le_log2 hm).mpr h
      omega
  have hm53 : m < 2 ^ 53 := hh.lt.trans_le (Nat.pow_le_pow_right two_pos (by omega))
  have hx := roundAt_unit (m := m) (e := e) (q := -(1500 : Nat)) (by push_cast; have := hh.least; omega)
  rw [zpow_neg, div_inv_eq_mul, zpow_natCast] at hx
  rw [trigF, two_pow_errorBits, cast_numOf_fin, trig_of_quarters cosine n _ ((roundAt 1 false m e (-(1500 : Nat)) false).1 / halfPi 1500)]
  generalize (roundAt 1 false m e (-(1500 : Nat)) false).1 = x at *
  have hencloses := encloses_trig (b := b) hf hb2 (q := (x / halfPi 1500 + if cosine then 1 else 0) % 4) hx
      (Nat.pos_of_ne_zero hm) hm53 he
    (cosine := cosine) (fun hk hc => by rw [hk, hc]; rfl)
  have hpos := hencloses.pos
  refine within_withinUlps hf hb1 hb2 (signed_neg_iff _ hpos) ?_ pick
  rw [abs_signed, abs_of_pos hpos]
  exact hencloses

/-- 06 R130, R131: the sine of a datum that is not 0. -/
theorem sinF_finite (hf : f.Sound) (hb1 : 1 ≤ b) (hb2 : b ≤ 2) (hexp : f.bias ≤ 971 + f.m) {n : Bool} {a m : Nat} {e : Int}
    (hm : m ≠ 0) (ha : decodeF f a = .fin n m e) (pick : Nat) :
    WithinUlps f b (Real.sin (numOf (.fin n m e) : ℚ)) (sinF f b a pick) := by
  have h := trigF_withinUlps hf hb1 hb2 hexp false (n := n) hm (holds_of_decodeF hf ha) pick
  rw [sinF, ha]
  simpa only [if_neg hm, Bool.false_eq_true, if_false] using h

theorem cosF_finite (hf : f.Sound) (hb1 : 1 ≤ b) (hb2 : b ≤ 2) (hexp : f.bias ≤ 971 + f.m) {n : Bool} {a m : Nat} {e : Int}
    (hm : m ≠ 0) (ha : decodeF f a = .fin n m e) (pick : Nat) :
    WithinUlps f b (Real.cos (numOf (.fin n m e) : ℚ)) (cosF f b a pick) := by
  have h := trigF_withinUlps hf hb1 hb2 hexp true (n := n) hm (holds_of_decodeF hf ha) pick
  rw [cosF, ha]
  simpa only [if_neg hm, if_true] using h

end Sys2Proof.Machine

end

section

namespace Sys2Proof.Machine

/-! ## The functions of bounded accuracy (06 R130, R131) -/

section

variable {f : Fmt} {b x pick : Nat}

theorem exists_fin_of_finite {v : FVal} (h : finite v = true) : ∃ n m e, v = .fin n m e := by
  cases v with
  | nan s => cases h
  | inf n => cases h
  | fin n m e => exact ⟨n, m, e, rfl⟩

/-- A positive datum. -/
theorem eq_fin_of_pos {v : FVal} (h : finite v = true) (hpos : 0 < ((numOf v : ℚ) : ℝ)) :
    ∃ m e, m ≠ 0 ∧ v = .fin false m e ∧ ((numOf v : ℚ) : ℝ) = m * 2 ^ e := by
  obtain ⟨n, m, e, rfl⟩ := exists_fin_of_finite h
  have hm : m ≠ 0 := fun hm => by
    rw [numOf_fin_eq_zero.mpr hm, Rat.cast_zero] at hpos
    exact lt_irrefl _ hpos
  have hn : n = false := Bool.eq_false_iff.mpr fun hn => ((cast_numOf_fin_neg_iff hm).mp hn).not_gt hpos
  subst hn
  exact ⟨m, e, hm, rfl, by rw [cast_numOf_fin, if_neg Bool.false_ne_true, one_mul]⟩

/-- A negative datum. -/
theorem eq_fin_of_neg {v : FVal} (h : finite v = true) (hneg : ((numOf v : ℚ) : ℝ) < 0) :
    ∃ m e, m ≠ 0 ∧ v = .fin true m e := by
  obtain ⟨n, m, e, rfl⟩ := exists_fin_of_finite h
  have hm : m ≠ 0 := fun hm => by
    rw [numOf_fin_eq_zero.mpr hm, Rat.cast_zero] at hneg
    exact lt_irrefl _ hneg
  rw [(cast_numOf_fin_neg_iff hm).mpr hneg]
  exact ⟨m, e, hm, rfl⟩

theorem functions_nanOf {s : Bool} (h : decodeF f x = .nan s) :
    ∀ r ∈ [rcpF f 1 x pick, rsqF f b x pick, exp2F f b x pick, log2F f b x pick, sinF f b x pick, cosF f b x pick],
      r = (f.nan, flagIf s fINV) := by
  intro r hr
  have hall : [rcpF f 1 x pick, rsqF f b x pick, exp2F f b x pick, log2F f b x pick, sinF f b x pick, cosF f b x pick] =
      List.replicate 6 (f.nan, flagIf s fINV) := by
    rw [rcpF, rsqF, exp2F, log2F, sinF, cosF, h]
    rfl
  exact List.eq_of_mem_replicate (hall ▸ hr)

/-- The pattern of 1. -/
theorem isExact_one (hf : f.Sound) : IsExact f 1 (f.bias * 2 ^ f.m, 0#32) := by
  have hbias : 1 ≤ f.bias := by
    have := hf.frac
    have := hf.frac_le_bias
    omega
  have hidx : f.bias * 2 ^ f.m = (f.bias - 1) * 2 ^ f.m + 2 ^ f.m := by
    rw [← Nat.succ_mul, Nat.succ_eq_add_one, Nat.sub_add_cancel hbias]
  have hmag : (magOf f (f.bias * 2 ^ f.m) : ℝ) = 1 := by
    have hemin : f.emin - f.m + ((f.bias - 1 : Nat) : Int) = -f.m := by
      rw [Fmt.emin]
      omega
    rw [hidx, magOf_index (Nat.pow_le_pow_right two_pos (Nat.le_succ _)) (.inr le_rfl), hemin]
    push_cast
    rw [zpow_neg, zpow_natCast, mul_inv_cancel₀ (by positivity)]
  have hlt : f.bias * 2 ^ f.m < f.infBits := by
    have heb := hf.exp
    rw [Fmt.infBits_eq (by omega)]
    exact Nat.mul_lt_mul_of_pos_right (by omega) (Nat.two_pow_pos _)
  exact ⟨false, f.bias * 2 ^ f.m, hlt, rfl, hmag⟩

theorem functions_zero (hf : f.Sound) {n : Bool} {e : Int} (h : decodeF f x = .fin n 0 e) :
    rcpF f 1 x pick = (f.signed n f.infBits, fDZ) ∧ rsqF f b x pick = (f.signed n f.infBits, fDZ) ∧
      log2F f b x pick = (f.signed true f.infBits, fDZ) ∧ sinF f b x pick = (f.signed n 0, 0#32) ∧
      IsExact f 1 (cosF f b x pick) := by
  rw [rcpF, rsqF, log2F, sinF, cosF, h]
  exact ⟨rfl, rfl, rfl, rfl, isExact_one hf⟩

theorem functions_inf {n : Bool} (h : decodeF f x = .inf n) :
    rcpF f 1 x pick = (f.signed n 0, 0#32) ∧ exp2F f b x pick = (if n then 0 else f.infBits, 0#32) ∧
      sinF f b x pick = (f.nan, fINV) ∧ cosF f b x pick = (f.nan, fINV) := by
  rw [rcpF, exp2F, sinF, cosF, h]
  cases n <;> exact ⟨rfl, rfl, rfl, rfl⟩

theorem functions_posInf (h : decodeF f x = .inf false) : rsqF f b x pick = (0, 0#32) ∧
    log2F f b x pick = (f.infBits, 0#32) := by
  rw [rsqF, log2F, h]
  exact ⟨rfl, rfl⟩

theorem functions_negative (h : decodeF f x = .inf true ∨ ∃ m e, m ≠ 0 ∧ decodeF f x = .fin true m e) :
    rsqF f b x pick = (f.nan, fINV) ∧ log2F f b x pick = (f.nan, fINV) := by
  rcases h with h | ⟨m, e, hm, h⟩
  · rw [rsqF, log2F, h]
    exact ⟨rfl, rfl⟩
  · rw [rsqF, log2F, h]
    exact ⟨by simp only [if_neg hm, if_true], by simp only [if_neg hm, if_true]⟩

end

theorem ulpBound_spec (t : ETy) : 1 ≤ ulpBound t ∧ ulpBound t ≤ 2 := by cases t <;> decide

/-- The integers that are logarithms of a format's data are among its significands. -/
theorem Fmt.of_range (t : ETy) : (Fmt.of t).bias + (Fmt.of t).m ≤ 2 ^ ((Fmt.of t).m + 1) := by cases t <;> decide

theorem Fmt.of_exponent (t : ETy) : (Fmt.of t).bias ≤ 971 + (Fmt.of t).m := by cases t <;> decide

/-- Settles O27: special data by their cases, an exact result by its significand, and any other by an interval so narrow
that `within` leaves the bound to choose from. -/
theorem vectorFunctionsComplete : Obligations.VectorFunctionsComplete := by
  unfold Obligations.VectorFunctionsComplete
  refine ⟨fun s p d a _ => ?_, ?_⟩
  · exact ⟨gives_vec1 (exec_vrcp ..) rfl rfl fun _ => rfl, gives_vec1 (exec_vrsq ..) rfl rfl fun _ => rfl,
      gives_vec1 (exec_vexp2 ..) rfl rfl fun _ => rfl, gives_vec1 (exec_vlog2 ..) rfl rfl fun _ => rfl,
      gives_vec1 (exec_vsin ..) rfl rfl fun _ => rfl, gives_vec1 (exec_vcos ..) rfl rfl fun _ => rfl⟩
  intro t x pick _ _ f v y neg b inf rcp rsq exp2 log2 sin cos zero plus minus
  have hf : f.Sound := Fmt.of_sound t
  obtain ⟨hb1, hb2⟩ := ulpBound_spec t
  refine ⟨rfl, ?_, ?_, fun n hn => functions_inf hn, functions_posInf, ?_, ?_, ?_, ?_⟩
  · rintro r hr ⟨s, hs⟩
    have hv : decodeF f x = .nan s := (List.mem_singleton.mp hs).symm
    rw [functions_nanOf hv r hr, show v = .nan s from hv]
    exact nanOf_singleton f s
  · rintro ⟨hfin, hzero⟩
    obtain ⟨n, m, e, hv⟩ := exists_fin_of_finite hfin
    have hm : m = 0 := by
      rw [← numOf_fin_eq_zero (neg := n) (e := e), ← hv]
      exact Rat.cast_eq_zero.mp hzero
    rw [hm] at hv
    have hneg : neg = n := congrArg negOf hv
    rw [hneg]
    exact functions_zero hf hv
  · rintro (h | ⟨hfin, hlt⟩)
    · exact functions_negative (.inl h)
    · exact functions_negative (.inr (eq_fin_of_neg hfin hlt))
  · intro hfin
    obtain ⟨n, m, e, hv⟩ := exists_fin_of_finite hfin
    have h := exp2F_finite hf hb1 hb2 hv pick
    rwa [← show v = .fin n m e from hv] at h
  · intro hfin hne
    obtain ⟨n, m, e, hv⟩ := exists_fin_of_finite hfin
    have hm : m ≠ 0 := fun hm => hne (by
      show ((numOf v : ℚ) : ℝ) = 0
      rw [hv, numOf_fin_eq_zero.mpr hm, Rat.cast_zero])
    have hrcp := rcpF_finite hf hm hv pick
    have hsin := sinF_finite hf hb1 hb2 (Fmt.of_exponent t) hm hv pick
    have hcos := cosF_finite hf hb1 hb2 (Fmt.of_exponent t) hm hv pick
    rw [← show v = .fin n m e from hv] at hrcp hsin hcos
    exact ⟨hrcp, .inr hsin, .inr hcos⟩
  · rintro ⟨hfin, hpos⟩
    obtain ⟨m, e, hm, hv, hval⟩ := eq_fin_of_pos hfin hpos
    have hrsq := rsqF_finite hf hb1 hb2 hm hv pick
    have hlog2 := log2F_finite hf hb1 hb2 (Fmt.of_range t) hm hv pick
    rw [← hval] at hrsq hlog2
    exact ⟨hrsq, hlog2⟩

end Sys2Proof.Machine

end
